-- ==== Sys2Proof/Word.lean ====
section
/-! DEFINITION. Words, bytes and the index types of the part's units (spec/00_scope.md, Table 0.4; spec/01_levels_and_package.md, Table 1.1), and the one sparse container the state is made of. -/

namespace Sys2Proof

/-- A byte (R3: every multi-byte field is little-endian). -/
abbrev Byte := BitVec 8
/-- A 32-bit word: an FP32 code, a sync counter, a scalar register. -/
abbrev W32 := BitVec 32
/-- A 64-bit word. -/
abbrev W64 := BitVec 64

/-- A PCIe function: 0 is PF0, 1 to 15 the VFs (R344). -/
abbrev Fn := Fin 16
/-- A mailbox of a function's page (Table 15.1). -/
abbrev Mb := Fin 16
/-- A logical core CORE_000 to CORE_255 (Table 0.4). -/
abbrev CoreIx := Fin 256
/-- A cluster CLUSTER_00 to CLUSTER_15. -/
abbrev ClusterIx := Fin 16
/-- A core clock domain (R364): 0 to 255 of the slots that hold CORE_n, 256 + cl of the slot of CLUSTER_cl that holds no logical core. -/
abbrev ClockIx := Fin 272
/-- A compute die DIE_0 to DIE_3. -/
abbrev DieIx := Fin 4
/-- A stack as Table 15.17 numbers them: 0 to 7 FSTACK, 8 to 19 PSTACK. -/
abbrev StackIx := Fin 20
/-- An optical port PORT_0 to PORT_3. -/
abbrev PortIx := Fin 4
/-- A spoke S0 to S4 of a port (Table 11.1). -/
abbrev SpokeIx := Fin 5
/-- A codec engine: 0 to 3 decoders, 4 and 5 encoders (R292). -/
abbrev CodecIx := Fin 6
/-- A stem engine STEM_0 to STEM_3. -/
abbrev StemIx := Fin 4

/-- A sparse table: keys strictly rise and no entry equals the table's default (Machine/Tab.lean keeps the form). -/
abbrev Tab (α : Type) := List (Nat × α)

/-- What the stack code finds when a grain is read (R169): nothing wrong, some symbols corrected, or uncorrectable. -/
inductive GrainOutcome where
  | clean
  | corrected (symbols : Nat)
  | uncorrectable
  deriving DecidableEq, Repr, Inhabited

/-- A stored symbol that reads wrong (R168): the burst, the lane (32 to 35 hold check symbols), and the beats that flip. -/
structure SymbolError where
  burst : Fin 8
  lane : Fin 36
  beats : Byte
  deriving DecidableEq, Repr, Inhabited

/-- A die-link word of a grain that arrives wrong (R170): its place in the grain, the bits that flip, and those that flip when it is sent again. -/
structure LinkWord where
  index : Fin 32
  flips : BitVec 80
  again : BitVec 80
  deriving DecidableEq, Repr, Inhabited

/-- What a grain meets on its way from its stack to a consumer: errors in its symbols, and in its words on the die links. -/
structure GrainErrors where
  symbols : List SymbolError := []
  words : List LinkWord := []
  deriving DecidableEq, Repr, Inhabited

/-- The on-die arrays (R170), of which the rows of the first four wear (R414), and, last, the die links, whose words are the hub record's as well (R410). -/
inductive SramArray where
  | scratchpad
  | accumulator
  | clusterCache
  | hub
  | syncCounters
  | translation
  | dieLink
  deriving DecidableEq, Repr, Inhabited

/-- How a residue check of the collective adders came out over one frame (R268): recovered mismatches, or a second one. -/
inductive ResidueOutcome where
  | ok
  | recovered (mismatches : Nat)
  | failed
  deriving DecidableEq, Repr, Inhabited

/-- The channels that hold descriptor queues with fences (R105): pannier movers, host copy engine, collective engine. -/
inductive ChannelIx where
  | pannier
  | hostCopy
  | collective
  deriving DecidableEq, Repr, Inhabited

/-- How a host request can fail (R355), in the order of its DETAIL codes 0x0110 to 0x0113. -/
inductive HostError where
  | unsupportedRequest
  | completerAbort
  | poisoned
  | timeout
  deriving DecidableEq, Repr, Inhabited

/-- Registers of a function's configuration space that the spec names (R344 to R346, R353). -/
inductive ConfigReg where
  /-- Device ID. -/
  | deviceId
  /-- Revision ID and Class Code. -/
  | classCode
  | interruptPin
  /-- BAR0 to BAR5. -/
  | bar (k : Fin 6)
  /-- VF BAR0 to VF BAR5 of the SR-IOV capability. -/
  | vfBar (k : Fin 6)
  /-- VF Enable, VF Memory Space Enable and NumVFs. -/
  | sriovControl
  /-- TotalVFs, First VF Offset and VF Stride. -/
  | sriovLayout
  /-- Command: Memory Space Enable and Bus Master Enable. -/
  | command
  | deviceCapabilities
  | deviceCapabilities2
  | deviceControl
  | deviceControl2
  | linkCapabilities
  | linkControl
  /-- MSI-X Message Control: Table Size, Function Mask and MSI-X Enable. -/
  | msixControl
  /-- AER: Uncorrectable Error Status, Mask and Severity, and Correctable Error Status and Mask. -/
  | aerStatus
  | aerMask
  | aerSeverity
  | aerCorrectable
  | aerCorrectableMask
  /-- AER Capabilities and Control: First Error Pointer and the ECRC enables. -/
  | aerControl
  | resizableBar
  | vfResizableBar
  /-- Power management: the D-state and No_Soft_Reset. -/
  | powerControl
  /-- A register of a capability the device does not have. -/
  | absent (id : Nat)
  deriving DecidableEq, Repr, Inhabited

/-- Where a host's register request goes: an offset of BAR0, or a register of configuration space. -/
inductive RegPlace where
  | bar0 (offset : Nat)
  | config (r : ConfigReg)
  deriving DecidableEq, Repr, Inhabited

/-- An MCTP message over PCIe VDM (R362): the function it is addressed to, and the bytes of the largest of its packets. -/
structure Vdm where
  to_ : Fn
  unit : Nat
  deriving DecidableEq, Repr, Inhabited

/-- How a management message arrives (R363, R406). -/
inductive MgmtPath where
  | i3c
  | vdm (v : Vdm)
  deriving DecidableEq, Repr, Inhabited

/-- A received frame's header (Table 11.2), the fields its type uses. -/
structure FrameHdr where
  frameSeq : BitVec 16
  ackSeq : BitVec 16
  creditCtrl : BitVec 7
  creditData : BitVec 12
  phase : BitVec 3
  dim : Bool
  half : Bool
  pelotonId : W32
  epoch : W32
  opSeq : W32
  offset : W32
  digest : W32
  deriving DecidableEq, Repr, Inhabited

/-- What a JOIN carries, and the JOIN_ACK that answers it (R260): shape, sizes, the sender's position and device ID, the ring (true: Y), and the direction it was sent in (true: to the previous member). -/
structure JoinInfo where
  grid : Bool
  sizeX : BitVec 16
  sizeY : BitVec 16
  posX : BitVec 16
  posY : BitVec 16
  id : BitVec 20
  ringY : Bool
  toPrev : Bool
  deriving DecidableEq, Repr, Inhabited

/-- What an ABORT carries beside its header (R273): the reason and the member it names. -/
structure AbortInfo where
  reason : BitVec 8
  id : BitVec 20
  x : BitVec 16
  y : BitVec 16
  deriving DecidableEq, Repr, Inhabited

/-- Samples of a 4:2:0 picture (R289): luma in rows of `width`, chroma in rows of Cb, Cr pairs, as codes. -/
structure Picture where
  width : Nat := 0
  height : Nat := 0
  luma : List Nat := []
  chroma : List Nat := []
  deriving DecidableEq, Repr, Inhabited

/-- Profiles a stream can declare, those Table 13.1 names and the others of each coding (R287, R288). -/
inductive Profile where
  | hevcMain
  | hevcMain10
  | hevcMainStill
  | hevcOther
  | av1Main
  | av1High
  | av1Professional
  | avcBaseline
  | avcConstrainedBaseline
  | avcMain
  | avcHigh
  | avcOther
  deriving DecidableEq, Repr, Inhabited

/-- Tools of a stream that R288 names as not supported. -/
inductive Tool where
  | rangeExtension
  | screenContent
  | scalable
  | multiview
  | threeD
  | largeScaleTile
  | fieldPictures
  | mbaff
  | fmo
  | aso
  | redundantSlices
  deriving DecidableEq, Repr, Inhabited

/-- What the headers of an access unit say (R287, R288, R296): profile, level (61: 6.1), bit depth, the tools its frames need, the surfaces and picture size its sequence header asks for, and the pictures decoded before that it references. -/
structure UnitHead where
  profile : Profile
  level : Nat
  bits : Nat
  tools : List Tool
  surfaces : Nat
  width : Nat
  height : Nat
  refs : List Nat
  deriving DecidableEq, Repr, Inhabited

/-- A picture a decoder makes of an access unit: its samples, which of them lie in damaged blocks, the pictures it references (by their place in decoding order over the stream), whether it is a key picture or a recovery point (R304), and, if it is to be output, its place in output order (HEVC: PicOrderCnt). -/
structure DecodedPicture where
  picture : Picture
  mono : Bool
  lumaHurt : List Nat
  chromaHurt : List Nat
  refs : List Nat
  clean : Bool
  order : Option (BitVec 64)
  deriving DecidableEq, Repr, Inhabited

/-- What the coding's specification makes of one access unit after the units before it (R296, R297, R304). -/
structure DecodedUnit where
  /-- The engine's state after it, and what it leaves in the work area (R293, R295). -/
  state : List Byte
  work : List Byte
  /-- 0 none, 1 SYNTAX, 2 TRUNCATED, 3 MISSING_REFERENCE. -/
  flaw : Fin 4
  pictures : List DecodedPicture
  /-- Pictures the stream may still reference. -/
  keeps : List Nat
  /-- Pictures the stream outputs now, in output order. -/
  outputs : List Nat
  deriving DecidableEq, Repr, Inhabited

/-- A motion vector, in the samples of its search stage (Table 13.6a); of a coded block, in eighths of a luma sample. -/
structure MV where
  x : Int
  y : Int
  deriving DecidableEq, Repr, Inhabited

/-- The vector found for a block of a picture on one reference (R302). -/
structure BlockVector where
  x : Nat
  y : Nat
  size : Nat
  ref : Nat
  v : MV
  deriving DecidableEq, Repr, Inhabited

/-- Picture types of an encoder (R298, R303). -/
inductive PicKind where
  | i
  | p
  | b
  deriving DecidableEq, Repr, Inhabited

/-- What an encoder is to do with one frame (R300, R301, R303). -/
structure EncodePlan where
  key : Bool
  /-- Intra columns from `lo` to `hi` - 1. -/
  lo : Nat
  hi : Nat
  /-- Blocks in columns below this one are predicted only from samples below it (R301); 0 outside a sweep. -/
  bound : Nat
  /-- First frame of a sweep: HEVC's recovery-point SEI with this recovery_poc_cnt, or AV1's repeated sequence header (R301). -/
  recovery : Option Nat
  repeatHeader : Bool
  /-- HRD parameters in the VUI (R303). -/
  hrd : Bool
  targetKbps : Nat
  maxKbps : Nat
  last : Bool
  deriving DecidableEq, Repr, Inhabited

/-- What an encoder makes of one frame at one QP: its bytes, its reconstruction, and the rest of the engine's state after it. -/
structure CodedPicture where
  bytes : List Byte
  recon : Picture
  rest : List Byte
  deriving DecidableEq, Repr, Inhabited

/-- What of the start-up zero fill has ended (R381): the fast tier, or so many pannier frames from frame 0 on. -/
inductive FillDone where
  | fast
  | pannier (frames : Nat)
  deriving DecidableEq, Repr

/-- The two tiers of device memory (R155). -/
inductive Tier where
  | fast
  | pannier
  deriving DecidableEq, Repr, Inhabited

/-- The reset levels (R377): power-on contains system, system contains core. -/
inductive ResetLevel where
  | core
  | system
  | powerOn
  deriving DecidableEq, Repr, Inhabited

/-- A condition that lets a port leave a bring-up state (Table 11.4), for the spokes named in the mask. -/
inductive BringUp where
  | lightReceived
  | ringsLocked
  | fecLocked
  | negAcknowledged
  | masksAgree
  | feedLost
  deriving DecidableEq, Repr, Inhabited

end Sys2Proof
end

