-- ==== Sys2Proof/Syntax.lean ====
section
/-! DEFINITION. The commands of the block: one constructor per row of spec/opcode_table.json. A mailbox command names the function and the mailbox whose POST the controller takes; its request is read from that mailbox (R328). An event carries what only the outside supplies: the indexes of what it concerns, data, readings, outcomes. -/

namespace Sys2Proof

/-- The rows of spec/opcode_table.json (rule of spec/ in each docstring). -/
inductive Instr where
  /-- IDENTIFY (R340). -/
  | identify (f : Fn) (m : Mb)
  /-- EVENT_RING_SET (R334). -/
  | eventRingSet (f : Fn) (m : Mb)
  /-- GEAR_REQUEST (R366). -/
  | gearRequest (f : Fn) (m : Mb)
  /-- ENVELOPE_SET (R370). -/
  | envelopeSet (f : Fn) (m : Mb)
  /-- RESET_REQUEST (R378). -/
  | resetRequest (f : Fn) (m : Mb)
  /-- SOFTWARE_RESET_START (R378). -/
  | softwareResetStart
  /-- CONTEXT_SET (R240). -/
  | contextSet (f : Fn) (m : Mb)
  /-- CONTEXT_DESTROY (R240). -/
  | contextDestroy (f : Fn) (m : Mb)
  /-- CONTEXT_DESTROY_DONE (R240). -/
  | contextDestroyDone (f : Fn)
  /-- SHARE_SET (R88). -/
  | shareSet (f : Fn) (m : Mb)
  /-- SHARE_CHANGE_APPLIED (R90). -/
  | shareChangeApplied (cl : ClusterIx) (g : Fin 64)
  /-- PREEMPT (R244). -/
  | preempt (f : Fn) (m : Mb)
  /-- PREEMPT_GRACE_EXPIRED (R244). -/
  | preemptGraceExpired (f : Fn) (c : CoreIx)
  /-- SAVE_START (R244). -/
  | saveStart (f : Fn)
  /-- SAVE_DONE (R244). -/
  | saveDone (f : Fn)
  /-- RESTORE (R247). -/
  | restore (f : Fn) (m : Mb)
  /-- RESTORE_DONE (R247). -/
  | restoreDone (f : Fn)
  /-- MAP_SET (R165). -/
  | mapSet (f : Fn) (m : Mb)
  /-- MAP_CHANGE_COMPLETE (R165). -/
  | mapChangeComplete
  /-- RETIRE (R174). -/
  | retire (f : Fn) (m : Mb)
  /-- RETIRE_COMPLETE (R174). -/
  | retireComplete
  /-- PANNIER_FREE (R176). -/
  | pannierFree (f : Fn) (m : Mb)
  /-- MOVER_POST (R177). -/
  | moverPost (f : Fn) (m : Mb)
  /-- HOST_COPY_POST (R354). -/
  | hostCopyPost (f : Fn) (m : Mb)
  /-- QUEUE_RESUME (R178). -/
  | queueResume (f : Fn) (m : Mb)
  /-- SEAL_CREATE (R182). -/
  | sealCreate (f : Fn) (m : Mb)
  /-- SEAL_REMOVE (R182). -/
  | sealRemove (f : Fn) (m : Mb)
  /-- SEAL_REMOVE_COMPLETE (R182). -/
  | sealRemoveComplete (e : Fin 64)
  /-- XLATE_INVALIDATE (R213). -/
  | xlateInvalidate (f : Fn) (m : Mb)
  /-- BLOCK_POST (R242). -/
  | blockPost (f : Fn) (m : Mb)
  /-- BLOCK_CANCEL (R340). -/
  | blockCancel (f : Fn) (m : Mb)
  /-- STEM_POST (R308). -/
  | stemPost (f : Fn) (m : Mb)
  /-- STEM_RESUME (R324). -/
  | stemResume (f : Fn) (m : Mb)
  /-- FRAME_TABLE_PLACE (R214). -/
  | frameTablePlace (f : Fn) (m : Mb)
  /-- PAGE_SETUP (R217). -/
  | pageSetup (f : Fn) (m : Mb)
  /-- GEOMETRY_SET (R209). -/
  | geometrySet (f : Fn) (m : Mb)
  /-- WATER_SET (R224). -/
  | waterSet (f : Fn) (m : Mb)
  /-- FRAME_GRANT (R215). -/
  | frameGrant (f : Fn) (m : Mb)
  /-- FRAME_SCRUB (R228). -/
  | frameScrub (f : Fn) (m : Mb)
  /-- FRAME_SCRUB_DONE (R228). -/
  | frameScrubDone
  /-- PAGE_REENABLE (R229). -/
  | pageReenable (f : Fn) (m : Mb)
  /-- PAGE_REENABLE_DONE (R229). -/
  | pageReenableDone (f : Fn)
  /-- SEQ_CREATE (R232). -/
  | seqCreate (f : Fn) (m : Mb)
  /-- SEQ_SET (R231). -/
  | seqSet (f : Fn) (m : Mb)
  /-- SEQ_PARK (R231). -/
  | seqPark (f : Fn) (m : Mb)
  /-- SEQ_RESUME (R231). -/
  | seqResume (f : Fn) (m : Mb)
  /-- SEQ_RETIRE (R231). -/
  | seqRetire (f : Fn) (m : Mb)
  /-- PAGE_SHARE (R220). -/
  | pageShare (f : Fn) (m : Mb)
  /-- PAGE_RELEASE (R221). -/
  | pageRelease (f : Fn) (m : Mb)
  /-- LIST_OPEN (R233). -/
  | listOpen (f : Fn) (m : Mb)
  /-- LIST_BUILT (R235). -/
  | listBuilt (f : Fn)
  /-- LIST_RELEASED (R238). -/
  | listReleased (f : Fn)
  /-- LIST_CLOSE (R238). -/
  | listClose (f : Fn) (m : Mb)
  /-- LIST_RETIRED (R238). -/
  | listRetired (f : Fn)
  /-- COW_COPY_DONE (R219). -/
  | cowCopyDone (f : Fn)
  /-- SPILL_START (R224). -/
  | spillStart (f : Fn)
  /-- SPILL_COPY_DONE (R224). -/
  | spillCopyDone (f : Fn)
  /-- PREFETCH_COPY_DONE (R225). -/
  | prefetchCopyDone (f : Fn)
  /-- INVALIDATION_ACKED (R213). -/
  | invalidationAcked (f : Fn)
  /-- CADDY_LOAD (R151). -/
  | caddyLoad (f : Fn) (m : Mb)
  /-- CADDY_SHADOW_PENDING (R151). -/
  | caddyShadowPending (f : Fn)
  /-- CODE_TABLE_LOAD (R193). -/
  | codeTableLoad (f : Fn) (m : Mb)
  /-- CODE_TABLE_IN_FORCE (R193). -/
  | codeTableInForce (f : Fn)
  /-- PORT_CONTROL (R255). -/
  | portControl (f : Fn) (m : Mb)
  /-- DEVICE_ID_SET (R255). -/
  | deviceIdSet (f : Fn) (m : Mb)
  /-- PELOTON_FORM (R260). -/
  | pelotonForm (f : Fn) (m : Mb)
  /-- PELOTON_REFORM (R261). -/
  | pelotonReform (f : Fn) (m : Mb)
  /-- PELOTON_DISSOLVE (R261). -/
  | pelotonDissolve (f : Fn) (m : Mb)
  /-- COLL_POST (R263). -/
  | collPost (f : Fn) (m : Mb)
  /-- CODEC_QUOTA (R291). -/
  | codecQuota (f : Fn) (m : Mb)
  /-- CODEC_OPEN (R291). -/
  | codecOpen (f : Fn) (m : Mb)
  /-- CODEC_CLOSE (R291). -/
  | codecClose (f : Fn) (m : Mb)
  /-- CODEC_CONTEXT_FREED (R291). -/
  | codecContextFreed (e : CodecIx) (x : Fin 64)
  /-- CODEC_POST (R294). -/
  | codecPost (f : Fn) (m : Mb)
  /-- SURFACE_RELEASE (R296). -/
  | surfaceRelease (f : Fn) (m : Mb)
  /-- RECORD_READ (R340). -/
  | recordRead (f : Fn) (m : Mb)
  /-- RECORD_CLEAR (R340). -/
  | recordClear (f : Fn) (m : Mb)
  /-- MEASUREMENT_READ (R405). -/
  | measurementRead (f : Fn) (m : Mb)
  /-- QUOTE (R406). -/
  | quote (f : Fn) (m : Mb)
  /-- CERTIFICATE_READ (R406). -/
  | certificateRead (f : Fn) (m : Mb)
  /-- LIFECYCLE_ADVANCE (R394). -/
  | lifecycleAdvance (f : Fn) (m : Mb)
  /-- STEEP_REQUEST (R417). -/
  | steepRequest (f : Fn) (m : Mb)
  /-- SPARE_SWAP (R20). -/
  | spareSwap (f : Fn) (m : Mb)
  /-- FIRMWARE_UPDATE (R402). -/
  | firmwareUpdate (f : Fn) (m : Mb)
  /-- LOG_READ (R340). -/
  | logRead (f : Fn) (m : Mb)
  /-- UNLISTED_COMMAND (R332). -/
  | unlistedCommand (f : Fn) (m : Mb)
  /-- EVQ_HEAD_WRITE (R334). -/
  | evqHeadWrite (f : Fn) (head : BitVec 16)
  /-- EVENT_BACKLOG_DRAIN (R336). -/
  | eventBacklogDrain (f : Fn)
  /-- EVENT_MODERATION_TIMER (R337). -/
  | eventModerationTimer (f : Fn)
  /-- MSIX_MASK_CLEAR (R353). -/
  | msixMaskClear (f : Fn) (v : Option (Fin 2048))
  /-- DEVICE_TIME_READ (R349). -/
  | deviceTimeRead (f : Fn) (place : RegPlace) (wide : Bool) (enables : BitVec 8)
  /-- RESET_CAUSE_CLEAR (R409). -/
  | resetCauseClear (v : BitVec 32)
  /-- REGISTER_WRITE (R346). -/
  | registerWrite (f : Fn) (place : RegPlace) (enables : BitVec 8) (data : List Byte)
  /-- BAR2_READ (R352). -/
  | bar2Read (f : Fn) (offset len : Nat) (errors : List GrainErrors)
  /-- BAR2_WRITE (R352). -/
  | bar2Write (f : Fn) (offset : Nat) (data : List Byte) (poisoned : Bool)
  /-- FLR (R357). -/
  | flr (f : Fn)
  /-- FLR_BLOCK_LIMIT (R357). -/
  | flrBlockLimit (f : Fn) (c : CoreIx)
  /-- FLR_COMPLETE (R357). -/
  | flrComplete (f : Fn)
  /-- D3HOT_ENTER (R356). -/
  | d3hotEnter (f : Fn)
  /-- D0_RETURN (R356). -/
  | d0Return (f : Fn)
  /-- L1_EXIT (R356). -/
  | l1Exit
  /-- HOST_COMPLETION_ERROR (R355). -/
  | hostCompletionError (f : Fn) (k at_ : Nat) (err : HostError)
  /-- PERST_N_ASSERT (R378). -/
  | perstNAssert
  /-- PERST_N_DEASSERT (R361). -/
  | perstNDeassert
  /-- MCTP_SET_ENDPOINT_ID (R362). -/
  | mctpSetEndpointId (v : Vdm) (eid : Byte)
  /-- MCTP_GET_ENDPOINT_ID (R362). -/
  | mctpGetEndpointId (v : Vdm)
  /-- MCTP_GET_VERSION_SUPPORT (R362). -/
  | mctpGetVersionSupport (v : Vdm)
  /-- MCTP_GET_MESSAGE_TYPE_SUPPORT (R362). -/
  | mctpGetMessageTypeSupport (v : Vdm)
  /-- PLDM_MONITORING (R362). -/
  | pldmMonitoring (v : Vdm) (msg : List Byte)
  /-- PLDM_FIRMWARE_UPDATE (R363). -/
  | pldmFirmwareUpdate (path : MgmtPath) (image : List Byte)
  /-- GET_MEASUREMENT (R406). -/
  | getMeasurement (path : MgmtPath) (index : W32)
  /-- GET_QUOTE (R406). -/
  | getQuote (path : MgmtPath) (nonce : List Byte)
  /-- GET_CERTIFICATE (R406). -/
  | getCertificate (path : MgmtPath)
  /-- DEBUG_RESET_REQUEST (R378). -/
  | debugResetRequest (system : Bool)
  /-- DEBUG_UNLOCK (R399). -/
  | debugUnlock (authorisation : List Byte)
  /-- BLOCK_CHOSEN (R243). -/
  | blockChosen (c : CoreIx)
  /-- BLOCK_LOAD (R113). -/
  | blockLoad (c : CoreIx)
  /-- BLOCK_READY (R112). -/
  | blockReady (c : CoreIx)
  /-- BOUND_WAIT_MET (R133). -/
  | boundWaitMet (c : CoreIx)
  /-- BOUND_WAIT_TIMEOUT (R133). -/
  | boundWaitTimeout (c : CoreIx)
  /-- BLOCK_ISSUE (R86). -/
  | blockIssue (c : CoreIx)
  /-- PRODUCT (R45). -/
  | product (c : CoreIx)
  /-- ROTATE_STORE (R118). -/
  | rotateStore (c : CoreIx)
  /-- CONVERT (R119). -/
  | convert (c : CoreIx)
  /-- ELEMWISE (R134). -/
  | elemwise (c : CoreIx)
  /-- FORMAT (R134). -/
  | format (c : CoreIx)
  /-- REDUCE (R137). -/
  | reduce (c : CoreIx)
  /-- ROWSTAT (R140). -/
  | rowstat (c : CoreIx)
  /-- WINDOW (R144). -/
  | window (c : CoreIx)
  /-- FUNC (R146). -/
  | func (c : CoreIx)
  /-- LOOKUP (R149). -/
  | lookup (c : CoreIx)
  /-- SWAP (R151). -/
  | swap (c : CoreIx)
  /-- FETCH (R91). -/
  | fetch (c : CoreIx)
  /-- STORE (R91). -/
  | store (c : CoreIx)
  /-- ADD (R101). -/
  | add (c : CoreIx)
  /-- WAIT_GE (R102). -/
  | waitGe (c : CoreIx)
  /-- REGOP (R122). -/
  | regop (c : CoreIx)
  /-- LOADREG (R122). -/
  | loadreg (c : CoreIx)
  /-- SETFLAG (R122). -/
  | setflag (c : CoreIx)
  /-- OPERATION_RESULT_WRITTEN (R85). -/
  | operationResultWritten (c : CoreIx)
  /-- QUANT_CLIP_STOP_END (R74). -/
  | quantClipStopEnd (c : CoreIx)
  /-- TRANSLATION_WALK_DONE (R213). -/
  | translationWalkDone (c : CoreIx) (d g : Nat)
  /-- FETCH_GRAIN_LANDED (R91). -/
  | fetchGrainLanded (c : CoreIx) (d g : Nat) (o : GrainErrors)
  /-- STORE_GRAIN_VISIBLE (R91). -/
  | storeGrainVisible (c : CoreIx) (d g : Nat)
  /-- RELEASE_ADD_APPLIED (R102). -/
  | releaseAddApplied (c : CoreIx)
  /-- SLIP_RESUME (R95). -/
  | slipResume (c : CoreIx)
  /-- WALL_LIMIT_EXPIRED (R98). -/
  | wallLimitExpired (c : CoreIx)
  /-- BLOCK_BOUNDARY (R86). -/
  | blockBoundary (c : CoreIx)
  /-- LATE_GRAIN_FAULT (R86). -/
  | lateGrainFault (c : CoreIx) (d g : Nat) (o : GrainErrors)
  /-- BLOCK_COMPLETION_ENTRY (R338). -/
  | blockCompletionEntry (c : CoreIx)
  /-- SPARE_SWAP_APPLIED (R20). -/
  | spareSwapApplied (c : CoreIx)
  /-- GEAR_CHANGE_DONE (R367). -/
  | gearChangeDone (c : ClockIx)
  /-- FREEWHEEL_ENTER (R368). -/
  | freewheelEnter (c : ClockIx)
  /-- ADMISSION_WINDOW (R369). -/
  | admissionWindow (d : DieIx)
  /-- CORE_WAKE_DONE (R368). -/
  | coreWakeDone (c : ClockIx)
  /-- KETTLE_SAMPLE (R370): powers in milliwatts, the currents of the twelve rails in sixteenths of an ampere, temperatures in °C. -/
  | kettleSample (packageMw : Nat) (dieMw rails16 stackC junctionC : List Nat)
  /-- THERMAL_CAP_REMINDER (R374). -/
  | thermalCapReminder
  /-- THERMTRIP (R373). -/
  | thermtrip (stackC junctionC : List Nat)
  /-- BRAKE_N_INPUT (R430). -/
  | brakeNInput (low : Bool)
  /-- AVS_SETPOINT_REACHED (R426). -/
  | avsSetpointReached (d : DieIx)
  /-- AVS_RETRY (R426). -/
  | avsRetry (d : DieIx) (reportedMv : Nat)
  /-- SNAPSHOT_REFRESH (R351). -/
  | snapshotRefresh
  /-- CADENCE_FRAME (R89). -/
  | cadenceFrame
  /-- SCRUB_GRAIN (R171). -/
  | scrubGrain (addr : Nat) (errors : List SymbolError)
  /-- SRAM_ROW_REPAIR (R414). -/
  | sramRowRepair (unit : Fin 17) (a : SramArray) (slot : Fin 17) (row addr from_ : Nat) (flips : BitVec 80)
  /-- DIE_LINK_LANE_FAIL (R23). -/
  | dieLinkLaneFail (link : Fin 8) (group : Fin 4) (lane : Fin 264)
  /-- MOVER_DESCRIPTOR_START (R178). -/
  | moverDescriptorStart (ch : ChannelIx) (f : Fn)
  /-- MOVER_DESCRIPTOR_DONE (R178). -/
  | moverDescriptorDone (ch : ChannelIx) (f : Fn)
  /-- FENCE_COMPLETE (R107). -/
  | fenceComplete (ch : ChannelIx) (f : Fn)
  /-- COLLECTIVE_START (R263). -/
  | collectiveStart (f : Fn)
  /-- COLLECTIVE_COMPLETE (R272). -/
  | collectiveComplete (slot : Fin 64)
  /-- COLLECTIVE_TIMEOUT (R273). -/
  | collectiveTimeout (slot : Fin 64)
  /-- IDLE_FRAME (R254). -/
  | idleFrame (p : PortIx) (k : SpokeIx) (h : FrameHdr)
  /-- DATA_FRAME (R253). -/
  | dataFrame (p : PortIx) (k : SpokeIx) (h : FrameHdr) (payload : List Byte) (r : ResidueOutcome)
  /-- HOLD_FRAME (R257). -/
  | holdFrame (p : PortIx) (k : SpokeIx) (h : FrameHdr)
  /-- NEG_FRAME (R255). -/
  | negFrame (p : PortIx) (k : SpokeIx) (h : FrameHdr) (id : BitVec 20) (idValid : Bool) (port : PortIx) (mask : BitVec 5)
  /-- RETRY_FRAME (R252). -/
  | retryFrame (p : PortIx) (k : SpokeIx) (h : FrameHdr) (expected : BitVec 16)
  /-- SWAP_FRAME (R256). -/
  | swapFrame (p : PortIx) (k : SpokeIx) (h : FrameHdr) (failed spare : SpokeIx)
  /-- JOIN_FRAME (R260). -/
  | joinFrame (p : PortIx) (k : SpokeIx) (h : FrameHdr) (j : JoinInfo)
  /-- JOIN_ACK_FRAME (R260). -/
  | joinAckFrame (p : PortIx) (k : SpokeIx) (h : FrameHdr) (j : JoinInfo)
  /-- ABORT_FRAME (R273). -/
  | abortFrame (p : PortIx) (k : SpokeIx) (h : FrameHdr) (a : AbortInfo)
  /-- TOKEN_FRAME (R271). -/
  | tokenFrame (p : PortIx) (k : SpokeIx) (h : FrameHdr) (time : W64)
  /-- FRAME_DISCARDED (R251). -/
  | frameDiscarded (p : PortIx) (k : SpokeIx) (codewords : Nat) (frame : List Byte)
  /-- REORDER_GAP_TIMEOUT (R252). -/
  | reorderGapTimeout (p : PortIx)
  /-- JOIN_REPEAT (R260). -/
  | joinRepeat (slot : Fin 64)
  /-- JOIN_LIMIT_EXPIRED (R260). -/
  | joinLimitExpired (slot : Fin 64)
  /-- SPOKE_LOSS_OF_LIGHT (R254). -/
  | spokeLossOfLight (p : PortIx) (k : SpokeIx)
  /-- SPOKE_SILENT_TIMEOUT (R254). -/
  | spokeSilentTimeout (p : PortIx) (k : SpokeIx)
  /-- SPOKE_ERROR_WINDOW (R254). -/
  | spokeErrorWindow (p : PortIx) (k : SpokeIx) (symbols errors : Nat)
  /-- PORT_DOWN (R254). -/
  | portDown (p : PortIx)
  /-- PORT_BRINGUP_ADVANCE (R255). -/
  | portBringupAdvance (p : PortIx) (b : BringUp) (mask : BitVec 5)
  /-- CODEC_FRAME_START (R295). -/
  | codecFrameStart (e : CodecIx)
  /-- CODEC_FRAME_DONE (R299). -/
  | codecFrameDone (e : CodecIx)
  /-- STEM_DESCRIPTOR_START (R308). -/
  | stemDescriptorStart (e : StemIx)
  /-- STEM_ROW_WAIT_MET (R316). -/
  | stemRowWaitMet (e : StemIx)
  /-- STEM_ROW_DONE (R315). -/
  | stemRowDone (e : StemIx)
  /-- STEM_DESCRIPTOR_DONE (R323). -/
  | stemDescriptorDone (e : StemIx)
  /-- STEM_TIMEOUT (R324). -/
  | stemTimeout (e : StemIx)
  /-- STEEPING_DONE (R416). -/
  | steepingDone (cl : ClusterIx) (patternsPass : Bool) (marginPercent : Nat)
  /-- REQUESTED_STEEPING_DONE (R417). -/
  | requestedSteepingDone (kind : Fin 4) (target result : Nat) (scan : List (Nat × List SymbolError))
  /-- TANDEM_WRITE_START (R390). -/
  | tandemWriteStart
  /-- TANDEM_WRITE_DONE (R390). -/
  | tandemWriteDone (readBackGood : Bool)
  /-- POWER_ON (R378). -/
  | powerOn
  /-- VAO_LOSS (R378). -/
  | vaoLoss
  /-- BROWN_OUT (R378). -/
  | brownOut (rail : Fin 12)
  /-- CLOCK_FAILURE (R365). -/
  | clockFailure
  /-- CLK32K_LOSS (R365). -/
  | clk32kLoss
  /-- CONTROLLER_LOCKUP (R378). -/
  | controllerLockup
  /-- SYSTEM_RESET (R377). -/
  | systemReset
  /-- CORE_RESET (R382). -/
  | coreReset
  /-- RESET_RELEASE_STEP (R381). -/
  | resetReleaseStep
  /-- TRIM_LOAD_DONE (R384). -/
  | trimLoadDone
  /-- TANDEM_READ_DONE (R389). -/
  | tandemReadDone
  /-- ZERO_FILL_DONE (R381). -/
  | zeroFillDone (t : FillDone)
  /-- BOOT_FIRMWARE_VERIFIED (R402). -/
  | bootFirmwareVerified
  /-- ATTESTATION_SETUP (R403). -/
  | attestationSetup
  /-- SVN_RAISE (R402). -/
  | svnRaise
  /-- MAILBOX_POST (R328). -/
  | mailboxPost (f : Fn) (m : Mb) (irq : Bool)
  /-- ASPM_L1_ENTRY (R356). -/
  | aspmL1Entry
  /-- PCIE_LINK_UP (R361). -/
  | pcieLinkUp
  /-- CONFIGURATION_READY (R361). -/
  | configurationReady
  /-- VF_ENABLE (R348). -/
  | vfEnable (num : Fin 16)
  /-- CORE_CHECK_FAULT (R408). -/
  | coreCheckFault (c : CoreIx)
  /-- FRAME_TABLE_PLACED (R214). -/
  | frameTablePlaced
  /-- LIFECYCLE_TRANSITION_DONE (R394). -/
  | lifecycleTransitionDone
  /-- FIRMWARE_UPDATE_DONE (R402). -/
  | firmwareUpdateDone
  /-- QUOTE_SIGNED (R406). -/
  | quoteSigned (f : Fn)
  /-- CERTIFICATE_WRITTEN (R406). -/
  | certificateWritten (f : Fn)
  /-- LOG_READ_DONE (R340). -/
  | logReadDone (f : Fn)
  /-- DETECT_WAIT_MET (R318). -/
  | detectWaitMet (e : StemIx)
  /-- FRAME_SLOT_SENT (R250). -/
  | frameSlotSent (p : PortIx) (k : SpokeIx)
  deriving DecidableEq, Repr

end Sys2Proof
end

