-- ==== Sys2Proof/Machine/StateMemory.lean ====
section
/-! DEFINITION. State of the memory path: device memory, channel groups and extents, mover and host-copy queues, the seal table, the stack error records, the share tables and the sync counters (spec/07_memory_tiers.md, spec/04_core_and_contract.md). -/

namespace Sys2Proof.Machine

/-- Who is to be told when an ACCEPTED command ends: the caller, its command code and its TAG (R339). Two commands of one caller may share code and TAG: `serial` is the model's own number of the command, the answers given before it. -/
structure CmdRef where
  fn : Nat
  code : BitVec 16
  tag : W32
  serial : Nat := 0
  deriving DecidableEq, Repr

/-- Channel-group table entry (Table 7.6); reset: in service, SPREAD, PF0. -/
structure GroupEntry where
  valid : Bool := true
  retired : Bool := false
  spread : Bool := true
  fn : BitVec 4 := 0
  deriving DecidableEq, Repr

/-- Extent table entry (Table 7.7); reset: mapped to PF0's SPREAD domain. -/
structure ExtentEntry where
  valid : Bool := true
  pending : Bool := false
  spread : Bool := true
  die : BitVec 2 := 0
  fn : BitVec 4 := 0
  deriving DecidableEq, Repr

/-- A MAP_SET being carried out (R165): the new entries, and who asked. -/
structure MapChange where
  groups : List GroupEntry
  extents : List ExtentEntry
  cmd : CmdRef
  deriving DecidableEq, Repr

/-- A RETIRE being carried out (R174, R175). `unit` is the fast group, or 16 times the package channel plus the pseudo-channel. -/
structure RetireJob where
  tier : Tier
  unit : Nat
  listAddr : Nat
  cmd : CmdRef
  deriving DecidableEq, Repr

/-- Fill state of a pannier frame (R176). -/
inductive Fill where
  | empty
  | filling (queue : Nat)
  | filled
  deriving DecidableEq, Repr

/-- A descriptor of a mover, host-copy or collective queue, as posted (Tables 7.9, 15.21, 11.8). -/
structure QDesc where
  bytes : List Byte
  ordinal : W32
  started : Bool := false
  startNs : Nat := 0
  /-- Pieces of its source read as it started, by address. -/
  early : List (Nat × List Byte) := []
  deriving DecidableEq, Repr

/-- A queue of one relaxed channel of one function (R177, R262). -/
structure ChanQueue where
  descs : List QDesc := []
  posted : W32 := 0
  halted : Bool := false
  /-- The halt came from an uncorrectable grain, so only PF0 resumes it (R172). -/
  haltedMem : Bool := false
  /-- The last host address the queue has written (R354). -/
  lastHost : Option W64 := none
  deriving DecidableEq, Repr

/-- Seal-table entry (Table 7.11). -/
structure SealEntry where
  base : BitVec 25 := 0
  limit : BitVec 25 := 0
  owner : BitVec 4 := 0
  valid : Bool := false
  deriving DecidableEq, Repr

/-- A seal entry whose zeros are being written; the caller's ring is told, if a command asked (R182). -/
structure SealRemoval where
  entry : Nat
  cmd : Option CmdRef
  deriving DecidableEq, Repr

/-- Stack error record (Table 7.12). -/
structure StackRec where
  correctedSymbols : W32 := 0
  correctedGrains : W32 := 0
  uncorrectableGrains : W32 := 0
  scrubCorrected : W32 := 0
  lastUe : BitVec 41 := 0
  rowsRepaired : BitVec 8 := 0
  lanesRepaired : BitVec 8 := 0
  temperature : BitVec 8 := 0
  refreshDoubled : Bool := false
  failing : Bool := false
  deriving DecidableEq, Repr

/-- The memory path (spec/07_memory_tiers.md). -/
structure MemState where
  /-- Device memory: rising addresses, no listed byte 0 (an unlisted byte reads 0, R381). -/
  cells : List Host.Cell := []
  /-- Numbers (address / 256) of grains known uncorrectable, rising (R169, R172). -/
  ue : List Nat := []
  groups : Tab GroupEntry := []
  extents : Tab ExtentEntry := []
  mapChange : Option MapChange := none
  retires : List RetireJob := []
  /-- Pannier groups retired: 16 times the package channel plus the pseudo-channel (R175). -/
  pannierRetired : List Nat := []
  fill : Tab Fill := []
  movers : Tab ChanQueue := []
  hostq : Tab ChanQueue := []
  seals : Tab SealEntry := []
  /-- A function's XTS key pair, once it is derived (R407): the first key in the low half. -/
  sealKeys : Tab (Option (BitVec 512)) := []
  removals : List SealRemoval := []
  stackRecs : Tab StackRec := []
  /-- Corrected symbols of a row within the scrub pass (R173), at key 2^40 stack + row. -/
  rowErrors : Tab Nat := []
  /-- Bursts read of a pseudo-channel (key 64 stack + pseudo-channel) since its window of 2^20 began, and symbols of a lane corrected in it (36 times that key plus the lane) (R173; log 47). -/
  laneBursts : Tab Nat := []
  laneErrors : Tab Nat := []
  /-- The stacks are in self-refresh (R373). -/
  selfRefresh : Bool := false
  deriving DecidableEq, Repr

/-- An allotted slot group's owner (Table 4.2, KIND = CORE). -/
structure SlotOwner where
  fn : BitVec 4
  core : BitVec 4
  deriving DecidableEq, Repr

/-- A share-table change waiting to be applied (R90). -/
structure ShareChange where
  cluster : Nat
  group : Nat
  owner : Option SlotOwner
  /-- Local core the change waits for, where the entry names one that runs a block; a change of an entry that names none waits for the frame boundary. -/
  waits : List Nat
  deriving DecidableEq, Repr

/-- Share tables and sync counters (R88, R90, R101). -/
structure ShareState where
  /-- Entry of group g of cluster c at key 64c + g; an unlisted allottable group is FREE. -/
  owners : Tab (Option SlotOwner) := []
  waiting : List ShareChange := []
  /-- First slot from which group g of cluster c (key 64c + g) carries grains again after a change of owner (R90). -/
  openFrom : Tab Nat := []
  /-- Cluster counter i of cluster c at key 256c + i. -/
  clusterCtr : Tab W32 := []
  hubCtr : Tab W32 := []
  /-- Words of two counters found uncorrectable: half the counter's key, hub counter i having key 4,096 + i (R170). -/
  ueCtr : List Nat := []
  /-- ADDs made in fabric cycle `addedIn`: cluster, counter field, amount. A WAIT_GE sees them from the next one (R102). -/
  added : List (Nat × Nat × Nat) := []
  addedIn : Nat := 0
  /-- Number of the cadence frame in progress (R87). -/
  frame : Nat := 0
  /-- All four RESERVED groups carry PHY calibration in this frame (R89); frame 0 is one of them. -/
  calibrating : Bool := true
  /-- Dies whose groups 16 and 48 carry refresh in this frame (R89). -/
  hotDies : BitVec 4 := 0
  deriving DecidableEq, Repr

/-- Clocking of a core of a physical core (R364, R366 to R368). Its driver's gear is the logical core's and stays with it. -/
structure CoreClock where
  /-- Gear in force; 0 is freewheel. -/
  gear : BitVec 4 := 0
  driverGear : BitVec 4 := 15
  /-- Gear the change in progress aims at, and the time its clock stop ends. -/
  change : Option (Nat × Nat) := none
  /-- A rise or a wake waits for admission (R369). -/
  waiting : Bool := false
  /-- Gear and end of a wake in progress. -/
  waking : Option (Nat × Nat) := none
  idleSince : Nat := 0
  deriving DecidableEq, Repr

end Sys2Proof.Machine
end

