-- ==== Sys2Proof/Machine/StateController.lean ====
section
/-! DEFINITION. State of the controller and the host link: mailboxes, event rings, MSI-X, function registers, FLR, MCTP, the snapshot page (spec/15_controller_and_mailboxes.md, spec/16_pcie_functions.md). -/

namespace Sys2Proof.Machine

/-- An event entry (Table 15.6) before it is given its PHASE: source, origin, code, tag, payload, time. -/
structure Entry where
  source : BitVec 8
  origin : BitVec 4
  code : BitVec 16
  tag : W32 := 0
  payload : List Byte
  timeNs : Nat
  deriving DecidableEq, Repr

/-- Mailbox page registers and event-ring settings of a function (Table 15.1, R334). -/
structure RingState where
  head : BitVec 16 := 0
  tail : BitVec 16 := 0
  phase : Bool := true
  lost : W32 := 0
  valid : Bool := false
  violations : W32 := 0
  base : W64 := 0
  log2Size : BitVec 5 := 0
  vector : BitVec 11 := 0
  mbVector : BitVec 11 := 0
  modCount : BitVec 8 := 0
  modUs : BitVec 10 := 0
  backlog : List Entry := []
  /-- Entries lost since the last EVENTS_LOST entry (R336). -/
  lostSince : Nat := 0
  /-- The EVENTS_LOST entry due once the backlog has drained after a loss: its count and its time, in nanoseconds; it goes before every entry that arises later (R336). -/
  owed : Option (Nat × Nat) := none
  /-- Entries written since the last message, and the time of the first (R337). -/
  unsignalled : Nat := 0
  firstUnsignalled : Nat := 0
  deriving DecidableEq, Repr

/-- An ACCEPTED command still in progress (R332, R339). -/
structure InProgress where
  cmd : CmdRef
  /-- Function the command names (R342). -/
  names : Nat
  deriving DecidableEq, Repr

/-- A SECURITY or SERVICE command being carried out, with what it needs at its end. -/
inductive ServiceJob where
  /-- `index`: the attestation-key index, once its signing has started. -/
  | quote (nonce : List Byte) (buffer : Nat) (index : Option Nat)
  | certificate (buffer : Nat)
  | logRead (offset buffer size : Nat)
  deriving DecidableEq, Repr

/-- The controller (spec/15). -/
structure CtlState where
  /-- Byte b of mailbox m of function f at key 8192 f + 512 m + b (Table 15.2). -/
  mailbox : List Host.Cell := []
  /-- Posted mailboxes (function, mailbox) in the order their POST writes arrived (R331). -/
  posted : List (Nat × Nat) := []
  /-- Those among them that a core reset has taken the command of: they are answered BUSY (R343). -/
  stale : List (Nat × Nat) := []
  rings : Tab RingState := []
  inProgress : List InProgress := []
  services : List (CmdRef × ServiceJob) := []
  /-- Commands answered so far (the model's own count, which tells commands apart). -/
  served : Nat := 0
  deriving DecidableEq, Repr

/-- Link states (R356, R359, R361). -/
inductive LinkSt where
  | down
  | training
  | l0
  | l1
  deriving DecidableEq, Repr

/-- A vector of the MSI-X table (R353). -/
structure MsixVector where
  address : W64 := 0
  data : W32 := 0
  masked : Bool := true
  pending : Bool := false
  deriving DecidableEq, Repr

/-- An MSI-X message: a posted write of its vector's data to its vector's address (R353). -/
structure Message where
  fn : Nat
  vector : Nat
  address : W64
  data : W32
  deriving DecidableEq, Repr

/-- A function-level reset in progress (R357). -/
structure FlrJob where
  since : Nat
  deriving DecidableEq, Repr

/-- Registers of a function at the host's edge (Table 16.4, R349, R352, R353). -/
structure HostFn where
  flr : Option FlrJob := none
  orphans : Bool := false
  d3hot : Bool := false
  bar2Base : BitVec 41 := 0
  bar2Log2 : Nat := 41
  timeLatch : Option W32 := none
  vectors : Tab MsixVector := []
  functionMask : Bool := false
  /-- MSI-X Enable, and Memory Space Enable, Bus Master Enable, Parity Error Response and SERR# Enable of the Command register (R345); a VF's Memory Space Enable is the SR-IOV capability's. All are clear at reset, as the PCIe specification has it (PRESUMED, log 50). -/
  msixEnable : Bool := false
  command : BitVec 16 := 0
  /-- PF0's BAR0 and BAR2 as configuration space holds them (R346). -/
  bar0 : W64 := 0
  bar2 : W64 := 0
  /-- Device Control and Device Control 2 (R345); their reset values are the PCIe specification's (PRESUMED, log 50). -/
  deviceControl : BitVec 16 := 0x2010
  deviceControl2 : BitVec 16 := 0
  /-- ECRC Generation Enable and ECRC Check Enable (Table 16.1). -/
  ecrcGenerate : Bool := false
  ecrcCheck : Bool := false
  /-- AER: Uncorrectable Error Status, Mask and Severity, the Correctable Error registers, and First Error Pointer (Table 16.1, R352); reset values PRESUMED, log 50. -/
  aerStatus : W32 := 0
  aerMask : W32 := 0
  aerSeverity : W32 := 0x00462030
  aerCorrectable : W32 := 0
  aerCorrectableMask : W32 := 0x2000
  aerFirst : BitVec 5 := 0
  deriving DecidableEq, Repr

/-- What a host request, an MCTP message or a debug request is answered (output). -/
inductive Reply where
  | none
  | data (bytes : List Byte)
  | unsupportedRequest
  | completerAbort
  | retryStatus
  /-- A message in its packets (R362). -/
  | mctp (packets : List (List Byte))
  | pldmCode (code : BitVec 8)
  | refused (status : BitVec 16)
  deriving DecidableEq, Repr

/-- The snapshot page as power-on and system reset leave it: ENVELOPE_W 700, every cap 15 (Table 17.4). -/
def resetSnapshot : List Host.Cell :=
  [(0x44, 0xBC), (0x45, 0x02)] ++ (List.range 4).flatMap (fun d => [(0x58 + 4 * d, 0xFF), (0x59 + 4 * d, 0x0F)]) ++ (List.range 256).map (fun n => (0x90 + n, 0xF0))

/-- The host link (spec/16). -/
structure HostState where
  link : LinkSt := .down
  configReady : Bool := false
  vfsEnabled : BitVec 4 := 0
  fns : Tab HostFn := []
  /-- Host memory the device has written, or the host has prepared for copies (output and input). -/
  memory : List Host.Cell := []
  /-- MSI-X messages sent, newest first (output). -/
  messages : List Message := []
  /-- VF BAR0 and VF BAR2 of the SR-IOV capability (R346). -/
  vfBar0 : W64 := 0
  vfBar2 : W64 := 0
  /-- VF Memory Space Enable of the SR-IOV capability, and Link Control of the link (R345; PRESUMED, log 50). -/
  vfMemory : Bool := false
  linkControl : BitVec 16 := 0
  /-- Functions whose reset by an FLR of PF0 has not begun, in their order (R358). -/
  flrWaiting : List Nat := []
  reply : Reply := .none
  /-- Telemetry snapshot page (R351, Table 17.4): byte b at key b. -/
  snapshot : List Host.Cell := resetSnapshot
  snapSeq : W32 := 0
  endpointId : Byte := 0
  deriving DecidableEq, Repr

end Sys2Proof.Machine
end

