-- ==== Sys2Proof/Machine/StateCore.lean ====
section
/-! DEFINITION. State of a logical core: registers, queues, the running block and its operations in flight, the mover's descriptors, the caddy banks and the records (spec/02, 03, 04, 05, 06, 08, 10). -/

namespace Sys2Proof.Machine

/-- One count of the format-event record (Table 2.7). -/
inductive FmtEvent where
  | ternaryMalformed
  | int4Malformed
  | specialOperand
  | e8m0NanBlock
  | nanToNarrow
  | infToNarrow
  | overflowSaturated
  | overflowToSpecial
  | flushed
  deriving DecidableEq, Repr

/-- Format-event record (Table 2.7): every counter saturates. -/
structure FormatRec where
  ternaryMalformed : W32 := 0
  int4Malformed : W32 := 0
  specialOperand : W32 := 0
  e8m0NanBlock : W32 := 0
  nanToNarrow : W32 := 0
  infToNarrow : W32 := 0
  overflowSaturated : W32 := 0
  overflowToSpecial : W32 := 0
  flushed : W32 := 0
  deriving DecidableEq, Repr

/-- Clip-watch record (Table 3.3). -/
structure ClipRec where
  blockClipCount : W32 := 0
  blockMaxMag : W32 := 0
  totalClipCount : W32 := 0
  peakMaxMag : W32 := 0
  flaggedBlocks : W32 := 0
  stoppedBlocks : W32 := 0
  lastFunction : BitVec 4 := 0
  lastStopped : Bool := false
  lastFlag : Bool := false
  deriving DecidableEq, Repr

/-- Slip record (Table 4.5); the same seven counts are kept for a block. -/
structure SlipRec where
  memLate : W64 := 0
  codedShort : W64 := 0
  pannierLate : W64 := 0
  haloWait : W64 := 0
  flagWait : W64 := 0
  creditWait : W64 := 0
  xlateMiss : W64 := 0
  overBlocks : W32 := 0
  deriving DecidableEq, Repr

/-- Slip causes (Table 4.4), in charging order. -/
inductive SlipCause where
  | xlateMiss
  | codedShort
  | memLate
  | pannierLate
  | haloWait
  | creditWait
  | flagWait
  deriving DecidableEq, Repr

/-- Queue entry (Table 10.6). -/
structure QEntry where
  image : BitVec 48
  gateEpoch : BitVec 16 := 0
  gateEn : Bool := false
  doneList : Bool := false
  event : Bool := false
  sregs : List W32 := []
  deriving DecidableEq, Repr

/-- A chain's next block, waiting in its predecessor's place (R132, R243). -/
structure Chain where
  /-- Ordinal of the chain on its core (the model's own). -/
  id : Nat := 0
  /-- A successor's address is the 64 bits its header gives (Table 5.2). -/
  image : BitVec 64
  entry : QEntry
  sregs : List W32
  deriving DecidableEq, Repr

/-- The block at the head of a core's queue (R112): chosen, its image being read and checked, waiting for its bound counter, or ready. -/
inductive LoadPhase where
  | chosen
  | checked
  | boundWait
  | ready
  deriving DecidableEq, Repr

/-- A chosen block that has not issued its first bundle. -/
structure LoadBlock where
  fn : Nat
  chain : Chain
  phase : LoadPhase := .chosen
  image : List Byte := []
  bounds : List W32 := []
  /-- Time it reached the head of the queue (R133). -/
  headAt : Nat := 0
  /-- Loaded as NEXT or BRANCH of the block that runs (R132), not from the head of the queue. -/
  succ : Bool := false
  /-- Time it became ready. -/
  readyAt : Nat := 0
  deriving DecidableEq, Repr

/-- The units of a core (R86). -/
inductive UnitIx where
  | engine
  | rotation
  | vector
  | special
  | mover
  | sequencer
  deriving DecidableEq, Repr

/-- Bytes or an accumulator entry an iteration writes. An entry takes the value last; `sums` are those it takes on the way there, one for each earlier add (R45, R82). -/
inductive CoreWrite where
  | spad (addr : Nat) (data : List Byte)
  | acc (lane entry : Nat) (value : W32) (sums : List W32)
  deriving DecidableEq, Repr

/-- An iteration that has issued and not yet written its last result (R85): its number in its operation, its window and what it writes. -/
structure Pending where
  iter : Nat
  first : Nat
  last : Nat
  writes : List CoreWrite
  /-- Accumulator entries (lane, entry) to which a product issued later has added since, on top of this iteration's sums (R45). -/
  later : List (Nat × Nat) := []
  clips : Nat := 0
  maxMag : Nat := 0
  watched : Bool := false
  /-- The scoreboard has let its writes begin (R94). -/
  opened : Bool := false
  /-- Core cycle from which a FETCH or STORE issued since has its writes held against the scoreboard again (R94). -/
  hold : Nat := 0
  deriving DecidableEq, Repr

/-- An operation in flight on a unit: its slot word, the register values and bounds read at its issue, the points of its walk still to issue, and its iterations in flight. -/
structure UnitOp where
  unit : UnitIx
  /-- The rotation unit is occupied too (INLINE, R86). -/
  alsoRotation : Bool := false
  word : Nat
  issue : Nat
  tile : Nat
  latency : Nat
  count : Nat
  next : Nat := 0
  bounds : List Nat := []
  sregs : List W32 := []
  /-- Caddy bank selected at issue (R152). -/
  bank : List Byte := []
  flight : List Pending := []
  readBanks : List (List Nat) := []
  writeBanks : List Nat := []
  deriving DecidableEq, Repr

/-- Scalar register or flag write whose latency runs (R122). -/
structure ScalarWrite where
  at_ : Nat
  order : Nat
  isFlag : Bool
  index : Nat
  value : W32
  deriving DecidableEq, Repr

/-- Where a grain of a mover descriptor stands: it has not moved; a stored grain has been read at its slot; it has landed or is visible; it was dropped or discarded (R99). -/
inductive GrainSt where
  | waiting
  | read
  | done
  | dropped
  deriving DecidableEq, Repr

/-- What a grain carries: plain data, coding metadata, or coded data of block k, all of coded iteration i (R198). -/
inductive GrainKind where
  | plain
  | metadata (iter : Nat)
  | coded (iter block : Nat)
  deriving DecidableEq, Repr

/-- One grain of a FETCH or STORE. A slot is numbered 2 x fabric cycle + pipe from device time 0 (R87). -/
structure MGrain where
  virt : Int
  phys : Nat := 0
  spad : Nat := 0
  mask : Nat := 0
  kind : GrainKind := .plain
  slot : Option Nat := none
  /-- Earliest slot it may take (R91). -/
  floor : Nat := 0
  walking : Bool := false
  st : GrainSt := .waiting
  excess : Bool := false
  /-- Placed after an excess grain was found (R199). -/
  afterExcess : Bool := false
  /-- STORE: the bytes read at its slot; coded FETCH: the bytes landed. -/
  data : List Byte := []
  deriving DecidableEq, Repr

/-- One iteration of a coded operation (R195, R198): first block, blocks, data address, scratchpad address, mask, the slots of its data positions still unused with the block each belongs to, and how far it has come. -/
structure CodedIter where
  first : Nat
  blocks : Nat
  virt : Nat
  spad : Nat
  mask : Nat
  positions : List (Nat × Nat) := []
  /-- Metadata positions that stay idle. -/
  idle : List Nat := []
  /-- FETCH: the metadata has landed and the data grains exist. -/
  sized : Bool := false
  /-- Blocks decoded (FETCH) or coded (STORE). -/
  done : Nat := 0
  /-- Its positions were assigned while an excess grain was still to move (R199). -/
  afterExcess : Bool := false
  /-- STORE: size codes of the blocks coded, and how many are settled. -/
  sizes : List Nat := []
  codes : Nat := 0
  deriving DecidableEq, Repr

/-- A mover descriptor: one FETCH or STORE operation (R91, R120). -/
structure MDesc where
  id : Nat
  isStore : Bool
  /-- Ordinal of the block that issued it. -/
  block : Nat
  fn : Nat
  /-- The slot groups that were its block's own (R90). -/
  groups : List Nat := []
  phys : Bool
  /-- Slot number at which it issued. -/
  issueSlot : Nat := 0
  coded : Bool := false
  codeTable : List Byte := []
  record : List Byte := []
  grains : List MGrain := []
  iters : List CodedIter := []
  addEn : Bool := false
  addCtr : Nat := 0
  addAmount : Nat := 0
  deriving DecidableEq, Repr

/-- A RELEASE ADD waiting for the earlier STOREs of the core (R102). -/
structure ReleaseAdd where
  block : Nat
  ctr : Nat
  amount : Nat
  before : Nat
  deriving DecidableEq, Repr

/-- Why a block ended (R100, Table 15.19): status, fault code, detail, address. -/
structure Ending where
  status : BitVec 16 := 0
  fault : BitVec 8 := 0
  detail : BitVec 8 := 0
  address : Nat := 0
  kind : BitVec 2 := 0
  deriving DecidableEq, Repr

/-- What a slip waits for: a counter, scratchpad units a unit reads or writes, or room in a descriptor queue for the slot word held back (R94, R102). -/
inductive SlipWait where
  | counter (ctr thr : Nat) (cause : SlipCause)
  | units (ranges : List (Nat × Nat)) (write : Bool)
  | queue (word : Nat)
  deriving DecidableEq, Repr

/-- Slip in progress (R95): what it waits for, the time up to which it is accounted for, the fabric cycle up to which it is charged, and the cause the last charged cycle went to. -/
structure SlipNow where
  awaits : List SlipWait
  since : Nat := 0
  chargedTo : Nat
  chargedAs : Option SlipCause := none
  deriving DecidableEq, Repr

/-- The block that runs on a core (R83 to R86). -/
structure RunBlock where
  fn : Nat
  ordinal : Nat
  chain : Chain
  image : List Byte
  bounds : List W32
  /-- Its own slot groups, as it issued (R90). -/
  groups : List Nat := []
  /-- Time of the first bundle. -/
  startAt : Nat
  /-- Position of the schedule counter, and the time at which it stood there. -/
  pos : Nat := 0
  posAt : Nat
  /-- Byte of the image at which the next bundle header lies, its offset, and the bundles already begun. -/
  nextAt : Nat
  nextOffset : Nat := 0
  bundles : Nat := 0
  /-- Slot words of the bundle being issued that have not issued yet. -/
  slots : List Nat := []
  lastIssue : Nat := 0
  lastResult : Nat := 0
  ops : List UnitOp := []
  scalars : List ScalarWrite := []
  scalarSeq : Nat := 0
  slip : Option SlipNow := none
  /-- The function's reset ended the block, so it leaves no entry (R357, step 3). -/
  silent : Bool := false
  /-- Fabric cycle up to which earlier slips are charged, and the cause the last of them went to (R95). -/
  chargedTo : Nat := 0
  chargedAs : Option SlipCause := none
  slips : SlipRec := {}
  clipCount : W32 := 0
  maxMag : W32 := 0
  /-- Position at which the criterion first held under STOP (R74). -/
  stopAt : Option Nat := none
  ending : Option Ending := none
  /-- Time of an early end. -/
  endedAt : Nat := 0
  dropped : Nat := 0
  deriving DecidableEq, Repr

/-- A block past its boundary whose completion entry is not written yet (R86, R108). -/
structure EndedBlock where
  fn : Nat
  ordinal : Nat
  chain : Nat
  ending : Ending
  event : Bool
  clipFlag : Bool
  slipOver : Bool
  branched : Bool
  chainEnd : Bool
  dropped : Nat
  wallNs : Nat
  clipCount : W32
  maxMag : W32
  slips : SlipRec
  silent : Bool := false
  /-- Device time of the block's end in nanoseconds, its entry's time (R418, Table 15.6). -/
  endNs : Nat := 0
  deriving DecidableEq, Repr

/-- State of a caddy shadow bank (R151). -/
inductive BankState where
  | empty
  | loading
  | pending
  | stale
  deriving DecidableEq, Repr

/-- A caddy slot: the active table image (empty list: EMPTY) and the shadow bank (R148, R151). -/
structure CaddySlot where
  active : List Byte := []
  shadow : List Byte := []
  shadowState : BankState := .empty
  deriving DecidableEq, Repr

/-- A caddy or code-table load being carried out (R151, R193). -/
structure TableLoad where
  fn : Nat
  slot : Nat
  image : List Byte
  cores : List Nat
  addEn : Bool
  addCtr : Nat
  addAmount : Nat
  /-- Reason and segment when the table was rejected. -/
  rejected : Option (Nat × Nat) := none
  cmd : CmdRef
  deriving DecidableEq, Repr

/-- The mover of a core (R91, R94). -/
structure MoverState where
  descs : List MDesc := []
  nextId : Nat := 0
  adds : List ReleaseAdd := []
  /-- Assigned slots that no grain uses: they stay idle (R198). -/
  idle : List Nat := []
  /-- Times at which the expander and the compressor have ended the last block they took (R196). -/
  expandFree : Nat := 0
  codeFree : Nat := 0
  deriving DecidableEq, Repr

/-- Why a swap of the logical core is due at its next boundary (R20, R413, R416). -/
inductive SwapCause where
  | rolling
  | wear (reason : Nat)
  | command
  deriving DecidableEq, Repr

/-- A logical core. Scratchpads and accumulators are kept beside the cores, in `CoresState`. -/
structure CoreState where
  sregs : Tab W32 := []
  userFlags : BitVec 4 := 0
  quantClip : Bool := false
  run : Option RunBlock := none
  load : Option LoadBlock := none
  /-- Images kept loaded: NEXT and BRANCH candidates and a provisional pick that lost (R112, R243). -/
  kept : List LoadBlock := []
  /-- Blocks issued and chains taken from the queues so far. -/
  blocks : Nat := 0
  chains : Nat := 0
  /-- Time of the last boundary (R86). -/
  boundaryAt : Nat := 0
  /-- Chains that end at the next boundary (R86, point 4). -/
  chainCut : List Nat := []
  queues : Tab (List QEntry) := []
  successors : Tab (Option Chain) := []
  /-- What a SAVED context of a function left in its save area for this core: entries of its sub-queue, and whether a pending chain (R245). -/
  saved : Tab (Nat × Bool) := []
  virtualTime : Tab Nat := []
  /-- Functions that held a candidate before the last boundary (R243). -/
  hadCandidate : BitVec 16 := 0
  mover : MoverState := {}
  /-- Block whose store met an uncorrectable word, and the ending, until the core next acts (R172). -/
  caught : Option (Nat × Ending) := none
  ended : List EndedBlock := []
  caddy : Tab CaddySlot := []
  clock : CoreClock := {}
  /-- By how much the copy of its state lengthens the next gap after a move (R413). -/
  copyTime : Nat := 0
  swap : Option SwapCause := none
  fmtRec : FormatRec := {}
  clipRec : ClipRec := {}
  slipRec : SlipRec := {}
  deriving DecidableEq, Repr

/-- All logical cores, their scratchpads and accumulators, and the function tables and code tables they hold. -/
structure CoresState where
  cores : Tab CoreState := []
  /-- Scratchpad byte a of core c at key 2^22 c + a (R78). -/
  spad : List Host.Cell := []
  /-- Accumulator entry e of lane l of core c at key 2^18 c + 2^11 l + e (R10). -/
  acc : Tab W32 := []
  /-- On-die scratchpad words found uncorrectable: 2^22 c + address (R172). -/
  ueSpad : List Nat := []
  ueAcc : List Nat := []
  caddyLoads : List TableLoad := []
  codeLoads : List TableLoad := []
  /-- Code table in force of function f, slot k at key 16f + k; empty list: EMPTY (R193). -/
  codeTables : Tab (List Byte) := []
  /-- Logical cores available (R22); an unlisted core is available. -/
  unavailable : List Nat := []
  deriving DecidableEq, Repr

end Sys2Proof.Machine
end

