-- ==== Sys2Proof/Machine/StateEngines.lean ====
section
/-! DEFINITION. State of the codec engines and the stem engines (spec/13_video_codec.md, spec/14_stem_and_pixel.md). -/

namespace Sys2Proof.Machine

/-- Stream-context states (Table 13.2). -/
inductive CodecSt where
  | free
  | open
  | halted
  | closing
  deriving DecidableEq, Repr

/-- A surface of a decoder's pool (R296): its holds, the picture it carries (by its place in decoding order) and the USER of its descriptor, and whether the picture counts as concealed (R304). -/
structure Surface where
  ref : Bool := false
  out : Bool := false
  pic : Nat := 0
  width : Nat := 0
  height : Nat := 0
  user : W32 := 0
  concealed : Bool := false
  deriving DecidableEq, Repr

/-- Stream-context record (Table 13.2): the settings as the 72 bytes of the open command, the fields the device writes, the frame queue (R294), and what the engine keeps of the stream beside its work area (R293, R295). -/
structure CodecCtx where
  st : CodecSt := .free
  fn : BitVec 4 := 0
  settings : List Byte := []
  workNeed : W32 := 0
  framesDone : W32 := 0
  errors : W32 := 0
  lastStatus : BitVec 16 := 0
  lastReason : BitVec 8 := 0
  lastUser : W32 := 0
  queue : List (List Byte) := []
  closeCmd : Option CmdRef := none
  /-- A frame of the context has run: its engine state is in the engine, or saved in the work area (R295). -/
  begun : Bool := false
  /-- Decoder: bytes of its work area behind the engine's state that the stream has filled (R293), and the pictures the stream may still reference (R296). -/
  workUsed : Nat := 0
  keeps : List Nat := []
  /-- Decoder: the pool, pictures decoded and reported so far, the last picture decoded (R296, R304). -/
  pool : Tab Surface := []
  decoded : Nat := 0
  reported : Nat := 0
  /-- Place of the last key picture or recovery point: what it and later pictures reference from before conceals nothing (R304). -/
  cleanFrom : Nat := 0
  lastPicture : Option Picture := none
  /-- Decoder: pictures decoded that are still to be output, with their places in output order (R296). -/
  pending : List (Nat × BitVec 64) := []
  /-- Encoder: frames coded since the last key picture (none: no frame coded), place of the next frame in the sweep (R300). -/
  sinceKey : Option Nat := none
  sweep : Nat := 0
  /-- Encoder: rates in force (R303). -/
  targetKbps : Nat := 0
  maxKbps : Nat := 0
  /-- Encoder: frames coded, and the references in the work area: slot and number of the frame (R293, R298). -/
  frames : Nat := 0
  refs : List (Nat × Nat) := []
  /-- RANDOM_ACCESS: frames of the mini-group not yet emitted (R298). -/
  group : List (EncodePlan × Picture) := []
  deriving DecidableEq, Repr

/-- One codec engine (R291, R295): its contexts, the functions' quotas, the context served last, the context whose engine state it holds, and the frame in progress. -/
structure CodecEngine where
  ctx : Tab CodecCtx := []
  quota : Tab Nat := []
  lastServed : Nat := 63
  loaded : Option (Nat × List Byte) := none
  running : Option (Nat × List Byte) := none
  deriving DecidableEq, Repr

/-- A stem or DETECT descriptor in progress (R308, R316, R318). -/
structure StemRun where
  fn : Nat
  desc : List Byte
  startAt : Nat
  /-- CONV: weights and biases, read at the start (R310). -/
  weights : List Byte := []
  /-- Line buffers: the input rows read that output rows to come still need, as their bytes (R307, R311, R317). -/
  lines : List (Nat × List Byte) := []
  /-- Input rows read, and output rows announced. -/
  rowsRead : Nat := 0
  rowsDone : Nat := 0
  clamped : Nat := 0
  /-- Since when it waits, and ticks it has waited. -/
  waitSince : Option Nat := none
  waited : Nat := 0
  /-- DETECT: the count of candidates, once its wait has been met (R319). -/
  count : Option Nat := none
  deriving DecidableEq, Repr

/-- One stem engine's queues (R308, R324). -/
structure StemEngine where
  queues : Tab (List (List Byte)) := []
  halted : List Nat := []
  last : Nat := 15
  running : Option StemRun := none
  deriving DecidableEq, Repr

end Sys2Proof.Machine
end

