-- ==== Sys2Proof/Machine/StateFabric.lean ====
section
/-! DEFINITION. State of the optical ports, the peloton slots and the collective engine (spec/11_fabric_and_pelotons.md; Table 20.8). -/

namespace Sys2Proof.Machine

/-- Port states (Table 11.4). -/
inductive PortSt where
  | dark
  | light
  | tune
  | align
  | negotiate
  | up
  | holdSeen
  | disabled
  deriving DecidableEq, Repr

/-- Sequenced frame kinds (Table 11.3). -/
inductive SeqKind where
  | data
  | join
  | joinAck
  | abort
  | token
  deriving DecidableEq, Repr

/-- Payloads of sequenced frames (Table 11.3): operand bytes, R260, R273, the fabric time of R420. -/
inductive Payload where
  | data (bytes : List Byte)
  | join (j : JoinInfo)
  | abort (a : AbortInfo)
  | token (time : W64)
  deriving DecidableEq, Repr

/-- A sequenced frame to send or received: kind, header and payload, and how its residue checks came out. -/
structure SeqFrame where
  kind : SeqKind
  hdr : FrameHdr
  payload : Payload
  residue : ResidueOutcome := .ok
  /-- Device time at which a frame received arrived (R420). -/
  arrivedNs : Nat := 0
  deriving DecidableEq, Repr

/-- Link frames waiting to be sent (Table 11.3). -/
inductive LinkFrame where
  /-- `answer`: it answers a NEG received, and waits that many slots of its spoke (R420). -/
  | neg (answer : Bool) (wait : Nat)
  | retry (expected : BitVec 16)
  | swap (failed spare : Nat)
  deriving DecidableEq, Repr

/-- What a NEG says of the port that sent it (Table 11.3). -/
structure NegInfo where
  id : BitVec 20
  idValid : Bool
  port : Nat
  mask : BitVec 5
  deriving DecidableEq, Repr

/-- What a frame slot carried (R250, R254; Table 11.3). -/
inductive SentFrame where
  | idle
  | hold
  | neg (n : NegInfo)
  | retry (expected : BitVec 16)
  | swap (failed spare : Nat)
  | seq (f : SeqFrame)
  deriving DecidableEq, Repr

/-- A frame kept in the retry buffer until it is acknowledged (R252), with its successive resends and the spoke it was last placed on. -/
structure RetryEntry where
  frame : SeqFrame
  resends : Nat := 0
  spoke : Nat := 0
  sent : Bool := false
  deriving DecidableEq, Repr

/-- Port record (Table 11.5) and link state of one port. -/
structure Port where
  st : PortSt := .dark
  laserFeedLost : Bool := false
  degraded : Bool := false
  spokesGood : BitVec 5 := 0
  spare : BitVec 3 := 7
  activeLessOne : BitVec 2 := 3
  peerId : BitVec 20 := 0
  peerPort : BitVec 2 := 0
  peerIdValid : Bool := false
  fecCorrected : W32 := 0
  fecUncorrectable : W32 := 0
  crcErrors : W32 := 0
  retries : W32 := 0
  spokeSwaps : W32 := 0
  linkDowns : W32 := 0
  peerHolds : W32 := 0
  deriving DecidableEq, Repr

/-- What the port's link logic holds beside its record (R250 to R256). -/
structure PortLink where
  /-- Physical spoke of each logical spoke L0 to L(A - 1). -/
  active : List Nat := []
  failed : BitVec 5 := 0
  txSeq : BitVec 16 := 0
  rxSeq : BitVec 16 := 0
  creditData : Nat := 1024
  creditCtrl : Nat := 64
  /-- Peer's cumulative counts as last seen, and this end's. -/
  seenData : BitVec 12 := 0
  seenCtrl : BitVec 7 := 0
  freedData : BitVec 12 := 0
  freedCtrl : BitVec 7 := 0
  sendQueue : List SeqFrame := []
  retry : List RetryEntry := []
  /-- Resend from this retry-buffer position on, if a RETRY asked. -/
  resendAt : Option Nat := none
  /-- Link frames to send, each on a given spoke or on any active one. -/
  linkFrames : List (Option Nat × LinkFrame) := []
  /-- Peloton whose frame was sent last (R263). -/
  lastServed : W32 := 0
  window : List SeqFrame := []
  gapSince : Option Nat := none
  dataBuf : List SeqFrame := []
  ctrlBuf : List SeqFrame := []
  lastValid : Tab Nat := []
  lastSent : Tab Nat := []
  /-- What the peer's newest NEG said (R255). -/
  peer : Option NegInfo := none
  /-- Spokes on which a NEG of this port has been answered. -/
  negAcked : BitVec 5 := 0
  /-- When the NEG of spoke k, not yet answered, was sent (R420). -/
  negSentAt : Tab (Option Nat) := []
  delayNs : Nat := 0
  deriving DecidableEq, Repr

/-- Peloton slot (Table 11.7). -/
structure Slot where
  valid : Bool := false
  joined : Bool := false
  broken : Bool := false
  grid : Bool := false
  fn : BitVec 4 := 0
  pelotonId : W32 := 0
  epoch : W32 := 0
  nextOp : W32 := 0
  /-- NEXT_OP has wrapped in this epoch: every number has been taken once (R263, Table 20.9; the model's own field). -/
  opsWrapped : Bool := false
  sizeX : BitVec 16 := 0
  sizeY : BitVec 16 := 0
  posX : BitVec 16 := 0
  posY : BitVec 16 := 0
  nextXId : BitVec 20 := 0
  nextXPort : BitVec 2 := 0
  prevXId : BitVec 20 := 0
  prevXPort : BitVec 2 := 0
  nextYId : BitVec 20 := 0
  nextYPort : BitVec 2 := 0
  prevYId : BitVec 20 := 0
  prevYPort : BitVec 2 := 0
  joinLimit : BitVec 16 := 0
  deriving DecidableEq, Repr

/-- A FORM or REFORM waiting to join (R260). Directions: 0 next X, 1 previous X, 2 next Y, 3 previous Y. -/
structure Joining where
  slot : Nat
  cmd : CmdRef
  since : Nat
  acked : List Nat := []
  matched : List Nat := []
  repeatAt : Nat := 0
  deriving DecidableEq, Repr

/-- A running collective operation (R263 to R271). Frames of the operation's vector are numbered from 0. -/
structure CollOp where
  slot : Nat
  fn : Nat
  desc : QDesc
  opSeq : W32
  digest : W32
  overflow : Nat
  /-- This member's contribution: widened elements, frame by frame (R264, R267), or bytes of a RING_SHIFT. -/
  xs : List W32 := []
  bytes : List Byte := []
  /-- X-ring sums of frames this member takes into its Y ring (R266). -/
  rowSums : Tab (List W32) := []
  /-- Newest partial sums computed of a frame (R274). -/
  sums : Tab (List W32) := []
  /-- Final codes of a frame. -/
  final : Tab (List W32) := []
  /-- RING_SHIFT: bytes received. -/
  shifted : Tab (List Byte) := []
  /-- Barrier tokens that have reached this member on its X and Y ring (R271). -/
  tokenX : Nat := 0
  tokenY : Nat := 0
  residueRetries : Nat := 0
  deriving DecidableEq, Repr

/-- A peloton whose slot was freed: its epoch, and the OP_SEQ its next operation would have taken. Frames of its operations that are still in flight are known by it (R253, R274). -/
structure GonePeloton where
  id : W32
  epoch : W32
  nextOp : W32
  opsWrapped : Bool
  deriving DecidableEq, Repr

/-- The fabric side of the device (R249 to R275, R420). -/
structure FabricState where
  ports : Tab Port := []
  links : Tab PortLink := []
  deviceId : BitVec 20 := 0
  idValid : Bool := false
  slots : Tab Slot := []
  gone : List GonePeloton := []
  joining : List Joining := []
  queues : Tab ChanQueue := []
  /-- A started descriptor of a queue that is not among these waits for its slot (R263). -/
  ops : List CollOp := []
  /-- What spoke k of port p sent in its last frame slot, at key 5p + k (output). -/
  sent : Tab (Option (FrameHdr × SentFrame)) := []
  fabricOffset : W64 := 0
  fabricValid : Bool := false
  sourceSlot : BitVec 6 := 0
  hops : BitVec 16 := 0
  lastAlign : W64 := 0
  deriving DecidableEq, Repr

end Sys2Proof.Machine
end

