-- ==== Sys2Proof/Machine/StatePages.lean ====
section
/-! DEFINITION. State of the sequence engine: page-engine records, translation units, moves in progress, the active sequence table, brew lists and context records (spec/09_attention_and_pages.md, spec/10_sequences_and_sharing.md). -/

namespace Sys2Proof.Machine

/-- Page-engine function record (Table 9.5). -/
structure PageRec where
  freeFast : W32 := 0
  freePannier : W32 := 0
  occupancy : W32 := 0
  quarantined : W32 := 0
  spilled : W32 := 0
  stepEpoch : BitVec 16 := 0xFFFF
  retiredEpoch : BitVec 16 := 0xFFFF
  highWater : W32 := 0xFFFFFFFF
  lowWater : W32 := 0xFFFFFFFF
  tppLog2 : BitVec 4 := 0
  kvSealed : Bool := false
  enabled : Bool := false
  planes : BitVec 11 := 0
  pagesMax : BitVec 21 := 0
  root : BitVec 25 := 0
  fastStack : BitVec 41 := 0
  pannierStack : BitVec 41 := 0
  quarRing : BitVec 41 := 0
  fastCap : W32 := 0
  pannierCap : W32 := 0
  quarCap : W32 := 0
  cowCount : W32 := 0
  spillCount : W32 := 0
  prefetchCount : W32 := 0
  noPageCount : W32 := 0
  deriving DecidableEq, Repr

/-- A cached translation (R213): function, virtual page, and the mapping it gives; of a LARGE page the first of its 8,192 pages and frames. -/
structure TlbEntry where
  fn : Nat
  page : Nat
  frame : Nat
  write : Bool
  spilled : Bool
  large : Bool := false
  /-- Its word has been found uncorrectable (R170). -/
  bad : Bool := false
  deriving DecidableEq, Repr

/-- A copy on write in progress (R219): page of a sequence, from a frame to a new frame, done or failed. -/
structure CowCopy where
  page : Nat
  source : Nat
  target : Nat
  copied : Bool := false
  deriving DecidableEq, Repr

/-- An append in its copy phase (R218). A page is a virtual address divided by 65,536; frames are numbered as the frame table numbers them. -/
structure Append where
  fn : Nat
  seq : Nat
  popped : List Nat
  copies : List CowCopy
  /-- Unmapped pages, each with the frame it gets. -/
  fresh : List (Nat × Nat)
  /-- Pages of COUNT 1 whose WRITE is to be set. -/
  writable : List Nat
  /-- First uncorrectable grain a copy met. -/
  failed : Option Nat := none
  /-- Cluster whose section the sequence takes once its pages are ready (R235). -/
  cluster : Nat
  /-- The sequence has retired meanwhile: the append will not take place (R231). -/
  dropped : Bool := false
  deriving DecidableEq, Repr

/-- A spill of a page in progress, or a page to prefetch, with the frames once it has started (R224, R225). -/
structure PageMove where
  fn : Nat
  seq : Nat
  page : Nat
  frames : Option (Nat × Nat) := none
  deriving DecidableEq, Repr

/-- A PAGE_SHARE waiting for the source's list to retire (R220). -/
structure ShareWait where
  source : Nat
  target : Nat
  first : Nat
  last : Nat
  cmd : CmdRef
  deriving DecidableEq, Repr

/-- What the page engine does once an invalidation is acknowledged (R213). -/
structure Invalidation where
  fn : Nat
  /-- Frames whose references go when the acknowledgement is in. -/
  release : List Nat
  deriving DecidableEq, Repr

/-- A FRAME_SCRUB being carried out (R228): the first frame as the frame table numbers it, and the count. -/
structure ScrubJob where
  first : Nat
  count : Nat
  cmd : CmdRef
  deriving DecidableEq, Repr

/-- The page engine (R213, R217). The frame table, stacks, rings and translation tables lie in device memory. -/
structure PageState where
  ftBase : BitVec 41 := 0
  ftValid : Bool := false
  recs : Tab PageRec := []
  /-- Frames in quarantine, oldest first, and the index in the ring of the oldest (R222). -/
  ring : Tab (List Nat) := []
  ringHead : Tab Nat := []
  /-- Translations of each cluster's unit, most recently used first. -/
  tlb : Tab (List TlbEntry) := []
  appends : List Append := []
  spills : List PageMove := []
  prefetches : List PageMove := []
  shareWaits : List ShareWait := []
  invalidations : List Invalidation := []
  scrubs : List ScrubJob := []
  reenables : List (Nat × CmdRef) := []
  /-- FRAME_TABLE_PLACE being carried out: the base, and who asked. -/
  placing : Option (Nat × CmdRef) := none
  /-- Functions that spill (R224), and those whose NO_MEMORY is reported. -/
  spilling : List Nat := []
  spillStopped : List Nat := []
  /-- Pages (function, page) whose spill met an uncorrectable grain, with their last use then (R224). -/
  spillSkip : List (Nat × Nat × Nat) := []
  /-- Functions whose service an uncorrectable grain has stopped, until PF0 re-enables them (R226). -/
  stopped : List Nat := []
  deriving DecidableEq, Repr

/-- Active sequence states (Table 10.1). -/
inductive SeqSt where
  | free
  | active
  | parkedNoPage
  | parkedHost
  | retiring
  deriving DecidableEq, Repr

/-- Active sequence entry (Table 10.1). -/
structure SeqEntry where
  st : SeqSt := .free
  priority : BitVec 3 := 0
  listed : Bool := false
  fn : BitVec 4 := 0
  parkReason : BitVec 3 := 0
  home : BitVec 4 := 0
  homeValid : Bool := false
  length : W32 := 0
  stepTokens : BitVec 17 := 0
  append : BitVec 17 := 0
  lastUse : BitVec 16 := 0
  listEpoch : BitVec 16 := 0
  need : W32 := 0
  vbase : BitVec 48 := 0
  user : W32 := 0
  deriving DecidableEq, Repr

/-- A sequence placed in a section of a list (Table 10.4). -/
structure Placed where
  seq : Nat
  cluster : Nat
  bucketLog2 : Nat
  stepTokens : Nat
  start : Nat
  append : Nat
  user : W32
  vbase : Nat
  deriving DecidableEq, Repr

/-- Where a list stands (R238). -/
inductive ListPhase where
  | open
  | built
  | released
  deriving DecidableEq, Repr

/-- A brew list that has not retired (R233, R238). -/
structure BrewList where
  epoch : BitVec 16
  phase : ListPhase := .open
  closed : Bool := false
  placed : List Placed := []
  /-- Its building has begun, the lists before it being built: its order stands (R235). -/
  begun : Bool := false
  /-- Sequences the brewer has still to consider, in its order, and what it has counted (R235, Table 10.3). -/
  todo : List Nat := []
  /-- STEP_TOKENS, APPEND and USER of the function's sequences as the list opened: a SEQ_SET applies from the next one (R231). -/
  asOpened : List (Nat × BitVec 17 × BitVec 17 × W32) := []
  deferred : Nat := 0
  notResident : Nat := 0
  noPage : Nat := 0
  /-- Uncorrectable grain that stopped the page engine while the list was built (R226). -/
  failed : Option Nat := none
  /-- Queue entries posted with DONE_LIST for it whose chains have not ended. -/
  chains : Nat := 0
  cmd : CmdRef
  deriving DecidableEq, Repr

/-- Context states (Table 10.5). -/
inductive CtxSt where
  | absent
  | running
  | preempting
  | saving
  | saved
  | restoring
  deriving DecidableEq, Repr

/-- Context record (Table 10.5). -/
structure CtxRec where
  st : CtxSt := .absent
  damaged : Bool := false
  cls : BitVec 2 := 0
  weight : BitVec 8 := 1
  spadBanks : BitVec 16 := 0
  accUnits : BitVec 16 := 0
  cacheWays : BitVec 24 := 0
  caddySlots : BitVec 4 := 0
  clusterCtrUnits : BitVec 16 := 0
  hubCtrUnits : W64 := 0
  grace : BitVec 16 := 0x64
  listReady : BitVec 12 := 0
  tokenCap : W32 := 0
  coreMask : BitVec 256 := 0
  saveBase : BitVec 41 := 0
  saveNeed : W32 := 0
  listLive : BitVec 48 := 0
  listStage : BitVec 48 := 0
  clusterEntries : BitVec 7 := 0
  seqQuota : BitVec 13 := 0
  saves : W32 := 0
  restores : W32 := 0
  preempted : W32 := 0
  deriving DecidableEq, Repr

/-- A context command being carried out (R240, R244, R247): who asked, and since when. -/
structure CtxJob where
  cmd : CmdRef
  since : Nat
  deriving DecidableEq, Repr

/-- Sequences, lists and contexts (R230, R233, R239). -/
structure SeqState where
  seqs : Tab SeqEntry := []
  lists : Tab (List BrewList) := []
  /-- Lookahead set of the newest list built (R237). -/
  lookahead : Tab (List Nat) := []
  ctx : Tab CtxRec := []
  destroying : Tab (Option CtxJob) := []
  preempting : Tab (Option CtxJob) := []
  restoring : Tab (Option CtxJob) := []
  deriving DecidableEq, Repr

end Sys2Proof.Machine
end

