-- ==== Sys2Proof/Machine/StateService.lean ====
section
/-! DEFINITION. State of the kettle, the reset controller, the tandem store, the security block, and the spares (spec/17 to spec/20; pins of spec/21). -/

namespace Sys2Proof.Machine

/-- Kettle state of a die (R369, R370, R426). -/
structure DieClock where
  powerCap : BitVec 4 := 15
  /-- Admissions of the last 100 ns, oldest first: time and gear steps. -/
  admits : List (Nat × Nat) := []
  lastCluster : Nat := 3
  cappedNs : W64 := 0
  cappedSince : Option Nat := none
  /-- Setpoint of VCORE_d the regulator has reported, and the one being moved to, in millivolts. -/
  setpointMv : Nat := 0
  targetMv : Nat := 0
  /-- When it was asked for, or last asked for again (R426). -/
  askedAt : Nat := 0
  /-- Gear above which nothing is admitted until the regulator reports the new setpoint (R426). -/
  avsHold : Option Nat := none
  /-- The cap as a regulator that does not acknowledge leaves it (R426). -/
  voltCap : Option Nat := none
  /-- The last sample found VCORE_d above its limit. -/
  overRail : Bool := false
  deriving DecidableEq, Repr

/-- Sums over the snapshot interval (R376). -/
structure Means where
  samples : Nat := 0
  packageMw : Nat := 0
  dieMw : Tab Nat := []
  vcore16 : Tab Nat := []
  deriving DecidableEq, Repr

/-- Clocks and kettle (spec/17). -/
structure ClockState where
  envelopeW : BitVec 16 := 700
  /-- The envelope the last sample used (R370, R430). -/
  envelopeNow : Nat := 700
  brake : Bool := false
  dies : Tab DieClock := []
  /-- The clock of the slot of CLUSTER_cl that holds no logical core: its spare, or a retired slot. -/
  spareClocks : Tab CoreClock := []
  underCount : Nat := 0
  /-- Held temperature of stack s (R371) and of the junction of cluster c (R372). -/
  stackHeld : Tab Nat := []
  junctionHeld : Tab Nat := []
  stackNow : Tab Nat := []
  junctionNow : Tab Nat := []
  packageMw : Nat := 0
  means : Means := {}
  aoInternal : Bool := false
  thermtrip : Bool := false
  reminderAt : Nat := 0
  deriving DecidableEq, Repr

/-- Output pins and board inputs (Table 18.3, R409, R428, R430). -/
structure Pins where
  faultN : Bool := true
  alertN : Bool := true
  /-- GPIO_0 driven as THROTTLE once READY has set; `throttle` is its level. -/
  gpioDriven : Bool := false
  throttle : Bool := false
  /-- JTAG TDO is at high impedance; no row of the table shifts the debug port's chain. -/
  tdoHighZ : Bool := true
  perstAsserted : Bool := false
  referencePresent : Bool := true
  vaoUp : Bool := true
  /-- Rails (0 to 11, as R427 lists them) below 90 % of their voltage: all but VAO as VAO rises. -/
  railsLow : List Nat := [0, 1, 2, 3, 4, 5, 6, 7, 8, 9, 11]
  deriving DecidableEq, Repr

/-- A reset in progress (R377 to R382): its level and the next step of Table 18.4 to take. -/
structure ResetNow where
  level : ResetLevel
  step : Nat
  /-- At step 9: the cluster whose fabric is released next; the cores of the one before it go with it. -/
  cluster : Nat := 0
  lastAt : Nat
  deriving DecidableEq, Repr

/-- A recorded item of the tandem store (Table 18.9). -/
structure TandemConfig where
  /-- Retired slots: 17 times the cluster plus the slot. -/
  retiredSlots : List Nat := []
  /-- Entries of LINK_LANES: (link, group flag, lane or group index). -/
  linkLanes : List (Nat × Bool × Nat) := []
  /-- Entries of STACK_REPAIRS: (stack, pseudo-channel, twice the row, or twice the lane plus 1). -/
  repairs : List (Nat × Nat × Nat) := []
  fastRetired : List Nat := []
  pannierRetired : List Nat := []
  reserveNext : Nat := 0
  deriving DecidableEq, Repr

/-- A tandem write in progress (R390). -/
structure TandemWrite where
  bankB : Bool
  config : TandemConfig
  sequence : W32
  retried : Bool := false
  deriving DecidableEq, Repr

/-- Resets, trim and the tandem store (spec/18). -/
structure ResetState where
  ready : Bool := false
  coreReset : Bool := false
  trimDefaulted : Bool := false
  configDefaulted : Bool := false
  cause : BitVec 8 := 1
  current : Option ResetNow := some { level := .powerOn, step := 1, lastAt := 0 }
  /-- RESET_REQUESTs answered: the level of each and the time it starts (10 us after the reply). -/
  software : List (ResetLevel × Nat) := []
  /-- Until when a controller lock-up counts as the watchdog (R378). -/
  watchdogUntil : Nat := 0
  lockupReset : Bool := false
  shadowValid : Bool := false
  shadow : List Byte := []
  /-- The bank taken: true for B; none when neither is valid (R388). -/
  bank : Option Bool := none
  sequence : W32 := 0
  tandemRead : Bool := false
  config : TandemConfig := {}
  write : Option TandemWrite := none
  /-- A change has been recorded since the write in progress took its contents. -/
  gathered : Bool := false
  fastFilled : Bool := false
  /-- Pannier frames whose fill has finished, from frame 0 on. -/
  pannierFilled : Nat := 0
  /-- A core reset is over and READY has not set since: RESET_DONE is to be written (R343). -/
  doneDue : Bool := false
  pins : Pins := {}
  /-- The serial NOR store (Table 18.7); an unlisted byte reads 0xFF (erased). -/
  nor : List Host.Cell := []
  deriving DecidableEq, Repr

/-- The running controller firmware (R402). -/
structure Firmware where
  slot : Nat
  major : BitVec 8
  minor : BitVec 8
  sv : BitVec 8
  /-- When SVN_FUSES are raised to its SV (60 s after READY). -/
  svnAt : Option Nat := none
  deriving DecidableEq, Repr

/-- A firmware update in progress (R363, R402): the slot, the image's bytes, whether it is activated, who asked. -/
structure Update where
  slot : Nat
  image : List Byte
  activate : Bool
  markerOnly : Bool := false
  cmd : Option CmdRef
  deriving DecidableEq, Repr

/-- The attestation key of a boot (R403): which draw it came from and the next index. -/
structure AttKey where
  draw : Nat
  nextIndex : Nat := 0
  certificate : Option (List Byte) := none
  deriving DecidableEq, Repr

/-- The security block (spec/19). -/
structure SecState where
  lcFuses : BitVec 16 := 0
  svn : BitVec 8 := 0
  /-- IDENTITY_SEED, IDENTITY_ROOT and OWNER_SEED, the byte at the lowest address in the low bits (Table 19.1). -/
  identitySeed : BitVec 768 := 0
  identityRoot : BitVec 256 := 0
  ownerSeed : BitVec 256 := 0
  /-- LIFECYCLE as read at step 2 of Table 18.4 (R393). -/
  lifecycle : BitVec 3 := 0
  transition : Option (BitVec 3 × CmdRef) := none
  transitionResetAt : Option Nat := none
  debugOpen : Bool := false
  challenge : List Byte := []
  attKey : Option AttKey := none
  /-- Reserved identity indices not yet used: next and limit (R404). -/
  pool : Option (Nat × Nat) := none
  /-- Newest record of the reservation ring in the XMSS state region (R404); the record's layout is not in the spec (log 30). -/
  ringMark : Nat := 0
  log : List (List Byte) := []
  chain : List Byte := []
  records : W32 := 0
  firmware : Option Firmware := none
  recovery : Bool := false
  update : Option Update := none
  /-- Slot that failed verification first (R402). -/
  failedSlot : Option Nat := none
  deriving DecidableEq, Repr

/-- State of a physical slot (R411). -/
inductive SlotSt where
  | active
  | spareSteeping
  | spareReady
  | retired
  | unused
  deriving DecidableEq, Repr

/-- Cluster or hub error record (Table 20.2). -/
structure ErrRec where
  correctedWords : W32 := 0
  uncorrectableWords : W32 := 0
  coreChecks : W32 := 0
  steepPasses : W32 := 0
  steepFails : W32 := 0
  lastUe : BitVec 41 := 0
  lastUeUnit : BitVec 4 := 0
  lastUeSlot : BitVec 5 := 0
  lastRetiredSlot : BitVec 5 := 0x1F
  lastRetireReason : BitVec 3 := 0
  deriving DecidableEq, Repr

/-- A cluster's slots and steeping (R19, R411, R416). -/
structure Spares where
  /-- Physical slot of each local core 0 to 15. -/
  map : List Nat := [0, 1, 2, 3, 4, 5, 6, 7, 8, 9, 10, 11, 12, 13, 14, 15]
  retired : List Nat := []
  /-- The slot that is neither ACTIVE nor RETIRED, and whether it has passed. -/
  spare : Option Nat := some 16
  spareReady : Bool := true
  turn : Nat := 0
  /-- Requested targets moved to the head of the order. -/
  first : List Nat := []
  deriving DecidableEq, Repr

/-- A corrected word of an SRAM row within 24 hours (R414): unit, array, slot, row, time. -/
structure WornRow where
  unit : Nat
  arr : SramArray
  slot : Nat
  row : Nat
  at_ : Nat
  deriving DecidableEq, Repr

/-- A row repair waiting for its core's boundary (R414). -/
structure RowRepair where
  unit : Nat
  arr : SramArray
  slot : Nat
  row : Nat
  deriving DecidableEq, Repr

/-- A STEEP_REQUEST pending (R417). -/
structure SteepReq where
  kind : Nat
  target : Nat
  cmd : CmdRef
  slot : Nat := 0
  running : Bool := false
  deriving DecidableEq, Repr

/-- Errors, spares and steeping (spec/20); die links (spec/01, R23 to R26). -/
structure SvcState where
  errs : Tab ErrRec := []
  spares : Tab Spares := []
  exhausted : BitVec 8 := 0
  requests : List SteepReq := []
  worn : List WornRow := []
  repairs : List RowRepair := []
  /-- Rows repaired of an array: key 4 unit + array number. -/
  rowsUsed : Tab Nat := []
  /-- Failed lanes of die-link group j (Table 20.4). -/
  lanesFailed : Tab Nat := []
  groupsRetired : List Nat := []
  /-- Die-link words met wrong: the next grain stored or moved over a die link meets them (R170; log 47). -/
  transit : List LinkWord := []
  /-- Addresses of hub words found uncorrectable: the next grain that a relaxed transfer moves meets one (R170, R172; log 47). -/
  ueHub : List Nat := []
  deriving DecidableEq, Repr

end Sys2Proof.Machine
end

