-- ==== Sys2Proof/Machine/State.lean ====
section
/-! DEFINITION. The state of the block: everything the spec gives the device, and the queue of commands that wait. -/

namespace Sys2Proof.Machine

/-- Why a step faults. The device has no fault of its own: every failure the spec names is a status, an entry, an ended block or a halted queue (R341). -/
inductive Fault where
  /-- Raised by nobody: kept so that the outcome type is inhabited. Safe. -/
  | none
  deriving DecidableEq, Repr

/-- Why a command is refused. -/
inductive Refusal where
  /-- The command has no meaning in the model yet. Safe: nothing is claimed of it. -/
  | notModelled (mnemonic : String)
  /-- Raised by `step` for a command that is not well formed (a payload of the wrong length): no such event exists. Safe. -/
  | illFormed
  deriving DecidableEq, Repr

/-- The state of the device. -/
structure State where
  /-- Commands that wait, first in first out (the model's own). -/
  pending : List Instr := []
  /-- Time since the timebase was released, in units of 1/180,180 ns (log 3; R418). -/
  now : Nat := 0
  /-- Counter the free values of Config are applied to (the model's own, log 1). -/
  freeCtr : Nat := 0
  mem : MemState := {}
  share : ShareState := {}
  cores : CoresState := {}
  pages : PageState := {}
  seqs : SeqState := {}
  fabric : FabricState := {}
  /-- Codec engine e (R291). -/
  codecs : Tab CodecEngine := []
  /-- Stem engine d (R307). -/
  stems : Tab StemEngine := []
  ctl : CtlState := {}
  host : HostState := {}
  clocks : ClockState := {}
  rst : ResetState := {}
  sec : SecState := {}
  svc : SvcState := {}
  deriving DecidableEq, Repr

/-- The device right after a power-on reset: VAO has risen and step 1 of Table 18.4 is the next (R377, R381; log 2, log 4). -/
def State.reset : State := {}

end Sys2Proof.Machine
end

