-- ==== Sys2Proof/Machine/Tab.lean ====
section
/-! DEFINITION. Sparse tables and byte arrays in canonical form (keys strictly rise, no entry equals the default), little-endian fields (R3), and the small list and number helpers every other file uses. -/

namespace Sys2Proof.Machine

variable {α β : Type}

/-- Entry `i` of a table whose unlisted entries are `d`. -/
def tget (d : α) : Tab α → Nat → α
  | [], _ => d
  | (k, v) :: t, i => if i = k then v else if i < k then d else tget d t i

/-- Put `x` at the head of a table under key `i`, unless it is the default. -/
def tcons [DecidableEq α] (d : α) (i : Nat) (x : α) (t : Tab α) : Tab α :=
  if x = d then t else (i, x) :: t

/-- The table with entry `i` made `x`, in canonical form. -/
def tset [DecidableEq α] (d : α) : Tab α → Nat → α → Tab α
  | [], i, x => tcons d i x []
  | (k, v) :: t, i, x =>
    if i < k then tcons d i x ((k, v) :: t)
    else if i = k then tcons d i x t
    else (k, v) :: tset d t i x

/-- The table with entry `i` changed by `f`. -/
def tmod [DecidableEq α] (d : α) (t : Tab α) (i : Nat) (f : α → α) : Tab α :=
  tset d t i (f (tget d t i))

/-- Keys strictly rise from `lo` on and no entry equals the default. -/
def twfFrom [DecidableEq α] (d : α) : Nat → Tab α → Bool
  | _, [] => true
  | lo, (k, v) :: t => decide (lo ≤ k) && !decide (v = d) && twfFrom d (k + 1) t

/-- The canonical form of a table. -/
def twf [DecidableEq α] (d : α) (t : Tab α) : Bool := twfFrom d 0 t

/-- The table without the entries whose key lies in `[lo, hi)`: they become the default. -/
def tclear (t : Tab α) (lo hi : Nat) : Tab α :=
  t.filter (fun e => e.1 < lo || hi ≤ e.1)

/-- `n` bytes from address `a` of a byte array. -/
def bytesAt (d : Byte) (m : List Host.Cell) (a : Nat) : Nat → List Byte
  | 0 => []
  | n + 1 => tget d m a :: bytesAt d m (a + 1) n

/-- Write `bs` at address `a` of a byte array. -/
def setBytes (d : Byte) (m : List Host.Cell) (a : Nat) : List Byte → List Host.Cell
  | [] => m
  | b :: bs => setBytes d (tset d m a b) (a + 1) bs

/-- The value of bytes, the first the least significant (R3). -/
def leNat : List Byte → Nat
  | [] => 0
  | b :: bs => b.toNat + 256 * leNat bs

/-- The low `n` bytes of a number, least significant first (R3). -/
def natLe : Nat → Nat → List Byte
  | 0, _ => []
  | n + 1, x => BitVec.ofNat 8 x :: natLe n (x / 256)

/-- Bits `hi` to `lo` of a number. -/
def field (x hi lo : Nat) : Nat := x / 2 ^ lo % 2 ^ (hi + 1 - lo)

/-- Bit `i` of a number. -/
def bit (x i : Nat) : Bool := Nat.testBit x i

/-- 1 for true, 0 for false. -/
def b2n (b : Bool) : Nat := if b then 1 else 0

/-- A field of `n` bytes at offset `a` of a list of bytes. -/
def fieldAt (bs : List Byte) (a n : Nat) : Nat := leNat ((bs.drop a).take n)

/-- Bytes `a` to `a + n - 1` of a list, padded with 0 where the list is shorter. -/
def sliceAt (bs : List Byte) (a n : Nat) : List Byte :=
  let t := (bs.drop a).take n
  t ++ List.replicate (n - t.length) 0

/-- The list with its bytes from offset `a` replaced by `xs` (the length is kept). -/
def patch (bs : List Byte) (a : Nat) (xs : List Byte) : List Byte :=
  (bs.take a ++ xs ++ bs.drop (a + xs.length)).take bs.length

/-- Two's-complement value of the low `w` bits of `x`. -/
def sext (w x : Nat) : Int :=
  let y := x % 2 ^ w
  if y < 2 ^ (w - 1) then (y : Int) else (y : Int) - (2 ^ w : Nat)

/-- The low `w` bits of a two's-complement number. -/
def wrapInt (w : Nat) (x : Int) : Nat := (x % (2 ^ w : Nat)).toNat

/-- The indexes of the 1 bits among the low `w` bits of `x`, rising. -/
def bitsOf (w x : Nat) : List Nat := (List.range w).filter (fun i => Nat.testBit x i)

/-- A number whose 1 bits are the given indexes. -/
def maskOf (l : List Nat) : Nat := l.foldl (fun a i => a ||| 2 ^ i) 0

/-- `w`-bit counter one higher, saturating (R5). -/
def satAdd {w : Nat} (x : BitVec w) (n : Nat) : BitVec w :=
  BitVec.ofNat w (min (x.toNat + n) (2 ^ w - 1))

/-- Insert a number into a strictly rising list. -/
def insertNat (i : Nat) : List Nat → List Nat
  | [] => [i]
  | k :: t => if i < k then i :: k :: t else if i = k then k :: t else k :: insertNat i t

/-- Rounded-up quotient. -/
def ceilDiv (a b : Nat) : Nat := (a + b - 1) / b

/-- `x` is a power of two. -/
def isPow2 (x : Nat) : Bool := x != 0 && x &&& (x - 1) == 0

/-- First index from `i` on, below `i + n`, at which `p` holds. -/
def findFrom (p : Nat → Bool) (i : Nat) : Nat → Option Nat
  | 0 => none
  | n + 1 => if p i then some i else findFrom p (i + 1) n

/-- Apply `f` to the state for each element in turn. -/
def each (l : List α) (f : α → β → β) (s : β) : β := l.foldl (fun s a => f a s) s

/-- Replace the elements of a list that meet `p`. -/
def mapIf (p : α → Bool) (f : α → α) (l : List α) : List α :=
  l.map (fun a => if p a then f a else a)

/-- Replace element `i` of a list. -/
def modAt (l : List α) (i : Nat) (f : α → α) : List α := l.modify i f

/-- Insertion into a list sorted by a strict order. -/
def insertBy {α : Type} (less : α → α → Bool) (x : α) : List α → List α
  | [] => [x]
  | y :: l => if less x y then x :: y :: l else y :: insertBy less x l

/-- A list in the order of a strict order. -/
def sortBy {α : Type} (less : α → α → Bool) (l : List α) : List α := l.foldr (insertBy less) []

end Sys2Proof.Machine
end

