-- ==== Sys2Proof/Machine/Ring.lean ====
section
/-! DEFINITION. What every unit shares on its way to the host: device time, event entries and their rings (R334 to R339), MSI-X messages (R337, R353), and the register blocks of a function. -/

namespace Sys2Proof.Machine

/-- Ticks of `now` in a nanosecond (log 3). -/
def nsTicks : Nat := 180180
/-- Ticks in a microsecond and in a millisecond. -/
def usTicks : Nat := 180180000
def msTicks : Nat := 180180000000
/-- Ticks in a fabric cycle of 0.5 ns and in a cadence frame of 512 ns (Table 0.3, R87). -/
def fabTicks : Nat := 90090
def frameTicks : Nat := 92252160

/-- An effect that needs a clock: none after a thermal trip, which stops every domain but the always-on one and the memory controllers (R373). -/
def State.clocked (s : State) (f : State → State) : State := if s.clocks.thermtrip then s else f s

/-- Device time goes on to t. -/
def State.upTo (s : State) (t : Nat) : State := { s with now := max s.now t }

/-- Device time in nanoseconds (R418). -/
def State.ns (s : State) : Nat := s.now / nsTicks

def CtlState.ring (c : CtlState) (f : Nat) : RingState := tget {} c.rings f
def CtlState.setRing (c : CtlState) (f : Nat) (r : RingState) : CtlState := { c with rings := tset {} c.rings f r }
def HostState.fn (h : HostState) (f : Nat) : HostFn := tget {} h.fns f
def HostState.setFn (h : HostState) (f : Nat) (x : HostFn) : HostState := { h with fns := tset {} h.fns f x }

/-- An event entry as written with its PHASE (Table 15.6). -/
def Entry.bytes (e : Entry) (phase : Bool) : List Byte :=
  natLe 1 e.source.toNat ++ natLe 1 e.origin.toNat ++ natLe 2 e.code.toNat ++ natLe 4 e.tag.toNat
    ++ sliceAt e.payload 0 48 ++ natLe 8 (e.timeNs % 2 ^ 63 + 2 ^ 63 * b2n phase)

/-- Entries not yet consumed (R334). -/
def RingState.used (r : RingState) : Nat :=
  (r.tail.toNat + 2 ^ r.log2Size.toNat - r.head.toNat) % 2 ^ r.log2Size.toNat

/-- The ring has room for one more entry (R334). -/
def RingState.room (r : RingState) : Bool := r.valid && decide (r.used < 2 ^ r.log2Size.toNat - 1)

/-- The ring after an entry is written at EVQ_TAIL (R334). -/
def RingState.advance (r : RingState) : RingState :=
  if r.tail.toNat + 1 = 2 ^ r.log2Size.toNat then { r with tail := 0, phase := !r.phase } else { r with tail := r.tail + 1 }

/-- Bus Master Enable of function f (R345). -/
def HostFn.master (x : HostFn) : Bool := x.command.getLsbD 2

/-- The device may send TLPs of function f: the link is in L0, and f in D0 with Bus Master Enable set (R345, R356; log 50). -/
def HostState.sends (h : HostState) (f : Nat) : Bool := h.link == .l0 && !(h.fn f).d3hot && (h.fn f).master

/-- A function's vectors are held back: Function Mask is set, or MSI-X Enable clear (R345, R353). -/
def HostFn.held (x : HostFn) : Bool := x.functionMask || !x.msixEnable

/-- Send vector v of function f, or set its pending bit while it is masked or held (R353, R356). -/
def HostState.signal (h : HostState) (f v : Nat) : HostState :=
  let x := h.fn f
  let e := tget {} x.vectors v
  if e.masked || x.held || !h.sends f then
    h.setFn f { x with vectors := tset {} x.vectors v { e with pending := true } }
  else { h with messages := { fn := f, vector := v, address := e.address, data := e.data } :: h.messages }

/-- Send what the function's pending bits hold and nothing masks (R353, R356). -/
def HostState.flushPending (h : HostState) (f : Nat) : HostState :=
  let x := h.fn f
  if x.held || !h.sends f then h
  else
    let due := x.vectors.filter (fun e => e.2.pending && !e.2.masked)
    let h := h.setFn f { x with vectors := each (due.map (·.1)) (fun v t => tmod {} t v (fun e => { e with pending := false })) x.vectors }
    { h with messages := due.reverse.map (fun e => { fn := f, vector := e.1, address := e.2.address, data := e.2.data }) ++ h.messages }

/-- Count an entry towards the moderation of its ring (R337), and send the vector when MOD_COUNT is reached. -/
def moderate (now f : Nat) (r : RingState) (h : HostState) : RingState × HostState :=
  if r.modCount.toNat ≤ r.unsignalled + 1 then
    ({ r with unsignalled := 0 }, h.signal f r.vector.toNat)
  else
    ({ r with unsignalled := r.unsignalled + 1, firstUnsignalled := if r.unsignalled = 0 then now else r.firstUnsignalled }, h)

/-- Write one entry at EVQ_TAIL: 64 bytes in host memory, then the moderation (R335, R337). -/
def writeEntry (now f : Nat) (e : Entry) (r : RingState) (h : HostState) : RingState × HostState :=
  moderate now f r.advance
    { h with memory := setBytes 0 h.memory (r.base.toNat + 64 * r.tail.toNat) (e.bytes r.phase) }

/-- An entry arises on function f's ring: written, kept in the backlog, or lost (R336, R342, R356). -/
def postEntry (now f : Nat) (e : Entry) (c : CtlState) (h : HostState) : CtlState × HostState :=
  let r := c.ring f
  if r.backlog.isEmpty && r.lostSince == 0 && r.owed.isNone && r.room && h.sends f then
    let w := writeEntry now f e r h
    (c.setRing f w.1, w.2)
  else if r.backlog.length < 64 then (c.setRing f { r with backlog := r.backlog ++ [e] }, h)
  else (c.setRing f { r with lost := satAdd r.lost 1, lostSince := r.lostSince + 1 }, h)

/-- The EVENTS_LOST entry: its count and its time in nanoseconds (R336, Table 15.7). -/
def eventsLost (f : Nat) (x : Nat × Nat) : Entry := { source := 0x0A, origin := BitVec.ofNat 4 f, code := 2, payload := natLe 4 0 ++ natLe 4 x.1, timeNs := x.2 }

/-- A backlog that has drained after a loss: EVENTS_LOST is due, before any entry that arises from now on (R336). -/
def RingState.owe (now : Nat) (r : RingState) : RingState :=
  if r.backlog.isEmpty && r.lostSince != 0 then { r with owed := some ((r.owed.map (·.1)).getD 0 + r.lostSince, now / nsTicks), lostSince := 0 } else r

/-- Write what the ring holds back, in order, while there is room, at most `n` entries (R336). -/
def drainRing (now f : Nat) : Nat → RingState → HostState → RingState × HostState
  | 0, r, h => (r, h)
  | n + 1, r, h =>
    if !(r.room && h.sends f) then (r, h)
    else
      match r.owed, r.backlog with
      | some x, _ =>
        let w := writeEntry now f (eventsLost f x) { r with owed := none } h
        drainRing now f n w.1 w.2
      | none, e :: rest =>
        let w := writeEntry now f e ({ r with backlog := rest }.owe now) h
        drainRing now f n w.1 w.2
      | none, [] => (r, h)

/-- An entry on function `ring`'s ring. -/
def State.post (s : State) (ring : Nat) (e : Entry) : State :=
  let w := postEntry s.now ring e s.ctl s.host
  { s with ctl := w.1, host := w.2 }

/-- Payload of Table 15.20. -/
structure Args where
  status : Nat := 0
  detail : Nat := 0
  arg0 : Nat := 0
  arg1 : Nat := 0
  arg2 : Nat := 0
  address : Nat := 0
  kind : Nat := 0
  result : List Byte := []
  deriving DecidableEq, Repr

def Args.bytes (a : Args) : List Byte :=
  natLe 2 a.status ++ natLe 2 a.detail ++ natLe 4 a.arg0 ++ natLe 4 a.arg1 ++ natLe 4 a.arg2
    ++ natLe 8 (a.address % 2 ^ 62 + 2 ^ 62 * a.kind) ++ sliceAt a.result 0 24

/-- An entry of SOURCE and CODE with the common payload, on `ring`'s ring, about function `origin` (R339). -/
def State.event (s : State) (ring origin source code : Nat) (a : Args) : State :=
  s.post ring { source := BitVec.ofNat 8 source, origin := BitVec.ofNat 4 origin, code := BitVec.ofNat 16 code, payload := a.bytes, timeNs := s.ns }

/-- Step k of Table 18.4 lies behind: no reset is in progress, or it has taken the step, or it is a core reset and the step is none of its own (R381, R382). -/
def ResetState.past (r : ResetState) (k : Nat) (inCore : Bool) : Bool :=
  match r.current with
  | none => true
  | some c => (c.level == .core && !inCore) || decide (k < c.step)

/-- The cores of cluster cl are released: no reset is in progress, or it has come so far in steps 9 and 10 (R381, R382). -/
def ResetState.coresUp (r : ResetState) (cl : Nat) : Bool :=
  match r.current with
  | none => true
  | some c => decide (10 < c.step) || (c.step == 10 && decide (cl < 15)) || (c.step == 9 && decide (cl + 1 < c.cluster))

/-- A core reset is in progress (R379, R382). -/
def ResetState.inCore (r : ResetState) : Bool :=
  match r.current with
  | none => false
  | some c => c.level == .core

/-- SOURCE values (Table 15.7). -/
def srcBlock : Nat := 1
def srcCollective : Nat := 2
def srcCodec : Nat := 3
def srcStem : Nat := 4
def srcCommand : Nat := 5
def srcMover : Nat := 6
def srcList : Nat := 7
def srcPage : Nat := 8
def srcHostAccess : Nat := 9
def srcDevice : Nat := 10

/-- Status codes (Table 15.22). -/
def stOk : Nat := 0x0000
def stAccepted : Nat := 0x0001
def stBadCommand : Nat := 0x0101
def stBadLength : Nat := 0x0102
def stBadField : Nat := 0x0103
def stNotPermitted : Nat := 0x0104
def stBusy : Nat := 0x0105
def stNoMemory : Nat := 0x0201
def stTranslation : Nat := 0x0202
def stUncorrectable : Nat := 0x0203
def stCodedBlock : Nat := 0x0204
def stSealed : Nat := 0x0205
def stBlockFault : Nat := 0x0301
def stSlipLimit : Nat := 0x0302
def stQuantClip : Nat := 0x0303
def stNoPage : Nat := 0x0401
def stSequenceState : Nat := 0x0402
def stShareLimit : Nat := 0x0403
def stTableRejected : Nat := 0x0501
def stGroupMismatch : Nat := 0x0601
def stGroupChanged : Nat := 0x0602
def stPeerLost : Nat := 0x0603
def stCollArith : Nat := 0x0604
def stCodecStream : Nat := 0x0701
def stSignature : Nat := 0x0901
def stKeyExhausted : Nat := 0x0902
def stLifecycle : Nat := 0x0903
def stSelftestDeferred : Nat := 0x0A01
def stSpareExhausted : Nat := 0x0A02

/-- The COMMAND entry of a command (R339, Table 15.20). -/
def State.commandEntry (s : State) (cmd : CmdRef) (a : Args) : State :=
  s.post cmd.fn { source := 5, origin := BitVec.ofNat 4 cmd.fn, code := cmd.code, tag := cmd.tag, payload := a.bytes, timeNs := s.ns }

/-- An ACCEPTED command ends: its COMMAND entry, unless a reset has taken the command away (R339, R342, R343). -/
def State.complete (s : State) (cmd : CmdRef) (a : Args) : State :=
  match s.ctl.inProgress.find? (fun p => p.cmd == cmd) with
  | some p => { s with ctl := { s.ctl with inProgress := s.ctl.inProgress.erase p } }.commandEntry cmd a
  | none => s

end Sys2Proof.Machine
end

