-- ==== Sys2Proof/Config.lean ====
section
/-! DEFINITION. What an implementation fixes and what the spec leaves open: opaque constants, with no value that any proof can see (log 1, log 7, log 8, log 10, log 11). -/

namespace Sys2Proof.Config

/-- The order inside a result window, fixed for the stepping and not published (R85; log 1): how many of the writes that an iteration of the operation with this slot word and record makes at a place it has made before core cycle `cycle` of its window. A function of the operation alone: the same on every core, gear and run. -/
opaque windowOrder : (word : Nat) → (record : List Byte) → (iter place cycle : Nat) → Nat

/-- What a conversion of an odd number of four-bit codes leaves in the last half byte of a row (R32, R119; log 38): a function of the operation alone, as R104 asks. -/
opaque padCode : (record : List Byte) → (iter row : Nat) → BitVec 4

/-- Free bit of the model's counter (log 1). -/
opaque freeNew : (ctr word iter : Nat) → Bool

/-- Free 64-bit values, by the model's counter and an index: values the spec leaves open (log 1). -/
opaque freeWord : (ctr ix : Nat) → BitVec 64

/-- Trim voltage of gear g on a die, in millivolts, from the part's trim words (R426; log 11). -/
opaque trimMv : (die gear : Nat) → Nat

/-- Spare rows of an on-die array (0 scratchpads, 1 accumulators, 2 cluster cache, 3 hub) of a cluster, or of the hub as unit 16 (R414; log 10). -/
opaque spareRows : (unit arr : Nat) → Nat

/-- Place of an accumulator entry (128 times the lane plus the entry of the unit) in the saved bytes of its unit (R245; log 24). -/
opaque accOrder : Equiv.Perm (Fin 16384)

/-- Row of a stack, over all its pseudo-channels, that holds a grain (R173; log 10). -/
opaque rowOf : (stack channel grain : Nat) → Nat

/-- Spare rows of a stack for soft post-package repair (R173; log 10). -/
opaque stackRows : (stack : Nat) → Nat

/-- What the headers of an access unit say, after what the decoder keeps of the units before it (0 HEVC, 1 AV1, 2 H.264; R287, R288, R296; log 26). -/
opaque unitHead : (coding : Nat) → (state work unit : List Byte) → UnitHead

/-- What the coding's own specification makes of an access unit (film grain or not), after the engine's state, its work area, the pictures it references, as their surfaces hold them, and those of its own pictures that are made already, their damaged blocks concealed (R297, R304; log 26). -/
opaque decodeUnit : (coding : Nat) → (grain : Bool) → (state work : List Byte) → (refs : List (Nat × Picture)) → (made : List Picture) → (unit : List Byte) → DecodedUnit

/-- Cost of a vector for a block in a stage of the motion search, on the pictures of that stage (Table 13.6a; log 26). -/
opaque motionCost : (settings : List Byte) → (stage : Nat) → (now ref : Picture) → BlockVector → Nat

/-- The reconstruction of the columns that a refresh sweep has made clean, of a frame coded at one QP: from the input, what R301 lets those columns use of the references, and the vectors found for them (R301; log 26). -/
opaque encodeClean : (settings rest : List Byte) → EncodePlan × PicKind × Nat → (input : Picture) → (refs : List Picture) → List BlockVector → Picture

/-- A frame coded at one QP as its coding's specification has it: from the settings, the rest of the engine's state, what the plan asks with the picture type and the QP, the input, the references' reconstructions, the vectors found and the columns made clean (R297; log 26). -/
opaque encodePicture : (settings rest : List Byte) → EncodePlan × PicKind × Nat → (input : Picture) → (refs : List Picture) → List BlockVector → (clean : Picture) → CodedPicture

/-- Which of n QPs that keep the buffer model whole the encoder takes: from the bits and frames sent so far and the input (R303; log 26). -/
opaque chooseQp : (settings rest : List Byte) → EncodePlan → (input : Picture) → (sent : Nat × Nat) → (n : Nat) → Nat

/-- n bytes of filler data NAL units (HEVC) or padding OBUs (AV1) (R303; log 26). -/
opaque filler : (coding n : Nat) → List Byte

/-- Version entry the MCTP endpoint answers (R362; log 29). -/
opaque mctpVersion : List Byte

/-- Answer to a PLDM monitoring message (R362; log 29). -/
opaque pldmAnswer : (ctr : Nat) → (msg : List Byte) → List Byte

/-- 256 bits from the entropy source, by the draw (R394, R399, R403, R407; log 11). -/
opaque entropy : (draw : Nat) → BitVec 256

/-- The die's UNIQUE_ID and VENDOR_KEY_HASH, written at wafer test (Table 19.1; log 30). -/
opaque uniqueId : BitVec 128
opaque vendorKeyHash : BitVec 256

/-- The boot ROM, as it measures itself (R405; log 30). -/
opaque bootRom : List Byte

/-- Caervar's identity certificate, stored in the XMSS state region at MAKER (R406; log 30). -/
opaque identityCertificate : List Byte

/-- XMSS of RFC 8391 over SHAKE256 at the height: whether a signature of a message verifies under a 68-byte public key (R395, R401; log 30). -/
opaque xmssVerifies : (height : Nat) → (key msg signature : List Byte) → Bool

/-- Signature of a message with a key's seeds at an index, the key's 68-byte public key, and its root (R400, R403, R406; log 30). -/
opaque xmssSign : (height : Nat) → (seeds : List Byte) → (index : Nat) → (msg : List Byte) → List Byte
opaque xmssPublic : (height : Nat) → (seeds : List Byte) → List Byte

/-- The traversal state of a new XMSS key as the XMSS state region holds it (R400); its layout is not in the spec (log 30). -/
opaque xmssTraversal : (height : Nat) → (seeds : List Byte) → List Byte

/-- Trim copy k of the OTP (R383; log 11). -/
opaque trimCopy : (k : Nat) → List Byte

end Sys2Proof.Config
end

