-- ==== Sys2Proof/Machine/Aes.lean ====
section
/-! DEFINITION. AES-256-XTS over one grain (R183, IEEE 1619): the data unit is 16 AES blocks, the tweak the grain's address divided by 256. -/

namespace Sys2Proof.Machine

/-- Product in GF(2^8) by polynomial `poly` (its low 8 bits), on bytes as numbers. -/
def gfMul (poly : Nat) : Nat → Nat → Nat → Nat
  | 0, _, _ => 0
  | n + 1, a, b =>
    let r := gfMul poly n (if a < 128 then 2 * a else (2 * a - 256) ^^^ poly) (b / 2)
    if b % 2 = 1 then a ^^^ r else r

/-- AES field product (x^8 + x^4 + x^3 + x + 1). -/
def aesMul (a b : Nat) : Nat := gfMul 0x1B 8 a b

/-- x^254, the inverse (0 for 0). -/
def aesInv (x : Nat) : Nat :=
  let x2 := aesMul x x
  let x4 := aesMul x2 x2
  let x8 := aesMul x4 x4
  let x16 := aesMul x8 x8
  let x32 := aesMul x16 x16
  let x64 := aesMul x32 x32
  let x128 := aesMul x64 x64
  aesMul x128 (aesMul x64 (aesMul x32 (aesMul x16 (aesMul x8 (aesMul x4 x2)))))

/-- A byte turned left by n bits. -/
def rotl8 (x n : Nat) : Nat := (x * 2 ^ n) % 256 ||| x / 2 ^ (8 - n)

def aesSub (x : Nat) : Nat :=
  let b := aesInv x
  b ^^^ rotl8 b 1 ^^^ rotl8 b 2 ^^^ rotl8 b 3 ^^^ rotl8 b 4 ^^^ 0x63

def aesSubInv (x : Nat) : Nat := aesInv (rotl8 x 1 ^^^ rotl8 x 3 ^^^ rotl8 x 6 ^^^ 5)

def xorList (a b : List Nat) : List Nat := List.zipWith (· ^^^ ·) a b

/-- Powers of two of the key schedule's round constants. -/
def aesRcon (i : Nat) : Nat := 2 ^ i

/-- One more group of eight words from the last eight (AES-256 key schedule), words as 4-byte lists. -/
def aesExpand8 (i : Nat) (prev : List (List Nat)) : List (List Nat) :=
  let p (j : Nat) : List Nat := prev.getD j []
  let rot (w : List Nat) : List Nat := w.drop 1 ++ w.take 1
  let w0 := xorList (xorList (p 0) ((rot (p 7)).map aesSub)) [aesRcon i, 0, 0, 0]
  let w1 := xorList (p 1) w0
  let w2 := xorList (p 2) w1
  let w3 := xorList (p 3) w2
  let w4 := xorList (p 4) (w3.map aesSub)
  let w5 := xorList (p 5) w4
  let w6 := xorList (p 6) w5
  [w0, w1, w2, w3, w4, w5, w6, xorList (p 7) w6]

def aesSchedule : Nat → Nat → List (List Nat) → List (List Nat)
  | 0, _, _ => []
  | n + 1, i, prev => prev ++ aesSchedule n (i + 1) (aesExpand8 i prev)

/-- Consecutive pieces of n elements, `k` of them. -/
def chunksOf {α : Type} (n : Nat) : Nat → List α → List (List α)
  | 0, _ => []
  | k + 1, l => l.take n :: chunksOf n k (l.drop n)

/-- The 15 round keys of 16 bytes of a 32-byte key. -/
def aesKeys (key : List Nat) : List (List Nat) :=
  chunksOf 16 15 (aesSchedule 8 0 (chunksOf 4 8 key)).flatten

/-- ShiftRows on a block in column order: byte 4c + r moves to column c - r. -/
def aesShift (dir : Nat) (b : List Nat) : List Nat :=
  (List.range 16).map (fun i => b.getD (4 * ((i / 4 + dir * (i % 4)) % 4) + i % 4) 0)

/-- MixColumns with the row (a, b, c, d) of the circulant matrix. -/
def aesMix (k : List Nat) (b : List Nat) : List Nat :=
  (List.range 16).map (fun i =>
    (List.range 4).foldl (fun x j => x ^^^ aesMul (b.getD (4 * (i / 4) + j) 0) (k.getD ((j + 4 - i % 4) % 4) 0)) 0)

/-- AES-256 encryption of a block with its round keys. -/
def aesEncrypt (ks : List (List Nat)) (b : List Nat) : List Nat :=
  let mid := ((ks.drop 1).take 13).foldl (fun x k => xorList (aesMix [2, 3, 1, 1] (aesShift 1 (x.map aesSub))) k) (xorList b (ks.getD 0 []))
  xorList (aesShift 1 (mid.map aesSub)) (ks.getD 14 [])

/-- AES-256 decryption of a block. -/
def aesDecrypt (ks : List (List Nat)) (b : List Nat) : List Nat :=
  let start := (aesShift 3 (xorList b (ks.getD 14 []))).map aesSubInv
  let mid := ((ks.drop 1).take 13).reverse.foldl
    (fun x k => (aesShift 3 (aesMix [14, 11, 13, 9] (xorList x k))).map aesSubInv) start
  xorList mid (ks.getD 0 [])

/-- The tweak times α (IEEE 1619). -/
def xtsNext (t : List Nat) : List Nat :=
  let v := (t.foldr (fun b x => b + 256 * x) 0) * 2
  let w := if v < 2 ^ 128 then v else (v - 2 ^ 128) ^^^ 0x87
  (natLe 16 w).map (·.toNat)

def xtsBlocks (f : List Nat → List Nat) : Nat → List Nat → List Nat → List Nat
  | 0, _, _ => []
  | n + 1, t, d => xorList (f (xorList (d.take 16) t)) t ++ xtsBlocks f n (xtsNext t) (d.drop 16)

/-- A grain through XTS with a 64-byte key pair, in the direction given. -/
def xtsGrain (encrypt : Bool) (key : BitVec 512) (tweak : Nat) (d : List Byte) : List Byte :=
  let kb := (natLe 64 key.toNat).map (·.toNat)
  let k1 := aesKeys (kb.take 32)
  let k2 := aesKeys (kb.drop 32)
  let t := aesEncrypt k2 ((natLe 16 tweak).map (·.toNat))
  (xtsBlocks (fun b => if encrypt then aesEncrypt k1 b else aesDecrypt k1 b) 16 t (d.map (·.toNat))).map (BitVec.ofNat 8)

end Sys2Proof.Machine
end

