-- ==== Sys2Proof/Machine/StackCode.lean ====
section
/-! DEFINITION. The codes that protect stored words: the stacks' Reed-Solomon code over lanes and bursts (R168, R169), and the on-die and die-link word code (R170; log 47). -/

namespace Sys2Proof.Machine

/-- Times x in GF(2^8) with the polynomial 0x11D (R168). -/
def rsDouble (a : Nat) : Nat := if a < 128 then 2 * a else (2 * a) ^^^ 0x11D

/-- Product of `a` and the low n bits of `b` in GF(2^8). -/
def rsMulBits : Nat → Nat → Nat → Nat
  | 0, _, _ => 0
  | n + 1, a, b => (if b % 2 = 1 then a else 0) ^^^ rsMulBits n (rsDouble a) (b / 2)

def rsMul (a b : Nat) : Nat := rsMulBits 8 a b

def rsPow (a : Nat) : Nat → Nat
  | 0 => 1
  | n + 1 => rsMul a (rsPow a n)

/-- α^n, α being x. -/
def rsAlpha : Nat → Nat
  | 0 => 1
  | n + 1 => rsDouble (rsAlpha n)

def rsInv (a : Nat) : Nat := rsPow a 254

/-- Sum of two polynomials, lowest coefficient first. -/
def polyAdd : List Nat → List Nat → List Nat
  | [], q => q
  | p, [] => p
  | a :: p, b :: q => (a ^^^ b) :: polyAdd p q

/-- Value of a polynomial, lowest coefficient first. -/
def polyAt (p : List Nat) (x : Nat) : Nat := p.foldr (fun c v => rsMul v x ^^^ c) 0

/-- The generator, highest coefficient first: the product of x - α^i for i = 0 to 15 (R168). -/
def rsGenerator : List Nat := (List.range 16).foldl (fun p i => List.zipWith (· ^^^ ·) (p ++ [0]) (0 :: p.map (rsMul (rsAlpha i)))) [1]

/-- Check symbols of 128 data symbols, highest coefficient first: the remainder of the data times x^16 (R168). -/
def rsCheck (data : List Nat) : List Nat :=
  data.foldl (fun r d => List.zipWith (· ^^^ ·) (r.tail ++ [0]) (rsGenerator.tail.map (rsMul (d ^^^ r.headD 0)))) (List.replicate 16 0)

/-- The 16 syndromes of a received codeword, highest coefficient first. -/
def rsSyndromes (w : List Nat) : List Nat := (List.range 16).map (fun i => w.foldl (fun v c => rsMul v (rsAlpha i) ^^^ c) 0)

/-- The shortest recurrence found so far for the syndromes, and the one it was corrected with. -/
structure Locator where
  poly : List Nat := [1]
  prev : List Nat := [1]
  size : Nat := 0
  gap : Nat := 1
  scale : Nat := 1
  deriving DecidableEq, Repr

/-- Syndrome n taken into the recurrence. -/
def Locator.take (l : Locator) (s : List Nat) (n : Nat) : Locator :=
  let d := (List.range (l.size + 1)).foldl (fun v i => v ^^^ rsMul (l.poly.getD i 0) (if i ≤ n then s.getD (n - i) 0 else 0)) 0
  if d = 0 then { l with gap := l.gap + 1 }
  else
    let p := polyAdd l.poly (List.replicate l.gap 0 ++ l.prev.map (rsMul (rsMul d (rsInv l.scale))))
    if 2 * l.size ≤ n then { poly := p, prev := l.poly, size := n + 1 - l.size, gap := 1, scale := d }
    else { l with poly := p, gap := l.gap + 1 }

/-- Error at the coefficient of x^j, for an error locator and the syndromes: 0 where j is no root. -/
def errorAt (p s : List Nat) (j : Nat) : Nat :=
  let y := rsAlpha (255 - j)
  if polyAt p y = 0 then
    let omega := (List.range 16).map (fun n => (List.range (n + 1)).foldl (fun v i => v ^^^ rsMul (p.getD i 0) (s.getD (n - i) 0)) 0)
    let slope := (List.range p.length).tail.map (fun i => if i % 2 = 1 then p.getD i 0 else 0)
    rsMul (rsAlpha j) (rsMul (polyAt omega y) (rsInv (polyAt slope y)))
  else 0

/-- The codeword within 8 symbols of a received word, and which of its symbols were corrected; none when there is no such codeword (R169). Every pattern of up to 8 errors is corrected; a longer one is found uncorrectable or leads to another codeword, as the pattern alone decides, the code being linear. -/
def rsDecode (w : List Nat) : Option (List Nat × List Nat) :=
  let s := rsSyndromes w
  if s.all (· == 0) then some (w, [])
  else
    let l := (List.range 16).foldl (fun l n => l.take s n) ({} : Locator)
    let errors := (List.range 144).map (fun i => errorAt l.poly s (143 - i))
    let fixed := List.zipWith (· ^^^ ·) w errors
    let wrong := (List.range 144).filter (fun i => errors.getD i 0 != 0)
    if 8 < wrong.length || !(rsSyndromes fixed).all (· == 0) then none else some (fixed, wrong)

/-- Places, 36 times the burst plus the lane, of the symbols of codeword A (half 0) or B (half 1): data, then check symbols (R168). -/
def codewordPlaces (half : Nat) : List Nat :=
  (List.range 4).flatMap (fun k => (List.range 32).map (fun l => 36 * (2 * k + half) + l))
    ++ (List.range 4).flatMap (fun k => (List.range 4).map (fun l => 36 * (2 * k + half) + 32 + l))

/-- Symbols of a grain's 256 bytes as they stand on the lanes of its bursts, check symbols with them (R168). -/
def grainSymbols (data : List Nat) : List Nat :=
  let check (half : Nat) : List Nat := rsCheck ((List.range 128).map (fun i => data.getD (32 * (2 * (i / 32) + half) + i % 32) 0))
  let a := check 0
  let b := check 1
  (List.range 8).flatMap (fun k => (data.drop (32 * k)).take 32 ++ ((if k % 2 = 0 then a else b).drop (4 * (k / 2))).take 4)

/-- The symbols as they are read, some of their beats flipped. -/
def flipSymbols (es : List SymbolError) (w : List Nat) : List Nat :=
  es.foldl (fun w e => w.modify (36 * e.burst.val + e.lane.val) (· ^^^ e.beats.toNat)) w

/-- A codeword of a grain as it is read. -/
def codewordOf (half : Nat) (w : List Nat) : List Nat := (codewordPlaces half).map (fun p => w.getD p 0)

/-- A grain read through the code, and the places of the symbols corrected: each codeword is decoded by itself, and the grain is uncorrectable when either is (R169). -/
def stackDecode (w : List Nat) : Option (List Nat × List Nat) :=
  match rsDecode (codewordOf 0 w), rsDecode (codewordOf 1 w) with
  | some a, some b =>
    some ((List.range 8).flatMap (fun k => ((if k % 2 = 0 then a.1 else b.1).drop (32 * (k / 2))).take 32),
      a.2.map (fun i => (codewordPlaces 0).getD i 0) ++ b.2.map (fun i => (codewordPlaces 1).getD i 0))
  | _, _ => none

/-- A read of a grain: the verdict of the code, the bytes it delivers, and the places of the symbols it corrected. -/
structure GrainRead where
  outcome : GrainOutcome
  data : List Byte
  places : List Nat := []
  deriving DecidableEq, Repr

/-- What the code makes of a stored grain that reads with these errors. -/
def stackRead (data : List Byte) (es : List SymbolError) : GrainRead :=
  if es.isEmpty then { outcome := .clean, data := data }
  else
    match stackDecode (flipSymbols es (grainSymbols (data.map (·.toNat)))) with
    | none => { outcome := .uncorrectable, data := data }
    | some (d, ps) => { outcome := if ps.isEmpty then .clean else .corrected ps.length, data := d.map (BitVec.ofNat 8), places := ps }

/-- DETECT mode: a grain that reads with these errors is found in error; every pattern of up to 16 symbols of a codeword is (R169). -/
def stackDetects (data : List Byte) (es : List SymbolError) : Bool :=
  let w := flipSymbols es (grainSymbols (data.map (·.toNat)))
  !es.isEmpty && (List.range 2).any (fun half => (rsSyndromes (codewordOf half w)).any (· != 0))

/-- Product of two polynomials over GF(2), as numbers; n bounds the bits of the first. -/
def clMul : Nat → Nat → Nat → Nat
  | 0, _, _ => 0
  | n + 1, a, b => (if a % 2 = 1 then b else 0) ^^^ clMul n (a / 2) (2 * b)

/-- Generator of the word code: m1(x) m3(x), the minimal polynomials of α and α^3 over GF(2^7) with x^7 + x^3 + 1 (R170). -/
def bchGenerator : Nat := clMul 8 0x89 0x8F

/-- Remainder by the generator of a polynomial of degree below 14 + n. -/
def bchRem : Nat → Nat → Nat
  | 0, w => w
  | n + 1, w => bchRem n (if w / 2 ^ (n + 14) % 2 = 1 then w ^^^ (bchGenerator * 2 ^ n) else w)

/-- XOR of the low n bits. -/
def parityOf : Nat → Nat → Nat
  | 0, _ => 0
  | n + 1, w => (w % 2 + parityOf n (w / 2)) % 2

/-- The 16 check bits of a word of data at an address (R170). -/
def wordCheck (addr data : Nat) : Nat :=
  let b := bchRem 64 (data * 2 ^ 14)
  b + 2 ^ 14 * parityOf 64 data + 2 ^ 15 * ((parityOf 64 data + parityOf 14 b + parityOf 64 addr) % 2)

/-- A stored word: data above its check bits. -/
def wordBits (addr data : Nat) : Nat := data % 2 ^ 64 * 2 ^ 16 + wordCheck addr (data % 2 ^ 64)

/-- How a word read at an address disagrees with its check bits: the BCH syndrome, and bits 14 and 15. -/
def wordSyndrome (addr w : Nat) : Nat :=
  let data := w / 2 ^ 16
  let b := w % 2 ^ 14
  (bchRem 64 (data * 2 ^ 14) ^^^ b) + 2 ^ 14 * ((parityOf 64 data + w / 2 ^ 14) % 2)
    + 2 ^ 15 * ((parityOf 64 data + parityOf 14 b + parityOf 64 addr + w / 2 ^ 15) % 2)

/-- Syndrome of an error in each bit of a word. -/
def bitSyndromes : List Nat := (List.range 80).map (fun i => wordSyndrome 0 (2 ^ i))

/-- The one or two bits whose errors give a syndrome. -/
def wordErrors (s : Nat) : Option (List Nat) :=
  match bitSyndromes.findIdx? (· == s) with
  | some i => some [i]
  | none => (List.range 80).findSome? (fun i => (bitSyndromes.findIdx? (fun t => (t ^^^ bitSyndromes.getD i 0) == s)).map (fun j => [i, j]))

/-- What the word code makes of a word read at an address: the data and the bits corrected, or none: uncorrectable (R170). Bit 15 alone in disagreement tells of a read of the wrong word, so an error in that one bit is found uncorrectable too (DESIGN CHOICE, log 47). -/
def wordDecode (addr w : Nat) : Option (Nat × Nat) :=
  let s := wordSyndrome addr w
  if s = 0 then some (w / 2 ^ 16, 0)
  else if s = 2 ^ 15 then none
  else (wordErrors s).map (fun l => ((l.foldl (fun w i => w ^^^ 2 ^ i) w) / 2 ^ 16, l.length))

/-- A word of data at an address that reads with bits flipped, from where another word stands if `from_` is not its address. -/
def wordRead (addr from_ data : Nat) (flips : BitVec 80) : Option (Nat × Nat) := wordDecode addr (wordBits from_ data ^^^ flips.toNat)

/-- What the resends of a grain's die-link words come to (R170). -/
structure LinkTrip where
  data : List Byte
  corrected : Nat := 0
  resent : Nat := 0
  failed : Nat := 0
  deriving DecidableEq, Repr

/-- A word of a grain over the die links: sent again once where it arrives uncorrectable; a second failure is the consumer's (R170). -/
def LinkTrip.take (t : LinkTrip) (w : LinkWord) : LinkTrip :=
  let d := leNat (sliceAt t.data (8 * w.index.val) 8)
  let put (x : Nat × Nat) (t : LinkTrip) : LinkTrip :=
    { t with data := patch t.data (8 * w.index.val) (natLe 8 x.1), corrected := t.corrected + (if x.2 = 0 then 0 else 1) }
  match wordRead 0 0 d w.flips with
  | some x => put x t
  | none =>
    match wordRead 0 0 d w.again with
    | some x => put x { t with resent := t.resent + 1 }
    | none => { t with resent := t.resent + 1, failed := t.failed + 1 }

/-- A grain's way over the die links. -/
def linkTrip (data : List Byte) (ws : List LinkWord) : LinkTrip := ws.foldl LinkTrip.take { data := data }

end Sys2Proof.Machine
end

