-- ==== Sys2Proof/Machine/Ops.lean ====
section
/-! DEFINITION. Device memory: the address map (R157), interleave domains and placement (R160 to R163, R167, R174, R175), seals (R182 to R184), reads and writes of bytes and grains (R159, R172), and the frame table (R214). -/

namespace Sys2Proof.Machine

/-- Regions of Table 7.2. -/
inductive Place where
  | fast (extent : Nat)
  | pannier (frame : Nat)
  | control
  | unmapped
  deriving DecidableEq, Repr

def extentSize : Nat := 0x120000000
def pannierBase : Nat := 0x8000000000
def pannierFrames : Nat := 12582912
def fastFrames : Nat := 4718592
def controlBase : Nat := 0x1F000000000

/-- Where a physical address lies (R157). -/
def placeOf (a : Nat) : Place :=
  if a < 64 * extentSize then .fast (a / extentSize)
  else if pannierBase ≤ a ∧ a < pannierBase + 65536 * pannierFrames then .pannier ((a - pannierBase) / 65536)
  else if controlBase ≤ a ∧ a < 2 ^ 41 then .control
  else .unmapped

def MemState.group (m : MemState) (x : Nat) : GroupEntry := tget {} m.groups x
def MemState.extent (m : MemState) (x : Nat) : ExtentEntry := tget {} m.extents x

/-- An interleave domain: function, mode, die in LOCAL (R162). -/
structure Domain where
  fn : Nat
  spread : Bool
  die : Nat
  deriving DecidableEq, Repr

def ExtentEntry.domain (e : ExtentEntry) : Domain :=
  { fn := e.fn.toNat, spread := e.spread, die := if e.spread then 0 else e.die.toNat }

/-- Groups of a domain, retired ones included, ascending (R162). -/
def domGroups (group : Nat → GroupEntry) (d : Domain) : List Nat :=
  (List.range 64).filter (fun x =>
    let g := group x
    g.valid && g.fn.toNat == d.fn && g.spread == d.spread && (d.spread || x / 16 == d.die))

/-- Extents of a domain, ascending (R162). -/
def domExtents (extent : Nat → ExtentEntry) (d : Domain) : List Nat :=
  (List.range 64).filter (fun x => (extent x).valid && (extent x).domain == d)

/-- An extent answers accesses: valid and not pending (R163). -/
def MemState.live (m : MemState) (x : Nat) : Bool := (m.extent x).valid && !(m.extent x).pending

/-- XOR-fold of a domain grain index in b-bit chunks (R163); `n` bounds the number of chunks. -/
def xorFold (b : Nat) : Nat → Nat → Nat
  | 0, _ => 0
  | n + 1, t => if t = 0 then 0 else t % 2 ^ b ^^^ xorFold b n (t / 2 ^ b)

/-- Redirection of a grain in a retired pseudo-channel (R174): `ret` the domain's retired indices, ascending. -/
def redirect (n cpc : Nat) (ret : List Nat) (p w : Nat) : Nat × Nat :=
  if ret.contains p then
    let u := ret.length
    let t := w * u + ret.idxOf p
    let live := (List.range n).filter (fun i => !ret.contains i)
    (live.getD (t % (n - u)) 0, cpc * (n - u) / n + t / (n - u))
  else (p, w)

/-- Placement of a fast-tier address: global pseudo-channel and grain index on it (R163). -/
def MemState.placeFast (m : MemState) (a : Nat) : Nat × Nat :=
  let x := a / extentSize
  let d := (m.extent x).domain
  let gs := domGroups m.group d
  let n := 8 * gs.length
  let g := ((domExtents m.extent d).idxOf x * extentSize + a % extentSize) / 256
  let b := Nat.log2 n
  let ret := (List.range n).filter (fun p => (m.group (gs.getD (p / 8) 0)).retired)
  let r := redirect n 2359296 ret (if b = 0 then 0 else xorFold b 64 g) (g / 2 ^ b)
  (8 * gs.getD (r.1 / 8) 0 + r.1 % 8, r.2)

/-- Placement of a pannier address: stack, pseudo-channel and grain index (R167, R175). -/
def MemState.placePannier (m : MemState) (a : Nat) : Nat × Nat × Nat :=
  let f := (a - pannierBase) / 65536
  let i := a / 256 % 256
  let stack := f % 12
  let q := f / 12
  let ret := (List.range 16).filter (fun p => m.pannierRetired.contains (16 * (stack / 3) + p))
  let r := redirect 16 16777216 ret ((i % 16) ^^^ (q % 16)) (16 * q + i / 16)
  (stack, r.1, r.2)

/-- Stack of Table 15.17 that holds an address: 0 to 7 fast, 8 to 19 pannier. -/
def MemState.stackOf (m : MemState) (a : Nat) : Nat :=
  match placeOf a with
  | .pannier _ => 8 + (m.placePannier a).1
  | _ => (m.placeFast a).1 / 64

def MemState.stackRec (m : MemState) (k : Nat) : StackRec := tget {} m.stackRecs k

/-- A read's outcome counted in the stack's record (Table 7.12). -/
def StackRec.note (r : StackRec) (a : Nat) (scrub : Bool) : GrainOutcome → StackRec
  | .clean => r
  | .corrected n =>
    { r with
      correctedSymbols := satAdd r.correctedSymbols n
      correctedGrains := satAdd r.correctedGrains 1
      scrubCorrected := if scrub then satAdd r.scrubCorrected 1 else r.scrubCorrected }
  | .uncorrectable => { r with uncorrectableGrains := satAdd r.uncorrectableGrains 1, lastUe := BitVec.ofNat 41 a }

/-- A read of the grain at `a` with this outcome: counted, and an uncorrectable grain remembered (R169, R186). -/
def MemState.note (m : MemState) (a : Nat) (scrub : Bool) (o : GrainOutcome) : MemState :=
  { m with
    stackRecs := tmod {} m.stackRecs (m.stackOf a) (fun r => r.note (a / 256 * 256) scrub o)
    ue := if o = .uncorrectable then insertNat (a / 256) m.ue else m.ue }

/-- Seal entry covering a physical address: its index (R182). -/
def MemState.sealOf (m : MemState) (a : Nat) : Option Nat :=
  (m.seals.find? (fun e => e.2.valid && decide (e.2.base.toNat ≤ a / 65536) && decide (a / 65536 ≤ e.2.limit.toNat))).map (·.1)

def MemState.seal (m : MemState) (i : Nat) : SealEntry := tget {} m.seals i

/-- Key pair a sealed address is enciphered with. -/
def MemState.keyAt (m : MemState) (a : Nat) : Option (BitVec 512) :=
  match m.sealOf a with
  | some i => tget none m.sealKeys (m.seal i).owner.toNat
  | none => none

/-- The grain numbered g as the stack holds it. -/
def MemState.raw (m : MemState) (g : Nat) : List Byte := bytesAt 0 m.cells (256 * g) 256

/-- A stored grain g in the clear (R183). -/
def MemState.plain (m : MemState) (g : Nat) (raw : List Byte) : List Byte :=
  match m.keyAt (256 * g) with
  | some k => xtsGrain false k g raw
  | none => raw

/-- The grain numbered g, deciphered where sealed (R183). -/
def MemState.grain (m : MemState) (g : Nat) : List Byte := m.plain g (m.raw g)

/-- The grain numbered g read through the stack code, which protects the ciphertext (R168, R169, R183); one known uncorrectable stays so. -/
def MemState.readGrain (m : MemState) (g : Nat) (es : List SymbolError) : GrainRead :=
  if m.ue.contains g then { outcome := .uncorrectable, data := m.grain g }
  else
    let r := stackRead (m.raw g) es
    { r with data := m.plain g r.data }

/-- Grain numbers that n bytes at a touch. -/
def grainsOf (a n : Nat) : List Nat :=
  if n = 0 then [] else (List.range ((a + n - 1) / 256 - a / 256 + 1)).map (fun i => a / 256 + i)

/-- Memory is in canonical form: addresses strictly rise and no listed byte is 0, what an unlisted byte reads as. -/
abbrev MemState.wf (m : MemState) : Bool := twf 0 m.cells

/-- n bytes at physical address a, as the owner of any seal reads them. -/
def MemState.read (m : MemState) (a n : Nat) : List Byte :=
  if m.seals.isEmpty then bytesAt 0 m.cells a n
  else sliceAt ((grainsOf a n).flatMap m.grain) (a % 256) n

def MemState.readLe (m : MemState) (a n : Nat) : Nat := leNat (m.read a n)

/-- Store a whole grain, enciphered where sealed; it is correctable from then on (R172, R183). -/
def MemState.putGrain (m : MemState) (g : Nat) (d : List Byte) : MemState :=
  { m with
    cells := setBytes 0 m.cells (256 * g)
      (match m.keyAt (256 * g) with
        | some k => xtsGrain true k g d
        | none => d)
    ue := m.ue.erase g }

/-- Write bytes at a physical address: read-modify-write of each grain under a seal (R159). -/
def MemState.write (m : MemState) (a : Nat) (bs : List Byte) : MemState :=
  if m.seals.isEmpty && m.ue.isEmpty then { m with cells := setBytes 0 m.cells a bs }
  else
    (grainsOf a bs.length).foldl (fun m g =>
      let lo := max a (256 * g)
      let hi := min (a + bs.length) (256 * g + 256)
      let piece := (bs.drop (lo - a)).take (hi - lo)
      if hi - lo = 256 then m.putGrain g piece
      else if m.ue.contains g then m
      else m.putGrain g (patch (m.grain g) (lo - 256 * g) piece)) m

/-- Zeros, with valid check symbols, over bytes lo to hi - 1, whatever seals them (R165, R182). -/
def MemState.zero (m : MemState) (lo hi : Nat) : MemState :=
  { m with
    cells := tclear m.cells lo hi
    ue := m.ue.filter (fun g => decide (256 * g + 256 ≤ lo) || decide (hi ≤ 256 * g)) }

/-- First uncorrectable grain that n bytes at a touch: its address. -/
def MemState.ueIn (m : MemState) (a n : Nat) : Option Nat := ((grainsOf a n).find? (fun g => m.ue.contains g)).map (256 * ·)

/-- Entry of the frame table (Table 9.4). STATE: 0 HELD, 1 FREE, 2 MAPPED, 3 QUARANTINE, 4 MOVING, 5 ORPHANED. -/
structure FtEntry where
  count : Nat
  st : Nat
  fn : Nat
  epoch : Nat
  deriving DecidableEq, Repr

def ftHeld : Nat := 0
def ftFree : Nat := 1
def ftMapped : Nat := 2
def ftQuarantine : Nat := 3
def ftMoving : Nat := 4
def ftOrphaned : Nat := 5

def parseFt (x : Nat) : FtEntry :=
  { count := field x 15 0, st := field x 18 16, fn := field x 23 20, epoch := field x 47 32 }

def FtEntry.bytes (e : FtEntry) : List Byte :=
  natLe 8 (e.count % 65536 + 65536 * e.st + 2 ^ 20 * e.fn + 2 ^ 32 * (e.epoch % 65536))

/-- Index in the frame table of the frame holding a physical address (R214). -/
def ftIndexOf (a : Nat) : Nat := if a < pannierBase then a / 65536 else fastFrames + (a - pannierBase) / 65536

/-- Physical address of the frame a table entry describes. -/
def ftAddr (e : Nat) : Nat := if e < fastFrames then 65536 * e else pannierBase + 65536 * (e - fastFrames)

/-- What the memory path needs of the page engine: where the frame table lies, once placed. -/
structure FtBase where
  base : Nat
  valid : Bool
  deriving DecidableEq, Repr

def PageState.ft (p : PageState) : FtBase := { base := p.ftBase.toNat, valid := p.ftValid }

def MemState.ftGet (m : MemState) (t : FtBase) (e : Nat) : FtEntry := parseFt (m.readLe (t.base + 8 * e) 8)
def MemState.ftPut (m : MemState) (t : FtBase) (e : Nat) (x : FtEntry) : MemState := m.write (t.base + 8 * e) x.bytes
def MemState.ftMod (m : MemState) (t : FtBase) (e : Nat) (f : FtEntry → FtEntry) : MemState := m.ftPut t e (f (m.ftGet t e))

/-- Uncorrectable grain that holds entry e of the frame table. -/
def MemState.ftUe (m : MemState) (t : FtBase) (e : Nat) : Option Nat := m.ueIn (t.base + 8 * e) 8

/-- Owner of a pannier frame: PF0 until the frame table is placed (R214). -/
def MemState.pannierOwner (m : MemState) (t : FtBase) (frame : Nat) : Nat :=
  if t.valid then (m.ftGet t (fastFrames + frame)).fn else 0

/-- A physical place belongs to function f: in its extents that answer, or a pannier frame the frame table gives it. -/
def MemState.owns (m : MemState) (t : FtBase) (f a : Nat) : Bool :=
  match placeOf a with
  | .fast x => m.live x && (m.extent x).fn.toNat == f
  | .pannier k => m.pannierOwner t k == f
  | _ => false

/-- Bytes a to a + n - 1 lie in fast extents of function f that answer. -/
def MemState.inExtents (m : MemState) (f a n : Nat) : Bool :=
  decide (a + n ≤ 64 * extentSize) &&
    (List.range ((a + n - 1) / extentSize - a / extentSize + 1)).all (fun i =>
      m.live (a / extentSize + i) && (m.extent (a / extentSize + i)).fn.toNat == f)

end Sys2Proof.Machine
end

