-- ==== Sys2Proof/Machine/Xlate.lean ====
section
/-! DEFINITION. Translation: the three-level walk and its reasons (R211, R212), and the clusters' translation units (R213). -/

namespace Sys2Proof.Machine

def rsnNotMapped : Nat := 1
def rsnMalformed : Nat := 2
def rsnForeign : Nat := 3
def rsnReadOnly : Nat := 4
def rsnSpilled : Nat := 5
def rsnPhysPlace : Nat := 6

/-- How a walk or a lookup ends: a mapping, a reason of R212, or an uncorrectable grain of a table page (Table 7.8). -/
inductive Xl where
  | ok (phys : Nat) (write spilled large : Bool)
  | fault (reason : Nat)
  | bad (grain : Nat)
  deriving DecidableEq, Repr

/-- Who translates: the function, its root frame, the frame table, whether the access is a core's and whether it writes. -/
structure Asker where
  fn : Nat
  root : Nat
  ft : FtBase
  core : Bool
  write : Bool
  deriving DecidableEq, Repr

/-- Tests of the mapped frame, in order: FOREIGN, SPILLED for a core, READ_ONLY for a write (R212). -/
def mappedTests (m : MemState) (q : Asker) (phys : Nat) (write spilled large : Bool) : Xl :=
  if !m.owns q.ft q.fn phys then .fault rsnForeign
  else if q.core && (spilled || decide (pannierBase ≤ phys)) then .fault rsnSpilled
  else if q.write && !write then .fault rsnReadOnly
  else .ok phys write spilled large

/-- A table page lies in the function's own fast extents. -/
def tableOk (m : MemState) (q : Asker) (page : Nat) : Bool :=
  match placeOf page with
  | .fast _ => m.owns q.ft q.fn page
  | _ => false

/-- Reserved bits of a translation entry (Table 9.2) are set. -/
def xlReserved (e : Nat) : Bool := field e 15 4 != 0 || field e 63 41 != 0

/-- FRAME of an entry, as a physical address. -/
def xlFrame (e : Nat) : Nat := field e 40 16 * 65536

/-- The leaf level (R211 step 3). -/
def walkLeaf (m : MemState) (q : Asker) (page va : Nat) : Xl :=
  let a := page + 8 * field va 28 16
  if !tableOk m q page then .fault rsnForeign
  else
    match m.ueIn a 8 with
    | some g => .bad g
    | none =>
      let e := m.readLe a 8
      if !bit e 0 then .fault rsnNotMapped
      else if bit e 1 || xlReserved e || (bit e 3 != decide (pannierBase ≤ xlFrame e)) then .fault rsnMalformed
      else mappedTests m q (xlFrame e + va % 65536) (bit e 2) (bit e 3) false

/-- Level 2 (R211 step 2). -/
def walkMid (m : MemState) (q : Asker) (page va : Nat) : Xl :=
  let a := page + 8 * field va 41 29
  if !tableOk m q page then .fault rsnForeign
  else
    match m.ueIn a 8 with
    | some g => .bad g
    | none =>
      let e := m.readLe a 8
      if !bit e 0 then .fault rsnNotMapped
      else if bit e 3 || xlReserved e || (bit e 1 && field e 28 16 != 0) then .fault rsnMalformed
      else if bit e 1 then mappedTests m q (xlFrame e + va % 2 ^ 29) (bit e 2) false true
      else walkLeaf m q (xlFrame e) va

/-- The whole walk (R211, R212). -/
def walk (m : MemState) (q : Asker) (va : Int) : Xl :=
  if va < 0 ∨ 2 ^ 48 ≤ va then .fault rsnNotMapped
  else
    let v := va.toNat
    let page := q.root * 65536
    let a := page + 8 * field v 47 42
    if !tableOk m q page then .fault rsnForeign
    else
      match m.ueIn a 8 with
      | some g => .bad g
      | none =>
        let e := m.readLe a 8
        if !bit e 0 then .fault rsnNotMapped
        else if bit e 1 || bit e 3 || xlReserved e then .fault rsnMalformed
        else walkMid m q (xlFrame e) v

def PageState.pageRec (p : PageState) (f : Nat) : PageRec := tget {} p.recs f
def PageState.setRec (p : PageState) (f : Nat) (r : PageRec) : PageState := { p with recs := tset {} p.recs f r }

/-- The asker for function f. -/
def PageState.asker (p : PageState) (f : Nat) (core write : Bool) : Asker :=
  { fn := f, root := (p.pageRec f).root.toNat, ft := p.ft, core := core, write := write }

/-- Pages of 64 KiB that a translation covers: one, or the 8,192 of a LARGE page. -/
def TlbEntry.span (e : TlbEntry) : Nat := if e.large then 8192 else 1
def TlbEntry.covers (e : TlbEntry) (f page : Nat) : Bool := e.fn == f && page / e.span * e.span == e.page

/-- A cluster unit's translation of a page, if it holds one. -/
def PageState.cached (p : PageState) (cl f page : Nat) : Option TlbEntry := (tget [] p.tlb cl).find? (fun e => e.covers f page)

/-- The unit with an entry most recently used; the least recently used of more than 16,384 goes (R213). -/
def PageState.remember (p : PageState) (cl : Nat) (e : TlbEntry) : PageState :=
  { p with tlb := tset [] p.tlb cl ((e :: (tget [] p.tlb cl).filter (fun x => !x.covers e.fn e.page)).take 16384) }

/-- Translations of a function dropped in every unit: those that cover one of the pages `which` names (R213). -/
def PageState.invalidate (p : PageState) (f : Nat) (which : Nat → Bool) : PageState :=
  { p with tlb := (p.tlb.map (fun u => (u.1, u.2.filter (fun e => !(e.fn == f && (List.range e.span).any (fun i => which (e.page + i))))))).filter (fun u => !u.2.isEmpty) }

/-- A core's lookup: a hit tested as a walk tests its mapped frame, or nothing held. A translation whose word is uncorrectable ends the access (R170, R172; DESIGN CHOICE, log 47: at the frame the word last gave). -/
def lookupCore (m : MemState) (p : PageState) (cl f : Nat) (va : Int) (write : Bool) : Option Xl :=
  if va < 0 ∨ 2 ^ 48 ≤ va then some (.fault rsnNotMapped)
  else
    (p.cached cl f (va.toNat / 65536)).map (fun e =>
      if e.bad then .bad (65536 * e.frame)
      else mappedTests m (p.asker f true write) (65536 * e.frame + va.toNat % (65536 * e.span)) e.write e.spilled e.large)

/-- What a unit keeps of a walk that succeeded. -/
def tlbOf (f : Nat) (va : Int) (x : Xl) : Option TlbEntry :=
  match x with
  | .ok phys w sp large =>
    let n := if large then 8192 else 1
    some { fn := f, page := va.toNat / (65536 * n) * n, frame := (phys - va.toNat % (65536 * n)) / 65536, write := w, spilled := sp, large := large }
  | _ => none

/-- A translation as the word of its unit that holds it (log 47), and back. -/
def TlbEntry.word (e : TlbEntry) : Nat := e.fn + 2 ^ 4 * e.page + 2 ^ 36 * e.frame + 2 ^ 61 * b2n e.write + 2 ^ 62 * b2n e.spilled + 2 ^ 63 * b2n e.large
def tlbWord (w : Nat) : TlbEntry :=
  { fn := w % 16, page := field w 35 4, frame := field w 60 36, write := bit w 61, spilled := bit w 62, large := bit w 63 }

end Sys2Proof.Machine
end

