-- ==== Sys2Proof/Machine/Access.lean ====
section
/-! DEFINITION. Memory as the relaxed channels and the controller reach it: translation or a physical address, Table 7.4, the seal rules of R184, and the errors of Table 7.8. -/

namespace Sys2Proof.Machine

/-- Where an access lands, or how it fails. -/
inductive Reach where
  | at_ (phys : Nat)
  | bad (e : Args)
  deriving DecidableEq, Repr

/-- An access refused at an address (Table 15.20). -/
def accErr (status detail address kind : Nat) : Args := { status := status, detail := detail, address := address, kind := kind }

/-- Function f may not see the place in the clear (R184). -/
def foreignSeal (m : MemState) (f phys : Nat) : Bool := ((m.sealOf phys).map (fun i => decide ((m.seal i).owner.toNat ≠ f))).getD false

/-- A relaxed channel's access on behalf of function f (R158, R184, R212). -/
def reach (m : MemState) (p : PageState) (f : Nat) (phys write : Bool) (a : Nat) : Reach :=
  if phys then
    match placeOf a with
    | .fast x => if m.live x then (if foreignSeal m f a then .bad (accErr stSealed 0 a 1) else .at_ a) else .bad (accErr stTranslation rsnPhysPlace a 1)
    | .pannier _ => if foreignSeal m f a then .bad (accErr stSealed 0 a 1) else .at_ a
    | _ => .bad (accErr stTranslation rsnPhysPlace a 1)
  else
    match walk m (p.asker f false write) a with
    | .ok x _ _ _ => if foreignSeal m f x then .bad (accErr stSealed 0 a 0) else .at_ x
    | .fault r => .bad (accErr stTranslation r a 0)
    | .bad g => .bad (accErr stUncorrectable 0 g 1)

/-- A range cut at grain boundaries: addresses and lengths. -/
def grainPieces (a n : Nat) : List (Nat × Nat) :=
  (grainsOf a n).map (fun g =>
    let lo := max a (256 * g)
    (lo, min (a + n) (256 * g + 256) - lo))

/-- One piece read: its bytes, or the failure. -/
def readPiece (m : MemState) (p : PageState) (f : Nat) (phys : Bool) (x : Nat × Nat) : Except Args (List Byte) :=
  match reach m p f phys false x.1 with
  | .bad e => .error e
  | .at_ a =>
    match m.ueIn a x.2 with
    | some g => .error (accErr stUncorrectable 0 g 1)
    | none => .ok (m.read a x.2)

/-- Pieces read in turn, up to the first failure. -/
def readPieces (m : MemState) (p : PageState) (f : Nat) (phys : Bool) : List (Nat × Nat) → Except Args (List Byte)
  | [] => .ok []
  | x :: l =>
    match readPiece m p f phys x with
    | .error e => .error e
    | .ok bs =>
      match readPieces m p f phys l with
      | .error e => .error e
      | .ok cs => .ok (bs ++ cs)

/-- n bytes at a virtual address of function f, as the controller reads a request's object. -/
def readVirt (m : MemState) (p : PageState) (f va n : Nat) : Except Args (List Byte) := readPieces m p f false (grainPieces va n)

/-- Where a piece may be written: Table 7.4 lets the host copy and collective engines, and the controller, write the fast tier only. -/
def writePlace (m : MemState) (p : PageState) (f : Nat) (phys : Bool) (x : Nat × Nat) : Reach :=
  match reach m p f phys true x.1 with
  | .bad e => .bad e
  | .at_ a => if pannierBase ≤ a then .bad (accErr stNotPermitted 0 x.1 (b2n phys)) else .at_ a

/-- Pieces of bytes to write: the physical places, or the first failure. -/
def writePlaces (m : MemState) (p : PageState) (f : Nat) (phys : Bool) : List (Nat × Nat) → Except Args (List (Nat × Nat))
  | [] => .ok []
  | x :: l =>
    match writePlace m p f phys x with
    | .bad e => .error e
    | .at_ a =>
      match writePlaces m p f phys l with
      | .error e => .error e
      | .ok cs => .ok ((a, x.2) :: cs)

/-- A HOST_ACCESS entry on PF0's ring (Table 15.7): 1 WRITE_DISCARDED, 2 READ_UNMAPPED, 3 PARTIAL_WRITE_FAILED. -/
def State.hostAccess (s : State) (kind fn : Nat) (e : Args) : State := s.event 0 fn srcHostAccess kind { e with arg0 := fn }

/-- Bytes written at a physical place; a partial write of an uncorrectable grain is discarded and reported (R159, R172). -/
def State.writePhys (s : State) (f a : Nat) (bs : List Byte) : State :=
  match (grainPieces a bs.length).find? (fun x => decide (x.2 < 256) && s.mem.ue.contains (x.1 / 256)) with
  | some x =>
    ({ s with mem := (s.mem.note x.1 false .uncorrectable).write a bs }).hostAccess 3 f (accErr stUncorrectable 0 (x.1 / 256 * 256) 1)
  | none => { s with mem := s.mem.write a bs }

/-- Bytes written over physical grainPieces in turn. -/
def State.writePiecesAt (f : Nat) : List (Nat × Nat) → List Byte → State → State
  | [], _, s => s
  | x :: l, bs, s => State.writePiecesAt f l (bs.drop x.2) (s.writePhys f x.1 (bs.take x.2))

/-- Bytes written at a virtual address of function f: none of them when a part of the range fails. -/
def State.writeVirt (s : State) (f va : Nat) (bs : List Byte) : Except Args State :=
  match writePlaces s.mem s.pages f false (grainPieces va bs.length) with
  | .error e => .error e
  | .ok ps => .ok (State.writePiecesAt f ps bs s)

/-- A failed access counted: an uncorrectable grain goes into its stack's record (R186). -/
def State.noteBad (s : State) (e : Args) : State :=
  if e.status = stUncorrectable then { s with mem := s.mem.note e.address false .uncorrectable } else s

end Sys2Proof.Machine
end

