-- ==== Sys2Proof/Machine/Crc.lean ====
section
/-! DEFINITION. CRC-32C (R111), the check of block images, caddy tables and code tables. -/

namespace Sys2Proof.Machine

/-- Eight reflected steps with the Castagnoli polynomial (0x82F6_3B78 is 0x1EDC_6F41 reflected). -/
def crcBits : Nat → BitVec 32 → BitVec 32
  | 0, c => c
  | n + 1, c => crcBits n (if c.getLsbD 0 then (c >>> 1) ^^^ 0x82F63B78 else c >>> 1)

/-- CRC-32C of bytes: initial value and final XOR 0xFFFF_FFFF. -/
def crc32c (bs : List Byte) : BitVec 32 :=
  (bs.foldl (fun c b => crcBits 8 (c ^^^ b.setWidth 32)) 0xFFFFFFFF) ^^^ 0xFFFFFFFF

/-- CRC-32C with the four bytes at offset `a` taken as zero. -/
def crcWithout (bs : List Byte) (a : Nat) : Nat := (crc32c (patch bs a [0, 0, 0, 0])).toNat

end Sys2Proof.Machine
end

