-- ==== Sys2Proof/Machine/Flags.lean ====
section
/-! DEFINITION. What arithmetic leaves behind beside its results: the format-event record (R55) and the watch accumulators (R70 to R72). -/

namespace Sys2Proof.Machine

/-- The record with `n` more counts of an event; every counter saturates (R55). -/
def FormatRec.count (r : FormatRec) (n : Nat) : FmtEvent → FormatRec
  | .ternaryMalformed => { r with ternaryMalformed := satAdd r.ternaryMalformed n }
  | .int4Malformed => { r with int4Malformed := satAdd r.int4Malformed n }
  | .specialOperand => { r with specialOperand := satAdd r.specialOperand n }
  | .e8m0NanBlock => { r with e8m0NanBlock := satAdd r.e8m0NanBlock n }
  | .nanToNarrow => { r with nanToNarrow := satAdd r.nanToNarrow n }
  | .infToNarrow => { r with infToNarrow := satAdd r.infToNarrow n }
  | .overflowSaturated => { r with overflowSaturated := satAdd r.overflowSaturated n }
  | .overflowToSpecial => { r with overflowToSpecial := satAdd r.overflowToSpecial n }
  | .flushed => { r with flushed := satAdd r.flushed n }

/-- The record after a list of events, each counted `n` times. -/
def FormatRec.countAll (r : FormatRec) (n : Nat) (l : List FmtEvent) : FormatRec :=
  l.foldl (fun r e => r.count n e) r

/-- What one watched element adds to the watch (R70, R71): whether it clips, and its magnitude as an FP32 code. -/
structure Watch where
  clips : Nat := 0
  maxMag : Nat := 0
  deriving DecidableEq, Repr

/-- Counts add; magnitudes of non-negative FP32 codes order as the codes do. -/
def Watch.plus (a b : Watch) : Watch := { clips := a.clips + b.clips, maxMag := max a.maxMag b.maxMag }

end Sys2Proof.Machine
end

