-- ==== Sys2Proof/Machine/Fp.lean ====
section
/-! DEFINITION. Exact values of the floating-point formats (Table 2.1), their one rounding (R44, R49, R50), and the FP32 operations the other chapters are written in (R134). -/

namespace Sys2Proof.Machine

/-- The special codes of a format (Table 2.1). -/
inductive Specials where
  | none
  /-- Only the codes whose exponent and mantissa bits are all 1 are special: NaN. -/
  | nanOnly
  /-- IEEE 754: exponent all ones is Inf or NaN. -/
  | ieee
  deriving DecidableEq, Repr

/-- A floating-point format of Table 2.1: exponent and mantissa widths; the bias is 2^(exponent width - 1) - 1 in all of them. -/
structure Fmt where
  ebits : Nat
  mbits : Nat
  specials : Specials
  deriving DecidableEq, Repr

def fp4 : Fmt := ⟨2, 1, .none⟩
def e4m3 : Fmt := ⟨4, 3, .nanOnly⟩
def e5m2 : Fmt := ⟨5, 2, .ieee⟩
def bf16 : Fmt := ⟨8, 7, .ieee⟩
def fp16 : Fmt := ⟨5, 10, .ieee⟩
def fp32 : Fmt := ⟨8, 23, .ieee⟩
/-- FP64, of the collective statistics (spec/11_fabric_and_pelotons.md). -/
def fp64 : Fmt := ⟨11, 52, .ieee⟩

def Fmt.bias (f : Fmt) : Nat := 2 ^ (f.ebits - 1) - 1
/-- Bits of a code. -/
def Fmt.width (f : Fmt) : Nat := 1 + f.ebits + f.mbits
/-- Exponent of the smallest step. -/
def Fmt.qmin (f : Fmt) : Int := 1 - (f.bias : Int) - (f.mbits : Int)
/-- Magnitude code of the largest finite value. -/
def Fmt.maxCode (f : Fmt) : Nat :=
  match f.specials with
  | .none => 2 ^ (f.ebits + f.mbits) - 1
  | .nanOnly => 2 ^ (f.ebits + f.mbits) - 2
  | .ieee => (2 ^ f.ebits - 1) * 2 ^ f.mbits - 1
/-- Magnitude code of infinity. -/
def Fmt.infCode (f : Fmt) : Nat := (2 ^ f.ebits - 1) * 2 ^ f.mbits
/-- The canonical quiet NaN (Table 2.5). -/
def Fmt.nanCode (f : Fmt) : Nat :=
  match f.specials with
  | .none => 0
  | .nanOnly => 2 ^ (f.ebits + f.mbits) - 1
  | .ieee => f.infCode + 2 ^ (f.mbits - 1)
/-- A magnitude code with a sign. -/
def Fmt.signed (f : Fmt) (neg : Bool) (code : Nat) : Nat := b2n neg * 2 ^ (f.ebits + f.mbits) + code

/-- What a code stands for: NaN, an infinity, or (-1)^neg * m * 2^e exactly. -/
inductive FpVal where
  | nan
  | inf (neg : Bool)
  | fin (neg : Bool) (m : Nat) (e : Int)
  deriving DecidableEq, Repr

/-- The value of a code (R27, Table 2.1). A signalling NaN is a NaN like any other (R31). -/
def Fmt.decode (f : Fmt) (x : Nat) : FpVal :=
  let mag := x % 2 ^ (f.ebits + f.mbits)
  let neg := bit x (f.ebits + f.mbits)
  let ex := mag / 2 ^ f.mbits
  let mant := mag % 2 ^ f.mbits
  if f.specials = .ieee ∧ ex = 2 ^ f.ebits - 1 then (if mant = 0 then .inf neg else .nan)
  else if f.specials = .nanOnly ∧ mag = 2 ^ (f.ebits + f.mbits) - 1 then .nan
  else if ex = 0 then .fin neg mant f.qmin
  else .fin neg (2 ^ f.mbits + mant) (f.qmin + ex - 1)

/-- How a magnitude is rounded: to nearest even, or away from zero when f * 2^32 > r (R50). -/
inductive Rounding where
  | rne
  | sr (r : Nat)
  deriving DecidableEq, Repr

/-- `m / 2^d` rounded. -/
def Rounding.shift (mode : Rounding) (m d : Nat) : Nat :=
  let n := m / 2 ^ d
  let r := m % 2 ^ d
  match mode with
  | .rne => if 2 ^ d < 2 * r ∨ (2 ^ d = 2 * r ∧ n % 2 = 1) then n + 1 else n
  | .sr x => if x * 2 ^ d < r * 2 ^ 32 then n + 1 else n

/-- Magnitude code of m * 2^e rounded once on the format's grid, continued above the largest finite value with further binades (R49). -/
def Fmt.gridCode (f : Fmt) (mode : Rounding) (m : Nat) (e : Int) : Nat :=
  if m = 0 then 0
  else
    let q := max (e + (Nat.log2 m : Int) - (f.mbits : Int)) f.qmin
    let n := if q ≤ e then m * 2 ^ (e - q).toNat else mode.shift m (q - e).toNat
    (q - f.qmin).toNat * 2 ^ f.mbits + n

/-- Magnitude of a grid code, continued above the largest finite value. -/
def Fmt.gridValue (f : Fmt) (code : Nat) : Nat × Int :=
  let ex := code / 2 ^ f.mbits
  if ex = 0 then (code, f.qmin) else (2 ^ f.mbits + code % 2 ^ f.mbits, f.qmin + ex - 1)

/-- IEEE rounding to nearest even, overflow to infinity (R44); for the formats with infinities. -/
def Fmt.encode (f : Fmt) : FpVal → Nat
  | .nan => f.nanCode
  | .inf neg => f.signed neg f.infCode
  | .fin neg m e =>
    let c := f.gridCode .rne m e
    f.signed neg (if f.maxCode < c then f.infCode else c)

namespace FpVal

/-- The signed integer m * 2^(e - e0), for e0 at most e. -/
def atExp (neg : Bool) (m : Nat) (e e0 : Int) : Int :=
  let v : Int := ((m * 2 ^ (e - e0).toNat : Nat) : Int)
  if neg then -v else v

/-- The value z * 2^e of a signed integer; an exact zero is +0. -/
def ofInt (z : Int) (e : Int) : FpVal := .fin (decide (z < 0)) z.natAbs e

def isNan : FpVal → Bool
  | .nan => true
  | _ => false

def isInf : FpVal → Bool
  | .inf _ => true
  | _ => false

def isZero : FpVal → Bool
  | .fin _ 0 _ => true
  | _ => false

def sign : FpVal → Bool
  | .nan => false
  | .inf n => n
  | .fin n _ _ => n

def neg : FpVal → FpVal
  | .nan => .nan
  | .inf n => .inf (!n)
  | .fin n m e => .fin (!n) m e

def abs : FpVal → FpVal
  | .nan => .nan
  | .inf _ => .inf false
  | .fin _ m e => .fin false m e

/-- The exact sum, IEEE special values; an exact zero is -0 only when both terms are -0 (R44, R46). -/
def add : FpVal → FpVal → FpVal
  | .nan, _ => .nan
  | _, .nan => .nan
  | .inf a, .inf b => if a = b then .inf a else .nan
  | .inf a, _ => .inf a
  | _, .inf b => .inf b
  | .fin a m e, .fin b n g =>
    if m = 0 ∧ n = 0 then .fin (a && b) 0 0
    else
      let e0 := min e g
      ofInt (atExp a m e e0 + atExp b n g e0) e0

def sub (x y : FpVal) : FpVal := add x (neg y)

/-- The exact product. -/
def mul : FpVal → FpVal → FpVal
  | .nan, _ => .nan
  | _, .nan => .nan
  | .inf a, .inf b => .inf (a != b)
  | .inf a, .fin b n _ => if n = 0 then .nan else .inf (a != b)
  | .fin a m _, .inf b => if m = 0 then .nan else .inf (a != b)
  | .fin a m e, .fin b n g => .fin (a != b) (m * n) (e + g)

/-- Comparison of two numbers that are not NaN; zeros of either sign are equal. -/
def cmp : FpVal → FpVal → Ordering
  | .inf a, .inf b => if a = b then .eq else if a then .lt else .gt
  | .inf a, _ => if a then .lt else .gt
  | _, .inf b => if b then .gt else .lt
  | .fin a m e, .fin b n g =>
    let e0 := min e g
    compare (atExp a m e e0) (atExp b n g e0)
  | _, _ => .eq

/-- IEEE comparisons; any with NaN is false (R134). -/
def lt (x y : FpVal) : Bool := !x.isNan && !y.isNan && cmp x y == .lt
def le (x y : FpVal) : Bool := !x.isNan && !y.isNan && cmp x y != .gt
def feq (x y : FpVal) : Bool := !x.isNan && !y.isNan && cmp x y == .eq

/-- MAX of R134: NaN if either is, -0 below +0. -/
def max2 (x y : FpVal) : FpVal :=
  if x.isNan || y.isNan then .nan
  else match cmp x y with
    | .lt => y
    | .gt => x
    | .eq => if x.sign then y else x

/-- MIN of R134. -/
def min2 (x y : FpVal) : FpVal :=
  if x.isNan || y.isNan then .nan
  else match cmp x y with
    | .lt => x
    | .gt => y
    | .eq => if x.sign then x else y

end FpVal

/-- A positive rational n / d brought to 64 or more significant bits with a sticky bit below: rounding it rounds n / d. -/
def ratValue (neg : Bool) (n d : Nat) (e : Int) : FpVal :=
  if n = 0 then .fin neg 0 0
  else
    let k := (Nat.log2 d + 66) - Nat.log2 n
    let q := n * 2 ^ k / d
    let r := n * 2 ^ k % d
    .fin neg (2 * q + b2n (r != 0)) (e - k - 1)

/-- The quotient with a sticky bit, IEEE special values. -/
def FpVal.div : FpVal → FpVal → FpVal
  | .nan, _ => .nan
  | _, .nan => .nan
  | .inf _, .inf _ => .nan
  | .inf a, .fin b _ _ => .inf (a != b)
  | .fin a _ _, .inf b => .fin (a != b) 0 0
  | .fin a m e, .fin b n g =>
    if n = 0 then (if m = 0 then .nan else .inf (a != b))
    else ratValue (a != b) m n (e - g)

/-- FP32 value of a code, and code of a value rounded once. -/
def f32 (x : Nat) : FpVal := fp32.decode x
def to32 (v : FpVal) : Nat := fp32.encode v

/-- fp32_add_rne and its companions on FP32 codes (R44, R56, R134). -/
def fadd (a b : Nat) : Nat := to32 ((f32 a).add (f32 b))
def fsub (a b : Nat) : Nat := to32 ((f32 a).sub (f32 b))
def fmul (a b : Nat) : Nat := to32 ((f32 a).mul (f32 b))
def fdiv (a b : Nat) : Nat := to32 ((f32 a).div (f32 b))
/-- fma_rne: a * b + c, one rounding. -/
def ffma (a b c : Nat) : Nat := to32 (((f32 a).mul (f32 b)).add (f32 c))
def fmax (a b : Nat) : Nat := to32 ((f32 a).max2 (f32 b))
def fmin (a b : Nat) : Nat := to32 ((f32 a).min2 (f32 b))
/-- A count as FP32, to nearest even (R140). -/
def fofNat (n : Nat) : Nat := to32 (.fin false n 0)
/-- 1.0, +Inf, -Inf and the canonical NaN in FP32. -/
def fone : Nat := 0x3F800000
def finf : Nat := 0x7F800000
def fninf : Nat := 0xFF800000
def fnan : Nat := 0x7FC00000

/-- splitmix64 (R50), arithmetic modulo 2^64. -/
def splitmix64 (x : BitVec 64) : BitVec 64 :=
  let z := x + 0x9E3779B97F4A7C15
  let z := (z ^^^ (z >>> 30)) * 0xBF58476D1CE4E5B9
  let z := (z ^^^ (z >>> 27)) * 0x94D049BB133111EB
  z ^^^ (z >>> 31)

/-- The 32-bit random number of element `i` (R50). -/
def srRandom (seed i : Nat) : Nat := (splitmix64 (BitVec.ofNat 64 (seed + i))).toNat / 2 ^ 32

/-- The sum of a list of exact values with no rounding, IEEE special values; an exact zero is +0 (R42, R44, R46). -/
def exactSum (l : List FpVal) : FpVal :=
  match l.foldl FpVal.add (.fin false 0 0) with
  | .fin _ 0 _ => .fin false 0 0
  | v => v

/-- tree_sum (R138) of FP32 codes. -/
def treeSum (v : List Nat) : Nat :=
  let addAt (p : List Nat) (k x : Nat) : List Nat := p.modify (k % 256) (fun y => fadd y x)
  let p := (v.foldl (fun (s : List Nat × Nat) x => (addAt s.1 s.2 x, s.2 + 1)) (List.replicate 256 0, 0)).1
  let rec fold : Nat → List Nat → List Nat
    | 0, p => p
    | n + 1, p => fold n (pairs p)
  (fold 8 p).headD 0
where
  /-- One stage: neighbours added pairwise. -/
  pairs : List Nat → List Nat
    | a :: b :: t => fadd a b :: pairs t
    | l => l

end Sys2Proof.Machine
end

