-- ==== Sys2Proof/Machine/Formats.lean ====
section
/-! DEFINITION. Narrow formats: segment and block scales (R33 to R38), choosing a scale (R36), quantising and converting an element with every outcome of Table 2.5 (R37, R48 to R53). -/

namespace Sys2Proof.Machine

/-- Value n * 2^e of an E5M3 code (R33). -/
def e5m3 (c : Nat) : Nat × Int :=
  if c / 8 % 32 = 0 then (c % 8, -17) else (8 + c % 8, (c / 8 % 32 : Nat) - 18)

/-- Exact value of an E5M3 code. -/
def e5m3Val (c : Nat) : FpVal := .fin false (e5m3 c).1 (e5m3 c).2

/-- Exact value of an E8M0 code; 0xFF is NaN (R38). -/
def e8m0Val (c : Nat) : FpVal := if c % 256 = 255 then .nan else .fin false 1 ((c % 256 : Nat) - 127)

/-- a * 2^e compared with b * 2^g. -/
def dyLe (a : Nat) (e : Int) (b : Nat) (g : Int) : Bool :=
  let e0 := min e g
  a * 2 ^ (e - e0).toNat ≤ b * 2 ^ (g - e0).toNat
def dyLt (a : Nat) (e : Int) (b : Nat) (g : Int) : Bool := !dyLe b g a e

/-- The four-bit targets of a quantiser. -/
inductive NarrowFmt where
  | fp4
  | int4
  | int4Sym
  deriving DecidableEq, Repr

/-- q of R36. -/
def NarrowFmt.q : NarrowFmt → Nat
  | .fp4 => 6
  | _ => 7

/-- Magnitude of a finite value; none for NaN and infinities. -/
def FpVal.mag? : FpVal → Option (Nat × Int)
  | .fin _ m e => some (m, e)
  | _ => none

/-- Smallest E5M3 code c from `c` on, among `fuel` more, with value(c) * q at least a * 2^e; 0xFF if none is (R36). -/
def scaleFrom (q a : Nat) (e : Int) : Nat → Nat → Nat
  | _, 0 => 255
  | c, fuel + 1 => if dyLe a e ((e5m3 c).1 * q) (e5m3 c).2 then c else scaleFrom q a e (c + 1) fuel

/-- Largest magnitude among the finite elements. -/
def amaxOf (l : List FpVal) : Nat × Int :=
  l.foldl (fun s v => match v.mag? with
    | some (m, e) => if dyLt s.1 s.2 m e then (m, e) else s
    | none => s) (0, 0)

/-- The DYNAMIC scale code of a segment (R36). -/
def dynamicScale (t : NarrowFmt) (l : List FpVal) : Nat :=
  let a := amaxOf l
  if a.1 = 0 then 0x78 else scaleFrom t.q a.1 a.2 0 256

/-- An element written: its code, what is counted, and what the watch sees. -/
structure Elem where
  code : Nat
  events : List FmtEvent := []
  clip : Bool := false
  deriving DecidableEq, Repr

/-- The magnitude of a value rounded up to FP32 (R71); NaN contributes none. -/
def watchMag (v : FpVal) : Nat :=
  match v with
  | .nan => 0
  | .inf _ => finf
  | .fin _ m e =>
    let c := fp32.gridCode .rne m e
    let g := fp32.gridValue c
    let c := if dyLt g.1 g.2 m e then c + 1 else c
    min c finf

/-- Grid magnitudes of a four-bit target in half steps: FP4 0, 0.5, ... 6; INT4 0 to 8. -/
def NarrowFmt.grid : NarrowFmt → Bool → List Nat
  | .fp4, _ => [0, 1, 2, 3, 4, 6, 8, 12]
  | .int4, true => [0, 2, 4, 6, 8, 10, 12, 14, 16]
  | _, _ => [0, 2, 4, 6, 8, 10, 12, 14]

/-- The code whose magnitude is entry `i` of the target's grid, for a value of sign `neg`. -/
def NarrowFmt.code (t : NarrowFmt) (neg : Bool) (i : Nat) : Nat :=
  match t with
  | .fp4 => b2n neg * 8 + i
  | _ => if neg then (16 - i) % 16 else i

/-- Index of the grid entry a magnitude a * 2^e rounds to on the grid `g` (in units of s * 2^-1, s = sm * 2^se), from index `i`: ties go to the even index, which is the FP4 code with M = 0 and the even integer (R37); under SR up exactly when f * 2^32 > r (R50). -/
def roundGrid (mode : Rounding) (a : Nat) (e : Int) (sm : Nat) (se : Int) : List Nat → Nat → Nat
  | lo :: hi :: rest, i =>
    -- |x| against hi * s / 2
    if dyLe (hi * sm) (se - 1) a e then roundGrid mode a e sm se (hi :: rest) (i + 1)
    else
      let e0 := min e (se - 1)
      let x := a * 2 ^ (e - e0).toNat
      let l := lo * sm * 2 ^ (se - 1 - e0).toNat
      let h := hi * sm * 2 ^ (se - 1 - e0).toNat
      match mode with
      | .rne => if (h - l) < 2 * (x - l) ∨ ((h - l) = 2 * (x - l) ∧ i % 2 = 1) then i + 1 else i
      | .sr r => if r * (h - l) < (x - l) * 2 ^ 32 then i + 1 else i
  | _, i => i

/-- Quantise a value with an E5M3 scale code (R37, R50, R53, Table 2.5). -/
def quantise (t : NarrowFmt) (mode : Rounding) (flush : Bool) (scale : Nat) : FpVal → Elem
  | .nan => { code := 0, events := [.nanToNarrow], clip := true }
  | .inf neg => { code := t.code neg ((t.grid neg).length - 1), events := [.infToNarrow], clip := true }
  | .fin neg m e =>
    let s := e5m3 scale
    let grid := t.grid neg
    let last := grid.length - 1
    if m = 0 then { code := t.code (neg && t == .fp4) 0 }
    else if dyLt (grid.getLastD 0 * s.1) (s.2 - 1) m e then
      { code := t.code neg last, events := [.overflowSaturated], clip := true }
    else
      let i := roundGrid mode m e s.1 s.2 grid 0
      if t == .fp4 && flush && i == 1 then { code := t.code neg 0, events := [.flushed] }
      else { code := t.code neg i }

/-- Round a value to a wide target or FP8 (R49, R50, R52, R53, Table 2.5). -/
def convertTo (f : Fmt) (mode : Rounding) (sat flush : Bool) : FpVal → Elem
  | .nan => { code := f.nanCode, clip := true }
  | .inf neg =>
    match f.specials with
    | .ieee => { code := f.signed neg f.infCode, clip := true }
    | _ => { code := if sat then f.signed neg f.maxCode else f.nanCode, events := [.infToNarrow], clip := true }
  | .fin neg m e =>
    let c := f.gridCode mode m e
    if f.maxCode < c then
      if sat then { code := f.signed neg f.maxCode, events := [.overflowSaturated], clip := true }
      else
        { code := match f.specials with
            | .ieee => f.signed neg f.infCode
            | _ => f.nanCode
          events := [.overflowToSpecial], clip := true }
    else if flush && decide (f.ebits + f.mbits = 7) && c != 0 && decide (c < 2 ^ f.mbits) then
      { code := f.signed neg 0, events := [.flushed] }
    else { code := f.signed neg c }

/-- Value of an INT4 code; the code 0x8 of a symmetric operand reads as 0 and is counted (R29). -/
def int4Val (sym : Bool) (c : Nat) : FpVal × List FmtEvent :=
  if sym ∧ c % 16 = 8 then (.fin false 0 0, [.int4Malformed])
  else (.ofInt (sext 4 c) 0, [])

/-- Value of a ternary code; 0b10 reads as 0 and is counted (R30). -/
def ternaryVal (c : Nat) : FpVal × List FmtEvent :=
  match c % 4 with
  | 1 => (.fin false 1 0, [])
  | 3 => (.fin true 1 0, [])
  | 2 => (.fin false 0 0, [.ternaryMalformed])
  | _ => (.fin false 0 0, [])

/-- Value of an element of a format with special codes, counted when it is NaN or infinite (R46). -/
def wideVal (f : Fmt) (c : Nat) : FpVal × List FmtEvent :=
  match f.decode c with
  | .fin n m e => (.fin n m e, [])
  | v => (v, [.specialOperand])

end Sys2Proof.Machine
end

