-- ==== Sys2Proof/Machine/Special.lean ====
section
/-! DEFINITION. The built-in special functions (R146, Table 6.8): flush and special arguments, exact cases, and otherwise an enclosure of the exact function in fixed point, narrowed until both ends round to the same FP32 value. -/

namespace Sys2Proof.Machine

/-- A fixed-point number z stands for z / 2^p. -/
def fxMul (p : Nat) (a b : Int) : Int := a * b / (2 ^ p : Nat)
def fxDiv (p : Nat) (a b : Int) : Int := a * (2 ^ p : Nat) / b
def fxOne (p : Nat) : Int := (2 ^ p : Nat)

/-- (-1)^neg * m * 2^e in fixed point, rounded down. -/
def fxOf (p : Nat) (neg : Bool) (m : Nat) (e : Int) : Int :=
  let sh := e + p
  let v : Int := if 0 ≤ sh then (m * 2 ^ sh.toNat : Nat) else (m / 2 ^ (-sh).toNat : Nat)
  if neg then -v else v

/-- Sum of x^(2k+1) / (2k+1) for small |x|: `t` is the current power, `x2` the square; s = -1 for arctan, 1 for artanh. -/
def oddSeries (p : Nat) (x2 s : Int) : Nat → Int → Nat → Int
  | 0, _, _ => 0
  | n + 1, t, d => if t = 0 then 0 else t / (d : Int) + oddSeries p x2 s n (s * fxMul p t x2) (d + 2)

/-- artanh(a / b) and arctan(a / b). -/
def artanhQ (p : Nat) (a b : Int) : Int :=
  let x := fxDiv p a b
  oddSeries p (fxMul p x x) 1 p x 1
def arctanQ (p : Nat) (a b : Int) : Int :=
  let x := fxDiv p a b
  oddSeries p (fxMul p x x) (-1) p x 1

/-- ln 2 = 2 artanh(1/3); pi by Machin's formula. -/
def fxLn2 (p : Nat) : Int := 2 * artanhQ p 1 3
def fxPi (p : Nat) : Int := 16 * arctanQ p 1 5 - 4 * arctanQ p 1 239

/-- Square root of a non-negative fixed-point number. -/
def fxSqrt (p : Nat) (x : Int) : Int := (Nat.sqrt (x.toNat * 2 ^ p) : Nat)

/-- Taylor series of the exponential: `t` is the current term. -/
def expSeries (p : Nat) (r : Int) : Nat → Int → Nat → Int
  | 0, _, _ => 0
  | n + 1, t, k => if t = 0 then 0 else t + expSeries p r n (fxMul p t r / (k : Int)) (k + 1)

/-- e^y as a mantissa in fixed point and a power of two. -/
def fxExp (p : Nat) (y : Int) : Int × Int :=
  let l := fxLn2 p
  let n := y / l
  (expSeries p (y - n * l) p (fxOne p) 1, n)

/-- A fixed-point number times 2^n, rounded down. -/
def fxShift (x n : Int) : Int := if 0 ≤ n then x * (2 ^ n.toNat : Nat) else x / (2 ^ (-n).toNat : Nat)

/-- The logistic function. -/
def fxSigmoid (p : Nat) (y : Int) : Int :=
  let e := fxExp p (-y)
  -- 1 / (1 + r 2^n)
  if 0 ≤ e.2 then fxDiv p (fxShift (fxOne p) (-e.2)) (fxShift (fxOne p) (-e.2) + e.1)
  else fxDiv p (fxOne p) (fxOne p + fxShift e.1 e.2)

/-- Sum of (-1)^k x^(2k+1) / (2^k k! (2k+1)): sqrt(pi/2) erf(x / sqrt 2). -/
def erfSeries (p : Nat) (h : Int) : Nat → Int → Nat → Int
  | 0, _, _ => 0
  | n + 1, t, k =>
    if t = 0 then 0 else t / ((2 * k + 1 : Nat) : Int) + erfSeries p h n (-(fxMul p t h) / ((k + 1 : Nat) : Int)) (k + 1)

/-- The normal distribution function for |x| at most 5.5. -/
def fxPhi (p : Nat) (x : Int) : Int :=
  let s := erfSeries p (fxMul p x x / 2) (4 * p) x 0
  fxOne p / 2 + fxMul p s (fxSqrt p (fxDiv p (fxOne p) (2 * fxPi p)))

/-- log2 of m * 2^e: the exponent of the leading bit, and ln of the fraction over ln 2. -/
def fxLog2 (p m : Nat) (e : Int) : Int :=
  let k := Nat.log2 m
  let f := fxOf p false m (-(k : Int))
  let t := fxDiv p (f - fxOne p) (f + fxOne p)
  (e + k) * fxOne p + fxDiv p (2 * oddSeries p (fxMul p t t) 1 p t 1) (fxLn2 p)

/-- The functions of Table 6.8 that are evaluated by enclosure. -/
inductive RealFn where
  | exp2
  | log2
  | sigmoid
  | tanh
  | geluErf
  | geluTanh
  | geluSigmoid
  deriving DecidableEq, Repr

/-- The function in fixed point with `p` fraction bits, within 2^40 steps of the exact value. -/
def RealFn.eval (fn : RealFn) (p : Nat) (neg : Bool) (m : Nat) (e : Int) : Int :=
  let x := fxOf p neg m e
  match fn with
  | .exp2 =>
    let n := x / fxOne p
    fxShift (fxExp p (fxMul p (x - n * fxOne p) (fxLn2 p))).1 (n + (fxExp p (fxMul p (x - n * fxOne p) (fxLn2 p))).2)
  | .log2 => fxLog2 p m e
  | .sigmoid => fxSigmoid p x
  | .tanh => 2 * fxSigmoid p (2 * x) - fxOne p
  | .geluErf => fxMul p x (fxPhi p x)
  | .geluTanh =>
    let x3 := fxMul p x (fxMul p x x)
    let y := fxMul p (fxSqrt p (fxDiv p (2 * fxOne p) (fxPi p))) (x + 44715 * x3 / 1000000)
    fxMul p x (fxSigmoid p (2 * y))
  | .geluSigmoid => fxMul p x (fxSigmoid p (1702 * x / 1000))

/-- z / 2^p as an exact value. -/
def fxVal (p : Nat) (z : Int) : FpVal := .ofInt z (-(p : Int))

/-- The FP32 code both ends of the enclosure round to, trying each precision in turn. -/
def RealFn.round (fn : RealFn) (neg : Bool) (m : Nat) (e : Int) : List Nat → Nat
  | [] => 0
  | p :: ps =>
    -- exp2 carries its error times 2^n, n at most 127
    let guard := 2 ^ (40 + 128)
    let v := fn.eval (p + 128) neg m e
    let lo := to32 (fxVal (p + 128) (v - (guard : Nat)))
    let hi := to32 (fxVal (p + 128) (v + (guard : Nat)))
    if lo = hi ∨ ps.isEmpty then to32 (fxVal (p + 128) v) else fn.round neg m e ps

/-- The precisions tried. -/
def precisions : List Nat := [256, 512, 1024, 2048]

/-- m * 2^e compared with a / b. -/
def magLeQ (m : Nat) (e : Int) (a b : Nat) : Bool :=
  if 0 ≤ e then m * 2 ^ e.toNat * b ≤ a else m * b ≤ a * 2 ^ (-e).toNat

/-- m * 2^e written with an odd mantissa. -/
def oddPart : Nat → Nat → Int → Nat × Int
  | 0, m, e => (m, e)
  | n + 1, m, e => if m % 2 = 0 then oddPart n (m / 2) (e + 1) else (m, e)

/-- The value of x if it is an integer. -/
def FpVal.int? : FpVal → Option Int
  | .fin n m e =>
    if 0 ≤ e then some ((if n then -1 else 1) * (m * 2 ^ e.toNat : Nat))
    else if m % 2 ^ (-e).toNat = 0 then some ((if n then -1 else 1) * (m / 2 ^ (-e).toNat : Nat)) else none
  | _ => none

/-- exp2 (Table 6.8 row 0x0). -/
def fexp2 (x : Nat) : Nat :=
  match f32 x with
  | .nan => fnan
  | .inf n => if n then 0 else finf
  | .fin n m e =>
    if n && !magLeQ m e 126 1 then 0
    else if !n && dyLe' 128 m e then finf
    else match (FpVal.fin n m e).int? with
      | some k => to32 (.fin false 1 k)
      | none => RealFn.exp2.round n m e precisions
where
  /-- `k` at most m * 2^e. -/
  dyLe' (k m : Nat) (e : Int) : Bool := if 0 ≤ e then k ≤ m * 2 ^ e.toNat else k * 2 ^ (-e).toNat ≤ m

/-- log2 (row 0x1). -/
def flog2 (x : Nat) : Nat :=
  match f32 x with
  | .nan => fnan
  | .inf n => if n then fnan else finf
  | .fin n m e =>
    if m = 0 then fninf
    else if n then fnan
    else
      let o := oddPart 300 m e
      if o.1 = 1 then to32 (.ofInt o.2 0) else RealFn.log2.round false m e precisions

/-- reciprocal (row 0x2). -/
def frecip (x : Nat) : Nat :=
  match f32 x with
  | .inf n => to32 (.fin n 0 0)
  | .fin n 0 _ => to32 (.inf n)
  | v => to32 (FpVal.div (.fin false 1 0) v)

/-- rsqrt (row 0x3): a root with a sticky bit, rounded once. -/
def frsqrt (x : Nat) : Nat :=
  match f32 x with
  | .nan => fnan
  | .inf n => if n then fnan else 0
  | .fin n m e =>
    if m = 0 then to32 (.inf n)
    else if n then fnan
    else
      -- 1 / sqrt(m 2^e) = sqrt(2^(2k - e) / m) / 2^k, with 2k - e even or odd as it comes
      let k : Nat := 200
      let num := 2 ^ ((2 * k : Nat) - e).toNat
      let r := Nat.sqrt (num / m)
      to32 (.fin false (2 * r + b2n (r * r * m != num)) (-(k : Int) - 1))

/-- A function of rows 0x4 to 0x8: value at 0, limits below and above, and evaluation between. -/
def fsigmoid (x : Nat) : Nat :=
  match f32 x with
  | .nan => fnan
  | .inf n => if n then 0 else fone
  | .fin n m e =>
    if !magLeQ m e 200 1 then (if n then 0 else fone)
    else RealFn.sigmoid.round n m e precisions

def ftanh (x : Nat) : Nat :=
  match f32 x with
  | .nan => fnan
  | .inf n => fp32.signed n fone
  | .fin n m e =>
    if m = 0 then fp32.signed n 0
    else if !magLeQ m e 40 1 then fp32.signed n fone
    else RealFn.tanh.round n m e precisions

/-- The GELU variants: +0 at or below -5.5, x at or above 5.5. -/
def fgelu (fn : RealFn) (x : Nat) : Nat :=
  match f32 x with
  | .nan => fnan
  | .inf n => if n then 0 else finf
  | .fin n m e =>
    if m = 0 then x
    else if n && fexp2.dyLe' 11 m (e + 1) then 0
    else if !n && fexp2.dyLe' 11 m (e + 1) then x
    else fn.round n m e precisions

/-- FUNC value of Table 6.8 on an FP32 code. -/
def builtin (fn x : Nat) : Nat :=
  match fn with
  | 0 => fexp2 x
  | 1 => flog2 x
  | 2 => frecip x
  | 3 => frsqrt x
  | 4 => fsigmoid x
  | 5 => ftanh x
  | 6 => fgelu .geluErf x
  | 7 => fgelu .geluTanh x
  | _ => fgelu .geluSigmoid x

end Sys2Proof.Machine
end

