-- ==== Sys2Proof/Machine/Caddy.lean ====
section
/-! DEFINITION. Caddy tables: image fields (Table 6.9), the checks of Table 6.10, and evaluation (R149); code-table images (Table 8.2) and their checks (Table 8.3). -/

namespace Sys2Proof.Machine

/-- Fields of a caddy table image (Table 6.9). -/
structure Caddy where
  segments : Nat
  exponent : Bool
  sign : Nat
  mb : Nat
  log2 : Int
  xLo : Nat
  below : Nat
  above : Nat
  zero : Nat
  image : List Byte
  deriving DecidableEq, Repr

def parseCaddy (bs : List Byte) : Caddy :=
  let m := fieldAt bs 0x0A 1
  { segments := fieldAt bs 8 2 % 512, exponent := bit m 0, sign := field m 3 2, mb := field m 7 4
    log2 := sext 8 (fieldAt bs 0x0C 1), xLo := fieldAt bs 0x10 4, below := fieldAt bs 0x14 4
    above := fieldAt bs 0x18 4, zero := fieldAt bs 0x1C 4, image := bs }

/-- DIRECTION of segment i: 0 NONE, 1 INCREASING, 2 DECREASING. -/
def Caddy.direction (t : Caddy) (i : Nat) : Nat := field (fieldAt t.image (0x20 + i / 4) 1) (2 * (i % 4) + 1) (2 * (i % 4))
/-- FP32 coefficient Ck of segment i. -/
def Caddy.coef (t : Caddy) (i k : Nat) : Nat := fieldAt t.image (0x80 + 16 * i + 4 * k) 4

/-- The exact cubic of segment i at u (R149). Where its exact value is zero, of which the rule gives no sign, it is +0 (DESIGN CHOICE, log 46). -/
def Caddy.cubic (t : Caddy) (i : Nat) (u : FpVal) : FpVal :=
  let c (k : Nat) : FpVal := f32 (t.coef i k)
  exactSum [c 0, (c 1).mul u, ((c 2).mul u).mul u, (((c 3).mul u).mul u).mul u]

/-- The value 2^e. -/
def pow2 (e : Int) : FpVal := .fin false 1 e
/-- A whole number. -/
def natVal (n : Nat) : FpVal := .fin false n 0

/-- Right end of the domain (R148). -/
def Caddy.rightEnd (t : Caddy) : FpVal :=
  if t.exponent then pow2 (t.log2 + (t.segments / 2 ^ t.mb : Nat)) else (f32 t.xLo).add ((natVal t.segments).mul (pow2 t.log2))

/-- floor(x / 2^e) of a value that is not negative. -/
def floorDiv2 (x : FpVal) (e : Int) : Nat :=
  match x with
  | .fin _ m g => if e ≤ g then m * 2 ^ (g - e).toNat else m / 2 ^ (e - g).toNat
  | _ => 0

/-- Exponent of the leading bit of a positive value. -/
def leadExp : FpVal → Int
  | .fin _ m e => e + Nat.log2 m
  | _ => 0

/-- Value of the table for x in the domain of the non-negative half of EXPONENT mode (R149). -/
def Caddy.expValue (t : Caddy) (a : FpVal) : Nat :=
  if a.lt (pow2 t.log2) then t.zero
  else if a.isInf || t.rightEnd.le a then t.above
  else
    let e := leadExp a
    let f := a.sub (pow2 e)
    let step := e - t.mb
    let s := floorDiv2 f step
    let u := (f.sub ((natVal s).mul (pow2 step))).mul (pow2 (-step))
    to32 (t.cubic ((e - t.log2).toNat * 2 ^ t.mb + s) u)

/-- LOOKUP of an FP32 code (R149). -/
def Caddy.lookup (t : Caddy) (x : Nat) : Nat :=
  let v := f32 x
  if v.isNan then fnan
  else if t.exponent then
    if v.sign && !v.isZero then
      match t.sign with
      | 0 => t.below
      | 1 => to32 (f32 (t.expValue v.abs)).neg
      | _ => t.expValue v.abs
    else t.expValue v
  else
    let lo := f32 t.xLo
    if v.lt lo then t.below
    else if t.rightEnd.le v then t.above
    else
      let d := v.sub lo
      let i := floorDiv2 d t.log2
      let u := (d.sub ((natVal i).mul (pow2 t.log2))).mul (pow2 (-t.log2))
      to32 (t.cubic i u)

/-- A code is NaN or infinite. -/
def notFinite (x : Nat) : Bool := (f32 x).isNan || (f32 x).isInf

/-- Why a table is rejected: reason and segment. -/
abbrev Rejection := Nat × Nat

/-- Check 2, FIELD. MB is bounded for EXPONENT alone, as Table 6.9 has it; in UNIFORM mode whatever it holds is ignored (DESIGN CHOICE, log 46). -/
def Caddy.fieldsOk (t : Caddy) : Bool :=
  let b (a : Nat) : Nat := fieldAt t.image a 1
  decide (1 ≤ t.segments) && decide (t.segments ≤ 256) && b 9 / 2 == 0 && field (b 0x0A) 1 0 != 2 && field (b 0x0A) 1 0 != 3
    && t.sign != 3 && (t.exponent || t.sign == 0)
    && (!t.exponent || (decide (t.mb ≤ 8) && t.segments % 2 ^ t.mb == 0))
    && b 0x0B == 0 && fieldAt t.image 0x0D 3 == 0 && decide (-126 ≤ t.log2) && decide (t.log2 ≤ 127)
    && (if t.exponent then t.xLo == 0 else !notFinite t.xLo) && (t.exponent || t.zero == 0)
    && (List.range 256).all (fun i => t.direction i != 3) && fieldAt t.image 0x60 32 == 0
    && (if t.exponent then decide (t.log2 + (t.segments / 2 ^ t.mb : Nat) ≤ 128)
        else t.rightEnd.le (f32 0x7F7FFFFF))

/-- The derivative of segment i takes a negative value somewhere on 0 to 1, after multiplying by `s` = 1 or -1. -/
def Caddy.falls (t : Caddy) (i : Nat) (s : FpVal) : Bool :=
  let zero : FpVal := .fin false 0 0
  let c1 := (f32 (t.coef i 1)).mul s
  let c2 := (f32 (t.coef i 2)).mul s
  let c3 := (f32 (t.coef i 3)).mul s
  let c33 := c3.mul (natVal 3)
  -- ends, and the vertex at u = -C2 / (3 C3) when it lies inside and is a minimum
  c1.lt zero || (exactSum [c1, c2.mul (natVal 2), c33]).lt zero
    || (zero.lt c3 && zero.lt c2.neg && c2.neg.lt c33 && ((c1.mul c33).sub (c2.mul c2)).lt zero)

/-- One side of a seam: its direction and its value there. -/
def seamBad (dir : Nat) (left right : FpVal) : Bool :=
  (dir == 1 && right.lt left) || (dir == 2 && left.lt right)

/-- First failing seam, by the segment on its right (check 5). Under ODD and EVEN a seam has its mirror on the negative half, where the side farther from zero is the left one: there the direction of the segment on the right decides by the same comparison. -/
def Caddy.seamFault (t : Caddy) : Option Nat :=
  let one := natVal 1
  let d0 := t.direction 0
  let c0 := f32 (t.coef 0 0)
  let first :=
    if t.exponent then
      (t.sign == 0 && seamBad d0 (f32 t.below) (f32 t.zero))
        || (t.sign == 1 && seamBad d0 (f32 t.zero).neg (f32 t.zero))
        || seamBad d0 (f32 t.zero) c0
    else seamBad d0 (f32 t.below) c0
  if first then some 0
  else (List.range t.segments).findSome? (fun i =>
    let right := if i + 1 = t.segments then f32 t.above else f32 (t.coef (i + 1) 0)
    let mirrored := t.exponent && t.sign != 0 && decide (i + 1 < t.segments)
    if seamBad (t.direction i) (t.cubic i one) right || (mirrored && seamBad (t.direction (i + 1)) (t.cubic i one) right) then some (i + 1) else none)

/-- The checks of Table 6.10 in order. The segment reported with CHECK, FIELD and a BELOW, ABOVE or ZERO that is not finite, of which R150 gives none, is 0 (DESIGN CHOICE, log 46). -/
def caddyFault (bs : List Byte) : Option Rejection :=
  let t := parseCaddy bs
  let segs := List.range t.segments
  if fieldAt bs 0 4 ≠ 0xCADD7AB1 ∨ crcWithout bs 4 ≠ fieldAt bs 4 4 then some (1, 0)
  else if !t.fieldsOk then some (2, 0)
  else match segs.find? (fun i => (List.range 4).any (fun k => notFinite (t.coef i k))) with
  | some i => some (3, i)
  | none =>
    if notFinite t.below || notFinite t.above || notFinite t.zero then some (3, 0)
    else match segs.find? (fun i => (t.direction i == 1 && t.falls i (natVal 1)) || (t.direction i == 2 && t.falls i (natVal 1).neg)) with
    | some i => some (4, i)
    | none => t.seamFault.map (fun i => (5, i))

/-- Symbols of a code-table format (Table 8.1). -/
def codeSymbols (format : Nat) : Nat := if format = 0 then 256 else if format = 1 then 16 else 32

/-- Code length of symbol s (Table 8.2). -/
def codeLen (img : List Byte) (s : Nat) : Nat :=
  let b := fieldAt img (0x80 + s / 2) 1
  if s % 2 = 0 then b % 16 else b / 16

/-- FORMAT of a code-table image. -/
def codeFormat (img : List Byte) : Nat := fieldAt img 8 1 % 4

/-- The checks of Table 8.3 in order. -/
def codeTableFault (bs : List Byte) : Option Rejection :=
  let n := codeSymbols (codeFormat bs)
  let used := (List.range n).filter (fun s => codeLen bs s != 0)
  if fieldAt bs 0 4 ≠ 0xE7C0DE08 ∨ crcWithout bs 4 ≠ fieldAt bs 4 4 then some (1, 0)
  else if codeFormat bs = 3 ∨ fieldAt bs 8 4 / 4 ≠ 0 ∨ fieldAt bs 0x0C 0x74 ≠ 0
      ∨ (List.range 256).any (fun s => decide (n ≤ s) && codeLen bs s != 0) then some (2, 0)
  else if used.isEmpty ∨ 2 ^ 15 < (used.map (fun s => 2 ^ (15 - codeLen bs s))).sum then some (3, 0)
  else none

end Sys2Proof.Machine
end

