-- ==== Sys2Proof/Machine/Loop.lean ====
section
/-! DEFINITION. Loop descriptors (R125 to R130): their fields, checks, walk order, run-time bounds, masks and operand offsets. -/

namespace Sys2Proof.Machine

/-- Level entry (Table 5.10) with its five strides. -/
structure Level where
  bound : Nat
  src : Nat
  nest : Nat
  reduce : Bool
  boundMax : Nat
  mcast : Nat
  first : Nat
  strides : List Int
  deriving DecidableEq, Repr

/-- Loop descriptor (Tables 5.9 and 5.10): only the levels below LEVELS count. -/
structure Loop where
  levelCount : Nat
  tileA : Nat
  tileB : Nat
  order : Nat
  shifts : List Nat
  levels : List Level
  deriving DecidableEq, Repr

/-- The descriptor held by 256 bytes (R125). -/
def parseLoop (bs : List Byte) : Loop :=
  let head := fieldAt bs 0 4
  let sh := fieldAt bs 4 4
  let level (l : Nat) : Level :=
    let e := fieldAt bs (0x20 + 16 * l) 16
    { bound := field e 23 0, src := field e 25 24, nest := field e 28 26, reduce := bit e 29
      boundMax := field e 55 32, mcast := field e 79 64, first := field e 103 80
      strides := (List.range 5).map (fun o => sext 32 (fieldAt bs (0x80 + 20 * l + 4 * o) 4)) }
  let n := field head 2 0
  { levelCount := n, tileA := field head 6 4, tileB := field head 10 8, order := field head 13 12
    shifts := (List.range 5).map (fun o => field sh (4 * o + 3) (4 * o))
    levels := (List.range (min n 6)).map level }

/-- A level that is not there. -/
def Level.none : Level :=
  { bound := 0, src := 0, nest := 0, reduce := false, boundMax := 0, mcast := 0, first := 0, strides := [] }

def Loop.level (l : Loop) (i : Nat) : Level := l.levels.getD i Level.none

/-- Points of the walk before curve points are skipped: none is, so the product of BOUND_MAX counts those walked (R126, R129). -/
def Loop.points (l : Loop) : Nat := l.levels.foldl (fun n v => n * v.boundMax) 1

/-- The checks of a descriptor that a slot word names (R126, R127, R129, Tables 5.9 and 5.10). -/
def Loop.ok (l : Loop) (mbounds : Nat) : Bool :=
  decide (1 ≤ l.levelCount) && decide (l.levelCount ≤ 6) && l.order != 3
    && (List.range l.levelCount).all (fun k => l.levels.any (fun v => v.nest == k))
    && l.levels.all (fun v => v.src != 3 && v.boundMax != 0 && (v.src != 2 || decide (field v.bound 5 0 < mbounds)))
    && decide (l.points ≤ 2 ^ 24)
    && (l.order == 0 ||
        (l.tileA != l.tileB && decide (l.tileA < l.levelCount) && decide (l.tileB < l.levelCount)
          && (l.level l.tileA).nest == (l.level l.tileB).nest + 1))

/-- Level numbers in NEST order, outermost first. -/
def Loop.nestOrder (l : Loop) : List Nat :=
  (List.range 6).filterMap (fun k => (List.range l.levels.length).find? (fun i => (l.level i).nest == k))

/-- The bits of `d` at even places from bit `i` on, for `m` places. -/
def evenBits (d i : Nat) : Nat → Nat
  | 0 => 0
  | m + 1 => b2n (bit d (2 * i)) * 2 ^ i + evenBits d (i + 1) m

/-- The Hilbert map of R129: `s` is the current side, `t` what is left of d. -/
def hilbertStep : Nat → Nat → Nat → Nat → Nat → Nat × Nat
  | 0, _, _, a, b => (a, b)
  | m + 1, s, t, a, b =>
    let ra := t / 2 % 2
    let rb := (t + ra) % 2
    let p := if rb = 0 then (if ra = 1 then (s - 1 - b, s - 1 - a) else (b, a)) else (a, b)
    hilbertStep m (2 * s) (t / 4) (p.1 + s * ra) (p.2 + s * rb)

/-- (a, b) of position d of a curve of side 2^m (R129). -/
def curvePoint (order m d : Nat) : Nat × Nat :=
  if order = 1 then (evenBits d 0 m, evenBits (d / 2) 0 m) else hilbertStep m 1 d 0 0

/-- Least m with n at most 2^m. -/
def log2Up (n : Nat) : Nat := if n ≤ 1 then 0 else Nat.log2 (n - 1) + 1

/-- The points of the curve pair in order, those outside either bound skipped. -/
def Loop.pairWalk (l : Loop) : List (Nat × Nat) :=
  let na := (l.level l.tileA).boundMax
  let nb := (l.level l.tileB).boundMax
  let m := log2Up (max na nb)
  ((List.range (4 ^ m)).map (curvePoint l.order m)).filter (fun p => decide (p.1 < na) && decide (p.2 < nb))

/-- Odometer digits of point `t`, innermost level of `order` fastest: pairs of level and i_l - FIRST_l. -/
def Loop.digits (l : Loop) (walk : List (Nat × Nat)) : List Nat → Nat → List (Nat × Nat)
  | [], _ => []
  | i :: outer, t =>
    if l.order != 0 && i == l.tileA then l.digits walk outer t
    else if l.order != 0 && i == l.tileB then
      let n := walk.length
      let p := walk.getD (t % n) (0, 0)
      (l.tileA, p.1) :: (l.tileB, p.2) :: l.digits walk outer (t / n)
    else
      let n := (l.level i).boundMax
      (i, t % n) :: l.digits walk outer (t / n)

/-- i_l - FIRST_l for each level at point `t` of the walk (R126, R129). -/
def Loop.point (l : Loop) (t : Nat) : List Nat :=
  let ds := l.digits (if l.order = 0 then [] else l.pairWalk) l.nestOrder.reverse t
  (List.range l.levels.length).map (fun i => ((ds.find? (fun d => d.1 == i)).map (·.2)).getD 0)

/-- Stride of level i for operand o, after SHIFT. -/
def Loop.stride (l : Loop) (i o : Nat) : Int := (l.level i).strides.getD o 0 * (2 ^ l.shifts.getD o 0 : Nat)

/-- What the levels add to operand o at a point (R126). -/
def Loop.offset (l : Loop) (o : Nat) (p : List Nat) : Int :=
  (List.range l.levels.length).foldl (fun z i => z + (p.getD i 0 : Int) * l.stride i o) 0

/-- A point is masked when a level without REDUCE has reached its run-time bound (R127). -/
def Loop.masked (l : Loop) (bounds p : List Nat) : Bool :=
  (List.range l.levels.length).any (fun i => !(l.level i).reduce && decide (bounds.getD i 0 ≤ p.getD i 0))

/-- A REDUCE level has reached its run-time bound: the iteration contributes no chunk (R128). Its index counts from FIRST here, as R127 has it of the other levels; R128 says index alone (DESIGN CHOICE, log 46). -/
def Loop.reduceEmpty (l : Loop) (bounds p : List Nat) : Bool :=
  (List.range l.levels.length).any (fun i => (l.level i).reduce && decide (bounds.getD i 0 ≤ p.getD i 0))

/-- Every REDUCE level is at FIRST, where INIT applies (R128). -/
def Loop.reduceFirst (l : Loop) (p : List Nat) : Bool :=
  (List.range l.levels.length).all (fun i => !(l.level i).reduce || p.getD i 0 == 0)

/-- The mixed-radix number of the REDUCE levels in NEST order (R128). -/
def Loop.rho (l : Loop) (p : List Nat) : Nat :=
  (l.nestOrder.filter (fun i => (l.level i).reduce)).foldl (fun r i => r * (l.level i).boundMax + p.getD i 0) 0

/-- Destination mask: MCAST of the innermost level that has one, else the FETCH's own (R130). -/
def Loop.mcast (l : Loop) (mask : Nat) : Nat :=
  match l.nestOrder.reverse.find? (fun i => (l.level i).mcast != 0) with
  | some i => (l.level i).mcast
  | none => mask

/-- The least a coordinate operand with value `base` takes over the walk. -/
def Loop.leastOf (l : Loop) (o : Nat) (base : Int) : Int :=
  (List.range l.levels.length).foldl
    (fun z i => z + min 0 (((l.level i).boundMax - 1 : Int) * l.stride i o)) base

/-- Operand o is a multiple of n at every point of the walk, masked or not. -/
def Loop.multiples (l : Loop) (o : Nat) (base : Int) (n : Nat) : Bool :=
  base % n == 0 && (List.range l.levels.length).all (fun i => (l.level i).boundMax == 1 || l.stride i o % n == 0)

/-- Every value operand o takes meets `p`. -/
def Loop.allOffsets (l : Loop) (o : Nat) (p : Int → Bool) : Bool :=
  go l.levels.length 0
where
  /-- Levels below `n` are still to be chosen. -/
  go : Nat → Int → Bool
    | 0, z => p z
    | n + 1, z => (List.range (l.level n).boundMax).all (fun i => go n (z + (i : Int) * l.stride n o))

end Sys2Proof.Machine
end

