-- ==== Sys2Proof/Machine/Records.lean ====
section
/-! DEFINITION. Slot words and parameter records (Tables 5.5, 5.7, 5.8, 6.1, 6.6, 6.7, 8.4, 9.1) and the conditions each must meet to have an encoding. -/

namespace Sys2Proof.Machine

/-- Slot word (Table 5.5): opcode, loop and parameter indexes, operand fields OPB0 to OPB4. -/
structure SlotWord where
  opcode : Nat
  loopIx : Nat
  paramIx : Nat
  opb : List Nat
  deriving DecidableEq, Repr

def parseSlot (w : Nat) : SlotWord :=
  { opcode := field w 255 250, loopIx := field w 249 240, paramIx := field w 239 228
    opb := (List.range 5).map (fun o => field w (44 * o + 43) (44 * o)) }

/-- Operand field OPBo. -/
def SlotWord.op (w : SlotWord) (o : Nat) : Nat := w.opb.getD o 0
/-- A scratchpad operand: [21:0]. -/
def SlotWord.spad (w : SlotWord) (o : Nat) : Nat := w.op o % 2 ^ 22

/-- Operand pairs of the engine (Table 2.4, PAIR of Table 5.7). -/
inductive Pair where
  | fp4
  | int4
  | ternary
  | mxfp4
  | fp8
  | bf16
  | fp16
  deriving DecidableEq, Repr

def Pair.of? : Nat → Option Pair
  | 0 => some .fp4
  | 1 => some .int4
  | 2 => some .ternary
  | 3 => some .mxfp4
  | 4 => some .fp8
  | 5 => some .bf16
  | 6 => some .fp16
  | _ => none

/-- Products a lane sums in one core cycle (Table 2.4). -/
def Pair.chunk : Pair → Nat
  | .ternary => 128
  | .fp8 => 32
  | .bf16 => 8
  | .fp16 => 8
  | _ => 64

/-- Bits of an activation element in the scratchpad. -/
def Pair.xBits : Pair → Nat
  | .fp8 => 8
  | .bf16 => 16
  | .fp16 => 16
  | _ => 4

/-- Bits of a weight element. -/
def Pair.wBits : Pair → Nat
  | .ternary => 2
  | p => p.xBits

/-- Elements one scale byte covers: 128, or 32 under E8M0; none for the pairs without scales (R117). -/
def Pair.scaleLen : Pair → Option Nat
  | .mxfp4 => some 32
  | .fp4 => some 128
  | .int4 => some 128
  | .ternary => some 128
  | _ => none

/-- Product record (Table 5.7). -/
structure ProductRec where
  pair : Nat
  xE5m2 : Bool
  wE5m2 : Bool
  xSym : Bool
  wSym : Bool
  keep : Bool
  inline : Bool
  rotK : Nat
  transpose : Bool
  stored : Bool
  srcFmt : Nat
  corr : Bool
  corrFp8 : Bool
  corrE5m2 : Nat
  sat : Bool
  m : Nat
  k64 : Nat
  n : Nat
  rank : Nat
  k0 : Nat
  seed : Nat
  corrX : Nat
  corrA : Nat
  corrB : Nat
  deriving DecidableEq, Repr

def parseProduct (bs : List Byte) : ProductRec :=
  let f := fieldAt bs 0 4
  { pair := field f 3 0, xE5m2 := bit f 4, wE5m2 := bit f 5, xSym := bit f 6, wSym := bit f 7
    keep := bit f 8, inline := bit f 9, rotK := field f 13 10, transpose := bit f 14, stored := bit f 15
    srcFmt := field f 18 16, corr := bit f 19, corrFp8 := bit f 20, corrE5m2 := field f 23 21, sat := bit f 24
    m := fieldAt bs 4 2, k64 := fieldAt bs 6 2, n := fieldAt bs 8 2, rank := fieldAt bs 10 2
    k0 := fieldAt bs 12 4, seed := fieldAt bs 16 8
    corrX := fieldAt bs 0x18 4 % 2 ^ 22, corrA := fieldAt bs 0x1C 4 % 2 ^ 22, corrB := fieldAt bs 0x20 4 % 2 ^ 22 }

def ProductRec.k (r : ProductRec) : Nat := r.k64 * 64

/-- Source formats of the rotation unit: 0 BF16, 1 FP16, 2 FP32, 3 E4M3, 4 E5M2. -/
def srcFmt? : Nat → Option Fmt
  | 0 => some bf16
  | 1 => some fp16
  | 2 => some fp32
  | 3 => some e4m3
  | 4 => some e5m2
  | _ => none

/-- Conditions on rotation fields common to INLINE and ROTATE_STORE (R57, Table 5.7). -/
def ProductRec.rotOk (r : ProductRec) : Bool :=
  (r.rotK == 0 || (decide (4 ≤ r.rotK) && decide (r.rotK ≤ 12) && r.k % 2 ^ r.rotK == 0))
    && (srcFmt? r.srcFmt).isSome

/-- Bytes of a correction element. -/
def ProductRec.corrBytes (r : ProductRec) : Nat := if r.corrFp8 then 1 else 2

/-- No format or symmetry bit that does not belong to PAIR (R116). -/
def ProductRec.formatOk (r : ProductRec) : Bool := (r.pair == 4 || (!r.xE5m2 && !r.wE5m2)) && (r.pair == 1 || (!r.xSym && !r.wSym))

/-- A PRODUCT record has an encoding (R57, R64, R66, R116). -/
def ProductRec.productOk (r : ProductRec) (looped : Bool) : Bool :=
  decide (r.pair ≤ 6) && decide (1 ≤ r.m) && decide (r.m ≤ 2048) && decide (1 ≤ r.k64) && decide (1 ≤ r.n)
    && r.formatOk && (srcFmt? r.srcFmt).isSome
    && (if r.inline then r.pair != 3 && r.pair != 5 && r.pair != 6 && r.rotOk else r.rotK == 0)
    && (r.rotK == 0 || r.k0 % 2 ^ r.rotK == 0)
    && (!r.corr ||
        (!looped && decide (r.pair ≤ 3) && decide (r.rank ≤ 256) && decide (r.m * r.rank ≤ 32768)
          && (if r.corrFp8 then r.rank % 16 == 0 && decide (16 ≤ r.rank) else r.rank % 8 == 0 && decide (8 ≤ r.rank))
          && r.corrX % r.corrBytes == 0 && r.corrA % r.corrBytes == 0 && r.corrB % r.corrBytes == 0))

/-- A ROTATE_STORE record has an encoding (R116, R118). What R116 says of CORR with PAIR 0x4 to 0x6, of the rank and of a LOOP is held of PRODUCT alone: a correction copy is no correction (DESIGN CHOICE, log 46). -/
def ProductRec.rotateOk (r : ProductRec) : Bool :=
  (r.pair == 0 || r.pair == 1 || r.pair == 2 || r.pair == 4) && r.n == 0
    && decide (1 ≤ r.m) && decide (r.m ≤ 2048) && decide (1 ≤ r.k64)
    && r.formatOk && r.rotOk

/-- Conversion record (Table 5.8). -/
structure ConvRec where
  target : Nat
  sr : Bool
  sat : Bool
  flush : Bool
  stored : Bool
  rows : Nat
  cols : Nat
  outScale : Nat
  w : Nat
  seed : Nat
  pitch : Nat
  deriving DecidableEq, Repr

def parseConv (bs : List Byte) : ConvRec :=
  let f := fieldAt bs 0 4
  { target := field f 3 0, sr := bit f 4, sat := bit f 5, flush := bit f 6, stored := bit f 7
    rows := fieldAt bs 4 2, cols := fieldAt bs 6 2, outScale := fieldAt bs 8 4, w := fieldAt bs 12 4
    seed := fieldAt bs 16 8, pitch := fieldAt bs 0x18 4 % 2 ^ 22 }

/-- Targets of a conversion. -/
inductive Target where
  | wide (f : Fmt)
  | narrow (t : NarrowFmt)
  deriving DecidableEq, Repr

def target? : Nat → Option Target
  | 0 => some (.wide fp32)
  | 1 => some (.wide bf16)
  | 2 => some (.wide fp16)
  | 3 => some (.wide e4m3)
  | 4 => some (.wide e5m2)
  | 5 => some (.narrow .fp4)
  | 6 => some (.narrow .int4)
  | 7 => some (.narrow .int4Sym)
  | _ => none

def Target.bits : Target → Nat
  | .wide f => f.width
  | .narrow _ => 4

/-- Bytes of `n` packed elements of `b` bits (R32). -/
def packedLen (b n : Nat) : Nat := ceilDiv (b * n) 8

/-- A CONVERT record has an encoding with column base `col` (R119, Table 5.8). -/
def ConvRec.ok (r : ConvRec) (loop : Option Loop) (row col : Nat) : Bool :=
  let narrow := decide (5 ≤ r.target)
  let each (p : Int → Bool) : Bool :=
    match loop with
    | some l => l.allOffsets 4 (fun z => p (col + z))
    | none => p col
  decide (r.target ≤ 7) && (!r.flush || (3 ≤ r.target && r.target ≤ 5)) && (!r.stored || narrow)
    && decide (1 ≤ r.rows) && decide (r.rows ≤ 2048) && decide (1 ≤ r.cols) && decide (r.cols ≤ r.w)
    && (match target? r.target with
        | some t => decide (packedLen t.bits r.cols ≤ r.pitch)
        | none => false)
    && (match loop with
        | some l => decide (0 ≤ l.leastOf 3 row) && decide (0 ≤ l.leastOf 4 col)
        | none => true)
    && (!narrow || each (fun c => c % 128 == 0 && (r.cols % 128 == 0 || c + r.cols == r.w)))

/-- Vector record (Table 6.1). -/
structure VecRec where
  subop : Nat
  fmtA : Nat
  fmtB : Nat
  fmtD : Nat
  fmtX : Nat
  bMode : Nat
  sat : Bool
  rows : Nat
  cols : Nat
  pitchA : Nat
  pitchB : Nat
  pitchD : Nat
  pitchX : Nat
  imm : Nat
  imm2 : Nat
  window : Nat
  inH : Nat
  inW : Nat
  channels : Nat
  group : Nat
  pass : Nat
  deriving DecidableEq, Repr

def parseVec (bs : List Byte) : VecRec :=
  let f := fieldAt bs 0 4
  { subop := field f 4 0, fmtA := field f 6 5, fmtB := field f 8 7, fmtD := field f 10 9, fmtX := field f 12 11
    bMode := field f 14 13, sat := bit f 15, rows := fieldAt bs 4 2, cols := fieldAt bs 6 2
    pitchA := fieldAt bs 8 4 % 2 ^ 22, pitchB := fieldAt bs 12 4 % 2 ^ 22, pitchD := fieldAt bs 0x10 4 % 2 ^ 22
    pitchX := fieldAt bs 0x14 4 % 2 ^ 22, imm := fieldAt bs 0x18 4, imm2 := fieldAt bs 0x1C 4
    window := fieldAt bs 0x20 4, inH := fieldAt bs 0x24 2, inW := fieldAt bs 0x26 2, channels := fieldAt bs 0x28 2
    group := fieldAt bs 0x2A 1 % 16, pass := fieldAt bs 0x2A 1 / 16 }

/-- Vector formats: 0 FP32, 1 BF16, 2 FP16. -/
def vecFmt : Nat → Fmt
  | 1 => bf16
  | 2 => fp16
  | _ => fp32

/-- Bytes of an element of a vector format. -/
def vecBytes (c : Nat) : Nat := if c = 0 then 4 else 2

/-- What a vector sub-operation uses (Tables 6.2 and 6.4, R137, R139, R144). -/
structure VecUse where
  a : Bool := false
  b : Bool := false
  x : Bool := false
  /-- Pitched rows are written at D. -/
  d : Bool := false
  /-- One value a row is written at D. -/
  dRow : Bool := false
  /-- State records at X; for MERGE at B too. -/
  st : Bool := false
  stB : Bool := false
  /-- The state is written. -/
  stW : Bool := false
  imm : Bool := false
  /-- IMM stands for B under SCALAR; or IMM2 does (gamma). -/
  scalarImm : Bool := false
  gamma : Bool := false
  deriving DecidableEq, Repr

def vecUse? (opcode subop : Nat) : Option VecUse :=
  match opcode, subop with
  | 0x11, 3 => some { a := true, b := true, x := true, d := true, scalarImm := true }
  | 0x11, 6 => some { a := true, d := true }
  | 0x11, 7 => some { a := true, d := true }
  | 0x11, 11 => some { a := true, b := true, x := true, d := true, scalarImm := true }
  | 0x11, n => if n ≤ 10 then some { a := true, b := true, d := true, scalarImm := true } else none
  | 0x12, 0 => some { a := true, d := true }
  | 0x13, n => if n ≤ 4 then some { a := true, dRow := true } else none
  | 0x14, 0 => some { st := true, stW := true }
  | 0x14, 1 => some { a := true, st := true, stW := true, imm := true }
  | 0x14, 2 => some { a := true, st := true, stW := true }
  | 0x14, 3 => some { a := true, st := true, stW := true, imm := true }
  | 0x14, 4 => some { st := true, stB := true, stW := true }
  | 0x14, 5 => some { st := true, dRow := true }
  | 0x14, 6 => some { st := true, dRow := true }
  | 0x14, 7 => some { a := true, st := true, d := true, imm := true }
  | 0x14, 8 => some { a := true, b := true, st := true, d := true, imm := true, gamma := true }
  | 0x14, 9 => some { a := true, b := true, st := true, d := true, imm := true, gamma := true }
  | 0x15, 0 => some { a := true, b := true, x := true, d := true }
  | 0x15, 1 => some { a := true, d := true }
  | 0x15, 2 => some { a := true, d := true }
  | _, _ => none

/-- WINDOW word (Table 6.6). -/
structure WinWord where
  kh : Nat
  kw : Nat
  strideH : Nat
  strideW : Nat
  padT : Nat
  padB : Nat
  padL : Nat
  padR : Nat
  acc : Nat
  avgDiv : Bool
  deriving DecidableEq, Repr

def parseWin (w : Nat) : WinWord :=
  { kh := field w 2 0, kw := field w 5 3, strideH := field w 7 6 + 1, strideW := field w 9 8 + 1
    padT := field w 12 10, padB := field w 15 13, padL := field w 18 16, padR := field w 21 19
    acc := field w 23 22, avgDiv := bit w 24 }

/-- Conditions of R143. -/
def VecRec.windowOk (r : VecRec) : Bool :=
  let w := parseWin r.window
  decide (1 ≤ w.kh) && decide (1 ≤ w.kw)
    && decide (w.padT ≤ 6) && decide (w.padB ≤ 6) && decide (w.padL ≤ 6) && decide (w.padR ≤ 6)
    && decide (w.padT < w.kh) && decide (w.padB < w.kh) && decide (w.padL < w.kw) && decide (w.padR < w.kw)
    && decide (1 ≤ r.inH) && decide (1 ≤ r.inW) && decide (1 ≤ r.channels) && decide (r.group ≤ 4)
    && r.channels % 2 ^ r.group == 0 && decide (r.pass < 2 ^ r.group)
    && decide (w.kh ≤ r.inH + w.padT + w.padB) && decide (w.kw ≤ r.inW + w.padL + w.padR)
    && r.rows == (r.inH + w.padT + w.padB - w.kh) / w.strideH + 1
    && r.cols == ((r.inW + w.padL + w.padR - w.kw) / w.strideW + 1) * r.channels
    && (if r.subop = 0 then w.acc != 3 && !w.avgDiv
        else w.acc == 0 && r.group == 0 && r.pass == 0 && (r.subop == 2 || !w.avgDiv))

/-- Width of the operand rows of a vector operation: IN_W × CHANNELS for the input of a WINDOW. -/
def VecRec.aCols (r : VecRec) (opcode : Nat) : Nat := if opcode = 0x15 then r.inW * r.channels else r.cols

/-- The X tensor of a vector operation is read from the scratchpad (R206: not under MASKGEN; R144: only the bias of a CONV). -/
def VecRec.xTensor (r : VecRec) (opcode : Nat) (maskgen : Bool) (u : VecUse) : Bool :=
  u.x && !maskgen && (opcode != 0x15 || (parseWin r.window).acc == 2)

/-- A vector record has an encoding: unused fields zero, ranges and pitches (R136, R137, R139, R143, Table 6.1). B_MODE TENSOR and ROW have no gamma (R141), so LAYERNORM and RMSNORM take COLUMN and SCALAR alone; COLS of a ROWSTAT operation that does not use it is held to its range of Table 6.1, and not to zero (DESIGN CHOICE, log 46). -/
def VecRec.ok (r : VecRec) (opcode : Nat) (maskgen : Bool) : Bool :=
  match vecUse? opcode r.subop with
  | none => false
  | some u =>
    let win := opcode == 0x15
    let xT := r.xTensor opcode maskgen u
    let pitchOk (p f cols : Nat) : Bool := p % 128 == 0 && decide (cols * vecBytes f ≤ p)
    let bT := u.b && !win && r.bMode != 3
    decide (1 ≤ r.rows) && decide (r.rows ≤ 2048) && decide (1 ≤ r.cols)
      && r.fmtA != 3 && r.fmtB != 3 && r.fmtD != 3 && r.fmtX != 3
      && (u.a || (r.fmtA == 0 && r.pitchA == 0))
      && (bT || (win && u.b) || r.fmtB == 0)
      && (u.b || u.stB || (r.bMode == 0 && r.pitchB == 0))
      && (!win || (r.bMode == 0 && r.pitchB == 0))
      && (u.d || u.dRow || (r.fmtD == 0 && r.pitchD == 0 && !r.sat))
      && (u.d || opcode == 0x13 || r.pitchD == 0)
      && (xT || r.fmtX == 0) && ((xT && !win) || u.st || r.pitchX == 0)
      && (u.imm || (u.scalarImm && r.bMode == 3) || r.imm == 0)
      && ((u.gamma && r.bMode == 3) || r.imm2 == 0)
      && (!u.gamma || r.bMode == 2 || r.bMode == 3)
      && (!u.a || pitchOk r.pitchA r.fmtA (r.aCols opcode))
      && (!u.d || pitchOk r.pitchD r.fmtD r.cols)
      && (!(bT && r.bMode == 0) || pitchOk r.pitchB r.fmtB r.cols)
      && (!(xT && !win) || pitchOk r.pitchX r.fmtX r.cols)
      && (if win then r.windowOk
          else r.window == 0 && r.inH == 0 && r.inW == 0 && r.channels == 0 && r.group == 0 && r.pass == 0)

/-- Mask descriptor (Table 9.1). -/
structure MaskRec where
  causal : Bool
  slide : Bool
  spatial : Bool
  length : Bool
  qrep : Nat
  chunk : Nat
  gridW : Nat
  window : Nat
  radiusY : Nat
  radiusX : Nat
  qBase : Nat
  kBase : Nat
  kLen : Nat
  qReg : Option Nat
  kReg : Option Nat
  lenReg : Option Nat
  qSteps : List Int
  kSteps : List Int
  deriving DecidableEq, Repr

def parseMask (bs : List Byte) : MaskRec :=
  let f := fieldAt bs 0 4
  let g := fieldAt bs 0x1C 4
  let reg (en lo : Nat) : Option Nat := if bit g en then some (field g (lo + 3) lo) else none
  { causal := bit f 0, slide := bit f 1, spatial := bit f 2, length := bit f 3, qrep := field f 11 8
    chunk := fieldAt bs 4 3, gridW := fieldAt bs 8 2, window := fieldAt bs 10 2
    radiusY := fieldAt bs 12 1, radiusX := fieldAt bs 13 1
    qBase := fieldAt bs 0x10 4, kBase := fieldAt bs 0x14 4, kLen := fieldAt bs 0x18 4
    qReg := reg 12 0, kReg := reg 13 4, lenReg := reg 14 8
    qSteps := (List.range 6).map (fun l => sext 16 (fieldAt bs (0x20 + 4 * l) 2))
    kSteps := (List.range 6).map (fun l => sext 16 (fieldAt bs (0x22 + 4 * l) 2)) }

def MaskRec.ok (r : MaskRec) : Bool :=
  (!(r.causal || r.slide || r.spatial) || r.chunk != 0) && (!r.spatial || r.gridW != 0) && (!r.slide || r.window != 0)

/-- Visibility of element (i, j) at a point of the walk (R207, R208); `regs` are the registers at issue. -/
def MaskRec.visible (r : MaskRec) (regs : List Nat) (p : List Nat) (i j : Nat) : Bool :=
  let reg (x : Option Nat) : Int :=
    match x with
    | some n => (regs.getD n 0 : Int)
    | none => 0
  let steps (l : List Int) : Int := (List.range p.length).foldl (fun z k => z + (p.getD k 0 : Int) * l.getD k 0) 0
  let q : Int := r.qBase + reg r.qReg + steps r.qSteps + ((i / (r.qrep + 1) : Nat) : Int)
  let k : Int := r.kBase + reg r.kReg + steps r.kSteps + j
  let len : Int := r.kLen + reg r.lenReg
  let cq := q / r.chunk
  let ck := k / r.chunk
  let sq := q % r.chunk
  let sk := k % r.chunk
  decide (0 ≤ q) && decide (0 ≤ k) && (!r.length || decide (k < len)) && (!r.causal || decide (ck ≤ cq))
    && (!r.slide || (decide (cq - ck < r.window) && (r.causal || decide (ck - cq < r.window))))
    && (!r.spatial || (decide ((sq / r.gridW - sk / r.gridW).natAbs ≤ r.radiusY)
        && decide ((sq % r.gridW - sk % r.gridW).natAbs ≤ r.radiusX)))

/-- Function record (Table 6.7). -/
structure FuncRec where
  func : Nat
  slot : Nat
  srcFmt : Nat
  dstFmt : Nat
  sat : Bool
  rows : Nat
  cols : Nat
  pitchS : Nat
  pitchD : Nat
  inScale : Nat
  inBias : Nat
  deriving DecidableEq, Repr

def parseFunc (bs : List Byte) : FuncRec :=
  let f := fieldAt bs 0 4
  { func := field f 3 0, slot := field f 5 4, srcFmt := field f 7 6, dstFmt := field f 9 8, sat := bit f 10
    rows := fieldAt bs 4 2, cols := fieldAt bs 6 2, pitchS := fieldAt bs 8 4 % 2 ^ 22, pitchD := fieldAt bs 12 4 % 2 ^ 22
    inScale := fieldAt bs 0x10 4, inBias := fieldAt bs 0x14 4 }

/-- A function record has an encoding (R145, Table 6.7). R145 asks the alignment of R136 of the pitches and names no base address: OPB0 and OPB1 may take any byte value (DESIGN CHOICE, log 46). -/
def FuncRec.ok (r : FuncRec) (opcode : Nat) : Bool :=
  (if opcode = 0x20 then decide (r.func ≤ 8) && r.slot == 0 else r.func == 0)
    && r.srcFmt != 3 && r.dstFmt != 3 && decide (1 ≤ r.rows) && decide (r.rows ≤ 2048) && decide (1 ≤ r.cols)
    && r.pitchS % 128 == 0 && r.pitchD % 128 == 0
    && (decide (r.rows ≤ 1) || decide (r.cols * vecBytes r.dstFmt ≤ r.pitchD))

/-- Coding record (Table 8.4). -/
structure CodeRec where
  format : Nat
  table : Nat
  budget16 : Nat
  dataBase : Nat
  metaBase : Nat
  deriving DecidableEq, Repr

def parseCodeRec (bs : List Byte) : CodeRec :=
  let f := fieldAt bs 0 4
  { format := field f 1 0, table := field f 5 2, budget16 := fieldAt bs 4 4 % 512
    dataBase := fieldAt bs 8 6, metaBase := fieldAt bs 16 6 }

def CodeRec.ok (r : CodeRec) : Bool :=
  r.format != 3 && decide (16 ≤ r.budget16) && decide (r.budget16 ≤ 256) && r.dataBase % 4096 == 0 && r.metaBase % 256 == 0

/-- Control field of FETCH and STORE (R120). -/
structure MoverCtl where
  mask : Nat
  grains : Nat
  coded : Bool
  phys : Bool
  baseReg : Option Nat
  addEn : Bool
  addCtr : Nat
  addAmount : Nat
  deriving DecidableEq, Repr

def parseMover (w : SlotWord) : MoverCtl :=
  let c := w.op 2
  let a := w.op 3
  { mask := field c 15 0, grains := field c 31 16, coded := bit c 32, phys := bit c 33
    baseReg := if bit c 34 then some (field c 38 35) else none
    addEn := bit a 0, addCtr := field a 13 1, addAmount := field a 29 14 }

/-- A counter field of a block image: its cluster field is zero unless HUB (R123). -/
def blockCtrOk (c : Nat) : Bool := bit c 12 || field c 11 8 == 0

end Sys2Proof.Machine
end

