-- ==== Sys2Proof/Machine/Operands.lean ====
section
/-! DEFINITION. Operands of a core: what a read of the scratchpad or accumulator obtains (R78, R81, R85), and packed elements (R32). -/

namespace Sys2Proof.Machine

/-- An iteration whose window is open: its operation's slot word and record, the core cycle of the window, and what it writes (R85). -/
structure OpenWindow where
  word : Nat
  record : List Byte
  iter : Nat
  cycle : Nat
  writes : List CoreWrite
  deriving DecidableEq, Repr

/-- What an iteration reads from: the stored bytes and entries of its core, and the windows open at its issue (R85). -/
structure View where
  spad : List Host.Cell
  spadKey : Nat
  acc : Tab W32
  accKey : Nat
  open_ : List OpenWindow

/-- Key of byte a of core c's scratchpad, and of entry e of lane l of its accumulator. -/
def spadKeyOf (c : Nat) : Nat := 2 ^ 22 * c
def accKeyOf (c : Nat) : Nat := 2 ^ 18 * c

/-- Writes the window has made at a place by its core cycle (R85). -/
def OpenWindow.made (o : OpenWindow) (place : Nat) : Nat := Config.windowOrder o.word o.record o.iter place o.cycle

/-- The byte a write of an open window puts at address a, if it does. -/
def CoreWrite.byteAt (a : Nat) : CoreWrite → Option Byte
  | .spad b data => if b ≤ a then data[a - b]? else none
  | .acc _ _ _ _ => none

/-- The values an entry takes in turn, if the write is to it. -/
def CoreWrite.sumsAt (lane e : Nat) : CoreWrite → List W32
  | .acc l g y ys => if l = lane ∧ g = e then ys ++ [y] else []
  | .spad _ _ => []

/-- One byte as a read inside open windows obtains it: old or new, one and the same for all of a 4-byte word (R85). -/
def View.byte (v : View) (a : Nat) : Byte :=
  v.open_.foldl (fun b p => if p.made (a / 4) = 0 then b else p.writes.foldl (fun b w => (w.byteAt a).getD b) b) (tget 0 v.spad (v.spadKey + a))

/-- Bytes a to a + n - 1. -/
def View.bytes (v : View) (a n : Nat) : List Byte :=
  if v.open_.isEmpty then bytesAt 0 v.spad (v.spadKey + a) n
  else (List.range n).map (fun i => v.byte (a + i))

/-- Accumulator entry e of lane l (R10). Inside an open window it holds what stood there before the iteration or what the adds made so far have left: an add of the same core cycle is not among them (R82, R85). -/
def View.entry (v : View) (lane e : Nat) : Nat :=
  (v.open_.foldl (fun x p =>
    let made := p.made (2 ^ 20 + 2 ^ 11 * lane + e)
    let sums := p.writes.flatMap (CoreWrite.sumsAt lane e)
    if made = 0 then x else (sums[min made sums.length - 1]?).getD x) (tget 0 v.acc (v.accKey + 2 ^ 11 * lane + e))).toNat

/-- Codes of a byte holding 8 / b elements, the first the least significant (R32). -/
def subCodes (b : Nat) (x : Byte) : List Nat := (List.range (8 / b)).map (fun i => x.toNat / 2 ^ (b * i) % 2 ^ b)

/-- Codes of elements of k bytes each. -/
def wideCodes (k : Nat) : Nat → List Byte → List Nat
  | 0, _ => []
  | n + 1, bs => leNat (bs.take k) :: wideCodes k n (bs.drop k)

/-- `n` codes of `b` bits from packed bytes (Table 2.3). -/
def unpack (b n : Nat) (bs : List Byte) : List Nat :=
  if b < 8 then (bs.flatMap (subCodes b)).take n else wideCodes (b / 8) n bs

/-- Bytes that hold codes of `b` bits, `per` to a byte. -/
def subPack (b per : Nat) : Nat → List Nat → List Byte
  | 0, _ => []
  | n + 1, cs =>
    BitVec.ofNat 8 ((cs.take per).foldr (fun c x => c + 2 ^ b * x) 0) :: subPack b per n (cs.drop per)

/-- Packed bytes of codes of `b` bits; `pad` fills what is left of the last byte. -/
def pack (b pad : Nat) (cs : List Nat) : List Byte :=
  if b < 8 then
    let per := 8 / b
    let n := ceilDiv cs.length per
    subPack b per n (cs ++ List.replicate (n * per - cs.length) pad)
  else cs.flatMap (natLe (b / 8))

/-- A row of `n` codes of `b` bits at scratchpad address a. -/
def View.row (v : View) (a b n : Nat) : List Nat := unpack b n (v.bytes a (packedLen b n))

/-- What an iteration does: what it writes, what it counts (each event so many times), and what the watch sees. -/
structure IterOut where
  writes : List CoreWrite := []
  events : List (FmtEvent × Nat) := []
  watch : Watch := {}
  watched : Bool := false
  deriving DecidableEq, Repr

/-- Consecutive pieces of at most `n` elements. -/
def pieces {α : Type} (n : Nat) : Nat → List α → List (List α)
  | 0, _ => []
  | f + 1, l => if l.isEmpty then [] else l.take n :: pieces n f (l.drop n)

end Sys2Proof.Machine
end

