-- ==== Sys2Proof/Machine/Coding.lean ====
section
/-! DEFINITION. Exponent coding of one block of 4 KiB (R187 to R191, R197, R201): canonical codes, the compressor and the expander. -/

namespace Sys2Proof.Machine

/-- Elements of a block (R187). -/
def codedElems (format : Nat) : Nat := if format = 0 then 2048 else 4096
/-- Bytes of the raw part, and the least coded length in grains (Table 8.1). -/
def rawPart (format : Nat) : Nat := if format = 2 then 1536 else 2048
def leastCoded (format : Nat) : Nat := if format = 0 then 9 else if format = 1 then 10 else 8

/-- Exponent symbol of an element, and its sign and mantissa (Table 8.1). -/
def expOf (format x : Nat) : Nat := if format = 0 then field x 14 7 else if format = 1 then field x 6 3 else field x 6 2
def restOf (format x : Nat) : Nat :=
  if format = 0 then b2n (bit x 15) * 128 + x % 128 else if format = 1 then b2n (bit x 7) * 8 + x % 8 else b2n (bit x 7) * 4 + x % 4
/-- The element with these two parts. -/
def joinElem (format e r : Nat) : Nat :=
  if format = 0 then r / 128 * 32768 + e * 128 + r % 128
  else if format = 1 then r / 8 * 128 + e * 8 + r % 8
  else r / 4 * 128 + e * 4 + r % 4

/-- Bits of a raw field. -/
def restBits (format : Nat) : Nat := if format = 0 then 8 else if format = 1 then 4 else 3

/-- Symbols of length l, ascending. -/
def symbolsOf (img : List Byte) (l : Nat) : List Nat :=
  (List.range (codeSymbols (codeFormat img))).filter (fun s => codeLen img s == l)

/-- For each length from `l` on: its first code and its symbols (R191). -/
def canonical (img : List Byte) : Nat → Nat → Nat → List (Nat × List Nat)
  | 0, _, _ => []
  | n + 1, l, code =>
    let s := symbolsOf img l
    (code, s) :: canonical img n (l + 1) ((code + s.length) * 2)

/-- First code and symbols of each length 1 to 15. -/
def codeTable (img : List Byte) : List (Nat × List Nat) := canonical img 15 1 0

/-- Code of a symbol and its length. -/
def codeOf (tbl : List (Nat × List Nat)) (img : List Byte) (s : Nat) : Nat × Nat :=
  let l := codeLen img s
  let row := tbl.getD (l - 1) (0, [])
  (row.1 + row.2.idxOf s, l)

/-- The low n bits of x, most significant first. -/
def msbBits : Nat → Nat → List Bool
  | 0, _ => []
  | n + 1, x => Nat.testBit x n :: msbBits n x

/-- The low n bits of x, least significant first. -/
def lsbBits (n x : Nat) : List Bool := (List.range n).map (Nat.testBit x)

/-- Bytes from bits, least significant first, n bytes. -/
def bytesOfBits : Nat → List Bool → List Byte
  | 0, _ => []
  | n + 1, l => BitVec.ofNat 8 ((l.take 8).foldr (fun b x => b2n b + 2 * x) 0) :: bytesOfBits n (l.drop 8)

/-- Bits of bytes, least significant first. -/
def bitsOfBytes (l : List Byte) : List Bool := l.flatMap (fun b => lsbBits 8 b.toNat)

/-- Number of n bits, least significant first. -/
def natOfBits (l : List Bool) : Nat := l.foldr (fun b x => b2n b + 2 * x) 0

/-- Codes of the elements of a block, in the layout of R32. -/
def blockElems (format : Nat) (raw : List Byte) : List Nat := unpack (if format = 0 then 16 else 8) (codedElems format) raw

/-- The compressor on one block: its grains of bytes and its size code (R197). -/
def compress (img : List Byte) (raw : List Byte) : List Byte × Nat :=
  let f := codeFormat img
  let es := blockElems f raw
  let tbl := codeTable img
  let nbits := (es.map (fun e => codeLen img (expOf f e))).sum
  let l := rawPart f / 256 + ceilDiv nbits 2048
  if es.any (fun e => codeLen img (expOf f e) == 0) || decide (16 ≤ l) then (raw, 15)
  else
    let rest := bytesOfBits (rawPart f) (es.flatMap (fun e => lsbBits (restBits f) (restOf f e)))
    let stream := bytesOfBits (256 * l - rawPart f) (es.flatMap (fun e =>
      let c := codeOf tbl img (expOf f e)
      msbBits c.2 c.1))
    (rest ++ stream, l - 1)

/-- What the expander finds wrong: the case of R201. -/
abbrev Damage := Nat

/-- The code read so far: its value and length. One symbol from a bit stream: the symbol and what is left. -/
def nextSymbol (tbl : List (Nat × List Nat)) (last maxLen : Nat) : Nat → Nat → Nat → List Bool → Except Damage (Nat × List Bool)
  | 0, _, _, _ => .error 2
  | _ + 1, _, _, [] => .error 3
  | n + 1, code, l, b :: bs =>
    let v := 2 * code + b2n b
    let row := tbl.getD l (0, [])
    if row.1 ≤ v ∧ v < row.1 + row.2.length then .ok (row.2.getD (v - row.1) 0, bs)
    else if maxLen ≤ l + 1 ∨ last / 2 ^ (maxLen - (l + 1)) < v then .error 2
    else nextSymbol tbl last maxLen n v (l + 1) bs

/-- n symbols from a bit stream. -/
def symbols (tbl : List (Nat × List Nat)) (last maxLen : Nat) : Nat → List Bool → Except Damage (List Nat × List Bool)
  | 0, bs => .ok ([], bs)
  | n + 1, bs =>
    match nextSymbol tbl last maxLen 15 0 0 bs with
    | .error e => .error e
    | .ok (s, bs) =>
      match symbols tbl last maxLen n bs with
      | .error e => .error e
      | .ok (l, bs) => .ok (s :: l, bs)

/-- The raw fields of a coded block. -/
def restFields (format : Nat) : Nat → List Bool → List Nat
  | 0, _ => []
  | n + 1, bs => natOfBits (bs.take (restBits format)) :: restFields format n (bs.drop (restBits format))

/-- The expander on one block with size code v, given the bytes of its grains: the 4 KiB, or the case of R201. -/
def expand (img : List Byte) (v : Nat) (bytes : List Byte) : Except Damage (List Byte) :=
  let f := codeFormat img
  if v = 15 then .ok (bytes.take 4096)
  else if v + 1 < leastCoded f then .error 1
  else
    let tbl := codeTable img
    let maxLen := ((List.range 15).filter (fun i => !(tbl.getD i (0, [])).2.isEmpty)).foldl (fun _ i => i + 1) 0
    let top := tbl.getD (maxLen - 1) (0, [])
    match symbols tbl (top.1 + top.2.length - 1) maxLen (codedElems f) (bitsOfBytes (bytes.drop (rawPart f))) with
    | .error e => .error e
    | .ok (es, left) =>
      if left.any id || decide (2048 ≤ left.length) then .error 4
      else
        let rs := restFields f (codedElems f) (bitsOfBytes (bytes.take (rawPart f)))
        .ok (pack (if f = 0 then 16 else 8) 0 (List.zipWith (joinElem f) es rs))

/-- The size code of block b, given the byte of the metadata it lies in (R189). -/
def sizeNibble (b : Nat) (x : Byte) : Nat := if b % 2 = 0 then x.toNat % 16 else x.toNat / 16
/-- That byte with block b's size code made v. -/
def putNibble (b v : Nat) (x : Byte) : Byte := BitVec.ofNat 8 (if b % 2 = 0 then x.toNat / 16 * 16 + v else x.toNat % 16 + 16 * v)

end Sys2Proof.Machine
end

