-- ==== Sys2Proof/Machine/Cores.lean ====
section
/-! DEFINITION. What every meaning about cores shares: a core's entry, its context's partitions (R80, R81), sync counters and their owners (R101, R123), share-table slots (R87, R88, R90), the core clock (R83, R84), and bytes and entries of the on-die memories. -/

namespace Sys2Proof.Machine

def CoresState.core (x : CoresState) (c : Nat) : CoreState := tget {} x.cores c
def CoresState.setCore (x : CoresState) (c : Nat) (k : CoreState) : CoresState := { x with cores := tset {} x.cores c k }
def State.core (s : State) (c : Nat) : CoreState := s.cores.core c
def State.setCore (s : State) (c : Nat) (k : CoreState) : State := { s with cores := s.cores.setCore c k }
def State.modCore (s : State) (c : Nat) (f : CoreState → CoreState) : State := s.setCore c (f (s.core c))
/-- Change the running block of a core, if it has one. -/
def State.modRun (s : State) (c : Nat) (f : RunBlock → RunBlock) : State :=
  s.modCore c (fun k => { k with run := k.run.map f })

/-- Cluster and die of a core (Table 1.1). -/
def clusterOf (c : Nat) : Nat := c / 16
def dieOfCore (c : Nat) : Nat := c / 64

def SeqState.ctxOf (q : SeqState) (f : Nat) : CtxRec := tget {} q.ctx f
def State.ctxOf (s : State) (f : Nat) : CtxRec := s.seqs.ctxOf f
def State.setCtx (s : State) (f : Nat) (r : CtxRec) : State := { s with seqs := { s.seqs with ctx := tset {} s.seqs.ctx f r } }

def CtxRec.hasCore (r : CtxRec) (c : Nat) : Bool := r.coreMask.getLsbD c
/-- CORE_MASK touches cluster cl. -/
def CtxRec.touches (r : CtxRec) (cl : Nat) : Bool := r.coreMask.toNat / 2 ^ (16 * cl) % 65536 != 0

/-- A scratchpad byte lies in the context's partition (R80). -/
def CtxRec.spadOk (r : CtxRec) (a : Int) : Bool := decide (0 ≤ a) && decide (a < 2 ^ 22) && r.spadBanks.getLsbD (a.toNat / 2 ^ 18)
/-- An accumulator entry lies in the context's partition (R81). -/
def CtxRec.accOk (r : CtxRec) (e : Int) : Bool := decide (0 ≤ e) && decide (e < 2048) && r.accUnits.getLsbD (e.toNat / 128)

/-- The starts of pieces of size `u` in a range: its first place, then every multiple of `u` inside it. -/
def pieceStarts (u : Nat) (a : Int) (n : Nat) : List Int :=
  a :: (List.range (n / u + 1)).filterMap (fun (i : Nat) =>
    let p := (a / u + (i : Int) + 1) * u
    if p < a + n then some p else none)

/-- First byte of a scratchpad range outside the partition. -/
def CtxRec.spadBad (r : CtxRec) (x : Int × Nat) : Option Int :=
  if x.2 = 0 then none else (pieceStarts (2 ^ 18) x.1 x.2).find? (fun a => !r.spadOk a)

/-- First entry of a range of accumulator entries outside the partition. -/
def CtxRec.accBad (r : CtxRec) (x : Int × Nat) : Option Int :=
  if x.2 = 0 then none else (pieceStarts 128 x.1 x.2).find? (fun e => !r.accOk e)

/-- A sync counter by a 13-bit field and the cluster it is named in (R123). -/
def ShareState.ctr (h : ShareState) (cl fld : Nat) : W32 :=
  if bit fld 12 then tget 0 h.hubCtr (fld % 4096) else tget 0 h.clusterCtr (256 * cl + fld % 256)

/-- Key of a counter among the words found uncorrectable. -/
def ctrKey (cl fld : Nat) : Nat := if bit fld 12 then 4096 + fld % 4096 else 256 * cl + fld % 256

/-- The word that holds a counter is uncorrectable (R170). -/
def ShareState.ctrBad (h : ShareState) (cl fld : Nat) : Bool := h.ueCtr.contains (ctrKey cl fld / 2)

/-- A reader finds the counter at or past a threshold (R101). -/
def ShareState.reached (h : ShareState) (cl fld thr : Nat) : Bool := !h.ctrBad cl fld && (h.ctr cl fld - BitVec.ofNat 32 thr).toNat < 2 ^ 31

/-- ADD of an amount, modulo 2^32 (R101). To a counter whose word is uncorrectable it changes nothing: it would be a partial write of the word, which R172 discards (DESIGN CHOICE, log 47). -/
def ShareState.addCtr (h : ShareState) (cl fld amount : Nat) : ShareState :=
  if h.ctrBad cl fld then h
  else if bit fld 12 then { h with hubCtr := tmod 0 h.hubCtr (fld % 4096) (· + BitVec.ofNat 32 amount) }
  else { h with clusterCtr := tmod 0 h.clusterCtr (256 * cl + fld % 256) (· + BitVec.ofNat 32 amount) }

/-- WAIT_GE's comparison (R101). -/
def meets (value threshold : W32) : Bool := (value - threshold).toNat < 2 ^ 31

/-- The counter is allotted to the context (R101, R123). -/
def CtxRec.ownsCtr (r : CtxRec) (cl fld : Nat) : Bool :=
  if bit fld 12 then r.hubCtrUnits.getLsbD (fld % 4096 / 64)
  else r.touches cl && r.clusterCtrUnits.getLsbD (fld % 256 / 16)

/-- Groups 0, 16, 32 and 48 are RESERVED always (R88). -/
def reservedGroup (g : Nat) : Bool := g % 16 == 0

/-- Owner of a slot group; none for FREE and RESERVED. -/
def ShareState.owner (h : ShareState) (cl g : Nat) : Option SlotOwner :=
  if reservedGroup g then none else tget none h.owners (64 * cl + g)

/-- The change waits for a core, which the entry names as it stands; else for a frame boundary (R90; log 35). -/
def ShareState.namesCore (h : ShareState) (w : ShareChange) : Bool := (h.owner w.cluster w.group).isSome

/-- Slot groups of function f on core c (R90). -/
def ShareState.ownGroups (h : ShareState) (c f : Nat) : List Nat :=
  (List.range 64).filter (fun g => h.owner (clusterOf c) g == some { fn := BitVec.ofNat 4 f, core := BitVec.ofNat 4 (c % 16) })

/-- Slot number of a time, and time of a slot (R87). -/
def slotAt (t : Nat) : Nat := 2 * (t / fabTicks)
def slotTime (x : Nat) : Nat := x / 2 * fabTicks

/-- First slot of group g from slot x on. -/
def nextSlot (x g : Nat) : Nat := x + (g + 64 - x % 64) % 64

/-- First own slot at or after x that is not in `held`, among the groups with the slot each opens at (R90, R91). -/
def freeSlot (groups : List (Nat × Nat)) (held : List Nat) : Nat → Nat → Option Nat
  | 0, _ => none
  | n + 1, x =>
    match firstOf (groups.map (fun g => nextSlot (max x g.2) g.1)) with
    | none => none
    | some y => if held.contains y then freeSlot groups held n (y + 1) else some y
where
  /-- The least of a list. -/
  firstOf : List Nat → Option Nat
    | [] => none
    | a :: l =>
      match firstOf l with
      | some b => some (min a b)
      | none => some a

/-- Core-clock period at a gear, in ticks: 4 ns / (g + 1) (R84, Table 17.2). -/
def gearPeriod (g : Nat) : Nat := 720720 / (g + 1)

def CoreState.period (k : CoreState) : Nat := gearPeriod k.clock.gear.toNat

/-- Time at which the schedule counter stands at position p, when nothing stops it (R83). -/
def RunBlock.timeAt (r : RunBlock) (period p : Nat) : Nat := r.posAt + (p - r.pos) * period
/-- Position of the schedule counter at time t, when nothing has stopped it. -/
def RunBlock.posAtTime (r : RunBlock) (period t : Nat) : Nat := r.pos + (t - r.posAt) / period

/-- Scratchpad words whose error a write of n bytes at a removes: those wholly covered (R170). -/
def healWords (ue : List Nat) (key n : Nat) : List Nat := ue.filter (fun w => !(decide (key ≤ w) && decide (w + 8 ≤ key + n)))

/-- Write bytes into a core's scratchpad. -/
def CoresState.putSpad (x : CoresState) (c a : Nat) (bs : List Byte) : CoresState :=
  { x with spad := setBytes 0 x.spad (spadKeyOf c + a) bs, ueSpad := healWords x.ueSpad (spadKeyOf c + a) bs.length }

def CoresState.getSpad (x : CoresState) (c a n : Nat) : List Byte := bytesAt 0 x.spad (spadKeyOf c + a) n

/-- Write an accumulator entry. -/
def CoresState.putAcc (x : CoresState) (c lane e : Nat) (v : W32) : CoresState :=
  { x with acc := tset 0 x.acc (accKeyOf c + 2 ^ 11 * lane + e) v, ueAcc := x.ueAcc.erase (accKeyOf c + 2 ^ 11 * lane + e) }

/-- What an iteration writes, written. -/
def CoresState.putWrite (x : CoresState) (c : Nat) : CoreWrite → CoresState
  | .spad a d => x.putSpad c a d
  | .acc l e v _ => x.putAcc c l e v

/-- Its destination written with zero (R99, step 3). -/
def CoresState.zeroWrite (x : CoresState) (c : Nat) : CoreWrite → CoresState
  | .spad a d => x.putSpad c a (List.replicate d.length 0)
  | .acc l e _ _ => x.putAcc c l e 0

/-- An uncorrectable scratchpad word inside a range: its address (R172). -/
def CoresState.badWord (x : CoresState) (c : Nat) (r : Int × Nat) : Option Nat :=
  (x.ueSpad.find? (fun (w : Nat) => decide ((spadKeyOf c : Int) + r.1 < (w : Int) + 8) && decide ((w : Int) < (spadKeyOf c : Int) + r.1 + r.2))).map (fun w => w - spadKeyOf c)

/-- An uncorrectable accumulator entry among entries e to e + n - 1 of any lane. -/
def CoresState.badEntry (x : CoresState) (c : Nat) (r : Int × Nat) : Option Nat :=
  (x.ueAcc.find? (fun (w : Nat) => decide (accKeyOf c ≤ w) && decide (w < accKeyOf (c + 1))
    && decide (r.1 ≤ (w % 2 ^ 11 : Nat)) && decide (((w % 2 ^ 11 : Nat) : Int) < r.1 + r.2))).map (· % 2 ^ 11)

/-- Number of an on-die array. -/
def arrNum : SramArray → Nat
  | .scratchpad => 0
  | .accumulator => 1
  | .clusterCache => 2
  | .hub => 3
  | .syncCounters => 4
  | .translation => 5
  | .dieLink => 6

/-- A wear swap is due: it goes before any other (R20). -/
def CoreState.dueSwap (k : CoreState) (cause : SwapCause) : CoreState :=
  { k with swap := match k.swap with
      | some (.wear r) => some (.wear r)
      | some .command => (match cause with
        | .wear r => some (.wear r)
        | _ => some .command)
      | _ => some cause }

/-- A block meets an uncorrectable word of its scratchpad or accumulator: with no spare row left its slot is retired at the end of the block (R412, code 4). -/
def State.meetsWord (s : State) (c : Nat) (a : SramArray) : State :=
  if Config.spareRows (clusterOf c) (arrNum a) ≤ tget 0 s.svc.rowsUsed (4 * clusterOf c + arrNum a) then s.modCore c (fun k => k.dueSwap (.wear 4)) else s

/-- Logical core available (R22). -/
def State.available (s : State) (c : Nat) : Bool := !s.cores.unavailable.contains c

end Sys2Proof.Machine
end

