-- ==== Sys2Proof/Machine/Image.lean ====
section
/-! DEFINITION. Block images: sections, header, bundle stream, and the load checks 3 to 7 of Table 5.3 (R109 to R116, R119, R120, R122, R123, R127, R194, R206). -/

namespace Sys2Proof.Machine

/-- Block header (Table 5.2). -/
structure Header where
  magic : Nat
  major : Nat
  minor : Nat
  length : Nat
  check : Nat
  lastOffset : Nat
  loopOffset : Nat
  loopCount : Nat
  paramOffset : Nat
  paramCount : Nat
  mboundOffset : Nat
  mboundCount : Nat
  bundleOffset : Nat
  bundleCount : Nat
  planGear : Nat
  minGroups : Nat
  clipAction : Nat
  slipBudget : Nat
  wallLimit : Nat
  clipLimit : Nat
  magLimit : Nat
  next : Nat
  branch : Nat
  branchCond : Nat
  waitEn : Bool
  /-- [12] HUB, [11:0] index, as every counter field (R123). -/
  waitCtr : Nat
  waitThr : Nat
  deriving DecidableEq, Repr

def parseHeader (bs : List Byte) : Header :=
  let g := fieldAt bs 0x24 4
  let w := fieldAt bs 0x48 4
  { magic := fieldAt bs 0 4, minor := fieldAt bs 4 1, major := fieldAt bs 5 1, length := fieldAt bs 8 4
    check := fieldAt bs 12 4, lastOffset := fieldAt bs 0x10 4 % 2 ^ 20
    loopOffset := fieldAt bs 0x14 2, loopCount := fieldAt bs 0x16 2, paramOffset := fieldAt bs 0x18 2
    paramCount := fieldAt bs 0x1A 2, mboundOffset := fieldAt bs 0x1C 2, mboundCount := fieldAt bs 0x1E 2
    bundleOffset := fieldAt bs 0x20 2, bundleCount := fieldAt bs 0x22 2
    planGear := field g 3 0, minGroups := field g 9 4, clipAction := field g 11 10
    slipBudget := fieldAt bs 0x28 4, wallLimit := fieldAt bs 0x2C 4, clipLimit := fieldAt bs 0x30 4
    magLimit := fieldAt bs 0x34 4, next := fieldAt bs 0x38 8, branch := fieldAt bs 0x40 8
    branchCond := field w 3 0, waitEn := bit w 8, waitCtr := b2n (bit w 9) * 4096 + field w 21 10
    waitThr := fieldAt bs 0x4C 4 }

/-- IMAGE_LENGTH lies in the range of R109. -/
def lengthOk (n : Nat) : Bool := n % 64 == 0 && decide (256 ≤ n) && decide (n ≤ 131072)

/-- Sections with entries, in order (Table 5.1): none overlaps the one before, each lies inside the image. Of the bundle stream, whose length its words give, check 5 counts the first bundle header; a stream that runs past IMAGE_LENGTH breaks R114 as well, and is reported as ENCODING (DESIGN CHOICE, log 46). -/
def sectionsOk (length : Nat) : Nat → List (Nat × Nat) → Bool
  | _, [] => true
  | lo, (start, size) :: rest =>
    if size = 0 then sectionsOk length lo rest
    else decide (lo ≤ start) && decide (start + size ≤ length) && sectionsOk length (start + size) rest

/-- Check 5, IMAGE_FIELD (R109, R110). -/
def Header.fieldsOk (h : Header) : Bool :=
  lengthOk h.length && decide (h.loopCount ≤ 1022) && decide (h.paramCount ≤ 4094) && decide (h.mboundCount ≤ 64)
    && decide (1 ≤ h.bundleCount) && decide (1 ≤ h.planGear) && decide (h.minGroups ≤ 60) && h.clipAction != 3
    && h.next % 64 == 0 && h.branch % 64 == 0
    && (decide (h.branchCond ≤ 2) || (decide (4 ≤ h.branchCond) && decide (h.branchCond ≤ 11)))
    && (h.branch == 0 || h.branchCond != 0)
    && sectionsOk h.length 128
        [(64 * h.loopOffset, 256 * h.loopCount), (64 * h.paramOffset, 64 * h.paramCount),
         (64 * h.mboundOffset, 8 * h.mboundCount), (64 * h.bundleOffset, 16)]

/-- Loop descriptor `i` of an image. -/
def imageLoop (img : List Byte) (i : Nat) : Loop :=
  parseLoop (sliceAt img (64 * (parseHeader img).loopOffset + 256 * i) 256)

/-- Parameter record `i` of an image: 64 bytes. -/
def imageParam (img : List Byte) (i : Nat) : List Byte :=
  sliceAt img (64 * (parseHeader img).paramOffset + 64 * i) 64

/-- Memory-bound list entry `i` (R127). -/
def imageBound (img : List Byte) (i : Nat) : Nat := fieldAt img (64 * (parseHeader img).mboundOffset + 8 * i) 8

/-- A bundle: its offset and its slot words. -/
structure Bundle where
  offset : Nat
  words : List Nat
  deriving DecidableEq, Repr

/-- The bundle header at byte `a`: DELTA, and the unit bits of SLOTS. -/
def bundleHead (img : List Byte) (a : Nat) : Nat × Nat :=
  let h := fieldAt img a 4
  (field h 19 0, field h 25 20)

/-- Slot words of the bundle whose header lies at byte `a`. -/
def bundleWords (img : List Byte) (a slots : Nat) : List Nat :=
  (List.range (bitsOf 6 slots).length).map (fun i => fieldAt img (a + 16 + 32 * i) 32)

/-- Bytes of a bundle with these SLOTS. -/
def bundleLen (slots : Nat) : Nat := 16 + 32 * (bitsOf 6 slots).length

/-- The unit bit of SLOTS an opcode belongs to (Table 5.6). -/
def opcodeSlot (o : Nat) : Option Nat :=
  if o = 0x01 then some 0
  else if o = 0x08 then some 1
  else if 0x10 ≤ o ∧ o ≤ 0x15 then some 2
  else if 0x20 ≤ o ∧ o ≤ 0x22 then some 3
  else if o = 0x28 ∨ o = 0x29 then some 4
  else if 0x30 ≤ o ∧ o ≤ 0x34 then some 5
  else none

/-- The scratchpad operands a vector operation reads or writes, which R136 aligns: A 0, B 1, D 2, X 3. -/
def vecOperands (r : VecRec) (opcode : Nat) (maskgen : Bool) (u : VecUse) : List Nat :=
  (if u.a then [0] else []) ++ (if (u.b && (opcode == 0x15 || r.bMode != 3)) || u.stB then [1] else [])
    ++ (if u.d || u.dRow then [2] else []) ++ (if r.xTensor opcode maskgen u || u.st then [3] else [])

/-- Operand o is a multiple of n at every iteration. -/
def multiplesOk (loop : Option Loop) (o base n : Nat) : Bool :=
  match loop with
  | some l => l.multiples o base n
  | none => base % n == 0

/-- Every stride of operand o below LEVELS is a multiple of n after SHIFT (R120, R194). -/
def stridesOk (loop : Option Loop) (o n : Nat) : Bool :=
  match loop with
  | some l => (List.range l.levels.length).all (fun i => l.stride i o % n == 0)
  | none => true

/-- The opcode reads a parameter record. -/
def needsParam (opcode : Nat) : Bool := decide (opcode ≤ 0x21)

/-- A slot word, with the record and descriptor it names, has an encoding (check 6). -/
def slotOk (img : List Byte) (h : Header) (vf : Bool) (word : Nat) : Bool :=
  let w := parseSlot word
  let op := w.opcode
  let coded := (op == 0x28 || op == 0x29) && (parseMover w).coded
  let loop := if w.loopIx = 0x3FF then none else some (imageLoop img w.loopIx)
  let rec_ := imageParam img w.paramIx
  let common :=
    (w.loopIx == 0x3FF || decide (w.loopIx < h.loopCount))
      && (match loop with
          | some l => l.ok h.mboundCount
          | none => true)
      && (!(needsParam op || coded) || decide (w.paramIx < h.paramCount))
  let coordOk (o : Nat) : Bool :=
    match loop with
    | some l => decide (0 ≤ l.leastOf o (w.op o % 2 ^ 32 : Nat))
    | none => true
  common &&
    (if op = 0x01 then (parseProduct rec_).productOk loop.isSome
     else if op = 0x08 then
       let r := parseProduct rec_
       r.rotateOk && coordOk 4 && (r.rotK == 0 || multiplesOk loop 4 (w.op 4 % 2 ^ 32) (2 ^ r.rotK))
     else if op = 0x10 then (parseConv rec_).ok loop (w.op 3 % 2 ^ 32) (w.op 4 % 2 ^ 32)
     else if 0x11 ≤ op ∧ op ≤ 0x15 then
       let r := parseVec rec_
       let maskgen := bit (w.op 3) 43
       r.ok op maskgen
         && (!maskgen || (op == 0x11 && r.subop == 11 && field (w.op 3) 30 0 == 0 && r.fmtX == 0 && r.pitchX == 0
              && decide (field (w.op 3) 42 31 < h.paramCount) && (parseMask (imageParam img (field (w.op 3) 42 31))).ok))
         && (match vecUse? op r.subop with
             | some u => (vecOperands r op maskgen u).all (fun o => multiplesOk loop o (w.spad o) 128)
             | none => false)
     else if op = 0x20 ∨ op = 0x21 then (parseFunc rec_).ok op
     else if op = 0x22 then w.loopIx == 0x3FF
     else if op = 0x28 ∨ op = 0x29 then
       let m := parseMover w
       let store := op == 0x29
       let spadO := if store then 0 else 1
       decide (1 ≤ m.grains) && !(m.phys && vf) && (!store || m.mask == 0)
         && multiplesOk loop spadO (w.spad spadO) 256 && stridesOk loop spadO 256 && stridesOk loop (1 - spadO) 256
         && (!m.addEn || blockCtrOk m.addCtr)
         && (!coded || ((parseCodeRec rec_).ok && m.grains % 16 == 0 && stridesOk loop (1 - spadO) 4096))
     else if op = 0x30 ∨ op = 0x31 then w.loopIx == 0x3FF && blockCtrOk (w.op 0 % 2 ^ 13)
     else if op = 0x32 then w.loopIx == 0x3FF && decide (w.op 1 % 8 ≤ 4)
     else if op = 0x33 then w.loopIx == 0x3FF && w.op 1 % 4 == 0
     else w.loopIx == 0x3FF)

/-- The bundle stream from byte `a` on, `n` bundles to come, has an encoding (R114). -/
def streamOk (img : List Byte) (h : Header) (vf : Bool) : Nat → Nat → Nat → Bool → Bool
  | 0, a, off, _ => off == h.lastOffset && (img.drop a).all (fun b => b == 0)
  | n + 1, a, off, first =>
    let hd := bundleHead img a
    decide (a + bundleLen hd.2 ≤ img.length) && hd.2 != 0
      && (if first then hd.1 == 0 else decide (1 ≤ hd.1))
      && ((bundleWords img a hd.2).zip (bitsOf 6 hd.2)).all
          (fun wb => opcodeSlot (parseSlot wb.1).opcode == some wb.2 && slotOk img h vf wb.1)
      && streamOk img h vf n (a + bundleLen hd.2) (off + hd.1) false

/-- Check 6, ENCODING. BOUND_WAIT_CTR's cluster field is zero unless BOUND_WAIT_HUB, whatever BOUND_WAIT_EN (R123). -/
def encodingOk (img : List Byte) (h : Header) (vf : Bool) : Bool :=
  blockCtrOk h.waitCtr
    && (List.range h.mboundCount).all (fun i => imageBound img i % 4 == 0 && decide (imageBound img i < 2 ^ 48))
    && streamOk img h vf h.bundleCount (64 * h.bundleOffset) 0 true

/-- Fault codes found at load (Table 5.3). -/
def faultCoreUnavailable : Nat := 0x07
def faultImageCheck : Nat := 0x01
def faultImageVersion : Nat := 0x02
def faultImageField : Nat := 0x03
def faultEncoding : Nat := 0x04
def faultWallZero : Nat := 0x05
def faultGroups : Nat := 0x06

/-- Checks 3 to 7 of Table 5.3 over the bytes read: all of the image, or its header alone where IMAGE_LENGTH is out of range; the first failure's fault code. -/
def imageFault (img : List Byte) (vf : Bool) : Option Nat :=
  let h := parseHeader img
  if h.magic ≠ 0x5458B10C then some faultImageCheck
  else if lengthOk h.length && decide (crcWithout img 12 ≠ h.check) then some faultImageCheck
  else if h.major ≠ 1 ∨ h.minor ≠ 0 then some faultImageVersion
  else if !h.fieldsOk then some faultImageField
  else if !encodingOk img h vf then some faultEncoding
  else if vf && h.wallLimit == 0 then some faultWallZero
  else none

end Sys2Proof.Machine
end

