-- ==== Sys2Proof/Machine/Slip.lean ====
section
/-! DEFINITION. Slips: the mover's scoreboard (R94), what a slip waits for and its cause (R95, Table 4.4, R199), the charging of fabric cycles (R95, R96), and ADDs (R101). -/

namespace Sys2Proof.Machine

/-- Bytes a to a + n - 1 and a range share a byte. -/
def overlaps (a n : Nat) (r : Nat × Nat) : Bool := decide (a < r.1 + r.2) && decide (r.1 < a + n)

/-- A destination mask names local core l of the issuing core's cluster; a mask of zero names the issuer alone (R130). -/
def maskHas (mask l : Nat) : Bool := mask == 0 || bit mask l

/-- A grain of the descriptor waits for a translation walk. -/
def MDesc.walking (d : MDesc) : Bool := d.grains.any (fun g => g.walking && g.st == .waiting)

/-- Coded grains of iteration i through block k. -/
def MDesc.codedThrough (d : MDesc) (i k : Nat) : Nat :=
  (d.grains.filter (fun g => match g.kind with
    | .coded j b => j == i && decide (b ≤ k)
    | _ => false)).length

/-- Over budget at block k of coded iteration i (R199). -/
def MDesc.overBudget (d : MDesc) (i k : Nat) : Bool :=
  decide (ceilDiv ((k + 1) * (parseCodeRec d.record).budget16) 16 < d.codedThrough i k)

/-- A grain of block k of iteration i takes its slot after an excess grain (R199). -/
def MDesc.lateBlock (d : MDesc) (i k : Nat) : Bool :=
  d.grains.any (fun g => g.kind == .coded i k && (g.excess || g.afterExcess))

/-- Charging order of Table 4.4. -/
def SlipCause.rank : SlipCause → Nat
  | .xlateMiss => 0
  | .codedShort => 1
  | .memLate => 2
  | .pannierLate => 3
  | .haloWait => 4
  | .creditWait => 5
  | .flagWait => 6

/-- The first of two causes in charging order. -/
def SlipCause.first (a b : SlipCause) : SlipCause := if a.rank ≤ b.rank then a else b

/-- First cause of a list. -/
def firstCause : List SlipCause → Option SlipCause
  | [] => none
  | a :: l =>
    match firstCause l with
    | some b => some (a.first b)
    | none => some a

/-- What each plain grain still to move in a range holds an access up for (Table 4.4, R199). -/
def MDesc.grainHolds (d : MDesc) (l : Nat) (r : Nat × Nat) : List SlipCause :=
  (d.grains.filter (fun g => g.st == .waiting && g.kind == .plain && overlaps g.spad 256 r && (d.isStore || maskHas g.mask l))).map (fun g =>
    if d.walking then .xlateMiss else if g.excess || g.afterExcess then .codedShort else .memLate)

/-- Likewise each block of a coded operation that is not behind the coder yet. -/
def MDesc.blockHolds (d : MDesc) (l : Nat) (r : Nat × Nat) : List SlipCause :=
  (d.iters.zip (List.range d.iters.length)).flatMap (fun it =>
    if !d.isStore && !maskHas it.1.mask l then []
    else
      ((List.range it.1.blocks).filter (fun k => decide (it.1.done ≤ k) && overlaps (it.1.spad + 4096 * k) 4096 r)).map (fun k =>
        if d.walking then .xlateMiss else if d.overBudget it.2 k || d.lateBlock it.2 k then .codedShort else .memLate))

/-- Why a descriptor keeps local core l from accessing a range of its scratchpad: a fetch not landed there, or for a write a store not yet read (R94): the first cause in charging order of all it waits for there (R95). -/
def MDesc.holds (d : MDesc) (l : Nat) (write : Bool) (r : Nat × Nat) : Option SlipCause :=
  if d.isStore && !write then none
  else firstCause (d.grainHolds l r ++ d.blockHolds l r)

/-- The cause for which a core's mover holds back an access to ranges of its scratchpad. -/
def MoverState.holds (m : MoverState) (l : Nat) (write : Bool) (rs : List (Nat × Nat)) : Option SlipCause :=
  firstCause (rs.flatMap (fun r => m.descs.filterMap (fun d => d.holds l write r)))

/-- The fetch queue of 64 or the store queue of 32 descriptors is full (R91). -/
def MoverState.full (m : MoverState) (store : Bool) : Bool :=
  decide ((if store then 32 else 64) ≤ (m.descs.filter (fun d => d.isStore == store)).length)

/-- Two counter fields, each with the cluster it is read in, name one counter: a hub counter by its index, a cluster's by INDEX [7:0], whatever the cluster field of a descriptor holds (R123). -/
def sameCtr (cl fld cl' fld' : Nat) : Bool :=
  bit fld 12 == bit fld' 12 && (if bit fld 12 then fld % 4096 == fld' % 4096 else cl == cl' && fld % 256 == fld' % 256)

/-- A counter as a WAIT_GE sees it in fabric cycle n: without the ADDs of that cycle (R102). -/
def ShareState.seen (h : ShareState) (n cl fld : Nat) : W32 :=
  if h.addedIn = n then h.added.foldl (fun v a => if sameCtr cl fld a.1 a.2.1 then v - BitVec.ofNat 32 a.2.2 else v) (h.ctr cl fld)
  else h.ctr cl fld

/-- The condition of a wait in fabric cycle n, if it holds: its cause (R94, R102, Table 4.4). -/
def waitCause (h : ShareState) (m : MoverState) (c n : Nat) : SlipWait → Option SlipCause
  | .counter fld thr cause => if meets (h.seen n (clusterOf c) fld) (BitVec.ofNat 32 thr) then none else some cause
  | .units rs write => m.holds (c % 16) write rs
  | .queue word =>
    let store := (parseSlot word).opcode == 0x29
    if m.full store then
      some (if ((m.descs.find? (fun d => d.isStore == store)).map MDesc.walking).getD false then .xlateMiss else .memLate)
    else none

/-- Cause of a slip in fabric cycle n; none when no condition holds. -/
def slipCause (h : ShareState) (m : MoverState) (c n : Nat) (sl : SlipNow) : Option SlipCause :=
  firstCause (sl.awaits.filterMap (waitCause h m c n))

/-- n added to the count of a cause (Table 4.5). -/
def SlipRec.charge (r : SlipRec) (n : Int) : SlipCause → SlipRec
  | .xlateMiss => { r with xlateMiss := r.xlateMiss + BitVec.ofInt 64 n }
  | .codedShort => { r with codedShort := r.codedShort + BitVec.ofInt 64 n }
  | .memLate => { r with memLate := r.memLate + BitVec.ofInt 64 n }
  | .pannierLate => { r with pannierLate := r.pannierLate + BitVec.ofInt 64 n }
  | .haloWait => { r with haloWait := r.haloWait + BitVec.ofInt 64 n }
  | .creditWait => { r with creditWait := r.creditWait + BitVec.ofInt 64 n }
  | .flagWait => { r with flagWait := r.flagWait + BitVec.ofInt 64 n }

/-- Slipped fabric cycles of a block. -/
def SlipRec.total (r : SlipRec) : Nat :=
  r.memLate.toNat + r.codedShort.toNat + r.pannierLate.toNat + r.haloWait.toNat + r.flagWait.toNat + r.creditWait.toNat + r.xlateMiss.toNat

/-- A stretch of a slip that ends at time t, with this cause all through it: the fabric cycles it touches that are not charged yet, and whether the one it begins in, charged before, passes from a cause that comes later in Table 4.4 (R95). -/
def SlipNow.touched (sl : SlipNow) (cause : SlipCause) (t : Nat) : Nat × Option SlipCause :=
  (ceilDiv t fabTicks - max sl.chargedTo (sl.since / fabTicks),
   if sl.since < t ∧ sl.since / fabTicks < sl.chargedTo then sl.chargedAs.filter (fun old => decide (cause.rank < old.rank)) else none)

/-- The record with what a stretch touches charged (R95). -/
def SlipRec.take (r : SlipRec) (x : Nat × Option SlipCause) (cause : SlipCause) : SlipRec :=
  match x.2 with
  | some old => (r.charge (-1) old).charge (x.1 + 1) cause
  | none => r.charge x.1 cause

/-- The slip accounted for up to time t. -/
def SlipNow.upTo (sl : SlipNow) (x : Nat × Option SlipCause) (cause : SlipCause) (t : Nat) : SlipNow :=
  { sl with
    since := max sl.since t
    chargedTo := max sl.chargedTo (ceilDiv t fabTicks)
    chargedAs := if x.1 = 0 ∧ x.2.isNone then sl.chargedAs else some cause }

/-- Charge a stretch of a core's slip that ends at time t, through which the same conditions hold (R95). -/
def CoreState.chargeTo (k : CoreState) (h : ShareState) (c t : Nat) : CoreState :=
  match k.run with
  | none => k
  | some r =>
    match r.slip with
    | none => k
    | some sl =>
      match slipCause h k.mover c (sl.since / fabTicks) sl with
      | none => { k with run := some { r with slip := some { sl with since := max sl.since t } } }
      | some cause =>
        let x := sl.touched cause t
        { k with
          run := some { r with slip := some (sl.upTo x cause t), slips := r.slips.take x cause }
          slipRec := k.slipRec.take x cause }

/-- Charge a core's slip up to time t: every fabric cycle touched so far, once, to the first cause of Table 4.4 that has held in it (R95). The ADDs of the fabric cycle the stretch begins in show from the next one (R102). -/
def CoreState.charge (k : CoreState) (h : ShareState) (c t : Nat) : CoreState :=
  match k.run.bind (fun r => r.slip) with
  | none => k
  | some sl =>
    let b := (sl.since / fabTicks + 1) * fabTicks
    if h.addedIn = sl.since / fabTicks ∧ b < t then (k.chargeTo h c b).chargeTo h c t else k.chargeTo h c t

def State.chargeCore (s : State) (c t : Nat) : State := s.modCore c (fun k => k.charge s.share c t)

/-- Charge every slip up to now, before something changes that a core may wait for. -/
def State.chargeAll (s : State) : State :=
  { s with cores := { s.cores with cores := s.cores.cores.map (fun e => (e.1, e.2.charge s.share e.1 s.now)) } }

/-- An ADD made at time t: a WAIT_GE sees it from the next fabric cycle (R101, R102). -/
def ShareState.addAt (h : ShareState) (t cl fld amount : Nat) : ShareState :=
  if h.ctrBad cl fld then h
  else
    { h.addCtr cl fld amount with
      added := (if h.addedIn = t / fabTicks then h.added else []) ++ [(cl, fld, amount)]
      addedIn := t / fabTicks }

/-- ADD on a counter field (R101). -/
def State.addCtr (s : State) (cl fld amount : Nat) : State :=
  let t := s.chargeAll
  { t with share := t.share.addAt t.now cl fld amount }

/-- ADD on a hub counter by its index (descriptors of the relaxed channels, R103). -/
def State.addHub (s : State) (ix amount : Nat) : State := s.addCtr 0 (4096 + ix % 4096) amount

end Sys2Proof.Machine
end

