-- ==== Sys2Proof/Machine/Rotation.lean ====
section
/-! DEFINITION. The rotation unit: the block Hadamard transform with seeded signs (R56, R61), and quantising its output (R58, R118). -/

namespace Sys2Proof.Machine

/-- Seeded sign of reduction coordinate i: bit 63 of splitmix64(SEED + i) (R56). -/
def signAt (seed i : Nat) : Bool := (splitmix64 (BitVec.ofNat 64 (seed + i))).getLsbD 63

/-- Negate an FP32 code. -/
def fneg (x : Nat) : Nat := to32 (f32 x).neg

/-- Step 2 of R56 over elements from coordinate b on. -/
def signs (seed : Nat) : Nat → List Nat → List Nat
  | _, [] => []
  | b, x :: xs => (if signAt seed b then fneg x else x) :: signs seed (b + 1) xs

/-- One butterfly stage of distance d over a block of at most `fuel` elements. -/
def butterfly (d : Nat) : Nat → List Nat → List Nat
  | 0, l => l
  | fuel + 1, l =>
    if l.isEmpty then []
    else
      let u := l.take d
      let v := (l.drop d).take d
      List.zipWith fadd u v ++ List.zipWith fsub u v ++ butterfly d fuel (l.drop (2 * d))

/-- Stages of distance 2^t to 2^(k - 1), ascending. -/
def stages (k : Nat) : Nat → List Nat → List Nat
  | 0, l => l
  | n + 1, l => stages k n (butterfly (2 ^ (k - (n + 1))) l.length l)

/-- Step 4: every output times 2^(-floor(k / 2)). -/
def normalise (k : Nat) (l : List Nat) : List Nat := l.map (fun x => fmul x (to32 (.fin false 1 (-((k / 2 : Nat) : Int)))))

/-- One block of 2^k elements whose first has reduction coordinate b (R56, R61). -/
def rotateBlock (k seed : Nat) (transpose : Bool) (b : Nat) (l : List Nat) : List Nat :=
  if transpose then signs seed b (normalise k (stages k k l))
  else normalise k (stages k k (signs seed b l))

/-- All blocks of a row. -/
def rotateBlocks (k seed : Nat) (transpose : Bool) : Nat → Nat → List Nat → List Nat
  | 0, _, _ => []
  | fuel + 1, b, l =>
    if l.isEmpty then []
    else rotateBlock k seed transpose b (l.take (2 ^ k)) ++ rotateBlocks k seed transpose fuel (b + 2 ^ k) (l.drop (2 ^ k))

/-- A row through the rotation unit: exact conversion to FP32, and the transform if ROT_K selects one. -/
def rotateRow (rotK seed : Nat) (transpose : Bool) (b : Nat) (src : Fmt) (codes : List Nat) : List Nat :=
  let x := codes.map (fun c => to32 (src.decode c))
  if rotK = 0 then x else rotateBlocks rotK seed transpose x.length b x

/-- What the rotation unit puts out: FP4 or INT4 with segment scales, or FP8. -/
inductive RotTarget where
  | narrow (t : NarrowFmt)
  | wide (f : Fmt)
  deriving DecidableEq, Repr

/-- The quantised output a record selects (R118; R58 for INLINE). -/
def ProductRec.rotTarget (r : ProductRec) : RotTarget :=
  if r.pair = 4 then .wide (if r.xE5m2 then e5m2 else e4m3)
  else if r.pair = 1 then .narrow (if r.xSym then .int4Sym else .int4)
  else .narrow .fp4

/-- A quantised row: element outcomes and the scale code of each 128-element segment. -/
structure QuantRow where
  elems : List Elem
  scales : List Nat
  watch : Watch
  deriving DecidableEq, Repr

/-- Clips and magnitudes of elements at a watch point (R70, R71). -/
def watchOf (vals : List FpVal) (elems : List Elem) : Watch :=
  { clips := (elems.filter (·.clip)).length, maxMag := vals.foldl (fun m v => max m (watchMag v)) 0 }

/-- Quantise a rotated row (R36, R37, R58); `stored` gives the scale codes of a STORED vector. -/
def quantiseRow (r : ProductRec) (stored : List Nat) (row : List Nat) : QuantRow :=
  let vals := row.map f32
  match r.rotTarget with
  | .wide f =>
    let es := vals.map (convertTo f .rne r.sat false)
    { elems := es, scales := [], watch := watchOf vals es }
  | .narrow t =>
    let segs := pieces 128 vals.length vals
    let scales := if r.stored then stored else segs.map (dynamicScale t)
    let es := (segs.zip scales).flatMap (fun s => s.1.map (quantise t .rne false s.2))
    { elems := es, scales := scales, watch := watchOf vals es }

/-- Rotation latency (R59, Table 3.1). -/
def rotLatency (rotK : Nat) : Nat := 6 + rotK + max 2 (if rotK = 0 then 0 else 2 ^ rotK / 64)

/-- Format of the correction copy of a ROTATE_STORE (R118). -/
def ProductRec.copyFmt (r : ProductRec) : Fmt :=
  if !r.corrFp8 then bf16 else if bit r.corrE5m2 0 then e5m2 else e4m3

/-- Bits of an element of the rotation unit's source. -/
def ProductRec.srcBits (r : ProductRec) : Nat := ((srcFmt? r.srcFmt).getD bf16).width

/-- Count an event list n times over. -/
def timesAll (n : Nat) (l : List FmtEvent) : List (FmtEvent × Nat) := l.map (fun e => (e, n))

/-- Rows of the source, each through the rotation unit and quantised. -/
def rotatedRows (r : ProductRec) (v : View) (src sx coord : Nat) : List (List Nat × QuantRow) :=
  let f := (srcFmt? r.srcFmt).getD bf16
  let nseg := ceilDiv r.k 128
  (List.range r.m).map (fun i =>
    let row := rotateRow r.rotK r.seed r.transpose coord f (v.row (src + i * (r.k * f.width / 8)) f.width r.k)
    let stored := (v.bytes (sx + i * nseg) nseg).map (·.toNat)
    (row, quantiseRow r (if r.stored then stored else []) row))

/-- One iteration of ROTATE_STORE (R118): source, quantised output, scale vector, correction copy and coordinate. -/
def rotateStore (r : ProductRec) (v : View) (src dst sv copy coord : Nat) : IterOut :=
  let rows := rotatedRows r v src sv coord
  let bits := match r.rotTarget with
    | .narrow _ => 4
    | .wide _ => 8
  let nseg := ceilDiv r.k 128
  let cf := r.copyFmt
  let idx := rows.zip (List.range r.m)
  let copies := rows.map (fun x => x.1.map (fun c => convertTo cf .rne r.sat false (f32 c)))
  { writes :=
      idx.map (fun x => .spad (dst + x.2 * (r.k * bits / 8)) (pack bits 0 (x.1.2.elems.map (·.code))))
        ++ (if bits = 4 ∧ !r.stored then
              idx.map (fun x => .spad (sv + x.2 * nseg) (x.1.2.scales.map (BitVec.ofNat 8)))
            else [])
        ++ (if r.corr then
              (copies.zip (List.range r.m)).map (fun x => .spad (copy + x.2 * (r.k * cf.width / 8)) (pack cf.width 0 (x.1.map (·.code))))
            else [])
    events := timesAll 1 (rows.flatMap (fun x => x.2.elems.flatMap (·.events)))
      ++ (if r.corr then timesAll 1 (copies.flatMap (fun x => x.flatMap (·.events))) else [])
    watch := rows.foldl (fun w x => w.plus x.2.watch) {}
    watched := true }

end Sys2Proof.Machine
end

