-- ==== Sys2Proof/Machine/Engine.lean ====
section
/-! DEFINITION. The engine: exact chunk values (R42, R43, R39, R46), their accumulation (R44, R45), the correction lane (R64 to R69), operand layouts (R117), latency and occupancy (Table 4.1, R60, R67). -/

namespace Sys2Proof.Machine

/-- An operand element as it enters a lane: its value and what reading it counts. -/
abbrev LaneElem := FpVal × List FmtEvent

/-- Activation element of a pair (R28, R29, R46). -/
def xElem (p : Pair) (r : ProductRec) (c : Nat) : LaneElem :=
  match p with
  | .int4 => int4Val r.xSym c
  | .fp8 => wideVal (if r.xE5m2 then e5m2 else e4m3) c
  | .bf16 => wideVal bf16 c
  | .fp16 => wideVal fp16 c
  | _ => (fp4.decode c, [])

/-- Weight element of a pair (R30). -/
def wElem (p : Pair) (r : ProductRec) (c : Nat) : LaneElem :=
  match p with
  | .int4 => int4Val r.wSym c
  | .ternary => ternaryVal c
  | .fp8 => wideVal (if r.wE5m2 then e5m2 else e4m3) c
  | .bf16 => wideVal bf16 c
  | .fp16 => wideVal fp16 c
  | _ => (fp4.decode c, [])

/-- The exact sum of the products of two vectors (R42, R46). -/
def dot (xs ws : List FpVal) : FpVal := exactSum (List.zipWith FpVal.mul xs ws)

/-- A row or a column of an operand: its values by chunk, and its scale codes. -/
structure Vec where
  chunks : List (List FpVal)
  scales : List Nat
  deriving DecidableEq, Repr

/-- Exact value of chunk g (R43: times both segment scales; R39, R40: block by block under E8M0). -/
def chunkValue (p : Pair) (g : Nat) (x w : Vec) : FpVal :=
  let xs := x.chunks.getD g []
  let ws := w.chunks.getD g []
  match p with
  | .mxfp4 =>
    let blk (b : Nat) : FpVal :=
      let s := (e8m0Val (x.scales.getD (2 * g + b) 0)).mul (e8m0Val (w.scales.getD (2 * g + b) 0))
      (dot ((xs.drop (32 * b)).take 32) ((ws.drop (32 * b)).take 32)).mul s
    exactSum [blk 0, blk 1]
  | _ =>
    let v := dot xs ws
    match p.scaleLen with
    | some n =>
      let seg := g * p.chunk / n
      exactSum [(v.mul (e5m3Val (x.scales.getD seg 0))).mul (e5m3Val (w.scales.getD seg 0))]
    | none => v

/-- The sums an element takes as its chunks are added in ascending reduction index, one rounding each (R44, R45). -/
def accumulate (p : Pair) (x w : Vec) : List Nat → Nat → List Nat
  | [], _ => []
  | g :: gs, acc =>
    let a := to32 ((f32 acc).add (chunkValue p g x w))
    a :: accumulate p x w gs a

/-- What an accumulator entry takes: the last sum, and those before it. -/
def accWrite (lane e start : Nat) (sums : List Nat) : CoreWrite :=
  .acc lane e (BitVec.ofNat 32 (sums.getLastD start)) (sums.dropLast.map (BitVec.ofNat 32))

/-- An operand vector from its element codes and scale codes. -/
def mkVec (p : Pair) (elems : List FpVal) (scales : List Nat) : Vec :=
  { chunks := pieces p.chunk elems.length elems, scales := scales }

/-- E8M0 codes 0xFF among the blocks read (R40). -/
def nanBlocks (p : Pair) (scales : List Nat) : Nat :=
  if p = .mxfp4 then (scales.filter (· == 255)).length else 0

/-- Formats of the correction operands (R64). -/
def corrFmt (r : ProductRec) (i : Nat) : Fmt :=
  if r.corrFp8 then (if bit r.corrE5m2 i then e5m2 else e4m3) else bf16

/-- Products of a correction chunk (R65). -/
def corrChunk (r : ProductRec) : Nat := if r.corrFp8 then 16 else 8

/-- Sum of exact chunks from +0, each add rounded (R65). -/
def chunkedDot (n : Nat) (xs ws : List FpVal) : Nat :=
  (List.zip (pieces n xs.length xs) (pieces n ws.length ws)).foldl
    (fun a c => to32 ((f32 a).add (dot c.1 c.2))) 0

/-- The correction of a product: corr(i, j) by row, and what its elements count (R65, R69). -/
structure Correction where
  terms : List (List Nat)
  events : List FmtEvent
  deriving DecidableEq, Repr

/-- Rows of a dense correction operand. -/
def corrRows (v : View) (f : Fmt) (a rows len : Nat) : List (List LaneElem) :=
  (List.range rows).map (fun i => (v.row (a + i * (len * f.width / 8)) f.width len).map (wideVal f))

def correction (r : ProductRec) (v : View) : Correction :=
  let n := corrChunk r
  let xs := corrRows v (corrFmt r 0) r.corrX r.m r.k
  let as := corrRows v (corrFmt r 1) r.corrA r.rank r.k
  let bs := corrRows v (corrFmt r 2) r.corrB r.n r.rank
  let ts := xs.map (fun x => as.map (fun a => convertTo bf16 .rne true false (f32 (chunkedDot n (x.map (·.1)) (a.map (·.1))))))
  { terms := ts.map (fun t => bs.map (fun b => chunkedDot n (t.map (fun e => bf16.decode e.code)) (b.map (·.1))))
    events := (xs ++ as ++ bs).flatMap (fun l => l.flatMap (·.2)) ++ ts.flatMap (fun t => t.flatMap (·.events)) }

/-- Addresses and flags of one PRODUCT iteration. -/
structure ProductAt where
  x : Nat
  w : Nat
  sx : Nat
  sw : Nat
  d : Nat
  /-- Reduction coordinate of its first element (R128). -/
  coord : Nat
  /-- INIT = ZERO applies here (R128). -/
  zero : Bool
  /-- No chunk: a REDUCE level has reached its bound (R128). -/
  empty : Bool
  deriving DecidableEq, Repr

/-- Bytes of a whole 128-column weight tile column (R117). -/
def wTileBytes (p : Pair) (k : Nat) : Nat := k * 128 * p.wBits / 8

/-- Activation rows as they enter the engine, with their counts and the watch (INLINE: through the rotation unit). -/
def activations (p : Pair) (r : ProductRec) (v : View) (a : ProductAt) : List Vec × List (FmtEvent × Nat) × Watch :=
  let tiles := ceilDiv r.n 128
  let nsc := match p.scaleLen with
    | some n => ceilDiv r.k n
    | none => 0
  if r.inline then
    let rows := rotatedRows r v a.x a.sx a.coord
    let q := rows.map (fun x => x.2.elems.map (fun e => (xElem p r e.code, e.events)))
    ((rows.zip q).map (fun x => mkVec p (x.2.map (·.1.1)) x.1.2.scales),
     timesAll tiles (q.flatMap (fun l => l.flatMap (fun e => e.2 ++ e.1.2))),
     rows.foldl (fun w x => w.plus { x.2.watch with clips := tiles * x.2.watch.clips }) {})
  else
    let rows := (List.range r.m).map (fun i =>
      ((v.row (a.x + i * (r.k * p.xBits / 8)) p.xBits r.k).map (xElem p r), (v.bytes (a.sx + i * nsc) nsc).map (·.toNat)))
    (rows.map (fun x => mkVec p (x.1.map (·.1)) x.2),
     timesAll tiles (rows.flatMap (fun x => x.1.flatMap (·.2)))
       ++ rows.map (fun x => (.e8m0NanBlock, tiles * nanBlocks p x.2)),
     {})

/-- Weight column j: the elements of its lane down the reduction, and its scales. -/
def weightColumn (p : Pair) (r : ProductRec) (v : View) (a : ProductAt) (codes : List (List Nat)) (j : Nat) : Vec × List (FmtEvent × Nat) :=
  let nsc := match p.scaleLen with
    | some n => ceilDiv r.k n
    | none => 0
  let es := codes.map (fun row => wElem p r (row.getD (j % 128) 0))
  let sc := (v.bytes (a.sw + j * nsc) nsc).map (·.toNat)
  (mkVec p (es.map (·.1)) sc, timesAll 1 (es.flatMap (·.2)) ++ [(.e8m0NanBlock, nanBlocks p sc)])

/-- The K rows of 128 codes of weight column tile t. -/
def weightTile (p : Pair) (r : ProductRec) (v : View) (a : ProductAt) (t : Nat) : List (List Nat) :=
  (List.range r.k).map (fun kk => v.row (a.w + t * wTileBytes p r.k + kk * (128 * p.wBits / 8)) p.wBits 128)

/-- One iteration of a PRODUCT (R45, R117, R128). The lanes that pad the last weight tile to 128 columns are no elements of the operation: what lies there is neither added nor counted (R55; DESIGN CHOICE, log 46). -/
def product (p : Pair) (r : ProductRec) (v : View) (a : ProductAt) : IterOut :=
  let start (lane e : Nat) : Nat := if a.zero && !r.keep then 0 else v.entry lane e
  let entry (i j : Nat) : Nat := a.d + j / 128 * r.m + i
  if a.empty then
    { writes := (List.range r.n).flatMap (fun j => (List.range r.m).map (fun i =>
        accWrite (j % 128) (entry i j) (start (j % 128) (entry i j)) [])) }
  else
    let xs := activations p r v a
    let cols := (List.range (ceilDiv r.n 128)).flatMap (fun t =>
      let codes := weightTile p r v a t
      (List.range (min 128 (r.n - 128 * t))).map (fun jj => weightColumn p r v a codes (128 * t + jj)))
    let corr := if r.corr then correction r v else { terms := [], events := [] }
    { writes := (cols.zip (List.range r.n)).flatMap (fun c =>
        (xs.1.zip (List.range r.m)).map (fun x =>
          let start := start (c.2 % 128) (entry x.2 c.2)
          let sums := accumulate p x.1 c.1.1 (List.range x.1.chunks.length) start
          let sums := if r.corr then sums ++ [fadd (sums.getLastD start) ((corr.terms.getD x.2 []).getD c.2 0)] else sums
          accWrite (c.2 % 128) (entry x.2 c.2) start sums))
      events := xs.2.1 ++ cols.flatMap (·.2) ++ timesAll 1 corr.events
      watch := xs.2.2
      watched := r.inline }

/-- Latency and occupancy of one PRODUCT iteration (Table 4.1, R60, R67). -/
def productTiming (p : Pair) (r : ProductRec) : Nat × Nat :=
  let q := if p = .ternary ∧ r.inline then 2 else 1
  let wide := p = .bf16 ∨ p = .fp16
  let pt := ceilDiv r.k p.chunk * ceilDiv r.n 128
  let lat := (if wide then 28 else 26) + (if r.inline then rotLatency r.rotK else 0)
  let occ := pt * max (if wide then r.m else r.m * q) 16
  if r.corr then
    let c := ceilDiv (r.m * r.rank * (r.k + r.n)) (if r.corrFp8 then 1024 else 512)
    let e := if p = .ternary then r.m * ceilDiv r.k 128 * ceilDiv r.n 128 * q else r.m * (r.k / 64) * ceilDiv r.n 128
    (lat + 8, occ + (c - e))
  else (lat, occ)

end Sys2Proof.Machine
end

