-- ==== Sys2Proof/Machine/Vector.lean ====
section
/-! DEFINITION. The vector engine and the special-function unit: conversion (R48 to R53, R119), elementwise operations (R134), reductions (R137, R138), row statistics (R139 to R142), windows (R143, R144), functions and lookups (R145 to R149), with their latency and occupancy (Table 4.1, R135). -/

namespace Sys2Proof.Machine

/-- One iteration of CONVERT: source entry, destination, scale vector, row and column coordinates (R119); `pad` fills the last half byte of an odd row of four-bit codes. -/
def convertTile (r : ConvRec) (t : Target) (v : View) (src dst sv row col : Nat) (pad : Nat → BitVec 4) : IterOut :=
  let nseg := ceilDiv r.cols 128
  let mode (i j : Nat) : Rounding := if r.sr then .sr (srRandom r.seed ((row + i) * r.w + col + j)) else .rne
  let scale := f32 r.outScale
  let rowOut (i : Nat) : List Elem × List Nat × List FpVal :=
    let ps := (List.range r.cols).map (fun j => (f32 (v.entry (j % 128) (src + j / 128 * r.rows + i))).mul scale)
    match t with
    | .wide f => ((ps.zip (List.range r.cols)).map (fun x => convertTo f (mode i x.2) r.sat r.flush x.1), [], ps)
    | .narrow n =>
      let scales :=
        if r.stored then (v.bytes (sv + i * nseg) nseg).map (·.toNat) else (pieces 128 r.cols ps).map (dynamicScale n)
      ((ps.zip (List.range r.cols)).map (fun x => quantise n (mode i x.2) r.flush (scales.getD (x.2 / 128) 0) x.1), scales, ps)
  let rows := (List.range r.rows).map (fun i => (i, rowOut i))
  let watched := decide (3 ≤ r.target)
  { writes :=
      rows.map (fun x => .spad (dst + x.1 * r.pitch) (pack t.bits (pad x.1).toNat (x.2.1.map (·.code))))
        ++ (match t with
            | .narrow _ => if r.stored then [] else rows.map (fun x => .spad (sv + x.1 * nseg) (x.2.2.1.map (BitVec.ofNat 8)))
            | .wide _ => [])
    events := timesAll 1 (rows.flatMap (fun x => x.2.1.flatMap (·.events)))
    watch := if watched then rows.foldl (fun w x => w.plus (watchOf x.2.2.2 x.2.1)) {} else {}
    watched := watched }

def convertTiming (r : ConvRec) : Nat × Nat := (if 5 ≤ r.target then 12 else 9, ceilDiv (r.rows * r.cols) 256)

/-- An element widened exactly to FP32. -/
def widen (fmt c : Nat) : Nat := to32 ((vecFmt fmt).decode c)
/-- An FP32 result rounded to the destination (R134 step 3). -/
def narrowTo (fmt : Nat) (sat : Bool) (x : Nat) : Nat := (convertTo (vecFmt fmt) .rne sat false (f32 x)).code

/-- Row of `n` elements of a vector operand, widened. -/
def View.vec (v : View) (a fmt n : Nat) : List Nat := (v.row a (8 * vecBytes fmt) n).map (widen fmt)

/-- Bytes of a row of FP32 results in the destination format. -/
def vecRow (fmt : Nat) (sat : Bool) (l : List Nat) : List Byte := pack (8 * vecBytes fmt) 0 (l.map (narrowTo fmt sat))

/-- Absolute value of an FP32 code. -/
def fabs (x : Nat) : Nat := to32 (f32 x).abs
/-- 1.0 or +0. -/
def truth (b : Bool) : Nat := if b then fone else 0

/-- Result of an elementwise sub-operation (Table 6.2). -/
def elemOp (subop a b x : Nat) : Nat :=
  match subop with
  | 0 => fadd a b
  | 1 => fsub a b
  | 2 => fmul a b
  | 3 => ffma a b x
  | 4 => fmax a b
  | 5 => fmin a b
  | 6 => fabs a
  | 7 => fneg a
  | 8 => truth ((f32 a).feq (f32 b))
  | 9 => truth ((f32 a).lt (f32 b))
  | 10 => truth ((f32 a).le (f32 b))
  | _ => if (f32 x).isNan || (f32 x).isZero then b else a

/-- Operand addresses of a vector iteration. -/
structure VecAt where
  a : Nat
  b : Nat
  d : Nat
  x : Nat
  deriving DecidableEq, Repr

/-- Row i of operand B by B_MODE (Table 6.1): TENSOR, ROW, COLUMN, SCALAR. -/
def bRow (r : VecRec) (v : View) (at_ : VecAt) (scalar i n : Nat) : List Nat :=
  match r.bMode with
  | 0 => v.vec (at_.b + i * r.pitchB) r.fmtB n
  | 1 => List.replicate n ((v.vec (at_.b + i * vecBytes r.fmtB) r.fmtB 1).headD 0)
  | 2 => v.vec at_.b r.fmtB n
  | _ => List.replicate n scalar

/-- Element k of three rows. -/
def zip3 (f : Nat → Nat → Nat → Nat) (n : Nat) (a b x : List Nat) : List Nat :=
  (List.range n).map (fun k => f (a.getD k 0) (b.getD k 0) (x.getD k 0))

/-- One iteration of ELEMWISE; `sel` is the selector of the mask generator, if it makes one (R206). -/
def elemwiseTile (r : VecRec) (u : VecUse) (v : View) (at_ : VecAt) (sel : Option (Nat → Nat → Bool)) : IterOut :=
  { writes := (List.range r.rows).map (fun i =>
      let a := v.vec (at_.a + i * r.pitchA) r.fmtA r.cols
      let b := if u.b then bRow r v at_ r.imm i r.cols else []
      let x := match sel with
        | some f => (List.range r.cols).map (fun j => truth (f i j))
        | none => if u.x then v.vec (at_.x + i * r.pitchX) r.fmtX r.cols else []
      .spad (at_.d + i * r.pitchD) (vecRow r.fmtD r.sat (zip3 (elemOp r.subop) r.cols a b x))) }

/-- One iteration of FORMAT: a in FMT_D. -/
def formatTile (r : VecRec) (v : View) (at_ : VecAt) : IterOut :=
  { writes := (List.range r.rows).map (fun i =>
      .spad (at_.d + i * r.pitchD) (vecRow r.fmtD r.sat (v.vec (at_.a + i * r.pitchA) r.fmtA r.cols))) }

/-- A row reduced to one value (R137, R138). -/
def reduceRow (subop : Nat) (l : List Nat) : Nat :=
  match subop with
  | 0 => treeSum l
  | 1 => l.tail.foldl fmax (l.headD 0)
  | 2 => l.tail.foldl fmin (l.headD 0)
  | 3 => treeSum (l.map (fun a => fmul a a))
  | _ => treeSum (l.map fabs)

/-- One iteration of REDUCE: the result of row i at D + i * size (R137). -/
def reduceTile (r : VecRec) (v : View) (at_ : VecAt) : IterOut :=
  { writes := (List.range r.rows).map (fun i =>
      .spad (at_.d + i * vecBytes r.fmtD) (vecRow r.fmtD r.sat [reduceRow r.subop (v.vec (at_.a + i * r.pitchA) r.fmtA r.cols)])) }

/-- Row-statistics state record (Table 6.3). -/
structure RowState where
  max : Nat := fninf
  prevMax : Nat := fninf
  sumexp : Nat := 0
  mean : Nat := 0
  m2 : Nat := 0
  count : Nat := 0
  deriving DecidableEq, Repr

def parseRowState (bs : List Byte) : RowState :=
  { max := fieldAt bs 0 4, prevMax := fieldAt bs 4 4, sumexp := fieldAt bs 8 4, mean := fieldAt bs 12 4
    m2 := fieldAt bs 16 4, count := fieldAt bs 20 4 }

def RowState.bytes (s : RowState) : List Byte :=
  natLe 4 s.max ++ natLe 4 s.prevMax ++ natLe 4 s.sumexp ++ natLe 4 s.mean ++ natLe 4 s.m2 ++ natLe 4 s.count ++ natLe 8 0

/-- UPD_EXP part of R140; `z` are the scaled scores. -/
def RowState.updExp (s : RowState) (z : List Nat) : RowState :=
  let m := z.foldl fmax s.max
  let t := { s with prevMax := s.max, max := m }
  if m = fninf then t
  else { t with sumexp := fadd (fmul s.sumexp (fexp2 (fsub s.max m))) (treeSum (z.map (fun x => fexp2 (fsub x m)))) }

/-- Moments of `nb` more elements with mean mb and squared deviations m2b (R140). -/
def RowState.addMoments (s : RowState) (nb mb m2b : Nat) : RowState :=
  let n := s.count + nb
  let d := fsub mb s.mean
  let w := fdiv (fofNat nb) (fofNat n)
  { s with
    mean := fadd s.mean (fmul d w)
    m2 := fadd (fadd s.m2 m2b) (fmul (fmul (fmul d d) (fofNat s.count)) w)
    count := min n 0xFFFFFFFF }

/-- UPD_MOM part of R140. -/
def RowState.updMom (s : RowState) (x : List Nat) : RowState :=
  let mb := fdiv (treeSum x) (fofNat x.length)
  s.addMoments x.length mb (treeSum (x.map (fun v => fmul (fsub v mb) (fsub v mb))))

/-- MERGE of state b into s (R140). With b's COUNT 0 the moments of s stay as they are, where the formula with w = 0 could change a -0 mean or meet an overflow (DESIGN CHOICE, log 46). -/
def RowState.merge (s b : RowState) : RowState :=
  let m := fmax s.max b.max
  let t := { s with prevMax := s.max, max := m
                    sumexp := if m = fninf then 0
                      else fadd (fmul s.sumexp (fexp2 (fsub s.max m))) (fmul b.sumexp (fexp2 (fsub b.max m))) }
  if b.count = 0 then t else t.addMoments b.count b.mean b.m2

/-- LSE and FACTOR (Table 6.4, R142). -/
def RowState.lse (s : RowState) : Nat := if s.max = fninf then fninf else fadd s.max (flog2 s.sumexp)
def RowState.factor (s : RowState) : Nat := if s.max = fninf then fone else fexp2 (fsub s.prevMax s.max)

/-- SOFTMAX, LAYERNORM and RMSNORM of a row (R141, R142). -/
def RowState.apply (s : RowState) (subop imm : Nat) (x gamma : List Nat) : List Nat :=
  if subop = 7 then
    if s.max = fninf then x.map (fun _ => 0)
    else x.map (fun v => fmul (fexp2 (fsub (fmul v imm) s.max)) (frecip s.sumexp))
  else if s.count = 0 then x.map (fun _ => 0)
  else
    let var := fdiv s.m2 (fofNat s.count)
    if subop = 8 then
      let r := frsqrt (fadd var imm)
      List.zipWith (fun v g => fmul (fmul (fsub v s.mean) r) g) x gamma
    else
      let r := frsqrt (fadd (fadd var (fmul s.mean s.mean)) imm)
      List.zipWith (fun v g => fmul (fmul v r) g) x gamma

/-- One iteration of ROWSTAT (Table 6.4). -/
def rowstatTile (r : VecRec) (v : View) (at_ : VecAt) : IterOut :=
  let st (a i : Nat) : RowState := parseRowState (v.bytes (a + 32 * i) 32)
  let a (i : Nat) : List Nat := v.vec (at_.a + i * r.pitchA) r.fmtA r.cols
  let putSt (i : Nat) (s : RowState) : CoreWrite := .spad (at_.x + 32 * i) s.bytes
  let put1 (i x : Nat) : CoreWrite := .spad (at_.d + i * vecBytes r.fmtD) (vecRow r.fmtD r.sat [x])
  { writes := (List.range r.rows).map (fun i =>
      let s := st at_.x i
      let z := (a i).map (fun x => fmul x r.imm)
      match r.subop with
      | 0 => putSt i {}
      | 1 => putSt i (s.updExp z)
      | 2 => putSt i (s.updMom (a i))
      | 3 => putSt i ((s.updExp z).updMom (a i))
      | 4 => putSt i (s.merge (st at_.b i))
      | 5 => put1 i s.lse
      | 6 => put1 i s.factor
      | n => .spad (at_.d + i * r.pitchD) (vecRow r.fmtD r.sat (s.apply n r.imm (a i) (bRow r v at_ r.imm2 i r.cols)))) }

/-- Input element (row, column, channel) of a window, none in padding. -/
def winTap (r : VecRec) (rows : List (List Nat)) (y x : Int) (c : Nat) : Option Nat :=
  if 0 ≤ y ∧ y < r.inH ∧ 0 ≤ x ∧ x < r.inW then some ((rows.getD y.toNat []).getD (x.toNat * r.channels + c) 0) else none

/-- Taps (u, v), u outer and v inner. -/
def taps (w : WinWord) : List (Nat × Nat) := (List.range w.kh).flatMap (fun u => (List.range w.kw).map (fun v => (u, v)))

/-- One iteration of WINDOW (R143, R144). -/
def windowTile (r : VecRec) (v : View) (at_ : VecAt) : IterOut :=
  let w := parseWin r.window
  let rows := (List.range r.inH).map (fun i => v.vec (at_.a + i * r.pitchA) r.fmtA (r.inW * r.channels))
  let wts := if r.subop = 0 then v.vec at_.b r.fmtB (w.kh * w.kw * r.channels) else []
  let bias := if w.acc = 2 then v.vec at_.x r.fmtX r.channels else []
  let outW := r.cols / r.channels
  let g := 2 ^ r.group
  let tap (p q c : Nat) (t : Nat × Nat) : Option Nat :=
    winTap r rows ((p * w.strideH + t.1 : Nat) - w.padT : Int) ((q * w.strideW + t.2 : Nat) - w.padL : Int) c
  let out (prev : List Nat) (p q c : Nat) : Nat :=
    let vals := (taps w).filterMap (tap p q c)
    match r.subop with
    | 0 =>
      let start := if w.acc = 0 then 0 else if w.acc = 1 then prev.getD (q * r.channels + c) 0 else bias.getD c 0
      (taps w).foldl (fun acc t =>
        match tap p q (c / g * g + r.pass) t with
        | some x => ffma x (wts.getD ((t.1 * w.kw + t.2) * r.channels + c) 0) acc
        | none => acc) start
    | 1 => vals.tail.foldl fmax (vals.headD 0)
    | _ => fdiv (vals.foldl fadd 0) (fofNat (if w.avgDiv then w.kh * w.kw else vals.length))
  { writes := (List.range r.rows).map (fun p =>
      let prev := if r.subop = 0 ∧ w.acc = 1 then v.vec (at_.d + p * r.pitchD) r.fmtD r.cols else []
      .spad (at_.d + p * r.pitchD) (vecRow r.fmtD r.sat
        ((List.range outW).flatMap (fun q => (List.range r.channels).map (out prev p q))))) }

/-- Lane width of a vector operation (R135). -/
def vecWidth (r : VecRec) (opcode : Nat) (maskgen : Bool) (u : VecUse) : Nat :=
  if opcode = 0x14 ∨ (u.a && r.fmtA == 0) ∨ (u.b && (r.bMode != 3) && r.fmtB == 0)
      ∨ ((u.d || u.dRow) && r.fmtD == 0) ∨ (r.xTensor opcode maskgen u && r.fmtX == 0) then 256 else 512

/-- Latency and occupancy of opcodes 0x11 to 0x15 (Table 4.1). -/
def vecTiming (r : VecRec) (opcode : Nat) (maskgen : Bool) (u : VecUse) : Nat × Nat :=
  let ev := ceilDiv (r.rows * r.cols) (vecWidth r opcode maskgen u)
  let w := parseWin r.window
  if opcode = 0x11 then (4, ev)
  else if opcode = 0x12 then (3, ev)
  else if opcode = 0x13 then (12, ev)
  else if opcode = 0x15 then (6 + w.kh, ev * w.kw)
  else if r.subop = 0 then (4, ceilDiv r.rows 32)
  else if r.subop = 4 ∨ r.subop = 5 ∨ r.subop = 6 then (14, ceilDiv r.rows 32)
  else (14, ev)

/-- x mapped by IN_SCALE and IN_BIAS, the function, and rounding to DST_FMT (R145). -/
def funcElem (r : FuncRec) (f : Nat → Nat) (c : Nat) : Nat :=
  narrowTo r.dstFmt r.sat (f (ffma (widen r.srcFmt c) r.inScale r.inBias))

/-- One iteration of FUNC or LOOKUP; `f` is the function (R145, R146, R149). -/
def funcTile (r : FuncRec) (f : Nat → Nat) (v : View) (src dst : Nat) : IterOut :=
  { writes := (List.range r.rows).map (fun i =>
      .spad (dst + i * r.pitchD) (pack (8 * vecBytes r.dstFmt) 0
        ((v.row (src + i * r.pitchS) (8 * vecBytes r.srcFmt) r.cols).map (funcElem r f)))) }

def funcTiming (r : FuncRec) (lookup : Bool) : Nat × Nat := (if lookup then 16 else 14, ceilDiv (r.rows * r.cols) 64)

end Sys2Proof.Machine
end

