-- ==== Sys2Proof/Machine/Units.lean ====
section
/-! DEFINITION. A unit operation as the sequencer issues it: its iterations, the ranges each reads and writes (R79 to R81, R117 to R119, R136, R139, R143, R145), its timing (Table 4.1), and what one iteration does. -/

namespace Sys2Proof.Machine

/-- A slot word with all that fixes its iterations: the image, the loop descriptor, the run-time bounds and the registers read at issue, and the caddy bank selected. -/
structure UnitCtx where
  img : List Byte
  w : SlotWord
  loop : Option Loop
  bounds : List Nat
  sregs : List Nat
  bank : List Byte
  deriving DecidableEq, Repr

/-- The run-time bound of each level (R127). -/
def runBounds (l : Loop) (sregs : List Nat) (mbounds : List Nat) : List Nat :=
  l.levels.map (fun v =>
    match v.src with
    | 0 => v.bound
    | 1 => sregs.getD (v.bound % 16) 0
    | _ => mbounds.getD (v.bound % 64) 0)

/-- Some run-time bound exceeds its BOUND_MAX (R127). -/
def boundFault (l : Loop) (bounds : List Nat) : Bool :=
  (l.levels.zip bounds).any (fun x => decide (x.1.boundMax < x.2))

def unitCtx (img : List Byte) (word : Nat) (sregs mbounds : List Nat) (bank : List Byte) : UnitCtx :=
  let w := parseSlot word
  let loop := if w.loopIx = 0x3FF then none else some (imageLoop img w.loopIx)
  { img := img, w := w, loop := loop, sregs := sregs, bank := bank
    bounds := match loop with
      | some l => runBounds l sregs mbounds
      | none => [] }

/-- Points of the walk (R126). -/
def UnitCtx.count (u : UnitCtx) : Nat :=
  match u.loop with
  | some l => l.points
  | none => 1

def UnitCtx.point (u : UnitCtx) (t : Nat) : List Nat :=
  match u.loop with
  | some l => l.point t
  | none => []

/-- Iteration t is masked (R127). -/
def UnitCtx.masked (u : UnitCtx) (t : Nat) : Bool :=
  match u.loop with
  | some l => l.masked u.bounds (l.point t)
  | none => false

/-- What the levels add to operand o at iteration t (R126). -/
def UnitCtx.off (u : UnitCtx) (o t : Nat) : Int :=
  match u.loop with
  | some l => l.offset o (l.point t)
  | none => 0

/-- Scratchpad address, accumulator entry, and coordinate of operand o. -/
def UnitCtx.spad (u : UnitCtx) (o t : Nat) : Int := (u.w.spad o : Int) + u.off o t
def UnitCtx.entry (u : UnitCtx) (o t : Nat) : Int := ((u.w.op o % 2048 : Nat) : Int) + u.off o t
def UnitCtx.coord (u : UnitCtx) (o t : Nat) : Int := ((u.w.op o % 2 ^ 32 : Nat) : Int) + u.off o t

def UnitCtx.param (u : UnitCtx) : List Byte := imageParam u.img u.w.paramIx

/-- Scratchpad ranges one iteration reads, operand by operand, and writes, and the accumulator entries it names. -/
structure TileUse where
  reads : List (List (Int × Nat)) := []
  writes : List (Int × Nat) := []
  entries : List (Int × Nat) := []
  deriving DecidableEq, Repr

/-- Rows at a pitch. -/
def pitched (a : Int) (pitch rows len : Nat) : List (Int × Nat) := (List.range rows).map (fun i => (a + (i * pitch : Nat), len))

/-- An operand that is there only under a condition. -/
def only (c : Bool) (l : List (Int × Nat)) : List (List (Int × Nat)) := if c then [l] else []

def productUse (u : UnitCtx) (t : Nat) : TileUse :=
  let r := parseProduct u.param
  let p := (Pair.of? r.pair).getD .fp4
  let tiles := ceilDiv r.n 128
  let entries := [(u.entry 4 t, tiles * r.m)]
  let empty := match u.loop with
    | some l => l.reduceEmpty u.bounds (u.point t)
    | none => false
  if empty then { entries := entries }
  else
    let nsc := match p.scaleLen with
      | some n => ceilDiv r.k n
      | none => 0
    let scaled := p.scaleLen.isSome
    { reads :=
        [[(u.spad 0 t, r.m * (r.k * (if r.inline then r.srcBits else p.xBits) / 8))], [(u.spad 1 t, tiles * wTileBytes p r.k)]]
          ++ (if r.inline then only (r.stored && scaled) [(u.spad 2 t, r.m * ceilDiv r.k 128)] else only scaled [(u.spad 2 t, r.m * nsc)])
          ++ only scaled [(u.spad 3 t, r.n * nsc)]
          ++ only r.corr [((r.corrX : Int), r.m * r.k * r.corrBytes)]
          ++ only r.corr [((r.corrA : Int), r.rank * r.k * r.corrBytes)]
          ++ only r.corr [((r.corrB : Int), r.n * r.rank * r.corrBytes)]
      entries := entries }

/-- Bits of a quantised element of the rotation unit. -/
def rotBits (r : ProductRec) : Nat :=
  match r.rotTarget with
  | .narrow _ => 4
  | .wide _ => 8

def rotateUse (u : UnitCtx) (t : Nat) : TileUse :=
  let r := parseProduct u.param
  let sv := [(u.spad 2 t, r.m * ceilDiv r.k 128)]
  let narrow := rotBits r == 4
  { reads := [[(u.spad 0 t, r.m * (r.k * r.srcBits / 8))]] ++ only (narrow && r.stored) sv
    writes := [(u.spad 1 t, r.m * (r.k * rotBits r / 8))] ++ (if narrow && !r.stored then sv else [])
      ++ (if r.corr then [(u.spad 3 t, r.m * (r.k * r.copyFmt.width / 8))] else []) }

def convertUse (u : UnitCtx) (t : Nat) : TileUse :=
  let r := parseConv u.param
  let bits := ((target? r.target).map Target.bits).getD 32
  let sv := [(u.spad 2 t, r.rows * ceilDiv r.cols 128)]
  let narrow := decide (5 ≤ r.target)
  { reads := only (narrow && r.stored) sv
    writes := pitched (u.spad 1 t) r.pitch r.rows (packedLen bits r.cols) ++ (if narrow && !r.stored then sv else [])
    entries := [(u.entry 0 t, ceilDiv r.cols 128 * r.rows)] }

/-- The mask generator serves operand X (R206). -/
def maskgenOf (w : SlotWord) : Bool := bit (w.op 3) 43

def vecUse (u : UnitCtx) (t : Nat) : TileUse :=
  let op := u.w.opcode
  let r := parseVec u.param
  let mg := maskgenOf u.w
  let v := (vecUse? op r.subop).getD {}
  let win := op == 0x15
  let xT := r.xTensor op mg v
  let b : List (Int × Nat) :=
    if win then [(u.spad 1 t, (parseWin r.window).kh * (parseWin r.window).kw * r.channels * vecBytes r.fmtB)]
    else if r.bMode = 0 then pitched (u.spad 1 t) r.pitchB r.rows (r.cols * vecBytes r.fmtB)
    else if r.bMode = 1 then [(u.spad 1 t, r.rows * vecBytes r.fmtB)]
    else [(u.spad 1 t, r.cols * vecBytes r.fmtB)]
  let keep := win && r.subop == 0 && (parseWin r.window).acc == 1
  { reads :=
      only v.a (pitched (u.spad 0 t) r.pitchA (if win then r.inH else r.rows) (r.aCols op * vecBytes r.fmtA))
        ++ only (v.b && (win || r.bMode != 3)) b
        ++ only v.stB [(u.spad 1 t, 32 * r.rows)]
        ++ only xT (if win then [(u.spad 3 t, r.channels * vecBytes r.fmtX)] else pitched (u.spad 3 t) r.pitchX r.rows (r.cols * vecBytes r.fmtX))
        ++ only (v.st && r.subop != 0) [(u.spad 3 t, 32 * r.rows)]
        ++ only keep (pitched (u.spad 2 t) r.pitchD r.rows (r.cols * vecBytes r.fmtD))
    writes :=
      (if v.d then pitched (u.spad 2 t) r.pitchD r.rows (r.cols * vecBytes r.fmtD) else [])
        ++ (if v.dRow then [(u.spad 2 t, r.rows * vecBytes r.fmtD)] else [])
        ++ (if v.stW then [(u.spad 3 t, 32 * r.rows)] else []) }

def funcUse (u : UnitCtx) (t : Nat) : TileUse :=
  let r := parseFunc u.param
  { reads := [pitched (u.spad 0 t) r.pitchS r.rows (r.cols * vecBytes r.srcFmt)]
    writes := pitched (u.spad 1 t) r.pitchD r.rows (r.cols * vecBytes r.dstFmt) }

/-- What iteration t of a unit operation uses. -/
def tileUse (u : UnitCtx) (t : Nat) : TileUse :=
  let op := u.w.opcode
  if op = 0x01 then productUse u t
  else if op = 0x08 then rotateUse u t
  else if op = 0x10 then convertUse u t
  else if op ≤ 0x15 then vecUse u t
  else if op ≤ 0x21 then funcUse u t
  else {}

/-- The unmasked iterations. -/
def UnitCtx.live (u : UnitCtx) : List Nat := (List.range u.count).filter (fun t => !u.masked t)

/-- Banks a list of ranges lies in (R78). -/
def banksOf (l : List (Int × Nat)) : List Nat :=
  (l.flatMap (fun x => if x.2 = 0 then [] else
    let lo := x.1.toNat / 2 ^ 18
    (List.range ((x.1.toNat + x.2 - 1) / 2 ^ 18 - lo + 1)).map (lo + ·))).eraseDups

/-- Banks of each read operand over all unmasked iterations, and of the write range (R79). -/
def UnitCtx.readBanks (u : UnitCtx) : List (List Nat) :=
  let uses := u.live.map (fun t => (tileUse u t).reads)
  (List.range 7).map (fun i => banksOf (uses.flatMap (fun r => r.getD i [])))
def UnitCtx.writeBanks (u : UnitCtx) : List Nat := banksOf (u.live.flatMap (fun t => (tileUse u t).writes))

/-- Two lists share an element. -/
def meet (a b : List Nat) : Bool := a.any b.contains

/-- Two of an operation's read ranges share a bank (R79). -/
def selfCollide : List (List Nat) → Bool
  | [] => false
  | a :: rest => rest.any (meet a) || selfCollide rest

/-- Latency and occupancy of one iteration (Table 4.1). -/
def unitTiming (u : UnitCtx) : Nat × Nat :=
  let op := u.w.opcode
  if op = 0x01 then
    let r := parseProduct u.param
    productTiming ((Pair.of? r.pair).getD .fp4) r
  else if op = 0x08 then
    let r := parseProduct u.param
    (rotLatency r.rotK + 2, r.m * r.k64)
  else if op = 0x10 then convertTiming (parseConv u.param)
  else if op ≤ 0x15 then
    let r := parseVec u.param
    vecTiming r op (maskgenOf u.w) ((vecUse? op r.subop).getD {})
  else if op = 0x20 ∨ op = 0x21 then funcTiming (parseFunc u.param) (op == 0x21)
  else (2, 1)

/-- The unit an opcode runs on (Table 5.6), and whether the rotation unit runs with it (R86). -/
def unitOf (u : UnitCtx) : UnitIx × Bool :=
  match opcodeSlot u.w.opcode with
  | some 0 => (.engine, (parseProduct u.param).inline)
  | some 1 => (.rotation, false)
  | some 2 => (.vector, false)
  | some 3 => (.special, false)
  | some 4 => (.mover, false)
  | _ => (.sequencer, false)

/-- One iteration, on what it reads. -/
def runTile (u : UnitCtx) (v : View) (t : Nat) : IterOut :=
  let op := u.w.opcode
  let a (o : Nat) : Nat := (u.spad o t).toNat
  if op = 0x01 then
    let r := parseProduct u.param
    product ((Pair.of? r.pair).getD .fp4) r v
      { x := a 0, w := a 1, sx := a 2, sw := a 3, d := (u.entry 4 t).toNat
        coord := match u.loop with
          | some l => r.k0 + l.rho (l.point t) * r.k
          | none => r.k0
        zero := match u.loop with
          | some l => l.reduceFirst (l.point t)
          | none => true
        empty := match u.loop with
          | some l => l.reduceEmpty u.bounds (l.point t)
          | none => false }
  else if op = 0x08 then rotateStore (parseProduct u.param) v (a 0) (a 1) (a 2) (a 3) (u.coord 4 t).toNat
  else if op = 0x10 then
    let r := parseConv u.param
    convertTile r ((target? r.target).getD (.wide fp32)) v (u.entry 0 t).toNat (a 1) (a 2) (u.coord 3 t).toNat (u.coord 4 t).toNat (Config.padCode u.param t)
  else if op ≤ 0x15 then
    let r := parseVec u.param
    let at_ : VecAt := { a := a 0, b := a 1, d := a 2, x := a 3 }
    if op = 0x11 then
      let sel := if maskgenOf u.w then
          some (fun i j => (parseMask (imageParam u.img (field (u.w.op 3) 42 31))).visible u.sregs (u.point t) i j)
        else none
      elemwiseTile r ((vecUse? op r.subop).getD {}) v at_ sel
    else if op = 0x12 then formatTile r v at_
    else if op = 0x13 then reduceTile r v at_
    else if op = 0x14 then rowstatTile r v at_
    else windowTile r v at_
  else if op = 0x20 then
    let r := parseFunc u.param
    funcTile r (builtin r.func) v (a 0) (a 1)
  else if op = 0x21 then funcTile (parseFunc u.param) (parseCaddy u.bank).lookup v (a 0) (a 1)
  else {}

end Sys2Proof.Machine
end

