-- ==== Sys2Proof/Machine/Capture.lean ====
section
/-! DEFINITION. A core's memory traffic: what is read at a moment (R85), where a grain lies (R158, R184, R211 to R213), the slots grains take (R87, R90, R91, R198, R199), and the stored grains whose slots have fallen (R91, R196, R197). -/

namespace Sys2Proof.Machine

/-- The entry a write is to. -/
def CoreWrite.entry? : CoreWrite → Option (Nat × Nat)
  | .acc l e _ _ => some (l, e)
  | .spad _ _ => none

/-- What an iteration has still to write: not the entries to which a product issued later has added since, on top of its sums (R45). -/
def Pending.toWrite (q : Pending) : List CoreWrite := q.writes.filter (fun w => !(w.entry?.map q.later.contains).getD false)

/-- An iteration's window at position p. -/
def UnitOp.window (o : UnitOp) (image : List Byte) (q : Pending) (p : Nat) : OpenWindow :=
  { word := o.word, record := imageParam image (parseSlot o.word).paramIx, iter := q.iter, cycle := p - q.first, writes := q.toWrite }

/-- Windows open at position p (R85). -/
def RunBlock.openAt (r : RunBlock) (p : Nat) : List OpenWindow :=
  r.ops.flatMap (fun o => (o.flight.filter (fun q => decide (q.first ≤ p) && decide (p ≤ q.last))).map (fun q => o.window r.image q p))

/-- Position of the schedule counter at time t; a slip holds it (R83, R95). -/
def RunBlock.posNow (r : RunBlock) (period t : Nat) : Nat := if r.slip.isSome then r.pos else r.posAtTime period t

/-- What core c reads at position p. -/
def State.viewAt (s : State) (c p : Nat) : View :=
  { spad := s.cores.spad, spadKey := spadKeyOf c, acc := s.cores.acc, accKey := accKeyOf c
    open_ := match (s.core c).run with
      | some r => r.openAt p
      | none => [] }

/-- What core c reads at time t. -/
def State.viewAtTime (s : State) (c t : Nat) : View :=
  s.viewAt c (match (s.core c).run with
    | some r => r.posNow (s.core c).period t
    | none => 0)

def faultBank : Nat := 0x10
def faultPartition : Nat := 0x11
def faultUnitBusy : Nat := 0x12
def faultCounterOwner : Nat := 0x13
def faultBound : Nat := 0x14
def faultTableEmpty : Nat := 0x15
def faultSealedCoded : Nat := 0x16
def faultSealedAccess : Nat := 0x17
def faultCodedAlign : Nat := 0x18
def faultCodeTable : Nat := 0x19
def faultPreempted : Nat := 0x1A
def faultCoreCheck : Nat := 0x1B

/-- BLOCK_FAULT with a fault code, and what goes with it. -/
def blockFault (code : Nat) (detail address kind : Nat := 0) : Ending :=
  { status := BitVec.ofNat 16 stBlockFault, fault := BitVec.ofNat 8 code, detail := BitVec.ofNat 8 detail, address := address, kind := BitVec.ofNat 2 kind }

/-- An ending with an address (Table 15.19). -/
def memEnding (status detail address kind : Nat) : Ending :=
  { status := BitVec.ofNat 16 status, detail := BitVec.ofNat 8 detail, address := address, kind := BitVec.ofNat 2 kind }

/-- The ending of a block that reads an uncorrectable counter (R170, R172): Table 7.8 has no address for one (DESIGN CHOICE, log 47: 0). -/
def ctrEnding : Ending := memEnding stUncorrectable 0 0 0

/-- Where a core's grain lies: found, waiting for a walk, or an ending. -/
inductive Located where
  | at_ (phys : Nat)
  | walk
  | bad (e : Ending)
  deriving DecidableEq, Repr

/-- The seal rules on a grain a core moves (R184, R185). -/
def sealCheck (m : MemState) (fn : Nat) (coded : Bool) (phys address kind : Nat) : Located :=
  match m.sealOf phys with
  | none => .at_ phys
  | some i =>
    if coded then .bad (blockFault faultSealedCoded 0 address kind)
    else if (m.seal i).owner.toNat = fn then .at_ phys
    else .bad (blockFault faultSealedAccess 0 address kind)

/-- A device physical address named by a core (R158). -/
def locatePhys (m : MemState) (fn : Nat) (coded : Bool) (a : Int) : Located :=
  let bad := Located.bad (memEnding stTranslation rsnPhysPlace (wrapInt 62 a) 1)
  if a < 0 then bad
  else
    match placeOf a.toNat with
    | .fast x => if m.live x then sealCheck m fn coded a.toNat a.toNat 1 else bad
    | _ => bad

/-- What a finished lookup or walk gives the core that asked (R212, Table 7.8). -/
def locateXl (m : MemState) (fn : Nat) (coded : Bool) (va : Int) : Xl → Located
  | .ok phys _ _ _ => sealCheck m fn coded phys (wrapInt 62 va) 0
  | .fault r => .bad (memEnding stTranslation r (wrapInt 62 va) 0)
  | .bad g => .bad (memEnding stUncorrectable 0 g 1)

/-- A grain at its operation's issue: physical, a hit, or to be walked (R91, R213). -/
def locate (m : MemState) (p : PageState) (c fn : Nat) (phys coded write : Bool) (a : Int) : Located :=
  if phys then locatePhys m fn coded a
  else
    match lookupCore m p (clusterOf c) fn a write with
    | none => .walk
    | some x => locateXl m fn coded a x

/-- Slots held by grains of a core still to move, and those assigned that stay idle (R91, R198). -/
def MoverState.held (m : MoverState) : List Nat :=
  m.idle ++ m.descs.flatMap (fun d => (d.grains.filter (fun g => g.st == .waiting)).filterMap (fun g => g.slot) ++ d.iters.flatMap (fun i => i.positions.map (·.1) ++ i.idle))

/-- The slot after the last excess grain still to move; grains placed now go no earlier (R199). -/
def MoverState.afterExcess (m : MoverState) : Nat :=
  m.descs.foldl (fun x d => d.grains.foldl (fun x g => if g.excess && g.st == .waiting then max x ((g.slot.getD 0) + 1) else x) x) 0

/-- Own slot groups of function f on core c, with the slot each opens at (R90). -/
def ShareState.slotGroups (h : ShareState) (c f : Nat) : List (Nat × Nat) :=
  (h.ownGroups c f).map (fun g => (g, tget 0 h.openFrom (64 * clusterOf c + g)))

/-- The slot groups grains of a block of function f may take: those that were its own as it issued, as long as they are its core's (R88, R90). -/
def ShareState.blockGroups (h : ShareState) (c f : Nat) (groups : List Nat) : List (Nat × Nat) :=
  (h.slotGroups c f).filter (fun g => groups.contains g.1)

/-- First own slot at or after x that nothing in `held` has. -/
def takeSlot (groups : List (Nat × Nat)) (held : List Nat) (x : Nat) : Option Nat := freeSlot groups held (held.length + 1) x

/-- n positions at or after x in turn. -/
def takeSlots (groups : List (Nat × Nat)) (x : Nat) : Nat → List Nat → List Nat
  | 0, _ => []
  | n + 1, held =>
    match takeSlot groups held x with
    | none => []
    | some y => y :: takeSlots groups x n (y :: held)

/-- A grain given its slot; `late` is the slot after the last excess grain still to move, 0 for none (R91, R199). -/
def MGrain.place (g : MGrain) (groups : List (Nat × Nat)) (held : List Nat) (late : Nat) : MGrain :=
  { g with slot := takeSlot groups held (max g.floor late), afterExcess := late != 0 }

/-- Grains given slots in turn, each the first own slot no earlier grain holds (R91). -/
def placeAll (groups : List (Nat × Nat)) (late : Nat) : List Nat → List MGrain → List MGrain
  | _, [] => []
  | held, g :: l =>
    let p := g.place groups held late
    p :: placeAll groups late (match p.slot with
      | some y => y :: held
      | none => held) l

/-- A slot that had been given keeps where it is if it has fallen or its group is still the owner's own; else the first own slot from `x` on that nothing has (R88, R90). -/
def regroupSlot (groups : List (Nat × Nat)) (x floor : Nat) (held : List Nat) (y : Option Nat) : Option Nat × List Nat :=
  let again : Option Nat × List Nat :=
    match takeSlot groups held (max x floor) with
    | some z => (some z, z :: held)
    | none => (none, held)
  match y with
  | some y => if y < x || groups.any (fun g => g.1 == y % 64 && decide (g.2 ≤ y)) then (some y, held) else again
  | none => again

/-- Grains in turn given slots anew where theirs are gone. -/
def regroupGrains (groups : List (Nat × Nat)) (x : Nat) : List Nat → List MGrain → List MGrain × List Nat
  | held, [] => ([], held)
  | held, g :: l =>
    if g.st == .waiting then
      let y := regroupSlot groups x g.floor held g.slot
      let r := regroupGrains groups x y.2 l
      ({ g with slot := y.1 } :: r.1, r.2)
    else
      let r := regroupGrains groups x held l
      (g :: r.1, r.2)

/-- Positions of a coded iteration likewise; one without a slot is lost. -/
def regroupPositions (groups : List (Nat × Nat)) (x : Nat) : List Nat → List (Nat × Nat) → List (Nat × Nat) × List Nat
  | held, [] => ([], held)
  | held, p :: l =>
    let y := regroupSlot groups x p.1 held (some p.1)
    let r := regroupPositions groups x y.2 l
    ((match y.1 with
      | some z => (z, p.2) :: r.1
      | none => r.1), r.2)

def regroupIters (groups : List (Nat × Nat)) (x : Nat) : List Nat → List CodedIter → List CodedIter × List Nat
  | held, [] => ([], held)
  | held, it :: l =>
    let p := regroupPositions groups x held it.positions
    let r := regroupIters groups x p.2 l
    ({ it with positions := p.1 } :: r.1, r.2)

/-- The descriptors of function f after its groups have changed: a slot is used only by the owner its group's entry names (R88). -/
def regroupDescs (groups : List (Nat × Nat)) (x f : Nat) : List Nat → List MDesc → List MDesc
  | _, [] => []
  | held, d :: l =>
    if d.fn = f then
      let own := groups.filter (fun g => d.groups.contains g.1)
      let g := regroupGrains own x held d.grains
      let i := regroupIters own x g.2 d.iters
      { d with grains := g.1, iters := i.1 } :: regroupDescs groups x f i.2 l
    else d :: regroupDescs groups x f held l

/-- The mover after function f's groups on its core have changed; `x` is the first slot still to fall. -/
def MoverState.regroup (m : MoverState) (groups : List (Nat × Nat)) (x f : Nat) : MoverState :=
  let ok (y : Nat) : Bool := decide (y < x) || groups.any (fun g => g.1 == y % 64 && decide (g.2 ≤ y))
  { m with descs := regroupDescs groups x f (m.held.filter ok) m.descs, idle := m.idle.filter ok }

/-- A grain's slot has fallen by time t, and its address stands (R91). -/
def MGrain.fallen (g : MGrain) (t : Nat) : Bool :=
  g.st == .waiting && !g.walking && (match g.slot with
    | some x => decide (slotTime x ≤ t)
    | none => false)

def MoverState.modDesc (m : MoverState) (id : Nat) (f : MDesc → MDesc) : MoverState := { m with descs := mapIf (fun d => d.id == id) f m.descs }
def MDesc.modGrain (d : MDesc) (g : Nat) (f : MGrain → MGrain) : MDesc := { d with grains := modAt d.grains g f }
def State.modDesc (s : State) (c id : Nat) (f : MDesc → MDesc) : State := s.modCore c (fun k => { k with mover := k.mover.modDesc id f })

/-- A translated page in the cluster's unit moves to the front; a new one enters (R213). -/
def State.rememberPage (s : State) (c fn : Nat) (va : Int) (x : Xl) : State :=
  match tlbOf fn va x with
  | some e => { s with pages := s.pages.remember (clusterOf c) e }
  | none => s

/-- Pages that hits of these grains used come to the front of the cluster's unit (R213). -/
def State.touchPages (s : State) (c fn : Nat) (gs : List MGrain) : State :=
  each ((gs.filter (fun g => !g.walking)).map (fun g => g.virt.toNat / 65536)).eraseDups (fun page s =>
    match s.pages.cached (clusterOf c) fn page with
    | some e => { s with pages := s.pages.remember (clusterOf c) e }
    | none => s) s

/-- Fabric cycles the expander and the compressor take for a block, whether raw or coded (R196). -/
def codeCycles (format : Nat) : Nat := if format = 0 then 32 else 64

/-- T of a descriptor's blocks, in ticks. -/
def MDesc.blockTime (d : MDesc) : Nat := codeCycles (parseCodeRec d.record).format * fabTicks

/-- The stored plain grains that have fallen by time t, in order, up to the first whose source is uncorrectable (R91, R172): position, slot time. -/
def MDesc.dueGrain (d : MDesc) (t : Nat) : Option Nat :=
  if d.isStore then d.grains.findIdx? (fun g => g.kind == .plain && g.fallen t) else none

/-- The next free values (log 1). -/
def State.fresh (s : State) : State := { s with freeCtr := s.freeCtr + 1 }

/-- Stands for the size code of a block that is never coded. -/
def noCode : Nat := 16

/-- Stored grains of a block dropped: its completion entry counts them (R99, step 4; R86). -/
def State.countDropped (s : State) (c block n : Nat) : State :=
  s.modCore c (fun k =>
    { k with
      run := k.run.map (fun r => if r.ordinal = block then { r with dropped := r.dropped + n } else r)
      ended := mapIf (fun b => b.ordinal == block) (fun b => { b with dropped := b.dropped + n }) k.ended })

/-- A stored grain is read from the scratchpad at its slot. -/
def State.readGrain (s : State) (c : Nat) (d : MDesc) (i : Nat) : State × Option Ending :=
  match d.grains[i]? with
  | none => (s, none)
  | some g =>
    match s.cores.badWord c (g.spad, 256) with
    | some w =>
      (((s.meetsWord c .scratchpad).modDesc c d.id (fun d => d.modGrain i (fun g => { g with st := .dropped }))).countDropped c d.block 1,
       some (memEnding stUncorrectable 0 w 2))
    | none =>
      let data := (s.viewAtTime c (slotTime (g.slot.getD 0))).bytes g.spad 256
      (s.modDesc c d.id (fun d => d.modGrain i (fun g => { g with st := .read, data := data })), none)

/-- Iteration and block of a descriptor that its compressor has still to code, in block order (R196). -/
def MDesc.nextBlock (d : MDesc) : Option (Nat × Nat) :=
  if !d.isStore then none
  else (List.range d.iters.length).findSome? (fun i => (d.iters[i]?).bind (fun it => if it.done < it.blocks then some (i, it.done) else none))

/-- When a compressor that is free from time `free` on has coded the descriptor's next block: one block at a time, each taking T, none begun before 8 fabric cycles after the issue (R196, R198, R200). -/
def MDesc.codedAt (d : MDesc) (free : Nat) : Nat := max (slotTime d.issueSlot + 8 * fabTicks) free + d.blockTime

/-- The block a core's compressor has coded by time t: descriptors take it in the order of their issue. -/
def MoverState.dueBlock (m : MoverState) (t : Nat) : Option (MDesc × Nat × Nat) :=
  match m.descs.findSome? (fun d => d.nextBlock.map (fun x => (d, x.1, x.2))) with
  | some (d, i, k) => if d.codedAt m.codeFree ≤ t then some (d, i, k) else none
  | none => none

/-- Grain number `ix` of an iteration placed on the next of its positions. Positions that fell before it was ready are lost; the grains that are left without one take the first own slot that nothing has, and those beyond Rd are excess (R198, R199). -/
def takePosition (groups : List (Nat × Nat)) (held : List Nat) (ready late rd ix : Nat) (pos : List (Nat × Nat)) (g : MGrain) : MGrain × List (Nat × Nat) :=
  match pos.dropWhile (fun x => decide (x.1 < ready)) with
  | (x, _) :: rest => ({ g with slot := some x, floor := x }, rest)
  | [] => ({ g with slot := takeSlot groups held (max ready late), floor := ready, excess := decide (rd ≤ ix), afterExcess := late != 0 || g.afterExcess }, [])

/-- Coded grains placed in block order; the first is number `ix` of its iteration. -/
def takePositions (groups : List (Nat × Nat)) (ready late rd : Nat) : Nat → List Nat → List (Nat × Nat) → List MGrain → List MGrain × List (Nat × Nat)
  | _, _, pos, [] => ([], pos)
  | ix, held, pos, g :: l =>
    let p := takePosition groups held ready late rd ix pos g
    let r := takePositions groups ready late rd (ix + 1) (match p.1.slot with
      | some y => y :: held
      | none => held) p.2 l
    (p.1 :: r.1, r.2)

/-- Data positions of an iteration of nb blocks: Rd (R198). -/
def dataPositions (rec_ : CodeRec) (nb : Nat) : Nat := ceilDiv (nb * rec_.budget16) 16

/-- Block b of core c is past its boundary. -/
def State.pastBoundary (s : State) (c b : Nat) : Bool := !((s.core c).run.map (fun r => r.ordinal == b)).getD false

/-- The grains of a coded block, n of them, located now; the first ending stands for all, and a grain that meets one never moves (R86, R99, R185). -/
def codedGrains (m : MemState) (p : PageState) (c : Nat) (d : MDesc) (it : CodedIter) (i k n : Nat) (data : List Byte) : List MGrain × Option Ending :=
  let gs := (List.range n).map (fun j =>
    let virt : Int := (it.virt + 4096 * k + 256 * j : Nat)
    let loc := locate m p c d.fn d.phys true d.isStore virt
    let end_ : Option Ending := match loc with
      | .bad e => some e
      | _ => none
    (({ virt := virt, kind := .coded i k, mask := it.mask, st := if end_.isSome then .dropped else .waiting
        afterExcess := it.afterExcess, data := (data.drop (256 * j)).take 256
        phys := match loc with
          | .at_ a => a
          | _ => 0
        walking := loc == .walk } : MGrain), end_))
  (gs.map (·.1), gs.findSome? (·.2))

/-- Grains of iteration i that there are already. -/
def MDesc.codedCount (d : MDesc) (i : Nat) : Nat :=
  (d.grains.filter (fun g => match g.kind with
    | .coded j _ => j == i
    | _ => false)).length

/-- RELEASE ADDs that follow a STORE of which a grain has been dropped are dropped (R102). -/
def MoverState.dropAdds (m : MoverState) (d : MDesc) : MoverState :=
  if d.isStore then { m with adds := m.adds.filter (fun a => decide (a.before ≤ d.id)) } else m

/-- The compressor codes block k of iteration i: its source is read, its grains take their positions (R196 to R199). -/
def State.codeBlock (s : State) (c : Nat) (d : MDesc) (i k : Nat) : State × Option Ending :=
  match d.iters[i]? with
  | none => (s, none)
  | some it =>
    let rec_ := parseCodeRec d.record
    let t := d.codedAt (s.core c).mover.codeFree
    let s := s.modCore c (fun x => { x with mover := { x.mover with codeFree := t } })
    match s.cores.badWord c (it.spad + 4096 * k, 4096) with
    | some w => ((s.meetsWord c .scratchpad).modDesc c d.id (fun d => { d with iters := modAt d.iters i (fun it => { it with done := k + 1, sizes := it.sizes ++ [noCode] }) }), some (memEnding stUncorrectable 0 w 2))
    | none =>
      let z := compress d.codeTable ((s.viewAtTime c t).bytes (it.spad + 4096 * k) 4096)
      let gs := codedGrains s.mem s.pages c d it i k (z.1.length / 256) z.1
      let m := (s.core c).mover
      let placed := takePositions (s.share.blockGroups c d.fn d.groups) (slotAt t) m.afterExcess (dataPositions rec_ it.blocks) (d.codedCount i) m.held it.positions gs.1
      let codes := { it with done := k + 1, positions := placed.2, sizes := it.sizes ++ [z.2] }
      (((if d.phys then s else s.touchPages c d.fn gs.1).modDesc c d.id (fun e => { e with grains := e.grains ++ placed.1, iters := modAt e.iters i (fun _ => codes) })).countDropped c d.block
        (gs.1.filter (fun g => g.st == .dropped)).length, gs.2)

/-- A coded grain leaves the compressor at its slot: nothing more is read from the scratchpad. -/
def MDesc.readCoded (d : MDesc) (t : Nat) : MDesc :=
  if !d.isStore then d
  else { d with grains := mapIf (fun g => g.kind != .plain && g.fallen t) (fun g => { g with st := .read }) d.grains }

/-- An ending found while a core's stores were read: kept until the core acts; the operation's ADD is off, and so are the RELEASE ADDs that follow it (R86, R99, R102). -/
def State.catchEnding (s : State) (c : Nat) (d : MDesc) (e : Option Ending) : State :=
  match e with
  | none => s
  | some e =>
    (s.modDesc c d.id (fun d => { d with addEn := false })).modCore c (fun k =>
      { k with
        mover := k.mover.dropAdds d
        caught := match k.caught with
          | some x => some x
          | none => some (d.block, e) })

/-- What core c's stores have read by time t (R91). The number bounds the grains and blocks. -/
def State.captureLoop (c t : Nat) : Nat → State → State
  | 0, s => s
  | n + 1, s =>
    match (s.core c).mover.descs.findSome? (fun d => (d.dueGrain t).map (fun i => (d, i))) with
    | some (d, i) =>
      let r := s.readGrain c d i
      State.captureLoop c t n (r.1.catchEnding c d r.2)
    | none =>
      match (s.core c).mover.dueBlock t with
      | some (d, i, k) =>
        let r := s.codeBlock c d i k
        State.captureLoop c t n (r.1.catchEnding c d r.2)
      | none => s.modCore c (fun k => { k with mover := { k.mover with descs := k.mover.descs.map (fun d => d.readCoded t) } })

/-- Grains and blocks a core's stores may still have to read. -/
def MoverState.toRead (m : MoverState) : Nat :=
  (m.descs.map (fun d => if d.isStore then d.grains.length + (d.iters.map (fun it => it.blocks)).sum else 0)).sum

/-- Core c's stores are read up to time t, before its scratchpad changes. -/
def State.capture (s : State) (c t : Nat) : State :=
  State.captureLoop c t ((s.core c).mover.toRead + 1) s

end Sys2Proof.Machine
end

