-- ==== Sys2Proof/Machine/Ending.lean ====
section
/-! DEFINITION. How a block ends early (R99, R100), what becomes of a grain that meets an ending after its block's boundary (R86), the size codes of a coded store (R197), and completion ADDs (R121). -/

namespace Sys2Proof.Machine

/-- Order of R100. -/
def Ending.rank (e : Ending) : Nat :=
  let st := e.status.toNat
  if st = stUncorrectable then 0 else if st = stCodedBlock then 1 else if st = stTranslation then 2
  else if st = stBlockFault then 3 else if st = stSlipLimit then 4 else 5

/-- The ending that arises first of two in one fabric cycle (R100). -/
def Ending.first (a b : Ending) : Ending := if b.rank < a.rank then b else a

/-- Cores a destination mask names (R130). -/
def destCores (c mask : Nat) : List Nat := if mask = 0 then [c] else (bitsOf 16 mask).map (fun l => 16 * clusterOf c + l)

/-- Bytes written at the same scratchpad address on every available core of a mask, each core's stores being read first (R91, R93, R121). -/
def State.writeDest (s : State) (c mask a t : Nat) (bs : List Byte) : State :=
  each ((destCores c mask).filter (fun d => s.available d)) (fun d s =>
    let s := s.capture d t
    { s with cores := s.cores.putSpad d a bs }) s

/-- A FETCH dropped: what has not landed is discarded, its destination zeroed (R99, step 5). -/
def State.discardFetch (s : State) (c t : Nat) (d : MDesc) : State :=
  let s := each (d.grains.filter (fun g => g.st == .waiting && g.kind == .plain)) (fun g s => s.writeDest c g.mask g.spad t (List.replicate 256 0)) s
  let s := each d.iters (fun it s => s.writeDest c it.mask (it.spad + 4096 * it.done) t (List.replicate (4096 * (it.blocks - it.done)) 0)) s
  s.modDesc c d.id (fun d =>
    { d with
      addEn := false
      grains := mapIf (fun g => g.st == .waiting) (fun g => { g with st := .dropped }) d.grains
      iters := d.iters.map (fun it => { it with done := it.blocks, positions := [] }) })

/-- Grains of a STORE that are dropped now: not yet read, and the positions of blocks not yet coded (R99, step 4). -/
def MDesc.unread (d : MDesc) : Nat :=
  (d.grains.filter (fun g => g.st == .waiting)).length + (d.iters.map (fun it => it.positions.length)).sum

/-- A STORE dropped: what has been read completes (R99, step 4). -/
def MDesc.dropStore (d : MDesc) : MDesc :=
  { d with
    addEn := d.addEn && d.unread == 0
    grains := mapIf (fun g => g.st == .waiting) (fun g => { g with st := .dropped }) d.grains
    iters := d.iters.map (fun it => { it with blocks := it.done, positions := [] }) }

/-- The block's mover operations at an early ending (R99, steps 4 to 6): the grains dropped are counted. -/
def State.dropMover (s : State) (c t block : Nat) : State :=
  let ds := (s.core c).mover.descs.filter (fun d => d.block == block)
  let stores := ds.filter (fun d => d.isStore)
  let lost := (stores.filter (fun d => d.unread != 0)).map (fun d => d.id)
  let s := each (ds.filter (fun d => !d.isStore)) (fun d s => s.discardFetch c t d) s
  let s := each stores (fun d s => s.modDesc c d.id MDesc.dropStore) s
  (s.modRun c (fun r => { r with dropped := r.dropped + (stores.map MDesc.unread).sum })).modCore c (fun k =>
    { k with mover := { k.mover with adds := k.mover.adds.filter (fun a => a.block != block && lost.all (fun i => decide (a.before ≤ i))) } })

/-- Nothing of a descriptor is outstanding. -/
def MDesc.complete (d : MDesc) : Bool :=
  d.grains.all (fun g => g.st == .done || g.st == .dropped)
    && d.iters.all (fun it => it.done == it.blocks && (!d.isStore || it.codes == it.done))

/-- Descriptors leave the mover; positions of theirs that no grain took stay idle (R198). -/
def MoverState.finish (m : MoverState) (gone : MDesc → Bool) (x : Nat) : MoverState :=
  { m with
    descs := m.descs.filter (fun d => !gone d)
    idle := (m.idle ++ (m.descs.filter gone).flatMap (fun d => d.iters.flatMap (fun i => i.positions.map (·.1) ++ i.idle))).filter (fun y => decide (x ≤ y)) }

/-- Descriptors that are complete leave the mover; their ADDs are applied (R121). Those of a block that has ended early stay until its boundary: what their grains meet in the same fabric cycle still counts (R100). -/
def State.finishDescs (s : State) (c : Nat) : State :=
  let ended := (s.core c).run.bind (fun r => if r.ending.isSome then some r.ordinal else none)
  let gone (d : MDesc) : Bool := d.complete && ended != some d.block
  let ds := (s.core c).mover.descs.filter gone
  if ds.isEmpty then s
  else
    each ds (fun d s => if d.addEn then s.addCtr (clusterOf c) d.addCtr d.addAmount else s)
      (s.chargeAll.modCore c (fun k => { k with mover := k.mover.finish gone (slotAt s.now) }))

/-- Where a coded store's size code goes, and whether block k of its iteration i may have it written now (R197): none while a grain is not visible. -/
def MDesc.codeReady (d : MDesc) (i k : Nat) : Option Bool :=
  let gs := d.grains.filter (fun g => g.kind == .coded i k)
  if gs.any (fun g => g.st == .waiting || g.st == .read) then none
  else some (gs.all (fun g => g.st == .done))

/-- An uncorrectable grain that gave an ending goes into its stack's record (R186). -/
def State.noteEnding (s : State) (e : Ending) : State :=
  if e.status = BitVec.ofNat 16 stUncorrectable ∧ e.kind = 1 then { s with mem := s.mem.note e.address false .uncorrectable } else s

/-- The size code of block k of iteration i written, or passed over (R189, R197): a partial write, discarded and reported where the metadata grain is uncorrectable (R159, R172). -/
def State.writeCode (s : State) (c : Nat) (d : MDesc) (i k size : Nat) (write : Bool) : State :=
  let it := d.iters.getD i { first := 0, blocks := 0, virt := 0, spad := 0, mask := 0 }
  let s := s.modDesc c d.id (fun d => { d with iters := modAt d.iters i (fun it => { it with codes := k + 1 }) })
  if !write || size == noCode then s
  else
    let a := (parseCodeRec d.record).metaBase + (it.first + k) / 2
    let loc := if d.phys then locatePhys s.mem d.fn true a else locateXl s.mem d.fn true a (walk s.mem (s.pages.asker d.fn true true) a)
    match loc with
    | .at_ p => s.writePhys d.fn p ((s.mem.read p 1).map (putNibble (it.first + k) size))
    | .bad e => (s.noteEnding e).catchEnding c d (some e)
    | .walk => s

/-- Size codes of a coded store that may be written are written, in block order. -/
def State.writeCodes (c id i : Nat) : Nat → State → State
  | 0, s => s
  | n + 1, s =>
    match (s.core c).mover.descs.find? (fun d => d.id == id) with
    | none => s
    | some d =>
      match d.iters[i]? with
      | none => s
      | some it =>
        if it.codes < it.done then
          match d.codeReady i it.codes with
          | none => s
          | some ok => State.writeCodes c id i n (s.writeCode c d i it.codes (it.sizes.getD it.codes noCode) ok)
        else s

/-- All size codes of core c's coded stores that may be written now. -/
def State.settleCodes (s : State) (c : Nat) : State :=
  each ((s.core c).mover.descs.filter (fun d => d.isStore && d.coded)) (fun d s =>
    each (List.range d.iters.length) (fun i s => State.writeCodes c d.id i (((d.iters[i]?).map (fun it => it.blocks)).getD 0) s) s) s

/-- The running block ends early at time t (R99); a second ending of the same fabric cycle takes its place if it ranks first (R100). -/
def State.endBlock (s : State) (c t : Nat) (e : Ending) : State :=
  match (s.core c).run with
  | none => s
  | some r =>
    match r.ending with
    | some old => if t / fabTicks = r.endedAt / fabTicks then s.modRun c (fun r => { r with ending := some (old.first e) }) else s
    | none =>
      let s := (s.chargeCore c t).capture c t
      let e := match (s.core c).caught with
        | some (b, x) => if b = r.ordinal then e.first x else e
        | none => e
      let s := { s with cores := each ((r.ops.flatMap UnitOp.flight).flatMap Pending.writes) (fun w x => x.zeroWrite c w) s.cores }
      let s := s.dropMover c t r.ordinal
      let s := s.modCore c (fun k => { k with caught := k.caught.filter (fun x => x.1 != r.ordinal) })
      let s := s.modRun c (fun r =>
        { r with ending := some e, endedAt := t, pos := r.posNow (s.core c).period t, ops := [], scalars := [], slots := [], slip := none })
      (s.settleCodes c).finishDescs c

/-- A chain of a brew list has ended (R238). -/
def SeqState.chainDone (q : SeqState) (f : Nat) (e : QEntry) : SeqState :=
  if e.doneList then
    { q with lists := tmod [] q.lists f (fun l => mapIf (fun b => b.epoch == e.gateEpoch) (fun b => { b with chains := b.chains - 1 }) l) }
  else q

/-- The entry of a chain of function f that waits on a core: as its successor, or as the block chosen. -/
def CoreState.waitingChain (k : CoreState) (f id : Nat) : Option QEntry :=
  match (tget none k.successors f).filter (fun ch => ch.id == id) with
  | some ch => some ch.entry
  | none => (k.load.filter (fun l => l.fn == f && l.chain.id == id)).map (fun l => l.chain.entry)

/-- A chain ends before its next block issues: it leaves its places on the core (R86, point 4). -/
def State.dropChain (s : State) (c f id : Nat) : State :=
  match (s.core c).waitingChain f id with
  | some e =>
    { s with seqs := s.seqs.chainDone f e }.modCore c (fun k =>
      { k with
        successors := tset none k.successors f ((tget none k.successors f).filter (fun ch => ch.id != id))
        load := k.load.filter (fun l => !(l.fn == f && l.chain.id == id))
        kept := k.kept.filter (fun l => !(l.fn == f && l.chain.id == id)) })
  | none => s

/-- The destination of a fetched grain that is discarded written with zero: of a coded grain, or one of metadata, that of each block it takes part in and that is not behind the expander yet (R99, step 5). -/
def State.zeroGrain (s : State) (c t : Nat) (d : MDesc) (g : MGrain) : State :=
  let zero (i k n : Nat) : State :=
    match d.iters[i]? with
    | none => s
    | some it => if it.done ≤ k then s.writeDest c it.mask (it.spad + 4096 * k) t (List.replicate (4096 * n) 0) else s
  match g.kind with
  | .plain => s.writeDest c g.mask g.spad t (List.replicate 256 0)
  | .coded i k => zero i k 1
  | .metadata i => match d.iters[i]? with
    | none => s
    | some it => zero i it.done (it.blocks - it.done)

/-- What becomes of an operation whose grain's walk has failed past its block's boundary (R86, R91): stored grains that have not been read are dropped and counted; of fetched grains, those whose slots have fallen are discarded as R99 discards them, their destination written with zero, and the others never move. -/
def State.walkLost (s : State) (c t : Nat) (d : MDesc) : State :=
  if d.isStore then s.countDropped c d.block d.unread
  else each (d.grains.filter (fun g => g.fallen t)) (fun g s => s.zeroGrain c t d g) s

/-- A grain of a block past its boundary meets an ending (R86): it never moves, and the operation's ADD is off. Where its walk has failed the operation's later grains never move either (R91). An iteration that loses its metadata has no data grains. -/
def MDesc.loseGrain (d : MDesc) (g : Nat) (walkFailed : Bool) : MDesc :=
  let d : MDesc := { d.modGrain g (fun g => { g with st := .dropped }) with addEn := false }
  if walkFailed && d.isStore then { d.dropStore with addEn := false }
  else
    let drops (x : MGrain) : Bool := walkFailed && x.st == .waiting
    let noMeta (i : Nat) : Bool := d.grains.any (fun x => x.kind == .metadata i && (x.st == .dropped || drops x))
    { d with
      grains := mapIf drops (fun x => { x with st := .dropped }) d.grains
      iters := d.iters.mapIdx (fun i it => if !d.isStore && !it.sized && noMeta i then { it with sized := true, done := it.blocks, positions := [] } else it) }

/-- An ending met after the boundary of its block (R86): it replaces OK in the entry to come, and the chain ends at the next boundary. -/
def State.lateEnding (s : State) (c block : Nat) (e : Ending) : State :=
  match (s.core c).ended.find? (fun b => b.ordinal == block) with
  | none => s
  | some b =>
    let issued := ((s.core c).run.map (fun r => r.chain.id == b.chain && r.fn == b.fn)).getD false
    let s := s.modCore c (fun k =>
      { k with
        ended := mapIf (fun x => x.ordinal == block && x.ending.status == 0) (fun x => { x with ending := e, chainEnd := x.chainEnd || !issued }) k.ended
        chainCut := if issued then insertNat b.chain k.chainCut else k.chainCut })
    if issued then s else s.dropChain c b.fn b.chain

/-- An ending that a mover operation of a block meets, before or after the block's boundary (R99, R86). -/
def State.moverEnding (s : State) (c t block : Nat) (e : Ending) : State :=
  match (s.core c).run with
  | some r => if r.ordinal = block then s.endBlock c t e else s.lateEnding c block e
  | none => s.lateEnding c block e

/-- An ending caught while stores were read takes effect. -/
def State.settleCaught (s : State) (c t : Nat) : State :=
  match (s.core c).caught with
  | none => s
  | some (b, e) => (s.modCore c (fun k => { k with caught := none })).moverEnding c t b e

end Sys2Proof.Machine
end

