-- ==== Sys2Proof/Machine/Advance.lean ====
section
/-! DEFINITION. The running block as its schedule counter goes on (R83 to R86): iterations issue, their windows open, their results are written, registers and flags take their values, and the scoreboard slips the core (R94, R95). -/

namespace Sys2Proof.Machine

/-- What happens inside a block without the sequencer: an iteration's results are complete (operation, iteration in flight), a scalar write becomes visible, a window opens, an iteration issues. -/
inductive Due where
  | commit (op pend : Nat)
  | scalar
  | opens (op pend : Nat)
  | issue (op : Nat)
  deriving DecidableEq, Repr

/-- Position at which an operation's next iteration issues (R126). -/
def UnitOp.nextIssue (o : UnitOp) : Nat := o.issue + o.next * o.tile

/-- What an operation has coming: 4 times the position plus the order within a core cycle, and what it is. -/
def UnitOp.dues (o : UnitOp) (ix : Nat) : List (Nat × Due) :=
  (List.range o.flight.length).flatMap (fun j =>
    match o.flight[j]? with
    | some q => (4 * (q.last + 1), .commit ix j) :: (if q.opened then [] else [(4 * max q.first q.hold + 2, .opens ix j)])
    | none => [])
    ++ (if o.next < o.count then [(4 * o.nextIssue + 3, .issue ix)] else [])

/-- All that is coming in a block. -/
def RunBlock.dues (r : RunBlock) : List (Nat × Due) :=
  r.scalars.map (fun w => (4 * w.at_ + 1, Due.scalar))
    ++ (List.range r.ops.length).flatMap (fun i =>
      match r.ops[i]? with
      | some o => o.dues i
      | none => [])

/-- The least of a list of keyed things, the first of equals. -/
def leastDue : List (Nat × Due) → Option (Nat × Due)
  | [] => none
  | a :: l =>
    match leastDue l with
    | some b => if b.1 < a.1 then some b else some a
    | none => some a

/-- MAX_MAG > MAG_LIMIT as FP32 (R72); MAX_MAG is never negative. -/
def magAbove (m limit : Nat) : Bool :=
  if field limit 30 0 > 0x7F800000 then false
  else if bit limit 31 && field limit 30 0 != 0 then true
  else decide (field limit 30 0 < m)

/-- The criterion of R72 on the watch accumulators. -/
def RunBlock.criterion (r : RunBlock) : Bool :=
  let h := parseHeader r.image
  decide (h.clipLimit < r.clipCount.toNat) || magAbove r.maxMag.toNat h.magLimit

/-- A watched iteration leaves its watch point at core cycle p (R72 to R74). -/
def CoreState.watch (k : CoreState) (q : Pending) : CoreState :=
  match k.run with
  | none => k
  | some r =>
    if !q.watched then k
    else
      let r := { r with clipCount := satAdd r.clipCount q.clips, maxMag := BitVec.ofNat 32 (max r.maxMag.toNat q.maxMag) }
      if !r.criterion then { k with run := some r }
      else
        match (parseHeader r.image).clipAction with
        | 1 => { k with run := some r, quantClip := true }
        | 2 => { k with run := some (if r.stopAt.isNone then { r with stopAt := some q.last } else r) }
        | _ => { k with run := some r }

/-- A product's sums complete: an earlier product still in flight leaves these entries alone, since the sums were formed on top of its own (R45, R82). -/
def RunBlock.supersede (r : RunBlock) (op pend : Nat) (entries : List (Nat × Nat)) : RunBlock :=
  let mark (f : List Pending) : List Pending := f.map (fun q => { q with later := q.later ++ entries })
  { r with ops := r.ops.mapIdx (fun i o =>
      if o.unit != .engine || decide (op < i) then o
      else if i = op then { o with flight := mark (o.flight.take pend) ++ o.flight.drop pend }
      else { o with flight := mark o.flight }) }

/-- Results of an iteration complete (R85). -/
def State.commit (s : State) (c : Nat) (r : RunBlock) (op pend : Nat) : State :=
  match (r.ops[op]?).bind (fun o => o.flight[pend]?) with
  | none => s
  | some q =>
    let s := s.capture c (r.timeAt (s.core c).period (q.last + 1))
    let s := { s with cores := each q.toWrite (fun w x => x.putWrite c w) s.cores }
    let s := s.modCore c (fun k => k.watch q)
    s.modRun c (fun r =>
      let r := r.supersede op pend (q.writes.filterMap CoreWrite.entry?)
      { r with ops := modAt r.ops op (fun o => { o with flight := o.flight.eraseIdx pend }) })

/-- The scalar write that becomes visible first, in issue order among equals (R122, R124). -/
def firstScalar : List ScalarWrite → Option ScalarWrite
  | [] => none
  | a :: l =>
    match firstScalar l with
    | some b => if b.at_ < a.at_ ∨ (b.at_ = a.at_ ∧ b.order < a.order) then some b else some a
    | none => some a

/-- A register or flag takes its value (R122). -/
def CoreState.scalarWrite (k : CoreState) : CoreState :=
  match k.run with
  | none => k
  | some r =>
    match firstScalar r.scalars with
    | none => k
    | some w =>
      let k := { k with run := some { r with scalars := r.scalars.erase w } }
      if w.isFlag then
        { k with userFlags := BitVec.ofNat 4 (if w.value = 0 then k.userFlags.toNat &&& (15 - 2 ^ w.index) else k.userFlags.toNat ||| 2 ^ w.index) }
      else { k with sregs := tset 0 k.sregs w.index w.value }

/-- The operation as its iterations see it. -/
def UnitOp.ctx (o : UnitOp) (img : List Byte) : UnitCtx := unitCtx img o.word (o.sregs.map BitVec.toNat) o.bounds o.bank

/-- A range of addresses as the scoreboard takes it. -/
def natRange (x : Int × Nat) : Nat × Nat := (x.1.toNat, x.2)

/-- Scratchpad ranges a list of writes covers. -/
def writeRanges (ws : List CoreWrite) : List (Nat × Nat) :=
  ws.filterMap (fun w => match w with
    | .spad a d => some (a, d.length)
    | .acc _ _ _ _ => none)

/-- Scratchpad ranges an iteration has still to write from position p on: of an open window, the words that its order has not come to (R85). -/
def UnitOp.writesLeft (o : UnitOp) (image : List Byte) (q : Pending) (p : Nat) : List (Nat × Nat) :=
  if p ≤ q.first then writeRanges q.writes
  else
    ((writeRanges q.writes).flatMap (fun x => (List.range (ceilDiv (x.1 % 4 + x.2) 4)).map (fun i => x.1 / 4 + i))).filterMap (fun i =>
      if (o.window image q p).made i = 0 then some (4 * i, 4) else none)

/-- What operations want at position p: the ranges an iteration that issues reads, and those a window writes that opens, or that a FETCH or STORE issued since has to be held against (R94). -/
def RunBlock.wants (r : RunBlock) (p : Nat) : List SlipWait :=
  r.ops.flatMap (fun o =>
    (if o.next < o.count ∧ o.nextIssue = p then
      let u := o.ctx r.image
      if u.masked o.next then [] else [SlipWait.units (((tileUse u o.next).reads.flatten).map natRange) false]
    else [])
    ++ (o.flight.filter (fun q => !q.opened && max q.first q.hold == p)).map (fun q => SlipWait.units (o.writesLeft r.image q p) true))

/-- The core slips at position p (R95). -/
def State.slipAt (s : State) (c p : Nat) (awaits : List SlipWait) : State :=
  s.modCore c (fun k => { k with run := k.run.map (fun r =>
    let t := r.timeAt k.period p
    { r with pos := p, posAt := t, slip := some { awaits := awaits, since := t, chargedTo := max r.chargedTo (t / fabTicks), chargedAs := r.chargedAs } }) })

/-- The waits at position p whose condition holds. -/
def State.heldBack (s : State) (c p : Nat) (r : RunBlock) : List SlipWait :=
  (r.wants p).filter (fun w => (waitCause s.share (s.core c).mover c (s.now / fabTicks) w).isSome)

/-- Accumulator as a product finds it: every product write in flight applied, in issue order (R45, R82). -/
def RunBlock.productAcc (r : RunBlock) (c : Nat) (acc : Tab W32) : Tab W32 :=
  ((r.ops.filter (fun o => o.unit == .engine)).flatMap (fun o => o.flight)).foldl (fun a q =>
    q.toWrite.foldl (fun a w => match w with
      | .acc l e v _ => tset 0 a (accKeyOf c + 2 ^ 11 * l + e) v
      | .spad _ _ => a) a) acc

/-- What a product reads: scratchpad as any unit, accumulator entries in accumulation order. -/
def State.productView (s : State) (c p : Nat) (r : RunBlock) : View :=
  let v := s.viewAt c p
  { v with
    acc := r.productAcc c v.acc
    open_ := v.open_.map (fun q => { q with writes := q.writes.filter (fun w => match w with
      | .acc _ _ _ _ => false
      | .spad _ _ => true) }) }

/-- An uncorrectable word or entry an iteration would read: where, and its ending (R172). -/
def State.readError (s : State) (c : Nat) (u : UnitCtx) (t : Nat) : Option (SramArray × Ending) :=
  let use := tileUse u t
  match (use.reads.flatten).findSome? (fun x => s.cores.badWord c x) with
  | some w => some (.scratchpad, memEnding stUncorrectable 0 w 2)
  | none =>
    let reads := u.w.opcode == 0x10 || !((u.loop.map (fun l => l.reduceFirst (u.point t))).getD true && !(parseProduct u.param).keep)
    if reads then (use.entries.findSome? (fun x => s.cores.badEntry c x)).map (fun e => (.accumulator, memEnding stUncorrectable 0 e 3)) else none

/-- Iteration of an operation issues at position p (R126): it reads its operands, and its elements are counted as they enter the units (R55; log 46). -/
def State.issueIter (s : State) (c p : Nat) (r : RunBlock) (op : Nat) : State :=
  match r.ops[op]? with
  | none => s
  | some o =>
    let u := o.ctx r.image
    let next := fun (o : UnitOp) => { o with next := o.next + 1 }
    if u.masked o.next then s.modRun c (fun r => { r with ops := modAt r.ops op next })
    else
      match s.readError c u o.next with
      | some e => (s.meetsWord c e.1).endBlock c (r.timeAt (s.core c).period p) e.2
      | none =>
        let out := runTile u (if u.w.opcode = 0x01 then s.productView c p r else s.viewAt c p) o.next
        let q : Pending :=
          { iter := o.next, first := p + o.latency, last := p + o.latency + o.tile - 1, writes := out.writes
            clips := out.watch.clips, maxMag := out.watch.maxMag, watched := out.watched }
        (s.modCore c (fun k => { k with fmtRec := each out.events (fun e x => x.count e.2 e.1) k.fmtRec })).modRun c (fun r =>
          { r with ops := modAt r.ops op (fun o => { next o with flight := o.flight ++ [q] }) })

/-- One thing due at position p happens, or the core slips. -/
def State.runDue (s : State) (c p : Nat) (r : RunBlock) : Due → State
  | .commit op pend => s.commit c r op pend
  | .scalar => s.modCore c CoreState.scalarWrite
  | .opens op pend =>
    let held := s.heldBack c p r
    if held.isEmpty then
      s.modRun c (fun r => { r with ops := modAt r.ops op (fun o => { o with flight := modAt o.flight pend (fun q => { q with opened := true }) }) })
    else s.slipAt c p held
  | .issue op =>
    let held := s.heldBack c p r
    if held.isEmpty then s.issueIter c p r op else s.slipAt c p held

/-- All that is due up to position p, in order; a slip or an ending stops it. The number bounds what is due. -/
def State.advanceLoop (c p : Nat) : Nat → State → State
  | 0, s => s
  | n + 1, s =>
    match (s.core c).run with
    | none => s
    | some r =>
      if r.slip.isSome || r.ending.isSome then s
      else
        match leastDue r.dues with
        | none => s
        | some (key, due) => if key / 4 ≤ p then State.advanceLoop c p n (s.runDue c (key / 4) r due) else s

/-- Bound on what is due in a block. -/
def RunBlock.work (r : RunBlock) : Nat := (r.ops.map (fun o => 3 * (o.count - o.next) + 2 * o.flight.length)).sum + r.scalars.length + 1

/-- Core c's block up to position p. -/
def State.advance (s : State) (c p : Nat) : State :=
  let s := s.settleCaught c s.now
  match (s.core c).run with
  | some r => State.advanceLoop c p r.work s
  | none => s

/-- Bundles still to issue: the next one's offset (R83), unless STOP has cut them off (R74). -/
def RunBlock.nextBundle (r : RunBlock) : Option Nat :=
  let cut (o : Nat) : Bool := (r.stopAt.map (fun c => decide (c + 4 ≤ o))).getD false
  if r.bundles < (parseHeader r.image).bundleCount && !cut r.nextOffset then some r.nextOffset else none

/-- The last position the block may go on to before the sequencer acts. -/
def RunBlock.limit (r : RunBlock) (p : Nat) : Nat :=
  if !r.slots.isEmpty then min p r.lastIssue
  else
    match r.nextBundle with
    | some o => min p o
    | none => p

/-- Core c brought up to time t: its block's results, and what its stores have read. -/
def State.settle (s : State) (c t : Nat) : State :=
  let s := match (s.core c).run with
    | some r => s.advance c (r.limit (r.posNow (s.core c).period t))
    | none => s
  (s.capture c t).settleCaught c t

/-- Words of the bundle to issue from: what is left of the one begun, or the next one's. -/
def RunBlock.offers (r : RunBlock) : List Nat :=
  if r.slots.isEmpty then
    match r.nextBundle with
    | some _ => bundleWords r.image r.nextAt (bundleHead r.image r.nextAt).2
    | none => []
  else r.slots

/-- The next bundle is begun (R83, R114). -/
def RunBlock.begin (r : RunBlock) : RunBlock :=
  let len := bundleLen (bundleHead r.image r.nextAt).2
  { r with
    slots := bundleWords r.image r.nextAt (bundleHead r.image r.nextAt).2, lastIssue := r.nextOffset, bundles := r.bundles + 1
    nextAt := r.nextAt + len, nextOffset := r.nextOffset + (bundleHead r.image (r.nextAt + len)).1 }

/-- A slot word with one of the opcodes leaves the bundle. -/
def RunBlock.takeWord (r : RunBlock) (opcode : Nat) : Option (Nat × RunBlock) :=
  (r.slots.find? (fun w => (parseSlot w).opcode == opcode)).map (fun w => (w, { r with slots := r.slots.erase w }))

/-- The sequencer issues the slot word with this opcode, from the bundle begun or from the next one (R83): everything due before is done first; `act` is what the word does at its position. -/
def State.issueWord (s : State) (c opcode : Nat) (act : State → RunBlock → Nat → Nat → State) : State :=
  match (s.core c).run with
  | none => s
  | some r =>
    if r.slip.isSome || r.ending.isSome || !(r.offers.any (fun w => (parseSlot w).opcode == opcode)) then s
    else
      let p := if r.slots.isEmpty then r.nextOffset else r.lastIssue
      let s := s.advance c p
      match (s.core c).run with
      | none => s
      | some r =>
        if r.slip.isSome || r.ending.isSome || (r.slots.isEmpty && r.nextBundle.isNone) then s
        else
          match (if r.slots.isEmpty then r.begin else r).takeWord opcode with
          | none => s
          | some (w, r) => act ((s.upTo (r.timeAt (s.core c).period p)).modRun c (fun _ => r)) r w p

end Sys2Proof.Machine
end

