-- ==== Sys2Proof/Machine/Sequencer.lean ====
section
/-! DEFINITION. The sequencer's own operations: ADD, WAIT_GE, REGOP, LOADREG, SETFLAG (R101, R102, R122). -/

namespace Sys2Proof.Machine

/-- Register r of a core (R122). -/
def CoreState.sreg (k : CoreState) (r : Nat) : W32 := tget 0 k.sregs (r % 16)

/-- SREG_00 to SREG_15. -/
def CoreState.sregList (k : CoreState) : List W32 := (List.range 16).map k.sreg

/-- A register or flag write issued at position p with latency l and occupancy 1 (R122): its result is written at p + l (R85). -/
def RunBlock.write (r : RunBlock) (p l : Nat) (isFlag : Bool) (index : Nat) (value : W32) : RunBlock :=
  { r with
    scalars := r.scalars ++ [{ at_ := p + l, order := r.scalarSeq, isFlag := isFlag, index := index, value := value }]
    scalarSeq := r.scalarSeq + 1
    lastResult := max r.lastResult (p + l) }

/-- REGOP's new value (R122): SET, COPY, ADD, MIN, MAX. -/
def regopValue (mode : Nat) (old imm src : W32) : W32 :=
  match mode with
  | 0 => imm
  | 1 => src
  | 2 => old + imm
  | 3 => if imm.slt old then imm else old
  | _ => if old.slt imm then imm else old

/-- SETFLAG's comparison (R122): EQ, NE, LT signed, GE signed. -/
def flagCompare (cmp : Nat) (x imm : W32) : Bool :=
  match cmp with
  | 0 => x == imm
  | 1 => x != imm
  | 2 => x.slt imm
  | _ => !x.slt imm

/-- Cause a WAIT_GE class slips with (Table 4.4). -/
def classCause : Nat → SlipCause
  | 0 => .flagWait
  | 1 => .haloWait
  | 2 => .pannierLate
  | _ => .creditWait

def regopAct (c : Nat) (s : State) (_ : RunBlock) (word p : Nat) : State :=
  let w := parseSlot word
  let k := s.core c
  let d := w.op 0 % 16
  s.modRun c (fun r => r.write p 1 false d (regopValue (w.op 1 % 8) (k.sreg d) (BitVec.ofNat 32 (w.op 2)) (k.sreg (w.op 3 % 16))))

/-- REGOP (R122). -/
def execRegop (c : CoreIx) (s : State) : Host.Outcome State Fault Refusal := .next (s.clocked (fun s => s.issueWord c 0x32 (regopAct c)))

def setflagAct (c : Nat) (s : State) (_ : RunBlock) (word p : Nat) : State :=
  let w := parseSlot word
  let v := flagCompare (w.op 2 % 4) ((s.core c).sreg (w.op 1 % 16)) (BitVec.ofNat 32 (w.op 3))
  s.modRun c (fun r => r.write p 1 true (w.op 0 % 4) (if v then 1 else 0))

/-- SETFLAG (R122, R124). -/
def execSetflag (c : CoreIx) (s : State) : Host.Outcome State Fault Refusal := .next (s.clocked (fun s => s.issueWord c 0x34 (setflagAct c)))

/-- The word goes back to its bundle and the core slips on what it waits for (R94). -/
def State.holdWord (s : State) (c word p : Nat) (await : SlipWait) : State :=
  (s.modRun c (fun r => { r with slots := word :: r.slots })).slipAt c p [await]

/-- An operation's occupancy lasts at position p (R85). -/
def UnitOp.occupies (o : UnitOp) (p : Nat) : Bool := decide (p < o.issue + o.count * o.tile)

/-- A common bank with the operation's own operands or an operation that occupies a unit (R79). -/
def RunBlock.collides (r : RunBlock) (o : UnitOp) (p : Nat) : Bool :=
  selfCollide o.readBanks
    || r.ops.any (fun x => x.occupies p && (meet x.readBanks.flatten o.readBanks.flatten || meet x.writeBanks o.writeBanks))

/-- Operations of a block that still occupy a unit or have results to come. -/
def RunBlock.liveOps (r : RunBlock) (p : Nat) : List UnitOp := r.ops.filter (fun x => x.occupies p || decide (x.next < x.count) || !x.flight.isEmpty)

/-- A LOADREG as it reads its four bytes, in the one core cycle it occupies (R79, R122). -/
def loadregOp (word p a : Nat) : UnitOp :=
  { unit := .sequencer, word := word, issue := p, tile := 1, latency := 4, count := 1, next := 1, readBanks := [banksOf [((a : Int), 4)]] }

def loadregAct (c : Nat) (s : State) (r : RunBlock) (word p : Nat) : State :=
  let w := parseSlot word
  let a := w.spad 1
  let o := loadregOp word p a
  let t := r.timeAt (s.core c).period p
  if !(s.ctxOf r.fn).spadOk a then s.endBlock c t (blockFault faultPartition 0x10 a 2)
  else if r.collides o p then s.endBlock c t (blockFault faultBank)
  else if ((s.core c).mover.holds (c % 16) false [(a, 4)]).isSome then s.holdWord c word p (.units [(a, 4)] false)
  else
    match s.cores.badWord c (a, 4) with
    | some x => (s.meetsWord c .scratchpad).endBlock c t (memEnding stUncorrectable 0 x 2)
    | none => s.modRun c (fun r =>
        { r with ops := r.liveOps p ++ [o] }.write p 4 false (w.op 0 % 16) (BitVec.ofNat 32 (leNat ((s.viewAt c p).bytes a 4))))

/-- LOADREG (R122, R79, R80). -/
def execLoadreg (c : CoreIx) (s : State) : Host.Outcome State Fault Refusal := .next (s.clocked (fun s => s.issueWord c 0x33 (loadregAct c)))

def addAct (c : Nat) (s : State) (r : RunBlock) (word p : Nat) : State :=
  let w := parseSlot word
  let fld := w.op 0 % 2 ^ 13
  let amount := w.op 1 % 65536
  if !(s.ctxOf r.fn).ownsCtr (clusterOf c) fld then s.endBlock c (r.timeAt (s.core c).period p) (blockFault faultCounterOwner)
  else if bit (w.op 1) 16 && (s.core c).mover.descs.any (fun d => d.isStore) then
    s.modCore c (fun k => { k with mover := { k.mover with adds := k.mover.adds ++ [{ block := r.ordinal, ctr := fld, amount := amount, before := k.mover.nextId }] } })
  else s.addCtr (clusterOf c) fld amount

/-- ADD (R101, R102). -/
def execAdd (c : CoreIx) (s : State) : Host.Outcome State Fault Refusal := .next (s.clocked (fun s => s.issueWord c 0x30 (addAct c)))

def waitGeAct (c : Nat) (s : State) (r : RunBlock) (word p : Nat) : State :=
  let w := parseSlot word
  let fld := w.op 0 % 2 ^ 13
  let cls := w.op 2
  let thr : W32 := BitVec.ofNat 32 (w.op 1) + (if bit cls 2 then (s.core c).sreg (field cls 6 3) else 0)
  if !(s.ctxOf r.fn).ownsCtr (clusterOf c) fld then s.endBlock c (r.timeAt (s.core c).period p) (blockFault faultCounterOwner)
  else if s.share.ctrBad (clusterOf c) fld then s.endBlock c (r.timeAt (s.core c).period p) ctrEnding
  else if meets (s.share.seen (s.now / fabTicks) (clusterOf c) fld) thr then s
  else s.slipAt c p [.counter fld thr.toNat (classCause (cls % 4))]

/-- WAIT_GE (R101, R102). -/
def execWaitGe (c : CoreIx) (s : State) : Host.Outcome State Fault Refusal := .next (s.clocked (fun s => s.issueWord c 0x31 (waitGeAct c)))

/-- A RELEASE ADD whose earlier STOREs are all visible is applied (R102). -/
def State.releaseAdd (s : State) (c : Nat) : State :=
  let m := (s.core c).mover
  match m.adds.find? (fun a => m.descs.all (fun d => !(d.isStore && decide (d.id < a.before)))) with
  | none => s
  | some a => (s.modCore c (fun k => { k with mover := { k.mover with adds := k.mover.adds.erase a } })).addCtr (clusterOf c) a.ctr a.amount

/-- RELEASE_ADD_APPLIED (R102). -/
def execReleaseAddApplied (c : CoreIx) (s : State) : Host.Outcome State Fault Refusal := .next (s.clocked (fun s => s.releaseAdd c))

/-- Time goes on to the next fabric cycle where all that still holds a slip is an ADD of this one (R102). -/
def State.addsShow (s : State) (c : Nat) (sl : SlipNow) : State :=
  let n := s.now / fabTicks
  if (slipCause s.share (s.core c).mover c n sl).isSome && (slipCause s.share (s.core c).mover c (n + 1) sl).isNone then s.upTo ((n + 1) * fabTicks) else s

/-- The slip ends in the first core cycle after its conditions cleared (R94, R95). -/
def State.slipResume (s : State) (c : Nat) : State :=
  let s := s.settle c s.now
  let s := match (s.core c).run.bind (fun r => r.slip) with
    | some sl => s.addsShow c sl
    | none => s
  match (s.core c).run with
  | none => s
  | some r =>
    match r.slip with
    | none => s
    | some sl =>
      if (slipCause s.share (s.core c).mover c (s.now / fabTicks) sl).isSome then s
      else
        let per := (s.core c).period
        let t := r.posAt + ((s.now - r.posAt) / per + 1) * per
        (s.upTo t).modRun c (fun r => { r with slip := none, posAt := t, chargedTo := max r.chargedTo sl.chargedTo, chargedAs := sl.chargedAs })

/-- SLIP_RESUME (R95). -/
def execSlipResume (c : CoreIx) (s : State) : Host.Outcome State Fault Refusal := .next (s.clocked (fun s => s.slipResume c))

end Sys2Proof.Machine
end

