-- ==== Sys2Proof/Machine/Issue.lean ====
section
/-! DEFINITION. Issue of the units' operations (R79 to R81, R85, R86, R127, R152, R153): PRODUCT, ROTATE_STORE, CONVERT, ELEMWISE, FORMAT, REDUCE, ROWSTAT, WINDOW, FUNC, LOOKUP, SWAP; and the writing of results. -/

namespace Sys2Proof.Machine

/-- Units an operation keeps (R86). -/
def UnitOp.units (o : UnitOp) : List UnitIx := if o.alsoRotation then [o.unit, .rotation] else [o.unit]

/-- A unit an operation needs is occupied (R85, R86). -/
def RunBlock.busy (r : RunBlock) (o : UnitOp) (p : Nat) : Bool := r.ops.any (fun x => x.occupies p && x.units.any o.units.contains)

/-- Memory-bound words and registers as bounds see them. -/
def RunBlock.mbounds (r : RunBlock) : List Nat := r.bounds.map BitVec.toNat

/-- A caddy slot of a core. -/
def CoreState.caddySlot (k : CoreState) (i : Nat) : CaddySlot := tget {} k.caddy i

/-- The operation as it issues: its word, its unit and timing, what it read at issue. -/
def CoreState.newOp (k : CoreState) (r : RunBlock) (word p : Nat) : UnitOp :=
  let bank := if (parseSlot word).opcode = 0x21 then (k.caddySlot (parseFunc (unitCtx r.image word [] [] []).param).slot).active else []
  let u := unitCtx r.image word (k.sregList.map BitVec.toNat) r.mbounds bank
  let tm := unitTiming u
  { unit := (unitOf u).1, alsoRotation := (unitOf u).2, word := word, issue := p, tile := tm.2, latency := tm.1, count := u.count
    bounds := u.bounds, sregs := k.sregList, bank := bank, readBanks := u.readBanks, writeBanks := u.writeBanks }

/-- First place outside the partition, in iteration order: its cause and address (R80, R81, R338). -/
def partitionFault (x : CtxRec) (u : UnitCtx) : Option Ending :=
  u.live.findSome? (fun t =>
    let use := tileUse u t
    match (use.reads.flatten ++ use.writes).findSome? x.spadBad with
    | some a => some (blockFault faultPartition 0x10 (wrapInt 62 a) 2)
    | none => (use.entries.findSome? x.accBad).map (fun e => blockFault faultPartition 0x20 (wrapInt 62 e) 3))

/-- A LOOKUP of a caddy slot the function does not hold (R153). -/
def lookupFault (x : CtxRec) (u : UnitCtx) : Option Ending :=
  if u.w.opcode = 0x21 ∧ x.caddySlots.getLsbD (parseFunc u.param).slot = false then
    some (blockFault faultPartition (0x40 + (parseFunc u.param).slot) (wrapInt 62 (u.w.spad 0)) 2)
  else none

/-- The checks of a unit operation at its issue: the first that fails. -/
def issueFault (x : CtxRec) (r : RunBlock) (o : UnitOp) (p : Nat) : Option Ending :=
  let u := o.ctx r.image
  if r.busy o p then some (blockFault faultUnitBusy)
  else if (u.loop.map (fun l => boundFault l u.bounds)).getD false then some (blockFault faultBound)
  else
    match lookupFault x u with
    | some e => some e
    | none =>
      match partitionFault x u with
      | some e => some e
      | none =>
        if r.collides o p then some (blockFault faultBank)
        else if u.w.opcode = 0x21 ∧ o.bank = [] then some (blockFault faultTableEmpty)
        else none

/-- The operation starts on its unit (R85). -/
def RunBlock.start (r : RunBlock) (o : UnitOp) (p : Nat) : RunBlock :=
  { r with
    ops := r.liveOps p ++ [o]
    lastResult := max r.lastResult (p + o.count * o.tile + o.latency - 1) }

def unitAct (c : Nat) (s : State) (r : RunBlock) (word p : Nat) : State :=
  let o := (s.core c).newOp r word p
  match issueFault (s.ctxOf r.fn) r o p with
  | some e => s.endBlock c (r.timeAt (s.core c).period p) e
  | none => s.modRun c (fun r => r.start o p)

/-- PRODUCT (R45, R117). -/
def execProduct (c : CoreIx) (s : State) : Host.Outcome State Fault Refusal := .next (s.clocked (fun s => s.issueWord c 0x01 (unitAct c)))
/-- ROTATE_STORE (R58, R118). -/
def execRotateStore (c : CoreIx) (s : State) : Host.Outcome State Fault Refusal := .next (s.clocked (fun s => s.issueWord c 0x08 (unitAct c)))
/-- CONVERT (R48, R119). -/
def execConvert (c : CoreIx) (s : State) : Host.Outcome State Fault Refusal := .next (s.clocked (fun s => s.issueWord c 0x10 (unitAct c)))
/-- ELEMWISE (R134). -/
def execElemwise (c : CoreIx) (s : State) : Host.Outcome State Fault Refusal := .next (s.clocked (fun s => s.issueWord c 0x11 (unitAct c)))
/-- FORMAT (R134). -/
def execFormat (c : CoreIx) (s : State) : Host.Outcome State Fault Refusal := .next (s.clocked (fun s => s.issueWord c 0x12 (unitAct c)))
/-- REDUCE (R137). -/
def execReduce (c : CoreIx) (s : State) : Host.Outcome State Fault Refusal := .next (s.clocked (fun s => s.issueWord c 0x13 (unitAct c)))
/-- ROWSTAT (R139, R140). -/
def execRowstat (c : CoreIx) (s : State) : Host.Outcome State Fault Refusal := .next (s.clocked (fun s => s.issueWord c 0x14 (unitAct c)))
/-- WINDOW (R143, R144). -/
def execWindow (c : CoreIx) (s : State) : Host.Outcome State Fault Refusal := .next (s.clocked (fun s => s.issueWord c 0x15 (unitAct c)))
/-- FUNC (R146). -/
def execFunc (c : CoreIx) (s : State) : Host.Outcome State Fault Refusal := .next (s.clocked (fun s => s.issueWord c 0x20 (unitAct c)))
/-- LOOKUP (R149, R152, R153). -/
def execLookup (c : CoreIx) (s : State) : Host.Outcome State Fault Refusal := .next (s.clocked (fun s => s.issueWord c 0x21 (unitAct c)))

/-- A PENDING shadow becomes active; the former active bank is STALE (R151). -/
def CaddySlot.swap (b : CaddySlot) : CaddySlot :=
  if b.shadowState = .pending then { active := b.shadow, shadow := b.active, shadowState := .stale } else b

/-- SWAP: the banks change at its issue, whatever its latency in Table 4.1, so that a LOOKUP issued in the next core cycle sees the new one (R151, R152; DESIGN CHOICE, log 46). -/
def swapAct (c : Nat) (s : State) (r : RunBlock) (word p : Nat) : State :=
  let i := (parseSlot word).op 0 % 4
  let o := (s.core c).newOp r word p
  let t := r.timeAt (s.core c).period p
  if r.busy o p then s.endBlock c t (blockFault faultUnitBusy)
  else if (s.ctxOf r.fn).caddySlots.getLsbD i = false then s.endBlock c t (blockFault faultPartition (0x40 + i) 0 2)
  else
    (s.modCore c (fun k => { k with caddy := tmod {} k.caddy i CaddySlot.swap })).modRun c (fun r => r.start { o with next := o.count } p)

/-- SWAP (R151 to R153). -/
def execSwap (c : CoreIx) (s : State) : Host.Outcome State Fault Refusal := .next (s.clocked (fun s => s.issueWord c 0x22 (swapAct c)))

/-- Position of the next results to be complete. -/
def RunBlock.nextCommit (r : RunBlock) : Option Nat :=
  (leastDue (r.dues.filter (fun d => match d.2 with
    | .commit _ _ => true
    | _ => false))).map (fun d => d.1 / 4)

/-- The next iteration to end writes its last result, unless a bundle is due before (R85). An operation whose iterations have not issued yet is taken to its first result. -/
def State.resultWritten (s : State) (c : Nat) : State :=
  match (s.core c).run with
  | none => s
  | some r =>
    if r.slip.isSome || r.ending.isSome then s
    else
      let s := match leastDue r.dues with
        | some (key, .issue _) => s.advance c (r.limit (key / 4))
        | _ => s
      match (s.core c).run with
      | none => s
      | some r =>
        match r.nextCommit with
        | none => s
        | some p => if r.limit p = p then (s.upTo (r.timeAt (s.core c).period p)).advance c p else s

/-- OPERATION_RESULT_WRITTEN (R85, R72). -/
def execOperationResultWritten (c : CoreIx) (s : State) : Host.Outcome State Fault Refusal := .next (s.clocked (fun s => s.resultWritten c))

/-- Everything issued before the criterion's cut has completed: the block ends with QUANT_CLIP (R74). -/
def State.clipStop (s : State) (c : Nat) : State :=
  match (s.core c).run with
  | none => s
  | some r =>
    if r.slip.isSome || r.ending.isSome || r.stopAt.isNone || !r.slots.isEmpty || r.nextBundle.isSome then s
    else
      let p := max r.lastIssue r.lastResult + 1
      let s := s.advance c p
      match (s.core c).run with
      | none => s
      | some r =>
        if r.slip.isSome || r.ending.isSome then s
        else
          let t := r.timeAt (s.core c).period p
          (s.upTo t).modRun c (fun r => { r with ending := some { status := BitVec.ofNat 16 stQuantClip }, endedAt := t, ops := [], scalars := [] })

/-- QUANT_CLIP_STOP_END (R74). -/
def execQuantClipStopEnd (c : CoreIx) (s : State) : Host.Outcome State Fault Refusal := .next (s.clocked (fun s => s.clipStop c))

end Sys2Proof.Machine
end

