-- ==== Sys2Proof/Machine/Mailbox.lean ====
section
/-! DEFINITION. How the controller serves a mailbox: the common checks of Table 15.4 in their order, the reply, and the commands in progress (R328 to R333). -/

namespace Sys2Proof.Machine

/-- Key of byte b of mailbox m of function f. -/
def mbKey (f m b : Nat) : Nat := 8192 * f + 512 * m + b

/-- Bytes of a mailbox. -/
def CtlState.mb (c : CtlState) (f m a n : Nat) : List Byte := bytesAt 0 c.mailbox (mbKey f m a) n

/-- A request as the controller reads it (Table 15.2). -/
structure Req where
  fn : Nat
  code : Nat
  tag : W32
  length : Nat
  params : List Byte
  irq : Bool
  /-- The model's own number of the command. -/
  serial : Nat := 0
  deriving DecidableEq, Repr

def CtlState.req (c : CtlState) (f m : Nat) : Req :=
  let h := c.mb f m 0 12
  { fn := f, code := fieldAt h 0 2, tag := BitVec.ofNat 32 (fieldAt h 4 4), length := fieldAt h 8 2
    params := c.mb f m 0x10 480, irq := bit (fieldAt (c.mb f m 0x1FC 4) 0 4) 30, serial := c.served }

/-- The controller owns the mailbox (Table 15.3). -/
def CtlState.owned (c : CtlState) (f m : Nat) : Bool := bit (fieldAt (c.mb f m 0x1FC 4) 0 4) 31

/-- Word, 2-byte, byte and 8-byte fields of a request at PARAMS offset a. -/
def Req.u32 (q : Req) (a : Nat) : Nat := fieldAt q.params a 4
def Req.u64 (q : Req) (a : Nat) : Nat := fieldAt q.params a 8

/-- Who gets the COMMAND entry. -/
def Req.cmd (q : Req) : CmdRef := { fn := q.fn, code := BitVec.ofNat 16 q.code, tag := q.tag, serial := q.serial }

/-- What the controller answers. -/
structure Answer where
  status : Nat := 0
  detail : Nat := 0
  reply : List Byte := []
  /-- Function a PF0 command names (R342). -/
  names : Nat := 0
  deriving DecidableEq, Repr

/-- Bytes a request must have: a fixed number, or COUNT entries of a size after 0x10 bytes, COUNT at a bit field of a word. -/
inductive ReqLen where
  | fixed (n : Nat)
  | counted (a hi lo size : Nat)
  deriving DecidableEq, Repr

def ReqLen.expect (l : ReqLen) (q : Req) : Nat :=
  match l with
  | .fixed n => n
  | .counted a hi lo size => 0x10 + field (q.u32 a) hi lo * size

/-- The form of a command: code, request length, caller (PF0, and whether the objects a VF names are its own), the defined bits of each word of the request in turn (words past the list may hold anything: the entries posted), the offsets of fields out of range, and whether it is answered ACCEPTED. -/
structure CmdForm where
  code : Nat
  len : ReqLen
  pf0 : Bool := false
  /-- The named objects belong to the caller (R333); an object that belongs to nobody is left to the command's row. -/
  owns : Req → State → Bool := fun _ _ => true
  masks : List Nat := []
  range : Req → List Nat := fun _ => []
  accepts : Bool := false

/-- Offsets of words with a reserved bit set. -/
def reservedBad : List Nat → Nat → Req → List Nat
  | [], _, _ => []
  | m :: ms, a, q => (if q.u32 a &&& m = q.u32 a then [] else [a]) ++ reservedBad ms (a + 4) q

/-- The least of a list of offsets. -/
def firstOf : List Nat → Option Nat
  | [] => none
  | a :: l =>
    match firstOf l with
    | some b => some (min a b)
    | none => some a

/-- Commands of function f in progress (R332). -/
def CtlState.inFlight (c : CtlState) (f : Nat) : Nat := (c.inProgress.filter (fun p => p.cmd.fn == f)).length

/-- The first failure of Table 15.4, checks 2 to 5. Check 5 is made here of a command whose row answers nothing but ACCEPTED or a refusal (log 50). -/
def CmdForm.refusal (form : CmdForm) (q : Req) (s : State) : Option Answer :=
  if q.length ≠ form.len.expect q then some { status := stBadLength, detail := form.len.expect q % 65536 }
  else if (form.pf0 && q.fn != 0) || !form.owns q s then some { status := stNotPermitted }
  else
    match firstOf (reservedBad form.masks 0 q ++ form.range q) with
    | some a => some { status := stBadField, detail := 0x10 + a }
    | none => if form.accepts && decide (32 ≤ s.ctl.inFlight q.fn) then some { status := stBusy, detail := 2 } else none

/-- BAD_FIELD of a row at PARAMS offset a. -/
def badField (a : Nat) : Answer := { status := stBadField, detail := 0x10 + a }
def notPermitted : Answer := { status := stNotPermitted }
def busy : Answer := { status := stBusy }

/-- A mailbox with the controller's answer written, handed back to the host (R328). -/
def answeredBytes (mb : List Host.Cell) (f m : Nat) (a : Answer) : List Host.Cell :=
  setBytes 0
    (setBytes 0
      (setBytes 0 (setBytes 0 mb (mbKey f m 0x0C) (natLe 2 a.status ++ natLe 2 a.detail)) (mbKey f m 0x10) a.reply)
      (mbKey f m 0x1F0) (natLe 2 a.reply.length))
    (mbKey f m 0x1FC) [0, 0, 0, 0]

/-- The answer is written: the mailbox leaves the posted ones, an ACCEPTED command goes in progress, IRQ raises MB_VECTOR (R328, R337). -/
def State.answer (s : State) (f m : Nat) (q : Req) (a : Answer) : State :=
  { s with
    ctl := { s.ctl with
      mailbox := answeredBytes s.ctl.mailbox f m a
      posted := s.ctl.posted.drop 1
      served := s.ctl.served + 1
      inProgress := if a.status = stAccepted then s.ctl.inProgress ++ [{ cmd := q.cmd, names := a.names }] else s.ctl.inProgress }
    host := if q.irq then s.host.signal f (s.ctl.ring f).mbVector.toNat else s.host }

/-- The controller may take mailbox (f, m) now: it runs, and this one was posted first (R331, R361). -/
def State.takes (s : State) (f m : Nat) : Bool :=
  s.rst.ready && !s.clocks.thermtrip && s.ctl.posted.head? == some (f, m) && s.ctl.owned f m

/-- The code is listed in Tables 15.8 to 15.18. -/
def codeListed (c : Nat) : Bool :=
  let lo := c % 256
  match c / 256 with
  | 1 => 1 ≤ lo && lo ≤ 5
  | 2 => 1 ≤ lo && lo ≤ 9
  | 3 => 1 ≤ lo && lo ≤ 4
  | 4 => 1 ≤ lo && lo ≤ 0x10
  | 5 => 1 ≤ lo && lo ≤ 2
  | 6 => 1 ≤ lo && lo ≤ 6
  | 7 => 1 ≤ lo && lo ≤ 5
  | 8 => 1 ≤ lo && lo ≤ 2
  | 9 => 1 ≤ lo && lo ≤ 4
  | 0x0A => 1 ≤ lo && lo ≤ 4
  | 0 => 1 ≤ lo && lo ≤ 5
  | _ => false

/-- Serve a mailbox with a command of the given form: `row` makes the row's checks and applies the command; a refusal leaves the state it was given (R329), but for the page engine's stop of service (R226). A posted mailbox that is not first, or holds another code, is not taken (log 2). -/
def State.serve (s : State) (f : Fn) (m : Mb) (form : CmdForm) (row : Req → State → State × Answer) : State :=
  let q := s.ctl.req f m
  if s.takes f m && q.code == form.code then
    match form.refusal q s with
    | some a => s.answer f m q a
    | none =>
      let r := row q s
      if r.2.status = stAccepted ∧ 32 ≤ s.ctl.inFlight f then s.answer f m q { status := stBusy, detail := 2 }
      else if r.2.status = stOk ∨ r.2.status = stAccepted ∨ r.2.status = stSelftestDeferred ∨ r.2.status = stUncorrectable then r.1.answer f m q r.2
      else s.answer f m q r.2
  else s

/-- UNLISTED_COMMAND (R332, check 1). -/
def execUnlistedCommand (f : Fn) (m : Mb) (s : State) : Host.Outcome State Fault Refusal :=
  let q := s.ctl.req f m
  .next (if s.takes f m && !codeListed q.code then s.answer f m q { status := stBadCommand } else s)

end Sys2Proof.Machine
end

