-- ==== Sys2Proof/Machine/Gears.lean ====
section
/-! DEFINITION. Gears, the candidates of a core (R243), freewheel, admission and the kettle (R364 to R374), the core voltage (R426), the brake (R430), and the telemetry snapshot (R376). -/

namespace Sys2Proof.Machine

def ClockState.die (k : ClockState) (d : Nat) : DieClock := tget {} k.dies d
def ClockState.modDie (k : ClockState) (d : Nat) (f : DieClock → DieClock) : ClockState := { k with dies := tmod {} k.dies d f }
def SvcState.sparesOf (v : SvcState) (cl : Nat) : Spares := tget {} v.spares cl

/-- Memory cap from a held temperature (R371). -/
def memCapOf (t : Nat) : Nat := if t < 85 then 15 else if t ≤ 97 then 99 - t else 1
/-- Junction cap from a held temperature (R372). -/
def junctionCapOf (t : Nat) : Nat := if t < 100 then 15 else if t ≤ 112 then 114 - t else 1

def ClockState.memCap (k : ClockState) (d : Nat) : Nat := memCapOf (max (tget 0 k.stackHeld (2 * d)) (tget 0 k.stackHeld (2 * d + 1)))
def ClockState.junctionCap (k : ClockState) (cl : Nat) : Nat := junctionCapOf (tget 0 k.junctionHeld cl)
/-- Lowest junction cap of a die's clusters. -/
def ClockState.dieJunctionCap (k : ClockState) (d : Nat) : Nat :=
  min (min (k.junctionCap (4 * d)) (k.junctionCap (4 * d + 1))) (min (k.junctionCap (4 * d + 2)) (k.junctionCap (4 * d + 3)))
/-- Lowest of a die's power, memory and junction caps (R426). -/
def ClockState.dieCap (k : ClockState) (d : Nat) : Nat := min (min (k.die d).powerCap.toNat (k.memCap d)) (k.dieJunctionCap d)

/-- Physical slot of a logical core (R19). -/
def SvcState.slotOf (v : SvcState) (c : Nat) : Nat := (v.sparesOf (clusterOf c)).map.getD (c % 16) 16

/-- Trim cap of a slot (R366, Table 18.6). -/
def ResetState.trimCap (r : ResetState) (cl slot : Nat) : Nat :=
  if r.trimDefaulted || r.shadow.isEmpty then 8 else
    let n := 17 * cl + slot
    field (fieldAt r.shadow (0x100 + n / 2) 1) (4 * (n % 2) + 3) (4 * (n % 2))

/-- Its cluster, of a clock of R364: 0 to 255 are the clocks of the logical cores, 256 + cl that of the slot of CLUSTER_cl that holds none. -/
def clockCluster (c : Nat) : Nat := if c < 256 then clusterOf c else c - 256
def clockDie (c : Nat) : Nat := clockCluster c / 4
/-- The clocks of a cluster, and of a die. -/
def clusterClocks (cl : Nat) : List Nat := (List.range 16).map (16 * cl + ·) ++ [256 + cl]
def dieClocks (d : Nat) : List Nat := (List.range 4).flatMap (fun i => clusterClocks (4 * d + i))

def State.clockOf (s : State) (c : Nat) : CoreClock := if c < 256 then (s.core c).clock else tget {} s.clocks.spareClocks (c - 256)
def State.modClock (s : State) (c : Nat) (f : CoreClock → CoreClock) : State :=
  if c < 256 then s.modCore c (fun k => { k with clock := f k.clock })
  else { s with clocks := { s.clocks with spareClocks := tmod {} s.clocks.spareClocks (c - 256) f } }

/-- Physical slot that a clock drives. -/
def SvcState.clockSlot (v : SvcState) (c : Nat) : Nat :=
  if c < 256 then v.slotOf c else ((List.range 17).find? (fun k => !(v.sparesOf (c - 256)).map.contains k)).getD 16

/-- Gear of a core with no block running: the lowest of the last five (R366), and what the voltage supports while a regulator does not answer (R426). -/
def State.capOf (s : State) (c : Nat) : Nat :=
  min (min (s.clockOf c).driverGear.toNat (s.rst.trimCap (clockCluster c) (s.svc.clockSlot c)))
    (min (min (min (s.clocks.die (clockDie c)).powerCap.toNat (((s.clocks.die (clockDie c)).voltCap).getD 15)) (s.clocks.memCap (clockDie c)))
      (s.clocks.junctionCap (clockCluster c)))

/-- PLAN_GEAR of the block that runs or is ready on a core (R366). -/
def CoreState.plan (k : CoreState) : Option Nat :=
  match k.run with
  | some r => some (parseHeader r.image).planGear
  | none => (k.load.filter (fun l => l.phase == .ready)).map (fun l => (parseHeader l.image).planGear)

/-- The gear R366 gives a core now. -/
def State.targetGear (s : State) (c : Nat) : Nat :=
  match (if c < 256 then (s.core c).plan else none) with
  | some g => min g (s.capOf c)
  | none => s.capOf c

/-- The head entry of a sub-queue may leave it: its list, if it names one, is released (R242). An epoch that no unretired list has, such as that of a list which a core reset has discarded, holds nothing back (DESIGN CHOICE, log 46). -/
def SeqState.gateOpen (q : SeqState) (f : Nat) (e : QEntry) : Bool :=
  !e.gateEn || (tget [] q.lists f).all (fun l => l.epoch != e.gateEpoch || l.phase == .released)

/-- Function f's candidate on a core: its pending successor, else the eligible head of its sub-queue (R243). -/
def CoreState.candidate (k : CoreState) (q : SeqState) (f : Nat) : Option (Bool × Chain) :=
  if (q.ctxOf f).st ≠ .running then none
  else
    match tget none k.successors f with
    | some ch => some (true, ch)
    | none =>
      match (tget [] k.queues f).head? with
      | some e => if q.gateOpen f e then some (false, { image := e.image.setWidth 64, entry := e, sregs := e.sregs }) else none
      | none => none

/-- Functions that hold a candidate on a core. -/
def CoreState.candidates (k : CoreState) (q : SeqState) : List Nat := (List.range 16).filter (fun f => (k.candidate q f).isSome)

/-- A block runs, is loaded, or waits as a candidate on a logical core. -/
def State.hasWork (s : State) (c : Nat) : Bool :=
  decide (c < 256) && ((s.core c).run.isSome || (s.core c).load.isSome || !((s.core c).candidates s.seqs).isEmpty)

/-- The spare of a cluster steeps (R416). -/
def State.steeps (s : State) (cl : Nat) : Bool :=
  let p := s.svc.sparesOf cl
  p.spare.isSome && !p.spareReady && !s.rst.trimDefaulted && s.rst.coresUp cl

/-- A spare swap or a steeping names the core (R368). -/
def State.named (s : State) (c : Nat) : Bool :=
  if c < 256 then (s.core c).swap.isSome || s.svc.requests.any (fun r => r.kind == 0 && r.target == c && !r.running) else s.steeps (c - 256)

/-- A core leaves freewheel, and does not enter it (R368). -/
def State.wanted (s : State) (c : Nat) : Bool := s.named c || s.hasWork c

/-- PLAN_GEAR of the block a core is woken for, once its header is read. -/
def CoreState.headPlan (k : CoreState) : Option Nat := (k.load.filter (fun l => l.phase != .chosen)).map (fun l => (parseHeader l.image).planGear)

/-- The gear a core in freewheel wakes to (R368): straight to that of the block it is woken for, so its admission waits until the header says which (DEDUCED, log 51); woken for another reason, to that of a core with no block. -/
def State.wakeGear (s : State) (c : Nat) : Option Nat :=
  match (if c < 256 then (s.core c).headPlan else none) with
  | some g => some (min g (s.capOf c))
  | none => if s.named c then some (s.capOf c) else none

/-- No gear above it is admitted while a die waits for its regulator (R426). -/
def State.admitLimit (s : State) (c : Nat) : Nat := ((s.clocks.die (clockDie c)).avsHold).getD 15

/-- The gear that a waiting clock rises or wakes to, as its target stands (R367 to R369). -/
def State.riseTo (s : State) (c : Nat) : Option Nat :=
  let k := s.clockOf c
  let aim := if k.gear = 0 then s.wakeGear c else some (s.targetGear c)
  (aim.map (fun g => min g (s.admitLimit c))).filter (fun g => decide (k.gear.toNat < g))

/-- The schedule counter over a clock stop of 64 ns that starts now (R84): it stops at the next core-cycle boundary; no slip is counted in the 64 ns. -/
def RunBlock.stopClock (r : RunBlock) (period now : Nat) : RunBlock :=
  match r.slip with
  | some sl => { r with posAt := now + 64 * nsTicks, slip := some { sl with since := now + 64 * nsTicks } }
  | none =>
    let p := r.pos + ceilDiv (now - r.posAt) period
    let q := r.limit p
    { r with pos := q, posAt := r.timeAt period q + 64 * nsTicks }

/-- What runs on a core stands still for the 64 ns of a gear change (R84). -/
def State.stopCore (s : State) (c : Nat) : State :=
  if c < 256 then
    ((s.settle c s.now).chargeCore c s.now).modCore c (fun k => { k with run := k.run.map (fun r => r.stopClock k.period s.now) })
  else s

/-- A gear change starts (R367). -/
def State.startChange (s : State) (c g : Nat) : State :=
  (s.stopCore c).modClock c (fun k => { k with gear := BitVec.ofNat 4 g, change := some (g, s.now + 64 * nsTicks), waiting := false })

/-- The gear of a core follows its target: a fall at once, a rise or a wake waits for admission, and a fall cancels a waiting rise (R366 to R368, R426). -/
def State.retarget (s : State) (c : Nat) : State :=
  let k := s.clockOf c
  if k.change.isSome || k.waking.isSome then s
  else if k.gear = 0 then s.modClock c (fun k => { k with waiting := s.wanted c })
  else if s.targetGear c < k.gear.toNat then s.startChange c (s.targetGear c)
  else s.modClock c (fun k => { k with waiting := (s.riseTo c).isSome })

def State.retargetAll (s : State) : State := each (List.range 272) (fun c s => s.retarget c) s

/-- Cores in freewheel that have gained a candidate come to wait for admission (R368). -/
def State.rouse (s : State) : State := each (s.cores.cores.map (·.1)) (fun c s => if (s.clockOf c).gear = 0 then s.retarget c else s) s

/-- After blocks and candidates are taken away: the idle time of a core left without any begins now (R368), and gears follow (R366). -/
def State.unrouse (s old : State) : State :=
  each ((old.cores.cores.map (·.1)).filter old.hasWork) (fun c s =>
    (if s.hasWork c then s else s.modClock c (fun k => { k with idleSince := s.now })).retarget c) s

/-- A logical core and the slot that holds none exchange their clocks; the gears follow the caps of the slots (R19, R366, R367). -/
def State.swapClocks (s : State) (c : Nat) : State :=
  let a := s.clockOf c
  let b := s.clockOf (256 + clusterOf c)
  let t := (s.modClock c (fun _ => { b with driverGear := a.driverGear, idleSince := a.idleSince })).modClock (256 + clusterOf c) (fun _ =>
    { a with driverGear := 15, idleSince := s.now })
  (t.retarget c).retarget (256 + clusterOf c)

/-- A logical core moves onto the slot that held none: the clocks with the slots, and its state through the mover ports, in at most 2 us by which the next gap is longer (R20, R413). -/
def State.moveCore (s : State) (c : Nat) : State :=
  State.swapClocks { s.modCore c (fun k => { k with copyTime := (Config.freeWord s.freeCtr 0).toNat % (2 * usTicks + 1) }) with freeCtr := s.freeCtr + 1 } c

/-- Trim voltage of a gear (R426). -/
def ResetState.gearMv (r : ResetState) (d g : Nat) : Nat := if r.trimDefaulted then 550 + 25 * (g - 1) else Config.trimMv d g

/-- A new setpoint of a die is asked for (R426). -/
def DieClock.ask (k : DieClock) (mv now : Nat) : DieClock := if mv = k.targetMv then k else { k with targetMv := mv, askedAt := now }

/-- A clock of a die has come down to a gear: none of its own is higher, and none it changes or wakes to. -/
def CoreClock.within (k : CoreClock) (g : Nat) : Bool :=
  decide (k.gear.toNat ≤ g) && k.change.isNone && (k.waking.map (fun x => decide (x.1 ≤ g))).getD true

/-- The setpoint of a die is lowered once all its gears have fallen to its caps (R426). -/
def State.lowerVolts (s : State) (d : Nat) : State :=
  let cap := s.clocks.dieCap d
  if (dieClocks d).all (fun c => (s.clockOf c).within cap) then { s with clocks := s.clocks.modDie d (fun k => k.ask (min k.targetMv (s.rst.gearMv d cap)) s.now) } else s

/-- GEAR_CHANGE_DONE: the clock stop of a change ends; a new target starts the next change (R367). -/
def State.changeDone (s : State) (c : Nat) : State :=
  match (s.clockOf c).change with
  | none => s
  | some (_, t) =>
    let s := (s.upTo t).modClock c (fun k => { k with change := none })
    ((if c < 256 then s.modCore c (fun k => { k with boundaryAt := if k.run.isNone then max k.boundaryAt t else k.boundaryAt }) else s).retarget c).lowerVolts (clockDie c)

/-- GEAR_CHANGE_DONE (R367). -/
def execGearChangeDone (c : ClockIx) (s : State) : Host.Outcome State Fault Refusal := .next (s.clocked (fun s => s.changeDone c))

/-- CORE_WAKE_DONE: the gap of R86 begins after the wake (R368). -/
def State.wakeDone (s : State) (c : Nat) : State :=
  match (s.clockOf c).waking with
  | none => s
  | some (g, t) =>
    let s := s.upTo t
    let s := s.modClock c (fun k => { k with gear := BitVec.ofNat 4 g, waking := none, idleSince := s.now })
    (if c < 256 then s.modCore c (fun k => { k with boundaryAt := max k.boundaryAt t }) else s).retarget c

/-- CORE_WAKE_DONE (R368). -/
def execCoreWakeDone (c : ClockIx) (s : State) : Host.Outcome State Fault Refusal := .next (s.clocked (fun s => s.wakeDone c))

/-- FREEWHEEL_ENTER: 1 us without a block or a candidate (R368). -/
def State.freewheel (s : State) (c : Nat) : State :=
  let k := s.clockOf c
  if s.wanted c || k.change.isSome || k.waking.isSome || k.gear == 0 then s
  else (s.upTo (k.idleSince + usTicks)).modClock c (fun k => { k with gear := 0, waiting := false })

/-- FREEWHEEL_ENTER (R368). -/
def execFreewheelEnter (c : ClockIx) (s : State) : Host.Outcome State Fault Refusal := .next (s.clocked (fun s => s.freewheel c))

/-- A clock waits for admission: of a rise, or, in freewheel, to wake for a reason of R368. -/
def State.awaits (s : State) (c : Nat) : Bool :=
  let k := s.clockOf c
  if k.gear = 0 then s.wanted c && k.waking.isNone && k.change.isNone else k.waiting

/-- Clocks of a cluster that wait for admission, each with its gear and the steps it adds (R369). -/
def State.waiters (s : State) (cl : Nat) : List (Nat × Nat × Nat) :=
  (clusterClocks cl).filterMap (fun c =>
    if s.awaits c then (s.riseTo c).map (fun g => (c, g, g - (s.clockOf c).gear.toNat)) else none)

/-- A waiting clock is admitted: it wakes or its gear rises (R367, R368). -/
def State.admitCore (s : State) (c g : Nat) : State :=
  if (s.clockOf c).gear = 0 then s.modClock c (fun k => { k with waiting := false, waking := some (g, s.now + 200 * nsTicks) })
  else s.startChange c g

/-- Steps admitted on a die within the 100 ns before t, and admissions that still count then (R369). -/
def DieClock.recent (k : DieClock) (t : Nat) : List (Nat × Nat) := k.admits.filter (fun a => decide (t < a.1 + 100 * nsTicks))
def DieClock.admitted (k : DieClock) (t : Nat) : Nat := ((k.recent t).map (·.2)).sum

/-- The clusters of a die in turn: each that waits, and whose total fits what 256 steps leave, is admitted (R369). -/
def State.admitSteps (d : Nat) : List Nat → State → State
  | [], s => s
  | i :: rest, s =>
    let w := s.waiters (4 * d + i)
    let steps := (w.map (fun x => x.2.2)).sum
    if !w.isEmpty && decide ((s.clocks.die d).admitted s.now + steps ≤ 256) then
      let s := each w (fun x s => s.admitCore x.1 x.2.1) s
      State.admitSteps d rest { s with clocks := s.clocks.modDie d (fun k => { k with admits := k.recent s.now ++ [(s.now, steps)], lastCluster := i }) }
    else State.admitSteps d rest s

/-- One pass over a die's clusters from the one after the cluster admitted last (R369). -/
def State.admitPass (s : State) (d : Nat) : State :=
  State.admitSteps d ((List.range 4).map (fun i => ((s.clocks.die d).lastCluster + 1 + i) % 4)) s

/-- Admission on a die: of what fits now; where nothing that waits fits, of what fits as the oldest admission leaves the window (R369). -/
def State.admission (d : Nat) : Nat → State → State
  | 0, s => s
  | n + 1, s =>
    let t := s.admitPass d
    if (t.clocks.die d).admits != (s.clocks.die d).admits || (List.range 4).all (fun i => (s.waiters (4 * d + i)).isEmpty) then t
    else
      match ((s.clocks.die d).recent s.now).head? with
      | none => s
      | some a => State.admission d n (s.upTo (a.1 + 100 * nsTicks))

/-- ADMISSION_WINDOW on a die. -/
def State.admissionWindow (s : State) (d : Nat) : State := State.admission d ((s.clocks.die d).admits.length + 1) s

/-- ADMISSION_WINDOW (R369). -/
def execAdmissionWindow (d : DieIx) (s : State) : Host.Outcome State Fault Refusal := .next (s.clocked (fun s => s.admissionWindow d))

def gearForm : CmdForm :=
  { code := 0x0003, len := .fixed 36, pf0 := true, masks := List.replicate 8 0xFFFFFFFF ++ [0xF]
    range := fun q => if q.u32 0x20 % 16 = 0 then [0x20] else [] }

/-- The driver's gear of each core in the mask (R84, R366). -/
def gearRow (q : Req) (s : State) : State × Answer :=
  let g := BitVec.ofNat 4 (q.u32 0x20)
  (each (bitsOf 256 (leNat (q.params.take 32))) (fun c s => (s.modClock c (fun k => { k with driverGear := g })).retarget c) s, {})

/-- GEAR_REQUEST (R366). -/
def execGearRequest (f : Fn) (m : Mb) (s : State) : Host.Outcome State Fault Refusal := .next (s.serve f m gearForm gearRow)

def envelopeForm : CmdForm :=
  { code := 0x0004, len := .fixed 4, pf0 := true, masks := [0xFFFF]
    range := fun q => if q.u32 0 < 450 ∨ 700 < q.u32 0 then [0] else [] }

def envelopeRow (q : Req) (s : State) : State × Answer := ({ s with clocks := { s.clocks with envelopeW := BitVec.ofNat 16 (q.u32 0) } }, {})

/-- ENVELOPE_SET (R370). -/
def execEnvelopeSet (f : Fn) (m : Mb) (s : State) : Host.Outcome State Fault Refusal := .next (s.serve f m envelopeForm envelopeRow)

/-- Envelope in force, in watts (R370, R430). -/
def State.envelope (s : State) : Nat :=
  if s.clocks.brake && s.rst.pins.gpioDriven then min s.clocks.envelopeW.toNat 450 else s.clocks.envelopeW.toNat

/-- One gear less, not below G1. -/
def lower (g : Nat) : Nat := max 1 (g - 1)

/-- New power cap of a die from one sample (R370). -/
def powerCapNext (cap : Nat) (above rail rise : Bool) : Nat :=
  let c := if above then lower cap else cap
  let c := if rail then lower c else c
  if rise then min 15 (c + 1) else c

/-- A held temperature after a reading (R371). -/
def holdTemp (held now : Nat) : Nat := if held < now then now else if now + 2 ≤ held then now else held

/-- A held temperature crosses a threshold: none, or whether upwards. -/
def crosses (th old new : Nat) : Option Bool :=
  if old < th ∧ th ≤ new then some true else if new < th ∧ th ≤ old then some false else none

/-- THERMAL entry on PF0's ring (R374). -/
def State.thermal (s : State) (trigger ix arg1 cap : Nat) (fall : Bool) : State :=
  s.event 0 0 srcDevice 6 { arg0 := trigger + 256 * ix, arg1 := arg1, arg2 := cap + 16 * b2n fall }

/-- The regulator of a die after its caps move: a higher setpoint is asked for at once, and until it is reported a rise holds back admission; a lower one waits until the gears have fallen (R426). -/
def DieClock.askVolts (k : DieClock) (mv old new now : Nat) : DieClock :=
  { k.ask (max k.targetMv mv) now with avsHold := if old < new then some (min old (k.avsHold.getD 15)) else k.avsHold }

/-- Maximum currents of the twelve rails in tenths of an ampere, in the order VCORE_0 to VCORE_3, VSRAM, VHUB, VMEM_CORE, VMEM_IO, VMEM_PP, VOPT, VAO, V1P8 (Table 21.2). -/
def railTenths : List Nat := [2200, 2200, 2200, 2200, 1200, 1000, 1300, 1200, 200, 150, 2, 40]

/-- Rail r carries more than its limit; currents in sixteenths of an ampere. -/
def railOver (rails16 : List Nat) (r : Nat) : Bool := decide (16 * railTenths.getD r 0 < 10 * rails16.getD r 0)

/-- Power caps after a sample (R370). -/
def ClockState.sampleCaps (k : ClockState) (envelopeW packageMw : Nat) (rails16 : List Nat) : ClockState :=
  let above := decide (1000 * envelopeW < packageMw)
  let under := decide (100 * packageMw < 95 * 1000 * envelopeW) && !(List.range 12).any (railOver rails16)
  let n := if under then k.underCount + 1 else 0
  let rise := decide (64 ≤ n)
  { k with
    underCount := if rise then 0 else n
    dies := each (List.range 4) (fun d t => tmod {} t d (fun x => { x with
      powerCap := BitVec.ofNat 4 (powerCapNext x.powerCap.toNat above (railOver rails16 d) rise), overRail := railOver rails16 d })) k.dies }

/-- Temperatures and sums after a sample (R371, R372, R376). -/
def ClockState.sampleTemps (k : ClockState) (packageMw : Nat) (dieMw rails16 stackC junctionC : List Nat) : ClockState :=
  { k with
    packageMw := packageMw
    stackHeld := each (List.range 20) (fun i t => tmod 0 t i (fun h => holdTemp h (stackC.getD i 0))) k.stackHeld
    junctionHeld := each (List.range 16) (fun i t => tmod 0 t i (fun h => holdTemp h (junctionC.getD i 0))) k.junctionHeld
    stackNow := each (List.range 20) (fun i t => tset 0 t i (stackC.getD i 0)) k.stackNow
    junctionNow := each (List.range 16) (fun i t => tset 0 t i (junctionC.getD i 0)) k.junctionNow
    means := { samples := k.means.samples + 1, packageMw := k.means.packageMw + packageMw
               dieMw := each (List.range 4) (fun i t => tmod 0 t i (· + dieMw.getD i 0)) k.means.dieMw
               vcore16 := each (List.range 4) (fun i t => tmod 0 t i (· + rails16.getD i 0)) k.means.vcore16 } }

/-- CAPPED_NS after time went on to `now` under the old caps (R376). -/
def DieClock.capTime (k : DieClock) (now cap : Nat) : DieClock :=
  { k with
    cappedNs := match k.cappedSince with
      | some t => k.cappedNs + BitVec.ofNat 64 ((now - t) / nsTicks)
      | none => k.cappedNs
    cappedSince := if cap < 15 then some now else none }

/-- THERMAL entries for the thresholds crossed between two states of the sensors (R374). -/
def State.thermalCrossings (s : State) (old : ClockState) : State :=
  let k := s.clocks
  let s := each (List.range 20) (fun i s =>
    let a := tget 0 old.stackHeld i
    let b := tget 0 k.stackHeld i
    let cap := if i < 8 then k.memCap (i / 2) else 15
    each [85, 95] (fun th s => match crosses th a b with
      | some up => s.thermal 0 i b cap up
      | none => s) s) s
  each (List.range 16) (fun i s =>
    match crosses 100 (tget 0 old.junctionHeld i) (tget 0 k.junctionHeld i) with
    | some up => s.thermal 1 i (tget 0 k.junctionHeld i) (k.junctionCap i) up
    | none => s) s

/-- One sample of the kettle, at the next microsecond (R370 to R372, R426). Refresh stays doubled until the reading has fallen below 95 °C with the hold (Table 17.5, 3,100 us). THROTTLE follows the caps while the firmware drives it (R430); through a reset it is held (R380). -/
def State.kettle (s : State) (packageMw : Nat) (dieMw rails16 stackC junctionC : List Nat) : State :=
  let s := s.upTo ((s.now / usTicks + 1) * usTicks)
  let old := s.clocks
  let k := ({ old with envelopeNow := s.envelope }.sampleCaps s.envelope packageMw rails16).sampleTemps packageMw dieMw rails16 stackC junctionC
  let k := each (List.range 4) (fun d (k : ClockState) =>
    k.modDie d (fun x => ((x.capTime s.now (k.dieCap d)).askVolts (s.rst.gearMv d (k.dieCap d)) (old.dieCap d) (k.dieCap d) s.now))) k
  let s := { s with
    clocks := k
    mem := { s.mem with stackRecs := each (List.range 20) (fun i t => tmod {} t i (fun r =>
      { r with temperature := BitVec.ofNat 8 (stackC.getD i 0), refreshDoubled := decide (95 ≤ tget 0 k.stackHeld i) })) s.mem.stackRecs }
    rst := { s.rst with pins := { s.rst.pins with throttle := if s.rst.ready && s.rst.pins.gpioDriven then (List.range 4).any (fun d => decide ((k.die d).powerCap.toNat < 15)) else s.rst.pins.throttle } } }
  each (List.range 4) (fun d s => s.lowerVolts d) (s.thermalCrossings old).retargetAll

/-- KETTLE_SAMPLE (R370). -/
def execKettleSample (packageMw : Nat) (dieMw rails16 stackC junctionC : List Nat) (s : State) : Host.Outcome State Fault Refusal :=
  .next (s.clocked (fun s => s.kettle packageMw dieMw rails16 stackC junctionC))

/-- Once a second while a power cap stands below G15: an entry about the first such die (R374; log 17). -/
def State.capReminder (s : State) : State :=
  match (List.range 4).find? (fun d => decide ((s.clocks.die d).powerCap.toNat < 15)) with
  | none => s
  | some d =>
    let s := s.upTo s.clocks.reminderAt
    let x := s.clocks.die d
    { s with clocks := { s.clocks with reminderAt := s.now + 1000 * msTicks } }.thermal (if x.overRail then 3 else 2) d (s.clocks.packageMw / 1000) x.powerCap.toNat true

/-- THERMAL_CAP_REMINDER (R374). -/
def execThermalCapReminder (s : State) : Host.Outcome State Fault Refusal := .next (s.clocked State.capReminder)

/-- A stack at 105 °C or a junction at 120 °C, as the always-on domain reads them: every clock stops but its own and the memory controllers', which put their stacks in self-refresh (R373). -/
def State.trip (s : State) (stackC junctionC : List Nat) : State :=
  if stackC.any (fun t => decide (105 ≤ t)) || junctionC.any (fun t => decide (120 ≤ t)) then
    { s with
      clocks := { s.clocks with thermtrip := true }
      mem := { s.mem with selfRefresh := true }
      rst := { s.rst with pins := { s.rst.pins with faultN := false } } }
  else s

/-- THERMTRIP (R373, R409). -/
def execThermtrip (stackC junctionC : List Nat) (s : State) : Host.Outcome State Fault Refusal := .next (s.trip stackC junctionC)

/-- BRAKE_N_INPUT (R430). -/
def execBrakeNInput (low : Bool) (s : State) : Host.Outcome State Fault Refusal := .next { s with clocks := { s.clocks with brake := low } }

/-- The regulator reports the setpoint asked for (R426). -/
def State.setpointReached (s : State) (d : Nat) : State :=
  each (dieClocks d) (fun c s => s.retarget c)
    { s with clocks := s.clocks.modDie d (fun k => { k with setpointMv := k.targetMv, avsHold := none, voltCap := none }) }

/-- AVS_SETPOINT_REACHED (R426). -/
def execAvsSetpointReached (d : DieIx) (s : State) : Host.Outcome State Fault Refusal := .next (s.clocked (fun s => s.setpointReached d))

/-- No acknowledgement of the setpoint asked for within 1 ms, or 1 ms after the last retry: the cap is left at the highest gear the reported voltage supports (R426). -/
def State.avsRetry (s : State) (d mv : Nat) : State :=
  let k := s.clocks.die d
  if k.targetMv = k.setpointMv then s else
  let s := s.upTo (k.askedAt + msTicks)
  let g := ((List.range 15).map (· + 1)).foldl (fun g x => if s.rst.gearMv d x ≤ mv then x else g) 1
  each (dieClocks d) (fun c s => s.retarget c) { s with clocks := s.clocks.modDie d (fun k => { k with setpointMv := mv, askedAt := s.now, avsHold := none, voltCap := some g }) }

/-- AVS_RETRY (R426). -/
def execAvsRetry (d : DieIx) (reportedMv : Nat) (s : State) : Host.Outcome State Fault Refusal := .next (s.clocked (fun s => s.avsRetry d reportedMv))

/-- Mean of n samples. -/
def mean (sum n : Nat) : Nat := if n = 0 then 0 else sum / n

/-- The snapshot fields from 0x040 to 0x1B7 (Table 17.4). -/
def State.snapshotBytes (s : State) : List Byte :=
  let k := s.clocks
  let n := k.means.samples
  natLe 4 (mean k.means.packageMw n) ++ natLe 2 k.envelopeNow ++ natLe 2 (b2n k.aoInternal)
    ++ (List.range 4).flatMap (fun d => natLe 4 (mean (tget 0 k.means.dieMw d) n))
    ++ (List.range 4).flatMap (fun d => natLe 4 ((k.die d).powerCap.toNat + 16 * k.memCap d + 256 * k.dieJunctionCap d))
    ++ (List.range 20).flatMap (fun i => natLe 1 (tget 0 k.stackNow i)) ++ natLe 4 0
    ++ (List.range 16).flatMap (fun i => natLe 1 (tget 0 k.junctionNow i))
    ++ (List.range 256).flatMap (fun c => natLe 1 ((s.core c).clock.gear.toNat + 16 * s.capOf c))
    ++ (List.range 4).flatMap (fun d => natLe 8 (((k.die d).capTime s.now 15).cappedNs.toNat))
    ++ (List.range 4).flatMap (fun d => natLe 2 (mean (tget 0 k.means.vcore16 d) n))

/-- SNAP_SEQ after a refresh: even again, and it stays at its last even value rather than wrap (R351, R421; log 53). -/
def snapNext (x : W32) : W32 := if x = 0xFFFFFFFE then x else x + 2

/-- The snapshot page is rewritten at the next multiple of 100 us; SNAP_SEQ goes odd and even again (R351). -/
def State.snapshot (s : State) : State :=
  let s := s.upTo ((s.now / (100 * usTicks) + 1) * (100 * usTicks))
  { s with
    host := { s.host with snapshot := setBytes 0 s.host.snapshot 0x40 s.snapshotBytes, snapSeq := snapNext s.host.snapSeq }
    clocks := { s.clocks with means := {} } }

/-- SNAPSHOT_REFRESH (R351, R376). -/
def execSnapshotRefresh (s : State) : Host.Outcome State Fault Refusal := .next (s.clocked State.snapshot)

end Sys2Proof.Machine
end

