-- ==== Sys2Proof/Machine/Spares.lean ====
section
/-! DEFINITION. Spares and errors of cores, on-die arrays and die links (R19 to R26, R408 to R417): the spare inventory, retirement of slots, logical cores that move or become unavailable, steeping, row repair, lane sparing. -/

namespace Sys2Proof.Machine

def SvcState.err (v : SvcState) (u : Nat) : ErrRec := tget {} v.errs u
def SvcState.modErr (v : SvcState) (u : Nat) (f : ErrRec → ErrRec) : SvcState := { v with errs := tmod {} v.errs u f }
def SvcState.modSpares (v : SvcState) (cl : Nat) (f : Spares → Spares) : SvcState := { v with spares := tmod {} v.spares cl f }

/-- ALERT_N follows EXHAUSTED and STACKS_FAILING (R409). -/
def State.alert (s : State) : State :=
  { s with rst := { s.rst with pins := { s.rst.pins with alertN := s.svc.exhausted == 0 && s.mem.stackRecs.all (fun r => !r.2.failing) } } }

/-- A spare of a kind has run out (R415). -/
def State.spareOut (s : State) (kind ix : Nat) (lost : Bool) : State :=
  ({ s with svc := { s.svc with exhausted := s.svc.exhausted ||| BitVec.ofNat 8 (2 ^ kind) } }.alert).event 0 0 srcDevice 3
    { status := stSpareExhausted, arg0 := kind, arg1 := ix, arg2 := b2n lost }

/-- A recorded item of the tandem store changes: a write is due (R390). -/
def State.recordItem (s : State) (f : TandemConfig → TandemConfig) : State :=
  { s with rst := { s.rst with config := f s.rst.config, gathered := true } }

/-- A logical core becomes unavailable (R22). -/
def State.loseCore (s : State) (c : Nat) : State := { s with cores := { s.cores with unavailable := insertNat c s.cores.unavailable } }

/-- A spare's logical core moves onto a slot. -/
def Spares.bind (p : Spares) (i slot : Nat) : Spares := { p with map := modAt p.map i (fun _ => slot) }

/-- The slot of a cluster that holds no logical core stops steeping: its idle time begins (R368). -/
def State.spareIdle (s : State) (cl : Nat) : State := (s.modClock (256 + cl) (fun k => { k with idleSince := s.now })).retarget (256 + cl)

/-- A cluster has no spare left: what steepings were requested in it end with SPARE_EXHAUSTED, about the slot each ran or would run on (R413, R417; DEDUCED, log 51). -/
def State.endRequests (s : State) (cl : Nat) : State :=
  let mine (r : SteepReq) : Bool := r.kind == 0 && r.target / 16 == cl
  each (s.svc.requests.filter mine) (fun r s =>
    s.commandEntry r.cmd { status := stSpareExhausted, arg0 := 1, arg1 := if r.running then r.slot else s.svc.slotOf r.target })
    { s with svc := { s.svc with requests := s.svc.requests.filter (fun r => !mine r) } }

/-- A physical slot is retired (R412, R413): recorded; if it was the spare, the cluster has none; if it held a logical core, the core moves to the spare, or becomes unavailable. -/
def State.retireSlot (s : State) (cl slot reason : Nat) : State :=
  let p := s.svc.sparesOf cl
  if p.retired.contains slot then s
  else
    let s := s.recordItem (fun t => { t with retiredSlots := insertNat (17 * cl + slot) t.retiredSlots })
    let s := { s with svc := (s.svc.modErr cl (fun e => { e with lastRetiredSlot := BitVec.ofNat 5 slot, lastRetireReason := BitVec.ofNat 3 reason })).modSpares cl (fun p => { p with retired := insertNat slot p.retired }) }
    match p.spare with
    | some sp =>
      let moved := if sp = slot then p else p.bind (p.map.idxOf slot) sp
      let s := { s with svc := s.svc.modSpares cl (fun p => { p with map := moved.map, spare := none, spareReady := false }) }
      ((if sp = slot then s.spareIdle cl else s.moveCore (16 * cl + p.map.idxOf slot)).spareOut 0 cl false).endRequests cl
    | none => if p.map.contains slot then (s.loseCore (16 * cl + p.map.idxOf slot)).spareOut 0 cl true else s

/-- The logical core's swap is made at its boundary (R20, R413, R416); a rolling one finds the spare ready, or is off until a steeping passes again. -/
def State.applySwap (s : State) (c : Nat) : State :=
  let k := s.core c
  if k.run.isSome then s
  else
    match k.swap with
    | none => s
    | some cause =>
      let cl := clusterOf c
      let p := s.svc.sparesOf cl
      let slot := s.svc.slotOf c
      let s := s.modCore c (fun k => { k with swap := none })
      match cause with
      | .wear reason => s.retireSlot cl slot reason
      | .rolling =>
        match p.spare.filter (fun _ => p.spareReady) with
        | some sp =>
          State.moveCore { s with svc := s.svc.modSpares cl (fun p =>
            { p with map := (p.bind (c % 16) sp).map, spare := some slot, spareReady := false, turn := (c % 16 + 1) % 16, first := p.first.erase (c % 16) }) } c
        | none => s.retarget c
      | .command =>
        match p.spare with
        | some sp => State.moveCore { s with svc := s.svc.modSpares cl (fun p => { p with map := (p.bind (c % 16) sp).map, spare := some slot, spareReady := false }) } c
        | none => s.retarget c

/-- A kind 0 request whose target has left its slot: the steeping runs there (R417). -/
def State.startRequest (s : State) (c : Nat) : State :=
  let slot := ((s.svc.sparesOf (clusterOf c)).spare).getD 16
  { s with svc := { s.svc with requests := mapIf (fun r => r.kind == 0 && r.target == c && !r.running) (fun r => { r with slot := slot, running := true }) s.svc.requests } }

/-- SPARE_SWAP_APPLIED (R20). -/
def execSpareSwapApplied (c : CoreIx) (s : State) : Host.Outcome State Fault Refusal :=
  .next (s.clocked (fun s => if (s.core c).swap = some .rolling ∧ (s.core c).run = none then ((s.applySwap c).startRequest c).retarget c else s.applySwap c))

/-- A core check in a running block (R408, R412): the block ends, the slot is retired at its boundary. -/
def State.coreCheck (s : State) (c : Nat) : State :=
  let s := s.settle c s.now
  match (s.core c).run with
  | none => s
  | some _ =>
    let s := { s with svc := s.svc.modErr (clusterOf c) (fun e => { e with coreChecks := satAdd e.coreChecks 1 }) }
    (s.endBlock c s.now (blockFault faultCoreCheck)).modCore c (fun k => k.dueSwap (.wear 2))

/-- CORE_CHECK_FAULT (R408). -/
def execCoreCheckFault (c : CoreIx) (s : State) : Host.Outcome State Fault Refusal := .next (s.clocked (fun s => s.coreCheck c))

/-- The logical core that moves onto a spare that has passed: a requested one, else the next in turn (R416, R417). -/
def Spares.nextCore (p : Spares) : Nat := (p.first.head?).getD p.turn

/-- The requests a slot's steeping was for end with a pass (R417). -/
def State.endSlotRequests (s : State) (cl slot : Nat) : State :=
  let mine (r : SteepReq) : Bool := r.kind == 0 && r.running && r.target / 16 == cl && r.slot == slot
  each (s.svc.requests.filter mine) (fun r s => s.commandEntry r.cmd { arg1 := slot })
    { s with svc := { s.svc with requests := s.svc.requests.filter (fun r => !mine r) } }

/-- The patterns of a cluster's steeping pause: a cap of R366 stands below the slot's trim cap (R416). -/
def State.steepPaused (s : State) (cl : Nat) : Bool := decide (s.capOf (256 + cl) < s.rst.trimCap cl (s.svc.clockSlot (256 + cl)))

/-- The steeping of a cluster's spare, whose clock runs and whose patterns do not pause, ends (R416). -/
def State.steepingDone (s : State) (cl : Nat) (patterns : Bool) (margin : Nat) : State :=
  let p := s.svc.sparesOf cl
  match p.spare with
  | none => s
  | some slot =>
    if !s.steeps cl || s.steepPaused cl || (s.clockOf (256 + cl)).gear == 0 then s
    else if patterns && decide (5 ≤ margin) then
      let s := State.spareIdle { s with svc := (s.svc.modErr cl (fun e => { e with steepPasses := satAdd e.steepPasses 1 })).modSpares cl (fun p => { p with spareReady := true }) } cl
      let c := 16 * cl + p.nextCore
      ((s.endSlotRequests cl slot).modCore c (fun k => k.dueSwap .rolling)).retarget c
    else
      let s := { s with svc := s.svc.modErr cl (fun e => { e with steepFails := satAdd e.steepFails 1 }) }
      s.retireSlot cl slot (if patterns then 3 else 1)

/-- STEEPING_DONE (R416). -/
def execSteepingDone (cl : ClusterIx) (patternsPass : Bool) (marginPercent : Nat) (s : State) : Host.Outcome State Fault Refusal :=
  .next (s.clocked (fun s => s.steepingDone cl patternsPass marginPercent))

def spareSwapForm : CmdForm := { code := 0x0A02, len := .fixed 4, pf0 := true, masks := [0xFF] }

def spareSwapRow (q : Req) (s : State) : State × Answer :=
  let c := q.u32 0 % 256
  if (s.svc.sparesOf (clusterOf c)).spare.isNone then (s, { status := stSpareExhausted })
  else ((s.modCore c (fun k => k.dueSwap .command)).retarget c, {})

/-- SPARE_SWAP (R20). -/
def execSpareSwap (f : Fn) (m : Mb) (s : State) : Host.Outcome State Fault Refusal := .next (s.serve f m spareSwapForm spareSwapRow)

def FabricState.port (x : FabricState) (p : Nat) : Port := tget {} x.ports p
def FabricState.modPort (x : FabricState) (p : Nat) (f : Port → Port) : FabricState := { x with ports := tmod {} x.ports p f }

/-- Targets of a kind of requested steeping (Table 20.6). -/
def steepTargets : Nat → Nat
  | 0 => 256
  | 1 => 8
  | 2 => 4
  | _ => 20

def steepForm : CmdForm :=
  { code := 0x0A01, len := .fixed 8, pf0 := true, masks := [3, 0xFFFFFFFF]
    range := fun q => if steepTargets (q.u32 0 % 4) ≤ q.u32 4 then [4] else [] }

def steepRow (q : Req) (s : State) : State × Answer :=
  let kind := q.u32 0 % 4
  let t := q.u32 4
  if s.svc.requests.any (fun r => r.kind == kind && r.target == t) then (s, busy)
  else if (kind = 0 ∧ (s.svc.sparesOf (t / 16)).spare = none) ∨ (kind = 2 ∧ ((s.fabric.port t).spare = 7)) then (s, { status := stSpareExhausted })
  else
    let s := { s with svc := { s.svc with requests := s.svc.requests ++ [{ kind := kind, target := t, cmd := q.cmd }] } }
    (if kind = 0 then State.retarget { s with svc := s.svc.modSpares (t / 16) (fun p => { p with first := p.first ++ [t % 16] }) } t else s, { status := stSelftestDeferred })

/-- STEEP_REQUEST (R417). -/
def execSteepRequest (f : Fn) (m : Mb) (s : State) : Host.Outcome State Fault Refusal := .next (s.serve f m steepForm steepRow)

/-- Rows of stack k that have been repaired, and whether its one spare lane is in use, as the tandem store records them (R173, R389). -/
def TandemConfig.rowsOf (t : TandemConfig) (k : Nat) : Nat := (t.repairs.filter (fun r => r.1 == k && r.2.2 % 2 == 0)).length
def TandemConfig.laneUsed (t : TandemConfig) (k : Nat) : Bool := t.repairs.any (fun r => r.1 == k && r.2.2 % 2 == 1)

def State.modStack (s : State) (k : Nat) (f : StackRec → StackRec) : State := { s with mem := { s.mem with stackRecs := tmod {} s.mem.stackRecs k f } }

/-- The last spare row (kind 4) or the spare lane (kind 5) of stack k is in use: it is FAILING, and PF0 is told once (R173, R415). -/
def State.stackOut (s : State) (kind k : Nat) : State := (s.modStack k (fun r => { r with failing := true })).spareOut kind k false

/-- A worn row or lane of stack k finds no spare left: the stack is FAILING, if it is not yet so (R173). -/
def State.noSpare (s : State) (kind k : Nat) : State := if (s.mem.stackRec k).failing then s else s.stackOut kind k

/-- A lane of a stack is remapped to its spare lane, if that is still free (R173). -/
def State.remapLane (s : State) (k pseudo lane : Nat) : State :=
  if s.rst.config.laneUsed k then s.noSpare 5 k
  else
    ((s.modStack k (fun r => { r with lanesRepaired := satAdd r.lanesRepaired 1 })).recordItem
      (fun t => { t with repairs := t.repairs ++ [(k, pseudo, 2 * lane + 1)] })).stackOut 5 k

/-- Stack, pseudo-channel and grain index that hold a grain. -/
def MemState.stackPlace (m : MemState) (a : Nat) : Nat × Nat × Nat :=
  match placeOf a with
  | .pannier _ => (8 + (m.placePannier a).1, (m.placePannier a).2)
  | _ => ((m.placeFast a).1 / 64, (m.placeFast a).1 % 64, (m.placeFast a).2)

/-- A row of stack k is repaired from its spare rows, if one is left (R173, R415). -/
def State.repairRow (s : State) (k pseudo row : Nat) : State :=
  let n := s.rst.config.rowsOf k + 1
  if n ≤ Config.stackRows k then
    let s := (s.modStack k (fun r => { r with rowsRepaired := satAdd r.rowsRepaired 1 })).recordItem (fun t => { t with repairs := t.repairs ++ [(k, pseudo, 2 * row)] })
    if n = Config.stackRows k then s.stackOut 4 k else s
  else s.noSpare 4 k

/-- Corrected symbols counted against their row; the fourth within a scrub pass has it repaired (R173). -/
def State.noteRow (s : State) (a : Nat) (symbols : Nat) : State :=
  let x := s.mem.stackPlace a
  let row := Config.rowOf x.1 x.2.1 x.2.2
  let key := 2 ^ 40 * x.1 + row
  let n := tget 0 s.mem.rowErrors key + symbols
  if n < 4 then { s with mem := { s.mem with rowErrors := tset 0 s.mem.rowErrors key n } }
  else { s with mem := { s.mem with rowErrors := tset 0 s.mem.rowErrors key 0 } }.repairRow x.1 x.2.1 row

/-- A read's eight bursts and its corrected symbols counted against their lanes; a lane whose second corrected symbol falls into one window of 2^20 bursts of its pseudo-channel is remapped (R173; DESIGN CHOICE, log 47: the spec gives the rate and no window). -/
def State.noteLanes (s : State) (a : Nat) (places : List Nat) : State :=
  let x := s.mem.stackPlace a
  let key := 64 * x.1 + x.2.1
  let n := tget 0 s.mem.laneBursts key + 8
  let counts := each places (fun p t => tmod 0 t (36 * key + p % 36) (· + 1)) s.mem.laneErrors
  let worn := ((places.map (· % 36)).eraseDups).filter (fun l => decide (1 < tget 0 counts (36 * key + l)))
  let kept := if 2 ^ 20 ≤ n then tclear counts (36 * key) (36 * key + 36) else each worn (fun l t => tset 0 t (36 * key + l) 0) counts
  each worn (fun l s => s.remapLane x.1 x.2.1 l)
    { s with mem := { s.mem with laneBursts := tset 0 s.mem.laneBursts key (if 2 ^ 20 ≤ n then 0 else n), laneErrors := kept } }

/-- A read of a grain: the stack's record, the row's count and the lanes' (R169, R171, R173, R186). -/
def State.noteGrain (s : State) (a : Nat) (scrub : Bool) (r : GrainRead) : State :=
  let s := { s with mem := s.mem.note a scrub r.outcome }.noteLanes a r.places
  if r.places.isEmpty then s else s.noteRow a r.places.length

/-- The die-link words of a grain counted in the hub's record (R170, R410): the address recorded of a word that failed twice is its grain's (log 47). -/
def State.noteLinks (s : State) (a : Nat) (t : LinkTrip) : State :=
  { s with svc := s.svc.modErr 16 (fun e =>
      { e with
        correctedWords := satAdd e.correctedWords t.corrected
        coreChecks := satAdd e.coreChecks t.resent
        uncorrectableWords := satAdd e.uncorrectableWords t.failed
        lastUe := if t.failed = 0 then e.lastUe else BitVec.ofNat 41 a
        lastUeUnit := if t.failed = 0 then e.lastUeUnit else 6
        lastUeSlot := if t.failed = 0 then e.lastUeSlot else 0 }) }

/-- Number of a die-link group (Table 20.4): links 0 to 3 are the ring links with 4 groups, 4 to 7 the hub links with 2. -/
def linkGroup (link group : Nat) : Option Nat :=
  if link < 4 then some (4 * link + group) else if group < 2 then some (16 + 2 * (link - 4) + group) else none

/-- Groups of a link. -/
def groupsOf (link : Nat) : List Nat := (List.range 4).filterMap (linkGroup link)

/-- A link with no groups left is down (R25, R26). -/
def SvcState.linkDown (v : SvcState) (link : Nat) : Bool := (groupsOf link).all (fun j => v.groupsRetired.contains j)

/-- Ring links from die a to die b, in increasing or decreasing die order; ring link i joins DIE_i and DIE_(i + 1) mod 4. -/
def ringLinks (a b : Nat) (up : Bool) : List Nat :=
  if up then (List.range ((b + 4 - a) % 4)).map (fun i => (a + i) % 4) else (List.range ((a + 4 - b) % 4)).map (fun i => (a + 3 - i) % 4)

/-- Ring links that a grain at a physical address crosses from die a to die b (R16); past a lost link it goes the other way round (R25). -/
def SvcState.ringPath (v : SvcState) (a b phys : Nat) : List Nat :=
  let n := (b + 4 - a) % 4
  let up := n == 1 || (n == 2 && !bit phys 8)
  if (ringLinks a b up).any v.linkDown then ringLinks a b (!up) else ringLinks a b up

/-- Links between the hub and a die's fast stacks (R16): its own hub link; with that lost, the hub link of the lower-numbered ring neighbour whose hub link is up, and the way from there (R26). None where neither is up, for which the spec has no way (log 46). -/
def SvcState.hubPath (v : SvcState) (die phys : Nat) : Option (List Nat) :=
  if !v.linkDown (4 + die) then some [4 + die]
  else
    let a := min ((die + 1) % 4) ((die + 3) % 4)
    let b := max ((die + 1) % 4) ((die + 3) % 4)
    if !v.linkDown (4 + a) then some ((4 + a) :: v.ringPath a die phys)
    else if !v.linkDown (4 + b) then some ((4 + b) :: v.ringPath b die phys)
    else none

/-- Links that a fetched grain crosses to a core's die, and a stored one from it (R16). -/
def State.fetchLinks (s : State) (die phys : Nat) : List Nat := s.svc.ringPath (s.mem.stackOf phys / 2) die phys
def State.storeLinks (s : State) (die phys : Nat) : List Nat := s.svc.ringPath die (s.mem.stackOf phys / 2) phys

/-- Links between the hub and the place of a physical address: the controllers of the pannier stacks lie in the hub (R16, R17). -/
def State.hubLinks (s : State) (phys : Nat) : Option (List Nat) :=
  match placeOf phys with
  | .fast _ => s.svc.hubPath (s.mem.stackOf phys / 2) phys
  | _ => some []

/-- A grain delivered to a consumer over these die links (R16, R169, R170, R172): its bytes, or none where it, or a word of it sent twice, is uncorrectable. -/
def State.deliverGrain (s : State) (links : List Nat) (a : Nat) (o : GrainErrors) : State × Option (List Byte) :=
  let r := s.mem.readGrain (a / 256) o.symbols
  let s := s.noteGrain a false r
  if r.outcome = .uncorrectable then (s, none)
  else
    let t := linkTrip r.data (if links.isEmpty then [] else o.words)
    (s.noteLinks a t, if t.failed = 0 then some t.data else none)

/-- Grains of a stack that a DETECT-mode read of all of them finds in error, in address order (R169, R417): those it holds uncorrectable, and those that show these errors. -/
def MemState.scanBad (m : MemState) (k : Nat) (scan : List (Nat × List SymbolError)) : List Nat :=
  (((scan.filter (fun e => m.stackOf e.1 == k && stackDetects (m.raw (e.1 / 256)) e.2)).map (fun e => e.1 / 256)).foldl (fun l g => insertNat g l)
    (m.ue.filter (fun g => m.stackOf (256 * g) == k))).map (256 * ·)

/-- Bytes stored or moved over these die links, as they arrive; `hub` tells whether they pass the hub's SRAM. They meet the words of the links that wait, and of the hub's one found uncorrectable: then, or after a resend that fails too, nothing arrives (R170, R172; log 47). -/
def State.crossLinks (s : State) (links : List Nat) (hub : Bool) (a : Nat) (data : List Byte) : State × Option (List Byte) :=
  if s.svc.transit.isEmpty && s.svc.ueHub.isEmpty then (s, some data) else
  let t := linkTrip data (if links.isEmpty then [] else s.svc.transit)
  let lost := hub && !s.svc.ueHub.isEmpty
  let s := s.noteLinks a t
  ({ s with svc := { s.svc with transit := if links.isEmpty then s.svc.transit else [], ueHub := if hub then s.svc.ueHub.tail else s.svc.ueHub } },
   if t.failed = 0 ∧ lost = false then some (t.data.take data.length) else none)

/-- The end of a requested steeping of kinds 1 to 3 (R417). `result` is 0 for a pass; of kind 1 it is otherwise 1 plus the failed lane of the stack (36 times the pseudo-channel plus the lane). -/
def State.requestDone (s : State) (kind target result : Nat) (scan : List (Nat × List SymbolError)) : State :=
  match s.svc.requests.find? (fun r => r.kind == kind && r.target == target) with
  | none => s
  | some r =>
    if kind = 0 then s
    else
      let s := { s with svc := { s.svc with requests := s.svc.requests.erase r } }
      match kind with
      | 1 =>
        let noLane := decide (result ≠ 0) && s.rst.config.laneUsed target
        let s := if result = 0 then s else s.remapLane target ((result - 1) / 36) ((result - 1) % 36)
        s.commandEntry r.cmd { status := if noLane then stSpareExhausted else stOk, arg0 := min 1 result }
      | 2 =>
        let spoke := (s.fabric.port target).spare.toNat
        let s := if result = 0 then s else ({ s with fabric := s.fabric.modPort target (fun p =>
          { p with spare := 7, spokesGood := p.spokesGood &&& ~~~(BitVec.ofNat 5 (2 ^ spoke)) }) }).spareOut 3 target false
        s.commandEntry r.cmd { status := if result = 0 then stOk else stSpareExhausted, arg0 := min 1 result, arg1 := spoke }
      | _ =>
        let bad := s.mem.scanBad target scan
        s.commandEntry r.cmd { arg0 := bad.length, address := bad.headD 0, kind := 1 }

/-- REQUESTED_STEEPING_DONE (R417). -/
def execRequestedSteepingDone (kind : Fin 4) (target result : Nat) (scan : List (Nat × List SymbolError)) (s : State) : Host.Outcome State Fault Refusal :=
  .next (s.clocked (fun s => s.requestDone kind target result scan))

/-- LAST_UE_UNIT of an array (Table 20.2). -/
def arrUnit : SramArray → Nat
  | .scratchpad => 0
  | .accumulator => 1
  | .clusterCache => 2
  | .syncCounters => 3
  | .translation => 4
  | .hub => 5
  | .dieLink => 6

/-- A worn row is replaced by a spare row of its array, if one is left (R414, R415). -/
def State.replaceRow (s : State) (unit : Nat) (a : SramArray) : State :=
  let key := 4 * unit + arrNum a
  let used := tget 0 s.svc.rowsUsed key
  if used < Config.spareRows unit (arrNum a) then
    let s := { s with svc := { s.svc with rowsUsed := tset 0 s.svc.rowsUsed key (used + 1) } }
    if used + 1 = Config.spareRows unit (arrNum a) then s.spareOut 1 unit false else s
  else s

/-- Repairs that waited for a core's boundary are made (R414). -/
def State.boundaryRepairs (s : State) (c : Nat) : State :=
  let mine (r : RowRepair) : Bool := r.unit == clusterOf c && r.slot == s.svc.slotOf c
  each (s.svc.repairs.filter mine) (fun r s => s.replaceRow r.unit r.arr)
    { s with svc := { s.svc with repairs := s.svc.repairs.filter (fun r => !mine r) } }

/-- Ticks in 24 hours. -/
def dayTicks : Nat := 86400000 * msTicks

/-- Logical core that a physical slot of a cluster holds. -/
def State.coreAt (s : State) (unit slot : Nat) : Option Nat :=
  if unit < 16 then ((s.svc.sparesOf unit).map.findIdx? (fun x => x == slot)).map (16 * unit + ·) else none

/-- The arrays whose rows wear and are replaced (R414). -/
def wears : SramArray → Bool
  | .syncCounters | .translation | .dieLink => false
  | _ => true

/-- A corrected word: counted; the second within 24 hours in a row of an array that wears has the row replaced (R410, R414). -/
def State.correctedWord (s : State) (unit : Nat) (a : SramArray) (slot row : Nat) : State :=
  let s := { s with svc := s.svc.modErr unit (fun e => { e with correctedWords := satAdd e.correctedWords 1 }) }
  let same (w : WornRow) : Bool := w.unit == unit && w.arr == a && w.slot == slot && w.row == row
  if !wears a then s
  else if s.svc.worn.any (fun w => same w && decide (s.now < w.at_ + dayTicks)) then
    let s := { s with svc := { s.svc with worn := s.svc.worn.filter (fun w => !same w) } }
    match a with
    | .scratchpad | .accumulator =>
      match s.coreAt unit slot with
      | some c =>
        let s := { s with svc := { s.svc with repairs := s.svc.repairs ++ [({ unit := unit, arr := a, slot := slot, row := row } : RowRepair)] } }
        if (s.core c).run.isNone then s.boundaryRepairs c else s
      | none => s.replaceRow unit a
    | _ => s.replaceRow unit a
  else { s with svc := { s.svc with worn := s.svc.worn.filter (fun w => !same w) ++ [({ unit := unit, arr := a, slot := slot, row := row, at_ := s.now } : WornRow)] } }

/-- Keys of the two counters of the word at an address of a cluster's sync counters, or the hub's (unit 16). -/
def ctrWord (unit addr : Nat) : Nat := if unit < 16 then 128 * unit + addr / 8 % 128 else 2048 + addr / 8 % 2048
/-- Field that names counter number i of that word to cluster `unit` (R123). -/
def ctrField (unit addr i : Nat) : Nat := if unit < 16 then addr / 8 % 128 * 2 + i else 4096 + addr / 8 % 2048 * 2 + i

/-- A block that slips on a counter of a word found uncorrectable reads it and ends (R170, R172). -/
def State.ctrReaders (s : State) (w : Nat) : State :=
  each (List.range 256) (fun c s =>
    match (s.core c).run.bind (fun r => r.slip) with
    | none => s
    | some sl =>
      if sl.awaits.any (fun a => match a with
        | .counter fld _ _ => ctrKey (clusterOf c) fld / 2 == w
        | _ => false) then s.endBlock c s.now ctrEnding else s) s

/-- Translation number addr / 8 of a cluster's unit. -/
def PageState.tlbAt (p : PageState) (unit addr : Nat) : Option TlbEntry := (tget [] p.tlb unit)[addr / 8]?
def PageState.modTlb (p : PageState) (unit addr : Nat) (f : TlbEntry → TlbEntry) : PageState := { p with tlb := tmod [] p.tlb unit (fun l => modAt l (addr / 8) f) }

/-- An uncorrectable word: recorded (R410); what reads it next meets the error (R172): a core its scratchpad or accumulator, a block its counter, a lookup its translation, a relaxed transfer the hub's SRAM. A line of the cluster cache is fetched again (R170). -/
def State.badOnDieWord (s : State) (unit : Nat) (a : SramArray) (slot addr : Nat) : State :=
  let s := { s with svc := s.svc.modErr unit (fun e =>
    { e with uncorrectableWords := satAdd e.uncorrectableWords 1, lastUe := BitVec.ofNat 41 addr, lastUeUnit := BitVec.ofNat 4 (arrUnit a)
             lastUeSlot := BitVec.ofNat 5 (match a with
               | .scratchpad | .accumulator => slot
               | _ => 0) }) }
  match a, s.coreAt unit slot with
  | .scratchpad, some c => { s with cores := { s.cores with ueSpad := insertNat (spadKeyOf c + addr % 2 ^ 22 / 8 * 8) s.cores.ueSpad } }
  | .accumulator, some c =>
    let k := accKeyOf c + addr / 8 * 2 % 2 ^ 18
    { s with cores := { s.cores with ueAcc := insertNat (k + 1) (insertNat k s.cores.ueAcc) } }
  | .syncCounters, _ => State.ctrReaders { s with share := { s.share with ueCtr := insertNat (ctrWord unit addr) s.share.ueCtr } } (ctrWord unit addr)
  | .translation, _ => { s with pages := s.pages.modTlb unit addr (fun e => { e with bad := true }) }
  | .hub, _ => { s with svc := { s.svc with ueHub := s.svc.ueHub ++ [addr] } }
  | _, _ => s

/-- Data of the word of an on-die array at an address of a slot: what the state holds of it, 0 elsewhere. -/
def State.wordAt (s : State) (unit : Nat) (a : SramArray) (slot addr : Nat) : Nat :=
  match a, s.coreAt unit slot with
  | .scratchpad, some c => leNat (bytesAt 0 s.cores.spad (spadKeyOf c + addr % 2 ^ 22 / 8 * 8) 8)
  | .accumulator, some c =>
    let k := accKeyOf c + addr / 8 * 2 % 2 ^ 18
    (tget 0 s.cores.acc k).toNat + 2 ^ 32 * (tget 0 s.cores.acc (k + 1)).toNat
  | .syncCounters, _ => (s.share.ctr unit (ctrField unit addr 0)).toNat + 2 ^ 32 * (s.share.ctr unit (ctrField unit addr 1)).toNat
  | .translation, _ => ((s.pages.tlbAt unit addr).map TlbEntry.word).getD 0
  | _, _ => 0

/-- A counter of a cluster, or of the hub, takes a value. -/
def ShareState.setCtr (h : ShareState) (unit fld : Nat) (v : W32) : ShareState :=
  if unit < 16 then { h with clusterCtr := tset 0 h.clusterCtr (256 * unit + fld % 256) v } else { h with hubCtr := tset 0 h.hubCtr (fld % 4096) v }

/-- A word reads from now on as the code decodes it (R170). -/
def State.putWord (s : State) (unit : Nat) (a : SramArray) (slot addr data : Nat) : State :=
  match a, s.coreAt unit slot with
  | .scratchpad, some c => { s with cores := { s.cores with spad := setBytes 0 s.cores.spad (spadKeyOf c + addr % 2 ^ 22 / 8 * 8) (natLe 8 data) } }
  | .accumulator, some c =>
    let k := accKeyOf c + addr / 8 * 2 % 2 ^ 18
    { s with cores := { s.cores with acc := tset 0 (tset 0 s.cores.acc k (BitVec.ofNat 32 data)) (k + 1) (BitVec.ofNat 32 (data / 2 ^ 32)) } }
  | .syncCounters, _ =>
    let s := s.chargeAll
    { s with share := (s.share.setCtr unit (ctrField unit addr 0) (BitVec.ofNat 32 data)).setCtr unit (ctrField unit addr 1) (BitVec.ofNat 32 (data / 2 ^ 32)) }
  | .translation, _ => { s with pages := s.pages.modTlb unit addr (fun _ => tlbWord data) }
  | _, _ => s

/-- A die-link word is met wrong by the next grain stored or moved over a link; a second one at its place is its resend (R170; log 47). -/
def SvcState.linkMet (v : SvcState) (addr : Nat) (flips : BitVec 80) : SvcState :=
  let i : Fin 32 := ⟨addr / 8 % 32, Nat.mod_lt _ (by decide)⟩
  if v.transit.any (fun w => w.index == i) then { v with transit := mapIf (fun w => w.index == i) (fun w => { w with again := flips }) v.transit }
  else { v with transit := v.transit ++ [{ index := i, flips := flips, again := 0 }] }

/-- A word of an on-die array is read with bits flipped, from where the word of `from_` stands (R170): it is right, or corrected, or found uncorrectable, or, with four or more flips, decoded to another word. Of the die links, the word waits for its grain. -/
def State.onDieWord (s : State) (unit : Nat) (a : SramArray) (slot row addr from_ : Nat) (flips : BitVec 80) : State :=
  if a = .dieLink then { s with svc := s.svc.linkMet addr flips }
  else
    let d := s.wordAt unit a slot addr
    match wordRead addr from_ d flips with
    | none => s.badOnDieWord unit a slot addr
    | some (x, n) =>
      let s := if x = d then s else s.putWord unit a slot addr x
      if n = 0 then s else s.correctedWord unit a slot row

/-- SRAM_ROW_REPAIR (R414, R410, R170): a word of an on-die array is read through the word code; the wear it shows may have the row replaced. -/
def execSramRowRepair (unit : Fin 17) (a : SramArray) (slot : Fin 17) (row addr from_ : Nat) (flips : BitVec 80) (s : State) : Host.Outcome State Fault Refusal :=
  .next (s.clocked (fun s => s.onDieWord unit a slot row addr from_ flips))

/-- A group of lanes is retired; a hub link without groups cuts its die off, a ring link without groups has grains go the other way round (R23, R25, R26). A block that runs on a core of that die runs on to its own ending: R26 speaks of blocks queued for it alone (DESIGN CHOICE, log 46). -/
def State.retireGroup (s : State) (link group j : Nat) : State :=
  let s := (s.recordItem (fun t => { t with linkLanes := t.linkLanes ++ [(link, true, group)] })).spareOut 2 j true
  let s := { s with svc := { s.svc with groupsRetired := insertNat j s.svc.groupsRetired } }
  if 4 ≤ link ∧ s.svc.linkDown link = true then
    each ((List.range 64).map (64 * (link - 4) + ·)) (fun c s => s.loseCore c) s
  else s

/-- A lane fails: a spare of its group takes its place, or the group is retired (R23, R385). -/
def State.laneFail (s : State) (link group lane : Nat) : State :=
  match linkGroup link group with
  | none => s
  | some j =>
    if s.svc.groupsRetired.contains j then s
    else
      let n := tget 0 s.svc.lanesFailed j + 1
      let spares := if s.rst.trimDefaulted then 0 else 8
      let s := ({ s with svc := { s.svc with lanesFailed := tset 0 s.svc.lanesFailed j n } }).recordItem
        (fun t => { t with linkLanes := t.linkLanes ++ [(link, false, 264 * group + lane)] })
      if spares < n then s.retireGroup link group j else if n = spares then s.spareOut 2 j false else s

/-- DIE_LINK_LANE_FAIL (R23 to R26). -/
def execDieLinkLaneFail (link : Fin 8) (group : Fin 4) (lane : Fin 264) (s : State) : Host.Outcome State Fault Refusal :=
  .next (s.clocked (fun s => s.laneFail link group lane))

end Sys2Proof.Machine
end

