-- ==== Sys2Proof/Machine/Mover.lean ====
section
/-! DEFINITION. The mover: FETCH and STORE (R91, R93, R94, R120, R121, R130), coded streams (R195, R198 to R201), translation walks (R91, R213), grains that land and become visible. -/

namespace Sys2Proof.Machine

/-- First slot at or after a time. -/
def slotFrom (t : Nat) : Nat := 2 * ceilDiv t fabTicks

/-- One iteration of a FETCH or STORE: its virtual or physical address, its scratchpad address, its destination mask. -/
structure MoveIter where
  virt : Int
  spad : Int
  mask : Nat
  deriving DecidableEq, Repr

/-- The unmasked iterations in order (R120, R126, R130). -/
def moveIters (u : UnitCtx) (m : MoverCtl) (store : Bool) (base : Nat) : List MoveIter :=
  u.live.map (fun t =>
    let vo := if store then 1 else 0
    { virt := ((256 * (u.w.op vo % 2 ^ 40) + 256 * base : Nat) : Int) + u.off vo t
      spad := u.spad (1 - vo) t
      mask := if store then 0 else match u.loop with
        | some l => l.mcast m.mask
        | none => m.mask })

/-- The lowest core of a mask outside CORE_MASK, by its local index (R93). -/
def CtxRec.outsideMask (x : CtxRec) (c mask : Nat) : Option Nat :=
  (bitsOf 16 mask).find? (fun l => !x.hasCore (16 * clusterOf c + l))

/-- PARTITION of a mover operation: the first offence in iteration order (R80, R93, R338). -/
def moverPartition (x : CtxRec) (c grains : Nat) (its : List MoveIter) : Option Ending :=
  its.findSome? (fun i =>
    match x.spadBad (i.spad, 256 * grains) with
    | some a => some (blockFault faultPartition 0x10 (wrapInt 62 a) 2)
    | none => (x.outsideMask c i.mask).map (fun l => blockFault faultPartition (0x30 + l) (wrapInt 62 i.spad) 2))

/-- CODED_ALIGN and CODE_TABLE (R195). -/
def codedFault (rec_ : CodeRec) (table : List Byte) (its : List MoveIter) : Option Ending :=
  if its.any (fun i => i.virt % 4096 != 0 || decide (i.virt < rec_.dataBase)) then some (blockFault faultCodedAlign)
  else if table.isEmpty || codeFormat table != rec_.format then some (blockFault faultCodeTable)
  else none

/-- Grains of a plain operation before they are placed (R120). -/
def plainGrains (locateAt : Int → Located) (grains floor : Nat) (its : List MoveIter) : List (MGrain × Located) :=
  its.flatMap (fun i => (List.range grains).map (fun j =>
    let a : Int := i.virt + ((256 * j : Nat) : Int)
    let l := locateAt a
    ({ virt := a, spad := i.spad.toNat + 256 * j, mask := i.mask, floor := floor, walking := l == .walk
       phys := match l with
         | .at_ x => x
         | _ => 0 }, l)))

/-- Metadata grains of blocks b0 to b0 + nb - 1 (R189). -/
def metaGrains (locateAt : Int → Located) (rec_ : CodeRec) (ix floor b0 nb : Nat) : List (MGrain × Located) :=
  let lo := (rec_.metaBase + b0 / 2) / 256
  let hi := (rec_.metaBase + (b0 + nb - 1) / 2) / 256
  (List.range (hi - lo + 1)).map (fun j =>
    let a : Int := (256 * (lo + j) : Nat)
    let l := locateAt a
    ({ virt := a, kind := .metadata ix, floor := floor, walking := l == .walk
       phys := match l with
         | .at_ x => x
         | _ => 0 }, l))

/-- A grain's stack lies over another die than the core, or is not known yet. -/
def remoteGrain (m : MemState) (c : Nat) (g : MGrain) : Bool := g.walking || m.stackOf g.phys / 2 != dieOfCore c

/-- Tm: the bound of Table 4.3 for n grains with g groups, in ticks (R198). -/
def fetchBound (remote : Bool) (n g : Nat) : Nat := ((if remote then 610 else 420) + (ceilDiv n (max g 1) - 1) * 16) * nsTicks

/-- The block a data position belongs to (R198). -/
def positionBlock (budget nb c : Nat) : Nat :=
  (findFrom (fun k => decide (c < ceilDiv ((k + 1) * budget) 16)) 0 nb).getD (nb - 1)

/-- Data positions of a FETCH: Rd slots at or after its starting time (R198). -/
def fetchPositions (groups : List (Nat × Nat)) (held : List Nat) (rec_ : CodeRec) (nb start : Nat) : List (Nat × Nat) :=
  let sl := takeSlots groups start (dataPositions rec_ nb) held
  (sl.zip (List.range sl.length)).map (fun x => (x.1, positionBlock rec_.budget16 nb x.2))

/-- Data positions of a STORE: those of block k at or after issue + 8 fabric cycles + (k + 1) T (R198), and after the excess grains there are (R199). -/
def storePositions (groups : List (Nat × Nat)) (rec_ : CodeRec) (nb issue late : Nat) : Nat → List Nat → List (Nat × Nat)
  | 0, _ => []
  | n + 1, held =>
    let k := nb - (n + 1)
    let count := ceilDiv ((k + 1) * rec_.budget16) 16 - ceilDiv (k * rec_.budget16) 16
    let sl := takeSlots groups (max (issue + 2 * (8 + (k + 1) * codeCycles rec_.format)) late) count held
    sl.map (fun x => (x, k)) ++ storePositions groups rec_ nb issue late n (sl ++ held)

/-- A coded operation's iterations placed in turn: the descriptor's grains and iterations, and the first ending (R195, R198). -/
def codedIters (s : State) (c : Nat) (r : RunBlock) (m : MoverCtl) (rec_ : CodeRec) (store : Bool) (t : Nat) (groups : List (Nat × Nat)) (late : Nat) :
    List MoveIter → Nat → List Nat → (List MGrain × List CodedIter × Option Ending)
  | [], _, _ => ([], [], none)
  | i :: rest, ix, held =>
    let nb := m.grains / 16
    let b0 := (i.virt.toNat - rec_.dataBase) / 4096
    let issue := slotFrom t
    let loc := locate s.mem s.pages c r.fn m.phys true store
    let base : CodedIter := { first := b0, blocks := nb, virt := i.virt.toNat, spad := i.spad.toNat, mask := i.mask, afterExcess := late != 0 }
    let sealed := ((List.range m.grains).map (fun j => loc (i.virt + (256 * j : Nat)))).findSome? (fun l => match l with
      | .bad e => some e
      | _ => none)
    if store then
      let pos := storePositions groups rec_ nb issue late nb held
      let more := codedIters s c r m rec_ store t groups late rest (ix + 1) (pos.map (·.1) ++ held)
      (more.1, { base with positions := pos } :: more.2.1, match sealed with
        | some e => some e
        | none => more.2.2)
    else
      let mg := metaGrains loc rec_ ix (issue + 16) b0 nb
      let rm := ceilDiv nb 512 + 1
      let slots := takeSlots groups (max (issue + 16) late) rm held
      let gs := (mg.zip (List.range mg.length)).map (fun x => { x.1.1 with slot := slots[x.2]?, afterExcess := late != 0 })
      let held := slots ++ held
      let start := slotFrom (t + fetchBound (gs.any (remoteGrain s.mem c)) rm groups.length)
      let pos := fetchPositions groups held rec_ nb (max start late)
      let more := codedIters s c r m rec_ store t groups late rest (ix + 1) (pos.map (·.1) ++ held)
      (gs ++ more.1, { base with positions := pos, idle := slots.drop gs.length } :: more.2.1,
        match (mg.findSome? (fun x => match x.2 with
            | .bad e => some e
            | _ => none)), sealed with
          | some e, _ => some e
          | none, some e => some e
          | none, none => more.2.2)

/-- Code table in force on core c for slot k of function f: a load that has passed its checks is in force where the core has had its boundary (R193). -/
def CoresState.codeTable (x : CoresState) (c f k : Nat) : List Byte :=
  (x.codeLoads.filter (fun l => l.fn == f && l.slot == k && l.rejected.isNone && !l.cores.contains c)).foldl (fun _ l => l.image) (tget [] x.codeTables (16 * f + k))

/-- The descriptor of a FETCH or STORE whose checks have passed, with its grains placed, or the ending its grains meet (R91, R198). -/
def State.newDesc (s : State) (c : Nat) (r : RunBlock) (u : UnitCtx) (m : MoverCtl) (store : Bool) (p : Nat) (its : List MoveIter) : MDesc × Option Ending :=
  let k := s.core c
  let t := r.timeAt k.period p
  let groups := s.share.blockGroups c r.fn r.groups
  let late := k.mover.afterExcess
  let d : MDesc :=
    { id := k.mover.nextId, isStore := store, block := r.ordinal, fn := r.fn, groups := r.groups, phys := m.phys, issueSlot := slotFrom t, coded := m.coded
      addEn := m.addEn, addCtr := m.addCtr, addAmount := m.addAmount }
  if m.coded then
    let rec_ := parseCodeRec u.param
    let x := codedIters s c r m rec_ store t groups late its 0 k.mover.held
    ({ d with codeTable := s.cores.codeTable c r.fn rec_.table, record := u.param, grains := x.1, iters := x.2.1 }, x.2.2)
  else
    let gs := plainGrains (locate s.mem s.pages c r.fn m.phys false store) m.grains (slotFrom t + 16) its
    ({ d with grains := placeAll groups late k.mover.held (gs.map (·.1)) }, gs.findSome? (fun x => match x.2 with
      | .bad e => some e
      | _ => none))

/-- Checks of a FETCH or STORE at its issue, before its grains are looked at. -/
def moverFault (x : CtxRec) (s : State) (c : Nat) (r : RunBlock) (o : UnitOp) (u : UnitCtx) (m : MoverCtl) (p : Nat) (its : List MoveIter) : Option Ending :=
  let rec_ := parseCodeRec u.param
  if r.busy o p then some (blockFault faultUnitBusy)
  else if (u.loop.map (fun l => boundFault l u.bounds)).getD false then some (blockFault faultBound)
  else
    match moverPartition x c m.grains its with
    | some e => some e
    | none =>
      if m.addEn && !x.ownsCtr (clusterOf c) m.addCtr then some (blockFault faultCounterOwner)
      else if m.coded then codedFault rec_ (s.cores.codeTable c r.fn rec_.table) its
      else none

/-- The mover operation as it occupies the mover: one core cycle for each iteration (Table 4.1). -/
def CoreState.moverOp (k : CoreState) (r : RunBlock) (word p : Nat) : UnitOp :=
  let u := unitCtx r.image word (k.sregList.map BitVec.toNat) r.mbounds []
  { unit := .mover, word := word, issue := p, tile := 1, latency := 1, count := u.count, next := u.count, bounds := u.bounds, sregs := k.sregList }

/-- A FETCH or STORE has issued at position p: what windows open then have still to write is held against the scoreboard again (R94). -/
def RunBlock.recheck (r : RunBlock) (p : Nat) : RunBlock :=
  { r with ops := r.ops.map (fun o => { o with
      flight := mapIf (fun q => decide (q.first ≤ p) && decide (p < q.last)) (fun q => { q with opened := false, hold := p + 1 }) o.flight }) }

def moverAct (c : Nat) (store : Bool) (s : State) (r : RunBlock) (word p : Nat) : State :=
  let k := s.core c
  let t := r.timeAt k.period p
  let o := k.moverOp r word p
  let u := o.ctx r.image
  let m := parseMover u.w
  let base := match m.baseReg with
    | some b => (k.sreg b).toNat
    | none => 0
  let its := moveIters u m store base
  if k.mover.full store then s.holdWord c word p (.queue word)
  else
    match moverFault (s.ctxOf r.fn) s c r o u m p its with
    | some e => s.endBlock c t e
    | none =>
      let d := s.newDesc c r u m store p its
      match d.2 with
      | some e => s.endBlock c t e
      | none =>
        let s := (if d.1.phys then s else s.touchPages c d.1.fn d.1.grains).modRun c (fun r => { r with ops := r.liveOps p ++ [o] }.recheck p)
        (s.modCore c (fun k => { k with mover := { k.mover with descs := k.mover.descs ++ [d.1], nextId := k.mover.nextId + 1 } })).finishDescs c

/-- FETCH (R91, R93, R120). -/
def execFetch (c : CoreIx) (s : State) : Host.Outcome State Fault Refusal := .next (s.clocked (fun s => s.issueWord c 0x28 (moverAct c false)))
/-- STORE (R91, R120). -/
def execStore (c : CoreIx) (s : State) : Host.Outcome State Fault Refusal := .next (s.clocked (fun s => s.issueWord c 0x29 (moverAct c true)))

/-- Descriptor d of a core's mover. -/
def State.desc (s : State) (c d : Nat) : Option MDesc := (s.core c).mover.descs.find? (fun x => x.id == d)

/-- Block k of iteration i: none while a grain of it is to come, else its bytes, which it has not where a grain was dropped. -/
def MDesc.blockBytes (d : MDesc) (i k : Nat) : Option (Option (List Byte)) :=
  let gs := d.grains.filter (fun g => g.kind == .coded i k)
  if gs.any (fun g => g.st == .waiting) then none
  else if gs.any (fun g => g.st == .dropped) then some none
  else some (some (gs.flatMap (fun g => g.data)))

/-- Destination cores brought up to now. -/
def State.settleDest (s : State) (c mask : Nat) : State := each (destCores c mask) (fun d s => s.settle d s.now) (s.settle c s.now)

/-- Block k of iteration i is behind the expander: decoded, or passed over. -/
def State.blockPassed (s : State) (c id i : Nat) : State :=
  s.modDesc c id (fun e => { e with iters := modAt e.iters i (fun it => { it with done := it.done + 1 }) })

/-- The expander has taken T over a block, from the landing of its last grain on, the blocks before it first (R196, R200): time goes on to its end, and the destination cores with it. -/
def State.expandTime (s : State) (c : Nat) (d : MDesc) (mask : Nat) : State :=
  let t := max s.now (s.core c).mover.expandFree + d.blockTime
  (((s.upTo t).settleDest c mask).chargeAll).modCore c (fun x => { x with mover := { x.mover with expandFree := t } })

/-- Block k of iteration i has failed (R201): an ending of its block, whose destination keeps nothing of it. Past the block's boundary the operation's ADD is off and the expander goes on (R86). -/
def State.blockDamaged (s : State) (c : Nat) (d : MDesc) (i : Nat) (e : Ending) : State :=
  if s.pastBoundary c d.block then ((s.blockPassed c d.id i).modDesc c d.id (fun e => { e with addEn := false })).lateEnding c d.block e
  else s.endBlock c s.now e

/-- Blocks of iteration i decoded in order as far as they have landed (R196, R201). -/
def State.decodeBlocks (c id i : Nat) : Nat → State → State
  | 0, s => s
  | n + 1, s =>
    match s.desc c id with
    | none => s
    | some d =>
      match d.iters[i]? with
      | none => s
      | some it =>
        if !it.sized || it.blocks ≤ it.done then s
        else
          match d.blockBytes i it.done with
          | none => s
          | some none => State.decodeBlocks c id i n (s.blockPassed c id i)
          | some (some bs) =>
            let s := s.expandTime c d it.mask
            if ((s.desc c id).bind (fun d => d.iters[i]?)).map (fun x => x.done) ≠ some it.done then s
            else
              match expand d.codeTable (it.sizes.getD it.done 15) bs with
              | .ok out => State.decodeBlocks c id i n ((s.writeDest c it.mask (it.spad + 4096 * it.done) s.now out).blockPassed c id i)
              | .error case => State.decodeBlocks c id i n (s.blockDamaged c d i (memEnding stCodedBlock case (it.virt + 4096 * it.done) (b2n d.phys)))

/-- What stores have left to do after an ending, and descriptors that are complete. -/
def State.settleStores (s : State) (c : Nat) : State := ((s.settleCodes c).settleCaught c s.now).finishDescs c

/-- A grain of a descriptor meets an ending: of a block that runs, it ends the block, and the grain is dropped with the others (R99); past the boundary, it alone never moves, and after a failed walk the operation's later grains (R86, R91). -/
def State.grainEnding (s : State) (c : Nat) (d : MDesc) (g : Nat) (walkFailed : Bool) (e : Ending) : State :=
  (if s.pastBoundary c d.block then
    let s := if walkFailed then s.walkLost c s.now d else s
    let s := (s.modDesc c d.id (fun d => d.loseGrain g walkFailed)).lateEnding c d.block e
    let s := s.modCore c (fun k => { k with mover := k.mover.dropAdds d })
    each (List.range d.iters.length) (fun i s => State.decodeBlocks c d.id i (((d.iters[i]?).map (fun it => it.blocks)).getD 0) s) s
  else s.endBlock c s.now e).settleStores c

/-- A walk has ended well for the grains of a page: those whose slot has fallen take a new one, after the excess grains there are (R91, R199). -/
def MDesc.walked (d : MDesc) (page : Int) (phys now late : Nat) (groups : List (Nat × Nat)) (held : List Nat) : MDesc :=
  { d with grains := (d.grains.foldl (fun (x : List MGrain × List Nat) g =>
      if g.walking && g.st == .waiting && decide (g.virt / 65536 = page) then
        let fell := match g.slot with
          | some y => decide (slotTime y ≤ now)
          | none => true
        let y := if fell then takeSlot groups x.2 (max (slotFrom now + 16) late) else g.slot
        let h := match y with
          | some y => y :: x.2
          | none => x.2
        (x.1 ++ [{ g with walking := false, phys := phys / 65536 * 65536 + (g.virt % 65536).toNat, slot := y
                          floor := if fell then slotFrom now + 16 else g.floor, afterExcess := g.afterExcess || (fell && late != 0) }], h)
      else (x.1 ++ [g], x.2)) ([], held)).1 }

/-- A grain that its block's early ending has dropped in this same fabric cycle: an ending it meets now arises with that one (R100). -/
def State.alsoEnds (s : State) (c : Nat) (d : MDesc) (g : MGrain) : Bool :=
  g.st == .dropped && ((s.core c).run.map (fun r => r.ordinal == d.block && r.ending.isSome && r.endedAt / fabTicks == s.now / fabTicks)).getD false

/-- The walk for grain g of descriptor d ends (R91, R211 to R213). -/
def State.walkDone (s : State) (c d g : Nat) : State :=
  let s := (s.settle c s.now).chargeAll
  match s.desc c d with
  | none => s
  | some desc =>
    match desc.grains[g]? with
    | none => s
    | some gr =>
      if !(gr.walking && (gr.st == .waiting || s.alsoEnds c desc gr)) then s
      else
        let x := walk s.mem (s.pages.asker desc.fn true desc.isStore) gr.virt
        let s := match x with
          | .bad a => { s with mem := s.mem.note a false .uncorrectable }
          | _ => s
        match locateXl s.mem desc.fn desc.coded gr.virt x with
        | .at_ phys =>
          if gr.st = .dropped then s else
          let m := (s.core c).mover
          (s.rememberPage c desc.fn gr.virt x).modDesc c d (fun e => e.walked (gr.virt / 65536) phys s.now m.afterExcess (s.share.blockGroups c desc.fn desc.groups) m.held)
        | .bad e => s.grainEnding c desc g true e
        | .walk => s

/-- TRANSLATION_WALK_DONE (R213, R91). -/
def execTranslationWalkDone (c : CoreIx) (d g : Nat) (s : State) : Host.Outcome State Fault Refusal := .next (s.clocked (fun s => s.walkDone c d g))

/-- The metadata of iteration i has landed: its data grains take their positions, what is left of these stays idle (R198, R199). The first ending any of the grains meets. -/
def State.sizeIter (s : State) (c : Nat) (d : MDesc) (i : Nat) : State × Option Ending :=
  match d.iters[i]? with
  | none => (s, none)
  | some it =>
    let bytes := (d.grains.filter (fun g => g.kind == .metadata i)).flatMap (fun g => g.data)
    let rec_ := parseCodeRec d.record
    let start := (rec_.metaBase + it.first / 2) / 256 * 256
    let size (k : Nat) : Nat := sizeNibble (it.first + k) (bytes.getD (rec_.metaBase + (it.first + k) / 2 - start) 0)
    let made := (List.range it.blocks).map (fun k => codedGrains s.mem s.pages c d it i k (size k + 1) [])
    let gs := made.flatMap (·.1)
    let m := (s.core c).mover
    let placed := takePositions (s.share.blockGroups c d.fn d.groups) (slotFrom s.now) m.afterExcess (dataPositions rec_ it.blocks) 0 m.held it.positions gs
    ((if d.phys then s else s.touchPages c d.fn gs).modDesc c d.id (fun e =>
      { e with
        grains := e.grains ++ placed.1
        iters := modAt e.iters i (fun it => { it with sized := true, positions := [], idle := it.idle ++ placed.2.map (·.1), sizes := (List.range it.blocks).map size }) }),
     made.findSome? (·.2))

/-- Iteration a grain belongs to. -/
def MGrain.iterOf (g : MGrain) : Option Nat :=
  match g.kind with
  | .plain => none
  | .metadata i => some i
  | .coded i _ => some i

/-- What follows once a coded grain's bytes are in: sizes after the last metadata grain, blocks decoded. -/
def State.codedLanded (s : State) (c id i : Nat) : State :=
  match s.desc c id with
  | none => s
  | some d =>
    match d.iters[i]? with
    | none => s
    | some it =>
      let metaIn := (d.grains.filter (fun g => g.kind == .metadata i)).all (fun g => g.st == .done)
      let r := if !it.sized && metaIn then s.sizeIter c d i else (s, none)
      let s := match r.2 with
        | some e => (r.1.modDesc c id (fun d => { d with addEn := false })).moverEnding c r.1.now d.block e
        | none => r.1
      State.decodeBlocks c id i it.blocks s

/-- A grain that can land or become visible by now: its slot has fallen. -/
def MGrain.moves (g : MGrain) : Bool := (g.st == .waiting || g.st == .read) && !g.walking && g.slot.isSome

/-- Fetched grain g of descriptor d lands, with these errors on its way (R91, R121, R169, R172); what it meets is found but not yet acted on. -/
def State.land (s : State) (c : Nat) (desc : MDesc) (g : Nat) (gr : MGrain) (o : GrainErrors) : State × Option Ending :=
  let s := s.upTo (slotTime (gr.slot.getD 0))
  let s := ((s.settleDest c (match gr.iterOf with
    | some i => ((desc.iters[i]?).map (fun it => it.mask)).getD 0
    | none => gr.mask)).chargeAll)
  if (s.desc c desc.id).bind (fun e => (e.grains[g]?).map (fun x => x.st)) ≠ some .waiting then (s, none)
  else
    let r := s.deliverGrain (s.fetchLinks (dieOfCore c) gr.phys) gr.phys o
    let s := r.1
    match r.2 with
    | none => (s, some (memEnding stUncorrectable 0 gr.phys 1))
    | some data =>
      match gr.iterOf with
      | none =>
        ((s.writeDest c gr.mask gr.spad s.now data).modDesc c desc.id (fun e => e.modGrain g (fun x => { x with st := .done })), none)
      | some i => ((s.modDesc c desc.id (fun e => e.modGrain g (fun x => { x with st := .done, data := data }))).codedLanded c desc.id i, none)

/-- FETCH_GRAIN_LANDED, or nothing where the grain has not moved. -/
def State.fetchLanded (s : State) (c d g : Nat) (o : GrainErrors) : State :=
  match s.desc c d with
  | none => s
  | some desc =>
    match desc.grains[g]? with
    | none => s
    | some gr =>
      if desc.isStore then s
      else if s.alsoEnds c desc gr && !gr.walking && (gr.slot.map (fun x => decide (slotTime x ≤ s.now))).getD false then
        let r := s.deliverGrain (s.fetchLinks (dieOfCore c) gr.phys) gr.phys o
        if r.2.isNone then r.1.endBlock c r.1.now (memEnding stUncorrectable 0 gr.phys 1) else r.1
      else if !(gr.st == .waiting && gr.moves) then s
      else
        let r := s.land c desc g gr o
        match r.2 with
        | some e => r.1.grainEnding c desc g false e
        | none => r.1.settleStores c

/-- FETCH_GRAIN_LANDED (R91, R169, R172, R200, R201). -/
def execFetchGrainLanded (c : CoreIx) (d g : Nat) (o : GrainErrors) (s : State) : Host.Outcome State Fault Refusal := .next (s.clocked (fun s => s.fetchLanded c d g o))

/-- Endings a block past its boundary has been given. -/
def State.lateStatus (s : State) (c block : Nat) : Option Ending := ((s.core c).ended.find? (fun b => b.ordinal == block)).map (fun b => b.ending)

/-- A grain of a block past its boundary meets an ending (R86): the walk of its address fails, or it lands uncorrectable or damaged. -/
def State.lateGrain (s : State) (c d g : Nat) (o : GrainErrors) : State :=
  match s.desc c d with
  | none => s
  | some desc =>
    if ((s.core c).run.map (fun r => r.ordinal == desc.block)).getD false then s
    else
      match desc.grains[g]? with
      | none => s
      | some gr =>
        if gr.walking then s.walkDone c d g
        else if desc.isStore || !(gr.st == .waiting && gr.moves) then s
        else
          let r := s.land c desc g gr o
          match r.2 with
          | some e => r.1.grainEnding c desc g false e
          | none => if r.1.lateStatus c desc.block = s.lateStatus c desc.block then s else r.1.settleStores c

/-- LATE_GRAIN_FAULT (R86). -/
def execLateGrainFault (c : CoreIx) (d g : Nat) (o : GrainErrors) (s : State) : Host.Outcome State Fault Refusal := .next (s.clocked (fun s => s.lateGrain c d g o))

/-- A stored grain becomes visible (R91, R121, R197), unless a word of it fails twice on the die links: then it is not written, and its block ends as for a FETCH (R170, R172; DEDUCED, log 47). -/
def State.storeVisible (s : State) (c d g : Nat) : State :=
  match (s.desc c d).bind (fun x => x.grains[g]?) with
  | none => s
  | some gr =>
    if !gr.moves then s
    else
      let s := ((s.upTo (slotTime (gr.slot.getD 0)))).settle c (max s.now (slotTime (gr.slot.getD 0)))
      match (s.desc c d).bind (fun x => (x.grains[g]?).map (fun gr => (x, gr))) with
      | none => s
      | some (x, gr) =>
        if !x.isStore || gr.st != .read then s
        else
          let r := s.chargeAll.crossLinks (s.storeLinks (dieOfCore c) gr.phys) false gr.phys gr.data
          match r.2 with
          | some data => ({ r.1 with mem := r.1.mem.write gr.phys data }.modDesc c d (fun e => e.modGrain g (fun y => { y with st := .done, data := [] }))).settleStores c
          | none =>
            let s := (r.1.modDesc c d (fun e => { e.modGrain g (fun y => { y with st := .dropped, data := [] }) with addEn := false })).countDropped c x.block 1
            s.grainEnding c x g false (memEnding stUncorrectable 0 gr.phys 1)

/-- STORE_GRAIN_VISIBLE (R91, R121, R197). -/
def execStoreGrainVisible (c : CoreIx) (d g : Nat) (s : State) : Host.Outcome State Fault Refusal := .next (s.clocked (fun s => s.storeVisible c d g))

end Sys2Proof.Machine
end

