-- ==== Sys2Proof/Machine/Block.lean ====
section
/-! DEFINITION. The life of a block (R86, R98, R108, R112, R113, R124, R132, R133, R243): arbitration, loading and its checks, readiness, issue, the wall limit, the boundary, the completion entry. -/

namespace Sys2Proof.Machine

def CoreState.vt (k : CoreState) (f : Nat) : Nat := tget 0 k.virtualTime f

/-- The least of a list. -/
def leastOf : List Nat → Option Nat
  | [] => none
  | a :: l =>
    match leastOf l with
    | some b => some (min a b)
    | none => some a

/-- Functions that gain a candidate have their virtual time raised to the least among those that held one (R243). `ended` is the function whose block has just ended with a successor. A function whose candidate was taken at the boundary before counts as having held one (DESIGN CHOICE, log 46). -/
def CoreState.raise (k : CoreState) (now : List Nat) (ended : Option Nat) : CoreState :=
  let had := (List.range 16).filter (fun f => k.hadCandidate.getLsbD f)
  let gain := now.filter (fun f => !had.contains f && ended != some f)
  { k with
    hadCandidate := BitVec.ofNat 16 (maskOf now)
    virtualTime := match leastOf (had.map k.vt) with
      | some v => each gain (fun f t => tmod 0 t f (fun x => max x v)) k.virtualTime
      | none => k.virtualTime }

/-- Function a goes before function b: CLASS, virtual time, pending successor, number (R243). -/
def CoreState.before (k : CoreState) (q : SeqState) (a b : Nat) : Bool :=
  let ca := (q.ctxOf a).cls.toNat
  let cb := (q.ctxOf b).cls.toNat
  let sa := (tget none k.successors a).isSome
  let sb := (tget none k.successors b).isSome
  decide (cb < ca) || (ca == cb && (decide (k.vt a < k.vt b) || (k.vt a == k.vt b && ((sa && !sb) || (sa == sb && decide (a < b))))))

/-- The candidate the core picks (R243). -/
def CoreState.pick (k : CoreState) (q : SeqState) : Option Nat :=
  (k.candidates q).foldl (fun p f => match p with
    | none => some f
    | some g => if k.before q f g then some f else some g) none

/-- A chain leaves its place as it is taken: a successor, or the head of the sub-queue, which becomes a new chain (R122). -/
def CoreState.take (k : CoreState) (f : Nat) (succ : Bool) (ch : Chain) : CoreState × Chain :=
  if succ then ({ k with successors := tset none k.successors f none }, ch)
  else ({ k with queues := tmod [] k.queues f (fun l => l.drop 1), chains := k.chains + 1 }, { ch with id := k.chains + 1 })

/-- The core chooses its next chain: while a block runs, provisionally, to be loaded; at a boundary, for good, with the image it may have kept (R243, R112, R132). The block reaches the head of the queue, from where R133 counts, as it is picked, be it provisionally (DESIGN CHOICE, log 46). -/
def CoreState.choose (k : CoreState) (q : SeqState) (now : Nat) : CoreState :=
  if k.load.isSome || k.swap.isSome then k
  else
    let k := if k.run.isNone then k.raise (k.candidates q) none else k
    match k.pick q with
    | none => k
    | some f =>
      match k.candidate q f with
      | none => k
      | some (succ, ch) =>
        let same (l : LoadBlock) : Bool := l.fn == f && l.chain.image == ch.image && l.chain.entry == ch.entry
        if k.run.isSome then
          if k.kept.any (fun l => same l && !l.succ) then k else { k with kept := k.kept ++ [({ fn := f, chain := ch, headAt := now } : LoadBlock)] }
        else
          let t := k.take f succ ch
          let old := (k.kept.find? same).getD { fn := f, chain := t.2, headAt := now }
          let old := if old.succ then { old with succ := false, headAt := now } else old
          { t.1 with load := some { old with chain := t.2 }, kept := k.kept.filter (fun l => !same l) }

/-- BLOCK_CHOSEN (R243). -/
def execBlockChosen (c : CoreIx) (s : State) : Host.Outcome State Fault Refusal :=
  .next (s.clocked (fun s => s.modCore c (fun k => k.choose s.seqs s.now)))

/-- Bytes of an image or of its bound words at a virtual address, read as the core's loader reads them; what fails, and at which address (R112, R113). -/
def loaderRead (m : MemState) (p : PageState) (f : Nat) : Nat → Nat → Nat → Except Ending (List Byte)
  | 0, _, _ => .ok []
  | n + 1, va, len =>
    if len = 0 then .ok []
    else
      let piece := min len (256 - va % 256)
      match locateXl m f false va (walk m (p.asker f true false) va) with
      | .bad e => .error e
      | .walk => .ok []
      | .at_ phys =>
        match m.ueIn phys piece with
        | some g => .error (memEnding stUncorrectable 0 g 1)
        | none =>
          match loaderRead m p f n (va + piece) (len - piece) with
          | .error e => .error e
          | .ok bs => .ok (m.read phys piece ++ bs)

/-- The image as the loader has it: the header first, then the rest if IMAGE_LENGTH lies in range (R111). -/
def loadImage (m : MemState) (p : PageState) (f a : Nat) : Except Ending (List Byte) :=
  match loaderRead m p f 3 a 128 with
  | .error e => .error e
  | .ok h =>
    let n := (parseHeader h).length
    if lengthOk n = true then
      (match loaderRead m p f 514 (a + 128) (n - 128) with
        | .error e => .error e
        | .ok bs => .ok (h ++ bs))
    else .ok h

/-- A block that ends before its first bundle (R113, R77, R338): it writes nothing, its chain ends. -/
def State.failChain (s : State) (c : Nat) (l : LoadBlock) (e : Ending) : State :=
  { s with seqs := s.seqs.chainDone l.fn l.chain.entry }.modCore c (fun k =>
    { k with
      blocks := k.blocks + 1
      clock := { k.clock with idleSince := s.now }
      clipRec := { k.clipRec with blockClipCount := 0, blockMaxMag := 0, lastFunction := BitVec.ofNat 4 l.fn, lastStopped := false, lastFlag := false }
      ended := k.ended ++ [({ fn := l.fn, ordinal := k.blocks + 1, chain := l.chain.id, ending := e, event := l.chain.entry.event, clipFlag := false, slipOver := false, branched := false, chainEnd := true, dropped := 0, wallNs := 0, clipCount := 0, maxMag := 0, slips := {}, endNs := s.ns } : EndedBlock)] })

/-- The block chosen on a core ends before its first bundle. -/
def State.failLoad (s : State) (c : Nat) (l : LoadBlock) (e : Ending) : State := (((s.noteEnding e).modCore c (fun k => { k with load := none })).failChain c l e).retarget c

/-- Own groups are fewer than MIN_GROUPS (R90). -/
def State.groupsFew (s : State) (c f : Nat) (img : List Byte) : Bool := decide ((s.share.ownGroups c f).length < (parseHeader img).minGroups)

/-- Checks 1 to 8 of Table 5.3 and the owner of the bound counter: the image, or the ending. -/
def State.loadChecks (s : State) (c : Nat) (l : LoadBlock) : Except Ending (List Byte) :=
  if !s.available c then .error (blockFault faultCoreUnavailable)
  else
    match loadImage s.mem s.pages l.fn l.chain.image.toNat with
    | .error e => .error e
    | .ok img =>
      match imageFault img (l.fn != 0) with
      | some code => .error (blockFault code)
      | none =>
        let h := parseHeader img
        if s.groupsFew c l.fn img then .error (blockFault faultGroups)
        else if h.waitEn && !(s.ctxOf l.fn).ownsCtr (clusterOf c) h.waitCtr then .error (blockFault faultCounterOwner)
        else .ok img

/-- NEXT and BRANCH of the block that runs, as the loader loads them meanwhile (R132). -/
def RunBlock.candidates (r : RunBlock) : List LoadBlock :=
  let h := parseHeader r.image
  ([h.next, h.branch].filter (fun a => a != 0)).eraseDups.map (fun a => { fn := r.fn, chain := { r.chain with image := BitVec.ofNat 64 a, sregs := [] }, succ := true })

/-- A loaded block after its checks. -/
def LoadBlock.loaded (l : LoadBlock) (img : List Byte) : LoadBlock :=
  { l with image := img, phase := if (parseHeader img).waitEn then .boundWait else .checked }

/-- BLOCK_LOAD: the block at the head is read and checked, or a provisional one, or NEXT or BRANCH of the block that runs (R132); of the latter, one that fails stays unread, to be checked when its turn comes. -/
def State.blockLoad (s : State) (c : Nat) : State :=
  let k := s.core c
  match k.load with
  | some l =>
    if l.phase ≠ .chosen ∧ s.available c = true then s
    else
      match s.loadChecks c l with
      | .error e => s.failLoad c l e
      | .ok img => s.modCore c (fun k => { k with load := some (l.loaded img) })
  | none =>
    match k.kept.find? (fun l => l.phase == .chosen && (match s.loadChecks c l with
        | .ok _ => true
        | .error _ => false)) with
    | none => s
    | some l =>
      match s.loadChecks c l with
      | .error _ => s
      | .ok img => s.modCore c (fun k => { k with kept := mapIf (fun x => x == l) (fun l => l.loaded img) k.kept })

/-- BLOCK_LOAD (R113). -/
def execBlockLoad (c : CoreIx) (s : State) : Host.Outcome State Fault Refusal := .next (s.clocked (fun s => s.blockLoad c))

/-- Memory-bound words read in order (R127). -/
def readBounds (m : MemState) (p : PageState) (f : Nat) (img : List Byte) : Nat → Nat → Except Ending (List W32)
  | 0, _ => .ok []
  | n + 1, i =>
    match loaderRead m p f 2 (imageBound img i) 4 with
    | .error e => .error e
    | .ok bs =>
      match readBounds m p f img n (i + 1) with
      | .error e => .error e
      | .ok l => .ok (BitVec.ofNat 32 (leNat bs) :: l)

/-- BLOCK_READY: the bound words are read; the core's gear follows the block's (R112, R366). -/
def State.blockReady (s : State) (c : Nat) : State :=
  match (s.core c).load with
  | none => s
  | some l =>
    if !s.available c then s.failLoad c l (blockFault faultCoreUnavailable)
    else if l.phase ≠ .checked then s
    else
      match readBounds s.mem s.pages l.fn l.image (parseHeader l.image).mboundCount 0 with
      | .error e => s.failLoad c l e
      | .ok bs => (s.modCore c (fun k => { k with load := some { l with phase := .ready, bounds := bs, readyAt := s.now } })).retarget c

/-- BLOCK_READY (R112, R113). -/
def execBlockReady (c : CoreIx) (s : State) : Host.Outcome State Fault Refusal := .next (s.clocked (fun s => s.blockReady c))

/-- BOUND_WAIT_MET (R133). -/
def State.boundMet (s : State) (c : Nat) : State :=
  match (s.core c).load with
  | none => s
  | some l =>
    let h := parseHeader l.image
    if !s.available c then s.failLoad c l (blockFault faultCoreUnavailable)
    else if l.phase = .boundWait ∧ s.share.ctrBad (clusterOf c) h.waitCtr = true then s.failLoad c l ctrEnding
    else if l.phase = .boundWait ∧ meets (s.share.ctr (clusterOf c) h.waitCtr) (BitVec.ofNat 32 h.waitThr) = true then
      s.modCore c (fun k => { k with load := some { l with phase := .checked } })
    else s

/-- BOUND_WAIT_MET (R133). -/
def execBoundWaitMet (c : CoreIx) (s : State) : Host.Outcome State Fault Refusal := .next (s.clocked (fun s => s.boundMet c))

/-- BOUND_WAIT_TIMEOUT: the wait has outlasted WALL_LIMIT from the head of the queue (R133). A block whose core has become unavailable meanwhile ends with CORE_UNAVAILABLE (R22). -/
def State.boundTimeout (s : State) (c : Nat) : State :=
  match (s.core c).load with
  | none => s
  | some l =>
    let h := parseHeader l.image
    if !s.available c then s.failLoad c l (blockFault faultCoreUnavailable)
    else if l.phase = .boundWait ∧ h.wallLimit ≠ 0 ∧ meets (s.share.ctr (clusterOf c) h.waitCtr) (BitVec.ofNat 32 h.waitThr) = false then
      (s.upTo (l.headAt + h.wallLimit * nsTicks + fabTicks)).failLoad c l { status := BitVec.ofNat 16 stSlipLimit }
    else s

/-- BOUND_WAIT_TIMEOUT (R133). -/
def execBoundWaitTimeout (c : CoreIx) (s : State) : Host.Outcome State Fault Refusal := .next (s.clocked (fun s => s.boundTimeout c))

/-- A change of the core's cluster's share table that has met its boundaries must be applied before a block issues (R90). -/
def ShareState.changeDue (h : ShareState) (cl : Nat) : Bool := h.waiting.any (fun w => w.cluster == cl && w.waits.isEmpty && h.namesCore w)

/-- The first bundle's time: 48 core cycles after the later of the boundary and readiness, and the copy of a move (R86, R112, R413). -/
def CoreState.issueTime (k : CoreState) (l : LoadBlock) : Nat := max k.boundaryAt l.readyAt + 48 * k.period + k.copyTime

/-- The block loaded as it runs from its first bundle, on the slot groups that are its own then (R90). -/
def CoreState.started (k : CoreState) (l : LoadBlock) (groups : List Nat) : RunBlock :=
  { fn := l.fn, groups := groups, ordinal := k.blocks + 1, chain := l.chain, image := l.image, bounds := l.bounds, startAt := k.issueTime l, posAt := k.issueTime l
    nextAt := 64 * (parseHeader l.image).bundleOffset }

/-- The block begins (R83, R124); its NEXT and BRANCH are to be loaded in place of its predecessor's (R132). -/
def CoreState.begin (k : CoreState) (l : LoadBlock) (groups : List Nat) : CoreState :=
  { k with
    load := none
    copyTime := 0
    kept := k.kept.filter (fun x => !x.succ) ++ RunBlock.candidates (k.started l groups)
    blocks := k.blocks + 1
    userFlags := 0
    quantClip := false
    sregs := each (List.range 16) (fun i r => tset 0 r i (l.chain.sregs.getD i 0)) []
    run := some (k.started l groups) }

/-- BLOCK_ISSUE. The gear of R366 is in force, no swap or share change is due, and the groups still suffice (R90). -/
def State.blockIssue (s : State) (c : Nat) : State :=
  let k := s.core c
  match k.load with
  | none => s
  | some l =>
    if l.phase ≠ .ready || k.run.isSome || k.swap.isSome || k.clock.change.isSome || k.clock.waking.isSome || k.clock.waiting
        || k.clock.gear.toNat != s.targetGear c || s.share.changeDue (clusterOf c) then s
    else if !s.available c then s.failLoad c l (blockFault faultCoreUnavailable)
    else if s.groupsFew c l.fn l.image then s.failLoad c l (blockFault faultGroups)
    else (s.upTo (k.issueTime l)).modCore c (fun k => k.begin l (s.share.ownGroups c l.fn))

/-- BLOCK_ISSUE (R83, R86, R124). -/
def execBlockIssue (c : CoreIx) (s : State) : Host.Outcome State Fault Refusal := .next (s.clocked (fun s => s.blockIssue c))

/-- The block runs on at time t: it slips, or something of it is still due then. -/
def RunBlock.runsAt (r : RunBlock) (period t : Nat) : Bool :=
  r.slip.isSome
    || (r.slots.isEmpty && (match r.nextBundle with
        | some o => decide (t ≤ r.timeAt period o)
        | none => decide (t ≤ r.timeAt period (max r.lastIssue r.lastResult + 1))))

/-- The running block ends early at time t, if it still runs then and is in this function. -/
def State.endAt (s : State) (c t : Nat) (e : Ending) : State :=
  let s := (s.upTo t).settle c t
  match (s.core c).run with
  | none => s
  | some r => if r.ending.isNone && r.runsAt (s.core c).period t then s.endBlock c t e else s

/-- WALL_LIMIT_EXPIRED: the first fabric cycle in which elapsed device time exceeds WALL_LIMIT (R98). -/
def State.wallExpired (s : State) (c : Nat) : State :=
  match (s.core c).run with
  | none => s
  | some r =>
    let n := (parseHeader r.image).wallLimit
    if n = 0 || r.ending.isSome || !r.runsAt (s.core c).period (max s.now ((r.startAt + n * nsTicks) / fabTicks * fabTicks + fabTicks)) then s
    else s.endAt c (max s.now ((r.startAt + n * nsTicks) / fabTicks * fabTicks + fabTicks)) { status := BitVec.ofNat 16 stSlipLimit }

/-- WALL_LIMIT_EXPIRED (R98). -/
def execWallLimitExpired (c : CoreIx) (s : State) : Host.Outcome State Fault Refusal := .next (s.clocked (fun s => s.wallExpired c))

/-- BRANCH_COND holds on the flags (Table 5.2). -/
def branchHolds (cond : Nat) (quant : Bool) (user : BitVec 4) : Bool :=
  if cond = 1 then quant else if cond = 2 then !quant
  else if 4 ≤ cond ∧ cond < 8 then user.getLsbD (cond - 4)
  else if 8 ≤ cond ∧ cond < 12 then !user.getLsbD (cond - 8)
  else false

/-- The successor's address and whether it is BRANCH (R132); 0 ends the chain. -/
def CoreState.successor (k : CoreState) (r : RunBlock) : Nat × Bool :=
  let h := parseHeader r.image
  if branchHolds h.branchCond k.quantClip k.userFlags then (h.branch, h.branch != 0) else (h.next, false)

/-- Clip-watch record at a block's end (R76). -/
def ClipRec.blockEnd (x : ClipRec) (r : RunBlock) (quant stopped : Bool) : ClipRec :=
  { blockClipCount := r.clipCount
    blockMaxMag := r.maxMag
    totalClipCount := satAdd x.totalClipCount r.clipCount.toNat
    peakMaxMag := BitVec.ofNat 32 (max x.peakMaxMag.toNat r.maxMag.toNat)
    flaggedBlocks := if quant then satAdd x.flaggedBlocks 1 else x.flaggedBlocks
    stoppedBlocks := if stopped then satAdd x.stoppedBlocks 1 else x.stoppedBlocks
    lastFunction := BitVec.ofNat 4 r.fn
    lastStopped := stopped
    lastFlag := quant }

/-- What a block leaves at its boundary at time t: records, virtual time, the successor (R76, R97, R132, R243). `reset`: its function is being reset, so no successor follows; a block that the reset ended leaves the clip-watch record as it is (R77, R357). Its wall time in nanoseconds, and the product of that time with 256 / WEIGHT, are rounded down: the spec gives no rounding (DESIGN CHOICE, log 46). -/
def CoreState.boundary (k : CoreState) (r : RunBlock) (t weight : Nat) (reset : Bool) : CoreState :=
  let e := r.ending.getD {}
  let ok := e.status == 0 && !reset
  let cut := k.chainCut.contains r.chain.id
  let next := k.successor r
  let goes := ok && !cut && next.1 != 0
  let above := decide ((parseHeader r.image).slipBudget < r.slips.total)
  let wall := (t - r.startAt) / nsTicks
  { k with
    run := none
    boundaryAt := t
    clock := { k.clock with idleSince := t }
    chainCut := k.chainCut.erase r.chain.id
    successors := if goes then
        tset none k.successors r.fn (some { id := r.chain.id, image := BitVec.ofNat 64 next.1, entry := r.chain.entry, sregs := (List.range 16).map (fun i => tget 0 k.sregs i) })
      else k.successors
    virtualTime := tmod 0 k.virtualTime r.fn (· + wall * 256 / max weight 1)
    slipRec := if above then { k.slipRec with overBlocks := satAdd k.slipRec.overBlocks 1 } else k.slipRec
    clipRec := if r.silent then k.clipRec else k.clipRec.blockEnd r k.quantClip (e.status.toNat == stQuantClip)
    caddy := k.caddy.map (fun b => (b.1, b.2.swap))
    ended := k.ended ++ [({ fn := r.fn, ordinal := r.ordinal, chain := r.chain.id, ending := e, event := r.chain.entry.event, clipFlag := k.quantClip, slipOver := above, branched := goes && next.2, chainEnd := !goes, dropped := r.dropped, wallNs := wall, clipCount := r.clipCount, maxMag := r.maxMag, slips := r.slips, silent := r.silent, endNs := t / nsTicks } : EndedBlock)] }

/-- A core passes its boundary for the share-table changes and code tables that wait for it (R90, R193). -/
def State.passBoundary (s : State) (c : Nat) : State :=
  { s with
    share := { s.share with waiting := s.share.waiting.map (fun w => if w.cluster = clusterOf c then { w with waits := w.waits.erase (c % 16) } else w) }
    cores := { s.cores with codeLoads := s.cores.codeLoads.map (fun l => { l with cores := l.cores.erase c }) } }

/-- The block has reached its boundary at time t. -/
def State.boundaryAt (s : State) (c t : Nat) (r : RunBlock) : State :=
  let s := s.upTo t
  let reset := (s.host.fn r.fn).flr.isSome
  let goes := (r.ending.getD {}).status == 0 && !reset && !(s.core c).chainCut.contains r.chain.id && ((s.core c).successor r).1 != 0
  let s := { s with seqs := if goes then s.seqs else s.seqs.chainDone r.fn r.chain.entry }
  let s := s.modCore c (fun k => k.boundary r t (s.ctxOf r.fn).weight.toNat reset)
  let s := s.modCore c (fun k => k.raise (k.candidates s.seqs) (if goes then some r.fn else none))
  (((s.passBoundary c).boundaryRepairs c).retarget c).finishDescs c

/-- BLOCK_BOUNDARY: every bundle has issued and every result is written, or the block has ended early (R86). -/
def State.blockBoundary (s : State) (c : Nat) : State :=
  match (s.core c).run with
  | none => s
  | some r =>
    if r.ending.isSome then s.boundaryAt c r.endedAt r
    else if r.slip.isSome || r.stopAt.isSome || !r.slots.isEmpty || r.nextBundle.isSome then s
    else
      let s := s.advance c (max r.lastIssue r.lastResult + 1)
      match (s.core c).run with
      | none => s
      | some r =>
        if r.slip.isSome || r.ending.isSome || r.stopAt.isSome then s
        else s.boundaryAt c (r.timeAt (s.core c).period (max r.lastIssue r.lastResult + 1)) r

/-- BLOCK_BOUNDARY (R86, R132). -/
def execBlockBoundary (c : CoreIx) (s : State) : Host.Outcome State Fault Refusal := .next (s.clocked (fun s => s.blockBoundary c))

/-- Memory endings carry ADDRESS in place of the watch (R338). -/
def Ending.hasAddress (e : Ending) : Bool :=
  let st := e.status.toNat
  st == stUncorrectable || st == stTranslation || st == stCodedBlock
    || (st == stBlockFault && [faultPartition, faultSealedCoded, faultSealedAccess].contains e.fault.toNat)

/-- Payload of Table 15.19. -/
def EndedBlock.payload (b : EndedBlock) (c : Nat) : List Byte :=
  let s32 (x : Nat) : List Byte := natLe 4 (min x (2 ^ 32 - 1))
  natLe 2 b.ending.status.toNat ++ natLe 1 b.ending.fault.toNat
    ++ natLe 1 (b2n b.clipFlag + 2 * b2n b.slipOver + 4 * b2n b.branched + 8 * b2n b.chainEnd)
    ++ natLe 1 c ++ natLe 1 b.ending.detail.toNat ++ natLe 2 (min b.dropped 65535) ++ s32 b.wallNs
    ++ (if b.ending.hasAddress then natLe 8 (b.ending.address % 2 ^ 62 + 2 ^ 62 * b.ending.kind.toNat) else natLe 4 b.clipCount.toNat ++ natLe 4 b.maxMag.toNat)
    ++ s32 b.slips.memLate.toNat ++ s32 b.slips.codedShort.toNat ++ s32 b.slips.pannierLate.toNat ++ s32 b.slips.haloWait.toNat
    ++ s32 b.slips.flagWait.toNat ++ s32 b.slips.creditWait.toNat ++ s32 b.slips.xlateMiss.toNat

/-- Work of a block is still outstanding on its core (R86, R108). -/
def MoverState.outstanding (m : MoverState) (block : Nat) : Bool := m.descs.any (fun d => d.block == block) || m.adds.any (fun a => a.block == block)

/-- BLOCK_COMPLETION_ENTRY: the oldest ended block whose work has settled; an entry is written for a chain's end with EVENT or for any status but OK, with the time at which the block ended (R108, R338, R418). -/
def State.completionEntry (s : State) (c : Nat) : State :=
  let s := s.settleCaught c s.now
  let k := s.core c
  match k.ended.find? (fun b => !k.mover.outstanding b.ordinal) with
  | none => s
  | some b =>
    let s := s.modCore c (fun k => { k with ended := k.ended.erase b })
    if !b.silent && ((b.chainEnd && b.event) || b.ending.status != 0) then
      s.post b.fn { source := BitVec.ofNat 8 srcBlock, origin := BitVec.ofNat 4 b.fn, code := 0, payload := b.payload c, timeNs := b.endNs }
    else s

/-- BLOCK_COMPLETION_ENTRY (R108, R335, R338). -/
def execBlockCompletionEntry (c : CoreIx) (s : State) : Host.Outcome State Fault Refusal := .next (s.clocked (fun s => s.completionEntry c))

end Sys2Proof.Machine
end

