-- ==== Sys2Proof/Machine/Frames.lean ====
section
/-! DEFINITION. The page engine's primitives (R214 to R217, R221, R222, R226): frame-table entries, free stacks, the quarantine ring, leaf entries, releases and sweeps. Each reads or writes device memory, and an uncorrectable grain stops the service (R226). -/

namespace Sys2Proof.Machine

/-- A page-engine operation: its result, or the uncorrectable grain it met. -/
abbrev Paged (α : Type) := Except Nat α

def State.pageRec (s : State) (f : Nat) : PageRec := s.pages.pageRec f
def State.modRec (s : State) (f : Nat) (g : PageRec → PageRec) : State := { s with pages := s.pages.setRec f (g (s.pageRec f)) }

/-- A value the page engine reads. -/
def State.pgRead (s : State) (a n : Nat) : Paged Nat :=
  match s.mem.ueIn a n with
  | some g => .error g
  | none => .ok (s.mem.readLe a n)

/-- Bytes the page engine writes: a partial write reads its grain (R159). -/
def State.pgWrite (s : State) (a : Nat) (bs : List Byte) : Paged State :=
  match s.mem.ueIn a bs.length with
  | some g => .error g
  | none => .ok { s with mem := s.mem.write a bs }

/-- Frame-table entry e (R214). -/
def State.ftRead (s : State) (e : Nat) : Paged FtEntry :=
  match s.pgRead (s.pages.ftBase.toNat + 8 * e) 8 with
  | .error g => .error g
  | .ok x => .ok (parseFt x)

def State.ftWrite (s : State) (e : Nat) (x : FtEntry) : Paged State := s.pgWrite (s.pages.ftBase.toNat + 8 * e) x.bytes

/-- A fast-tier frame, as the frame table numbers frames. -/
def isFast (e : Nat) : Bool := decide (e < fastFrames)

/-- A frame's number in a stack or the ring (R216). -/
def frameNum (e : Nat) : Nat := if isFast e then e else e - fastFrames

/-- Frame pushed on the free stack of its tier (R216). -/
def State.pushFrame (s : State) (f e : Nat) : Paged State :=
  let r := s.pageRec f
  if isFast e then
    match s.pgWrite (r.fastStack.toNat + 4 * r.freeFast.toNat) (natLe 4 (frameNum e)) with
    | .error g => .error g
    | .ok s => .ok (s.modRec f (fun r => { r with freeFast := r.freeFast + 1 }))
  else
    match s.pgWrite (r.pannierStack.toNat + 4 * r.freePannier.toNat) (natLe 4 (frameNum e)) with
    | .error g => .error g
    | .ok s => .ok (s.modRec f (fun r => { r with freePannier := r.freePannier + 1 }))

/-- Top frame of a free stack popped; the stack is not empty (R216). -/
def State.popFrame (s : State) (f : Nat) (fast : Bool) : Paged (State × Nat) :=
  let r := s.pageRec f
  if fast then
    match s.pgRead (r.fastStack.toNat + 4 * (r.freeFast.toNat - 1)) 4 with
    | .error g => .error g
    | .ok x => .ok (s.modRec f (fun r => { r with freeFast := r.freeFast - 1 }), x % 2 ^ 25)
  else
    match s.pgRead (r.pannierStack.toNat + 4 * (r.freePannier.toNat - 1)) 4 with
    | .error g => .error g
    | .ok x => .ok (s.modRec f (fun r => { r with freePannier := r.freePannier - 1 }), fastFrames + x % 2 ^ 25)

/-- n fast frames popped at once (R218). -/
def State.popFrames (f : Nat) : Nat → State → Paged (State × List Nat)
  | 0, s => .ok (s, [])
  | n + 1, s =>
    match s.popFrame f true with
    | .error g => .error g
    | .ok (s, e) =>
      match State.popFrames f n s with
      | .error g => .error g
      | .ok (s, l) => .ok (s, e :: l)

/-- A list of operations in turn. -/
def pagedEach {α : Type} (op : α → State → Paged State) : List α → State → Paged State
  | [], s => .ok s
  | a :: l, s =>
    match op a s with
    | .error g => .error g
    | .ok s => pagedEach op l s

/-- A frame into quarantine: state, tag, ring (R222). -/
def State.quarantine (s : State) (f e : Nat) : Paged State :=
  let r := s.pageRec f
  let ring := tget [] s.pages.ring f
  match s.ftWrite e { count := 0, st := ftQuarantine, fn := f, epoch := r.stepEpoch.toNat } with
  | .error g => .error g
  | .ok s =>
    match s.pgWrite (r.quarRing.toNat + 4 * ((tget 0 s.pages.ringHead f + ring.length) % max 1 r.quarCap.toNat)) (natLe 4 (frameNum e)) with
    | .error g => .error g
    | .ok s =>
      .ok ({ s with pages := { s.pages with ring := tset [] s.pages.ring f (ring ++ [e]) } }.modRec f (fun r => { r with quarantined := r.quarantined + 1 }))

/-- A reference to a frame goes: COUNT falls, and at zero the frame is released (R221, R222). -/
def State.unref (f e : Nat) (s : State) : Paged State :=
  match s.ftRead e with
  | .error g => .error g
  | .ok x =>
    if 1 < x.count then s.ftWrite e { x with count := x.count - 1 }
    else
      match s.quarantine f e with
      | .error g => .error g
      | .ok s => .ok (s.modRec f (fun r => if isFast e then { r with occupancy := r.occupancy - 1 } else { r with spilled := r.spilled - 1 }))

/-- A frame leaves quarantine: FREE and on its stack; a pannier frame is EMPTY again (R222, R176). -/
def State.freeFrame (f e : Nat) (s : State) : Paged State :=
  match s.ftWrite e { count := 0, st := ftFree, fn := f, epoch := 0 } with
  | .error g => .error g
  | .ok s =>
    (if isFast e then s else { s with mem := { s.mem with fill := tset .empty s.mem.fill (e - fastFrames) .empty } }).pushFrame f e

/-- The oldest frame in quarantine whose tag is not newer than RETIRED_EPOCH leaves the ring; the number bounds the ring (R222). -/
def State.sweepRing (f : Nat) : Nat → State → Paged (State × Nat)
  | 0, s => .ok (s, 0)
  | n + 1, s =>
    match tget [] s.pages.ring f with
    | [] => .ok (s, 0)
    | e :: rest =>
      match s.pgRead ((s.pageRec f).quarRing.toNat + 4 * tget 0 s.pages.ringHead f) 4, s.ftRead e with
      | .error g, _ => .error g
      | _, .error g => .error g
      | .ok _, .ok x =>
        if ((s.pageRec f).retiredEpoch - BitVec.ofNat 16 x.epoch).toNat < 2 ^ 15 then
          let s := { s with pages := { s.pages with ring := tset [] s.pages.ring f rest, ringHead := tmod 0 s.pages.ringHead f (fun h => (h + 1) % max 1 (s.pageRec f).quarCap.toNat) } }
          match State.freeFrame f e (s.modRec f (fun r => { r with quarantined := r.quarantined - 1 })) with
          | .error g => .error g
          | .ok s =>
            match State.sweepRing f n s with
            | .error g => .error g
            | .ok (s, k) => .ok (s, k + 1)
        else .ok (s, 0)

/-- Frame-table entries that may hold anything but zeros. -/
def MemState.ftListed (m : MemState) (base : Nat) : List Nat :=
  if m.seals.isEmpty then
    ((m.cells.filter (fun c => decide (base ≤ c.1) && decide (c.1 < base + 8 * 17301504))).map (fun c => (c.1 - base) / 8)).eraseDups
  else List.range 17301504

/-- Entries of function f's frames in a state, of those entries that can be read. -/
def State.framesOf (s : State) (f : Nat) (p : FtEntry → Bool) : List Nat :=
  (s.mem.ftListed s.pages.ftBase.toNat).filter (fun e => s.mem.ftUe s.pages.ft e == none && (let x := s.mem.ftGet s.pages.ft e; x.fn == f && p x))

/-- An uncorrectable grain of the frame table in which entries of function f may stand: of a fast frame of its extents, or of a pannier frame. -/
def State.framesUe (s : State) (f : Nat) : Option Nat :=
  let base := s.pages.ftBase.toNat
  (s.mem.ue.filter (fun g => decide (base ≤ 256 * g + 255) && decide (256 * g < base + 8 * 17301504))).findSome? (fun g =>
    let e := (256 * g - base) / 8
    if isFast e then (if (s.mem.extent (e / 73728)).fn.toNat = f then some (256 * g) else none) else some (256 * g))

/-- The frames of a function that the page engine works on, all of whose entries it must read (R226). -/
def State.frames (s : State) (f : Nat) (p : FtEntry → Bool) : Paged (List Nat) :=
  match s.framesUe f with
  | some g => .error g
  | none => .ok (s.framesOf f p)

/-- An epoch 2^14 or more behind e is brought up to 2^14 behind (R233). -/
def freshEpoch (e x : BitVec 16) : BitVec 16 := if (e - x).toNat < 2 ^ 14 then x else e - BitVec.ofNat 16 (2 ^ 14)

/-- The sweep: frames leave quarantine, and the EPOCH of mapped frames is brought up (R222, R233). -/
def State.sweep (s : State) (f : Nat) : Paged (State × Nat) :=
  match State.sweepRing f (tget [] s.pages.ring f).length s with
  | .error g => .error g
  | .ok (s, n) =>
    let e := (s.pageRec f).stepEpoch
    match s.frames f (fun x => x.st == ftMapped && freshEpoch e (BitVec.ofNat 16 x.epoch) != BitVec.ofNat 16 x.epoch) with
    | .error g => .error g
    | .ok es =>
      match pagedEach (fun i s =>
          match s.ftRead i with
          | .error g => .error g
          | .ok x => s.ftWrite i { x with epoch := (freshEpoch e (BitVec.ofNat 16 x.epoch)).toNat }) es s with
      | .error g => .error g
      | .ok s => .ok (s, n)

/-- After a release: while no list is unretired the sweep runs at once, and every epoch opened has retired, by a list's end or by a reset that discarded it (R222, R233; log 48). -/
def State.sweepIdle (s : State) (f : Nat) : Paged State :=
  if (tget [] s.seqs.lists f).isEmpty then
    match (s.modRec f (fun r => { r with retiredEpoch := r.stepEpoch })).sweep f with
    | .error g => .error g
    | .ok (s, _) => .ok s
  else .ok s

/-- A translation entry naming a table page. -/
def tablePage (e : Nat) : Option Nat := if bit e 0 && !bit e 1 && !bit e 3 && !xlReserved e then some (xlFrame e) else none

/-- A table page is the function's own, whatever its extent waits for: PENDING changes no mapping (R165). -/
def State.ownTable (s : State) (f page : Nat) : Bool :=
  match placeOf page with
  | .fast x => (s.mem.extent x).valid && (s.mem.extent x).fn.toNat == f
  | _ => false

/-- Address of the leaf entry of a page, if the tables above it are in place (R211): the page engine reads and writes them while their extents are PENDING too, which changes no mapping (R165; DEDUCED, log 48). -/
def State.leafSlot (s : State) (f page : Nat) : Paged (Option Nat) :=
  let va := 65536 * page
  let root := 65536 * (s.pageRec f).root.toNat
  if !s.ownTable f root then .ok none
  else
    match s.pgRead (root + 8 * field va 47 42) 8 with
    | .error g => .error g
    | .ok e =>
      match (tablePage e).filter (s.ownTable f) with
      | none => .ok none
      | some t =>
        match s.pgRead (t + 8 * field va 41 29) 8 with
        | .error g => .error g
        | .ok e =>
          match (tablePage e).filter (s.ownTable f) with
          | none => .ok none
          | some t => .ok (some (t + 8 * field va 28 16))

/-- A leaf entry as the page engine sees it: the frame, WRITE, SPILLED. -/
structure Leaf where
  frame : Nat
  write : Bool
  spilled : Bool
  deriving DecidableEq, Repr

/-- The mapping of a page, if it has one. -/
def State.leaf (s : State) (f page : Nat) : Paged (Option Leaf) :=
  match s.leafSlot f page with
  | .error g => .error g
  | .ok none => .ok none
  | .ok (some a) =>
    match s.pgRead a 8 with
    | .error g => .error g
    | .ok e => .ok (if bit e 0 then some { frame := ftIndexOf (xlFrame e), write := bit e 2, spilled := bit e 3 } else none)

/-- A leaf entry's bytes (Table 9.2). -/
def leafBytes : Option Leaf → List Byte
  | none => natLe 8 0
  | some l => natLe 8 (1 + 4 * b2n l.write + 8 * b2n l.spilled + ftAddr l.frame)

/-- A page's leaf entry written, and its translations dropped in every unit (R213). Where the driver has put no table there is no entry to write (log 20). -/
def State.setLeaf (s : State) (f page : Nat) (l : Option Leaf) : Paged State :=
  match s.leafSlot f page with
  | .error g => .error g
  | .ok slot =>
    let s := { s with pages := s.pages.invalidate f (fun p => p == page) }
    match slot with
    | none => .ok s
    | some a => s.pgWrite a (leafBytes l)

/-- Pages p0 to p1 - 1 of every plane of a sequence, in plane-then-page order (R209). -/
def seqPages (r : PageRec) (vbase p0 p1 : Nat) : List Nat :=
  (List.range r.planes.toNat).flatMap (fun k => (List.range (p1 - p0)).map (fun i => vbase / 65536 + k * r.pagesMax.toNat + p0 + i))

/-- A page unmapped: its entry cleared, its translations dropped, its frame's reference gone (R221). -/
def State.releasePage (f page : Nat) (s : State) : Paged State :=
  match s.leaf f page with
  | .error g => .error g
  | .ok none => .ok s
  | .ok (some l) =>
    match s.setLeaf f page none with
    | .error g => .error g
    | .ok s => State.unref f l.frame s

/-- A PAGE entry (Table 15.7): 1 NO_PAGE, 2 UNCORRECTABLE, 3 SPILL_STOPPED, 4 SERVICE_STOPPED. -/
def State.pageEvent (s : State) (f kind status seq need : Nat) (address : Option Nat) : State :=
  s.event f f srcPage kind { status := status, arg0 := seq, arg1 := need, address := address.getD 0, kind := b2n address.isSome }

/-- Nothing of function f is under way in the page engine any more. -/
def PageState.stop (p : PageState) (f : Nat) : PageState :=
  { p with
    appends := p.appends.filter (fun a => a.fn != f)
    spills := p.spills.filter (fun m => m.fn != f)
    prefetches := p.prefetches.filter (fun m => m.fn != f)
    invalidations := p.invalidations.filter (fun v => v.fn != f)
    stopped := insertNat f p.stopped }

/-- The page engine's service of a function stops (R226): what is under way ends, ENABLED clears, the function and PF0 are told. -/
def State.stopService (s : State) (f g : Nat) : State :=
  let a : Args := { status := stUncorrectable, address := g, kind := 1 }
  let s := ({ s with mem := s.mem.note g false .uncorrectable, pages := s.pages.stop f }.modRec f (fun r => { r with enabled := false })).event f f srcPage 4 a
  if f = 0 then s else s.event 0 f srcPage 4 a

/-- An operation of function f's page engine, or the end of its service. -/
def State.paged (s : State) (f : Nat) (op : State → Paged State) : State :=
  match op s with
  | .ok t => t
  | .error g => s.stopService f g

end Sys2Proof.Machine
end

