-- ==== Sys2Proof/Machine/Shake.lean ====
section
/-! DEFINITION. SHAKE256, the hash of the security block and of the tandem store (R387, R395, R401, R405). The spec names it and gives no steps: they are those of FIPS 202, the constants of which are computed here as that standard defines them. -/

namespace Sys2Proof.Machine

/-- The shift register of eight bits behind the round constants, one step. -/
def roundBits (r : Nat) : Nat := if r < 128 then 2 * r else 2 * r ^^^ 0x171

/-- The constant of a round from the register at its first bit: seven bits at places 1, 2, 4, 8, ... less one; and the register for the next round. -/
def roundConstant (r : Nat) : W64 × Nat :=
  (List.range 7).foldl (fun x j => (if x.2 % 2 = 1 then x.1 ^^^ BitVec.ofNat 64 (2 ^ (2 ^ j - 1)) else x.1, roundBits x.2)) (0, r)

/-- Parity of each of the five columns. -/
def parities (a : List W64) : List W64 := (List.range 5).map (fun x => (List.range 5).foldl (fun s y => s ^^^ a.getD (5 * y + x) 0) 0)

/-- Every lane takes in the parities of the columns beside its own. -/
def mixColumns25 (a : List W64) : List W64 :=
  let p := parities a
  a.mapIdx (fun i w => w ^^^ p.getD ((i + 4) % 5) 0 ^^^ (p.getD ((i + 1) % 5) 0).rotateLeft 1)

/-- Lanes move along the walk (x, y) to (y, 2x + 3y), the t-th of them rotated by the t-th triangular number: `n` steps are left. -/
def walkLanes (a : List W64) : Nat → Nat → Nat → List W64 → List W64
  | 0, _, _, out => out
  | n + 1, x, y, out =>
    let t := 24 - n
    let z := (2 * x + 3 * y) % 5
    walkLanes a n y z (out.set (5 * z + y) ((a.getD (5 * y + x) 0).rotateLeft (t * (t + 1) / 2 % 64)))

/-- A row of five lanes, each combined with the two after it. -/
def combineRow (row : List W64) : List W64 :=
  row.mapIdx (fun i w => w ^^^ (~~~ row.getD ((i + 1) % 5) 0 &&& row.getD ((i + 2) % 5) 0))

/-- n rounds of the permutation of 25 lanes, from the register at the first round's first bit. -/
def permuteLanes : Nat → Nat → List W64 → List W64
  | 0, _, a => a
  | n + 1, r, a =>
    let k := roundConstant r
    let m := mixColumns25 a
    let w := walkLanes m 24 1 0 m
    let c := (List.range 5).flatMap (fun y => combineRow ((w.drop (5 * y)).take 5))
    permuteLanes n k.2 (c.modifyHead (· ^^^ k.1))

/-- A message with the marks that end it, as whole blocks of 136 bytes. -/
def shakePad (m : List Byte) : List Byte :=
  let free := 135 - m.length % 136
  m ++ (if free = 0 then [0x9F] else 0x1F :: List.replicate (free - 1) 0 ++ [0x80])

/-- n blocks taken in turn into the lanes. -/
def absorbBlocks : Nat → List W64 → List Byte → List W64
  | 0, a, _ => a
  | n + 1, a, m => absorbBlocks n (permuteLanes 24 1 (a.mapIdx (fun i w => if i < 17 then w ^^^ BitVec.ofNat 64 (fieldAt m (8 * i) 8) else w))) (m.drop 136)

/-- The first n bytes of SHAKE256, n at most 136. -/
def shake256 (n : Nat) (m : List Byte) : List Byte :=
  let p := shakePad m
  ((absorbBlocks (p.length / 136) (List.replicate 25 0) p).flatMap (fun x => natLe 8 x.toNat)).take n

/-- 32 bytes from the entropy source. -/
def drawBytes (k : Nat) : List Byte := natLe 32 (Config.entropy k).toNat

end Sys2Proof.Machine
end

