-- ==== Sys2Proof/Machine/Maps.lean ====
section
/-! DEFINITION. The memory path's commands (R161 to R165, R171 to R176, R182 to R184, R213): MAP_SET, RETIRE, PANNIER_FREE, seals, translation invalidation, scrub. -/

namespace Sys2Proof.Machine

/-- Byte x of a request. -/
def Req.u8 (q : Req) (a : Nat) : Nat := fieldAt q.params a 1

/-- Group x's entry under a MAP_SET (Table 15.10): RETIRED stays. -/
def mapGroup (q : Req) (old : Nat → GroupEntry) (x : Nat) : GroupEntry :=
  let b := q.u8 x
  { valid := bit b 0, spread := bit b 1, fn := BitVec.ofNat 4 (b / 16), retired := (old x).retired }

/-- Extent x's entry under a MAP_SET. -/
def mapExtent (q : Req) (x : Nat) : ExtentEntry :=
  let b := q.u8 (0x40 + x)
  { valid := bit b 0, spread := bit b 1, die := BitVec.ofNat 2 (b / 4), fn := BitVec.ofNat 4 (b / 16) }

/-- Every interleave domain there can be (R162). -/
def allDomains : List Domain :=
  (List.range 16).flatMap (fun f => { fn := f, spread := true, die := 0 } :: (List.range 4).map (fun d => ({ fn := f, spread := false, die := d } : Domain)))

/-- The domain's groups and extents agree (R162). -/
def domainOk (group : Nat → GroupEntry) (extent : Nat → ExtentEntry) (d : Domain) : Bool :=
  let gs := domGroups group d
  let es := domExtents extent d
  if gs.isEmpty then es.isEmpty else isPow2 gs.length && es.length + (gs.filter (fun x => (group x).retired)).length == gs.length

/-- Domain a group belongs to. -/
def groupDomain (x : Nat) (g : GroupEntry) : Domain := { fn := g.fn.toNat, spread := g.spread, die := if g.spread then 0 else x / 16 }

/-- Groups a change changes, and extents. -/
def changedGroups (m : MemState) (group : Nat → GroupEntry) : List Nat := (List.range 64).filter (fun x => group x != m.group x)
def changedExtents (m : MemState) (extent : Nat → ExtentEntry) : List Nat :=
  (List.range 64).filter (fun x => extent x != { m.extent x with pending := false })

/-- Extents of every domain a change touches (R165, step 1). -/
def touchedExtents (m : MemState) (group : Nat → GroupEntry) (extent : Nat → ExtentEntry) : List Nat :=
  let gs := changedGroups m group
  let es := changedExtents m extent
  let ds := gs.flatMap (fun x => (if (m.group x).valid then [groupDomain x (m.group x)] else []) ++ (if (group x).valid then [groupDomain x (group x)] else []))
    ++ es.flatMap (fun x => (if (m.extent x).valid then [(m.extent x).domain] else []) ++ (if (extent x).valid then [(extent x).domain] else []))
  (List.range 64).filter (fun x => es.contains x || ((m.extent x).valid && ds.contains (m.extent x).domain))

/-- Frames of an extent, as the frame table numbers them. -/
def extentFrames (x : Nat) : List Nat := (List.range 73728).map (73728 * x + ·)

/-- PENDING set or cleared on extents. -/
def MemState.setPending (m : MemState) (es : List Nat) (v : Bool) : MemState :=
  { m with extents := each es (fun x t => tmod {} t x (fun e => { e with pending := v })) m.extents }

/-- A fast retirement is being carried out. -/
def MemState.retiringFast (m : MemState) : Bool := m.retires.any (fun r => r.tier == .fast)

def mapForm : CmdForm :=
  { code := 0x0201, len := .fixed 128, pf0 := true, accepts := true
    masks := List.replicate 16 0xF3F3F3F3 ++ List.replicate 16 0xFFFFFFFF
    range := fun q => ((List.range 64).filter (fun x => let e := mapExtent q x; e.spread && e.die != 0)).map (fun x => 0x40 + x / 4 * 4) }

def mapRow (q : Req) (s : State) : State × Answer :=
  let m := s.mem
  let group := mapGroup q m.group
  let extent := mapExtent q
  match (List.range 64).find? (fun x => (m.group x).retired && group x != m.group x) with
  | some x => (s, badField (x / 4 * 4))
  | none =>
    if !allDomains.all (domainOk group extent) then (s, badField 0)
    else if m.mapChange.isSome || m.retiringFast then (s, busy)
    else
      let es := touchedExtents m group extent
      if s.pages.ftValid && es.any (fun x => (extentFrames x).any (fun e => (m.ftGet s.pages.ft e).st != ftHeld)) then (s, busy)
      else
        ({ s with mem := { m.setPending es true with mapChange := some { groups := (List.range 64).map group, extents := (List.range 64).map extent, cmd := q.cmd } } },
          { status := stAccepted })

/-- MAP_SET (R165). -/
def execMapSet (f : Fn) (m : Mb) (s : State) : Host.Outcome State Fault Refusal := .next (s.serve f m mapForm mapRow)

/-- Address whose grain a place holds: the placement of R163 and the redirection of R174 run backwards. -/
def MemState.addressOf (m : MemState) (pc w : Nat) : Option Nat :=
  let x := pc / 8
  let g := m.group x
  if !g.valid || g.retired then none
  else
    let d := groupDomain x g
    let gs := domGroups m.group d
    let n := 8 * gs.length
    let b := Nat.log2 n
    let p := 8 * gs.idxOf x + pc % 8
    let ret := (List.range n).filter (fun i => (m.group (gs.getD (i / 8) 0)).retired)
    let u := ret.length
    let base := 2359296 * (n - u) / n
    let live := (List.range n).filter (fun i => !ret.contains i)
    let t := (w - base) * (n - u) + live.idxOf p
    let pw := if u ≠ 0 ∧ base ≤ w then (ret.getD (t % u) 0, t / u) else (p, w)
    let a := 256 * (pw.2 * 2 ^ b + (if b = 0 then 0 else pw.1 ^^^ xorFold b 64 pw.2))
    ((domExtents m.extent d)[a / extentSize]?).map (fun e => extentSize * e + a % extentSize)

/-- Where a byte of a touched extent lies after a change: nowhere in a group that changed (R165, steps 3 and 4). -/
def movedTo (old new : MemState) (changed : List Nat) (a : Nat) : Option Nat :=
  let p := old.placeFast a
  if changed.contains (p.1 / 8) then none else (new.addressOf p.1 p.2).map (· + a % 256)

/-- The memory after a map change: nothing moves in the stacks, so what an address of a touched extent names changes. -/
def MemState.remap (m : MemState) (c : MapChange) : MemState :=
  let group (x : Nat) : GroupEntry := c.groups.getD x {}
  let extent (x : Nat) : ExtentEntry := c.extents.getD x {}
  let es := touchedExtents m group extent
  let changed := changedGroups m group
  let new : MemState :=
    { m with
      mapChange := none
      groups := each (List.range 64) (fun x t => tset {} t x (group x)) []
      extents := each (List.range 64) (fun x t => tset {} t x (extent x)) [] }
  let inside (a : Nat) : Bool := decide (a < 64 * extentSize) && es.contains (a / extentSize)
  { new with
    cells := (m.cells.filter (fun c => inside c.1)).foldl (fun l c => match movedTo m new changed c.1 with
      | some a => tset 0 l a c.2
      | none => l) (m.cells.filter (fun c => !inside c.1))
    ue := (m.ue.filter (fun g => inside (256 * g))).foldl (fun l g => match movedTo m new changed (256 * g) with
      | some a => insertNat (a / 256) l
      | none => l) (m.ue.filter (fun g => !inside (256 * g))) }

/-- Function of a fast frame's extent, 0 when the extent is not valid (R214). -/
def MemState.frameFn (m : MemState) (e : Nat) : Nat := let x := m.extent (e / 73728); if x.valid then x.fn.toNat else 0

/-- Every HELD fast frame's FUNCTION brought into line with its extent (R214); an entry that cannot be read is passed over (R226). -/
def MemState.refunction (m : MemState) (t : FtBase) : MemState :=
  if t.valid then
    (List.range fastFrames).foldl (fun m e =>
      let x := m.ftGet t e
      if x.st = ftHeld ∧ x.fn ≠ m.frameFn e ∧ m.ftUe t e = none then m.ftPut t e { x with fn := m.frameFn e } else m) m
  else m

/-- A frame-table entry that cannot be read is met by an operation that serves no one function: counted, and PF0 is told (R226; log 48). -/
def State.tableBad (s : State) (g : Nat) : State :=
  (s.noteBad (accErr stUncorrectable 0 g 1)).event 0 0 srcPage 4 { status := stUncorrectable, address := g, kind := 1 }

/-- The first frame-table entry of a list that cannot be read: its grain. -/
def State.tableUe (s : State) (es : List Nat) : Option Nat :=
  if s.pages.ftValid && !s.mem.ue.isEmpty then es.findSome? (s.mem.ftUe s.pages.ft) else none

/-- A core's grain is in flight to a fast extent that is pending (R165, step 2). -/
def State.inFlightPending (s : State) : Bool :=
  s.cores.cores.any (fun k => k.2.mover.descs.any (fun d => d.grains.any (fun g =>
    (g.st == .waiting || g.st == .read) && !g.walking && g.slot.isSome && decide (g.phys < 64 * extentSize) && (s.mem.extent (g.phys / extentSize)).pending)))

/-- The change is made and reported. -/
def State.mapDone (s : State) : State :=
  match s.mem.mapChange with
  | none => s
  | some c =>
    if s.inFlightPending then s
    else
      let s := { s with mem := (s.mem.remap c).refunction s.pages.ft }
      match s.tableUe (List.range fastFrames) with
      | some g => (s.tableBad g).complete c.cmd { status := stUncorrectable, address := g, kind := 1 }
      | none => s.complete c.cmd {}

/-- MAP_CHANGE_COMPLETE (R165). -/
def execMapChangeComplete (s : State) : Host.Outcome State Fault Refusal := .next (s.clocked (fun s => s.mapDone))

/-- Retired pseudo-channels of package channel c (R175). -/
def MemState.pannierGone (m : MemState) (c : Nat) : Nat := (m.pannierRetired.filter (fun x => x / 16 == c)).length

/-- A pannier frame has been given up by the retirements of its stack's package channel, u of them (R175). -/
def givenUp (c u f : Nat) : Bool := f % 12 / 3 == c && decide (65536 * (16 - u) ≤ f / 12)

/-- A pannier frame given up for good: from the moment its retirement is accepted (R175). -/
def MemState.retiredFrame (m : MemState) (f : Nat) : Bool :=
  let c := f % 12 / 3
  givenUp c (m.pannierGone c + (m.retires.filter (fun r => r.tier == .pannier && r.unit / 16 == c)).length) f

/-- Frames package channel c gives up with u pseudo-channels retired. -/
def givenUpFrames (c u : Nat) : List Nat :=
  (List.range (65536 * u)).flatMap (fun i => (List.range 3).map (fun j => 12 * (65536 * (16 - u) + i) + 3 * c + j))

def retireForm : CmdForm :=
  { code := 0x0202, len := .fixed 24, pf0 := true, accepts := true, masks := [1, 0x3F, 0xF, 0, 0xFFFFFFFF, 0xFFFF]
    range := fun q => if q.u32 0 = 1 ∧ 4 ≤ q.u32 4 then [4] else [] }

/-- RETIRE of a fast group (R174). While no frame table is placed no frame counts as not free (DESIGN CHOICE, log 46). -/
def retireFastRow (q : Req) (s : State) : State × Answer :=
  let x := q.u32 4
  let g := s.mem.group x
  if !g.valid || g.retired then (s, badField 4)
  else if s.mem.mapChange.isSome || s.mem.retires.any (fun r => r.tier == .fast && groupDomain r.unit (s.mem.group r.unit) == groupDomain x g) then (s, busy)
  else
    let es := domExtents s.mem.extent (groupDomain x g)
    match es.getLast? with
    | none => (s, badField 4)
    | some last =>
      if s.pages.ftValid && (extentFrames last).any (fun e => (s.mem.ftGet s.pages.ft e).st != ftFree) then (s, busy)
      else
        ({ s with mem := { s.mem.setPending es true with retires := s.mem.retires ++ [{ tier := .fast, unit := x, listAddr := q.u64 16 % 2 ^ 48, cmd := q.cmd }] } },
          { status := stAccepted })

/-- The free stack of function f without some of its pannier frames, in the same order (R175). -/
def State.dropFromStack (s : State) (f : Nat) (gone : Nat → Bool) : State :=
  let r := s.pageRec f
  let base := r.pannierStack.toNat
  let l := (List.range r.freePannier.toNat).map (fun i => s.mem.readLe (base + 4 * i) 4 % 2 ^ 25)
  let keep := l.filter (fun x => !gone x)
  if keep.length = l.length then s
  else { s with mem := s.mem.write base (keep.flatMap (natLe 4)) }.modRec f (fun r => { r with freePannier := BitVec.ofNat 32 keep.length })

/-- The frames given up become HELD and leave every free stack (R175). -/
def State.giveUp (s : State) (c u : Nat) : State :=
  if s.pages.ftValid then
    let s := each (List.range 16) (fun f s => s.dropFromStack f (givenUp c u)) s
    each ((givenUpFrames c u).filter (fun x => (s.mem.ftGet s.pages.ft (fastFrames + x)).st == ftFree)) (fun x s =>
      { s with mem := s.mem.ftMod s.pages.ft (fastFrames + x) (fun e => { e with count := 0, st := ftHeld }) }) s
  else s

/-- RETIRE of a pannier group (R175). -/
def retirePannierRow (q : Req) (s : State) : State × Answer :=
  let c := q.u32 4
  let unit := 16 * c + q.u32 8
  let u := s.mem.pannierGone c + 1
  let held (x : Nat) : Bool := let st := (s.mem.ftGet s.pages.ft (fastFrames + x)).st; st == ftHeld || st == ftFree
  if s.mem.pannierRetired.contains unit then (s, badField 8)
  else if s.mem.retires.any (fun r => r.tier == .pannier && r.unit / 16 == c) || s.mem.fill.any (fun e => givenUp c u e.1)
      || (s.pages.ftValid && !(givenUpFrames c u).all held) then (s, busy)
  else
    let s := s.giveUp c u
    ({ s with mem := { s.mem with retires := s.mem.retires ++ [{ tier := .pannier, unit := unit, listAddr := q.u64 16 % 2 ^ 48, cmd := q.cmd }] } },
      { status := stAccepted })

def retireRow (q : Req) (s : State) : State × Answer := if q.u32 0 = 1 then retirePannierRow q s else retireFastRow q s

/-- RETIRE (R174, R175). -/
def execRetire (f : Fn) (m : Mb) (s : State) : Host.Outcome State Fault Refusal := .next (s.serve f m retireForm retireRow)

/-- Grains that were uncorrectable in the copy are written as zeros. -/
def MemState.zeroGrains (m : MemState) (gs : List Nat) : MemState := gs.foldl (fun m g => m.zero (256 * g) (256 * g + 256)) m

/-- Uncorrectable grains the copy of a retirement meets: those that lie in what is retired, beside what is given up. -/
def MemState.retireBad (m : MemState) (r : RetireJob) : List Nat :=
  m.ue.filter (fun g =>
    let a := 256 * g
    match r.tier, placeOf a with
    | .fast, .fast x => (m.extent x).valid && (m.placeFast a).1 / 8 == r.unit && (domExtents m.extent (m.extent x).domain).getLast? != some x
    | .pannier, .pannier f =>
      let p := m.placePannier a
      p.1 / 3 == r.unit / 16 && p.2.1 == r.unit % 16 && !givenUp (r.unit / 16) (m.pannierGone (r.unit / 16) + 1) f
    | _, _ => false)

/-- The tables after a retirement (R174 steps 3 to 5, R175); what the last extent or the frames given up held is gone. -/
def MemState.retired (m : MemState) (r : RetireJob) : MemState :=
  match r.tier with
  | .fast =>
    let es := domExtents m.extent (groupDomain r.unit (m.group r.unit))
    let last := es.getLast?.getD 0
    let m := (m.setPending es false).zero (extentSize * last) (extentSize * (last + 1))
    { m with
      extents := tmod {} m.extents last (fun e => { e with valid := false })
      groups := tmod {} m.groups r.unit (fun g => { g with retired := true }) }
  | .pannier =>
    let gone (a : Nat) : Bool := decide (pannierBase ≤ a) && decide (a < controlBase) && givenUp (r.unit / 16) (m.pannierGone (r.unit / 16) + 1) ((a - pannierBase) / 65536)
    { m with
      cells := m.cells.filter (fun c => !gone c.1)
      ue := m.ue.filter (fun g => !gone (256 * g))
      pannierRetired := insertNat r.unit m.pannierRetired }

/-- The copy is done: the tables change, the tandem store has it, the capacity is reported as lost (R415, kind 6), and the count of uncorrectable grains is reported, up to 64 addresses on the list (R174, Table 15.10). -/
def State.retireDone (s : State) : State :=
  match s.mem.retires with
  | [] => s
  | r :: rest =>
    if s.inFlightPending then s
    else
      let bad := s.mem.retireBad r
      let s := each bad (fun g s => s.noteBad (accErr stUncorrectable 0 (256 * g) 1)) s
      let s := { s with mem := { (s.mem.zeroGrains bad).retired r with retires := rest } }
      let s := s.recordItem (fun t => match r.tier with
        | .fast => { t with fastRetired := insertNat r.unit t.fastRetired }
        | .pannier => { t with pannierRetired := insertNat r.unit t.pannierRetired })
      let list := (bad.take 64).flatMap (fun g => natLe 8 (256 * g))
      let s := s.spareOut 6 (match r.tier with
        | .fast => r.unit
        | .pannier => 64 + r.unit) true
      match s.writeVirt 0 r.listAddr list with
      | .ok s => s.complete r.cmd { arg0 := bad.length }
      | .error e => s.complete r.cmd { e with arg0 := bad.length }

/-- RETIRE_COMPLETE (R174, R175). -/
def execRetireComplete (s : State) : Host.Outcome State Fault Refusal := .next (s.clocked (fun s => s.retireDone))

/-- The pannier frames a request names, as far as there are such frames. -/
def Req.namedPannier (q : Req) : List Nat := (List.range (min (q.u32 4) (pannierFrames - q.u32 0))).map (q.u32 0 + ·)

def pannierFreeForm : CmdForm :=
  { code := 0x0203, len := .fixed 8, masks := [0x1FFFFFF, 0xFFFFFFFF]
    owns := fun q s => q.fn == 0 || q.namedPannier.all (fun x => s.mem.pannierOwner s.pages.ft x == q.fn)
    range := fun q => (if pannierFrames ≤ q.u32 0 then [0] else []) ++ (if q.u32 4 = 0 ∨ pannierFrames < q.u32 0 + q.u32 4 then [4] else []) }

/-- A pannier frame is HELD, as every one is while no frame table is placed (R176, R214). -/
def State.mayFree (s : State) (x : Nat) : Bool := !s.pages.ftValid || (s.mem.ftGet s.pages.ft (fastFrames + x)).st == ftHeld

def Fill.isFilling : Fill → Bool
  | .filling _ => true
  | _ => false

def pannierFreeRow (q : Req) (s : State) : State × Answer :=
  let first := q.u32 0
  let n := q.u32 4
  let named (x : Nat) : Bool := decide (first ≤ x) && decide (x < first + n)
  if !(List.range n).all (fun i => s.mayFree (first + i)) then (s, notPermitted)
  else if s.mem.fill.any (fun e => named e.1 && e.2.isFilling) then (s, busy)
  else ({ s with mem := { s.mem with fill := tclear s.mem.fill first (first + n) } }, {})

/-- PANNIER_FREE (R176). -/
def execPannierFree (f : Fn) (m : Mb) (s : State) : Host.Outcome State Fault Refusal := .next (s.serve f m pannierFreeForm pannierFreeRow)

def sealForm : CmdForm :=
  { code := 0x0207, len := .fixed 8, masks := [0x1FFFFFF, 0x1FFFFFF], range := fun q => if q.u32 4 < q.u32 0 then [4] else [] }

/-- 64 KiB frame number k lies where function f may seal (R182). -/
def State.sealable (s : State) (f k : Nat) : Bool :=
  match placeOf (65536 * k) with
  | .fast x => (s.mem.extent x).valid && (s.mem.extent x).fn.toNat == f
  | .pannier x => s.mem.pannierOwner s.pages.ft x == f
  | _ => false

/-- A function's key pair from draw d on, and the draw after it (R407): 64 bytes of SHAKE256 over OWNER_SEED, the draw and the function number; drawn again while the two keys are equal, `n` times at most (log 52). -/
def keyPair (owner : List Byte) (f : Nat) : Nat → Nat → BitVec 512 × Nat
  | 0, d => (BitVec.ofNat 512 (leNat (shake256 64 (sliceAt owner 0 32 ++ drawBytes d ++ natLe 1 f))), d + 1)
  | n + 1, d =>
    let k := shake256 64 (sliceAt owner 0 32 ++ drawBytes d ++ natLe 1 f)
    if k.take 32 == k.drop 32 then keyPair owner f n (d + 1) else (BitVec.ofNat 512 (leNat k), d + 1)

/-- The function's key pair, drawn at its first SEAL_CREATE after a reset of it (R407). -/
def State.deriveKey (s : State) (f : Nat) : State :=
  if (tget none s.mem.sealKeys f).isSome then s
  else
    let k := keyPair (natLe 32 s.sec.ownerSeed.toNat) f 64 s.freeCtr
    { s with mem := { s.mem with sealKeys := tset none s.mem.sealKeys f (some k.1) }, freeCtr := k.2 }

def sealRow (q : Req) (s : State) : State × Answer :=
  let lo := q.u32 0
  let hi := q.u32 4
  if s.sec.lifecycle = 3 then (s, { status := stLifecycle })
  else if s.mem.seals.any (fun e => e.2.valid && decide (e.2.base.toNat ≤ hi) && decide (lo ≤ e.2.limit.toNat)) then (s, badField 0)
  else if !(List.range (hi + 1 - lo)).all (fun i => s.sealable q.fn (lo + i)) then (s, { status := stSealed })
  else
    match (List.range 64).find? (fun i => !(s.mem.seal i).valid) with
    | none => (s, { status := stNoMemory })
    | some i =>
      let s := s.deriveKey q.fn
      ({ s with mem := { s.mem with seals := tset {} s.mem.seals i { base := BitVec.ofNat 25 lo, limit := BitVec.ofNat 25 hi, owner := BitVec.ofNat 4 q.fn, valid := true } } },
        { reply := natLe 4 i })

/-- SEAL_CREATE (R182, R397, R407). -/
def execSealCreate (f : Fn) (m : Mb) (s : State) : Host.Outcome State Fault Refusal := .next (s.serve f m sealForm sealRow)

def unsealForm : CmdForm :=
  { code := 0x0208, len := .fixed 4, masks := [0x3F], accepts := true
    owns := fun q s => let e := s.mem.seal (q.u32 0 % 64); q.fn == 0 || !e.valid || e.owner.toNat == q.fn }

def unsealRow (q : Req) (s : State) : State × Answer :=
  let i := q.u32 0
  let e := s.mem.seal i
  if !e.valid then (s, badField 0)
  else if s.mem.removals.any (fun r => r.entry == i) then (s, busy)
  else ({ s with mem := { s.mem with removals := s.mem.removals ++ [{ entry := i, cmd := some q.cmd }] } }, { status := stAccepted })

/-- SEAL_REMOVE (R182). -/
def execSealRemove (f : Fn) (m : Mb) (s : State) : Host.Outcome State Fault Refusal := .next (s.serve f m unsealForm unsealRow)

/-- The zeros are written and the entry is gone (R182). -/
def MemState.unseal (m : MemState) (i : Nat) : MemState :=
  let e := m.seal i
  let m := m.zero (65536 * e.base.toNat) (65536 * (e.limit.toNat + 1))
  { m with seals := tset {} m.seals i {}, removals := m.removals.filter (fun r => r.entry != i) }

/-- A seal's removal ends; the command that asked is told. -/
def State.sealRemoved (s : State) (i : Nat) : State :=
  match s.mem.removals.find? (fun r => r.entry == i) with
  | none => s
  | some r =>
    let s := { s with mem := s.mem.unseal i }
    match r.cmd with
    | some c => s.complete c {}
    | none => s

/-- SEAL_REMOVE_COMPLETE (R182). -/
def execSealRemoveComplete (e : Fin 64) (s : State) : Host.Outcome State Fault Refusal := .next (s.clocked (fun s => s.sealRemoved e))

def xlateForm : CmdForm :=
  { code := 0x0209, len := .fixed 12, masks := [0xFFFFFFFF, 0xFFFF, 0xFFFFFFFF], range := fun q => if q.u32 0 % 65536 = 0 then [] else [0] }

def xlateRow (q : Req) (s : State) : State × Answer :=
  let lo := q.u64 0 / 65536
  let n := q.u32 8
  ({ s with pages := s.pages.invalidate q.fn (fun p => n == 0 || (decide (lo ≤ p) && decide (p < lo + n))) }, {})

/-- XLATE_INVALIDATE (R213). -/
def execXlateInvalidate (f : Fn) (m : Mb) (s : State) : Host.Outcome State Fault Refusal := .next (s.serve f m xlateForm xlateRow)

/-- The scrub writes a grain back as the code decoded it (R171): what it already holds, unless its errors led to another codeword (R169). -/
def MemState.scrubBack (m : MemState) (g : Nat) (raw : List Byte) : MemState := if raw = m.raw g then m else { m with cells := setBytes 0 m.cells (256 * g) raw }

/-- The scrub reads a grain that a stack holds: a new pass begins at a stack's first grain (R171, R173; log 21). -/
def State.scrub (s : State) (a : Nat) (es : List SymbolError) : State :=
  match placeOf a with
  | .control | .unmapped => s
  | _ =>
    let x := s.mem.stackPlace a
    let g := a / 256
    let r := s.mem.readGrain g es
    let m := if r.outcome = .uncorrectable then s.mem else s.mem.scrubBack g (stackRead (s.mem.raw g) es).data
    let m := if x.2 = (0, 0) then { m with rowErrors := tclear m.rowErrors (2 ^ 40 * x.1) (2 ^ 40 * (x.1 + 1)) } else m
    { s with mem := m }.noteGrain (256 * g) true r

/-- SCRUB_GRAIN (R171 to R173). -/
def execScrubGrain (addr : Nat) (errors : List SymbolError) (s : State) : Host.Outcome State Fault Refusal := .next (s.clocked (fun s => s.scrub addr errors))

end Sys2Proof.Machine
end

