-- ==== Sys2Proof/Machine/Channels.lean ====
section
/-! DEFINITION. The relaxed channels' queues (R103, R105, R107, R108, R159, R176 to R178, R184, R354, R355): pannier movers and the host copy engine, their descriptors (Tables 7.9, 15.21), fences, failures and resumption. -/

namespace Sys2Proof.Machine

/-- A queue of a channel. -/
def State.queue (s : State) (ch : ChannelIx) (f : Nat) : ChanQueue :=
  match ch with
  | .pannier => tget {} s.mem.movers f
  | .hostCopy => tget {} s.mem.hostq f
  | .collective => tget {} s.fabric.queues f

def State.setQueue (s : State) (ch : ChannelIx) (f : Nat) (q : ChanQueue) : State :=
  match ch with
  | .pannier => { s with mem := { s.mem with movers := tset {} s.mem.movers f q } }
  | .hostCopy => { s with mem := { s.mem with hostq := tset {} s.mem.hostq f q } }
  | .collective => { s with fabric := { s.fabric with queues := tset {} s.fabric.queues f q } }

/-- A descriptor of any channel, as its start, fences and end need it. KIND: 0 work, 1 FENCE_DEVICE, 2 FENCE_HOST, 3 rejected. -/
structure RDesc where
  kind : Nat
  flag : Bool
  startEn : Bool
  doneEn : Bool
  event : Bool
  count : Nat
  src : Nat
  dst : Nat
  startCtr : Nat
  startThr : Nat
  doneCtr : Nat
  doneAmount : Nat
  deriving DecidableEq, Repr

/-- Pannier mover descriptor (Table 7.9); flag is PHYS. -/
def parsePannier (b : List Byte) : RDesc :=
  let w := fieldAt b 0 4
  let x := fieldAt b 8 8
  let y := fieldAt b 16 8
  { kind := field w 1 0, flag := bit w 2, startEn := bit w 3, doneEn := bit w 4, event := bit w 5, count := fieldAt b 4 4 % 2 ^ 25
    src := 256 * field x 39 0, dst := 256 * field y 39 0, startCtr := field x 51 40, doneCtr := field y 51 40
    startThr := fieldAt b 24 4, doneAmount := fieldAt b 28 2 }

/-- Host copy descriptor (Table 15.21); flag is TO_HOST, src the host address, dst the device address. -/
def parseHostCopy (b : List Byte) : RDesc :=
  let w := fieldAt b 0 4
  let y := fieldAt b 16 8
  let z := fieldAt b 28 4
  { kind := field w 1 0, flag := bit w 2, startEn := bit w 3, doneEn := bit w 4, event := bit w 5, count := fieldAt b 4 4
    src := fieldAt b 8 8, dst := field y 47 0, startCtr := field y 59 48, doneCtr := field z 11 0
    startThr := fieldAt b 24 4, doneAmount := field z 27 12 }

/-- Collective descriptor (Table 11.8) as far as its queue needs it: KIND 3 and 4 are the fences. -/
def parseCollQueue (b : List Byte) : RDesc :=
  let w := fieldAt b 0 4
  let x := fieldAt b 8 8
  let y := fieldAt b 16 8
  let k := field w 2 0
  { kind := if k ≤ 2 then 0 else if k = 3 then 1 else if k = 4 then 2 else 3, flag := false, startEn := bit w 14, doneEn := bit w 15, event := bit w 16
    count := fieldAt b 0x1C 4, src := 256 * field x 39 0, dst := 256 * field y 39 0, startCtr := field x 51 40, doneCtr := field y 51 40
    startThr := fieldAt b 0x20 4, doneAmount := fieldAt b 0x24 2 }

def parseDesc : ChannelIx → List Byte → RDesc
  | .pannier, b => parsePannier b
  | .hostCopy, b => parseHostCopy b
  | .collective, b => parseCollQueue b

/-- A fence (R107). -/
def RDesc.fence (d : RDesc) : Bool := d.kind == 1 || d.kind == 2

/-- Offsets of words of entry i's with a reserved bit set: entries of a size from an offset on, with the defined bits of each word in turn (R332, check 4). -/
def entryBad (q : Req) (start size n : Nat) (masks : List Nat) : List Nat :=
  (List.range n).flatMap (fun i => reservedBad masks (start + size * i) q)

/-- COUNT entries cut out of a request. -/
def Req.entries (q : Req) (start size n : Nat) : List (List Byte) := (List.range n).map (fun i => sliceAt q.params (start + size * i) size)

/-- Descriptors appended to a queue, with their ordinals (Table 15.7). -/
def ChanQueue.post (q : ChanQueue) (l : List (List Byte)) : ChanQueue :=
  l.foldl (fun q b => { q with descs := q.descs ++ [{ bytes := b, ordinal := q.posted }], posted := q.posted + 1 }) q

def pannierMasks : List Nat := [0x3F, 0x1FFFFFF, 0xFFFFFFFF, 0xFFFFF, 0xFFFFFFFF, 0xFFFFF, 0xFFFFFFFF, 0xFFFF]
def hostCopyMasks : List Nat := [0x3F, 0xFFFFFFFF, 0xFFFFFFFF, 0xFFFFFFFF, 0xFFFFFFFF, 0x0FFFFFFF, 0xFFFFFFFF, 0x0FFFFFFF]

def postForm (code : Nat) (masks : List Nat) : CmdForm :=
  { code := code, len := .counted 0 3 0 32, masks := [0xF, 0, 0, 0]
    range := fun q => let n := q.u32 0 % 16; (if n = 0 ∨ n = 15 then [0] else []) ++ entryBad q 16 32 n masks }

def postRow (ch : ChannelIx) (q : Req) (s : State) : State × Answer :=
  let n := q.u32 0 % 16
  let x := s.queue ch q.fn
  if 256 < x.descs.length + n then (s, busy) else (s.setQueue ch q.fn (x.post (q.entries 16 32 n)), {})

/-- MOVER_POST (R177). -/
def execMoverPost (f : Fn) (m : Mb) (s : State) : Host.Outcome State Fault Refusal := .next (s.serve f m (postForm 0x0204 pannierMasks) (postRow .pannier))

/-- HOST_COPY_POST (R354). -/
def execHostCopyPost (f : Fn) (m : Mb) (s : State) : Host.Outcome State Fault Refusal := .next (s.serve f m (postForm 0x0205 hostCopyMasks) (postRow .hostCopy))

def chanOf : Nat → ChannelIx
  | 0 => .pannier
  | 1 => .hostCopy
  | _ => .collective

def resumeForm : CmdForm :=
  { code := 0x0206, len := .fixed 12, masks := [3, 0xF, 1], owns := fun q _ => q.fn == 0 || q.u32 4 % 16 == q.fn, range := fun q => if q.u32 0 % 4 = 3 then [0] else [] }

def resumeRow (q : Req) (s : State) : State × Answer :=
  let ch := chanOf (q.u32 0)
  let f := q.u32 4
  let x := s.queue ch f
  if !x.halted then (s, { status := stSequenceState })
  else if x.haltedMem && q.fn != 0 then (s, notPermitted)
  else (s.setQueue ch f { x with halted := false, haltedMem := false, descs := if bit (q.u32 8) 0 then [] else x.descs }, {})

/-- QUEUE_RESUME (R178). -/
def execQueueResume (f : Fn) (m : Mb) (s : State) : Host.Outcome State Fault Refusal := .next (s.serve f m resumeForm resumeRow)

/-- The hub counter is allotted to the function (R101). -/
def CtxRec.ownsHub (r : CtxRec) (ix : Nat) : Bool := r.hubCtrUnits.getLsbD (ix % 4096 / 64)

/-- Why a descriptor ends at its start (R177, Table 15.21). -/
def startRefusal (ch : ChannelIx) (f : Nat) (r : CtxRec) (d : RDesc) : Option Nat :=
  let most := match ch with
    | .pannier => 16777216
    | _ => 2 ^ 31
  if d.kind = 3 ∨ (d.fence = true ∧ d.count ≠ 0) ∨ (d.fence = false ∧ (d.count = 0 ∨ most < d.count)) then some stBadField
  else if (ch = .pannier ∧ d.flag = true ∧ f ≠ 0) ∨ (d.startEn = true ∧ r.ownsHub d.startCtr = false) ∨ (d.doneEn = true ∧ r.ownsHub d.doneCtr = false) then some stNotPermitted
  else none

/-- A MOVER entry (Table 15.7). -/
def State.moverEntry (s : State) (ch : ChannelIx) (f : Nat) (q : QDesc) (written : Nat) (e : Args) : State :=
  s.event f f srcMover (if ch = .pannier then 1 else 2) { e with arg0 := q.ordinal.toNat, arg1 := written }

/-- A descriptor leaves its queue. -/
def ChanQueue.drop (x : ChanQueue) (q : QDesc) : ChanQueue := { x with descs := x.descs.erase q }

/-- A descriptor ends with an error: reported always, its DONE ADD dropped, the queue halted (R178, R172). -/
def State.descFails (s : State) (ch : ChannelIx) (f : Nat) (q : QDesc) (written : Nat) (e : Args) : State :=
  ((s.setQueue ch f { (s.queue ch f).drop q with halted := true, haltedMem := e.status == stUncorrectable }).noteBad e).moverEntry ch f q written e

/-- A descriptor completes: its DONE ADD, and its entry if it asks for one (R103, R178). -/
def State.descDone (s : State) (ch : ChannelIx) (f : Nat) (q : QDesc) (written : Nat) : State :=
  let d := parseDesc ch q.bytes
  let s := s.setQueue ch f ((s.queue ch f).drop q)
  let s := if d.doneEn then s.addHub d.doneCtr d.doneAmount else s
  if d.event then s.moverEntry ch f q written {} else s

/-- A queue's first descriptor not started, if every earlier fence has completed (R178). -/
def ChanQueue.startable (x : ChanQueue) (ch : ChannelIx) : Option QDesc :=
  if x.halted then none
  else
    match x.descs.find? (fun q => !q.started) with
    | none => none
    | some q => if (x.descs.takeWhile (fun q => q.started)).any (fun q => (parseDesc ch q.bytes).fence) then none else some q

/-- Descriptor marked started. -/
def ChanQueue.begin (x : ChanQueue) (q : QDesc) (ns : Nat) : ChanQueue :=
  { x with descs := mapIf (fun y => y == q) (fun y => { y with started := true, startNs := ns }) x.descs }

/-- Places in memory that a descriptor's pieces are read from: the grains of a MOVE, the pieces of a copy to the host. -/
def RDesc.reads (ch : ChannelIx) (d : RDesc) : List (Nat × Nat) :=
  if d.fence then []
  else
    match ch with
    | .pannier => (List.range d.count).map (fun i => (d.src + 256 * i, 256))
    | .hostCopy => if d.flag then grainPieces d.dst d.count else []
    | .collective => []

/-- Pieces read as the descriptor starts, by the model's free bits; the others are read when it ends. So a reader that nothing orders after a writer finds, grain by grain, the old or the new contents (R104, R282; log 14). -/
def State.earlyReads (s : State) (ch : ChannelIx) (f : Nat) (d : RDesc) : List (Nat × List Byte) :=
  (d.reads ch).filterMap (fun x =>
    if Config.freeNew s.freeCtr x.1 0 then
      match readPiece s.mem s.pages f (ch == .pannier && d.flag) x with
      | .ok bs => some (x.1, bs)
      | .error _ => none
    else none)

/-- A piece of a descriptor's source: as read early, or as memory holds it now. -/
def State.sourcePiece (s : State) (f : Nat) (phys : Bool) (early : List (Nat × List Byte)) (x : Nat × Nat) : Except Args (List Byte) :=
  match early.find? (fun e => e.1 == x.1) with
  | some e => .ok e.2
  | none => readPiece s.mem s.pages f phys x

/-- A descriptor marked started, with what it reads at once. -/
def State.descBegins (s : State) (ch : ChannelIx) (f : Nat) (q : QDesc) : State :=
  let x := s.queue ch f
  let e := s.earlyReads ch f (parseDesc ch q.bytes)
  { s with freeCtr := s.freeCtr + 1 }.setQueue ch f { x with descs := mapIf (fun y => y == q) (fun y => { y with started := true, startNs := s.ns, early := e }) x.descs }

/-- A context being pre-empted or saved starts no descriptor (R244). -/
def CtxRec.startsWork (r : CtxRec) : Bool := r.st == .running || r.st == .absent

/-- MOVER_DESCRIPTOR_START on a mover or host-copy queue (R178). -/
def State.descStart (s : State) (ch : ChannelIx) (f : Nat) : State :=
  match (s.queue ch f).startable ch with
  | none => s
  | some q =>
    let d := parseDesc ch q.bytes
    if !(s.ctxOf f).startsWork then s
    else
      match startRefusal ch f (s.ctxOf f) d with
      | some st => s.descFails ch f q 0 { status := st }
      | none =>
        if d.startEn && s.share.ctrBad 0 (4096 + d.startCtr) then s.descFails ch f q 0 { status := stUncorrectable }
        else if d.startEn && !meets (s.share.ctr 0 (4096 + d.startCtr)) (BitVec.ofNat 32 d.startThr) then s
        else s.descBegins ch f q

/-- MOVER_DESCRIPTOR_START (R178); a collective descriptor starts by COLLECTIVE_START. -/
def execMoverDescriptorStart (ch : ChannelIx) (f : Fn) (s : State) : Host.Outcome State Fault Refusal :=
  .next (s.clocked (fun s => match ch with
    | .collective => s
    | _ => s.descStart ch f))

/-- One transfer of a descriptor: bytes, where they go, or why not; the die links they cross, and the error that ends the descriptor where they do not arrive. -/
structure Transfer where
  data : List Byte
  dst : Nat
  links : List Nat := []
  lost : Args := {}
  deriving DecidableEq, Repr

/-- Die links on the way between the hub and a place a function names; none where it does not lead to memory. -/
def State.wayTo (s : State) (f : Nat) (phys : Bool) (a : Nat) : List Nat :=
  match reach s.mem s.pages f phys false a with
  | .at_ p => (s.hubLinks p).getD []
  | .bad _ => []

/-- Grain i of a pannier mover's MOVE (R172, R176, R184). -/
def moveGrain (s : State) (f : Nat) (d : RDesc) (early : List (Nat × List Byte)) (i : Nat) : Except Args Transfer :=
  let a := d.src + 256 * i
  let b := d.dst + 256 * i
  match s.sourcePiece f d.flag early (a, 256) with
  | .error e => .error e
  | .ok bs =>
    match reach s.mem s.pages f d.flag true b with
    | .bad e => .error e
    | .at_ p =>
      let sealedSrc := match reach s.mem s.pages f d.flag false a with
        | .at_ x => (s.mem.sealOf x).isSome
        | .bad _ => false
      if sealedSrc && (s.mem.sealOf p).isNone then .error (accErr stSealed 0 b (b2n d.flag))
      else
        match placeOf p with
        | .pannier x =>
          let fl := tget .empty s.mem.fill x
          if fl = .empty ∨ fl = .filling f then .ok { data := bs, dst := p, links := s.wayTo f d.flag a, lost := accErr stUncorrectable 0 p 1 } else .error (accErr stNotPermitted 0 b (b2n d.flag))
        | _ => .ok { data := bs, dst := p, links := s.wayTo f d.flag a ++ (s.hubLinks p).getD [], lost := accErr stUncorrectable 0 p 1 }

/-- A grain stored by a mover: a pannier frame it writes is FILLING for its queue (R176). One the zero fill has not come to reads as zeros until then, and from then on (R381; log 43): nothing of the grain stays. -/
def MemState.moverStore (m : MemState) (f filled : Nat) (t : Transfer) : MemState :=
  match placeOf t.dst with
  | .pannier x =>
    let m := if x < filled then m.putGrain (t.dst / 256) t.data else m
    { m with fill := tset .empty m.fill x (.filling f) }
  | _ => m.putGrain (t.dst / 256) t.data

/-- The error of the first transfer that fails, in address order. -/
def firstError : List (Except Args Transfer) → Option Args
  | [] => none
  | .error e :: _ => some e
  | .ok _ :: l => firstError l

/-- What is written of a list of transfers: all of them, or, when one fails, those the model's free bits name (R105, R178; log 22). -/
def written (ctr : Nat) (failed : Bool) : Nat → List (Except Args Transfer) → List Transfer
  | _, [] => []
  | i, .ok t :: l => if !failed || Config.freeNew ctr i 0 then t :: written ctr failed (i + 1) l else written ctr failed (i + 1) l
  | i, .error _ :: l => written ctr failed (i + 1) l

/-- The first transfer of a descriptor meets what waits on the die links and in the hub's SRAM (R170, R172; log 47). -/
def State.firstCrosses (s : State) (l : List (Except Args Transfer)) : State × List (Except Args Transfer) :=
  match l with
  | .ok t :: rest =>
    let r := s.crossLinks t.links true t.lost.address t.data
    (r.1, (match r.2 with
      | some d => .ok { t with data := d }
      | none => .error t.lost) :: rest)
  | _ => (s, l)

/-- A descriptor's transfers made, and how it ends. -/
def State.finish (s : State) (ch : ChannelIx) (f : Nat) (q : QDesc) (l : List (Except Args Transfer)) (put : List Transfer → State → State) : State :=
  let x := s.firstCrosses l
  let s := x.1
  let l := x.2
  let bad := firstError l
  let w := written s.freeCtr bad.isSome 0 l
  let s := put w { s with freeCtr := s.freeCtr + 1 }
  match bad with
  | some e => s.descFails ch f q w.length e
  | none => s.descDone ch f q w.length

/-- The whole of a pannier MOVE (R178). -/
def State.moveDone (s : State) (f : Nat) (q : QDesc) : State :=
  let d := parsePannier q.bytes
  s.finish .pannier f q ((List.range d.count).map (moveGrain s f d q.early)) (fun w s => { s with mem := w.foldl (fun m t => m.moverStore f s.rst.pannierFilled t) s.mem })

/-- Piece of a device-to-host copy: the host address is the destination. -/
def toHostPiece (s : State) (f : Nat) (d : RDesc) (early : List (Nat × List Byte)) (x : Nat × Nat) : Except Args Transfer :=
  match s.sourcePiece f false early x with
  | .error e => .error e
  | .ok bs => .ok { data := bs, dst := (d.src + (x.1 - d.dst)) % 2 ^ 64, links := s.wayTo f false x.1, lost := accErr stUncorrectable 0 x.1 0 }

/-- Piece of a host-to-device copy. -/
def fromHostPiece (s : State) (f : Nat) (d : RDesc) (x : Nat × Nat) : Except Args Transfer :=
  match writePlace s.mem s.pages f false x with
  | .bad e => .error e
  | .at_ p => .ok { data := bytesAt 0 s.host.memory ((d.src + (x.1 - d.dst)) % 2 ^ 64) x.2, dst := p, links := (s.hubLinks p).getD [], lost := accErr stUncorrectable 0 p 1 }

/-- Transfers to the host made: the last byte written is the last host address of the queue (R354, R355; log 50). -/
def State.toHost (f : Nat) (w : List Transfer) (s : State) : State :=
  let x := s.queue .hostCopy f
  { s with host := { s.host with memory := w.foldl (fun h (t : Transfer) => setBytes 0 h t.dst t.data) s.host.memory } }.setQueue .hostCopy f
    { x with lastHost := (w.getLast?.map (fun (t : Transfer) => BitVec.ofNat 64 (t.dst + (t.data.length - 1)))).or x.lastHost }

/-- The whole of a host copy (R354, Table 7.4). -/
def State.hostCopyDone (s : State) (f : Nat) (q : QDesc) : State :=
  let d := parseHostCopy q.bytes
  let ps := grainPieces d.dst d.count
  if d.flag then s.finish .hostCopy f q (ps.map (toHostPiece s f d q.early)) (State.toHost f)
  else s.finish .hostCopy f q (ps.map (fromHostPiece s f d)) (fun w s => w.foldl (fun s t => s.writePhys f t.dst t.data) s)

/-- The oldest started descriptor that is no fence. -/
def ChanQueue.running (x : ChanQueue) (ch : ChannelIx) : Option QDesc :=
  if x.halted then none else x.descs.find? (fun q => q.started && !(parseDesc ch q.bytes).fence)

/-- Every place a descriptor moves bytes to or from is on a die that the hub reaches (R26; log 46). -/
def State.inReach (s : State) (ch : ChannelIx) (f : Nat) (q : QDesc) : Bool :=
  let d := parseDesc ch q.bytes
  let at_ (a : Nat) : Bool :=
    match reach s.mem s.pages f (ch == .pannier && d.flag) false a with
    | .at_ p => (s.hubLinks p).isSome
    | .bad _ => true
  s.svc.groupsRetired.isEmpty
    || (match ch with
      | .pannier => (List.range d.count).all (fun i => at_ (d.src + 256 * i) && at_ (d.dst + 256 * i))
      | .hostCopy => (grainPieces d.dst d.count).all (fun x => at_ x.1)
      | .collective => true)

/-- MOVER_DESCRIPTOR_DONE: the oldest started MOVE of the queue (R178); a host copy needs the link in L0, and goes on while its function is in D3hot (R356). -/
def State.descEnds (s : State) (ch : ChannelIx) (f : Nat) : State :=
  match (s.queue ch f).running ch with
  | none => s
  | some q =>
    if !s.inReach ch f q then s
    else
      match ch with
      | .pannier => s.moveDone f q
      | .hostCopy => if s.host.link = .l0 then s.hostCopyDone f q else s
      | .collective => s

/-- MOVER_DESCRIPTOR_DONE (R103, R178, R339); a collective operation ends by COLLECTIVE_COMPLETE. -/
def execMoverDescriptorDone (ch : ChannelIx) (f : Fn) (s : State) : Host.Outcome State Fault Refusal := .next (s.clocked (fun s => s.descEnds ch f))

/-- A collective completion (Table 11.10). -/
structure CollEnd where
  status : Nat := 0
  kind : Nat := 0
  slot : Nat := 0
  opSeq : Nat := 0
  epoch : Nat := 0
  overflow : Nat := 0
  localSumsq : Nat := 0
  resultSumsq : Nat := 0
  reason : Nat := 0
  retries : Nat := 0
  namedId : Nat := 0
  namedX : Nat := 0
  namedY : Nat := 0
  elapsedUs : Nat := 0
  deriving DecidableEq, Repr

def CollEnd.payload (c : CollEnd) : List Byte :=
  natLe 2 c.status ++ natLe 1 c.kind ++ natLe 1 c.slot ++ natLe 4 c.opSeq ++ natLe 4 c.epoch ++ natLe 4 c.overflow
    ++ natLe 8 c.localSumsq ++ natLe 8 c.resultSumsq ++ natLe 1 c.reason ++ natLe 1 (min c.retries 255) ++ natLe 2 0
    ++ natLe 4 (c.namedId % 2 ^ 20) ++ natLe 2 c.namedX ++ natLe 2 c.namedY ++ natLe 4 (min c.elapsedUs (2 ^ 32 - 1))

/-- A COLLECTIVE entry (R272). -/
def State.collEntry (s : State) (f : Nat) (c : CollEnd) : State :=
  s.post f { source := BitVec.ofNat 8 srcCollective, origin := BitVec.ofNat 4 f, code := 0, payload := c.payload, timeNs := s.ns }

/-- Frames FILLING for a queue become FILLED (R176). -/
def MemState.filled (m : MemState) (f : Nat) : MemState := { m with fill := m.fill.map (fun e => if e.2 = .filling f then (e.1, .filled) else e) }

/-- A started fence completes once it is its queue's oldest descriptor (R107); FENCE_HOST needs the link in L0, whatever its queue and whatever the function's D-state (R107, R354, R356). -/
def State.fenceDone (s : State) (ch : ChannelIx) (f : Nat) : State :=
  let x := s.queue ch f
  match x.descs.head? with
  | none => s
  | some q =>
    let d := parseDesc ch q.bytes
    if x.halted || !q.started || !d.fence || (d.kind == 2 && s.host.link != .l0) then s
    else
      match ch with
      | .pannier => { s with mem := s.mem.filled f }.descDone ch f q 0
      | .hostCopy => s.descDone ch f q 0
      | .collective =>
        let s := s.setQueue ch f (x.drop q)
        let s := if d.doneEn then s.addHub d.doneCtr d.doneAmount else s
        if d.event then s.collEntry f { kind := field (fieldAt q.bytes 0 4) 2 0, slot := field (fieldAt q.bytes 0 4) 13 8, epoch := fieldAt q.bytes 4 4, elapsedUs := (s.ns - q.startNs) / 1000 } else s

/-- FENCE_COMPLETE (R107). -/
def execFenceComplete (ch : ChannelIx) (f : Fn) (s : State) : Host.Outcome State Fault Refusal := .next (s.clocked (fun s => s.fenceDone ch f))

/-- DETAIL of a failed host request (R355). -/
def hostErrorCode : HostError → Nat
  | .unsupportedRequest => 0x0110
  | .completerAbort => 0x0111
  | .poisoned => 0x0112
  | .timeout => 0x0113

/-- The host address at which a request of a started descriptor fails: the `at_`-th byte of a host-to-device copy's source; of a FENCE_HOST the last host address the queue has written; of a copy to the host that writes an entry its own last address, which the fence before the entry reads (R354, R355). None where the descriptor makes no host request that a completion answers. -/
def ChanQueue.failsAt (x : ChanQueue) (d : RDesc) (at_ : Nat) : Option Nat :=
  if d.kind = 1 then none
  else if d.kind = 2 then x.lastHost.map (·.toNat)
  else if d.flag then (if d.event then some ((d.src + (d.count - 1)) % 2 ^ 64) else none)
  else some ((d.src + at_ % max 1 d.count) % 2 ^ 64)

/-- What a descriptor whose host request fails has written: pieces of a copy from the host, by the model's free bits; all of a copy to the host, whose fence alone failed (R355; log 22). -/
def State.beforeError (s : State) (f : Nat) (q : QDesc) : State × Nat :=
  let d := parseHostCopy q.bytes
  let ps := grainPieces d.dst d.count
  if d.kind ≠ 0 then (s, 0)
  else if d.flag then
    let w := written s.freeCtr false 0 (ps.map (toHostPiece s f d q.early))
    (State.toHost f w { s with freeCtr := s.freeCtr + 1 }, w.length)
  else
    let w := written s.freeCtr true 0 (ps.map (fromHostPiece s f d))
    (w.foldl (fun s t => s.writePhys f t.dst t.data) { s with freeCtr := s.freeCtr + 1 }, w.length)

/-- A host request of the k-th started descriptor fails: the descriptor ends with TRANSLATION_FAULT, its DONE ADD dropped, the queue halted; what it had written stays (R355). -/
def State.hostError (s : State) (f k at_ : Nat) (err : HostError) : State :=
  let x := s.queue .hostCopy f
  match (x.descs.filter (fun q => q.started))[k]? with
  | none => s
  | some q =>
    match (if x.halted then none else x.failsAt (parseHostCopy q.bytes) at_) with
    | none => s
    | some a =>
      let w := s.beforeError f q
      w.1.descFails .hostCopy f q w.2 { status := stTranslation, detail := hostErrorCode err, address := a % 2 ^ 62 }

/-- HOST_COMPLETION_ERROR (R355). -/
def execHostCompletionError (f : Fn) (k at_ : Nat) (err : HostError) (s : State) : Host.Outcome State Fault Refusal :=
  .next (s.clocked (fun s => s.hostError f k at_ err))

end Sys2Proof.Machine
end

