-- ==== Sys2Proof/Machine/CodecSet.lean ====
section
/-! DEFINITION. Settings of a codec context (Tables 13.1, 13.2; R287, R289, R291 to R293) and the samples of its surfaces (R289). -/

namespace Sys2Proof.Machine

/-- Settings of a context (Table 13.2). -/
structure CodecSet where
  fn : Nat
  coding : Nat
  p010 : Bool
  grain : Bool
  random : Bool
  rc : Nat
  fine : Bool
  width : Nat
  height : Nat
  pitch : Nat
  uv : Nat
  workBase : Nat
  poolCount : Nat
  refresh : Nat
  keyInterval : Nat
  poolBase : Nat
  poolStride : Nat
  qpI : Nat
  qpP : Nat
  qpB : Nat
  qpMin : Nat
  qpMax : Nat
  target : Nat
  most : Nat
  vbv : Nat
  fpsNum : Nat
  fpsDen : Nat
  fill : Nat
  deriving DecidableEq, Repr

def parseCodec (b : List Byte) : CodecSet :=
  let w := fieldAt b 0 4
  let q := fieldAt b 0x2C 4
  { fn := field w 5 2, coding := field w 7 6, p010 := bit w 8, grain := bit w 9, random := bit w 10, rc := field w 12 11, fine := bit w 13
    width := fieldAt b 4 2, height := fieldAt b 6 2, pitch := fieldAt b 8 4, uv := fieldAt b 0xC 4, workBase := fieldAt b 0x10 6
    poolCount := fieldAt b 0x1C 1, refresh := fieldAt b 0x1D 1, keyInterval := fieldAt b 0x1E 2, poolBase := fieldAt b 0x20 6
    poolStride := fieldAt b 0x28 4, qpI := field q 7 0, qpP := field q 15 8, qpB := field q 23 16, qpMin := fieldAt b 0x30 1
    qpMax := fieldAt b 0x31 1, target := fieldAt b 0x34 4, most := fieldAt b 0x38 4, vbv := fieldAt b 0x3C 4
    fpsNum := fieldAt b 0x40 2, fpsDen := fieldAt b 0x42 2, fill := fieldAt b 0x44 1 }

/-- Bytes of a row of samples, luma or chroma, whichever is longer (R289). -/
def CodecSet.rowBytes (x : CodecSet) : Nat := 2 * ceilDiv x.width 2 * (if x.p010 then 2 else 1)

/-- WORK_NEED (R293). -/
def CodecSet.need (x : CodecSet) (enc : Bool) : Nat :=
  if enc then 8 * 2 ^ 20 + (if x.random then 5 else 2) * (x.pitch * x.height * 3 / 2) * 21 / 16
  else 4 * 2 ^ 20 + x.poolCount * ceilDiv (x.width * x.height) 256 * 16

/-- The first setting outside Tables 13.1 and 13.2, by the offset of its word: an engine's class decides which fields apply (R289, R291, R292). -/
def CodecSet.bad (x : CodecSet) (enc : Bool) : List (Nat × Bool) :=
  [ (0x00, decide ((if enc then 1 else 2) < x.coding)), (0x00, x.p010 && x.coding == 2), (0x00, x.grain && (enc || x.coding != 1)),
    (0x00, !enc && (x.random || x.rc != 0 || x.fine)), (0x00, enc && x.rc == 3), (0x00, x.fine && x.coding != 1),
    (0x04, if enc then decide (x.width < 128 ∨ 7680 < x.width) || x.width % 2 == 1 else decide (x.width < 16 ∨ (if x.coding = 2 then 4096 else 8192) < x.width)),
    (0x06, if enc then decide (x.height < 128 ∨ 4320 < x.height) || x.height % 2 == 1 else decide (x.height < 16 ∨ (if x.coding = 2 then 4096 else 8192) < x.height)),
    (0x04, !enc && (if x.coding == 2 then decide (36864 < ceilDiv x.width 16 * ceilDiv x.height 16) else decide (35651584 < x.width * x.height))),
    (0x08, x.pitch % 256 != 0 || decide (x.pitch < x.rowBytes)), (0x0C, x.uv % 256 != 0 || decide (x.uv < x.pitch * x.height)),
    (0x10, x.workBase % 65536 != 0),
    (0x1C, if enc then x.poolCount != 0 else decide (x.poolCount < 2 ∨ 24 < x.poolCount)),
    (0x1D, if enc then x.refresh != 0 && (x.random || decide (x.refresh < 16 ∨ 128 < x.refresh)) else x.refresh != 0),
    (0x1E, if enc then x.keyInterval != 0 && x.refresh != 0 else x.keyInterval != 0),
    (0x20, if enc then x.poolBase != 0 else x.poolBase % 256 != 0),
    (0x28, if enc then x.poolStride != 0 else x.poolStride % 256 != 0 || decide (x.poolStride < x.uv + x.pitch * ceilDiv x.height 2)),
    (0x2C, if enc then x.coding == 0 && decide (51 < x.qpI ∨ 51 < x.qpP ∨ 51 < x.qpB) else x.qpI != 0 || x.qpP != 0 || x.qpB != 0),
    (0x30, if enc then decide (x.qpMax < x.qpMin) else x.qpMin != 0 || x.qpMax != 0),
    (0x34, if enc then x.rc != 0 && x.target == 0 else x.target != 0),
    (0x38, if enc then x.rc == 2 && decide (x.most < x.target) else x.most != 0),
    (0x3C, if enc then x.rc != 0 && x.vbv == 0 else x.vbv != 0),
    (0x40, if enc then x.fpsNum == 0 else x.fpsNum != 0), (0x42, if enc then x.fpsDen == 0 else x.fpsDen != 0),
    (0x44, if enc then decide (100 < x.fill) else x.fill != 0) ].filter (·.2)

/-- A sample as a surface holds it (R289). -/
def sampleBytes (p010 : Bool) (x : Nat) : List Byte := if p010 then natLe 2 (64 * (x % 1024)) else natLe 1 x

/-- Rows of a picture at a surface's base, as addresses and bytes (R289). -/
def pictureRows (x : CodecSet) (p : Picture) (base : Nat) : List (Nat × List Byte) :=
  let cw := 2 * ceilDiv p.width 2
  (List.range p.height).map (fun y => (base + y * x.pitch, (((p.luma.drop (y * p.width)).take p.width).flatMap (sampleBytes x.p010))))
    ++ (List.range (ceilDiv p.height 2)).map (fun y => (base + x.uv + y * x.pitch, (((p.chroma.drop (y * cw)).take cw).flatMap (sampleBytes x.p010))))

/-- Samples of a plane of an input surface (R289). -/
def planeOf (p010 : Bool) : List Byte → List Nat
  | a :: b :: l => if p010 then (a.toNat + 256 * b.toNat) / 64 :: planeOf p010 l else a.toNat :: b.toNat :: planeOf p010 l
  | [a] => [a.toNat]
  | [] => []

/-- Rows of an input surface in turn. -/
def inputRows (x : CodecSet) (base : Nat) : List (Nat × Nat) :=
  (List.range x.height).flatMap (fun y => grainPieces (base + y * x.pitch) x.rowBytes)
    ++ (List.range (ceilDiv x.height 2)).flatMap (fun y => grainPieces (base + x.uv + y * x.pitch) x.rowBytes)

/-- An input surface as the encoder reads it. -/
def inputPicture (x : CodecSet) (bs : List Byte) : Picture :=
  let n := x.height * x.rowBytes
  { width := x.width, height := x.height, luma := planeOf x.p010 (bs.take n), chroma := planeOf x.p010 (bs.drop n) }

/-- Rows of a picture of a given size in a surface, as addresses and lengths. -/
def surfaceRows (x : CodecSet) (base width height : Nat) : List (Nat × Nat) :=
  let b := if x.p010 then 2 else 1
  (List.range height).flatMap (fun y => grainPieces (base + y * x.pitch) (width * b))
    ++ (List.range (ceilDiv height 2)).flatMap (fun y => grainPieces (base + x.uv + y * x.pitch) (2 * ceilDiv width 2 * b))

/-- The picture that the bytes of such rows hold. -/
def surfacePicture (x : CodecSet) (width height : Nat) (bs : List Byte) : Picture :=
  let n := width * height * (if x.p010 then 2 else 1)
  { width := width, height := height, luma := planeOf x.p010 (bs.take n), chroma := planeOf x.p010 (bs.drop n) }

/-- Bytes at the head of a work area where a change of context saves the engine's state (R295; log 26). -/
def engineStateBytes : Nat := 65536

/-- The engine's state as the engine holds it: what a change of context saves and loads, so that no switch changes it (R295, R297; log 26). Zero bytes at its end count for nothing. -/
def heldState (bs : List Byte) : List Byte := ((bs.take engineStateBytes).reverse.dropWhile (· == 0)).reverse

/-- S of R293: bytes of a surface. -/
def CodecSet.surface (x : CodecSet) : Nat := x.pitch * x.height * 3 / 2

/-- References an encoder keeps (R293). -/
def CodecSet.refCount (x : CodecSet) : Nat := if x.random then 5 else 2

/-- Where an encoder keeps reference j with its two reduced copies (R293; log 26). -/
def CodecSet.refBase (x : CodecSet) (j : Nat) : Nat := x.workBase + 8 * 2 ^ 20 + j * (x.surface * 21 / 16)

end Sys2Proof.Machine
end

