-- ==== Sys2Proof/Machine/Encoder.lean ====
section
/-! DEFINITION. What an encoder does between its inputs and its bitstream (R298, R300 to R303): the refresh sweep, the order and references of a mini-group, the motion search on reduced pictures (Table 13.6a), and rate control. The coding of a frame itself is its coding's own (Config.encodePicture; log 26). -/

namespace Sys2Proof.Machine

/-- What the encoder does with the next frame: whether it is a key picture, and its columns of the refresh sweep (R300, R301). -/
def CodecCtx.plan (x : CodecCtx) (force last : Bool) : EncodePlan :=
  let cs := parseCodec x.settings
  let key := force || match x.sinceKey with
    | none => true
    | some n => cs.keyInterval != 0 && decide (cs.keyInterval ≤ n)
  let cols := ceilDiv cs.width 64
  let w := ceilDiv cols (max 1 cs.refresh)
  let sweeps := cs.refresh != 0 && !key
  let starts := sweeps && x.sweep == 0
  { key := key
    lo := if sweeps then min (x.sweep * w) cols else 0
    hi := if sweeps then min ((x.sweep + 1) * w) cols else 0
    bound := if sweeps then x.sweep * w else 0
    recovery := if starts && cs.coding == 0 then some (ceilDiv cols w - 1) else none
    repeatHeader := starts && cs.coding == 1
    hrd := cs.coding == 0 && cs.rc != 0
    targetKbps := x.targetKbps
    maxKbps := x.maxKbps
    last := last }

/-- The frame has been coded (R300): a key picture restarts the count and the sweep, another frame is one place on. -/
def CodecCtx.coded (x : CodecCtx) (key : Bool) : CodecCtx :=
  let p := (parseCodec x.settings).refresh
  if key then { x with sinceKey := some 1, sweep := 0 }
  else { x with sinceKey := x.sinceKey.map (· + 1), sweep := if p ≤ x.sweep + 1 then 0 else x.sweep + 1 }

/-- One picture of a mini-group in coding order: the frame's number, its type, whether later pictures reference it. -/
structure EncodeStep where
  frame : Nat
  kind : PicKind
  keep : Bool
  deriving DecidableEq, Repr

/-- Hierarchical B pictures between two coded frames: the middle one first, then each half (R298). -/
def bisect : Nat → Nat → Nat → List EncodeStep
  | 0, _, _ => []
  | n + 1, a, b =>
    if b ≤ a + 1 then []
    else
      let m := (a + b) / 2
      { frame := m, kind := .b, keep := decide (a + 2 < b) } :: (bisect n a m ++ bisect n m b)

/-- Frames from `a` to `b`, coded after frame a - 1: the last as P, those between as B pictures (R298; log 26). -/
def runSteps (a b : Nat) : List EncodeStep := { frame := b, kind := .p, keep := true } :: bisect 8 (a - 1) b

/-- Coding order of a mini-group whose frames start at number `a`: a key picture starts a run of its own (R298; log 26). `open_`: the first frame of the run not yet placed, if any. -/
def groupSteps : List Bool → (open_ : Option Nat) → (a : Nat) → List EncodeStep
  | [], none, _ => []
  | [], some o, a => runSteps o (a - 1)
  | key :: l, o, a =>
    if key then
      (match o with
        | some o => runSteps o (a - 1)
        | none => []) ++ { frame := a, kind := .i, keep := true } :: groupSteps l none (a + 1)
    else groupSteps l (some (o.getD a)) (a + 1)

/-- The references of a frame among those kept: up to two in each direction, nearest first; in LOW_DELAY the previous coded frame only (R298). -/
def refsOf (random : Bool) (k : EncodeStep) (kept : List Nat) : List Nat :=
  let past := sortBy (fun a b => decide (b < a)) (kept.filter (fun r => decide (r < k.frame)))
  let next := sortBy (fun a b => decide (a < b)) (kept.filter (fun r => decide (k.frame < r)))
  match k.kind with
  | .i => []
  | .p => past.take (if random then 2 else 1)
  | .b => past.take 2 ++ next.take 2

/-- 2 by 2 averages of a plane of `ch` interleaved channels, ties rounded up (R302). -/
def halvePlane (ch w h : Nat) (l : List Nat) : List Nat :=
  (List.range (h / 2)).flatMap (fun y => (List.range (w / 2)).flatMap (fun x => (List.range ch).map (fun c =>
    let at_ (i j : Nat) : Nat := l.getD ((2 * y + j) * (w * ch) + (2 * x + i) * ch + c) 0
    (at_ 0 0 + at_ 1 0 + at_ 0 1 + at_ 1 1 + 2) / 4)))

/-- The picture of one quarter of the area, and of one sixteenth, of an input (R302). -/
def halfPicture (p : Picture) : Picture :=
  { width := p.width / 2, height := p.height / 2, luma := halvePlane 1 p.width p.height p.luma, chroma := halvePlane 2 (ceilDiv p.width 2) (ceilDiv p.height 2) p.chroma }
def quarterPicture (p : Picture) : Picture :=
  let q := halfPicture p
  { width := q.width / 2, height := q.height / 2, luma := halvePlane 1 q.width q.height q.luma, chroma := halvePlane 2 (ceilDiv p.width 2 / 2) (ceilDiv p.height 2 / 2) q.chroma }

/-- A reference of an encoder: slot, frame, reconstruction, and the reduced copies of its input (R293, R302). -/
structure RefPic where
  slot : Nat
  frame : Nat
  recon : Picture
  half : Picture
  quarter : Picture
  deriving DecidableEq, Repr

/-- Samples of a reference and its reduced copies in the order the work area keeps them (log 26). -/
def RefPic.samples (r : RefPic) : List Nat := r.recon.luma ++ r.recon.chroma ++ r.half.luma ++ r.half.chroma ++ r.quarter.luma ++ r.quarter.chroma

/-- Samples of the luma and chroma planes at 1, 1/4 and 1/16 of the area. -/
def CodecSet.planeSizes (x : CodecSet) : List Nat :=
  let cw := ceilDiv x.width 2
  let ch := ceilDiv x.height 2
  [x.width * x.height, 2 * cw * ch, x.width / 2 * (x.height / 2), 2 * (cw / 2) * (ch / 2), x.width / 4 * (x.height / 4), 2 * (cw / 4) * (ch / 4)]

/-- A reference as the work area's bytes give it back. -/
def refOfBytes (x : CodecSet) (slot frame : Nat) (bs : List Byte) : RefPic :=
  let l := planeOf x.p010 bs
  let n := x.planeSizes
  let plane (i : Nat) : List Nat := (l.drop ((n.take i).sum)).take (n.getD i 0)
  { slot := slot, frame := frame, recon := { width := x.width, height := x.height, luma := plane 0, chroma := plane 1 }
    half := { width := x.width / 2, height := x.height / 2, luma := plane 2, chroma := plane 3 }
    quarter := { width := x.width / 4, height := x.height / 4, luma := plane 4, chroma := plane 5 } }

/-- Bytes of a reference with its reduced copies. -/
def CodecSet.refBytes (x : CodecSet) : Nat := x.planeSizes.sum * (if x.p010 then 2 else 1)

/-- Of two vectors with their costs the one that is kept before the other: smaller cost, then smaller |x| + |y|, smaller y, smaller x (R302). -/
def mvLess (a b : Nat × MV) : Bool :=
  let n (v : MV) : Nat := v.x.natAbs + v.y.natAbs
  decide (a.1 < b.1) || (a.1 == b.1 && (decide (n a.2 < n b.2) || (n a.2 == n b.2 && (decide (a.2.y < b.2.y) || (a.2.y == b.2.y && decide (a.2.x < b.2.x))))))

/-- The best n of some candidates. -/
def bestOf (n : Nat) (cost : MV → Nat) (l : List MV) : List MV := ((sortBy mvLess (l.eraseDups.map (fun v => (cost v, v)))).take n).map (·.2)

/-- Vectors around a centre, in steps. -/
def around (c : MV) (rx ry : Nat) (step : Int) : List MV :=
  (List.range (2 * ry + 1)).flatMap (fun j => (List.range (2 * rx + 1)).map (fun i => { x := c.x + step * ((i : Int) - rx), y := c.y + step * ((j : Int) - ry) }))

def scaled (k : Int) (v : MV) : MV := { x := k * v.x, y := k * v.y }

/-- A candidate obeys R301: where a block starts below the sweep's boundary, its rightmost sample or interpolation tap, of luma and of chroma, lies at least 16 luma samples left of it. `dx`: the displacement in eighths of a luma sample; `taps`: how many chroma samples right of a sample the coding's chroma filter reaches (log 26). -/
def obeys (bound x size taps : Nat) (dx : Int) : Bool :=
  let edge : Int := 64 * bound
  let last : Int := min ((x + size : Nat) : Int) edge - 1
  bound == 0 || decide (64 * bound ≤ x)
    || (decide (last + dx / 8 + (if dx % 8 = 0 then 0 else 4) ≤ edge - 16)
      && decide (2 * (last / 2 + dx / 16 + (if dx % 16 = 0 then 0 else (taps : Int))) ≤ edge - 16))

/-- Reach of the chroma interpolation filter: four taps in HEVC, eight in AV1 (log 26). -/
def CodecSet.chromaTaps (x : CodecSet) : Nat := if x.coding = 0 then 2 else 4

/-- The columns left of column w of a plane of n samples a row. -/
def cropPlane (w n h : Nat) (l : List Nat) : List Nat := (List.range h).flatMap (fun y => (l.drop (y * n)).take w)

/-- The columns of a picture left of luma column w. -/
def cropPicture (w : Nat) (p : Picture) : Picture :=
  { width := min w p.width, height := p.height, luma := cropPlane w p.width p.height p.luma, chroma := cropPlane (2 * (w / 2)) (2 * ceilDiv p.width 2) (ceilDiv p.height 2) p.chroma }

/-- A plane of n samples a row with its columns left of column w taken from another. -/
def pastePlane (w n h : Nat) (left l : List Nat) : List Nat := (List.range (n * h)).map (fun k => if k % n < w then left.getD (k / n * w + k % n) 0 else l.getD k 0)

/-- A picture whose columns left of luma column w, an even one, are another's. -/
def pastePicture (w : Nat) (left p : Picture) : Picture :=
  let cn := 2 * ceilDiv p.width 2
  { p with luma := pastePlane (min w p.width) p.width p.height left.luma p.luma, chroma := pastePlane (min w cn) cn (ceilDiv p.height 2) left.chroma p.chroma }

/-- Pictures and settings of one search. -/
structure Search where
  settings : List Byte
  width : Nat
  height : Nat
  fine : Bool
  bound : Nat
  taps : Nat
  now : RefPic
  ref : RefPic
  deriving DecidableEq, Repr

/-- The pictures of a stage (Table 13.6a): 1/16 of the area, 1/4, full. -/
def RefPic.stage (r : RefPic) (i : Nat) : Picture := if i = 1 then r.quarter else if i = 2 then r.half else r.recon

/-- Eighths of a luma sample in a stage's unit. -/
def stageUnit (i : Nat) : Int := if i = 1 then 32 else if i = 2 then 16 else if i = 3 then 8 else 1

/-- The best n of the candidates of a block in a stage. -/
def Search.best (q : Search) (stage n x y size : Nat) (l : List MV) : List MV :=
  bestOf n (fun v => Config.motionCost q.settings stage (q.now.stage stage) (q.ref.stage stage) { x := x, y := y, size := size, ref := q.ref.frame, v := v }) (l.filter (fun v => obeys q.bound x size q.taps (stageUnit stage * v.x)))

/-- Stage 1, block by block in raster order: the best four, zero, and the vectors of the left and above neighbours. -/
def Search.stage1 (q : Search) : List (List MV) :=
  let bw := ceilDiv q.width 128
  (List.range (bw * ceilDiv q.height 128)).foldl (fun acc i =>
    let four := q.best 1 4 (128 * (i % bw)) (128 * (i / bw)) 128 (around { x := 0, y := 0 } 64 32 1)
    let near (j : Nat) (has : Bool) : List MV := if has then (acc.getD j []).take 1 else []
    acc ++ [four ++ [{ x := 0, y := 0 }] ++ near (i - 1) (decide (i % bw ≠ 0)) ++ near (i - bw) (decide (bw ≤ i))]) []

/-- Stage 2: the best two of a block of 32 by 32. -/
def Search.stage2 (q : Search) (kept : List (List MV)) (bx by_ : Nat) : List MV :=
  let seeds := kept.getD (by_ / 4 * ceilDiv q.width 128 + bx / 4) []
  q.best 2 2 (32 * bx) (32 * by_) 32 (seeds.flatMap (fun v => around (scaled 2 v) 4 4 1))

/-- Stage 3: the best integer vector of a partition, from the vectors kept of the blocks it lies in or covers (log 26). -/
def Search.stage3 (q : Search) (two : Nat → Nat → List MV) (x y size : Nat) : Option MV :=
  let n := ceilDiv size 32
  let seeds := (List.range n).flatMap (fun j => (List.range n).flatMap (fun i => two (x / 32 + i) (y / 32 + j)))
  (q.best 3 1 x y size (seeds.flatMap (fun v => around (scaled 2 v) 2 2 1))).head?

/-- Stage 4: half samples, then quarters, with HIGH_PRECISION eighths. -/
def Search.stage4 (q : Search) (x y size : Nat) (v : MV) : MV :=
  ((if q.fine then [4, 2, 1] else [4, 2]) : List Int).foldl (fun v step => ((q.best 4 1 x y size (around v 1 1 step)).head?).getD v) (scaled 8 v)

/-- Partitions of a picture from 8 by 8 to 64 by 64. -/
def partitions (width height : Nat) : List (Nat × Nat × Nat) :=
  [64, 32, 16, 8].flatMap (fun size => (List.range (ceilDiv height size)).flatMap (fun j => (List.range (ceilDiv width size)).map (fun i => (size * i, size * j, size))))

/-- The vectors of a picture on one reference. -/
def Search.vectors (q : Search) : List BlockVector :=
  let kept := q.stage1
  (partitions q.width q.height).filterMap (fun p =>
    (q.stage3 (q.stage2 kept) p.1 p.2.1 p.2.2).map (fun v => { x := p.1, y := p.2.1, size := p.2.2, ref := q.ref.frame, v := q.stage4 p.1 p.2.1 p.2.2 v }))

/-- Rate control's state (R303): fullness of the buffer model in bits times FPS_NUM, bits and frames sent, the bits times FPS_NUM that TARGET_KBPS has allowed so far, and the rest of the engine's state. -/
structure RateState where
  full : Nat
  bits : Nat
  frames : Nat
  due : Nat
  rest : List Byte
  deriving DecidableEq, Repr

/-- The engine's state of an encoder as bytes, as a change of context saves it (R295; log 26). -/
def RateState.bytes (r : RateState) : List Byte := natLe 8 r.full ++ natLe 8 r.bits ++ natLe 8 r.frames ++ natLe 8 r.due ++ r.rest
def rateOf (b : List Byte) : RateState := { full := fieldAt b 0 8, bits := fieldAt b 8 8, frames := fieldAt b 16 8, due := fieldAt b 24 8, rest := b.drop 32 }

/-- Rate control before the first frame: the buffer at INIT_FULLNESS (R303). -/
def CodecSet.firstRate (x : CodecSet) : RateState := { full := x.fill * x.vbv * 10 * x.fpsNum, bits := 0, frames := 0, due := 0, rest := [] }

/-- QP of a picture type under CQP (R303). -/
def CodecSet.fixedQp (x : CodecSet) : PicKind → Nat
  | .i => x.qpI
  | .p => x.qpP
  | .b => x.qpB

/-- QPs within QP_MIN and QP_MAX that the coding has (Table 13.2). -/
def CodecSet.qps (x : CodecSet) : List Nat := (List.range (min x.qpMax (if x.coding = 0 then 51 else 255) + 1)).drop x.qpMin

/-- A frame leaves the buffer model, which then fills for one frame time and holds no more than VBV_KBITS; CBR adds filler bytes in place of what it cannot hold (R303; log 28): fullness after it, and bytes of filler. -/
def vbvFrame (cs : CodecSet) (kbps bytes full : Nat) : Nat × Nat :=
  let after := full - 8 * bytes * cs.fpsNum + kbps * 1000 * cs.fpsDen
  let cap := cs.vbv * 1000 * cs.fpsNum
  let fill := if cs.rc = 1 ∧ cap < after then ceilDiv (after - cap) (8 * cs.fpsNum) else 0
  (min cap (after - 8 * fill * cs.fpsNum), fill)

/-- A mini-group, or a frame, as it is coded: references, rate state, the bytes so far, the QPs used, and whether the buffer model broke. -/
structure Encoding where
  refs : List RefPic
  rate : RateState
  out : List Byte := []
  qps : List Nat := []
  hrd : Bool := false
  deriving DecidableEq, Repr

/-- The references kept after a new one: a key picture starts afresh, else the frame that comes first in output order gives way (R293, R298; log 26). -/
def keepRef (most : Nat) (key : Bool) (r : RefPic) (l : List RefPic) : List RefPic :=
  let old := if key then [] else (sortBy (fun a b => decide (b.frame < a.frame)) l).take (most - 1)
  { r with slot := ((List.range most).find? (fun j => !old.any (fun o => o.slot == j))).getD 0 } :: old

/-- The QPs VBR chooses among: of those that keep the buffer model whole, the ones that leave the bits sent within VBV_KBITS of what TARGET_KBPS has allowed, or else the one that comes nearest: so the long-run average is held (R303; log 28). `off`: how far a QP leaves the bits sent, times FPS_NUM, from what is due. -/
def CodecSet.vbrQps (x : CodecSet) (off : Nat → Nat) (fits : List Nat) : List Nat :=
  let held := fits.filter (fun q => decide (off q ≤ x.vbv * 1000 * x.fpsNum))
  if held.isEmpty then (sortBy (fun a b => decide (off a < off b)) fits).take 1 else held

/-- One frame coded (R297, R298, R301 to R303): its references searched, its QP chosen so that the buffer model does not underflow and VBR holds its average, QP_MAX where none does, and filler against overflow. The columns that a sweep has made clean come of the references' samples at least 16 left of the sweep's boundary alone. -/
def Encoding.step (settings : List Byte) (group : List (EncodePlan × Picture)) (base : Nat) (e : Encoding) (k : EncodeStep) : Encoding :=
  let cs := parseCodec settings
  let g := group.getD (k.frame - base) default
  let plan := g.1
  let input := g.2
  let now : RefPic := { slot := 0, frame := k.frame, recon := input, half := halfPicture input, quarter := quarterPicture input }
  let refs := (refsOf cs.random k (e.refs.map (·.frame))).filterMap (fun n => e.refs.find? (fun r => r.frame == n))
  let vectors := refs.flatMap (fun r => Search.vectors { settings := settings, width := cs.width, height := cs.height, fine := cs.fine, bound := plan.bound, taps := cs.chromaTaps, now := now, ref := r })
  let edge := 64 * plan.bound
  let clean (q : Nat) : Picture :=
    if edge = 0 then {} else Config.encodeClean settings e.rate.rest (plan, k.kind, q) input (refs.map (fun r => cropPicture (edge - 16) r.recon)) (vectors.filter (fun v => decide (v.x < edge)))
  let make (q : Nat) : CodedPicture :=
    let c := Config.encodePicture settings e.rate.rest (plan, k.kind, q) input (refs.map (·.recon)) vectors (clean q)
    if edge = 0 then c else { c with recon := pastePicture edge (clean q) c.recon }
  let fits := cs.qps.filter (fun q => decide (8 * (make q).bytes.length * cs.fpsNum ≤ e.rate.full))
  let due := e.rate.due + plan.targetKbps * 1000 * cs.fpsDen
  let off (q : Nat) : Nat := let sent := (e.rate.bits + 8 * (make q).bytes.length) * cs.fpsNum; (sent - due) + (due - sent)
  let qps := if cs.rc = 2 then cs.vbrQps off fits else fits
  let qp :=
    if cs.rc = 0 then cs.fixedQp k.kind
    else qps.getD (Config.chooseQp settings e.rate.rest plan input (e.rate.bits, e.rate.frames) qps.length % max 1 qps.length) cs.qpMax
  let c := make qp
  let v := vbvFrame cs (if cs.rc = 2 then plan.maxKbps else plan.targetKbps) c.bytes.length e.rate.full
  let bytes := c.bytes ++ sliceAt (Config.filler cs.coding v.2) 0 v.2
  { refs := if k.keep then keepRef cs.refCount plan.key { now with recon := c.recon } e.refs else e.refs
    rate := { full := v.1, bits := e.rate.bits + 8 * bytes.length, frames := e.rate.frames + 1, due := due, rest := c.rest }
    out := e.out ++ bytes
    qps := e.qps ++ [qp]
    hrd := e.hrd || (cs.rc != 0 && fits.isEmpty) }

/-- A group of frames coded, the first of them number `base`: one P or key picture in LOW_DELAY, a mini-group in RANDOM_ACCESS (R298). -/
def encodeGroup (settings : List Byte) (refs : List RefPic) (rate : RateState) (base : Nat) (group : List (EncodePlan × Picture)) : Encoding :=
  (groupSteps (group.map (fun g => g.1.key)) none base).foldl (Encoding.step settings group base) { refs := refs, rate := rate }

/-- Average QP of what was coded (Table 13.5). -/
def Encoding.qp (e : Encoding) : Nat := e.qps.sum / max 1 e.qps.length

end Sys2Proof.Machine
end

