-- ==== Sys2Proof/Machine/Codec.lean ====
section
/-! DEFINITION. The codec engines (R287 to R306): contexts and their quotas, frame queues, the engine's state and work areas, pools of surfaces, decoded and encoded frames, completions (Table 13.5) and endings (Table 13.6). What a bitstream means is its coding's own (Config.unitHead, Config.decodeUnit; log 26). -/

namespace Sys2Proof.Machine

def State.codec (s : State) (e : Nat) : CodecEngine := tget {} s.codecs e
def State.modCodec (s : State) (e : Nat) (f : CodecEngine → CodecEngine) : State := { s with codecs := tmod {} s.codecs e f }
def State.codecCtx (s : State) (e c : Nat) : CodecCtx := tget {} (s.codec e).ctx c
def State.modCtx (s : State) (e c : Nat) (f : CodecCtx → CodecCtx) : State := s.modCodec e (fun x => { x with ctx := tmod {} x.ctx c f })

/-- One of n things the spec lets the device choose among (log 1). -/
def anyOf (ctr n : Nat) : Nat := (Config.freeWord ctr 0).toNat % max 1 n

def codecQuotaForm : CmdForm :=
  { code := 0x0701, len := .fixed 12, pf0 := true, masks := [7, 0xF, 0x7F]
    range := fun q => (if 5 < q.u32 0 then [0] else []) ++ (if 64 < q.u32 8 then [8] else []) }

/-- Contexts of a function on an engine that are not FREE. -/
def CodecEngine.held (x : CodecEngine) (f : Nat) : Nat := (x.ctx.filter (fun e => e.2.st != .free && e.2.fn.toNat == f)).length

def codecQuotaRow (q : Req) (s : State) : State × Answer :=
  let x := s.codec (q.u32 0)
  let f := q.u32 4
  let quota := tset 0 x.quota f (q.u32 8)
  if 64 < (quota.map (·.2)).sum then (s, badField 8)
  else if q.u32 8 < x.held f then (s, { busy with names := f })
  else (s.modCodec (q.u32 0) (fun x => { x with quota := quota }), { names := f })

/-- CODEC_QUOTA (R291). -/
def execCodecQuota (f : Fn) (m : Mb) (s : State) : Host.Outcome State Fault Refusal := .next (s.serve f m codecQuotaForm codecQuotaRow)

/-- Place of a codec's or a stem engine's access: the function's fast extents only; a failure names the virtual address (R290, R308). -/
def engineReach (m : MemState) (p : PageState) (f : Nat) (write : Bool) (a : Nat) : Except (Nat × Args) Nat :=
  match reach m p f false write a with
  | .bad e => .error (a, e)
  | .at_ x => if pannierBase ≤ x then .error (a, accErr stTranslation rsnPhysPlace a 0) else .ok x

/-- Some page of a range lies outside the function's fast extents (R291): the first failure's status. -/
def rangeFails (s : State) (f a n : Nat) : Option Nat :=
  (List.range ((a + n - 1) / 65536 + 1 - a / 65536)).findSome? (fun i =>
    match engineReach s.mem s.pages f false (max a (65536 * (a / 65536 + i))) with
    | .error e => if e.2.status = stSealed then none else some e.2.status
    | .ok _ => none)

def codecOpenForm : CmdForm :=
  { code := 0x0702, len := .fixed 76
    masks := [7, 0x3FFF, 0xFFFFFFFF, 0xFFFFFFFF, 0xFFFFFFFF, 0xFFFFFFFF, 0xFFFF, 0xFFFFFFFF, 0xFFFFFFFF, 0xFFFFFFFF, 0xFFFF, 0xFFFFFFFF,
      0xFFFFFF, 0xFFFF, 0xFFFFFFFF, 0xFFFFFFFF, 0xFFFFFFFF, 0xFFFFFFFF, 0xFF]
    range := fun q =>
      (if 5 < q.u32 0 then [0] else []) ++ ((parseCodec (sliceAt q.params 4 72)).bad (decide (4 ≤ q.u32 0))).map (fun e => e.1 + 4) }

/-- A context as CODEC_OPEN leaves it (R291, R303). -/
def openedCtx (f : Nat) (b : List Byte) (need : Nat) : CodecCtx :=
  let x := parseCodec b
  { st := .open, fn := BitVec.ofNat 4 f, settings := b, workNeed := BitVec.ofNat 32 need, targetKbps := x.target, maxKbps := x.most }

def codecOpenRow (q : Req) (s : State) : State × Answer :=
  let e := q.u32 0
  let b := sliceAt q.params 4 72
  let x := parseCodec b
  let need := x.need (decide (4 ≤ e))
  let free := (List.range 64).filter (fun c => (s.codecCtx e c).st == .free)
  let c := free.getD (anyOf s.freeCtr free.length) 0
  let reply := natLe 4 c ++ natLe 4 need
  if tget 0 (s.codec e).quota q.fn ≤ (s.codec e).held q.fn ∨ free = [] then (s, { status := stNoMemory })
  else if fieldAt b 0x18 4 < need then (s, { status := stBadField, detail := 0x0018, reply := reply })
  else
    match (if e < 4 then [(x.workBase, need), (x.poolBase, x.poolCount * x.poolStride)] else [(x.workBase, need)]).findSome? (fun r => rangeFails s q.fn r.1 r.2) with
    | some st => (s, { status := if st = stTranslation then stNotPermitted else st })
    | none => (State.modCtx { s with freeCtr := s.freeCtr + 1 } e c (fun _ => openedCtx q.fn b need), { reply := reply })

/-- CODEC_OPEN (R291 to R293). -/
def execCodecOpen (f : Fn) (m : Mb) (s : State) : Host.Outcome State Fault Refusal := .next (s.serve f m codecOpenForm codecOpenRow)

/-- A completion (Table 13.5). -/
structure CodecEnd where
  status : Nat := 0
  output : Bool := false
  concealed : Bool := false
  key : Bool := false
  hrd : Bool := false
  reason : Nat := 0
  surface : Nat := 0
  qp : Nat := 0
  user : Nat := 0
  bytes : Nat := 0
  order : Nat := 0
  address : Nat := 0
  deriving DecidableEq, Repr

def CodecEnd.payload (x : CodecEnd) (e c : Nat) : List Byte :=
  natLe 2 x.status ++ natLe 1 (b2n x.output + 2 * b2n x.concealed + 4 * b2n x.key + 8 * b2n x.hrd) ++ natLe 1 e ++ natLe 1 c
    ++ natLe 1 x.reason ++ natLe 1 x.surface ++ natLe 1 x.qp ++ natLe 4 x.user ++ natLe 4 x.bytes ++ natLe 8 x.order ++ natLe 6 x.address

/-- A CODEC entry (R299); during a core reset it is discarded (R306). -/
def State.codecEntry (s : State) (e c : Nat) (x : CodecEnd) : State :=
  if s.rst.inCore then s
  else
    let f := (s.codecCtx e c).fn
    s.post f.toNat { source := BitVec.ofNat 8 srcCodec, origin := f, code := 0, payload := x.payload e c, timeNs := s.ns }

/-- The record counts an ended descriptor (Table 13.2). -/
def CodecCtx.count (x : CodecCtx) (r : CodecEnd) : CodecCtx :=
  { x with
    framesDone := satAdd x.framesDone 1
    errors := if r.status = 0 then x.errors else satAdd x.errors 1
    lastStatus := BitVec.ofNat 16 r.status
    lastReason := BitVec.ofNat 8 r.reason
    lastUser := BitVec.ofNat 32 r.user }

/-- A completion that falls due in a core reset is recorded only in FRAMES_DONE, LAST_STATUS and LAST_USER (R306). -/
def CodecCtx.countQuiet (x : CodecCtx) (r : CodecEnd) : CodecCtx :=
  { x with framesDone := satAdd x.framesDone 1, lastStatus := BitVec.ofNat 16 r.status, lastUser := BitVec.ofNat 32 r.user }

/-- An ended descriptor in its context's record. -/
def State.counted (s : State) (e c : Nat) (r : CodecEnd) : State := s.modCtx e c (fun x => if s.rst.inCore then x.countQuiet r else x.count r)

/-- What a frame descriptor asks (Tables 13.3, 13.4). -/
structure FrameDesc where
  startEn : Bool
  doneEn : Bool
  event : Bool
  force : Bool
  last : Bool
  rate : Bool
  startThr : Nat
  src : Nat
  dst : Nat
  length : Nat
  startCtr : Nat
  doneCtr : Nat
  amount : Nat
  user : Nat
  target : Nat
  most : Nat
  deriving DecidableEq, Repr

def parseFrame (enc : Bool) (b : List Byte) : FrameDesc :=
  let w := fieldAt b 0 4
  let k := fieldAt b (if enc then 0x1C else 0x14) 4
  { startEn := bit w 0, doneEn := bit w 1, event := bit w 2, force := enc && bit w 3, last := bit w (if enc then 4 else 3), rate := enc && bit w 5
    startThr := fieldAt b 4 4, src := fieldAt b 8 6, dst := fieldAt b 0x10 6, length := fieldAt b (if enc then 0x18 else 0x10) 4
    startCtr := field k 11 0, doneCtr := field k 23 12, amount := fieldAt b (if enc then 0x20 else 0x18) 2
    user := fieldAt b (if enc then 0x24 else 0x1C) 4, target := fieldAt b 0x28 4, most := fieldAt b 0x2C 4 }

/-- Words of a descriptor with reserved bits set. -/
def wordsBad (masks : List Nat) (b : List Byte) : Bool :=
  ((List.range masks.length).zip masks).any (fun e => decide (fieldAt b (4 * e.1) 4 &&& e.2 ≠ fieldAt b (4 * e.1) 4))

def decodeMasks : List Nat := [0xF, 0xFFFFFFFF, 0xFFFFFFFF, 0xFFFF, 0xFFFFFFFF, 0xFFFFFF, 0xFFFF, 0xFFFFFFFF, 0, 0, 0, 0, 0, 0, 0, 0]
def encodeMasks : List Nat :=
  [0x3F, 0xFFFFFFFF, 0xFFFFFFFF, 0xFFFF, 0xFFFFFFFF, 0xFFFF, 0xFFFFFFFF, 0xFFFFFF, 0xFFFF, 0xFFFFFFFF, 0xFFFFFFFF, 0xFFFFFFFF, 0, 0, 0, 0]

/-- A field out of its range (Tables 13.3, 13.4). -/
def frameBad (enc : Bool) (x : CodecSet) (b : List Byte) : Bool :=
  let d := parseFrame enc b
  if enc then
    wordsBad encodeMasks b || d.src % 256 != 0 || d.dst % 256 != 0 || decide (d.length < 256 ∨ 2 ^ 28 < d.length)
      || (if d.rate then (x.rc != 0 && d.target == 0) || (if x.rc = 2 then decide (d.most < d.target) else d.most != 0) else d.target != 0 || d.most != 0)
  else wordsBad decodeMasks b || decide (2 ^ 28 < d.length) || (d.length == 0 && !d.last)

/-- Why a descriptor ends at its start. -/
def frameRefusal (enc : Bool) (x : CodecSet) (r : CtxRec) (b : List Byte) : Option Nat :=
  let d := parseFrame enc b
  if frameBad enc x b then some stBadField
  else if (d.startEn && !r.ownsHub d.startCtr) || (d.doneEn && !r.ownsHub d.doneCtr) then some stNotPermitted
  else none

/-- A descriptor ends with a status other than OK, written always (R299). -/
def State.frameFails (s : State) (e c : Nat) (r : CodecEnd) : State := (s.counted e c r).codecEntry e c r

/-- Queued descriptors end unrun with SEQUENCE_STATE (R291). -/
def State.endQueued (e c : Nat) : List (List Byte) → State → State
  | [], s => s
  | b :: l, s => State.endQueued e c l (s.frameFails e c { status := stSequenceState, user := (parseFrame (decide (4 ≤ e)) b).user })

/-- The context a request names is the caller's, or nobody's (R333). -/
def State.ownsCtx (s : State) (q : Req) (e c : Nat) : Bool := let x := s.codecCtx (e % 8) (c % 64); x.st == .free || x.fn.toNat == q.fn

def codecCloseForm : CmdForm :=
  { code := 0x0703, len := .fixed 8, masks := [7, 0x3F], accepts := true, owns := fun q s => s.ownsCtx q (q.u32 0) (q.u32 4), range := fun q => if 5 < q.u32 0 then [0] else [] }

def codecCloseRow (q : Req) (s : State) : State × Answer :=
  let e := q.u32 0
  let c := q.u32 4
  let x := s.codecCtx e c
  if x.st = .free then (s, { status := stSequenceState })
  else if x.st = .closing then (s, busy)
  else (State.endQueued e c x.queue (s.modCtx e c (fun x => { x with st := .closing, queue := [], closeCmd := some q.cmd })), { status := stAccepted })

/-- CODEC_CLOSE (R291). -/
def execCodecClose (f : Fn) (m : Mb) (s : State) : Host.Outcome State Fault Refusal := .next (s.serve f m codecCloseForm codecCloseRow)

/-- A context with nothing of a stream left: what Table 13.2 records of it stays. -/
def CodecCtx.freed (x : CodecCtx) : CodecCtx :=
  { st := .free, fn := x.fn, settings := x.settings, workNeed := x.workNeed, framesDone := x.framesDone, errors := x.errors
    lastStatus := x.lastStatus, lastReason := x.lastReason, lastUser := x.lastUser }

/-- The engine runs a frame of the context. -/
def CodecEngine.runs (x : CodecEngine) (c : Nat) : Bool :=
  match x.running with
  | some r => r.1 == c
  | none => false

/-- A CLOSING context with no frame in progress becomes FREE (R291). -/
def State.codecFreed (s : State) (e c : Nat) : State :=
  let x := s.codecCtx e c
  if x.st != .closing || (s.codec e).runs c then s
  else
    let s := (s.modCtx e c CodecCtx.freed).modCodec e (fun y => { y with loaded := y.loaded.filter (fun l => decide (l.1 ≠ c)) })
    match x.closeCmd with
    | some cmd => s.complete cmd {}
    | none => s

/-- CODEC_CONTEXT_FREED (R291). -/
def execCodecContextFreed (e : CodecIx) (x : Fin 64) (s : State) : Host.Outcome State Fault Refusal := .next (s.clocked (fun s => s.codecFreed e x))

def codecPostForm : CmdForm :=
  { code := 0x0704, len := .counted 8 2 0 64, masks := [7, 0x3F, 7, 0], owns := fun q s => s.ownsCtx q (q.u32 0) (q.u32 4)
    range := fun q => (if 5 < q.u32 0 then [0] else []) ++ (if q.u32 8 % 8 = 0 then [8] else []) }

def codecPostRow (q : Req) (s : State) : State × Answer :=
  let e := q.u32 0
  let c := q.u32 4
  let x := s.codecCtx e c
  let n := q.u32 8 % 8
  if x.st ≠ .open then (s, { status := stSequenceState })
  else if 32 < x.queue.length + n then (s, busy)
  else (s.modCtx e c (fun x => { x with queue := x.queue ++ q.entries 16 64 n }), {})

/-- CODEC_POST (R294). -/
def execCodecPost (f : Fn) (m : Mb) (s : State) : Host.Outcome State Fault Refusal := .next (s.serve f m codecPostForm codecPostRow)

def surfaceForm : CmdForm :=
  { code := 0x0705, len := .fixed 12, masks := [7, 0x3F, 0xFF], owns := fun q s => s.ownsCtx q (q.u32 0) (q.u32 4), range := fun q => if 5 < q.u32 0 then [0] else [] }

def surfaceRow (q : Req) (s : State) : State × Answer :=
  let e := q.u32 0
  let c := q.u32 4
  let x := s.codecCtx e c
  if x.st = .closing then (s, busy)
  else if x.st = .free ∨ x.st = .halted then (s, { status := stSequenceState })
  else if (tget {} x.pool (q.u32 8)).out = false then (s, badField 8)
  else (s.modCtx e c (fun x => { x with pool := tmod {} x.pool (q.u32 8) (fun u => { u with out := false }) }), {})

/-- SURFACE_RELEASE (R296). -/
def execSurfaceRelease (f : Fn) (m : Mb) (s : State) : Host.Outcome State Fault Refusal := .next (s.serve f m surfaceForm surfaceRow)

/-- Bytes at a virtual address, each piece within the function's fast extents, or the first failure and its virtual address (R290). -/
def engineRead (m : MemState) (p : PageState) (f : Nat) : List (Nat × Nat) → Except (Nat × Args) (List Byte)
  | [] => .ok []
  | x :: l =>
    match engineReach m p f false x.1 with
    | .error e => .error e
    | .ok a =>
      match m.ueIn a x.2 with
      | some g => .error (x.1, accErr stUncorrectable 0 g 1)
      | none =>
        match engineRead m p f l with
        | .error e => .error e
        | .ok bs => .ok (m.read a x.2 ++ bs)

/-- Bytes cut at grain boundaries. -/
def cutPieces (a : Nat) (bs : List Byte) : List (Nat × List Byte) :=
  (grainPieces a bs.length).map (fun x => (x.1, (bs.drop (x.1 - a)).take x.2))

/-- Where each piece of a write goes, or how it fails. -/
def engineWrites (m : MemState) (p : PageState) (f : Nat) (l : List (Nat × List Byte)) : List (Nat × Except Args Transfer) :=
  l.map (fun x => (x.1, match engineReach m p f true x.1 with
    | .error e => .error e.2
    | .ok a => .ok { data := x.2, dst := a }))

/-- The first failure, with its virtual address. -/
def firstBad (l : List (Nat × Except Args Transfer)) : Option (Nat × Args) :=
  l.findSome? (fun x => match x.2 with
    | .error e => some (x.1, e)
    | .ok _ => none)

/-- Pieces written: all of them, or those the model's free bits name when one fails (R104; log 22). -/
def State.engineWrite (s : State) (f : Nat) (l : List (Nat × List Byte)) : State × Option (Nat × Args) :=
  let ps := engineWrites s.mem s.pages f l
  let bad := firstBad ps
  ((written s.freeCtr bad.isSome 0 (ps.map (·.2))).foldl (fun s t => s.writePhys f t.dst t.data) { s with freeCtr := s.freeCtr + 1 }, bad)

/-- Mid-level of a sample (R288, R304). -/
def midLevel (x : CodecSet) : Nat := if x.p010 then 512 else 128

/-- The samples of `now` with those in damaged blocks replaced by the co-located ones of the picture before, or mid-level (R304). -/
def concealPlane (mid w h : Nat) (now : List Nat) (hurt : List Nat) (pw ph : Nat) (before : Option (List Nat)) : List Nat :=
  (List.range (w * h)).map (fun k =>
    if hurt.contains k then
      match before with
      | some l => if k % w < pw ∧ k / w < ph then l.getD (k / w * pw + k % w) mid else mid
      | none => mid
    else now.getD k mid)

/-- The picture as written: concealed blocks filled, chroma of a monochrome picture at mid-level (R288, R304). -/
def shownPicture (x : CodecSet) (before : Option Picture) (d : DecodedPicture) : Picture :=
  let p := d.picture
  let b := before.getD {}
  let cw (w : Nat) := 2 * ceilDiv w 2
  { width := p.width, height := p.height
    luma := concealPlane (midLevel x) p.width p.height p.luma d.lumaHurt b.width b.height (before.map (·.luma))
    chroma :=
      if d.mono then List.replicate (cw p.width * ceilDiv p.height 2) (midLevel x)
      else concealPlane (midLevel x) (cw p.width) (ceilDiv p.height 2) p.chroma d.chromaHurt (cw b.width) (ceilDiv b.height 2) (before.map (·.chroma)) }

/-- Surfaces of the pool with neither hold (R296). -/
def CodecCtx.freeSurfaces (x : CodecCtx) : List Nat :=
  (List.range (parseCodec x.settings).poolCount).filter (fun i => !(tget {} x.pool i).ref && !(tget {} x.pool i).out)

/-- A stream that the engine decodes (Table 13.1, R287, R288): profile, depth, level, tools, and the limits of a picture. -/
def codingOk (coding : Nat) (u : UnitHead) : Bool :=
  u.tools.isEmpty && decide (16 ≤ u.width ∧ 16 ≤ u.height) && match coding with
    | 0 => (u.bits == 8 && [.hevcMain, .hevcMain10, .hevcMainStill].contains u.profile || u.bits == 10 && u.profile == .hevcMain10)
        && decide (u.level ≤ 61 ∧ u.width ≤ 8192 ∧ u.height ≤ 8192 ∧ u.width * u.height ≤ 35651584)
    | 1 => (u.bits == 8 || u.bits == 10) && u.profile == .av1Main
        && decide (u.level ≤ 61 ∧ u.width ≤ 8192 ∧ u.height ≤ 8192 ∧ u.width * u.height ≤ 35651584)
    | _ => u.bits == 8 && [.avcHigh, .avcMain, .avcConstrainedBaseline].contains u.profile
        && decide (u.level ≤ 52 ∧ u.width ≤ 4096 ∧ u.height ≤ 4096 ∧ ceilDiv u.width 16 * ceilDiv u.height 16 ≤ 36864)

/-- The reason a unit stops its context (R288, R296): UNSUPPORTED, or POOL_TOO_SMALL. -/
def unitStops (x : CodecSet) (u : UnitHead) : Option Nat :=
  if !codingOk x.coding u then some 4
  else if x.poolCount - 1 < u.surfaces ∨ x.width < u.width ∨ x.height < u.height ∨ x.p010 ≠ (u.bits == 10) then some 5
  else none

/-- Where a change of context saves the engine's state, and the rest of a work area, where a decoder keeps its entropy state and co-located motion (R293, R295; log 26). -/
def CodecCtx.statePieces (x : CodecCtx) : List (Nat × Nat) := grainPieces (parseCodec x.settings).workBase engineStateBytes
def CodecCtx.workPieces (x : CodecCtx) : List (Nat × Nat) := grainPieces ((parseCodec x.settings).workBase + engineStateBytes) x.workUsed

/-- The engine's state of a context that the engine does not hold: saved in the work area, or that of a new stream (R295). -/
def State.storedState (s : State) (e c : Nat) : Except (Nat × Args) (List Byte) :=
  let x := s.codecCtx e c
  if x.begun then (engineRead s.mem s.pages x.fn.toNat x.statePieces).map heldState else .ok (if e < 4 then [] else heldState (parseCodec x.settings).firstRate.bytes)

/-- The engine's state of a context, in the engine or stored (R295). -/
def State.engineState (s : State) (e c : Nat) : Except (Nat × Args) (List Byte) :=
  match (s.codec e).loaded with
  | some l => if l.1 = c then .ok l.2 else s.storedState e c
  | none => s.storedState e c

/-- The pictures a unit references, read from the surfaces that hold them (R290, R296, R304). -/
def readRefs (m : MemState) (p : PageState) (x : CodecCtx) : List Nat → Except (Nat × Args) (List (Nat × Picture))
  | [] => .ok []
  | n :: l =>
    let cs := parseCodec x.settings
    match x.pool.find? (fun u => (u.2.ref || u.2.out) && u.2.pic == n) with
    | none => readRefs m p x l
    | some u =>
      match engineRead m p x.fn.toNat (surfaceRows cs (cs.poolBase + u.1 * cs.poolStride) u.2.width u.2.height) with
      | .error e => .error e
      | .ok bs =>
        match readRefs m p x l with
        | .error e => .error e
        | .ok r => .ok ((n, surfacePicture cs u.2.width u.2.height bs) :: r)

/-- A unit as its headers give it, with the state, work area and bytes it is decoded from. -/
structure UnitRead where
  state : List Byte
  work : List Byte
  bytes : List Byte
  head : UnitHead
  deriving DecidableEq, Repr

/-- What the context's next access unit is, on memory as it stands. -/
def State.unitRead (s : State) (e c : Nat) (d : FrameDesc) : Except (Nat × Args) UnitRead :=
  let x := s.codecCtx e c
  match engineRead s.mem s.pages x.fn.toNat (grainPieces d.src d.length) with
  | .error b => .error b
  | .ok bs =>
    match s.engineState e c with
    | .error b => .error b
    | .ok st =>
      match engineRead s.mem s.pages x.fn.toNat x.workPieces with
      | .error b => .error b
      | .ok w => .ok { state := st, work := w, bytes := bs, head := Config.unitHead (parseCodec x.settings).coding st w bs }

/-- The n pictures of a unit in decoding order, each made after those before it as concealment leaves them (R304). `unit`: the unit, given the pictures made so far. -/
def decodeInTurn (x : CodecSet) (unit : List Picture → DecodedUnit) : Nat → Option Picture → List Picture → List DecodedPicture
  | 0, _, _ => []
  | n + 1, last, made =>
    let d := (unit made).pictures.getD made.length default
    let p := shownPicture x last d
    d :: decodeInTurn x unit n (some p) (made ++ [p])

/-- Pictures as they are shown, one after the other (R304). -/
def shownInTurn (x : CodecSet) : Option Picture → List DecodedPicture → List Picture
  | _, [] => []
  | last, d :: l => let p := shownPicture x last d; p :: shownInTurn x (some p) l

/-- What a unit decodes to: its pictures in turn, and the rest once they are all made. -/
def State.unitOf (s : State) (e c : Nat) (u : UnitRead) : Except (Nat × Args) DecodedUnit :=
  let x := s.codecCtx e c
  let cs := parseCodec x.settings
  match readRefs s.mem s.pages x u.head.refs with
  | .error b => .error b
  | .ok refs =>
    let unit (made : List Picture) : DecodedUnit := Config.decodeUnit cs.coding cs.grain u.state u.work refs made u.bytes
    let ds := decodeInTurn cs unit (unit []).pictures.length x.lastPicture []
    .ok { unit (shownInTurn cs x.lastPicture ds) with pictures := ds }

/-- A pool surface is free whenever the unit needs one (R294); a descriptor without a unit needs none. -/
def State.surfacesReady (s : State) (e c : Nat) (d : FrameDesc) : Bool :=
  let x := s.codecCtx e c
  decide (d.length = 0) || match s.unitRead e c d with
  | .error _ => true
  | .ok u =>
    (unitStops (parseCodec x.settings) u.head).isSome || match s.unitOf e c u with
      | .error _ => true
      | .ok r => decide (r.pictures.length ≤ x.freeSurfaces.length)

/-- The head of a context's queue is ready (R294); a descriptor that ends at its start is (R295). -/
def State.frameReady (s : State) (e c : Nat) : Option (List Byte) :=
  let x := s.codecCtx e c
  let enc := decide (4 ≤ e)
  match x.queue.head? with
  | none => none
  | some b =>
    let d := parseFrame enc b
    if x.st ≠ .open then none
    else if (frameRefusal enc (parseCodec x.settings) (s.ctxOf x.fn.toNat) b).isSome then some b
    else if d.startEn && !s.share.reached 0 (4096 + d.startCtr) d.startThr then none
    else if !enc && !s.surfacesReady e c d then none
    else some b

/-- The lowest-numbered ready context above the one served last, wrapping (R295). -/
def State.nextFrame (s : State) (e : Nat) : Option (Nat × List Byte) :=
  ((List.range 64).map (fun i => ((s.codec e).lastServed + 1 + i) % 64)).findSome? (fun c => (s.frameReady e c).map (fun b => (c, b)))

/-- The frame's DONE ADD (R290): whether one that writes nothing applies it is not stated (log 27). -/
def State.frameAdd (s : State) (d : FrameDesc) (apply : Bool) : State := if d.doneEn && apply then s.addHub d.doneCtr d.amount else s

/-- A frame halts its context: a status with the address of a failed access, or a stream the engine cannot take (Table 13.6). -/
def State.frameHalts (s : State) (e c : Nat) (d : FrameDesc) (r : CodecEnd) : State :=
  let go := Config.freeNew s.freeCtr 0 1
  ((State.modCtx { s with freeCtr := s.freeCtr + 1 } e c (fun x => { x with st := if x.st = .open then .halted else x.st })).frameAdd d go).frameFails e c r

/-- A failed access ends the frame (Table 13.6). -/
def State.frameBadAccess (s : State) (e c : Nat) (d : FrameDesc) (b : Nat × Args) : State :=
  (s.noteBad b.2).frameHalts e c d { status := b.2.status, user := d.user, address := b.1 }

/-- The engine saves the state of the context it leaves in that context's work area (R295); pieces that the area no longer takes are lost. -/
def State.saveEngine (s : State) (e c : Nat) : State :=
  match (s.codec e).loaded with
  | none => s
  | some l => if l.1 = c then s else (s.engineWrite (s.codecCtx e l.1).fn.toNat (cutPieces (parseCodec (s.codecCtx e l.1).settings).workBase (sliceAt l.2 0 engineStateBytes))).1

/-- The engine turns to a context: it saves, loads, and runs the frame; a load that fails ends it (R290, R295). -/
def State.turnTo (s : State) (e c : Nat) (b : List Byte) : State :=
  let s := s.saveEngine e c
  match s.engineState e c with
  | .error x => (s.modCodec e (fun y => { y with loaded := none })).frameBadAccess e c (parseFrame (decide (4 ≤ e)) b) x
  | .ok st => (s.modCodec e (fun y => { y with running := some (c, b), loaded := some (c, st) })).modCtx e c (fun x => { x with begun := true })

/-- The engine takes the next ready descriptor: it runs, or ends at its start (R295). -/
def State.frameStart (s : State) (e : Nat) : State :=
  if (s.codec e).running.isSome || s.rst.inCore || !s.rst.past 12 false then s
  else
    match s.nextFrame e with
    | none => s
    | some (c, b) =>
      let enc := decide (4 ≤ e)
      let x := s.codecCtx e c
      let s := (s.modCtx e c (fun x => { x with queue := x.queue.drop 1 })).modCodec e (fun y => { y with lastServed := c })
      match frameRefusal enc (parseCodec x.settings) (s.ctxOf x.fn.toNat) b with
      | some st => s.frameFails e c { status := st, user := (parseFrame enc b).user }
      | none => s.turnTo e c b

/-- CODEC_FRAME_START (R294, R295). -/
def execCodecFrameStart (e : CodecIx) (s : State) : Host.Outcome State Fault Refusal := .next (s.clocked (fun s => s.frameStart e))

/-- Queued descriptors of a context that a frame has just halted stay until it is closed; an ended frame reports. -/
def State.frameEnds (s : State) (e c : Nat) (d : FrameDesc) (r : CodecEnd) : State :=
  let s := s.counted e c r
  if r.status ≠ 0 ∨ d.event = true then s.codecEntry e c r else s

/-- Free surfaces of the pool in the order the device chooses (log 1). -/
def chooseFree (ctr : Nat) : Nat → List Nat → List Nat
  | 0, _ => []
  | n + 1, l =>
    match l[(Config.freeWord ctr n).toNat % max 1 l.length]? with
    | some i => i :: chooseFree ctr n (l.erase i)
    | none => []

/-- A decoded picture takes its surface: REF until the stream lets it go, CONCEALED by its own blocks or by what it references (R296, R304). -/
def CodecCtx.decode (x : CodecCtx) (surf user : Nat) (d : DecodedPicture) : CodecCtx :=
  let from_ := if d.clean then x.decoded else x.cleanFrom
  let tainted := x.pool.any (fun e => e.2.concealed && decide (from_ ≤ e.2.pic) && d.refs.contains e.2.pic && (e.2.ref || e.2.out))
  { x with
    pool := tset {} x.pool surf { ref := true, out := false, pic := x.decoded, width := d.picture.width, height := d.picture.height, user := BitVec.ofNat 32 user, concealed := d.lumaHurt != [] || d.chromaHurt != [] || tainted }
    decoded := x.decoded + 1
    cleanFrom := from_
    pending := x.pending ++ (match d.order with
      | some o => [(x.decoded, o)]
      | none => [])
    lastPicture := some (shownPicture (parseCodec x.settings) x.lastPicture d) }

/-- Pictures of a unit in decoding order, each in its surface: the context after them and the rows to write. -/
def decodeAll (user : Nat) : List (Nat × DecodedPicture) → CodecCtx → CodecCtx × List (Nat × List Byte)
  | [], x => (x, [])
  | (i, d) :: l, x =>
    let cs := parseCodec x.settings
    let rows := pictureRows cs (shownPicture cs x.lastPicture d) (cs.poolBase + i * cs.poolStride)
    let r := decodeAll user l (x.decode i user d)
    (r.1, rows ++ r.2)

/-- A picture reported in output order: the surface carries OUT, and an OUTPUT entry tells the host (R296, R299). -/
def State.report (s : State) (e c n : Nat) : State :=
  let x := s.codecCtx e c
  match x.pool.find? (fun u => u.2.ref && u.2.pic == n), x.pending.find? (fun o => o.1 == n) with
  | some u, some o =>
    let order := if (parseCodec x.settings).coding = 0 then o.2.toNat else x.reported
    (s.modCtx e c (fun x => { x with reported := x.reported + 1, pending := x.pending.erase o, pool := tmod {} x.pool u.1 (fun y => { y with out := true }) })).codecEntry e c
      { output := true, concealed := u.2.concealed, surface := u.1, user := u.2.user.toNat, order := order }
  | _, _ => s

/-- The pictures still to be output, in output order (R296). -/
def CodecCtx.pendingOrder (x : CodecCtx) : List Nat := (sortBy (fun a b => decide (a.2.toInt < b.2.toInt)) x.pending).map (·.1)

/-- Pictures a unit outputs: those the stream outputs now, and at END_OF_STREAM every one still pending (R296). -/
def State.outputs (s : State) (e c : Nat) (now : List Nat) (last : Bool) : State :=
  let s := now.foldl (fun s n => s.report e c n) s
  if last then ((s.codecCtx e c).pendingOrder).foldl (fun s n => s.report e c n) s else s

/-- REF holds the stream has let go (R296). -/
def CodecCtx.letGo (x : CodecCtx) (keeps : List Nat) : CodecCtx :=
  { x with pool := each (x.pool.filter (fun u => u.2.ref && !keeps.contains u.2.pic)) (fun u t => tmod {} t u.1 (fun y => { y with ref := false })) x.pool }

/-- Surfaces that neither the stream nor an output to come needs lose their REF holds, and the DONE ADD is applied (R290, R296). -/
def State.settleHolds (s : State) (e c : Nat) (d : FrameDesc) : State :=
  (s.modCtx e c (fun x => x.letGo (x.keeps ++ x.pending.map (·.1)))).frameAdd d true

/-- END_OF_STREAM without a unit: the pictures still pending are output, and nothing is decoded (R296, Table 13.3). -/
def State.flushDone (s : State) (e c : Nat) (d : FrameDesc) : State :=
  ((s.outputs e c [] true).settleHolds e c d).frameEnds e c d { user := d.user }

/-- A unit decoded: its pictures go to free surfaces, what the decoder keeps to the work area, its outputs to the host (R290, R293, R296, R304). -/
def State.unitDone (s : State) (e c : Nat) (d : FrameDesc) (u : DecodedUnit) : State :=
  let x := s.codecCtx e c
  let surfs := chooseFree s.freeCtr u.pictures.length x.freeSurfaces
  let r := decodeAll d.user (surfs.zip u.pictures) x
  let rows := r.2.flatMap (fun row => cutPieces row.1 row.2)
  let kept := u.work.take (x.workNeed.toNat - engineStateBytes)
  let work := cutPieces ((parseCodec x.settings).workBase + engineStateBytes) kept
  let w := State.engineWrite { s with freeCtr := s.freeCtr + 1 } x.fn.toNat (rows ++ work)
  match w.2 with
  | some b => w.1.frameBadAccess e c d b
  | none =>
    let s := (w.1.modCtx e c (fun _ => { r.1 with workUsed := kept.length, keeps := u.keeps })).modCodec e (fun y => { y with loaded := some (c, heldState u.state) })
    let s := (s.outputs e c u.outputs d.last).settleHolds e c d
    s.frameEnds e c d { status := if u.flaw = 0 then stOk else stCodecStream, reason := u.flaw, user := d.user }

/-- A decoder's frame ends (R288, R296, R297, R304). -/
def State.decodeDone (s : State) (e c : Nat) (d : FrameDesc) : State :=
  if d.length = 0 then s.flushDone e c d
  else match s.unitRead e c d with
  | .error b => s.frameBadAccess e c d b
  | .ok r =>
    match unitStops (parseCodec (s.codecCtx e c).settings) r.head with
    | some n => s.frameHalts e c d { status := stCodecStream, reason := n, user := d.user }
    | none =>
      match s.unitOf e c r with
      | .error b => s.frameBadAccess e c d b
      | .ok u => s.unitDone e c d u

/-- RATE_UPDATE holds from its own frame on (R303). -/
def CodecCtx.rates (x : CodecCtx) (d : FrameDesc) : CodecCtx := if d.rate then { x with targetKbps := d.target, maxKbps := d.most } else x

/-- The references an encoder keeps in its work area (R290, R293). -/
def readRefPics (m : MemState) (p : PageState) (x : CodecCtx) : List (Nat × Nat) → Except (Nat × Args) (List RefPic)
  | [] => .ok []
  | r :: l =>
    let cs := parseCodec x.settings
    match engineRead m p x.fn.toNat (grainPieces (cs.refBase r.1) cs.refBytes) with
    | .error e => .error e
    | .ok bs =>
      match readRefPics m p x l with
      | .error e => .error e
      | .ok t => .ok (refOfBytes cs r.1 r.2 bs :: t)

/-- A group of frames is coded and emitted; one whose bytes exceed OUT_CAPACITY is dropped and changes nothing (R293, R297, R298, R303, R305). `y`: the context with the group's last frame in it. -/
def State.emit (s : State) (e c : Nat) (d : FrameDesc) (y : CodecCtx) (key : Bool) (group : List (EncodePlan × Picture)) (refs : List RefPic) : State :=
  let cs := parseCodec y.settings
  let g := encodeGroup y.settings refs (rateOf ((((s.codec e).loaded).map (·.2)).getD [])) y.frames group
  if d.length < g.out.length then
    let go := Config.freeNew s.freeCtr 0 1
    (State.frameAdd { s with freeCtr := s.freeCtr + 1 } d go).frameEnds e c d { status := stCodecStream, reason := 0x10, user := d.user }
  else
    let kept := (g.refs.filter (fun r => !refs.contains r)).flatMap (fun r => cutPieces (cs.refBase r.slot) (r.samples.flatMap (sampleBytes cs.p010)))
    let w := s.engineWrite y.fn.toNat (cutPieces d.dst g.out ++ kept)
    match w.2 with
    | some b => w.1.frameBadAccess e c d b
    | none =>
      let s := (w.1.modCtx e c (fun _ => { y.coded key with group := [], frames := y.frames + group.length, refs := g.refs.map (fun r => (r.slot, r.frame)) })).modCodec e
        (fun k => { k with loaded := some (c, heldState g.rate.bytes) })
      (s.frameAdd d true).frameEnds e c d { key := key, hrd := g.hrd, qp := g.qp, user := d.user, bytes := g.out.length }

/-- QP reported of a frame that waits in its mini-group: under CQP that of its type, else the encoder's own, not yet chosen (log 28). -/
def CodecSet.waitingQp (x : CodecSet) (ctr : Nat) (key : Bool) : Nat := if x.rc = 0 then (if key then x.qpI else x.qpB) else (Config.freeWord ctr 0).toNat % 256

/-- An encoder's frame ends (R297, R298, R300, R303, R305). -/
def State.encodeDone (s : State) (e c : Nat) (d : FrameDesc) : State :=
  let x := (s.codecCtx e c).rates d
  let cs := parseCodec x.settings
  match engineRead s.mem s.pages x.fn.toNat (inputRows cs d.src) with
  | .error b => s.frameBadAccess e c d b
  | .ok bs =>
    let plan := x.plan d.force d.last
    let group := x.group ++ [(plan, inputPicture cs bs)]
    if cs.random && !d.last && decide (group.length < 8) then
      ((State.modCtx { s with freeCtr := s.freeCtr + 1 } e c (fun _ => { x.coded plan.key with group := group })).frameAdd d true).frameEnds e c d
        { key := plan.key, qp := cs.waitingQp s.freeCtr plan.key, user := d.user }
    else
      match readRefPics s.mem s.pages x x.refs with
      | .error b => s.frameBadAccess e c d b
      | .ok refs => s.emit e c d x plan.key group refs

/-- The frame in progress ends; a CLOSING context keeps its state, and its frame runs to its end (R291, R295). -/
def State.frameDone (s : State) (e : Nat) : State :=
  match (s.codec e).running with
  | none => s
  | some (c, b) =>
    let s := s.modCodec e (fun y => { y with running := none })
    let d := parseFrame (decide (4 ≤ e)) b
    if 4 ≤ e then s.encodeDone e c d else s.decodeDone e c d

/-- CODEC_FRAME_DONE (R299). -/
def execCodecFrameDone (e : CodecIx) (s : State) : Host.Outcome State Fault Refusal := .next (s.clocked (fun s => s.frameDone e))

/-- Contexts of a function freed at once; its frame in progress stops (R306, FLR). -/
def CodecEngine.flr (x : CodecEngine) (f : Nat) : CodecEngine :=
  { x with
    ctx := x.ctx.map (fun e => if e.2.fn.toNat = f then (e.1, e.2.freed) else e)
    loaded := x.loaded.filter (fun l => decide ((tget {} x.ctx l.1).fn.toNat ≠ f))
    running := match x.running with
      | some r => if (tget {} x.ctx r.1).fn.toNat = f ∧ (tget {} x.ctx r.1).st ≠ .free then none else some r
      | none => none }

end Sys2Proof.Machine
end

