-- ==== Sys2Proof/Machine/Wire.lean ====
section
/-! DEFINITION. A frame as the line carries it (R250, R251, Tables 11.2, 11.3): 32 bytes of header, 1,024 of payload, and the check of its type and CRC. The places of the fields inside the payloads of NEG, RETRY, SWAP, JOIN, JOIN_ACK and ABORT are the model's (log 49). -/

namespace Sys2Proof.Machine

/-- Types of sequenced frames (Table 11.3). -/
def SeqKind.code : SeqKind → Nat
  | .data => 1
  | .join => 6
  | .joinAck => 7
  | .abort => 8
  | .token => 9

/-- TYPE (Table 11.3). -/
def SentFrame.code : SentFrame → Nat
  | .idle => 0
  | .hold => 2
  | .neg _ => 3
  | .retry _ => 4
  | .swap _ _ => 5
  | .seq f => f.kind.code

/-- JOIN and JOIN_ACK: shape, ring and direction, sizes, positions, device ID; PELOTON_ID and EPOCH stand in the header (R260). -/
def joinPayload (j : JoinInfo) : List Byte :=
  natLe 4 (j.grid.toNat + 2 * j.ringY.toNat + 4 * j.toPrev.toNat) ++ natLe 2 j.sizeX.toNat ++ natLe 2 j.sizeY.toNat ++ natLe 2 j.posX.toNat ++ natLe 2 j.posY.toNat ++ natLe 4 j.id.toNat

/-- ABORT: the reason and the named member (R273). -/
def abortPayload (a : AbortInfo) : List Byte := natLe 4 a.reason.toNat ++ natLe 4 a.id.toNat ++ natLe 2 a.x.toNat ++ natLe 2 a.y.toNat

/-- NEG: device ID, ID_VALID, port number, good-spoke mask (Table 11.3). -/
def NegInfo.payload (n : NegInfo) : List Byte := natLe 4 (n.id.toNat + 2 ^ 20 * n.port + 2 ^ 22 * n.idValid.toNat) ++ natLe 4 n.mask.toNat

/-- Bytes of a sequenced frame's payload that are not zero (Table 11.3; TOKEN as R420 gives it). -/
def Payload.used : Payload → List Byte
  | .data bs => bs
  | .join j => joinPayload j
  | .abort a => abortPayload a
  | .token t => natLe 8 t.toNat

/-- Payload of a frame, 1,024 bytes, zero where Table 11.3 names nothing. -/
def SentFrame.payload (f : SentFrame) : List Byte :=
  sliceAt (match f with
    | .idle | .hold => []
    | .neg n => n.payload
    | .retry x => natLe 2 x.toNat
    | .swap x y => natLe 1 x ++ natLe 1 y
    | .seq g => g.payload.used) 0 1024

/-- Frame header (Table 11.2) with a CRC. -/
def headerBytes (h : FrameHdr) (type crc : Nat) : List Byte :=
  natLe 2 (type + 2 ^ 4 * h.phase.toNat + 2 ^ 7 * h.dim.toNat + 2 ^ 8 * h.half.toNat + 2 ^ 9 * h.creditCtrl.toNat)
    ++ natLe 2 h.frameSeq.toNat ++ natLe 2 h.ackSeq.toNat ++ natLe 2 h.creditData.toNat
    ++ natLe 4 h.pelotonId.toNat ++ natLe 4 h.epoch.toNat ++ natLe 4 h.opSeq.toNat ++ natLe 4 h.offset.toNat ++ natLe 4 h.digest.toNat ++ natLe 4 crc

/-- The 1,056 bytes of a frame: its CRC is CRC-32C over header and payload with the field taken as zero (R251). -/
def frameBytes (h : FrameHdr) (f : SentFrame) : List Byte :=
  let p := f.payload
  headerBytes h f.code (crc32c (headerBytes h f.code 0 ++ p)).toNat ++ p

/-- A frame whose type Table 11.3 does not list, or whose CRC fails (R251). -/
def lineBad (bs : List Byte) : Bool :=
  let b := sliceAt bs 0 1056
  decide (9 < fieldAt b 0 1 % 16) || fieldAt b 0x1C 4 != crcWithout b 0x1C

end Sys2Proof.Machine
end

