-- ==== Sys2Proof/Machine/Link.lean ====
section
/-! DEFINITION. Optical ports and the link level (R249 to R258; Tables 11.2 to 11.5): sequencing, acknowledgement, retry, credits, spokes and their spare, bring-up, and what each frame slot carries (R250, R254). -/

namespace Sys2Proof.Machine

def FabricState.link (x : FabricState) (p : Nat) : PortLink := tget {} x.links p
def FabricState.modLink (x : FabricState) (p : Nat) (f : PortLink → PortLink) : FabricState := { x with links := tmod {} x.links p f }
def State.modPort (s : State) (p : Nat) (f : Port → Port) : State := { s with fabric := s.fabric.modPort p f }
def State.modLink (s : State) (p : Nat) (f : PortLink → PortLink) : State := { s with fabric := s.fabric.modLink p f }
def State.port (s : State) (p : Nat) : Port := s.fabric.port p
def State.link (s : State) (p : Nat) : PortLink := s.fabric.link p

/-- The port carries traffic: UP or HOLD_SEEN. -/
def Port.linked (x : Port) : Bool := x.st == .up || x.st == .holdSeen

def FrameHdr.none : FrameHdr :=
  { frameSeq := 0, ackSeq := 0, creditCtrl := 0, creditData := 0, phase := 0, dim := false, half := false, pelotonId := 0, epoch := 0, opSeq := 0, offset := 0, digest := 0 }

/-- Retry buffer, reorder window and buffers (R252, R253). -/
def retryFrames : Nat := 512
def reorderFrames : Nat := 16
def dataFrames : Nat := 1024
def ctrlFrames : Nat := 64

/-- Link frames queued, each once for each of the spokes named. -/
def PortLink.ask (l : PortLink) (ks : List (Option Nat)) (f : LinkFrame) : PortLink := { l with linkFrames := l.linkFrames ++ ks.map (fun k => (k, f)) }

/-- RETRY of the first missing frame is asked for (R252). -/
def PortLink.askRetry (l : PortLink) (now : Nat) : PortLink :=
  { l.ask [none] (.retry l.rxSeq) with gapSince := if l.window.isEmpty then none else some now }

/-- Acknowledgement and credits of a valid frame taken in (R252 to R254). -/
def PortLink.refresh (l : PortLink) (k now : Nat) (h : FrameHdr) : PortLink :=
  let gone := (l.retry.filter (fun e => decide ((h.ackSeq - e.frame.hdr.frameSeq).toNat < 2 ^ 15))).length
  { l with
    retry := l.retry.drop gone
    resendAt := l.resendAt.map (fun i => i - gone)
    creditData := l.creditData + (h.creditData - l.seenData).toNat
    creditCtrl := l.creditCtrl + (h.creditCtrl - l.seenCtrl).toNat
    seenData := h.creditData
    seenCtrl := h.creditCtrl
    lastValid := tset 0 l.lastValid k now }

/-- A valid frame on spoke k of a port: it refreshes the link, and ends HOLD_SEEN unless it is a HOLD (Table 11.4). -/
def State.heard (s : State) (p k : Nat) (h : FrameHdr) (hold : Bool) : State :=
  let s := s.modLink p (fun l => l.refresh k s.now h)
  if !hold && (s.port p).st == .holdSeen then s.modPort p (fun x => { x with st := .up }) else s

/-- A spoke in use on a port that has passed TUNE. -/
def Port.hears (x : Port) (k : Nat) : Bool := (x.linked || x.st == .align || x.st == .negotiate) && x.spokesGood.getLsbD k

/-- A frame taken in order into its buffer (R253). -/
def PortLink.accept (l : PortLink) (f : SeqFrame) : PortLink :=
  let l := { l with rxSeq := l.rxSeq + 1 }
  if f.kind = .data then { l with dataBuf := l.dataBuf ++ [f] } else { l with ctrlBuf := l.ctrlBuf ++ [f] }

/-- Early frames that are now in order (R252). -/
def PortLink.unwind : Nat → PortLink → PortLink
  | 0, l => l
  | n + 1, l =>
    match l.window.find? (fun f => f.hdr.frameSeq == l.rxSeq) with
    | none => l
    | some f => PortLink.unwind n ({ l with window := l.window.erase f }.accept f)

/-- Its buffer has room for a frame. -/
def PortLink.roomFor (l : PortLink) (f : SeqFrame) : Bool :=
  if f.kind = .data then decide (l.dataBuf.length < dataFrames) else decide (l.ctrlBuf.length < ctrlFrames)

/-- A sequenced frame arrives: taken in order, held in the window, passed over as a copy, or dropped with a RETRY (R252). -/
def PortLink.receive (l : PortLink) (now : Nat) (f : SeqFrame) : PortLink :=
  let ahead := (f.hdr.frameSeq - l.rxSeq).toNat
  if ahead = 0 then
    if l.roomFor f then
      let l := PortLink.unwind reorderFrames (l.accept f)
      { l with gapSince := if l.window.isEmpty then none else some now }
    else l.askRetry now
  else if ahead < reorderFrames then
    if l.window.any (fun g => g.hdr.frameSeq == f.hdr.frameSeq) then l
    else { l with window := l.window ++ [f], gapSince := some (l.gapSince.getD now) }
  else if ahead < 2 ^ 15 then l.askRetry now
  else l

/-- A sequenced frame on spoke k of a port (R251 to R253). -/
def State.takeSeq (s : State) (p k : Nat) (f : SeqFrame) : State :=
  if (s.port p).linked && (s.port p).hears k then (s.heard p k f.hdr false).modLink p (fun l => l.receive s.now f) else s

/-- IDLE_FRAME (R254). -/
def execIdleFrame (p : PortIx) (k : SpokeIx) (h : FrameHdr) (s : State) : Host.Outcome State Fault Refusal :=
  .next (s.clocked (fun s => if (s.port p).hears k then s.heard p k h false else s))

/-- Spokes of a port in use. -/
def Port.good (x : Port) : List Nat := bitsOf 5 x.spokesGood.toNat

/-- A spoke fails (R254, R256): its logical spoke moves to the spare, or the port goes on with one spoke less. `tell`: this end found it, and sends SWAP. -/
def State.failSpoke (s : State) (p k : Nat) (tell : Bool) : State :=
  let x := s.port p
  if !(x.linked && x.spokesGood.getLsbD k) then s
  else
    let good : BitVec 5 := x.spokesGood &&& ~~~(BitVec.ofNat 5 (2 ^ k))
    let l := s.link p
    if x.spare.toNat = k then
      ((s.modPort p (fun x => { x with spokesGood := good, spare := 7 })).modLink p (fun l => { l with failed := l.failed ||| BitVec.ofNat 5 (2 ^ k) })).spareOut 3 p false
    else if x.spare = 7 then
      let a := l.active.filter (fun j => j != k)
      ((s.modPort p (fun x => { x with spokesGood := good, degraded := true, activeLessOne := BitVec.ofNat 2 (a.length - 1) })).modLink p (fun l =>
        { (if tell then l.ask (a.map some |>.take 1) (.swap k k) else l) with active := a, failed := l.failed ||| BitVec.ofNat 5 (2 ^ k) })).spareOut 3 p true
    else
      let sp := x.spare.toNat
      let a := l.active.map (fun j => if j = k then sp else j)
      ((s.modPort p (fun x => { x with spokesGood := good, spare := 7, spokeSwaps := satAdd x.spokeSwaps 1 })).modLink p (fun l =>
        { (if tell then l.ask [some sp] (.swap k sp) else l) with active := a, failed := l.failed ||| BitVec.ofNat 5 (2 ^ k) })).spareOut 3 p false

/-- SWAP_FRAME: the peer's receiver found a spoke failed (R256). -/
def State.swapFrame (s : State) (p k failed : Nat) (h : FrameHdr) : State :=
  if (s.port p).linked && (s.port p).hears k then (s.heard p k h false).failSpoke p failed false else s

/-- SWAP_FRAME (R256). -/
def execSwapFrame (p : PortIx) (k : SpokeIx) (h : FrameHdr) (failed _spare : SpokeIx) (s : State) : Host.Outcome State Fault Refusal :=
  .next (s.clocked (fun s => s.swapFrame p k failed h))

/-- RETRY_FRAME: every frame from the named one is sent again; one resent 16 times fails its spoke (R252, R254). -/
def State.retryFrame (s : State) (p k : Nat) (h : FrameHdr) (expected : BitVec 16) : State :=
  if !((s.port p).linked && (s.port p).hears k) then s
  else
    let s := s.heard p k h false
    match (s.link p).retry.findIdx? (fun e => e.frame.hdr.frameSeq == expected) with
    | none => s
    | some i =>
      let s := s.modLink p (fun l => { l with resendAt := some i })
      match (s.link p).retry[i]? with
      | some e => if 16 ≤ e.resends then (s.modLink p (fun l => { l with retry := modAt l.retry i (fun e => { e with resends := 0 }) })).failSpoke p e.spoke true else s
      | none => s

/-- RETRY_FRAME (R252). -/
def execRetryFrame (p : PortIx) (k : SpokeIx) (h : FrameHdr) (expected : BitVec 16) (s : State) : Host.Outcome State Fault Refusal :=
  .next (s.clocked (fun s => s.retryFrame p k h expected))

/-- FRAME_DISCARDED: a slot in which codewords, at most four, were uncorrectable delivers no frame; a frame that R251 discards is counted (R250 to R252, Table 11.5). A good frame is no business of this command. -/
def State.discardFrame (s : State) (p k codewords : Nat) (frame : List Byte) : State :=
  if !(s.port p).hears k then s
  else if codewords = 0 ∧ lineBad frame = false then s
  else
    let s := s.modPort p (fun x =>
      if codewords = 0 then { x with crcErrors := satAdd x.crcErrors 1 } else { x with fecUncorrectable := satAdd x.fecUncorrectable (min codewords 4) })
    if (s.port p).linked then s.modLink p (fun l => l.askRetry s.now) else s

/-- FRAME_DISCARDED (R251). -/
def execFrameDiscarded (p : PortIx) (k : SpokeIx) (codewords : Nat) (frame : List Byte) (s : State) : Host.Outcome State Fault Refusal :=
  .next (s.clocked (fun s => s.discardFrame p k codewords frame))

/-- REORDER_GAP_TIMEOUT: a gap has stood 1 us (R252). -/
def State.gapTimeout (s : State) (p : Nat) : State :=
  match (s.link p).gapSince with
  | none => s
  | some t =>
    let s := s.upTo (t + usTicks)
    s.modLink p (fun l => l.askRetry s.now)

/-- REORDER_GAP_TIMEOUT (R252). -/
def execReorderGapTimeout (p : PortIx) (s : State) : Host.Outcome State Fault Refusal := .next (s.clocked (fun s => s.gapTimeout p))

/-- SPOKE_LOSS_OF_LIGHT (R254). -/
def execSpokeLossOfLight (p : PortIx) (k : SpokeIx) (s : State) : Host.Outcome State Fault Refusal := .next (s.clocked (fun s => s.failSpoke p k true))

/-- Another spoke of the port in use has delivered since spoke k last did (R254). -/
def State.othersDeliver (s : State) (p k : Nat) : Bool :=
  (s.port p).good.any (fun j => j != k && decide (tget 0 (s.link p).lastValid k < tget 0 (s.link p).lastValid j))

/-- A spoke has delivered no valid frame for 4 us while another spoke of the port delivers (R254). -/
def State.silentSpoke (s : State) (p k : Nat) : State :=
  if (s.port p).linked && (s.port p).hears k && s.othersDeliver p k then (s.upTo (tget 0 (s.link p).lastValid k + 4 * usTicks)).failSpoke p k true else s

/-- SPOKE_SILENT_TIMEOUT (R254). -/
def execSpokeSilentTimeout (p : PortIx) (k : SpokeIx) (s : State) : Host.Outcome State Fault Refusal := .next (s.clocked (fun s => s.silentSpoke p k))

/-- SPOKE_ERROR_WINDOW: the symbols of a 1 ms window and how many the code corrected (R254, Table 11.5). -/
def State.errorWindow (s : State) (p k symbols errors : Nat) : State :=
  if !(s.port p).hears k then s
  else
    let s := s.modPort p (fun x => { x with fecCorrected := satAdd x.fecCorrected errors })
    if symbols < 100000 * errors then s.failSpoke p k true else s

/-- SPOKE_ERROR_WINDOW (R254). -/
def execSpokeErrorWindow (p : PortIx) (k : SpokeIx) (symbols errors : Nat) (s : State) : Host.Outcome State Fault Refusal :=
  .next (s.clocked (fun s => s.errorWindow p k symbols errors))

/-- The record of a port that goes to a state without light (R255): its counters and what it knows of its peer stay. -/
def Port.dropTo (x : Port) (st : PortSt) : Port :=
  { x with st := st, degraded := false, spokesGood := 0, spare := 7, activeLessOne := 3, linkDowns := if st == .dark && x.linked then satAdd x.linkDowns 1 else x.linkDowns }

/-- A port has received good spokes: at least four (Table 11.4). -/
def fourOf (mask : BitVec 5) : Bool := decide (4 ≤ (bitsOf 5 mask.toNat).length)

/-- A NEG of this port's own to go out on each spoke of a mask. -/
def PortLink.askNeg (l : PortLink) (mask : BitVec 5) : PortLink := l.ask ((bitsOf 5 mask.toNat).map some) (.neg false 0)

/-- A port leaves TUNE: NEG goes out on every good spoke (R255, Table 11.4). -/
def State.tuned (s : State) (p : Nat) (mask : BitVec 5) : State :=
  (s.modPort p (fun x => { x with st := .align, spokesGood := mask })).modLink p (fun _ => ({} : PortLink).askNeg mask)

/-- Both ends report the same good-spoke mask (Table 11.4). -/
def State.masksAgree (s : State) (p : Nat) : Bool := (s.port p).spokesGood != 0 && ((s.link p).peer.map (fun n => n.mask)) == some (s.port p).spokesGood

/-- The port's record of its peer's ID and port (R255). -/
def Port.peered (x : Port) (n : NegInfo) : Port := { x with peerId := n.id, peerPort := BitVec.ofNat 2 n.port, peerIdValid := n.idValid }

/-- A port whose NEG is answered on every good spoke enters NEGOTIATE and records its peer (R255, Table 11.4). -/
def State.negotiate (s : State) (p : Nat) : State :=
  match (s.link p).peer with
  | none => s
  | some n => if (s.port p).spokesGood != 0 && (s.port p).spokesGood &&& ~~~(s.link p).negAcked == 0 then s.modPort p (fun x => { x.peered n with st := .negotiate }) else s

/-- A port comes UP on the spokes good at both ends: of five the highest is the spare; credits and FRAME_SEQ start afresh (R249, R255, R256). -/
def State.portUp (s : State) (p : Nat) : State :=
  let good : BitVec 5 := (s.port p).spokesGood
  let l := bitsOf 5 good.toNat
  if !s.masksAgree p then s
  else
    let a := l.take 4
    let s := (s.modPort p (fun x =>
      { x with
        st := .up
        spokesGood := good
        spare := if 4 < l.length then BitVec.ofNat 3 (l.getD 4 7) else 7
        degraded := decide (l.length < 4)
        activeLessOne := BitVec.ofNat 2 (a.length - 1) })).modLink p (fun l =>
        { ({} : PortLink) with
          active := a
          delayNs := l.delayNs
          peer := l.peer
          negAcked := l.negAcked
          negSentAt := l.negSentAt
          linkFrames := l.linkFrames
          lastValid := l.lastValid
          lastSent := l.lastSent })
    if l.length < 4 then s.spareOut 3 p true else s

/-- PORT_BRINGUP_ADVANCE: a condition of Table 11.4 is met on the spokes of a mask. -/
def State.bringUp (s : State) (p : Nat) (b : BringUp) (mask : BitVec 5) : State :=
  match (s.port p).st, b with
  | .dark, .feedLost => s.modPort p (fun x => { x with laserFeedLost := true })
  | .dark, .lightReceived => if fourOf mask then s.modPort p (fun x => { x with st := .light, laserFeedLost := false }) else s
  | .light, .ringsLocked => if fourOf mask then s.modPort p (fun x => { x with st := .tune }) else s
  | .tune, .fecLocked => if fourOf mask then s.tuned p mask else s
  | .align, .negAcknowledged => s.negotiate p
  | .negotiate, .masksAgree => s.portUp p
  | _, _ => s

/-- The optics have been released (R255, R381). -/
def ResetState.optics (r : ResetState) : Bool := r.past 13 false

/-- PORT_BRINGUP_ADVANCE (R255). -/
def execPortBringupAdvance (p : PortIx) (b : BringUp) (mask : BitVec 5) (s : State) : Host.Outcome State Fault Refusal :=
  .next (s.clocked (fun s => if s.rst.optics then s.bringUp p b mask else s))

/-- A NEG taken in on spoke k: the answer to this port's own NEG there, which took the four slots of R420 at least and gives the delay d, or one that the port answers in the fourth slot. -/
def PortLink.negIn (l : PortLink) (k now : Nat) (n : NegInfo) : PortLink :=
  let l := { l with peer := some n }
  match tget none l.negSentAt k with
  | some t =>
    if 512 * nsTicks ≤ now - t then { l with negAcked := l.negAcked ||| BitVec.ofNat 5 (2 ^ k), negSentAt := tset none l.negSentAt k none, delayNs := ((now - t) / nsTicks - 512) / 2 }
    else l.ask [some k] (.neg true 3)
  | none => l.ask [some k] (.neg true 3)

/-- Before a port is UP it gives up the spokes that its peer does not report, and says so by a new NEG: so the two masks come to agree (Table 11.4; log 36). -/
def State.narrow (s : State) (p : Nat) (mask : BitVec 5) : State :=
  let both := (s.port p).spokesGood &&& mask
  if (s.port p).linked || both == 0 || both == (s.port p).spokesGood then s
  else (s.modPort p (fun x => { x with spokesGood := both })).modLink p (fun l => l.askNeg both)

/-- NEG_FRAME: the peer's identity and good spokes, recorded from NEGOTIATE on (R255, R420). -/
def State.negFrame (s : State) (p k : Nat) (h : FrameHdr) (n : NegInfo) : State :=
  if !(s.port p).hears k then s
  else
    let s := if (s.port p).linked then s.heard p k h false else s.modLink p (fun l => { l with lastValid := tset 0 l.lastValid k s.now })
    let s := if (s.port p).st = .align then s else s.modPort p (fun x => x.peered n)
    (s.modLink p (fun l => l.negIn k s.now n)).narrow p n.mask

/-- NEG_FRAME (R255, R420). -/
def execNegFrame (p : PortIx) (k : SpokeIx) (h : FrameHdr) (id : BitVec 20) (idValid : Bool) (port : PortIx) (mask : BitVec 5) (s : State) : Host.Outcome State Fault Refusal :=
  .next (s.clocked (fun s => s.negFrame p k h { id := id, idValid := idValid, port := port, mask := mask }))

/-- Header with this end's acknowledgement and credits (R253, R254). -/
def PortLink.stamp (l : PortLink) (h : FrameHdr) : FrameHdr := { h with ackSeq := l.rxSeq - 1, creditCtrl := l.freedCtrl, creditData := l.freedData }

/-- A logical spoke's turn: sequence number s goes on spoke s mod A (R250). -/
def PortLink.placed (l : PortLink) (seq : BitVec 16) (k : Nat) : Bool := l.active.length != 0 && l.active[seq.toNat % l.active.length]? == some k

/-- Credit for a frame's buffer (R253). -/
def PortLink.credit (l : PortLink) (f : SeqFrame) : Bool := if f.kind = .data then l.creditData != 0 else l.creditCtrl != 0

/-- The frame to send next: the oldest of each peloton that has credit, pelotons in turn (R263). -/
def PortLink.nextSeq (l : PortLink) : Option SeqFrame :=
  (l.sendQueue.filter (fun f => l.credit f)).foldl (fun (best : Option SeqFrame) f =>
    match best with
    | none => some f
    | some b => if (f.hdr.pelotonId - l.lastServed - 1).toNat < (b.hdr.pelotonId - l.lastServed - 1).toNat then some f else some b) none

/-- A token leaves with the fabric time of its slot (R420). -/
def SeqFrame.timed (f : SeqFrame) (time : W64) : SeqFrame :=
  match f.payload with
  | .token _ => { f with payload := .token time }
  | _ => f

/-- A sequenced frame sent for the first time on spoke k. -/
def PortLink.sendNew (l : PortLink) (k : Nat) (time : W64) (f : SeqFrame) : PortLink × SeqFrame :=
  let g := { (f.timed time) with hdr := { f.hdr with frameSeq := l.txSeq } }
  ({ l with
      sendQueue := l.sendQueue.erase f
      txSeq := l.txSeq + 1
      lastServed := f.hdr.pelotonId
      creditData := if f.kind = .data then l.creditData - 1 else l.creditData
      creditCtrl := if f.kind = .data then l.creditCtrl else l.creditCtrl - 1
      retry := l.retry ++ [{ frame := g, resends := 0, spoke := k, sent := true }] },
    g)

/-- A link frame that may go out in this slot of spoke k. -/
def PortLink.sendable (l : PortLink) (k : Nat) (f : Option Nat × LinkFrame) : Bool :=
  (f.1 == some k || (f.1.isNone && l.active.contains k)) && match f.2 with
    | .neg _ w => w == 0
    | _ => true

/-- A slot of spoke k passes for the NEG answers that wait on it (R420). -/
def PortLink.slotPasses (l : PortLink) (k : Nat) : PortLink :=
  { l with linkFrames := l.linkFrames.map (fun f => match f.2 with
      | .neg a w => if f.1 = some k then (f.1, .neg a (w - 1)) else f
      | _ => f) }

/-- What spoke k sends in its slot on an UP port, and how many frames were resent (R250, R252 to R254): a link frame, a resend, a new sequenced frame, or IDLE. `me`: what a NEG says. -/
def PortLink.slot (l : PortLink) (k : Nat) (sequenced : Bool) (now : Nat) (time : W64) (me : NegInfo) : PortLink × SentFrame × Nat :=
  match l.linkFrames.find? (fun f => l.sendable k f) with
  | some f =>
    let l := ({ l with linkFrames := l.linkFrames.erase f }).slotPasses k
    (match f.2 with
      | .neg a _ => (if a then l else { l with negSentAt := tset none l.negSentAt k (some now) }, .neg me, 0)
      | .retry x => (l, .retry x, 0)
      | .swap x y => (l, .swap x y, 0))
  | none =>
    let l := l.slotPasses k
    if !sequenced || !l.active.contains k then (l, .idle, 0)
    else
      match l.resendAt with
      | some i =>
        (match l.retry[i]? with
          | none => ({ l with resendAt := none }, .idle, 0)
          | some e =>
            if l.placed e.frame.hdr.frameSeq k then
              ({ l with resendAt := if i + 1 < l.retry.length then some (i + 1) else none, retry := modAt l.retry i (fun e => { e with resends := e.resends + 1, spoke := k }) },
                .seq e.frame, 1)
            else (l, .idle, 0))
      | none =>
        match l.nextSeq with
        | some f => if l.retry.length < retryFrames && l.placed l.txSeq k then (let r := l.sendNew k time f; (r.1, .seq r.2, 0)) else (l, .idle, 0)
        | none => (l, .idle, 0)

/-- The header a sent frame goes out with. -/
def PortLink.header (l : PortLink) : SentFrame → FrameHdr
  | .seq f => l.stamp f.hdr
  | _ => l.stamp FrameHdr.none

/-- Fabric time in nanoseconds (R420). -/
def State.fabricTime (s : State) : W64 := BitVec.ofNat 64 s.ns + s.fabric.fabricOffset

/-- What this port's NEG says (Table 11.3). -/
def State.negOf (s : State) (p : Nat) : NegInfo := { id := s.fabric.deviceId, idValid := s.fabric.idValid, port := p, mask := (s.port p).spokesGood }

/-- FRAME_SLOT_SENT: the next 128 ns slot of a spoke (R250, R254, R257). -/
def State.frameSlot (s : State) (p k : Nat) : State :=
  if !(s.port p).hears k then s
  else
    let last := tget 0 (s.link p).lastSent k
    let s := if last = 0 then s else s.upTo (last + 128 * nsTicks)
    let r : PortLink × SentFrame × Nat :=
      if s.rst.inCore && (s.port p).linked then (s.link p, .hold, 0) else (s.link p).slot k ((s.port p).st == .up) s.now s.fabricTime (s.negOf p)
    let s := (s.modPort p (fun x => { x with retries := satAdd x.retries r.2.2 })).modLink p (fun _ => { r.1 with lastSent := tset 0 r.1.lastSent k s.now })
    { s with fabric := { s.fabric with sent := tset none s.fabric.sent (5 * p + k) (some (r.1.header r.2.1, r.2.1)) } }

/-- The bytes of the frame that spoke k of port p sent last (R250, R251). -/
def State.lineBytes (s : State) (p k : Nat) : List Byte := ((tget none s.fabric.sent (5 * p + k)).map (fun f => frameBytes f.1 f.2)).getD []

/-- FRAME_SLOT_SENT (R250). -/
def execFrameSlotSent (p : PortIx) (k : SpokeIx) (s : State) : Host.Outcome State Fault Refusal := .next (s.clocked (fun s => s.frameSlot p k))

def deviceIdForm : CmdForm := { code := 0x0602, len := .fixed 4, pf0 := true, masks := [0xFFFFF] }

def deviceIdRow (q : Req) (s : State) : State × Answer :=
  if s.fabric.idValid then (s, notPermitted)
  else
    let x := each ((List.range 4).filter (fun p => (s.port p).st == .up)) (fun p x => x.modLink p (fun l => l.askNeg (s.port p).spokesGood))
      { s.fabric with deviceId := BitVec.ofNat 20 (q.u32 0), idValid := true }
    ({ s with fabric := x }, {})

/-- DEVICE_ID_SET (R18, R255). -/
def execDeviceIdSet (f : Fn) (m : Mb) (s : State) : Host.Outcome State Fault Refusal := .next (s.serve f m deviceIdForm deviceIdRow)

end Sys2Proof.Machine
end

