-- ==== Sys2Proof/Machine/Sums.lean ====
section
/-! DEFINITION. The arithmetic of the collective engine: descriptors (Table 11.8), digest (R265), the reduction order (R266), widen, add and narrow (R267), the noise statistics (R269). -/

namespace Sys2Proof.Machine

/-- Collective descriptor (Table 11.8). -/
structure CollDesc where
  kind : Nat
  type : Nat
  split : Bool
  dimY : Bool
  toPrev : Bool
  slot : Nat
  startEn : Bool
  doneEn : Bool
  event : Bool
  epoch : Nat
  src : Nat
  dst : Nat
  startCtr : Nat
  doneCtr : Nat
  length : Nat
  capacity : Nat
  startThr : Nat
  doneAmount : Nat
  timeout : Nat
  deriving DecidableEq, Repr

def parseColl (b : List Byte) : CollDesc :=
  let w := fieldAt b 0 4
  let x := fieldAt b 8 8
  let y := fieldAt b 16 8
  { kind := field w 2 0, type := field w 4 3, split := bit w 5, dimY := bit w 6, toPrev := bit w 7, slot := field w 13 8, startEn := bit w 14, doneEn := bit w 15
    event := bit w 16, epoch := fieldAt b 4 4, src := 256 * field x 39 0, dst := 256 * field y 39 0, startCtr := field x 51 40, doneCtr := field y 51 40
    length := fieldAt b 0x18 4, capacity := fieldAt b 0x1C 4, startThr := fieldAt b 0x20 4, doneAmount := fieldAt b 0x24 2, timeout := fieldAt b 0x28 4 }

/-- Bytes of an element of the operand. -/
def CollDesc.esize (d : CollDesc) : Nat := if d.kind = 1 then 1 else if d.type = 1 then 2 else 4

/-- Elements read, and OVERFLOW (R264). -/
def CollDesc.taken (d : CollDesc) : Nat := min d.length d.capacity
def CollDesc.overflow (d : CollDesc) : Nat := d.length - d.capacity

/-- Frames of the operation's vector: 256 elements, or 1,024 bytes of a RING_SHIFT. -/
def CollDesc.frames (d : CollDesc) : Nat := if d.kind = 1 then ceilDiv d.capacity 1024 else ceilDiv d.capacity 256

/-- Field ranges, the TYPE of each KIND, and the overlap rule (R262). `grid`: the slot's shape; `vf`: not PF0. -/
def CollDesc.fieldsOk (d : CollDesc) (grid vf : Bool) : Bool :=
  let n := d.taken * d.esize
  let m := d.capacity * d.esize
  let apart := d.kind = 2 ∨ n = 0 ∨ d.src = d.dst ∨ d.src + n ≤ d.dst ∨ d.dst + m ≤ d.src
  (match d.kind with
    | 0 => decide (d.type ≤ 2) && decide (1 ≤ d.capacity) && decide (d.capacity ≤ 2 ^ 28) && !d.dimY && !d.toPrev
    | 1 => decide (d.type = 3) && decide (256 ≤ d.capacity) && decide (d.capacity ≤ 2 ^ 30) && decide (d.capacity % 256 = 0) && !d.split && (!d.dimY || grid)
    | 2 => decide (d.type = 0) && decide (d.capacity = 0) && !d.split && !d.dimY && !d.toPrev
    | _ => false)
    && decide apart && !(vf && d.timeout == 0)

/-- A fence's fields (Table 11.8). -/
def CollDesc.fenceOk (d : CollDesc) (vf : Bool) : Bool := decide (d.type = 0) && decide (d.capacity = 0) && !d.split && !d.dimY && !d.toPrev && !(vf && d.timeout == 0)

/-- Digest of an operation (R265, Table 11.9). -/
def CollDesc.digest (d : CollDesc) (opSeq : W32) : W32 :=
  crc32c ([BitVec.ofNat 8 d.kind, BitVec.ofNat 8 d.type, BitVec.ofNat 8 (b2n d.split + 2 * b2n d.dimY + 4 * b2n d.toPrev), 0]
    ++ natLe 4 d.capacity ++ natLe 4 d.epoch ++ natLe 4 opSeq.toNat)

/-- Where a frame stands in a ring of p members (R266): backward half, owner's position, its chunk's first frame and number of frames, and its index in the chunk. -/
structure RingPlace where
  back : Bool
  owner : Nat
  first : Nat
  count : Nat
  index : Nat
  deriving DecidableEq, Repr

def ringPlace (frames p : Nat) (split : Bool) (f : Nat) : RingPlace :=
  let hi := ceilDiv frames 2
  let back := split && decide (hi ≤ f)
  let base := if back then hi else 0
  let n := if back then frames - hi else if split then hi else frames
  let c := max 1 (ceilDiv n p)
  let k := (f - base) / c
  { back := back, owner := k, first := base + k * c, count := min c (n - k * c), index := f - base - k * c }

/-- Position j steps on from the owner (R266). -/
def RingPlace.step (x : RingPlace) (p j : Nat) : Nat := if x.back then (x.owner + p - j % p) % p else (x.owner + j) % p

/-- Value added: FP32 rounded to nearest even, or INT32 (R267). -/
def collAdd (type : Nat) (a b : W32) : W32 := if type = 2 then a + b else BitVec.ofNat 32 (fadd a.toNat b.toNat)

/-- An element widened for the sums, and the code a final sum is narrowed to (R267). -/
def collWiden (type : Nat) (x : Nat) : W32 := if type = 1 then BitVec.ofNat 32 (x % 65536 * 65536) else BitVec.ofNat 32 x
def collNarrow (type : Nat) (x : W32) : W32 := if type = 1 then BitVec.ofNat 32 (bf16.encode (fp32.decode x.toNat)) else x

/-- Elements of bytes, and bytes of codes. -/
def elementsOf (size : Nat) : Nat → List Byte → List Nat
  | 0, _ => []
  | n + 1, bs => leNat (bs.take size) :: elementsOf size n (bs.drop size)

def codeBytes (size : Nat) (l : List W32) : List Byte := l.flatMap (fun x => natLe size x.toNat)

/-- Exact value of a result or operand code (R269). -/
def collValue (type : Nat) (x : W32) : FpVal := if type = 2 then .ofInt x.toInt 0 else if type = 1 then bf16.decode x.toNat else fp32.decode x.toNat

/-- s = fma(x, x, s) in FP64 over elements in ascending order from +0 (R269). -/
def sumSquares (l : List FpVal) : Nat := l.foldl (fun s x => fp64.encode ((x.mul x).add (fp64.decode s))) 0

end Sys2Proof.Machine
end

