-- ==== Sys2Proof/Machine/Collective.lean ====
section
/-! DEFINITION. Pelotons and the collective engine (R259 to R275, R420; Tables 11.7, 11.10, 11.11): slots and joining, operations and their frames, early endings, the commands of the FABRIC class. -/

namespace Sys2Proof.Machine

def FabricState.slot (x : FabricState) (i : Nat) : Slot := tget {} x.slots i
def State.slot (s : State) (i : Nat) : Slot := s.fabric.slot i
def State.modSlot (s : State) (i : Nat) (f : Slot → Slot) : State := { s with fabric := { s.fabric with slots := tmod {} s.fabric.slots i f } }

/-- Directions: 0 next X, 1 previous X, 2 next Y, 3 previous Y. -/
def Slot.dirs (x : Slot) : List Nat := if x.grid then [0, 1, 2, 3] else [0, 1]

def Slot.dirPort (x : Slot) (d : Nat) : Nat := (if d = 0 then x.nextXPort else if d = 1 then x.prevXPort else if d = 2 then x.nextYPort else x.prevYPort).toNat
def Slot.dirId (x : Slot) (d : Nat) : BitVec 20 := if d = 0 then x.nextXId else if d = 1 then x.prevXId else if d = 2 then x.nextYId else x.prevYId

/-- Ports a peloton names. -/
def Slot.ports (x : Slot) : List Nat := (x.dirs.map x.dirPort).eraseDups

/-- Neighbour of position i in a ring of n. -/
def ringNext (i n : Nat) (prev : Bool) : Nat := if prev then (i + n - 1) % max n 1 else (i + 1) % max n 1

/-- Device ID and positions of the member in a direction (R273). -/
def Slot.member (x : Slot) (d : Nat) : AbortInfo :=
  { reason := 0, id := x.dirId d
    x := if d < 2 then BitVec.ofNat 16 (ringNext x.posX.toNat x.sizeX.toNat (d == 1)) else x.posX
    y := if d < 2 then x.posY else BitVec.ofNat 16 (ringNext x.posY.toNat x.sizeY.toNat (d == 3)) }

/-- This member. -/
def State.self (s : State) (x : Slot) : AbortInfo := { reason := 0, id := s.fabric.deviceId, x := x.posX, y := x.posY }

/-- No member is named. -/
def nobody : AbortInfo := { reason := 0, id := 0, x := 0, y := 0 }

/-- The neighbour through a port. -/
def Slot.through (x : Slot) (p : Nat) : AbortInfo := match x.dirs.find? (fun d => x.dirPort d == p) with
  | some d => x.member d
  | none => nobody

/-- Reasons (Table 11.11). -/
def rsnMismatch : Nat := 1
def rsnLinkDown : Nat := 2
def rsnPeerHold : Nat := 3
def rsnTimeout : Nat := 4
def rsnPeerError : Nat := 5
def rsnResidue : Nat := 6
def rsnReformed : Nat := 7
def rsnBroken : Nat := 8

/-- Status a reason gives the members that learn of it by ABORT (Table 11.11). -/
def abortStatus (r : Nat) : Nat := if r = rsnMismatch then stGroupMismatch else if r = rsnResidue then stCollArith else stPeerLost

/-- A sequenced frame queued on a port. -/
def State.send (s : State) (p : Nat) (f : SeqFrame) : State := s.modLink p (fun l => { l with sendQueue := l.sendQueue ++ [f] })

/-- Header of a peloton's frames. -/
def Slot.hdr (x : Slot) (opSeq digest : W32) : FrameHdr := { FrameHdr.none with pelotonId := x.pelotonId, epoch := x.epoch, opSeq := opSeq, digest := digest }

/-- ABORT on every port of the peloton but one, and but those that are down (R273). -/
def State.sendAborts (s : State) (x : Slot) (opSeq digest : W32) (a : AbortInfo) (skip : Option Nat) : State :=
  each (x.ports.filter (fun p => skip != some p && (s.port p).linked)) (fun p s => s.send p { kind := .abort, hdr := x.hdr opSeq digest, payload := .abort a }) s

def CollOp.d (o : CollOp) : CollDesc := parseColl o.desc.bytes
def State.opOn (s : State) (slot : Nat) : Option CollOp := s.fabric.ops.find? (fun o => o.slot == slot)
def State.modOp (s : State) (slot : Nat) (f : CollOp → CollOp) : State := { s with fabric := { s.fabric with ops := mapIf (fun o => o.slot == slot) f s.fabric.ops } }
def State.dropOp (s : State) (slot : Nat) : State := { s with fabric := { s.fabric with ops := s.fabric.ops.filter (fun o => o.slot != slot) } }

/-- Bytes of the result in frame f, and of its newest partial sums, as an operation that ends early may leave them (R274). -/
def CollOp.left (o : CollOp) (f : Nat) (final : Bool) : List Byte :=
  let d := o.d
  if d.kind = 1 then (if final then (tget [] o.shifted f).take (d.capacity - 1024 * f) else [])
  else
    let l := (if final then tget [] o.final f else (tget [] o.sums f).map (collNarrow d.type)).take (d.capacity - 256 * f)
    codeBytes d.esize l

/-- Grains of DST that a frame of an operation ending early leaves written: old contents, a partial sum or final bytes, by free values (R274). -/
def State.leaveFrame (o : CollOp) (ctr f : Nat) (s : State) : State :=
  let d := o.d
  let size := if d.kind = 1 then 1024 else 256 * d.esize
  each (List.range (ceilDiv size 256)) (fun g s =>
    let w := (Config.freeWord ctr (8 * f + g)).toNat % 3
    let bs := if w = 0 then [] else ((o.left f (w == 2)).drop (256 * g)).take 256
    if bs.isEmpty then s
    else
      match s.writeVirt o.fn (d.dst + size * f + 256 * g) bs with
      | .ok s => s
      | .error _ => s) s

/-- A started operation's descriptor leaves its queue; only an uncorrectable grain halts it (R172, R262). -/
def State.collLeaves (s : State) (f : Nat) (q : QDesc) (halt : Bool) : State :=
  let x := (s.queue .collective f).drop q
  s.setQueue .collective f (if halt then { x with halted := true, haltedMem := true } else x)

/-- A collective entry of an operation that ended early; the address of a memory error takes the place Table 15.20 gives it (log 25). -/
def State.collFailed (s : State) (f : Nat) (q : QDesc) (slot : Nat) (opSeq : W32) (st reason : Nat) (a : AbortInfo) (err : Args) (retries : Nat) : State :=
  let d := parseColl q.bytes
  let sum (i : Nat) : Nat := if d.kind = 0 then (Config.freeWord s.freeCtr i).toNat else 0
  { s with freeCtr := s.freeCtr + 1 }.collEntry f
    { status := st, kind := d.kind, slot := slot, opSeq := opSeq.toNat, epoch := d.epoch, overflow := d.overflow
      localSumsq := if reason = rsnPeerError then err.address % 2 ^ 62 + 2 ^ 62 * err.kind else sum 0
      resultSumsq := sum 1, reason := reason, retries := retries, namedId := a.id.toNat, namedX := a.x.toNat, namedY := a.y.toNat
      elapsedUs := (s.ns - q.startNs) / 1000 }

/-- An operation ends early (R273, R274): `abort` says whether the other members are told, `skip` a port they are not told on; `silent`: no entry (R275). -/
def State.endOp (s : State) (o : CollOp) (st reason : Nat) (a : AbortInfo) (err : Args) (abort : Bool) (skip : Option Nat) (silent : Bool) : State :=
  let x := s.slot o.slot
  let s := s.dropOp o.slot
  let s := each (List.range o.d.frames) (fun f s => State.leaveFrame o s.freeCtr f s) s
  let s := { s with freeCtr := s.freeCtr + 1 }.collLeaves o.fn o.desc (st == stUncorrectable)
  let s := (s.noteBad err).modSlot o.slot (fun x => if st = stPeerLost then { x with broken := true } else x)
  let mine (f : SeqFrame) : Bool := f.hdr.pelotonId == x.pelotonId && f.hdr.epoch == x.epoch && f.hdr.opSeq == o.opSeq
  let s := each x.ports (fun p s => s.modLink p (fun l => { l with sendQueue := l.sendQueue.filter (fun f => !mine f) })) s
  let s := if abort then s.sendAborts x o.opSeq o.digest { a with reason := BitVec.ofNat 8 reason } skip else s
  if silent then s else s.collFailed o.fn o.desc o.slot o.opSeq st reason a err o.residueRetries

/-- The local operation fails on memory (PEER_ERROR). -/
def State.opError (s : State) (o : CollOp) (e : Args) : State := s.endOp o e.status rsnPeerError (s.self (s.slot o.slot)) e true none false

/-- Data of an operation sent on to the next member of a ring, or back to the previous one. -/
def State.sendData (s : State) (o : CollOp) (phase : Nat) (ringY back : Bool) (offset : Nat) (half : Bool) (bs : List Byte) : State :=
  let x := s.slot o.slot
  let d := (if ringY then 2 else 0) + b2n back
  s.send (x.dirPort d)
    { kind := .data, hdr := { x.hdr o.opSeq o.digest with phase := BitVec.ofNat 3 phase, dim := ringY, half := half, offset := BitVec.ofNat 32 offset }
      payload := .data (sliceAt bs 0 1024) }

/-- Place of a frame in the X ring, and in the Y ring over its chunk (R266). -/
def CollOp.placeX (o : CollOp) (x : Slot) (f : Nat) : RingPlace := ringPlace o.d.frames x.sizeX.toNat o.d.split f
def CollOp.placeY (o : CollOp) (x : Slot) (f : Nat) : RingPlace :=
  let p := o.placeX x f
  ringPlace p.count x.sizeY.toNat o.d.split p.index

/-- Frames that share one GATHER frame with frame f, whose index in its chunk is i of n: 2-byte results go two by two (R267). -/
def gatherGroup (two : Bool) (f i n : Nat) : List Nat := if two then (if i % 2 = 1 then [f - 1, f] else if i + 1 < n then [f, f + 1] else [f]) else [f]

/-- A GATHER frame goes out once all its frames are final. -/
def State.gather (s : State) (slot : Nat) (ringY : Bool) (f : Nat) : State :=
  match s.opOn slot with
  | none => s
  | some o =>
    let p := if ringY then o.placeY (s.slot slot) f else o.placeX (s.slot slot) f
    let g := gatherGroup (o.d.type == 1) f p.index p.count
    if g.all (fun i => !(tget [] o.final i).isEmpty) then
      s.sendData o 1 ringY p.back (g.getD 0 f) p.back (g.flatMap (fun i => codeBytes o.d.esize (tget [] o.final i)))
    else s

/-- Frame f of the result is final on this member: it goes on along the Y ring from its owner, then along the X ring (R266). -/
def State.final (s : State) (slot f : Nat) (codes : List W32) (ownY : Bool) : State :=
  match s.opOn slot with
  | none => s
  | some o =>
    if !(tget [] o.final f).isEmpty then s
    else
      let x := s.slot slot
      let s := s.modOp slot (fun o => { o with final := tset [] o.final f codes })
      let s := if ownY then s.gather slot true f else s
      if (o.placeX x f).owner = x.posX.toNat then s.gather slot false f else s

/-- The X-ring sum of frame f is complete on its owner (R266). -/
def State.rowDone (s : State) (slot f : Nat) (acc : List W32) : State :=
  match s.opOn slot with
  | none => s
  | some o =>
    let x := s.slot slot
    if !x.grid then s.final slot f (acc.map (collNarrow o.d.type)) false
    else
      let p := o.placeY x f
      if x.posY.toNat = p.step x.sizeY.toNat 1 then s.sendData o 0 true p.back f p.back (codeBytes 4 acc)
      else s.modOp slot (fun o => { o with rowSums := tset [] o.rowSums f acc })

/-- Elements of frame f this member contributes. -/
def CollOp.own (o : CollOp) (f : Nat) : List W32 := (o.xs.drop (256 * f)).take 256

/-- What an operation sends as it starts: its share of each chunk whose sum begins here, a RING_SHIFT's bytes, the first token (R266, R270, R271). -/
def State.openOp (s : State) (o : CollOp) : State :=
  let x := s.slot o.slot
  let d := o.d
  if d.kind = 0 then
    each (List.range d.frames) (fun f s =>
      let p := o.placeX x f
      if x.posX.toNat = p.step x.sizeX.toNat 1 then s.sendData o 0 false p.back f p.back (codeBytes 4 (o.own f)) else s) s
  else if d.kind = 1 then
    each (List.range d.frames) (fun f s => s.sendData o 2 d.dimY d.toPrev f false ((o.bytes.drop (1024 * f)).take 1024)) s
  else if x.posX = 0 then s.send (x.dirPort 0) { kind := .token, hdr := x.hdr o.opSeq o.digest, payload := .token 0 }
  else s

/-- A REDUCE frame adds this member's operand and goes on, or its sum is complete here (R266, R268). -/
def State.reduce (s : State) (o : CollOp) (ringY : Bool) (f : Nat) (bs : List Byte) : State :=
  let x := s.slot o.slot
  let own := if ringY then tget [] o.rowSums f else o.own f
  let acc := ((elementsOf 4 256 bs).zip own).map (fun e => collAdd o.d.type (BitVec.ofNat 32 e.1) e.2)
  let p := if ringY then o.placeY x f else o.placeX x f
  let s := s.modOp o.slot (fun o => { o with sums := tset [] o.sums f acc })
  if p.owner ≠ (if ringY then x.posY else x.posX).toNat then s.sendData o 0 ringY p.back f p.back (codeBytes 4 acc)
  else if ringY then s.final o.slot f (acc.map (collNarrow o.d.type)) true
  else s.rowDone o.slot f acc

/-- A GATHER frame is kept and goes on, until it has been round (R266). -/
def State.gathered (s : State) (o : CollOp) (ringY : Bool) (f : Nat) (bs : List Byte) : State :=
  let x := s.slot o.slot
  let p := if ringY then o.placeY x f else o.placeX x f
  let g := gatherGroup (o.d.type == 1) f p.index p.count
  let size := o.d.esize
  let n := if ringY then x.sizeY.toNat else x.sizeX.toNat
  let m := if ringY then x.posY.toNat else x.posX.toNat
  let s := if ringNext m n p.back = p.owner then s else s.sendData o 1 ringY p.back f p.back bs
  each g.zipIdx (fun e s => s.final o.slot e.1 ((elementsOf size 256 (bs.drop (256 * size * e.2))).map (BitVec.ofNat 32)) false) s

/-- The slot that aligns fabric time: of PF0's JOINED slots the one of lowest PELOTON_ID (R420). -/
def FabricState.timeSlot (x : FabricState) : Option Nat :=
  ((List.range 64).filter (fun i => (x.slot i).joined && (x.slot i).fn == 0)).foldl (fun (b : Option Nat) i => match b with
    | none => some i
    | some j => if (x.slot i).pelotonId < (x.slot j).pelotonId then some i else some j) none

/-- A first-pass token, which arrived at device time `arrived`, aligns fabric time at a member other than position 0 (R420). -/
def State.align (s : State) (slot p : Nat) (ringY : Bool) (time : W64) (arrived : Nat) : State :=
  let x := s.slot slot
  if s.fabric.timeSlot = some slot ∧ (if ringY then x.posY else x.posX) ≠ 0 then
    { s with
      fabric := { s.fabric with
        fabricOffset := time + BitVec.ofNat 64 (s.link p).delayNs - BitVec.ofNat 64 arrived
        fabricValid := true
        sourceSlot := BitVec.ofNat 6 slot
        hops := if ringY then x.posX + x.posY else x.posX
        lastAlign := BitVec.ofNat 64 s.ns } }
  else s

/-- Passes of the token a member sees on a ring before its barrier is complete there (R271). -/
def CollOp.ringDone (o : CollOp) (ringY : Bool) : Bool := decide (2 ≤ if ringY then o.tokenY else o.tokenX)

/-- A TOKEN reaches a member that has started the barrier (R271). -/
def State.token (s : State) (o : CollOp) (p : Nat) (ringY : Bool) (time : W64) (arrived : Nat) : State :=
  let x := s.slot o.slot
  let seen := if ringY then o.tokenY else o.tokenX
  let pos := if ringY then x.posY else x.posX
  let s := if seen = 0 then s.align o.slot p ringY time arrived else s
  let s := s.modOp o.slot (fun o => if ringY then { o with tokenY := o.tokenY + 1 } else { o with tokenX := o.tokenX + 1 })
  let pass (s : State) (ringY : Bool) : State :=
    s.send (x.dirPort (if ringY then 2 else 0)) { kind := .token, hdr := { x.hdr o.opSeq o.digest with dim := ringY }, payload := .token 0 }
  let s := if pos = 0 ∧ seen ≠ 0 then s else pass s ringY
  if !ringY && x.grid && seen == 1 && x.posY == 0 then pass s true else s

/-- What becomes of a frame of a peloton's operation (R253): kept, dropped, or taken by the running operation. -/
inductive Fate where
  | keep
  | drop
  | take (o : CollOp)
  deriving DecidableEq, Repr

def FabricState.slotNamed (x : FabricState) (id : W32) : Option Nat := (List.range 64).find? (fun i => (x.slot i).valid && (x.slot i).pelotonId == id)

/-- An operation number equals one that its epoch has taken: 0 to NEXT_OP - 1, or any but NEXT_OP once NEXT_OP has wrapped (R263, Table 20.9; log 25). -/
def opPast (wrapped : Bool) (next op : W32) : Bool := if wrapped then op != next else decide (op < next)

/-- A frame of an operation that ended with its peloton's slot: the slot was freed (R253, R274). -/
def FabricState.overWith (x : FabricState) (h : FrameHdr) : Bool :=
  x.gone.any (fun g => g.id == h.pelotonId && (decide (h.epoch < g.epoch) || (h.epoch == g.epoch && opPast g.opsWrapped g.nextOp h.opSeq)))

def State.fate (s : State) (h : FrameHdr) : Fate :=
  match s.fabric.slotNamed h.pelotonId with
  | none => if s.fabric.overWith h then .drop else .keep
  | some i =>
    let x := s.slot i
    if h.epoch < x.epoch then .drop
    else if x.epoch < h.epoch then .keep
    else
      match s.opOn i with
      | some o => if o.opSeq = h.opSeq then .take o else if opPast x.opsWrapped x.nextOp h.opSeq then .drop else .keep
      | none => if opPast x.opsWrapped x.nextOp h.opSeq then .drop else .keep

/-- The slot of a JOIN or JOIN_ACK: same PELOTON_ID and EPOCH (R260); `none` while it must wait, `some none` when it is stale. -/
def State.joinSlot (s : State) (h : FrameHdr) : Option (Option Nat) :=
  match s.fabric.slotNamed h.pelotonId with
  | none => none
  | some i => if h.epoch < (s.slot i).epoch then some none else if (s.slot i).epoch < h.epoch then none else some (some i)

/-- A slot that has not JOINED takes a MISMATCH abort as the answer to its JOIN (R260). -/
def State.joinAbort (s : State) (h : FrameHdr) (a : AbortInfo) : Option Nat :=
  match s.joinSlot h with
  | some (some i) => if a.reason.toNat = rsnMismatch ∧ (s.slot i).joined = false then some i else none
  | _ => none

/-- A buffered frame can be consumed now (R253). -/
def State.ready (s : State) (f : SeqFrame) : Bool :=
  match f.payload with
  | .join _ => (s.joinSlot f.hdr).isSome
  | .abort a => (s.joinAbort f.hdr a).isSome || (match s.fate f.hdr with
      | .keep => false
      | _ => true)
  | .token _ =>
    (match s.fate f.hdr with
      | .keep => false
      | .drop => true
      | .take o => f.hdr.digest != o.digest || !f.hdr.dim || o.ringDone false)
  | .data _ =>
    (match s.fate f.hdr with
      | .keep => false
      | .drop => true
      | .take o => f.hdr.digest != o.digest || f.hdr.phase != 0 || !f.hdr.dim || !(tget [] o.rowSums f.hdr.offset.toNat).isEmpty)

/-- A joining slot's command ends (R260). -/
def State.joinEnds (s : State) (slot st : Nat) (id : BitVec 20) : State :=
  match s.fabric.joining.find? (fun j => j.slot == slot) with
  | none => s
  | some j => { s with fabric := { s.fabric with joining := s.fabric.joining.erase j } }.complete j.cmd { status := st, arg0 := id.toNat }

/-- JOIN sent in a direction (R260). -/
def State.sendJoin (s : State) (slot d : Nat) : State :=
  let x := s.slot slot
  s.send (x.dirPort d)
    { kind := .join, hdr := x.hdr 0 0
      payload := .join { grid := x.grid, sizeX := x.sizeX, sizeY := x.sizeY, posX := x.posX, posY := x.posY, id := s.fabric.deviceId, ringY := decide (2 ≤ d), toPrev := d % 2 == 1 } }

/-- Direction a JOIN came from, seen from here: what was sent to the next member comes from the previous one. -/
def joinIn (j : JoinInfo) : Nat := (if j.ringY then 2 else 0) + b2n (!j.toPrev)
/-- Direction it was sent in. -/
def joinOut (j : JoinInfo) : Nat := (if j.ringY then 2 else 0) + b2n j.toPrev

/-- A JOIN matches the slot (R260). -/
def Slot.matches (x : Slot) (j : JoinInfo) : Bool :=
  let m := x.member (joinIn j)
  x.grid == j.grid && x.sizeX == j.sizeX && x.sizeY == j.sizeY && x.dirs.contains (joinIn j) && m.x == j.posX && m.y == j.posY && m.id == j.id

/-- A joining slot whose every JOIN is acknowledged and matched is JOINED (R260). -/
def State.maybeJoined (s : State) (slot : Nat) : State :=
  match s.fabric.joining.find? (fun j => j.slot == slot) with
  | none => s
  | some j =>
    let ds := (s.slot slot).dirs
    if ds.all (fun d => j.acked.contains d && j.matched.contains d) then (s.modSlot slot (fun x => { x with joined := true })).joinEnds slot stOk 0 else s

def State.modJoining (s : State) (slot : Nat) (f : Joining → Joining) : State :=
  { s with fabric := { s.fabric with joining := mapIf (fun j => j.slot == slot) f s.fabric.joining } }

/-- A JOIN consumed: answered with JOIN_ACK, or with an ABORT (R260). -/
def State.takeJoin (s : State) (p slot : Nat) (j : JoinInfo) : State :=
  let x := s.slot slot
  if x.matches j then
    ((s.send p { kind := .joinAck, hdr := x.hdr 0 0, payload := .join j }).modJoining slot (fun k => { k with matched := insertNat (joinIn j) k.matched })).maybeJoined slot
  else
    let a := x.through p
    (s.send p { kind := .abort, hdr := x.hdr 0 0, payload := .abort { a with reason := BitVec.ofNat 8 rsnMismatch } }).joinEnds slot stGroupMismatch a.id

/-- A frame leaves its buffer, which frees its credit (R253). -/
def PortLink.free (l : PortLink) (f : SeqFrame) : PortLink :=
  if f.kind = .data then { l with dataBuf := l.dataBuf.erase f, freedData := l.freedData + 1 } else { l with ctrlBuf := l.ctrlBuf.erase f, freedCtrl := l.freedCtrl + 1 }

/-- A frame of a running operation: a digest that differs ends it, else the frame is taken (R265, R268, R271, R273). -/
def State.takeFrame (s : State) (p : Nat) (f : SeqFrame) (o : CollOp) : State :=
  let x := s.slot o.slot
  if f.hdr.digest ≠ o.digest then s.endOp o stGroupMismatch rsnMismatch (x.through p) {} true none false
  else
    match f.payload with
    | .abort a => s.endOp o (abortStatus a.reason.toNat) a.reason.toNat a {} true (some p) false
    | .join _ => s
    | .token time => s.token o p f.hdr.dim time f.arrivedNs
    | .data bs =>
      if f.hdr.phase = 2 then s.modOp o.slot (fun o => { o with shifted := tset [] o.shifted f.hdr.offset.toNat bs })
      else if f.hdr.phase = 1 then s.gathered o f.hdr.dim f.hdr.offset.toNat bs
      else
        match f.residue with
        | .failed => s.endOp o stCollArith rsnResidue (s.self x) {} true none false
        | .recovered n => (s.modOp o.slot (fun o => { o with residueRetries := o.residueRetries + n })).reduce { o with residueRetries := o.residueRetries + n } f.hdr.dim f.hdr.offset.toNat bs
        | .ok => s.reduce o f.hdr.dim f.hdr.offset.toNat bs

/-- One buffered frame consumed. -/
def State.consume (s : State) (p : Nat) (f : SeqFrame) : State :=
  let s := s.modLink p (fun l => l.free f)
  match f.kind, f.payload with
  | .join, .join j =>
    (match s.joinSlot f.hdr with
      | some (some i) => s.takeJoin p i j
      | _ => s)
  | .joinAck, .join j =>
    (match s.joinSlot f.hdr with
      | some (some i) => (s.modJoining i (fun k => { k with acked := insertNat (joinOut j) k.acked })).maybeJoined i
      | _ => s)
  | _, .abort a =>
    (match s.joinAbort f.hdr a with
      | some i => s.joinEnds i stGroupMismatch ((s.slot i).through p).id
      | none =>
        match s.fate f.hdr with
        | .take o => s.takeFrame p f o
        | _ => s)
  | _, _ =>
    match s.fate f.hdr with
    | .take o => s.takeFrame p f o
    | _ => s

/-- A JOIN_ACK never waits. -/
def State.readyNow (s : State) (f : SeqFrame) : Bool := f.kind == .joinAck || s.ready f

/-- First buffered frame that can be consumed, port by port. -/
def State.nextReady (s : State) : Option (Nat × SeqFrame) :=
  (List.range 4).findSome? (fun p => (((s.link p).ctrlBuf ++ (s.link p).dataBuf).find? s.readyNow).map (fun f => (p, f)))

/-- The collective engine consumes what it can (R253). -/
def State.drain : Nat → State → State
  | 0, s => s
  | n + 1, s =>
    match s.nextReady with
    | none => s
    | some x => State.drain n (s.consume x.1 x.2)

def State.buffered (s : State) : Nat := ((List.range 4).map (fun p => (s.link p).ctrlBuf.length + (s.link p).dataBuf.length)).sum

def State.drainAll (s : State) : State := State.drain s.buffered s

/-- A sequenced frame received, and what follows from it. -/
def State.seqArrives (s : State) (p k : Nat) (f : SeqFrame) : State := (s.takeSeq p k { f with arrivedNs := s.ns }).drainAll

/-- DATA_FRAME (R253, R265 to R268, R270). -/
def execDataFrame (p : PortIx) (k : SpokeIx) (h : FrameHdr) (payload : List Byte) (r : ResidueOutcome) (s : State) : Host.Outcome State Fault Refusal :=
  .next (s.clocked (fun s => s.seqArrives p k { kind := .data, hdr := h, payload := .data (sliceAt payload 0 1024), residue := r }))

/-- JOIN_FRAME (R260). -/
def execJoinFrame (p : PortIx) (k : SpokeIx) (h : FrameHdr) (j : JoinInfo) (s : State) : Host.Outcome State Fault Refusal :=
  .next (s.clocked (fun s => s.seqArrives p k { kind := .join, hdr := h, payload := .join j }))

/-- JOIN_ACK_FRAME (R260). -/
def execJoinAckFrame (p : PortIx) (k : SpokeIx) (h : FrameHdr) (j : JoinInfo) (s : State) : Host.Outcome State Fault Refusal :=
  .next (s.clocked (fun s => s.seqArrives p k { kind := .joinAck, hdr := h, payload := .join j }))

/-- ABORT_FRAME (R273). -/
def execAbortFrame (p : PortIx) (k : SpokeIx) (h : FrameHdr) (a : AbortInfo) (s : State) : Host.Outcome State Fault Refusal :=
  .next (s.clocked (fun s => s.seqArrives p k { kind := .abort, hdr := h, payload := .abort a }))

/-- TOKEN_FRAME (R271, R420). -/
def execTokenFrame (p : PortIx) (k : SpokeIx) (h : FrameHdr) (time : W64) (s : State) : Host.Outcome State Fault Refusal :=
  .next (s.clocked (fun s => s.seqArrives p k { kind := .token, hdr := h, payload := .token time }))

/-- Operations whose peloton names a port end (R273), and their frames in the buffers are consumed (R253). -/
def State.portEnds (s : State) (p reason : Nat) : State :=
  (each (s.fabric.ops.filter (fun o => (s.slot o.slot).ports.contains p)) (fun o s => s.endOp o stPeerLost reason ((s.slot o.slot).through p) {} true none false) s).drainAll

/-- HOLD_FRAME: the port enters HOLD_SEEN, and its pelotons' operations end (R257). -/
def State.holdFrame (s : State) (p k : Nat) (h : FrameHdr) : State :=
  if !((s.port p).linked && (s.port p).hears k) then s
  else
    let s := s.heard p k h true
    if (s.port p).st = .holdSeen then s
    else (s.modPort p (fun x => { x with st := .holdSeen, peerHolds := satAdd x.peerHolds 1 })).portEnds p rsnPeerHold

/-- HOLD_FRAME (R257). -/
def execHoldFrame (p : PortIx) (k : SpokeIx) (h : FrameHdr) (s : State) : Host.Outcome State Fault Refusal := .next (s.clocked (fun s => s.holdFrame p k h))

/-- A port leaves UP for a state without traffic; its operations end with LINK_DOWN (R254, R255, R273). -/
def State.portLost (s : State) (p : Nat) (st : PortSt) : State :=
  let was := (s.port p).linked
  let s := (s.modPort p (fun x => x.dropTo st)).modLink p (fun _ => {})
  if was then s.portEnds p rsnLinkDown else s

/-- PORT_DOWN: no active spoke has delivered a valid frame for 4 us (R254). -/
def State.portDown (s : State) (p : Nat) : State :=
  let l := s.link p
  if (s.port p).linked then
    let last := (l.active.map (fun k => tget 0 l.lastValid k)).foldl max 0
    (s.upTo (last + 4 * usTicks)).portLost p .dark
  else s

/-- PORT_DOWN (R254, R255). -/
def execPortDown (p : PortIx) (s : State) : Host.Outcome State Fault Refusal := .next (s.clocked (fun s => s.portDown p))

def portControlForm : CmdForm := { code := 0x0601, len := .fixed 8, pf0 := true, masks := [3, 1] }

def portControlRow (q : Req) (s : State) : State × Answer :=
  let p := q.u32 0
  if bit (q.u32 4) 0 then (if (s.port p).st = .disabled then (s.modPort p (fun x => { x with st := .dark }), {}) else (s, {}))
  else (s.portLost p .disabled, {})

/-- PORT_CONTROL (R255). -/
def execPortControl (f : Fn) (m : Mb) (s : State) : Host.Outcome State Fault Refusal := .next (s.serve f m portControlForm portControlRow)

/-- Words of Table 11.7 that FORM may set, from request offset a on. -/
def formMasks : List Nat := [8, 0xFFFFFFFF, 0xFFFFFFFF, 0, 0xFFFFFFFF, 0xFFFFFFFF, 0x3FFFFF, 0x3FFFFF, 0x3FFFFF, 0x3FFFFF, 0xFFFF]

/-- The slot a FORM describes, its fields from request offset a on. -/
def Req.slot (q : Req) (a : Nat) : Slot :=
  let h (o : Nat) : BitVec 16 := BitVec.ofNat 16 (fieldAt q.params (a + o) 2)
  let w (o : Nat) : Nat := q.u32 (a + o)
  { grid := bit (w 0) 3, fn := BitVec.ofNat 4 q.fn, pelotonId := BitVec.ofNat 32 (w 4), epoch := BitVec.ofNat 32 (w 8), sizeX := h 0x10, sizeY := h 0x12, posX := h 0x14, posY := h 0x16
    nextXId := BitVec.ofNat 20 (w 0x18), nextXPort := BitVec.ofNat 2 (w 0x18 / 2 ^ 20), prevXId := BitVec.ofNat 20 (w 0x1C), prevXPort := BitVec.ofNat 2 (w 0x1C / 2 ^ 20)
    nextYId := BitVec.ofNat 20 (w 0x20), nextYPort := BitVec.ofNat 2 (w 0x20 / 2 ^ 20), prevYId := BitVec.ofNat 20 (w 0x24), prevYPort := BitVec.ofNat 2 (w 0x24 / 2 ^ 20), joinLimit := h 0x28 }

/-- Sizes, positions and the join limit (R260, Table 11.7): offsets of the words out of range. -/
def formRange (a : Nat) (q : Req) : List Nat :=
  let x := q.slot a
  let sizes := 2 ≤ x.sizeX.toNat ∧ x.sizeX.toNat ≤ 1024 ∧ (if x.grid then 2 ≤ x.sizeY.toNat ∧ x.sizeY.toNat ≤ 1024 else x.sizeY = 1)
  (if sizes then [] else [a + 0x10]) ++ (if x.posX < x.sizeX ∧ x.posY < x.sizeY then [] else [a + 0x14]) ++ (if x.joinLimit = 0 then [a + 0x28] else [])

/-- What the device's ports and other slots refuse (R260): offset of the first word at fault. `slot`: the slot being re-formed. -/
def State.formBad (s : State) (x : Slot) (a : Nat) (slot : Option Nat) : Option Nat :=
  if !s.fabric.idValid then some a
  else if slot.isNone && (s.fabric.slotNamed x.pelotonId).isSome then some (a + 4)
  else (x.dirs.find? (fun d =>
    let p := s.port (x.dirPort d)
    p.st != .up || !p.peerIdValid || p.peerId != x.dirId d)).map (fun d => a + 0x18 + 4 * d)

/-- A slot begins to join (R260). -/
def State.startJoin (s : State) (slot : Nat) (x : Slot) (cmd : CmdRef) : State :=
  let s := s.modSlot slot (fun _ => { x with valid := true, joined := false, broken := false, nextOp := 0, opsWrapped := false })
  let s := { s with fabric := { s.fabric with
    gone := s.fabric.gone.filter (fun g => g.id != x.pelotonId)
    joining := s.fabric.joining ++ [{ slot := slot, cmd := cmd, since := s.now, repeatAt := s.now + 10 * usTicks }] } }
  each x.dirs (fun d s => s.sendJoin slot d) s

def formForm : CmdForm := { code := 0x0603, len := .fixed 44, masks := formMasks, range := formRange 0, accepts := true }

def formRow (q : Req) (s : State) : State × Answer :=
  let x := q.slot 0
  match (List.range 64).find? (fun i => !(s.slot i).valid) with
  | none => (s, { status := stNoMemory })
  | some i =>
    match s.formBad x 0 none with
    | some a => (s, badField a)
    | none => (s.startJoin i x q.cmd, { status := stAccepted, reply := natLe 4 i, names := q.fn })

/-- What follows a command of the FABRIC class: frames that waited for a slot are consumed (R253, R260), once the command stands in progress. -/
def execPelotonForm (f : Fn) (m : Mb) (s : State) : Host.Outcome State Fault Refusal := .next (s.serve f m formForm formRow).drainAll


/-- Every started operation of a slot ends with GROUP_CHANGED (R261). -/
def State.groupChanged (s : State) (slot : Nat) : State :=
  match s.opOn slot with
  | none => s
  | some o => s.endOp o stGroupChanged rsnReformed nobody {} false none false

/-- The slot belongs to the caller. -/
def State.ownsSlot (s : State) (f i : Nat) : Bool := (s.slot i).valid && (s.slot i).fn.toNat == f

def reformForm : CmdForm :=
  { code := 0x0604, len := .fixed 48, owns := fun q s => s.ownsSlot q.fn (q.u32 0 % 64), masks := 0x3F :: formMasks, range := formRange 4, accepts := true }

def reformRow (q : Req) (s : State) : State × Answer :=
  let i := q.u32 0
  let old := s.slot i
  let x := { q.slot 4 with pelotonId := old.pelotonId }
  if s.fabric.joining.any (fun j => j.slot == i) then (s, busy)
  else if old.epoch = 0xFFFFFFFF then (s, notPermitted)
  else if x.epoch ≠ old.epoch + 1 then (s, badField 12)
  else
    match s.formBad x 4 (some i) with
    | some a => (s, badField a)
    | none => ((s.groupChanged i).startJoin i x q.cmd, { status := stAccepted, names := q.fn })

/-- PELOTON_REFORM (R261). -/
def execPelotonReform (f : Fn) (m : Mb) (s : State) : Host.Outcome State Fault Refusal := .next (s.serve f m reformForm reformRow).drainAll

/-- The started descriptors of a queue that wait for their slot (R263): no operation of theirs runs. -/
def State.collHeld (s : State) (f : Nat) : List QDesc :=
  (s.queue .collective f).descs.filter (fun q => q.started && !(parseCollQueue q.bytes).fence && !s.fabric.ops.any (fun o => o.fn == f && o.desc.ordinal == q.ordinal))

/-- Those that wait for a slot, with their function. -/
def State.heldOn (s : State) (slot : Nat) : List (Nat × QDesc) :=
  (List.range 16).flatMap (fun f => ((s.collHeld f).filter (fun q => (parseColl q.bytes).slot == slot)).map (fun q => (f, q)))

/-- A descriptor ends at its start, or before its slot lets it begin: no OP_SEQ is taken (R262, R263). -/
def State.collRefused (s : State) (f : Nat) (q : QDesc) (st reason : Nat) (a : AbortInfo) : State :=
  let d := parseColl q.bytes
  let s := s.collLeaves f q false
  let s := if st = stPeerLost then s.modSlot d.slot (fun x => { x with broken := true }) else s
  s.collFailed f { q with startNs := if q.started then q.startNs else s.ns } d.slot (s.slot d.slot).nextOp st reason a {} 0

/-- The record by which frames of a freed slot's operations are known (R253). -/
def Slot.asGone (x : Slot) : GonePeloton := { id := x.pelotonId, epoch := x.epoch, nextOp := x.nextOp, opsWrapped := x.opsWrapped }

/-- A slot is freed. -/
def FabricState.freeSlot (x : FabricState) (i : Nat) : FabricState :=
  { x with gone := (x.slot i).asGone :: x.gone, slots := tset {} x.slots i {} }

/-- A dissolved slot: its started operations end, those that wait for it too, and it is free (R261). -/
def State.dissolve (s : State) (i : Nat) : State :=
  let s := s.groupChanged i
  let s := each (s.heldOn i) (fun e s => s.collRefused e.1 e.2 stGroupChanged rsnReformed nobody) s
  { s with fabric := s.fabric.freeSlot i }

def dissolveForm : CmdForm :=
  { code := 0x0605, len := .fixed 4, masks := [0x3F]
    owns := fun q s => if q.fn = 0 then (s.slot (q.u32 0 % 64)).valid else s.ownsSlot q.fn (q.u32 0 % 64) }

def dissolveRow (q : Req) (s : State) : State × Answer :=
  let i := q.u32 0
  if s.fabric.joining.any (fun j => j.slot == i) then (s, busy)
  else (s.dissolve i, {})

/-- PELOTON_DISSOLVE (R261). -/
def execPelotonDissolve (f : Fn) (m : Mb) (s : State) : Host.Outcome State Fault Refusal := .next (s.serve f m dissolveForm dissolveRow).drainAll

def collMasks : List Nat := [0x1FFFF, 0xFFFFFFFF, 0xFFFFFFFF, 0xFFFFF, 0xFFFFFFFF, 0xFFFFF, 0xFFFFFFFF, 0xFFFFFFFF, 0xFFFFFFFF, 0xFFFF, 0xFFFFFFFF, 0, 0, 0, 0, 0]

def collPostForm : CmdForm :=
  { code := 0x0606, len := .counted 0 2 0 64, masks := [7, 0, 0, 0]
    range := fun q => let n := q.u32 0 % 8; (if n = 0 then [0] else []) ++ entryBad q 16 64 n collMasks }

def collPostRow (q : Req) (s : State) : State × Answer :=
  let n := q.u32 0 % 8
  let x := s.queue .collective q.fn
  if 128 < x.descs.length + n then (s, busy) else (s.setQueue .collective q.fn (x.post (q.entries 16 64 n)), {})

/-- COLL_POST (R262, R263). -/
def execCollPost (f : Fn) (m : Mb) (s : State) : Host.Outcome State Fault Refusal := .next (s.serve f m collPostForm collPostRow)

/-- A descriptor waits for its slot: the slot has not reached its epoch, or has and is not JOINED (R263). -/
def Slot.holds (x : Slot) (d : CollDesc) : Bool := decide (x.epoch.toNat < d.epoch) || (d.epoch == x.epoch.toNat && !x.broken && !x.joined)

/-- Operations of the engine that have started and not ended, those that wait for their slot among them. -/
def State.opsRunning (s : State) : Nat := s.fabric.ops.length + ((List.range 16).map (fun f => (s.collHeld f).length)).sum

/-- The previous operation of a slot has ended (R263). -/
def State.slotFree (s : State) (slot : Nat) : Bool := (s.opOn slot).isNone && (s.heldOn slot).isEmpty

/-- The started descriptor of a queue that its slot lets begin now. -/
def State.collResumes (s : State) (f : Nat) : Option QDesc :=
  (s.collHeld f).find? (fun q => !(s.slot (parseColl q.bytes).slot).holds (parseColl q.bytes))

/-- The conditions of R263 for a queue's first descriptor not started: no fence before it, its slot's previous operation ended, its START condition, fewer than 16 operations running. -/
def State.mayStart (s : State) (f : Nat) (q : QDesc) : Bool :=
  let d := parseColl q.bytes
  !((s.queue .collective f).descs.takeWhile (fun y => y.started)).any (fun y => (parseCollQueue y.bytes).fence)
    && (decide (3 ≤ d.kind) || (s.slotFree d.slot && decide (s.opsRunning < 16)))
    && (!d.startEn || s.share.ctrBad 0 (4096 + d.startCtr) || meets (s.share.ctr 0 (4096 + d.startCtr)) (BitVec.ofNat 32 d.startThr))

/-- The descriptor of a queue that starts next. -/
def State.collNext (s : State) (f : Nat) : Option QDesc := ((s.queue .collective f).descs.find? (fun q => !q.started)).filter (fun q => s.mayStart f q)

/-- Checks of R262 at the start. -/
def State.collCheck (s : State) (f : Nat) (d : CollDesc) : Option Nat :=
  let r := s.ctxOf f
  let x := s.slot d.slot
  if 4 < d.kind then some stBadField
  else if 3 ≤ d.kind then
    (if !d.fenceOk (f != 0) then some stBadField
      else if (d.startEn && !r.ownsHub d.startCtr) || (d.doneEn && !r.ownsHub d.doneCtr) then some stNotPermitted
      else if d.startEn && s.share.ctrBad 0 (4096 + d.startCtr) then some stUncorrectable else none)
  else if !(x.valid && x.fn.toNat == f) then some stNotPermitted
  else if !d.fieldsOk x.grid (f != 0) then some stBadField
  else if (d.startEn && !r.ownsHub d.startCtr) || (d.doneEn && !r.ownsHub d.doneCtr) then some stNotPermitted
  else if d.startEn && s.share.ctrBad 0 (4096 + d.startCtr) then some stUncorrectable
  else none

/-- Padded elements of a contribution (R264). -/
def padTo (n : Nat) (l : List W32) : List W32 := l ++ List.replicate (n - l.length) 0

/-- NEXT_OP advances by one, modulo 2^32 (R263, Table 20.9). -/
def Slot.takeOp (x : Slot) : Slot := { x with nextOp := x.nextOp + 1, opsWrapped := x.opsWrapped || x.nextOp + 1 == 0 }

/-- An operation takes its OP_SEQ, reads its contribution and begins (R263, R264). -/
def State.beginOp (s : State) (f : Nat) (q : QDesc) : State :=
  let d := parseColl q.bytes
  let x := s.slot d.slot
  let s := (s.setQueue .collective f ((s.queue .collective f).begin q (if q.started then q.startNs else s.ns))).modSlot d.slot Slot.takeOp
  let q := { q with started := true, startNs := if q.started then q.startNs else s.ns }
  let o : CollOp := { slot := d.slot, fn := f, desc := q, opSeq := x.nextOp, digest := d.digest x.nextOp, overflow := d.overflow }
  match (if d.kind = 2 then .ok [] else readVirt s.mem s.pages f d.src (d.taken * d.esize)) with
  | .error e => ({ s with fabric := { s.fabric with ops := s.fabric.ops ++ [o] } }.opError o e).drainAll
  | .ok bs =>
    let o :=
      if d.kind = 0 then { o with xs := padTo (256 * d.frames) ((elementsOf d.esize d.taken bs).map (collWiden d.type)) }
      else { o with bytes := sliceAt bs 0 d.capacity }
    ({ s with fabric := { s.fabric with ops := s.fabric.ops ++ [o] } }.openOp o).drainAll

/-- The descriptor's time has come: it begins, waits for its slot, or ends at its start (R263). -/
def State.collStarts (s : State) (f : Nat) (q : QDesc) : State :=
  let d := parseColl q.bytes
  let x := s.slot d.slot
  if 3 ≤ d.kind then s.setQueue .collective f ((s.queue .collective f).begin q s.ns)
  else if d.epoch < x.epoch.toNat then s.collRefused f q stGroupChanged rsnReformed nobody
  else if x.holds d then s.setQueue .collective f ((s.queue .collective f).begin q s.ns)
  else if x.broken then s.collRefused f q stPeerLost rsnBroken nobody
  else s.beginOp f q

/-- COLLECTIVE_START: a descriptor that waited for its slot begins, or the next one of the queue starts, its checks made then (R262, R263). -/
def State.collStart (s : State) (f : Nat) : State :=
  if (s.queue .collective f).halted then s
  else
    match s.collResumes f, s.collNext f with
    | some q, _ => s.collStarts f q
    | none, none => s
    | none, some q =>
      match s.collCheck f (parseColl q.bytes) with
      | some st => s.collRefused f q st 0 nobody
      | none => s.collStarts f q

/-- COLLECTIVE_START (R263). -/
def execCollectiveStart (f : Fn) (s : State) : Host.Outcome State Fault Refusal := .next (s.clocked (fun s => s.collStart f))

/-- Frames of an operation still to be sent. -/
def State.opSending (s : State) (o : CollOp) : Bool :=
  let x := s.slot o.slot
  x.ports.any (fun p => (s.link p).sendQueue.any (fun f => f.hdr.pelotonId == x.pelotonId && f.hdr.epoch == x.epoch && f.hdr.opSeq == o.opSeq && f.kind == .data))

/-- Every write of the operation can be made (R270 to R272). -/
def State.opDone (s : State) (o : CollOp) : Bool :=
  let d := o.d
  if d.kind = 0 then (List.range d.frames).all (fun f => !(tget [] o.final f).isEmpty)
  else if d.kind = 1 then (List.range d.frames).all (fun f => !(tget [] o.shifted f).isEmpty) && !s.opSending o
  else o.ringDone (s.slot o.slot).grid

/-- The bytes an operation writes at DST. -/
def CollOp.result (o : CollOp) : List Byte :=
  let d := o.d
  if d.kind = 1 then ((List.range d.frames).flatMap (fun f => tget [] o.shifted f)).take d.capacity
  else codeBytes d.esize (((List.range d.frames).flatMap (fun f => tget [] o.final f)).take d.capacity)

/-- COLLECTIVE_COMPLETE: the writes are visible; DONE ADD, then the entry (R272); frames of the operation still buffered are consumed (R253). -/
def State.collComplete (s : State) (slot : Nat) : State :=
  match s.opOn slot with
  | none => s
  | some o =>
    if !s.opDone o then s
    else
      let d := o.d
      match (if d.kind = 2 then .ok s else s.writeVirt o.fn d.dst o.result) with
      | .error e => (s.opError o e).drainAll
      | .ok s =>
        let s := (s.dropOp slot).collLeaves o.fn o.desc false
        let s := if d.doneEn then s.addHub d.doneCtr d.doneAmount else s
        State.drainAll (if d.event then
          s.collEntry o.fn
            { kind := d.kind, slot := slot, opSeq := o.opSeq.toNat, epoch := d.epoch, overflow := d.overflow, retries := o.residueRetries, elapsedUs := (s.ns - o.desc.startNs) / 1000
              localSumsq := if d.kind = 0 then sumSquares ((o.xs.take d.capacity).map (collValue (if d.type = 1 then 0 else d.type))) else 0
              resultSumsq := if d.kind = 0 then sumSquares ((((List.range d.frames).flatMap (fun f => tget [] o.final f)).take d.capacity).map (collValue d.type)) else 0 }
        else s)

/-- COLLECTIVE_COMPLETE (R272). -/
def execCollectiveComplete (slot : Fin 64) (s : State) : Host.Outcome State Fault Refusal := .next (s.clocked (fun s => s.collComplete slot))

/-- The neighbour from which the first frame missing should come (Table 11.11, TIMEOUT). -/
def CollOp.awaited (o : CollOp) (x : Slot) : AbortInfo :=
  let d := o.d
  if d.kind = 2 then x.member (if o.ringDone false && x.grid then 2 else 0)
  else if d.kind = 1 then x.member ((if d.dimY then 2 else 0) + b2n (!d.toPrev))
  else
    match (List.range d.frames).find? (fun f => (tget [] o.final f).isEmpty) with
    | none => x.member 1
    | some f =>
      let p := o.placeX x f
      if x.grid && p.owner == x.posX.toNat && (!(tget [] o.rowSums f).isEmpty || x.posY.toNat == (o.placeY x f).step x.sizeY.toNat 1) then x.member (2 + b2n (!(o.placeY x f).back))
      else x.member (b2n (!p.back))

/-- The neighbour awaited by a descriptor that still waits for its slot. -/
def State.heldAwaits (s : State) (f : Nat) (q : QDesc) : AbortInfo :=
  let d := parseColl q.bytes
  CollOp.awaited { slot := d.slot, fn := f, desc := q, opSeq := 0, digest := 0, overflow := 0 } (s.slot d.slot)

/-- COLLECTIVE_TIMEOUT: TIMEOUT has run out from the start; the frames of what ended are consumed, and a descriptor that waits for its slot tells the other members as well, under its own EPOCH and the number it would have taken (R253, R263, R273; log 25). -/
def State.collTimeout (s : State) (slot : Nat) : State :=
  match s.opOn slot with
  | some o =>
    if o.d.timeout = 0 then s
    else ((s.upTo ((o.desc.startNs + 1000 * o.d.timeout) * nsTicks)).endOp o stPeerLost rsnTimeout (o.awaited (s.slot slot)) {} true none false).drainAll
  | none =>
    match (s.heldOn slot).head? with
    | none => s
    | some (f, q) =>
      let t := (parseColl q.bytes).timeout
      if t = 0 then s
      else
        let x := s.slot slot
        let d := parseColl q.bytes
        let a := { s.heldAwaits f q with reason := BitVec.ofNat 8 rsnTimeout }
        ((s.upTo ((q.startNs + 1000 * t) * nsTicks)).collRefused f q stPeerLost rsnTimeout a).sendAborts { x with epoch := BitVec.ofNat 32 d.epoch } x.nextOp (d.digest x.nextOp) a none

/-- COLLECTIVE_TIMEOUT (R273). -/
def execCollectiveTimeout (slot : Fin 64) (s : State) : Host.Outcome State Fault Refusal := .next (s.clocked (fun s => s.collTimeout slot))

/-- JOIN_REPEAT: JOINs not acknowledged are sent again every 10 us (R260). -/
def State.joinRepeat (s : State) (slot : Nat) : State :=
  match s.fabric.joining.find? (fun j => j.slot == slot) with
  | none => s
  | some j =>
    let s := (s.upTo j.repeatAt).modJoining slot (fun j => { j with repeatAt := j.repeatAt + 10 * usTicks })
    each ((s.slot slot).dirs.filter (fun d => !j.acked.contains d && (s.port ((s.slot slot).dirPort d)).linked)) (fun d s => s.sendJoin slot d) s

/-- JOIN_REPEAT (R260). -/
def execJoinRepeat (slot : Fin 64) (s : State) : Host.Outcome State Fault Refusal := .next (s.clocked (fun s => s.joinRepeat slot))

/-- JOIN_LIMIT_EXPIRED: the command ends with PEER_LOST and names the first neighbour that has not answered (R260). -/
def State.joinLimit (s : State) (slot : Nat) : State :=
  match s.fabric.joining.find? (fun j => j.slot == slot) with
  | none => s
  | some j =>
    let x := s.slot slot
    let d := (x.dirs.find? (fun d => !j.acked.contains d)).getD ((x.dirs.find? (fun d => !j.matched.contains d)).getD 0)
    (s.upTo (j.since + x.joinLimit.toNat * msTicks)).joinEnds slot stPeerLost (x.dirId d)

/-- JOIN_LIMIT_EXPIRED (R260). -/
def execJoinLimitExpired (slot : Fin 64) (s : State) : Host.Outcome State Fault Refusal := .next (s.clocked (fun s => s.joinLimit slot))

/-- A function-level reset's effect on the fabric (R275). -/
def State.flrFabric (s : State) (f : Nat) : State :=
  let s := each (s.fabric.ops.filter (fun o => o.fn == f)) (fun o s => s.endOp o stPeerLost rsnPeerError (s.self (s.slot o.slot)) {} true none true) s
  let mine := (List.range 64).filter (fun i => s.ownsSlot f i)
  State.drainAll { s with
    fabric := each mine (fun i x => x.freeSlot i) { s.fabric with
      queues := tset {} s.fabric.queues f {}
      joining := s.fabric.joining.filter (fun j => !mine.contains j.slot) } }

/-- Frames a link still has to send or consume are gone; their buffers are free (R253, R257). -/
def PortLink.quiet (l : PortLink) : PortLink :=
  { l with
    sendQueue := []
    freedData := l.freedData + BitVec.ofNat 12 l.dataBuf.length
    freedCtrl := l.freedCtrl + BitVec.ofNat 7 l.ctrlBuf.length
    dataBuf := []
    ctrlBuf := [] }

/-- Core reset's effect on the fabric (R275): links, counters and the device ID stay. -/
def FabricState.coreReset (x : FabricState) : FabricState :=
  let x := each (List.range 4) (fun p x => if (x.port p).linked then x.modLink p PortLink.quiet else x) x
  let x := each ((List.range 64).filter (fun i => (x.slot i).valid)) (fun i x => x.freeSlot i) x
  { x with slots := [], joining := [], queues := [], ops := [] }

end Sys2Proof.Machine
end

