-- ==== Sys2Proof/Machine/Contexts.lean ====
section
/-! DEFINITION. Contexts and core queues (R88, R90, R239 to R247; Tables 10.5, 10.6, 15.9, 15.11): context records and their allotments, the share tables, pre-emption, save and restore, posting and cancelling of blocks. -/

namespace Sys2Proof.Machine

/-- What a record allots (R240). -/
def CtxRec.hasBank (r : CtxRec) (c b : Nat) : Bool := r.hasCore c && r.spadBanks.getLsbD b
def CtxRec.hasUnit (r : CtxRec) (c u : Nat) : Bool := r.hasCore c && r.accUnits.getLsbD u
def CtxRec.hasCtrUnit (r : CtxRec) (cl u : Nat) : Bool := r.touches cl && r.clusterCtrUnits.getLsbD u
def CtxRec.hasHubUnit (r : CtxRec) (u : Nat) : Bool := r.hubCtrUnits.getLsbD u

/-- Cores of CORE_MASK, ascending. -/
def CtxRec.coreList (r : CtxRec) : List Nat := bitsOf 256 r.coreMask.toNat

/-- Bytes of one core's record in the save area, and SAVE_NEED (R245). -/
def CtxRec.saveStride (r : CtxRec) : Nat := 262144 * (bitsOf 16 r.spadBanks.toNat).length + 65536 * (bitsOf 16 r.accUnits.toNat).length + 4096
def CtxRec.need (r : CtxRec) : Nat := r.coreList.length * r.saveStride

/-- Zeros in the partitions that one record allots and another does not (R240, R78). -/
def CoresState.scrub (x : CoresState) (old keep : CtxRec) : CoresState :=
  let bank (k : Nat) : Bool := old.hasBank (k / 2 ^ 22) (k % 2 ^ 22 / 2 ^ 18) && !keep.hasBank (k / 2 ^ 22) (k % 2 ^ 22 / 2 ^ 18)
  let unit (k : Nat) : Bool := old.hasUnit (k / 2 ^ 18) (k % 2 ^ 11 / 128) && !keep.hasUnit (k / 2 ^ 18) (k % 2 ^ 11 / 128)
  { x with
    spad := x.spad.filter (fun e => !bank e.1)
    ueSpad := x.ueSpad.filter (fun w => !bank w)
    acc := x.acc.filter (fun e => !unit e.1)
    ueAcc := x.ueAcc.filter (fun w => !unit w) }

/-- Zeros in the counters that one record allots and another does not (R240). -/
def ShareState.scrub (h : ShareState) (old keep : CtxRec) : ShareState :=
  { h with
    clusterCtr := h.clusterCtr.filter (fun e => !(old.hasCtrUnit (e.1 / 256) (e.1 % 256 / 16) && !keep.hasCtrUnit (e.1 / 256) (e.1 % 256 / 16)))
    hubCtr := h.hubCtr.filter (fun e => !(old.hasHubUnit (e.1 / 64) && !keep.hasHubUnit (e.1 / 64)))
    ueCtr := h.ueCtr.filter (fun w =>
      if 2048 ≤ w then !(old.hasHubUnit ((2 * w - 4096) / 64) && !keep.hasHubUnit ((2 * w - 4096) / 64))
      else !(old.hasCtrUnit (2 * w / 256) (2 * w % 256 / 16) && !keep.hasCtrUnit (2 * w / 256) (2 * w % 256 / 16))) }

/-- Caddy slots of a record EMPTY on its cores (R153, R240). -/
def CoresState.emptySlots (x : CoresState) (r : CtxRec) : CoresState :=
  each r.coreList (fun c x => x.setCore c { x.core c with caddy := (x.core c).caddy.filter (fun e => !r.caddySlots.getLsbD e.1) }) x

/-- What a record allots and another does not, scrubbed. -/
def State.scrubAllot (s : State) (old keep : CtxRec) : State := { s with cores := s.cores.scrub old keep, share := s.share.scrub old keep }

/-- A record with the fields of a CONTEXT_SET request (Table 15.9). -/
def CtxRec.with (r : CtxRec) (q : Req) : CtxRec :=
  let b (a n : Nat) : Nat := fieldAt q.params (0x10 + a) n
  let r : CtxRec :=
    { r with
      cls := BitVec.ofNat 2 (b 0 1 / 16)
      weight := BitVec.ofNat 8 (b 1 1)
      spadBanks := BitVec.ofNat 16 (b 4 2)
      accUnits := BitVec.ofNat 16 (b 6 2)
      cacheWays := BitVec.ofNat 24 (b 8 3)
      caddySlots := BitVec.ofNat 4 (b 0xB 1)
      clusterCtrUnits := BitVec.ofNat 16 (b 0xC 2)
      hubCtrUnits := BitVec.ofNat 64 (b 0x10 8)
      grace := BitVec.ofNat 16 (b 0x18 2)
      listReady := BitVec.ofNat 12 (b 0x1A 2)
      tokenCap := BitVec.ofNat 32 (b 0x1C 4)
      coreMask := BitVec.ofNat 256 (b 0x20 32)
      saveBase := BitVec.ofNat 41 (b 0x40 8)
      listLive := BitVec.ofNat 48 (b 0x50 8)
      listStage := BitVec.ofNat 48 (b 0x58 8)
      clusterEntries := BitVec.ofNat 7 (b 0x60 2)
      seqQuota := BitVec.ofNat 13 (b 0x62 2) }
  { r with saveNeed := BitVec.ofNat 32 r.need }

def ctxMasks : List Nat :=
  [0xF, 0, 0, 0, 0xFF3F, 0xFFFFFFFF, 0x0FFFFFFF, 0xFFFF, 0xFFFFFFFF, 0xFFFFFFFF, 0x0FFFFFFF, 0xFFFFFFFF] ++ List.replicate 8 0xFFFFFFFF
    ++ [0xFFFFFFFF, 0x1FF, 0xFFFFFFFF, 0, 0xFFFFFFFF, 0xFFFF, 0xFFFFFFFF, 0xFFFF, 0x1FFF007F, 0xFFFFFFFF, 0xFFFFFFFF, 0xFFFFFFFF]

/-- Ranges of Table 10.5 and R240, but for what other records hold. -/
def ctxRange (q : Req) : List Nat :=
  let b (a n : Nat) : Nat := fieldAt q.params (0x10 + a) n
  let area := 64 + 512 * b 0x60 2
  (if b 1 1 = 0 then [0x10] else []) ++ (if b 0x18 2 = 0 then [0x28] else [])
    ++ (if bit (b 0x10 8) (b 0x1A 2 / 64) then [] else [0x28])
    ++ (if b 0x40 2 = 0 then [] else [0x50])
    ++ (if b 0x50 8 + area ≤ 2 ^ 48 then [] else [0x60]) ++ (if b 0x58 8 + area ≤ 2 ^ 48 then [] else [0x68])
    ++ (if 1 ≤ b 0x60 2 ∧ b 0x60 2 ≤ 64 ∧ b 0x62 2 ≤ 4096 then [] else [0x70])

def contextSetForm : CmdForm := { code := 0x0101, len := .fixed 128, pf0 := true, masks := ctxMasks, range := ctxRange }

/-- Offsets of the words in which two records break R240. -/
def CtxRec.conflicts (a b : CtxRec) : List Nat :=
  let core := a.coreMask &&& b.coreMask != 0
  let cluster := (List.range 16).any (fun cl => a.touches cl && b.touches cl)
  (if core && (a.spadBanks &&& b.spadBanks != 0 || a.accUnits &&& b.accUnits != 0) then [0x14] else [])
    ++ (if (core && a.caddySlots &&& b.caddySlots != 0) || (cluster && a.cacheWays &&& b.cacheWays != 0) then [0x18] else [])
    ++ (if cluster && a.clusterCtrUnits &&& b.clusterCtrUnits != 0 then [0x1C] else [])
    ++ (if a.hubCtrUnits &&& b.hubCtrUnits != 0 then [0x20] else [])

/-- Offsets of the words of a new record of function f that other records, or the extents, refuse (R232, R240, R245). -/
def State.ctxBad (s : State) (f : Nat) (r : CtxRec) : List Nat :=
  let others := (List.range 16).filter (fun g => g != f)
  others.flatMap (fun g => r.conflicts (s.ctxOf g))
    ++ (if r.need = 0 ∨ s.mem.inExtents f r.saveBase.toNat r.need = true then [] else [0x50])
    ++ (if (others.map (fun g => (s.ctxOf g).seqQuota.toNat)).sum + r.seqQuota.toNat ≤ 4096 then [] else [0x70])

/-- A core holds a block of function f, queued or running. -/
def CoreState.holdsBlock (k : CoreState) (f : Nat) : Bool :=
  !(tget [] k.queues f).isEmpty || (tget none k.successors f).isSome || (k.load.map (fun l => l.fn == f)).getD false || (k.run.map (fun r => r.fn == f)).getD false

/-- Blocks queued or running, or lists unretired (R240). -/
def State.ctxInUse (s : State) (f : Nat) : Bool := s.cores.cores.any (fun e => e.2.holdsBlock f) || !(tget [] s.seqs.lists f).isEmpty

/-- CONTEXT_SET (R240). A caddy slot, or a core, that it takes from a function keeps what its banks hold: R153 empties none (DESIGN CHOICE, log 46). -/
def contextSetRow (q : Req) (s : State) : State × Answer :=
  let f := q.u32 0
  let old := s.ctxOf f
  let new := old.with q
  let free : CtxRec := { new with cls := old.cls, weight := old.weight, grace := old.grace, tokenCap := old.tokenCap }
  match firstOf (s.ctxBad f new) with
  | some a => (s, badField a)
  | none =>
    if (tget none s.seqs.destroying f).isSome then (s, busy)
    else if free ≠ old ∧ ((old.st ≠ .absent ∧ old.st ≠ .running) ∨ s.ctxInUse f = true) then (s, busy)
    else ((s.scrubAllot old new).setCtx f { new with st := if old.st = .absent then .running else old.st }, { reply := natLe 4 new.need })

/-- CONTEXT_SET (R240, R245). -/
def execContextSet (f : Fn) (m : Mb) (s : State) : Host.Outcome State Fault Refusal := .next (s.serve f m contextSetForm contextSetRow)

/-- Form of the commands that name a function in their only word. -/
def fnForm (code : Nat) : CmdForm := { code := code, len := .fixed 4, pf0 := true, masks := [0xF], accepts := true }

/-- A context command that takes time: its job is entered and its record changed. -/
def State.ctxJob (s : State) (q : Req) (put : SeqState → Tab (Option CtxJob) → SeqState) (get : SeqState → Tab (Option CtxJob)) (g : CtxRec → CtxRec) : State × Answer :=
  let f := q.u32 0
  let s := s.setCtx f (g (s.ctxOf f))
  ({ s with seqs := put s.seqs (tset none (get s.seqs) f (some { cmd := q.cmd, since := s.now })) }, { status := stAccepted, names := f })

/-- Change every core that holds anything. -/
def CoresState.mapCores (x : CoresState) (g : Nat → CoreState → CoreState) : CoresState := each (x.cores.map (·.1)) (fun c x => x.setCore c (g c (x.core c))) x

/-- The chains of function f leave every core: destroyed with its context (R247). -/
def CoreState.destroy (k : CoreState) (f : Nat) : CoreState :=
  { k with queues := tset [] k.queues f [], successors := tset none k.successors f none, kept := k.kept.filter (fun l => l.fn != f), saved := tset (0, false) k.saved f (0, false) }

/-- A SAVED context's queue entries and pending chains go with it; its save area stands (R247). Of the chains that belong to a list, those in sub-queues end for it; those in the save area and the pending chain do not, so that such a list never retires (DESIGN CHOICE, log 46). -/
def State.dropSaved (s : State) (f : Nat) : State :=
  let es := s.cores.cores.flatMap (fun e => tget [] e.2.queues f)
  { s with
    seqs := each es (fun e x => x.chainDone f e) s.seqs
    cores := s.cores.mapCores (fun _ k => k.destroy f) }

def contextDestroyRow (q : Req) (s : State) : State × Answer :=
  let f := q.u32 0
  let r := s.ctxOf f
  if (tget none s.seqs.destroying f).isSome then (s, busy)
  else if r.st ≠ .absent ∧ r.st ≠ .saved ∧ (r.st ≠ .running ∨ s.ctxInUse f = true) then (s, busy)
  else (if r.st = .saved then s.dropSaved f else s).ctxJob q (fun x t => { x with destroying := t }) (fun x => x.destroying) (fun r => { r with st := .absent })

/-- A record that allots nothing. -/
def CtxRec.bare (r : CtxRec) : CtxRec :=
  { r with spadBanks := 0, accUnits := 0, cacheWays := 0, caddySlots := 0, clusterCtrUnits := 0, hubCtrUnits := 0, coreMask := 0, saveNeed := 0 }

/-- The allotments of function f scrubbed and released (R240). -/
def State.release (s : State) (f : Nat) : State :=
  let r := s.ctxOf f
  let s := s.scrubAllot r {}
  { s with cores := s.cores.emptySlots r }.setCtx f r.bare

/-- CONTEXT_DESTROY_DONE: the scrub ends (R240). -/
def State.destroyDone (s : State) (f : Nat) : State :=
  match tget none s.seqs.destroying f with
  | none => s
  | some j =>
    let s := s.release f
    { s with seqs := { s.seqs with destroying := tset none s.seqs.destroying f none } }.complete j.cmd {}

/-- Contexts being destroyed that allot nothing complete at once (R240). -/
def State.destroyIdle (s : State) : State :=
  each ((List.range 16).filter (fun f => (tget none s.seqs.destroying f).isSome && (s.ctxOf f).bare == s.ctxOf f)) (fun f s => s.destroyDone f) s

/-- CONTEXT_DESTROY (R240, R247). -/
def execContextDestroy (f : Fn) (m : Mb) (s : State) : Host.Outcome State Fault Refusal := .next (s.serve f m (fnForm 0x0102) contextDestroyRow).destroyIdle

/-- CONTEXT_DESTROY_DONE (R240). -/
def execContextDestroyDone (f : Fn) (s : State) : Host.Outcome State Fault Refusal := .next (s.clocked (fun s => s.destroyDone f))

/-- A share-table entry's owner (Table 4.2); none for FREE. -/
def ownerOf (e : Nat) : Option SlotOwner := if field e 15 14 = 1 then some { fn := BitVec.ofNat 4 (field e 11 8), core := BitVec.ofNat 4 e } else none

/-- SHARE_SET's ranges (R88): offset of the group for the RESERVED ones, else of the entry. -/
def shareRange (q : Req) : List Nat :=
  if reservedGroup (q.u32 4 % 64) then (if q.u32 8 % 65536 = 0x8000 then [] else [4])
  else if 2 ≤ field (q.u32 8) 15 14 then [8] else []

def shareSetForm : CmdForm := { code := 0x0103, len := .fixed 12, pf0 := true, masks := [0xF, 0x3F, 0xCF0F], range := shareRange }

/-- Local core whose boundary a change waits for: the one that the entry names as it stands (R90; DEDUCED, log 35: while the change waits this core keeps the group, and the core that the new entry names has it from its first block that issues after the change). -/
def ownerCores (a : Option SlotOwner) : List Nat := a.toList.map (fun o => o.core.toNat)

def shareSetRow (q : Req) (s : State) : State × Answer :=
  let cl := q.u32 0
  let g := q.u32 4
  let new := ownerOf (q.u32 8)
  let old := s.share.owner cl g
  if reservedGroup g then (s, {})
  else if new.any (fun o => !(s.ctxOf o.fn.toNat).hasCore (16 * cl + o.core.toNat)) then (s, badField 8)
  else
    let w : ShareChange := { cluster := cl, group := g, owner := new, waits := (ownerCores old).filter (fun c => (s.core (16 * cl + c)).run.isSome) }
    ({ s with share := { s.share with waiting := s.share.waiting ++ [w] } }, {})

/-- SHARE_SET (R88, R90). -/
def execShareSet (f : Fn) (m : Mb) (s : State) : Host.Outcome State Fault Refusal := .next (s.serve f m shareSetForm shareSetRow)

/-- An entry changes owner at time t: within a frame, the group carries no grain in the rest of it (R90). -/
def ShareState.apply (h : ShareState) (t : Nat) (w : ShareChange) : ShareState :=
  let k := 64 * w.cluster + w.group
  { h with
    owners := tset none h.owners k w.owner
    waiting := h.waiting.erase w
    openFrom := if w.owner = tget none h.owners k then h.openFrom else tset 0 h.openFrom k (2048 * ceilDiv t frameTicks) }

/-- The mover of an entry's former owner: grains of its ended blocks that had slots of the group take slots of the groups left to them (R88, R90, R91). -/
def State.regroup (s : State) (cl : Nat) (o : Option SlotOwner) : State :=
  match o with
  | none => s
  | some o =>
    let c := 16 * cl + o.core.toNat
    s.modCore c (fun k => { k with mover := k.mover.regroup (s.share.slotGroups c o.fn.toNat) (2 * ceilDiv s.now fabTicks) o.fn.toNat })

/-- A change of an entry that names a core is applied (R90). -/
def State.shareChange (s : State) (w : ShareChange) : State :=
  let old := s.share.owner w.cluster w.group
  let s := each (ownerCores old ++ ownerCores w.owner).eraseDups (fun c s => s.settle (16 * w.cluster + c) s.now) s
  ({ s.chargeAll with share := s.share.apply s.now w }).regroup w.cluster old

/-- SHARE_CHANGE_APPLIED: the oldest change of the entry, once no core it waits for has a block before its boundary (R90). -/
def State.shareApplied (s : State) (cl g : Nat) : State :=
  match s.share.waiting.find? (fun w => w.cluster == cl && w.group == g) with
  | none => s
  | some w => if s.share.namesCore w && w.waits.all (fun c => (s.core (16 * cl + c)).run.isNone) then s.shareChange w else s

/-- SHARE_CHANGE_APPLIED (R90). -/
def execShareChangeApplied (cl : ClusterIx) (g : Fin 64) (s : State) : Host.Outcome State Fault Refusal := .next (s.clocked (fun s => s.shareApplied cl g))

/-- A block of function f chosen on a core but not issued goes back to its place, as the core's pending chain (R244, step 2). -/
def CoreState.putBack (k : CoreState) (f : Nat) : CoreState :=
  match k.load with
  | none => k
  | some l => if l.fn = f then { k with load := none, successors := tset none k.successors f (some l.chain) } else k

def preemptRow (q : Req) (s : State) : State × Answer :=
  let f := q.u32 0
  if (s.ctxOf f).st ≠ .running then (s, { status := stSequenceState })
  else
    let t := { s with cores := s.cores.mapCores (fun _ k => k.putBack f) }.ctxJob q (fun x t => { x with preempting := t }) (fun x => x.preempting)
      (fun r => { r with st := .preempting })
    (t.1.unrouse s, t.2)

/-- PREEMPT (R244, step 1). -/
def execPreempt (f : Fn) (m : Mb) (s : State) : Host.Outcome State Fault Refusal := .next (s.serve f m (fnForm 0x0104) preemptRow)

/-- PREEMPT_GRACE_EXPIRED: a block still running GRACE after the command ends (R244, step 2). -/
def State.graceExpired (s : State) (f c : Nat) : State :=
  match tget none s.seqs.preempting f, (s.core c).run with
  | some j, some r =>
    if (s.ctxOf f).st = .preempting ∧ r.fn = f ∧ r.ending.isNone = true then
      let e := blockFault faultPreempted
      let s := s.endAt c (max s.now (j.since + (s.ctxOf f).grace.toNat * usTicks)) e
      if (s.core c).run.any (fun r => r.ending == some e) then s.setCtx f { s.ctxOf f with preempted := satAdd (s.ctxOf f).preempted 1 } else s
    else s
  | _, _ => s

/-- PREEMPT_GRACE_EXPIRED (R244). -/
def execPreemptGraceExpired (f : Fn) (c : CoreIx) (s : State) : Host.Outcome State Fault Refusal := .next (s.clocked (fun s => s.graceExpired f c))

/-- SAVE_START: no block of the context runs (R244, step 3). -/
def State.saveStart (s : State) (f : Nat) : State :=
  if (s.ctxOf f).st = .preempting ∧ s.cores.cores.all (fun e => (e.2.run.map (fun r => r.fn != f)).getD true) = true then
    s.setCtx f { s.ctxOf f with st := .saving }
  else s

/-- SAVE_START (R244). -/
def execSaveStart (f : Fn) (s : State) : Host.Outcome State Fault Refusal := .next (s.clocked (fun s => s.saveStart f))

/-- Bytes of an accumulator unit in the save area, in an order the spec does not give (R245; log 24). -/
def CoresState.unitBytes (x : CoresState) (c u : Nat) : List Byte :=
  (List.range 16384).flatMap (fun p =>
    let e := (Config.accOrder.symm (Fin.ofNat 16384 p)).val
    natLe 4 (tget 0 x.acc (accKeyOf c + 2 ^ 11 * (e / 128) + 128 * u + e % 128)).toNat)

/-- A queue entry as bytes (Table 10.6). -/
def QEntry.bytes (e : QEntry) : List Byte :=
  natLe 8 e.image.toNat ++ natLe 8 (e.gateEpoch.toNat + 2 ^ 16 * b2n e.gateEn + 2 ^ 17 * b2n e.doneList + 2 ^ 18 * b2n e.event)
    ++ (List.range 16).flatMap (fun r => natLe 4 (e.sregs.getD r 0).toNat) ++ List.replicate 16 0

def parseEntry (b : List Byte) : QEntry :=
  let w := fieldAt b 8 8
  { image := BitVec.ofNat 48 (fieldAt b 0 8), gateEpoch := BitVec.ofNat 16 w, gateEn := bit w 16, doneList := bit w 17, event := bit w 18
    sregs := (List.range 16).map (fun r => BitVec.ofNat 32 (fieldAt b (16 + 4 * r) 4)) }

/-- Bytes of the core record that R245 does not place: free (log 24). -/
def recFill (ctr c lo n : Nat) : List Byte := (List.range n).map (fun i => (Config.freeWord ctr (4096 * c + lo + i)).setWidth 8)

/-- The 4 KiB core record (R245). -/
def CoreState.record (k : CoreState) (f ctr c : Nat) : List Byte :=
  let q := tget [] k.queues f
  let ch := tget none k.successors f
  natLe 8 ((ch.map (fun x => x.image.toNat)).getD 0) ++ recFill ctr c 8 56
    ++ (List.range 16).flatMap (fun r => natLe 4 ((ch.map (fun x => (x.sregs.getD r 0).toNat)).getD 0))
    ++ natLe 4 q.length ++ recFill ctr c 132 124 ++ sliceAt (q.flatMap QEntry.bytes) 0 (96 * q.length) ++ recFill ctr c (256 + 96 * q.length) (3840 - 96 * q.length)

/-- One core's record in the save area. -/
def CoresState.coreRecord (x : CoresState) (r : CtxRec) (f ctr c : Nat) : List Byte :=
  (bitsOf 16 r.spadBanks.toNat).flatMap (fun b => x.getSpad c (2 ^ 18 * b) (2 ^ 18))
    ++ (bitsOf 16 r.accUnits.toNat).flatMap (fun u => x.unitBytes c u) ++ (x.core c).record f ctr c

/-- First uncorrectable word of a context's partitions: core, address, and whether it is an accumulator entry (R244). -/
def CoresState.badPartition (x : CoresState) (r : CtxRec) : Option (Nat × Nat × Bool) :=
  match x.ueSpad.find? (fun w => r.hasBank (w / 2 ^ 22) (w % 2 ^ 22 / 2 ^ 18)) with
  | some w => some (w / 2 ^ 22, w % 2 ^ 22, false)
  | none => (x.ueAcc.find? (fun w => r.hasUnit (w / 2 ^ 18) (w % 2 ^ 11 / 128))).map (fun w => (w / 2 ^ 18, w % 2 ^ 11, true))

/-- Entries of the context leave the core's sub-queue for the save area; the pending chain waits there too. -/
def CoreState.vacate (k : CoreState) (f : Nat) : CoreState :=
  { k with
    queues := tset [] k.queues f []
    kept := k.kept.filter (fun l => l.fn != f)
    saved := tset (0, false) k.saved f ((tget [] k.queues f).length, (tget none k.successors f).isSome) }

/-- The records of a context written to its save area, core by core. -/
def State.writeSave (s : State) (f : Nat) : State :=
  let r := s.ctxOf f
  let cs := r.coreList
  let mem := (cs.zipIdx).foldl (fun m x => m.write (r.saveBase.toNat + r.saveStride * x.2) (s.cores.coreRecord r f s.freeCtr x.1)) s.mem
  { s with mem := mem, cores := each cs (fun c x => x.setCore c ((x.core c).vacate f)) s.cores, freeCtr := s.freeCtr + 1 }

/-- SAVE_DONE: the save area is written and fenced; both rings are told (R244, steps 3 and 4). -/
def State.saveDone (s : State) (f : Nat) : State :=
  if (s.ctxOf f).st ≠ .saving then s
  else
    let bad := s.cores.badPartition (s.ctxOf f)
    let s := s.writeSave f
    let s := s.setCtx f { s.ctxOf f with st := .saved, damaged := bad.isSome, saves := satAdd (s.ctxOf f).saves 1 }
    let a : Args := match bad with
      | some (c, w, acc) => { status := stUncorrectable, arg0 := f, arg1 := c, address := w, kind := if acc then 3 else 2 }
      | none => { arg0 := f }
    let s := s.event f f srcDevice 4 a
    let s := if f = 0 then s else s.event 0 f srcDevice 4 a
    match tget none s.seqs.preempting f with
    | none => s
    | some j => { s with seqs := { s.seqs with preempting := tset none s.seqs.preempting f none } }.complete j.cmd a

/-- SAVE_DONE (R244, R245). -/
def execSaveDone (f : Fn) (s : State) : Host.Outcome State Fault Refusal := .next (s.clocked (fun s => s.saveDone f))

def restoreRow (q : Req) (s : State) : State × Answer :=
  let r := s.ctxOf (q.u32 0)
  if r.st ≠ .saved then (s, { status := stSequenceState })
  else if r.damaged then (s, { status := stUncorrectable })
  else s.ctxJob q (fun x t => { x with restoring := t }) (fun x => x.restoring) (fun r => { r with st := .restoring })

/-- RESTORE (R247). -/
def execRestore (f : Fn) (m : Mb) (s : State) : Host.Outcome State Fault Refusal := .next (s.serve f m (fnForm 0x0105) restoreRow)

/-- An accumulator unit written back. -/
def CoresState.putUnit (x : CoresState) (c u : Nat) (b : List Byte) : CoresState :=
  each (List.range 16384) (fun e x => x.putAcc c (e / 128) (128 * u + e % 128) (BitVec.ofNat 32 (fieldAt b (4 * (Config.accOrder (Fin.ofNat 16384 e)).val) 4))) x

/-- A core's partitions written back from its record (R247). -/
def CoresState.putRecord (x : CoresState) (r : CtxRec) (c : Nat) (b : List Byte) : CoresState :=
  let banks := bitsOf 16 r.spadBanks.toNat
  let x := each banks.zipIdx (fun y x => x.putSpad c (2 ^ 18 * y.1) (sliceAt b (2 ^ 18 * y.2) (2 ^ 18))) x
  each (bitsOf 16 r.accUnits.toNat).zipIdx (fun y x => x.putUnit c y.1 (sliceAt b (2 ^ 18 * banks.length + 65536 * y.2) 65536)) x

/-- The saved chain as its record gives it: image and registers, in the place the core kept for it. -/
def CoreState.savedChain (k : CoreState) (f : Nat) (b : List Byte) : Option Chain :=
  let image := BitVec.ofNat 64 (fieldAt b 0 8)
  if !(tget (0, false) k.saved f).2 then none
  else
    let old := (tget none k.successors f).getD { image := image, entry := { image := image.setWidth 48 }, sregs := [] }
    some { old with image := image, sregs := (List.range 16).map (fun r => BitVec.ofNat 32 (fieldAt b (64 + 4 * r) 4)) }

/-- The saved entries as the record gives them, as many as there is room for in a sub-queue that holds n. -/
def savedEntries (n : Nat) (b : List Byte) : List QEntry := (List.range (min (32 - n) (fieldAt b 128 4))).map (fun i => parseEntry (sliceAt b (256 + 96 * i) 96))

/-- Chains that end on an unavailable core without running (R22, R247). -/
def State.refuseChains (s : State) (c f : Nat) (es : List QEntry) : State :=
  each es (fun e s =>
    (s.modCore c (fun k => { k with chains := k.chains + 1 })).failChain c
      { fn := f, chain := { id := (s.core c).chains + 1, image := e.image.setWidth 64, entry := e, sregs := e.sregs } } (blockFault faultCoreUnavailable)) s

/-- One core restored. -/
def State.restoreCore (s : State) (f c : Nat) (b : List Byte) : State :=
  let tail := b.drop (b.length - 4096)
  let k := s.core c
  let ch := k.savedChain f tail
  let es := savedEntries (tget [] k.queues f).length tail
  let s := s.modCore c (fun k => { k with saved := tset (0, false) k.saved f (0, false) })
  if s.available c then
    { s with cores := s.cores.putRecord (s.ctxOf f) c b }.modCore c (fun k =>
      { k with successors := tset none k.successors f ch, queues := tset [] k.queues f (es ++ tget [] k.queues f) })
  else
    (s.modCore c (fun k => { k with successors := tset none k.successors f none })).refuseChains c f ((ch.map (fun x => x.entry)).toList ++ es)

/-- RESTORE_DONE: the partitions and queues are back, the context runs (R247). -/
def State.restoreDone (s : State) (f : Nat) : State :=
  if (s.ctxOf f).st ≠ .restoring then s
  else
    let r := s.ctxOf f
    let s := each r.coreList.zipIdx (fun x s => s.restoreCore f x.1 (s.mem.read (r.saveBase.toNat + r.saveStride * x.2) r.saveStride)) s
    let s := (s.setCtx f { s.ctxOf f with st := .running, restores := satAdd (s.ctxOf f).restores 1 }).rouse
    let s := s.event f f srcDevice 5 { arg0 := f }
    let s := if f = 0 then s else s.event 0 f srcDevice 5 { arg0 := f }
    match tget none s.seqs.restoring f with
    | none => s
    | some j => { s with seqs := { s.seqs with restoring := tset none s.seqs.restoring f none } }.complete j.cmd { arg0 := f }

/-- RESTORE_DONE (R247). -/
def execRestoreDone (f : Fn) (s : State) : Host.Outcome State Fault Refusal := .next (s.clocked (fun s => s.restoreDone f))

def entryMasks : List Nat := [0xFFFFFFFF, 0xFFFF, 0x7FFFF, 0] ++ List.replicate 16 0xFFFFFFFF ++ [0, 0, 0, 0]

/-- An entry's IMAGE is 64-byte aligned, and DONE_LIST requires GATE_EN (Table 10.6). -/
def entryRange (q : Req) (n : Nat) : List Nat :=
  (List.range n).flatMap (fun i =>
    (if q.u32 (16 + 96 * i) % 64 = 0 then [] else [16 + 96 * i]) ++ (if bit (q.u32 (24 + 96 * i)) 17 && !bit (q.u32 (24 + 96 * i)) 16 then [24 + 96 * i] else []))

def blockPostForm : CmdForm :=
  { code := 0x0301, len := .counted 4 2 0 96, masks := [0xFF, 7, 0, 0]
    range := fun q => let n := q.u32 4 % 8; (if n = 0 ∨ 4 < n then [4] else []) ++ entryBad q 16 96 n entryMasks ++ entryRange q n }

/-- The unretired list an entry names. -/
def SeqState.listOf (q : SeqState) (f : Nat) (e : BitVec 16) : Option BrewList := (tget [] q.lists f).find? (fun l => l.epoch == e)

/-- A posted entry counts for the list it names under DONE_LIST (R238). -/
def SeqState.chainPosted (q : SeqState) (f : Nat) (e : QEntry) : SeqState :=
  if e.doneList then { q with lists := tmod [] q.lists f (fun l => mapIf (fun b => b.epoch == e.gateEpoch) (fun b => { b with chains := b.chains + 1 }) l) } else q

/-- Entries of function f's sub-queue: those that a SAVED context left in its save area keep their places (R242, R247; log 24). -/
def CoreState.queued (k : CoreState) (f : Nat) : Nat := (tget [] k.queues f).length + (tget (0, false) k.saved f).1

def blockPostRow (q : Req) (s : State) : State × Answer :=
  let c := q.u32 0
  let es := (q.entries 16 96 (q.u32 4 % 8)).map parseEntry
  if !(s.ctxOf q.fn).hasCore c then (s, notPermitted)
  else if 32 < (s.core c).queued q.fn + es.length then (s, busy)
  else if es.any (fun e => e.gateEn && (s.seqs.listOf q.fn e.gateEpoch).all (fun l => e.doneList && l.closed)) then (s, { status := stSequenceState })
  else
    (({ s with seqs := each es (fun e x => x.chainPosted q.fn e) s.seqs }.modCore c (fun k => { k with queues := tmod [] k.queues q.fn (· ++ es) })).rouse, {})

/-- BLOCK_POST (R242). -/
def execBlockPost (f : Fn) (m : Mb) (s : State) : Host.Outcome State Fault Refusal := .next (s.serve f m blockPostForm blockPostRow)

/-- A sub-queue emptied. -/
def CoreState.cancel (k : CoreState) (f : Nat) : CoreState :=
  let es := tget [] k.queues f
  if es.isEmpty then k
  else
    { k with
      queues := tset [] k.queues f []
      kept := k.kept.filter (fun l => !(l.fn == f && es.contains l.chain.entry && (tget none k.successors f).isNone)) }

def blockCancelRow (q : Req) (s : State) : State × Answer :=
  let cs := bitsOf 256 (fieldAt q.params 0 32)
  let es := cs.flatMap (fun c => tget [] (s.core c).queues q.fn)
  (State.unrouse { s with
      seqs := each es (fun e x => x.chainDone q.fn e) s.seqs
      cores := each cs (fun c x => x.setCore c ((x.core c).cancel q.fn)) s.cores } s,
    { reply := natLe 4 es.length })

/-- BLOCK_CANCEL (R340, R238). -/
def execBlockCancel (f : Fn) (m : Mb) (s : State) : Host.Outcome State Fault Refusal :=
  .next (s.serve f m { code := 0x0302, len := .fixed 32 } blockCancelRow)

end Sys2Proof.Machine
end

