-- ==== Sys2Proof/Machine/Telemetry.lean ====
section
/-! DEFINITION. Records as the host reads them (R340, Tables 15.16 and 15.17), and the TELEMETRY commands. -/

namespace Sys2Proof.Machine

/-- A word of bit fields, each a low bit and a value. -/
def packBits (n : Nat) (l : List (Nat × Nat)) : List Byte := natLe n ((l.map (fun x => x.2 * 2 ^ x.1)).sum)

/-- A record filled to its size with zero bytes. -/
def fillTo (n : Nat) (bs : List Byte) : List Byte := sliceAt bs 0 n

/-- Format-event record (Table 2.7). -/
def FormatRec.record (r : FormatRec) : List Byte :=
  fillTo 64 ([r.ternaryMalformed, r.int4Malformed, r.specialOperand, r.e8m0NanBlock, r.nanToNarrow, r.infToNarrow, r.overflowSaturated,
    r.overflowToSpecial, r.flushed].flatMap (fun x => natLe 4 x.toNat))

/-- Clip-watch record (Table 3.3). -/
def ClipRec.record (r : ClipRec) : List Byte :=
  fillTo 64 ([r.blockClipCount, r.blockMaxMag, r.totalClipCount, r.peakMaxMag, r.flaggedBlocks, r.stoppedBlocks].flatMap (fun x => natLe 4 x.toNat)
    ++ packBits 4 [(0, b2n r.lastFlag), (1, b2n r.lastStopped), (2, r.lastFunction.toNat)])

/-- Slip record (Table 4.5). -/
def SlipRec.record (r : SlipRec) : List Byte :=
  fillTo 64 ([r.memLate, r.codedShort, r.pannierLate, r.haloWait, r.flagWait, r.creditWait, r.xlateMiss].flatMap (fun x => natLe 8 x.toNat)
    ++ natLe 4 r.overBlocks.toNat)

/-- RETIRED of a stack's error record (Table 7.12). -/
def MemState.retiredBits (m : MemState) (k : Nat) : Nat :=
  if k < 8 then maskOf ((List.range 8).filter (fun i => (m.group (8 * k + i)).retired))
  else maskOf ((List.range 16).filter (fun p => m.pannierRetired.contains (16 * ((k - 8) / 3) + p)))

/-- Stack error record (Table 7.12). -/
def MemState.stackRecord (m : MemState) (k : Nat) : List Byte :=
  let r := m.stackRec k
  fillTo 64 ([r.correctedSymbols, r.correctedGrains, r.uncorrectableGrains, r.scrubCorrected].flatMap (fun x => natLe 4 x.toNat)
    ++ natLe 8 r.lastUe.toNat ++ natLe 1 r.rowsRepaired.toNat ++ natLe 1 r.lanesRepaired.toNat ++ natLe 2 (m.retiredBits k)
    ++ packBits 4 [(0, r.temperature.toNat), (8, b2n r.refreshDoubled), (9, b2n r.failing)])

/-- Port state code (Table 11.4). -/
def PortSt.code : PortSt → Nat
  | .dark => 0
  | .light => 1
  | .tune => 2
  | .align => 3
  | .negotiate => 4
  | .up => 5
  | .holdSeen => 6
  | .disabled => 7

/-- Port record (Table 11.5). -/
def Port.record (r : Port) : List Byte :=
  fillTo 64 (packBits 4 [(0, r.st.code), (3, b2n r.laserFeedLost), (4, b2n r.degraded), (8, r.spokesGood.toNat), (13, r.spare.toNat), (16, r.activeLessOne.toNat)]
    ++ packBits 4 [(0, r.peerId.toNat), (20, r.peerPort.toNat), (22, b2n r.peerIdValid)]
    ++ [r.fecCorrected, r.fecUncorrectable, r.crcErrors, r.retries, r.spokeSwaps, r.linkDowns, r.peerHolds].flatMap (fun x => natLe 4 x.toNat))

/-- Context state code (Table 10.5). -/
def CtxSt.code : CtxSt → Nat
  | .absent => 0
  | .running => 1
  | .preempting => 2
  | .saving => 3
  | .saved => 4
  | .restoring => 5

/-- Context record (Table 10.5). -/
def CtxRec.record (r : CtxRec) : List Byte :=
  fillTo 256 (packBits 4 [(0, r.st.code), (3, b2n r.damaged), (4, r.cls.toNat), (8, r.weight.toNat)]
    ++ natLe 2 r.spadBanks.toNat ++ natLe 2 r.accUnits.toNat ++ packBits 4 [(0, r.cacheWays.toNat), (24, r.caddySlots.toNat)]
    ++ natLe 4 r.clusterCtrUnits.toNat ++ natLe 8 r.hubCtrUnits.toNat ++ natLe 2 r.grace.toNat ++ natLe 2 r.listReady.toNat
    ++ natLe 4 r.tokenCap.toNat ++ natLe 32 r.coreMask.toNat ++ natLe 8 r.saveBase.toNat ++ natLe 8 r.saveNeed.toNat
    ++ natLe 8 r.listLive.toNat ++ natLe 8 r.listStage.toNat ++ natLe 2 r.clusterEntries.toNat ++ natLe 2 r.seqQuota.toNat
    ++ natLe 4 r.saves.toNat ++ natLe 4 r.restores.toNat ++ natLe 4 r.preempted.toNat)

/-- Page-engine function record (Table 9.5). -/
def PageRec.record (r : PageRec) : List Byte :=
  fillTo 128 (natLe 4 r.freeFast.toNat ++ natLe 4 r.freePannier.toNat ++ natLe 4 r.occupancy.toNat ++ natLe 4 r.quarantined.toNat
    ++ natLe 4 r.spilled.toNat ++ natLe 2 r.stepEpoch.toNat ++ natLe 2 r.retiredEpoch.toNat ++ natLe 4 r.highWater.toNat
    ++ natLe 4 r.lowWater.toNat ++ packBits 4 [(0, r.tppLog2.toNat), (4, b2n r.kvSealed), (5, b2n r.enabled)] ++ natLe 4 r.planes.toNat
    ++ natLe 4 r.pagesMax.toNat ++ natLe 4 r.root.toNat ++ natLe 8 r.fastStack.toNat ++ natLe 8 r.pannierStack.toNat
    ++ natLe 8 r.quarRing.toNat ++ [r.fastCap, r.pannierCap, r.quarCap, r.cowCount, r.spillCount, r.prefetchCount, r.noPageCount].flatMap (fun x => natLe 4 x.toNat))

/-- Sequence state code (Table 10.1). -/
def SeqSt.code : SeqSt → Nat
  | .free => 0
  | .active => 1
  | .parkedNoPage => 2
  | .parkedHost => 3
  | .retiring => 4

/-- Active sequence entry (Table 10.1). -/
def SeqEntry.record (r : SeqEntry) : List Byte :=
  fillTo 64 (packBits 2 [(0, r.st.code), (4, r.priority.toNat), (7, b2n r.listed), (8, r.fn.toNat), (12, r.parkReason.toNat)]
    ++ packBits 2 [(0, r.home.toNat), (4, b2n r.homeValid)] ++ natLe 4 r.length.toNat ++ natLe 4 r.stepTokens.toNat ++ natLe 4 r.append.toNat
    ++ natLe 2 r.lastUse.toNat ++ natLe 2 r.listEpoch.toNat ++ natLe 4 r.need.toNat ++ natLe 8 r.vbase.toNat ++ natLe 4 r.user.toNat)

/-- Peloton slot (Table 11.7). -/
def Slot.record (r : Slot) : List Byte :=
  fillTo 64 (packBits 4 [(0, b2n r.valid), (1, b2n r.joined), (2, b2n r.broken), (3, b2n r.grid), (4, r.fn.toNat)]
    ++ natLe 4 r.pelotonId.toNat ++ natLe 4 r.epoch.toNat ++ natLe 4 r.nextOp.toNat
    ++ natLe 2 r.sizeX.toNat ++ natLe 2 r.sizeY.toNat ++ natLe 2 r.posX.toNat ++ natLe 2 r.posY.toNat
    ++ packBits 4 [(0, r.nextXId.toNat), (20, r.nextXPort.toNat)] ++ packBits 4 [(0, r.prevXId.toNat), (20, r.prevXPort.toNat)]
    ++ packBits 4 [(0, r.nextYId.toNat), (20, r.nextYPort.toNat)] ++ packBits 4 [(0, r.prevYId.toNat), (20, r.prevYPort.toNat)]
    ++ natLe 2 r.joinLimit.toNat)

/-- Stream-context state code (Table 13.2). -/
def CodecSt.code : CodecSt → Nat
  | .free => 0
  | .open => 1
  | .halted => 2
  | .closing => 3

/-- Stream-context record (Table 13.2). -/
def CodecCtx.record (r : CodecCtx) : List Byte :=
  let b := fillTo 72 r.settings
  let w := fieldAt b 0 4
  fillTo 128 (natLe 4 (w / 64 * 64 % 2 ^ 14 + 4 * r.fn.toNat + r.st.code) ++ (b.drop 4).take 20 ++ natLe 4 r.workNeed.toNat ++ b.drop 28
    ++ natLe 4 r.framesDone.toNat ++ natLe 4 r.errors.toNat ++ natLe 2 r.lastStatus.toNat ++ natLe 2 r.lastReason.toNat ++ natLe 4 r.lastUser.toNat)

/-- A telemetry object (Table 15.17): bytes of a record, number of records, PF0 only, clearable. -/
structure TelObj where
  size : Nat
  count : Nat
  pf0 : Bool
  clears : Bool
  deriving DecidableEq, Repr

def telObj : Nat → Option TelObj
  | 1 => some ⟨64, 256, true, true⟩
  | 2 => some ⟨64, 256, true, true⟩
  | 3 => some ⟨64, 256, true, false⟩
  | 4 => some ⟨64, 20, true, true⟩
  | 5 => some ⟨64, 4, true, true⟩
  | 6 => some ⟨256, 16, false, false⟩
  | 7 => some ⟨128, 16, false, false⟩
  | 8 => some ⟨64, 4096, true, false⟩
  | 9 => some ⟨64, 64, false, false⟩
  | 10 => some ⟨128, 384, false, false⟩
  | _ => none

/-- Record i of an object. -/
def State.telRecord (s : State) (obj i : Nat) : List Byte :=
  match obj with
  | 1 => (s.core i).fmtRec.record
  | 2 => (s.core i).clipRec.record
  | 3 => (s.core i).slipRec.record
  | 4 => s.mem.stackRecord i
  | 5 => (s.port i).record
  | 6 => (s.ctxOf i).record
  | 7 => (tget {} s.pages.recs i).record
  | 8 => (tget {} s.seqs.seqs i).record
  | 9 => (tget {} s.fabric.slots i).record
  | 10 => (s.codecCtx (i / 64) (i % 64)).record
  | _ => []

/-- Function a record belongs to. -/
def State.telOwner (s : State) (obj i : Nat) : Nat :=
  match obj with
  | 9 => (tget {} s.fabric.slots i).fn.toNat
  | 10 => (s.codecCtx (i / 64) (i % 64)).fn.toNat
  | _ => i

/-- The caller may read the records a request names: those of an object PF0 alone reads it must be PF0 for, others must be its own (Table 15.17). -/
def State.mayRead (s : State) (q : Req) : Bool :=
  q.fn == 0
    || (match telObj (q.u32 0 % 256) with
      | none => true
      | some o => !o.pf0 && (List.range (min (q.u32 8) (o.count - q.u32 4))).all (fun i => s.telOwner (q.u32 0 % 256) (q.u32 4 + i) == q.fn))

def telForm (code : Nat) (pf0 : Bool) : CmdForm :=
  { code := code, len := .fixed 12, pf0 := pf0, owns := fun q s => s.mayRead q, masks := [0xFF], range := fun q => if (telObj (q.u32 0)).isNone then [0] else [] }

/-- Whether the records asked for are in range (R340): the offset of the first offence. -/
def telRange (o : TelObj) (q : Req) : Option Nat :=
  if o.count < q.u32 4 + q.u32 8 ∨ o.count ≤ q.u32 4 then some 4 else if 480 < q.u32 8 * o.size then some 8 else none

def recordReadRow (q : Req) (s : State) : State × Answer :=
  match telObj (q.u32 0) with
  | none => (s, badField 0)
  | some o =>
    match telRange o q with
    | some a => (s, badField a)
    | none => (s.chargeAll, { reply := ((List.range (q.u32 8)).map (q.u32 4 + ·)).flatMap (s.chargeAll.telRecord (q.u32 0)) })

/-- RECORD_READ (R340). -/
def execRecordRead (f : Fn) (m : Mb) (s : State) : Host.Outcome State Fault Refusal := .next (s.serve f m (telForm 0x0801 false) recordReadRow)

/-- The counters of record i cleared (Table 15.17). -/
def State.telClear (obj : Nat) (s : State) (i : Nat) : State :=
  match obj with
  | 1 => s.modCore i (fun k => { k with fmtRec := {} })
  | 2 => s.modCore i (fun k => { k with clipRec := {} })
  | 4 =>
    { s with mem := { s.mem with
        stackRecs := tmod {} s.mem.stackRecs i (fun r => { r with
          correctedSymbols := 0, correctedGrains := 0, uncorrectableGrains := 0, scrubCorrected := 0, lastUe := 0, rowsRepaired := 0, lanesRepaired := 0 }) } }
  | 5 => s.modPort i (fun p => { p with
      fecCorrected := 0, fecUncorrectable := 0, crcErrors := 0, retries := 0, spokeSwaps := 0, linkDowns := 0, peerHolds := 0 })
  | _ => s

def recordClearRow (q : Req) (s : State) : State × Answer :=
  match telObj (q.u32 0) with
  | none => (s, badField 0)
  | some o =>
    match telRange o q with
    | some a => (s, badField a)
    | none => if !o.clears then (s, badField 0) else (((List.range (q.u32 8)).map (q.u32 4 + ·)).foldl (State.telClear (q.u32 0)) s, {})

/-- RECORD_CLEAR (R340). -/
def execRecordClear (f : Fn) (m : Mb) (s : State) : Host.Outcome State Fault Refusal := .next (s.serve f m (telForm 0x0802 true) recordClearRow)

end Sys2Proof.Machine
end

