-- ==== Sys2Proof/Machine/Controller.lean ====
section
/-! DEFINITION. The controller's own commands (Table 15.8) and the host's requests to BAR0: event rings (R334 to R337), mailboxes (R328, R330), registers (R346 to R350), MSI-X (R353). -/

namespace Sys2Proof.Machine

/-- The firmware's version; 0.0 while none runs (R402). -/
def SecState.version (c : SecState) : Nat × Nat :=
  match c.firmware with
  | some f => (f.major.toNat, f.minor.toNat)
  | none => (0, 0)

/-- DEVICE_ID and ID_VALID as a word (Table 16.3). -/
def FabricState.idWord (f : FabricState) : Nat := f.deviceId.toNat + 2 ^ 31 * b2n f.idValid

/-- "TX4-1056-A" in ASCII. -/
def partNumber : List Byte := [0x54, 0x58, 0x34, 0x2D, 0x31, 0x30, 0x35, 0x36, 0x2D, 0x41]

def identifyForm : CmdForm := { code := 0x0001, len := .fixed 0 }

def identifyRow (q : Req) (s : State) : State × Answer :=
  let v := s.sec.version
  (s, { reply := fillTo 16 partNumber ++ natLe 1 0xA0 ++ natLe 1 v.1 ++ natLe 1 v.2 ++ natLe 1 0 ++ natLe 4 s.fabric.idWord ++ natLe 4 q.fn ++ natLe 4 s.host.vfsEnabled.toNat })

/-- IDENTIFY (Table 15.8). -/
def execIdentify (f : Fn) (m : Mb) (s : State) : Host.Outcome State Fault Refusal := .next (s.serve f m identifyForm identifyRow)

/-- MSI-X vectors of a function (Table 16.1). -/
def vectorCount (f : Nat) : Nat := if f = 0 then 2048 else 64

def ringForm : CmdForm :=
  { code := 0x0002, len := .fixed 24, masks := [0xFFFFFFFF, 0xFFFFFFFF, 0x1F, 0x7FF, 0x7FF, 0x03FF00FF]
    range := fun q =>
      (if q.u32 0 % 4096 ≠ 0 then [0] else []) ++ (if q.u32 8 < 6 ∨ 16 < q.u32 8 then [8] else [])
        ++ (if vectorCount q.fn ≤ q.u32 0xC then [0xC] else []) ++ (if vectorCount q.fn ≤ q.u32 0x10 then [0x10] else []) }

def ringRow (q : Req) (s : State) : State × Answer :=
  let r := s.ctl.ring q.fn
  ({ s with ctl := s.ctl.setRing q.fn { r with
      head := 0, tail := 0, phase := true, valid := true, lost := 0, base := BitVec.ofNat 64 (q.u64 0), log2Size := BitVec.ofNat 5 (q.u32 8)
      vector := BitVec.ofNat 11 (q.u32 0xC), mbVector := BitVec.ofNat 11 (q.u32 0x10), modCount := BitVec.ofNat 8 (q.u32 0x14)
      modUs := BitVec.ofNat 10 (q.u32 0x14 / 2 ^ 16), unsignalled := 0 } }, {})

/-- EVENT_RING_SET (R334). -/
def execEventRingSet (f : Fn) (m : Mb) (s : State) : Host.Outcome State Fault Refusal := .next (s.serve f m ringForm ringRow)

def resetForm : CmdForm :=
  { code := 0x0005, len := .fixed 4, pf0 := true, masks := [3], range := fun q => if q.u32 0 = 1 ∨ q.u32 0 = 2 then [] else [0] }

def resetRow (q : Req) (s : State) : State × Answer :=
  ({ s with rst := { s.rst with software := s.rst.software ++ [(if q.u32 0 = 1 then ResetLevel.core else .system, s.now + 10 * usTicks)] } }, {})

/-- RESET_REQUEST (R378, Table 15.8). -/
def execResetRequest (f : Fn) (m : Mb) (s : State) : Host.Outcome State Fault Refusal := .next (s.serve f m resetForm resetRow)

/-- Entries held for a function go out while there is room and the function may send (R336, R356). -/
def State.drainEvents (s : State) (f : Nat) : State :=
  let r := s.ctl.ring f
  let w := drainRing s.now f (r.backlog.length + 2) r s.host
  { s with ctl := s.ctl.setRing f w.1, host := w.2 }

/-- EVENT_BACKLOG_DRAIN (R336). -/
def execEventBacklogDrain (f : Fn) (s : State) : Host.Outcome State Fault Refusal :=
  .next (s.clocked (fun s => if s.rst.past 5 true && (s.host.fn f).flr.isNone then s.drainEvents f else s))

/-- MOD_US after the first entry not yet signalled, the vector is sent (R337). -/
def State.moderationTimer (s : State) (f : Nat) : State :=
  let r := s.ctl.ring f
  if r.unsignalled = 0 then s
  else
    let s := s.upTo (r.firstUnsignalled + r.modUs.toNat * usTicks)
    { s with ctl := s.ctl.setRing f { r with unsignalled := 0 }, host := s.host.signal f r.vector.toNat }

/-- EVENT_MODERATION_TIMER (R337). -/
def execEventModerationTimer (f : Fn) (s : State) : Host.Outcome State Fault Refusal := .next (s.clocked (fun s => s.moderationTimer f))

/-- The function exists for the host (R344, R348). -/
def HostState.exists_ (h : HostState) (f : Nat) : Bool := f == 0 || decide (f ≤ h.vfsEnabled.toNat)

/-- The device leaves L1: what it holds goes out (R356). -/
def State.wake (s : State) : State :=
  if s.host.link = .l1 then
    let s := { s with host := { s.host with link := .l0 } }
    (List.range 16).foldl (fun s f => { (s.drainEvents f) with host := (s.drainEvents f).host.flushPending f }) s
  else s

/-- A function-level reset of f is in progress, or waits behind those of the VFs (R357, R358). -/
def HostState.resetting (h : HostState) (f : Nat) : Bool := (h.fn f).flr.isSome || h.flrWaiting.contains f

/-- Memory Space Enable of function f: its Command register's for PF0, the SR-IOV capability's for a VF (R345). -/
def HostState.mapped (h : HostState) (f : Nat) : Bool := if f = 0 then (h.fn 0).command.getLsbD 1 else h.vfMemory

/-- A memory request to a function's BARs is served: the link is up, the configuration space ready, the function's memory space enabled, the function in D0 and not in FLR (R345, R356, R357, R361). -/
def HostState.serves (h : HostState) (f : Nat) : Bool :=
  (h.link == .l0 || h.link == .l1) && h.configReady && h.exists_ f && h.mapped f && !(h.fn f).d3hot && !h.resetting f

/-- A host request to a function's BARs: answered as an Unsupported Request where it is not served (R356, R357). -/
def State.request (s : State) (f : Nat) (act : State → State) : State :=
  if s.host.serves f then act s.wake
  else if s.host.link = .l0 ∨ s.host.link = .l1 then { s.wake with host := { s.wake.host with reply := .unsupportedRequest } }
  else s

/-- A configuration request reaches a function: the link is up, the configuration space ready, the function there (R357, R361). -/
def HostState.configures (h : HostState) (f : Nat) : Bool := (h.link == .l0 || h.link == .l1) && h.configReady && h.exists_ f

/-- A configuration request: completed normally, whatever the function's D-state and resets; Request Retry Status while the configuration space is not ready; an Unsupported Request where there is no such function (R356, R357, R361). -/
def State.configure (s : State) (f : Nat) (act : State → State) : State :=
  if s.host.configures f then act s.wake
  else if s.host.link = .l0 ∨ s.host.link = .l1 then
    { s.wake with host := { s.wake.host with reply := if s.host.configReady then .unsupportedRequest else .retryStatus } }
  else s

/-- A host write discarded and counted (R330, R334, R346). -/
def State.violation (s : State) (f : Nat) : State :=
  let r := s.ctl.ring f
  { s with ctl := s.ctl.setRing f { r with violations := satAdd r.violations 1 } }

/-- A write of EVQ_HEAD: the entries before it are consumed, unless it would pass EVQ_TAIL (R334). -/
def State.headWrite (s : State) (f : Nat) (head : BitVec 16) : State :=
  let r := s.ctl.ring f
  let n := 2 ^ r.log2Size.toNat
  if n ≤ head.toNat ∨ r.used < (head.toNat + n - r.head.toNat) % n then s.violation f
  else { s with ctl := s.ctl.setRing f { r with head := head } }

/-- EVQ_HEAD_WRITE (R334, R336). -/
def execEvqHeadWrite (f : Fn) (head : BitVec 16) (s : State) : Host.Outcome State Fault Refusal := .next (s.clocked (fun s => s.request f (fun s => s.headWrite f head)))

/-- The host posts a mailbox it owns: it belongs to the controller from now on; a write to one the controller owns is discarded and counted (R328, R330, R331, R361). -/
def State.postMailbox (s : State) (f m : Nat) (irq : Bool) : State :=
  if s.ctl.owned f m then s.violation f
  else
    { s with ctl := { s.ctl with
        mailbox := setBytes 0 s.ctl.mailbox (mbKey f m 0x1FC) (packBits 4 [(31, 1), (30, b2n irq)])
        posted := s.ctl.posted ++ [(f, m)] } }

/-- MAILBOX_POST (R328). -/
def execMailboxPost (f : Fn) (m : Mb) (irq : Bool) (s : State) : Host.Outcome State Fault Refusal := .next (s.clocked (fun s => s.request f (fun s => s.postMailbox f m irq)))

/-- 1s written to RESET_CAUSE clear its bits; FAULT_N deasserts once bits 1, 3, 6 and 7 are clear and THERMTRIP_N is deasserted (R348, R409). -/
def State.causeClear (s : State) (v : Nat) : State :=
  let c := s.rst.cause &&& ~~~ BitVec.ofNat 8 v
  { s with rst := { s.rst with
      cause := c
      pins := if c &&& 0xCA = 0 ∧ s.clocks.thermtrip = false then { s.rst.pins with faultN := true } else s.rst.pins } }

/-- RESET_CAUSE_CLEAR: global registers lie in PF0's BAR0 (R348). -/
def execResetCauseClear (v : BitVec 32) (s : State) : Host.Outcome State Fault Refusal := .next (s.clocked (fun s => s.request 0 (fun s => s.causeClear v.toNat)))

/-- Defined bits of a mailbox word that the host stores (Table 15.2). -/
def mailboxMask (o : Nat) : Nat :=
  if o = 0x000 ∨ o = 0x008 ∨ o = 0x1F0 then 0xFFFF
  else if o = 0x1F4 ∨ o = 0x1F8 then 0
  else 0xFFFFFFFF

/-- A host write of one word of a mailbox (R328, R330). -/
def State.mailboxWrite (s : State) (f m o v : Nat) : State :=
  if s.ctl.owned f m then s.violation f
  else if o = 0x1FC then (if bit v 31 then s.postMailbox f m (bit v 30) else s)
  else { s with ctl := { s.ctl with mailbox := setBytes 0 s.ctl.mailbox (mbKey f m o) (natLe 4 (v &&& mailboxMask o)) } }

/-- A vector's mask bit is written; a message held is sent when the mask clears (R353). -/
def HostState.setMask (h : HostState) (f v : Nat) (masked : Bool) : HostState :=
  let x := h.fn f
  (h.setFn f { x with vectors := tmod {} x.vectors v (fun e => { e with masked := masked }) }).flushPending f

/-- A host write of one word of the MSI-X table (R353). -/
def State.vectorWrite (s : State) (f v word x : Nat) : State :=
  if vectorCount f ≤ v then s
  else if word = 3 then { s with host := s.host.setMask f v (bit x 0) }
  else
    let y := s.host.fn f
    { s with host := s.host.setFn f { y with vectors := tmod {} y.vectors v (fun e =>
        if word = 0 then { e with address := BitVec.ofNat 64 (e.address.toNat / 2 ^ 32 * 2 ^ 32 + x) }
        else if word = 1 then { e with address := BitVec.ofNat 64 (e.address.toNat % 2 ^ 32 + 2 ^ 32 * x) }
        else { e with data := BitVec.ofNat 32 x }) } }

/-- BAR2_BASE with one of its words written: bits below the BAR2 size read zero and ignore writes (Table 16.4). -/
def HostFn.baseWrite (x : HostFn) (high : Bool) (v : Nat) : HostFn :=
  let b := x.bar2Base.toNat
  let n := if high then b % 2 ^ 32 + 2 ^ 32 * v else b / 2 ^ 32 * 2 ^ 32 + v
  { x with bar2Base := BitVec.ofNat 41 (n / 2 ^ x.bar2Log2 * 2 ^ x.bar2Log2) }

/-- A whole word written at a BAR0 offset (Tables 15.1, 16.2 to 16.4); read-only and reserved words discard it (R4, R346, R347). -/
def State.wordWrite (s : State) (f o v : Nat) : State :=
  if o = 0x00C ∧ f = 0 then s.causeClear v
  else if o = 0x1008 ∨ o = 0x100C then { s with host := s.host.setFn f ((s.host.fn f).baseWrite (o == 0x100C) v) }
  else if 0x4000 ≤ o ∧ o < 0x6000 then s.mailboxWrite f ((o - 0x4000) / 512) ((o - 0x4000) % 512) v
  else if o = 0x6000 then s.headWrite f (BitVec.ofNat 16 v)
  else if 0x20000 ≤ o ∧ o < 0x28000 then s.vectorWrite f ((o - 0x20000) / 16) ((o - 0x20000) % 16 / 4) v
  else s

/-- Function Mask is written; what it held back goes out when it clears (R353), if MSI-X is enabled. -/
def HostState.maskFunction (h : HostState) (f : Nat) (masked : Bool) : HostState := (h.setFn f { h.fn f with functionMask := masked }).flushPending f

/-- A mask clears: a vector's, or Function Mask (R353). -/
def State.unmask (s : State) (f : Nat) : Option (Fin 2048) → State
  | some v => if vectorCount f ≤ v.val then s else { s with host := s.host.setMask f v false }
  | none => { s with host := s.host.maskFunction f false }

/-- MSIX_MASK_CLEAR: a vector's mask lies in BAR0, Function Mask in configuration space (R345, R353). -/
def execMsixMaskClear (f : Fn) (v : Option (Fin 2048)) (s : State) : Host.Outcome State Fault Refusal :=
  .next (s.clocked (fun s => if v.isSome then s.request f (fun s => s.unmask f v) else s.configure f (fun s => s.unmask f v)))

end Sys2Proof.Machine
end

