-- ==== Sys2Proof/Machine/HostLink.lean ====
section
/-! DEFINITION. The host link (spec/16_pcie_functions.md): the device-memory window (R352), power states (R356), the link (R359 to R361), and the MCTP control messages (R362). -/

namespace Sys2Proof.Machine

/-- A BAR2 request's place: a device physical address, or the status of what it meets (R184, R352, Table 7.4). -/
def State.bar2Place (s : State) (f a : Nat) (write : Bool) : Except Nat Nat :=
  let own := f == 0 || s.mem.owns s.pages.ft f a
  match placeOf a with
  | .fast x => if s.mem.live x && own then (if foreignSeal s.mem f a then .error stSealed else .ok a) else .error stTranslation
  | .pannier _ => if !own then .error stTranslation else if write then .error stNotPermitted else if foreignSeal s.mem f a then .error stSealed else .ok a
  | _ => .error stTranslation

/-- What a request that meets something else than memory reports, of its first such piece: a place that Table 7.4 does not permit has the reason PHYS_PLACE (R158). -/
def State.bar2Bad (s : State) (f : Nat) (write : Bool) (l : List (Nat × Nat)) : Option Args :=
  l.findSome? (fun x => match s.bar2Place f x.1 write with
    | .ok _ => none
    | .error st => some (accErr st (if st = stTranslation then rsnPhysPlace else 0) x.1 1))

/-- One piece of a read: memory through the codes, all ones where nothing answers (Table 7.4, R184), none at an uncorrectable grain. -/
def State.bar2Piece (s : State) (f : Nat) (x : Nat × Nat) (o : GrainErrors) : State × Option (List Byte) :=
  match s.bar2Place f x.1 false with
  | .ok a =>
    let r := s.deliverGrain ((s.hubLinks a).getD []) a o
    (r.1, r.2.map (fun d => sliceAt d (a % 256) x.2))
  | .error _ => (s, some (List.replicate x.2 0xFF))

/-- The pieces of a read in turn, each with the errors its grain meets. -/
def State.bar2Pieces (f : Nat) : List (Nat × Nat) → List GrainErrors → State → State × Option (List Byte)
  | [], _, s => (s, some [])
  | x :: l, os, s =>
    let r := s.bar2Piece f x (os.headD {})
    let q := State.bar2Pieces f l os.tail r.1
    (q.1, r.2.bind (fun d => q.2.map (d ++ ·)))

/-- An uncorrectable error is logged on a function: its status bit sets, and First Error Pointer names it if it is the first (R345, R352). -/
def HostFn.logError (x : HostFn) (bit : Nat) : HostFn :=
  { x with aerStatus := x.aerStatus ||| BitVec.ofNat 32 (2 ^ bit), aerFirst := if x.aerStatus = 0 then BitVec.ofNat 5 bit else x.aerFirst }

/-- AER's bits for Poisoned TLP Received and Completer Abort (PRESUMED, log 50). -/
def aerPoisonedTlp : Nat := 12
def aerCompleterAbort : Nat := 15

/-- A host read through BAR2: memory, all ones where nothing answers (reported), or Completer Abort at an uncorrectable grain (R352). -/
def State.bar2Read (s : State) (f offset len : Nat) (errors : List GrainErrors) : State :=
  let x := s.host.fn f
  let a := x.bar2Base.toNat + offset
  if 2 ^ x.bar2Log2 < offset + len ∨ len = 0 then s
  else
    let ps := grainPieces a len
    let r := State.bar2Pieces f ps errors s
    let s := match s.bar2Bad f false ps with
      | some b => r.1.hostAccess 2 f b
      | none => r.1
    match r.2 with
    | some d => { s with host := { s.host with reply := .data d } }
    | none =>
      let x := s.host.fn f
      { s with host := { s.host.setFn f (x.logError aerCompleterAbort) with reply := .completerAbort } }

/-- BAR2_READ (R352). -/
def execBar2Read (f : Fn) (offset len : Nat) (errors : List GrainErrors) (s : State) : Host.Outcome State Fault Refusal :=
  .next (s.clocked (fun s => s.request f (fun s => s.bar2Read f offset len errors)))

/-- Pieces of a write, each written or discarded (R352, Table 7.4). -/
def State.bar2Put (f : Nat) : List (Nat × List Byte) → State → State
  | [], s => s
  | x :: l, s =>
    State.bar2Put f l (match s.bar2Place f x.1 true with
      | .ok a => s.writePhys f a x.2
      | .error _ => s)

/-- A host write through BAR2; a poisoned one is discarded, reported and logged (R352). -/
def State.bar2Write (s : State) (f offset : Nat) (data : List Byte) (poisoned : Bool) : State :=
  let x := s.host.fn f
  let a := x.bar2Base.toNat + offset
  if 2 ^ x.bar2Log2 < offset + data.length ∨ data.length = 0 then s
  else if poisoned then
    ({ s with host := s.host.setFn f (x.logError aerPoisonedTlp) }).hostAccess 1 f (accErr stTranslation 0x0112 a 1)
  else
    let s := match s.bar2Bad f true (grainPieces a data.length) with
      | some b => s.hostAccess 1 f b
      | none => s
    State.bar2Put f (cutPieces a data) s

/-- BAR2_WRITE (R352). -/
def execBar2Write (f : Fn) (offset : Nat) (data : List Byte) (poisoned : Bool) (s : State) : Host.Outcome State Fault Refusal :=
  .next (s.clocked (fun s => s.request f (fun s => s.bar2Write f offset data poisoned)))

/-- A function enters or leaves D3hot; on the way back what it holds goes out (R356). -/
def State.power (s : State) (f : Nat) (d3 : Bool) : State :=
  s.configure f (fun s =>
    let s := { s with host := s.host.setFn f { s.host.fn f with d3hot := d3 } }
    if d3 then s
    else
      let s := s.drainEvents f
      { s with host := s.host.flushPending f })

/-- D3HOT_ENTER (R356). -/
def execD3hotEnter (f : Fn) (s : State) : Host.Outcome State Fault Refusal := .next (s.clocked (fun s => s.power f true))

/-- D0_RETURN (R356). -/
def execD0Return (f : Fn) (s : State) : Host.Outcome State Fault Refusal := .next (s.clocked (fun s => s.power f false))

/-- L1_EXIT (R356). -/
def execL1Exit (s : State) : Host.Outcome State Fault Refusal := .next (s.clocked (fun s => s.wake))

/-- ASPM Control of the link's Link Control enables L1 (R345, Table 16.1). -/
def HostState.aspmL1 (h : HostState) : Bool := h.linkControl.getLsbD 1

/-- The idle link enters L1, if ASPM L1 is enabled (R345, R356). -/
def State.sleep (s : State) : State := if s.host.link = .l0 ∧ s.host.aspmL1 = true then { s with host := { s.host with link := .l1 } } else s

/-- ASPM_L1_ENTRY (R356). -/
def execAspmL1Entry (s : State) : Host.Outcome State Fault Refusal := .next (s.clocked (fun s => s.sleep))

/-- Link training completes (R361). -/
def State.trained (s : State) : State := if s.host.link = .training then { s with host := { s.host with link := .l0 } } else s

/-- PCIE_LINK_UP (R361). -/
def execPcieLinkUp (s : State) : Host.Outcome State Fault Refusal := .next (s.clocked (fun s => s.trained))

/-- Configuration requests are answered from now on (R361). -/
def State.configured (s : State) : State := if s.host.link = .l0 ∨ s.host.link = .l1 then { s with host := { s.host with configReady := true } } else s

/-- CONFIGURATION_READY (R361). -/
def execConfigurationReady (s : State) : Host.Outcome State Fault Refusal := .next (s.clocked (fun s => s.configured))

/-- A VDM reaches the endpoint: it is addressed to PF0, which is in D0, none of its packets is longer than 512 bytes, and the link is up (R356, R362). -/
def HostState.takesVdm (h : HostState) (v : Vdm) : Bool :=
  v.to_ == 0 && decide (v.unit ≤ 512) && (h.link == .l0 || h.link == .l1) && !(h.fn 0).d3hot

/-- An MCTP message over PCIe VDM is taken: it reaches the endpoint, no core reset is in progress, and the firmware runs (R356, R362, R398, R402). -/
def State.mctpOpen (s : State) (v : Vdm) : Bool :=
  s.host.takesVdm v && s.rst.ready && !s.rst.inCore && s.sec.lifecycle != 4

/-- Bytes cut into packets of n; the number bounds them. -/
def cutPackets (n : Nat) : Nat → List Byte → List (List Byte)
  | 0, _ => []
  | k + 1, b => if b.isEmpty then [] else b.take n :: cutPackets n k (b.drop n)

/-- An answer in its packets: of the request's size, at least the baseline unit of 64 bytes and at most 512 (R362; DEDUCED, log 29). -/
def vdmPackets (v : Vdm) (b : List Byte) : List (List Byte) := cutPackets (max 64 (min v.unit 512)) b.length b

/-- The endpoint's answer to a message, after it has had its effect (R362). -/
def State.mctp (s : State) (v : Vdm) (f : State → State) (answer : List Byte) : State :=
  if s.mctpOpen v then
    let s := f s.wake
    { s with host := { s.host with reply := .mctp (vdmPackets v answer) } }
  else s

/-- MCTP_SET_ENDPOINT_ID (R362); the answer's bytes are DSP0236's (PRESUMED, log 29). -/
def execMctpSetEndpointId (v : Vdm) (eid : Byte) (s : State) : Host.Outcome State Fault Refusal :=
  .next (s.clocked (fun s => s.mctp v (fun s => { s with host := { s.host with endpointId := eid } }) [0, 0, eid, 0]))

/-- MCTP_GET_ENDPOINT_ID (R362; log 29). -/
def execMctpGetEndpointId (v : Vdm) (s : State) : Host.Outcome State Fault Refusal := .next (s.clocked (fun s => s.mctp v id [0, s.host.endpointId, 0, 0]))

/-- MCTP_GET_VERSION_SUPPORT (R362): the versions are not in the spec (log 29). -/
def execMctpGetVersionSupport (v : Vdm) (s : State) : Host.Outcome State Fault Refusal := .next (s.clocked (fun s => s.mctp v id ([0, 1] ++ Config.mctpVersion)))

/-- MCTP_GET_MESSAGE_TYPE_SUPPORT (R362): PLDM and the vendor-defined type the messages of R406 use. -/
def execMctpGetMessageTypeSupport (v : Vdm) (s : State) : Host.Outcome State Fault Refusal := .next (s.clocked (fun s => s.mctp v id [0, 2, 0x01, 0x7F]))

/-- PLDM_MONITORING (R362): the answer's contents are not in the spec (log 29). -/
def execPldmMonitoring (v : Vdm) (msg : List Byte) (s : State) : Host.Outcome State Fault Refusal :=
  .next (s.clocked (fun s => s.mctp v (fun s => { s with freeCtr := s.freeCtr + 1 }) (Config.pldmAnswer s.freeCtr msg)))

end Sys2Proof.Machine
end

