-- ==== Sys2Proof/Machine/Security.lean ====
section
/-! DEFINITION. The security block (spec/19, Table 15.18): the life cycle (R392 to R399), firmware images and updates (R400 to R402, R363), attestation (R403 to R406), LOG_READ. -/

namespace Sys2Proof.Machine

/-- Bytes of the NOR store; an unlisted byte is erased (Table 18.7, R390). -/
def ResetState.norRead (r : ResetState) (a n : Nat) : List Byte := bytesAt 0xFF r.nor a n
def ResetState.norWrite (r : ResetState) (a : Nat) (bs : List Byte) : ResetState := { r with nor := setBytes 0xFF r.nor a bs }
def ResetState.norErase (r : ResetState) (lo n : Nat) : ResetState := { r with nor := tclear r.nor lo (lo + n) }

/-- Ranges of the store (Table 18.7). -/
def norXmss : Nat := 0x08200000
def norXmssSize : Nat := 0x02000000
def norLog : Nat := 0x0A200000
def norLogSize : Nat := 0x05E00000
def norTandem : Nat := 0x08000000
def norTandemSize : Nat := 0x00200000
/-- A firmware slot's base, and its marker sector (R401). -/
def slotBase (k : Nat) : Nat := 0x04000000 * k
def slotMarker (k : Nat) : Nat := slotBase k + 0x03FFF000

/-- Life-cycle state of the fuses (R393). -/
def lcState (fuses : Nat) : Nat :=
  let g := (List.range 4).map (fun i => field fuses (4 * i + 3) (4 * i))
  let n := (g.takeWhile (· == 15)).length
  if (g.drop n).all (· == 0) then n else 4

/-- Fuses move from 0 to 1 only: a field burned with bytes keeps what was burned before (R392). -/
def burnBytes {w : Nat} (x : BitVec w) (bs : List Byte) : BitVec w := x ||| BitVec.ofNat w (leNat bs)

/-- A field destroyed: every bit burned (R392). -/
def burned (w : Nat) : BitVec w := BitVec.allOnes w

/-- UNIQUE_ID as bytes. -/
def uniqueIdBytes : List Byte := natLe 16 Config.uniqueId.toNat

/-- A key is Caervar's: an all-zero VENDOR_KEY_HASH matches none (R395, R401). -/
def vendorKey (key : List Byte) : Bool := Config.vendorKeyHash != 0 && leNat (shake256 32 key) == Config.vendorKeyHash.toNat

/-- An authorisation verifies for a transition; R399 asks for a nonce as well; reserved bits count for nothing but the signature (R4, R395). -/
def authorises (a : List Byte) (from_ to_ : Nat) (nonce : List Byte) : Bool :=
  let key := sliceAt a 0x18 68
  a.length == 2948 && fieldAt a 0 4 == 0x4C434155 && fieldAt a 4 2 == 1 && fieldAt a 6 1 % 8 == from_ && fieldAt a 7 1 % 8 == to_
    && sliceAt a 8 16 == uniqueIdBytes && sliceAt a 0x5C 32 == nonce && vendorKey key && Config.xmssVerifies 20 key (sliceAt a 0 128) (sliceAt a 128 2820)

/-- A record is measured: chained, and stored while there is room (R405, Table 19.5). -/
def SecState.measure (c : SecState) (ns kind slot major minor sv : Nat) (digest : List Byte) : SecState :=
  let b := fillTo 64 (natLe 2 c.records.toNat ++ natLe 1 kind ++ natLe 1 slot ++ natLe 1 major ++ natLe 1 minor ++ natLe 2 sv ++ natLe 8 ns ++ fillTo 32 digest)
  { c with
    records := satAdd c.records 1
    chain := shake256 32 (fillTo 32 c.chain ++ b.take 48)
    log := if c.log.length < 256 then c.log ++ [b] else c.log }

/-- Header of a firmware image (Table 19.4). -/
structure FwHeader where
  sv : Nat
  major : Nat
  minor : Nat
  bodyLength : Nat
  deriving DecidableEq, Repr

def fwHeader (b : List Byte) : FwHeader := { sv := fieldAt b 6 1, major := fieldAt b 8 1, minor := fieldAt b 9 1, bodyLength := fieldAt b 12 4 }

/-- An image verifies but for its security version (R401). -/
def fwSigned (image : List Byte) : Bool :=
  let h := fwHeader image
  let key := sliceAt image 0x10 68
  fieldAt image 0 4 == 0x46575834 && fieldAt image 4 2 == 1 && decide (1 ≤ h.bodyLength) && decide (h.bodyLength ≤ 67100672)
    && decide (4096 + h.bodyLength ≤ image.length) && vendorKey key && Config.xmssVerifies 20 key (sliceAt image 0 128) (sliceAt image 0x80 2820)
    && shake256 32 (sliceAt image 4096 h.bodyLength) == sliceAt image 0x60 32

/-- Status of an image's verification (R401, R402). -/
def fwStatus (svn : Nat) (image : List Byte) : Nat :=
  if !fwSigned image then stSignature else if (fwHeader image).sv < svn then stNotPermitted else stOk

/-- Header page and body of the image in a slot. -/
def ResetState.slotImage (r : ResetState) (k : Nat) : List Byte :=
  r.norRead (slotBase k) (4096 + min (fwHeader (r.norRead (slotBase k) 16)).bodyLength 67100672)

/-- BOOT_SEQUENCE as it stands, and whether the slot is a candidate (R401). -/
def ResetState.bootSequence (r : ResetState) (k : Nat) : Nat := fieldAt (r.norRead (slotMarker k) 4) 0 4
def ResetState.candidate (r : ResetState) (k : Nat) : Bool := r.bootSequence k + fieldAt (r.norRead (slotMarker k + 4) 4) 0 4 == 2 ^ 32 - 1

/-- The marker is written with the other slot's BOOT_SEQUENCE plus one (R402). -/
def ResetState.mark (r : ResetState) (k : Nat) : ResetState :=
  let n := (r.bootSequence (1 - k) + 1) % 2 ^ 32
  r.norWrite (slotMarker k) (natLe 4 n ++ natLe 4 (2 ^ 32 - 1 - n))

/-- Candidate slots in the boot ROM's order (R402). -/
def ResetState.bootOrder (r : ResetState) : List Nat :=
  let d := (r.bootSequence 1 + 2 ^ 32 - r.bootSequence 0) % 2 ^ 32
  (if 1 ≤ d ∧ d < 2 ^ 31 then [1, 0] else [0, 1]).filter r.candidate

def measurementForm : CmdForm := { code := 0x0901, len := .fixed 4, masks := [0xFFFFFFFF] }

def measurementRow (q : Req) (s : State) : State × Answer :=
  match s.sec.log[q.u32 0]? with
  | some r => (s, { reply := r })
  | none => (s, badField 0)

/-- MEASUREMENT_READ (R405). -/
def execMeasurementRead (f : Fn) (m : Mb) (s : State) : Host.Outcome State Fault Refusal := .next (s.serve f m measurementForm measurementRow)

/-- Three seeds of an XMSS key from successive draws (R400, R403). -/
def seedsOf (draw : Nat) : List Byte := drawBytes draw ++ drawBytes (draw + 1) ++ drawBytes (draw + 2)

/-- The attestation key has an index left, and a certificate (R404, R406). -/
def AttKey.usable (k : AttKey) : Bool := k.certificate.isSome && decide (k.nextIndex < 1024)

/-- An index of the attestation key is consumed (R406). -/
def SecState.takeIndex (c : SecState) : SecState := { c with attKey := c.attKey.map (fun k => { k with nextIndex := k.nextIndex + 1 }) }

/-- A quote: body and signature (Table 19.6). -/
def State.quoteBytes (s : State) (k : AttKey) (requester index : Nat) (nonce : List Byte) : List Byte :=
  let v := s.sec.version
  let body := fillTo 128 (natLe 4 0x51554F54 ++ natLe 2 1 ++ natLe 1 s.sec.lifecycle.toNat ++ natLe 1 s.sec.svn.toNat ++ natLe 1 requester
    ++ natLe 1 v.1 ++ natLe 1 v.2 ++ natLe 1 0 ++ natLe 4 index ++ natLe 4 s.sec.records.toNat ++ natLe 4 s.fabric.idWord ++ natLe 8 s.ns
    ++ fillTo 32 nonce ++ fillTo 32 s.sec.chain ++ uniqueIdBytes)
  body ++ fillTo 2500 (Config.xmssSign 10 (seedsOf k.draw) index body)

/-- A job of the security block asked for by a command. -/
def State.addService (s : State) (q : Req) (j : ServiceJob) : State := { s with ctl := { s.ctl with services := s.ctl.services ++ [(q.cmd, j)] } }

/-- The quote being signed. -/
def CtlState.signing (c : CtlState) : Option (CmdRef × ServiceJob) := c.services.find? (fun p => match p.2 with
  | .quote _ _ (some _) => true
  | _ => false)

/-- The quotes that wait, oldest first. -/
def CtlState.unsigned (c : CtlState) : List (CmdRef × ServiceJob) := c.services.filter (fun p => match p.2 with
  | .quote _ _ none => true
  | _ => false)

/-- Its signing starts with index i (R406). -/
def ServiceJob.signed (i : Nat) : ServiceJob → ServiceJob
  | .quote nonce buffer _ => .quote nonce buffer (some i)
  | j => j

/-- A waiting quote finds no index left (R406). -/
def State.quoteExhausted (p : CmdRef × ServiceJob) (s : State) : State :=
  { s with ctl := { s.ctl with services := s.ctl.services.erase p } }.complete p.1 { status := stKeyExhausted }

/-- The next quote's signing starts once none is under way: it takes an index; with none left, every quote that waits ends (R406). -/
def State.nextQuote (s : State) : State :=
  match s.ctl.signing, s.ctl.unsigned, s.sec.attKey with
  | none, p :: rest, some k =>
    if k.nextIndex < 1024 then
      { s with
        sec := s.sec.takeIndex
        ctl := { s.ctl with services := mapIf (fun y => y == p) (fun y => (y.1, y.2.signed k.nextIndex)) s.ctl.services } }
    else each (p :: rest) State.quoteExhausted s
  | _, _, _ => s

def quoteForm : CmdForm := { code := 0x0902, len := .fixed 48, accepts := true, masks := List.replicate 9 0xFFFFFFFF ++ [0xFFFF, 0xFFFFFFFF, 0xFFFFFFFF] }

def quoteRow (q : Req) (s : State) : State × Answer :=
  if s.sec.lifecycle = 0 then (s, { status := stLifecycle })
  else if q.u64 0x28 < 2628 then (s, { status := stNoMemory })
  else if !(s.sec.attKey.map AttKey.usable).getD false then (s, { status := stKeyExhausted })
  else ((s.addService q (.quote (sliceAt q.params 0 32) (q.u64 0x20) none)).nextQuote, { status := stAccepted })

/-- QUOTE (R406). -/
def execQuote (f : Fn) (m : Mb) (s : State) : Host.Outcome State Fault Refusal := .next (s.serve f m quoteForm quoteRow)

/-- A command's bytes are written to its caller's buffer, and it ends. -/
def State.deliver (s : State) (c : CmdRef) (buffer : Nat) (bs : List Byte) : State :=
  match s.writeVirt c.fn buffer bs with
  | .ok s => s.complete c { arg0 := bs.length }
  | .error e => (s.noteBad e).complete c e

/-- QUOTE_SIGNED: the signing of function f's quote ends (R406). -/
def State.quoteSigned (s : State) (f : Nat) : State :=
  match s.ctl.signing, s.sec.attKey with
  | some (c, .quote nonce buffer (some ix)), some k =>
    if c.fn = f then
      ({ s with ctl := { s.ctl with services := s.ctl.services.erase (c, .quote nonce buffer (some ix)) } }.deliver c buffer (s.quoteBytes k f ix nonce)).nextQuote
    else s
  | _, _ => s

/-- QUOTE_SIGNED (R406). -/
def execQuoteSigned (f : Fn) (s : State) : Host.Outcome State Fault Refusal := .next (s.clocked (fun s => s.quoteSigned f))

/-- The attestation certificate, then the identity certificate with its length (R406). -/
def certificates (cert : List Byte) : List Byte := fillTo 2948 cert ++ natLe 4 Config.identityCertificate.length ++ Config.identityCertificate

def certificateForm : CmdForm := { code := 0x0903, len := .fixed 16, accepts := true, masks := [0xFFFFFFFF, 0xFFFF, 0xFFFFFFFF, 0xFFFFFFFF] }

/-- The certificate of this boot. -/
def SecState.certificate (c : SecState) : Option (List Byte) := c.attKey.bind (fun k => k.certificate)

def certificateRow (q : Req) (s : State) : State × Answer :=
  if s.sec.lifecycle = 0 then (s, { status := stLifecycle })
  else
    match s.sec.certificate with
    | none => (s, { status := stKeyExhausted })
    | some x => if q.u64 8 < (certificates x).length then (s, { status := stNoMemory }) else (s.addService q (.certificate (q.u64 0)), { status := stAccepted })

/-- CERTIFICATE_READ (R406). -/
def execCertificateRead (f : Fn) (m : Mb) (s : State) : Host.Outcome State Fault Refusal := .next (s.serve f m certificateForm certificateRow)

/-- CERTIFICATE_WRITTEN: function f's oldest CERTIFICATE_READ is done (R406). -/
def State.certificateWritten (s : State) (f : Nat) : State :=
  match s.ctl.services.find? (fun p => p.1.fn == f && match p.2 with
    | .certificate _ => true
    | _ => false), s.sec.certificate with
  | some (c, .certificate buffer), some x =>
    { s with ctl := { s.ctl with services := s.ctl.services.erase (c, .certificate buffer) } }.deliver c buffer (certificates x)
  | _, _ => s

/-- CERTIFICATE_WRITTEN (R406). -/
def execCertificateWritten (f : Fn) (s : State) : Host.Outcome State Fault Refusal := .next (s.clocked (fun s => s.certificateWritten f))

def logForm : CmdForm :=
  { code := 0x0A04, len := .fixed 24, pf0 := true, accepts := true, masks := [0xFFFFFFFF, 0xFFFFFFFF, 0xFFFFFFFF, 0xFFFF, 0xFFFFFFFF, 0xFFFFFFFF]
    range := fun q => if norLogSize ≤ q.u64 0 then [0] else if norLogSize < q.u64 0 + q.u64 16 then [16] else [] }

def logRow (q : Req) (s : State) : State × Answer :=
  if q.u64 16 = 0 then (s, { status := stNoMemory }) else (s.addService q (.logRead (q.u64 0) (q.u64 8) (q.u64 16)), { status := stAccepted })

/-- LOG_READ (R340). -/
def execLogRead (f : Fn) (m : Mb) (s : State) : Host.Outcome State Fault Refusal := .next (s.serve f m logForm logRow)

/-- LOG_READ_DONE: function f's oldest LOG_READ is done (R340). -/
def State.logDone (s : State) (f : Nat) : State :=
  match s.ctl.services.find? (fun p => p.1.fn == f && match p.2 with
    | .logRead _ _ _ => true
    | _ => false) with
  | some (c, .logRead offset buffer size) =>
    { s with ctl := { s.ctl with services := s.ctl.services.erase (c, .logRead offset buffer size) } }.deliver c buffer (s.rst.norRead (norLog + offset) size)
  | _ => s

/-- LOG_READ_DONE (R340). -/
def execLogReadDone (f : Fn) (s : State) : Host.Outcome State Fault Refusal := .next (s.clocked (fun s => s.logDone f))

/-- The message comes over I3C; or over PCIe VDM (R362, R363). -/
def pathOpen (p : MgmtPath) (h : HostState) : Bool :=
  match p with
  | .i3c => true
  | .vdm v => h.takesVdm v

/-- A management message is taken: its path is open, the firmware runs, or recovery serves this type (R362, R398, R402). -/
def State.hears (s : State) (p : MgmtPath) (recovery : Bool) : Bool :=
  pathOpen p s.host && !s.rst.inCore && s.sec.lifecycle != 4 && (s.rst.ready || (recovery && s.sec.recovery))

/-- One over PCIe VDM wakes the link (R356). -/
def State.arrives (s : State) (p : MgmtPath) : State :=
  match p with
  | .i3c => s
  | .vdm _ => s.wake

/-- A message answered. -/
def State.replies (s : State) (r : Reply) : State := { s with host := { s.host with reply := r } }

/-- An answer's packets: over I3C of the baseline unit (R362; log 29). -/
def pathPackets : MgmtPath → List Byte → List (List Byte)
  | .i3c, b => vdmPackets { to_ := 0, unit := 64 } b
  | .vdm v, b => vdmPackets v b

/-- A message of MCTP type 0x7F (R406): nothing while none is taken. -/
def State.vendor (s : State) (p : MgmtPath) (act : State → State) : State := if s.hears p false then act (s.arrives p) else s

/-- GET_MEASUREMENT: the answer's body is the reply's (R406). -/
def State.getMeasurement (s : State) (p : MgmtPath) (index : Nat) : State :=
  s.replies (match s.sec.log[index]? with
    | some r => .mctp (pathPackets p r)
    | none => .refused (BitVec.ofNat 16 stBadField))

/-- GET_MEASUREMENT (R406). -/
def execGetMeasurement (path : MgmtPath) (index : W32) (s : State) : Host.Outcome State Fault Refusal :=
  .next (s.clocked (fun s => s.vendor path (fun s => s.getMeasurement path index.toNat)))

/-- The way a quote says it was asked for. -/
def pathSource : MgmtPath → Nat
  | .i3c => 0x81
  | .vdm _ => 0x80

/-- GET_QUOTE: a quote with the next index (R406). -/
def State.getQuote (s : State) (p : MgmtPath) (nonce : List Byte) : State :=
  if s.sec.lifecycle = 0 then s.replies (.refused (BitVec.ofNat 16 stLifecycle))
  else
    match s.sec.attKey with
    | some k =>
      if k.usable then { s with sec := s.sec.takeIndex }.replies (.mctp (pathPackets p (s.quoteBytes k (pathSource p) k.nextIndex nonce)))
      else s.replies (.refused (BitVec.ofNat 16 stKeyExhausted))
    | none => s.replies (.refused (BitVec.ofNat 16 stKeyExhausted))

/-- GET_QUOTE (R406). -/
def execGetQuote (path : MgmtPath) (nonce : List Byte) (s : State) : Host.Outcome State Fault Refusal :=
  .next (s.clocked (fun s => s.vendor path (fun s => s.getQuote path nonce)))

/-- GET_CERTIFICATE: the certificates (R406). -/
def State.getCertificate (s : State) (p : MgmtPath) : State :=
  if s.sec.lifecycle = 0 then s.replies (.refused (BitVec.ofNat 16 stLifecycle))
  else
    s.replies (match s.sec.certificate with
      | some x => .mctp (pathPackets p (certificates x))
      | none => .refused (BitVec.ofNat 16 stKeyExhausted))

/-- GET_CERTIFICATE (R406). -/
def execGetCertificate (path : MgmtPath) (s : State) : Host.Outcome State Fault Refusal :=
  .next (s.clocked (fun s => s.vendor path (fun s => s.getCertificate path)))

/-- The transition from one state to another is one of Table 19.3; whether it needs an authorisation. -/
def transition (from_ to_ : Nat) : Option Bool :=
  if to_ = 4 ∧ from_ < 4 then some false else if to_ = from_ + 1 ∧ from_ < 3 then some true else none

def advanceForm : CmdForm := { code := 0x0904, len := .fixed 24, pf0 := true, accepts := true, masks := [7, 0, 0xFFFFFFFF, 0xFFFF, 0xFFFFFFFF, 0xFFFFFFFF] }

def advanceRow (q : Req) (s : State) : State × Answer :=
  let now := s.sec.lifecycle.toNat
  let to_ := q.u32 0
  let go : State × Answer := ({ s with sec := { s.sec with transition := some (BitVec.ofNat 3 to_, q.cmd) } }, { status := stAccepted })
  match transition now to_ with
  | none => (s, { status := stLifecycle })
  | some authorised =>
    if s.sec.transition.isSome || s.sec.transitionResetAt.isSome then (s, busy)
    else if q.u64 16 ≠ (if authorised then 2948 else 0) then (s, badField 16)
    else if !authorised then go
    else
      match readVirt s.mem s.pages q.fn (q.u64 8) 2948 with
      | .error e => (s.noteBad e, { status := e.status, detail := e.detail })
      | .ok a => if authorises a now to_ (List.replicate 32 0) then go else (s, { status := stSignature })

/-- LIFECYCLE_ADVANCE (R394, R395). -/
def execLifecycleAdvance (f : Fn) (m : Mb) (s : State) : Host.Outcome State Fault Refusal := .next (s.serve f m advanceForm advanceRow)

/-- Group g of LC_FUSES burned (R393). -/
def SecState.burn (c : SecState) (g : Nat) : SecState := { c with lcFuses := c.lcFuses ||| BitVec.ofNat 16 (15 * 2 ^ (4 * g)) }

/-- The identity key's seeds as its functions take them (Table 19.1). -/
def SecState.seeds (c : SecState) : List Byte := natLe 96 c.identitySeed.toNat

/-- The three seeds are drawn and burned, unless they are burned already (R396, R400). -/
def State.drawIdentity (s : State) : State :=
  if s.sec.identitySeed = 0 then { s with freeCtr := s.freeCtr + 3, sec := { s.sec with identitySeed := burnBytes s.sec.identitySeed (seedsOf s.freeCtr) } } else s

/-- The root is computed and burned (R400; log 30). -/
def State.burnRoot (s : State) : State :=
  { s with sec := { s.sec with identityRoot := burnBytes s.sec.identityRoot (sliceAt (Config.xmssPublic 20 s.sec.seeds) 4 32) } }

/-- The key's traversal state is written to the XMSS state region (R400; log 30). -/
def State.storeTraversal (s : State) : State := { s with rst := s.rst.norWrite norXmss ((Config.xmssTraversal 20 s.sec.seeds).take norXmssSize) }

/-- OWNER_SEED is drawn and burned (R392, R394). -/
def State.drawOwner (s : State) : State := { s with freeCtr := s.freeCtr + 1, sec := { s.sec with ownerSeed := burnBytes s.sec.ownerSeed (drawBytes s.freeCtr) } }

def State.burnGroup (s : State) (g : Nat) : State := { s with sec := s.sec.burn g }

/-- OWNER_SEED is destroyed, and with the entry into its state every sealing key (R394, R407). -/
def State.destroyOwner (s : State) : State := { s with sec := { s.sec with ownerSeed := burned 256 }, mem := { s.mem with sealKeys := [] } }
def State.destroyIdentity (s : State) : State := { s with sec := { s.sec with identitySeed := burned 768 } }
def State.eraseLog (s : State) : State := { s with rst := s.rst.norErase norLog norLogSize }
def State.eraseXmss (s : State) : State := { s with sec := { s.sec with ringMark := 0 }, rst := s.rst.norErase norXmss norXmssSize }
def State.eraseTandem (s : State) : State := { s with rst := s.rst.norErase norTandem norTandemSize }

/-- What entry into RETURN destroys (R394, R396). -/
def State.enterReturn (s : State) : State := s.destroyOwner.eraseLog

/-- Every group below 4 burned (R394). -/
def State.burnGroups (s : State) : State := { s with sec := { s.sec with lcFuses := 0xFFFF } }

/-- The actions of the RETIRED row, its burns first (R394, R396). -/
def State.enterRetired (s : State) : State := s.burnGroups.destroyIdentity.destroyOwner.eraseXmss.eraseTandem.eraseLog

/-- Actions of Table 19.3, in order. -/
def transitionSteps : Nat → List (State → State)
  | 1 => [State.drawIdentity, State.burnRoot, State.storeTraversal, fun s => s.burnGroup 0]
  | 2 => [State.drawOwner, fun s => s.burnGroup 1]
  | 3 => [fun s => s.burnGroup 2, State.destroyOwner, State.eraseLog]
  | _ => [State.burnGroups, State.destroyIdentity, State.destroyOwner, State.eraseXmss, State.eraseTandem, State.eraseLog]

def State.transitionActions (s : State) (to_ : Nat) : State := (transitionSteps to_).foldl (fun s a => a s) s

/-- A transition cut short by a reset or a loss of power (R396): how many of its actions are done is free (log 52). -/
def State.cutTransition (s : State) : State :=
  match s.sec.transition with
  | none => s
  | some (to_, _) =>
    let l := transitionSteps to_.toNat
    (l.take ((Config.freeWord s.freeCtr 0).toNat % (l.length + 1))).foldl (fun s a => a s) { s with freeCtr := s.freeCtr + 1, sec := { s.sec with transition := none } }

/-- LIFECYCLE_TRANSITION_DONE: burns and destructions are over; the entry is written and a system reset follows 10 us later (R394). -/
def State.transitionDone (s : State) : State :=
  match s.sec.transition with
  | none => s
  | some (to_, c) =>
    let s := s.transitionActions to_.toNat
    { s with sec := { s.sec with transition := none, transitionResetAt := some (s.now + 10 * usTicks) } }.complete c {}

/-- LIFECYCLE_TRANSITION_DONE (R394). -/
def execLifecycleTransitionDone (s : State) : Host.Outcome State Fault Refusal := .next (s.clocked (fun s => s.transitionDone))

/-- DEBUG_UNLOCK: in RETURN, with OWNER_SEED destroyed, both tiers filled and the nonce answered; refused otherwise (R399). -/
def State.debugUnlock (s : State) (a : List Byte) : State :=
  if s.sec.lifecycle = 3 ∧ s.sec.ownerSeed = burned 256 ∧ s.rst.fastFilled = true ∧ s.rst.pannierFilled = pannierFrames ∧ authorises a 3 3 s.sec.challenge = true then
    { s with sec := { s.sec with debugOpen := true } }
  else s

/-- DEBUG_UNLOCK (R399). -/
def execDebugUnlock (authorisation : List Byte) (s : State) : Host.Outcome State Fault Refusal := .next (s.clocked (fun s => s.debugUnlock authorisation))

def updateForm : CmdForm :=
  { code := 0x0A03, len := .fixed 24, pf0 := true, accepts := true, masks := [0xFFFFFFFF, 0xFFFF, 0xFFFFFFFF, 0xFFFFFFFF, 3, 0] }

/-- The image in a slot is running (R402). -/
def SecState.runs (c : SecState) (slot : Nat) : Bool := (c.firmware.map (fun f => f.slot == slot)).getD false

/-- An update starts: the slot is erased, and without a marker until the end; a marker alone needs no erase (R402). -/
def State.startUpdate (s : State) (u : Update) : State :=
  { s with sec := { s.sec with update := some u }, rst := if u.markerOnly then s.rst else s.rst.norErase (slotBase u.slot) 0x04000000 }

def updateRow (q : Req) (s : State) : State × Answer :=
  let slot := q.u32 16 % 2
  let activate := bit (q.u32 16) 1
  let go (image : List Byte) (markerOnly : Bool) : State × Answer :=
    let st := fwStatus s.sec.svn.toNat image
    if st = stOk then (s.startUpdate { slot := slot, image := image, activate := activate, markerOnly := markerOnly, cmd := some q.cmd }, { status := stAccepted })
    else (s, { status := st })
  if s.sec.update.isSome || s.sec.runs slot then (s, busy)
  else if q.u64 8 = 0 ∧ activate = true then go (s.rst.slotImage slot) true
  else
    match readVirt s.mem s.pages q.fn (q.u64 0) (q.u64 8) with
    | .error e => (s.noteBad e, { status := e.status, detail := e.detail })
    | .ok image => go image false

/-- FIRMWARE_UPDATE (R402, R363). -/
def execFirmwareUpdate (f : Fn) (m : Mb) (s : State) : Host.Outcome State Fault Refusal := .next (s.serve f m updateForm updateRow)

/-- Header page and body of an image. -/
def fwBytes (image : List Byte) : List Byte := image.take (4096 + (fwHeader image).bodyLength)

/-- Header page and body programmed into the erased slot (R402). -/
def ResetState.program (r : ResetState) (u : Update) : ResetState := r.norWrite (slotBase u.slot) (fwBytes u.image)

/-- FIRMWARE_UPDATE_DONE: programmed, read back and verified again; the marker last, if it is asked for; the image measured (R402, R405). Recovery goes on to a system reset. -/
def State.updateDone (s : State) : State :=
  match s.sec.update with
  | none => s
  | some u =>
    let st := fwStatus s.sec.svn.toNat u.image
    let h := fwHeader u.image
    let rst := if u.markerOnly then s.rst else s.rst.program u
    let sec := { s.sec with update := none }
    let s :=
      { s with
        rst := if st = stOk ∧ u.activate = true then rst.mark u.slot else rst
        sec := if st = stOk ∧ u.markerOnly = false then sec.measure s.ns 6 u.slot h.major h.minor h.sv (shake256 32 (fwBytes u.image)) else sec }
    let s := if s.sec.recovery ∧ st = stOk then { s with sec := { s.sec with transitionResetAt := some s.now } } else s
    match u.cmd with
    | some c => s.complete c { status := st }
    | none => s

/-- FIRMWARE_UPDATE_DONE (R402). -/
def execFirmwareUpdateDone (s : State) : Host.Outcome State Fault Refusal := .next (s.clocked (fun s => s.updateDone))

/-- A PLDM firmware update runs, or is refused: code 0x81 is ALREADY_IN_UPDATE_MODE (R363; PRESUMED, DSP0267, log 29). In recovery the slot that failed first is written, else the one that does not run. -/
def State.pldmUpdate (s : State) (image : List Byte) : State :=
  if s.sec.update.isSome then s.replies (.pldmCode 0x81)
  else
    let st := fwStatus s.sec.svn.toNat image
    if st ≠ stOk then s.replies (.refused (BitVec.ofNat 16 st))
    else
      let slot := if s.sec.recovery then s.sec.failedSlot.getD 0 else ((s.sec.firmware.map (fun f => 1 - f.slot)).getD 0)
      (s.startUpdate { slot := slot, image := image, activate := true, cmd := none }).replies (.pldmCode 0)

/-- PLDM_FIRMWARE_UPDATE (R363, R402). -/
def execPldmFirmwareUpdate (path : MgmtPath) (image : List Byte) (s : State) : Host.Outcome State Fault Refusal :=
  .next (s.clocked (fun s => if s.hears path true then (s.arrives path).pldmUpdate image else s))

/-- SVN_RAISE: 60 s after READY the firmware raises SVN_FUSES to its own SV (R402). -/
def State.svnRaise (s : State) : State :=
  match s.sec.firmware with
  | none => s
  | some f =>
    match f.svnAt with
    | none => s
    | some t =>
      let s := s.upTo t
      { s with sec := { s.sec with svn := if s.sec.svn < f.sv then f.sv else s.sec.svn, firmware := some { f with svnAt := none } } }

/-- SVN_RAISE (R402). -/
def execSvnRaise (s : State) : Host.Outcome State Fault Refusal := .next (s.clocked (fun s => s.svnRaise))

/-- The attestation key's 68-byte public key and the certificate over it (R403). -/
def State.certify (s : State) (draw identity : Nat) : List Byte :=
  let body := fillTo 128 (natLe 4 0x41435254 ++ natLe 2 1 ++ natLe 1 s.sec.lifecycle.toNat ++ natLe 1 s.sec.svn.toNat ++ natLe 8 identity ++ uniqueIdBytes
    ++ fillTo 68 (Config.xmssPublic 10 (seedsOf draw)))
  body ++ fillTo 2820 (Config.xmssSign 20 s.sec.seeds identity body)

/-- The reservation high-water mark (R404). -/
def State.highWater (s : State) : Nat := max s.rst.config.reserveNext s.sec.ringMark

/-- ATTESTATION_SETUP: a fresh key; an identity index from a new reservation signs its certificate, unless the identity key is exhausted or there is none (R403, R404). -/
def State.attest (s : State) : State :=
  let h := s.highWater
  let d := s.freeCtr
  let s := { s with freeCtr := s.freeCtr + 3 }
  if s.sec.lifecycle = 0 ∨ s.sec.lifecycle = 4 ∨ 2 ^ 20 ≤ h then { s with sec := { s.sec with attKey := some { draw := d } } }
  else
    { s with sec := { s.sec with ringMark := h + 64, pool := some (h + 1, h + 64), attKey := some { draw := d, certificate := some (s.certify d h) } } }.recordItem
      (fun t => { t with reserveNext := h + 64 })

/-- ATTESTATION_SETUP: the security block runs, the store is read, no key has been drawn yet (R403). -/
def execAttestationSetup (s : State) : Host.Outcome State Fault Refusal :=
  .next (s.clocked (fun s => if s.rst.past 5 false && s.rst.tandemRead && s.sec.attKey.isNone then s.attest else s))

end Sys2Proof.Machine
end

