-- ==== Sys2Proof/Machine/Pages.lean ====
section
/-! DEFINITION. The page engine's commands and moves (R209, R213 to R229): placing the frame table, set-up, grants, scrubs, re-enabling, sharing, release, spill and prefetch. -/

namespace Sys2Proof.Machine

def SeqState.seq (q : SeqState) (i : Nat) : SeqEntry := tget {} q.seqs i
def State.seq (s : State) (i : Nat) : SeqEntry := s.seqs.seq i
def State.modSeq (s : State) (i : Nat) (f : SeqEntry → SeqEntry) : State := { s with seqs := { s.seqs with seqs := tmod {} s.seqs.seqs i f } }
/-- Indexes of function f's sequences that are not FREE. -/
def SeqState.ofFn (q : SeqState) (f : Nat) : List Nat := (q.seqs.filter (fun e => e.2.st != .free && e.2.fn.toNat == f)).map (·.1)

/-- The function's SEQUENCE class commands are taken: the frame table stands (R214), and its service has not been stopped (R226). -/
def State.seqOpen (s : State) (f : Nat) : Bool := s.pages.ftValid && !s.pages.stopped.contains f

/-- The page engine serves the function: its ENABLED is set (R214, R217; log 34). -/
def State.serves (s : State) (f : Nat) : Bool := s.pages.ftValid && (s.pageRec f).enabled

/-- A command carried out by the page engine; an uncorrectable grain ends it and the service (R226). -/
def pagedRow (f : Nat) (s : State) (r : Paged (State × Answer)) : State × Answer :=
  match r with
  | .ok r => r
  | .error g => (s.stopService f g, { status := stUncorrectable })

def placeForm : CmdForm :=
  { code := 0x0401, len := .fixed 8, pf0 := true, accepts := true, masks := [0xFFFFFFFF, 0x1FF], range := fun q => if q.u32 0 % 65536 = 0 then [] else [0] }

/-- Bytes of the frame table (R214). -/
def ftSize : Nat := 8 * 17301504

def placeRow (q : Req) (s : State) : State × Answer :=
  let a := q.u64 0
  if s.pages.ftValid || s.pages.placing.isSome then (s, busy)
  else if !s.mem.inExtents 0 a ftSize then (s, badField 0)
  else ({ s with pages := { s.pages with placing := some (a, q.cmd) } }, { status := stAccepted })

/-- FRAME_TABLE_PLACE (R214). -/
def execFrameTablePlace (f : Fn) (m : Mb) (s : State) : Host.Outcome State Fault Refusal := .next (s.serve f m placeForm placeRow)

/-- The table as it is placed: every entry HELD, a fast frame with its extent's function (R214). -/
def MemState.placeTable (m : MemState) (a : Nat) : MemState :=
  let m := if m.seals.isEmpty then m.zero a (a + ftSize) else m.write a (List.replicate ftSize 0)
  (List.range 64).foldl (fun m x =>
    let f := if (m.extent x).valid then (m.extent x).fn.toNat else 0
    if f = 0 then m else m.write (a + 8 * 73728 * x) ((List.replicate 73728 ({ count := 0, st := ftHeld, fn := f, epoch := 0 } : FtEntry).bytes).flatten)) m

/-- The frame table is in place. -/
def State.tablePlaced (s : State) : State :=
  match s.pages.placing with
  | none => s
  | some (a, c) =>
    ({ s with
      mem := s.mem.placeTable a
      pages := { s.pages with placing := none, ftBase := BitVec.ofNat 41 a, ftValid := true } }).complete c {}

/-- FRAME_TABLE_PLACED (R214). -/
def execFrameTablePlaced (s : State) : Host.Outcome State Fault Refusal := .next (s.clocked (fun s => s.tablePlaced))

def setupForm : CmdForm :=
  { code := 0x0402, len := .fixed 56, pf0 := true
    masks := [0xF, 0, 0x1FFFFFF, 0, 0xFFFFFFFF, 0x1FF, 0xFFFFFFFF, 0x1FF, 0xFFFFFFFF, 0x1FF, 0xFFFFFFFF, 0xFFFFFFFF, 0xFFFFFFFF, 1]
    range := fun q => (if q.u32 0x10 % 256 = 0 then [] else [0x10]) ++ (if q.u32 0x30 < q.u32 0x28 + q.u32 0x2C then [0x30] else []) }

/-- An area of n bytes lies in the function's extents; an empty one needs no place. -/
def MemState.areaOk (m : MemState) (f a n : Nat) : Bool := n == 0 || m.inExtents f a n

def setupRow (q : Req) (s : State) : State × Answer :=
  let f := q.u32 0
  let r := s.pageRec f
  if !s.seqOpen f then (s, notPermitted)
  else if r.enabled || s.pages.reenables.any (fun x => x.1 == f) then (s, busy)
  else if !s.mem.areaOk f (65536 * q.u32 8) 65536 then (s, badField 8)
  else if !s.mem.areaOk f (q.u64 0x10) (4 * q.u32 0x28) then (s, badField 0x10)
  else if !s.mem.areaOk f (q.u64 0x18) (4 * q.u32 0x2C) then (s, badField 0x18)
  else if !s.mem.areaOk f (q.u64 0x20) (4 * q.u32 0x30) then (s, badField 0x20)
  else
    (s.modRec f (fun r =>
      { r with
        root := BitVec.ofNat 25 (q.u32 8), fastStack := BitVec.ofNat 41 (q.u64 0x10), pannierStack := BitVec.ofNat 41 (q.u64 0x18)
        quarRing := BitVec.ofNat 41 (q.u64 0x20), fastCap := BitVec.ofNat 32 (q.u32 0x28), pannierCap := BitVec.ofNat 32 (q.u32 0x2C)
        quarCap := BitVec.ofNat 32 (q.u32 0x30), kvSealed := bit (q.u32 0x34) 0, enabled := true }), {})

/-- PAGE_SETUP (R217). -/
def execPageSetup (f : Fn) (m : Mb) (s : State) : Host.Outcome State Fault Refusal := .next (s.serve f m setupForm setupRow)

def geometryForm : CmdForm :=
  { code := 0x0403, len := .fixed 12, masks := [0xF, 0x7FF, 0x1FFFFF]
    range := fun q => (if q.u32 0 < 4 ∨ 10 < q.u32 0 then [0] else []) ++ (if q.u32 4 = 0 ∨ 1024 < q.u32 4 then [4] else [])
      ++ (if q.u32 8 = 0 ∨ 2 ^ 20 < q.u32 8 then [8] else []) }

def geometryRow (q : Req) (s : State) : State × Answer :=
  if !s.seqOpen q.fn then (s, notPermitted)
  else if !(s.seqs.ofFn q.fn).isEmpty then (s, busy)
  else (s.modRec q.fn (fun r => { r with tppLog2 := BitVec.ofNat 4 (q.u32 0), planes := BitVec.ofNat 11 (q.u32 4), pagesMax := BitVec.ofNat 21 (q.u32 8) }), {})

/-- GEOMETRY_SET (R209). -/
def execGeometrySet (f : Fn) (m : Mb) (s : State) : Host.Outcome State Fault Refusal := .next (s.serve f m geometryForm geometryRow)

def waterForm : CmdForm :=
  { code := 0x0404, len := .fixed 12, masks := [0xF, 0xFFFFFFFF, 0xFFFFFFFF], owns := fun q _ => q.fn == 0 || q.u32 0 % 16 == q.fn
    range := fun q => if q.u32 4 < q.u32 8 then [8] else [] }

def waterRow (q : Req) (s : State) : State × Answer :=
  let f := q.u32 0
  if !s.seqOpen f then (s, notPermitted)
  else (s.modRec f (fun r => { r with highWater := BitVec.ofNat 32 (q.u32 4), lowWater := BitVec.ofNat 32 (q.u32 8) }), {})

/-- WATER_SET (R224). -/
def execWaterSet (f : Fn) (m : Mb) (s : State) : Host.Outcome State Fault Refusal := .next (s.serve f m waterForm waterRow)

/-- First and last frame of a request, as the frame table numbers them: tier, first, count at the given offsets. -/
def Req.frameRange (q : Req) (tier first count : Nat) : List Nat :=
  let lim := if q.u32 tier % 2 = 0 then fastFrames else pannierFrames
  (if lim ≤ q.u32 first then [first] else []) ++ (if q.u32 count = 0 ∨ lim < q.u32 first + q.u32 count then [count] else [])

def Req.frames (q : Req) (tier first count : Nat) : List Nat :=
  (List.range (q.u32 count)).map (fun i => (if q.u32 tier % 2 = 0 then 0 else fastFrames) + q.u32 first + i)

def grantForm : CmdForm :=
  { code := 0x0405, len := .fixed 16, pf0 := true, masks := [0xF, 1, 0x1FFFFFF, 0xFFFFFFFF], range := fun q => q.frameRange 4 8 12 }

/-- A frame may be granted to function f, but for the seal; a frame that a retirement has taken may not (R215, R175). -/
def State.grantable (s : State) (f e : Nat) : Bool :=
  let x := s.mem.ftGet s.pages.ft e
  x.st == ftHeld && (if isFast e then x.fn == f else tget .empty s.mem.fill (e - fastFrames) == .empty && !s.mem.retiredFrame (e - fastFrames))
    && !s.pages.scrubs.any (fun j => decide (j.first ≤ e) && decide (e < j.first + j.count))

/-- A frame lies as KV_SEALED asks: inside a range sealed to the function, or outside every sealed range (R215). -/
def State.sealFits (s : State) (f e : Nat) : Bool :=
  match s.mem.sealOf (ftAddr e) with
  | some i => (s.pageRec f).kvSealed && (s.mem.seal i).owner.toNat == f
  | none => !(s.pageRec f).kvSealed

/-- A frame granted: FREE, the function's, on its stack. -/
def State.grant (f e : Nat) (s : State) : Paged State :=
  match s.ftWrite e { count := 0, st := ftFree, fn := f, epoch := 0 } with
  | .error g => .error g
  | .ok s => s.pushFrame f e

/-- Prefetches that wait for a frame, the first of function f with its page; the rest of the list (R225). -/
def PageState.nextPrefetch (p : PageState) (f : Nat) : Option PageMove := p.prefetches.find? (fun m => m.fn == f)

def State.dropPrefetch (s : State) (m : PageMove) : State := { s with pages := { s.pages with prefetches := s.pages.prefetches.erase m } }

/-- The next prefetch of function f starts when a fast frame is free; pages no longer to be prefetched are passed over (R225, steps 1 and 2). The number bounds the list. -/
def State.feed (f : Nat) : Nat → State → Paged State
  | 0, s => .ok s
  | n + 1, s =>
    match s.pages.nextPrefetch f with
    | none => .ok s
    | some m =>
      if m.frames.isSome then .ok s
      else
        match s.leaf f m.page with
        | .error g => .error g
        | .ok none => State.feed f n (s.dropPrefetch m)
        | .ok (some l) =>
          match s.ftRead l.frame with
          | .error g => .error g
          | .ok x =>
            if !l.spilled || x.st != ftMapped || x.count != 1 then State.feed f n (s.dropPrefetch m)
            else if (s.pageRec f).freeFast = 0 then .ok s
            else
              match s.popFrame f true with
              | .error g => .error g
              | .ok (s, e) =>
                match s.ftWrite e { count := 0, st := ftMoving, fn := f, epoch := (s.pageRec f).stepEpoch.toNat } with
                | .error g => .error g
                | .ok s =>
                  .ok ({ s with pages := { s.pages with prefetches := mapIf (fun y => y == m) (fun y => { y with frames := some (l.frame, e) }) s.pages.prefetches } }.modRec f
                    (fun r => { r with occupancy := r.occupancy + 1 }))

/-- Prefetches of function f go on. -/
def State.feedPrefetch (f : Nat) (s : State) : Paged State := State.feed f (s.pages.prefetches.length + 1) s

def grantRow (q : Req) (s : State) : State × Answer :=
  let f := q.u32 0
  let es := q.frames 4 8 12
  let r := s.pageRec f
  let fast := q.u32 4 % 2 = 0
  if !s.serves f then (s, notPermitted)
  else if es.any (fun e => decide (fastFrames + s.rst.pannierFilled ≤ e)) then (s, busy)
  else if (s.tableUe es).isSome then pagedRow f s (.error ((s.tableUe es).getD 0))
  else if !es.all (s.grantable f) then (s, notPermitted)
  else if !es.all (s.sealFits f) then (s, { status := stSealed })
  else if (if fast then r.fastCap.toNat - r.freeFast.toNat else r.pannierCap.toNat - r.freePannier.toNat) < es.length then (s, { status := stNoMemory })
  else
    pagedRow f s (match pagedEach (State.grant f) es s with
      | .error g => .error g
      | .ok s => (match s.feedPrefetch f with
        | .error g => .error g
        | .ok s => .ok (s, {})))

/-- FRAME_GRANT (R215, R381). -/
def execFrameGrant (f : Fn) (m : Mb) (s : State) : Host.Outcome State Fault Refusal := .next (s.serve f m grantForm grantRow)

def scrubForm : CmdForm :=
  { code := 0x0406, len := .fixed 12, pf0 := true, accepts := true, masks := [1, 0x1FFFFFF, 0xFFFFFFFF], range := fun q => q.frameRange 0 4 8 }

def scrubRow (q : Req) (s : State) : State × Answer :=
  let es := q.frames 0 4 8
  let first := (if q.u32 0 % 2 = 0 then 0 else fastFrames) + q.u32 4
  if !s.pages.ftValid then (s, notPermitted)
  else if s.pages.scrubs.any (fun j => decide (j.first < first + q.u32 8) && decide (first < j.first + j.count)) then (s, busy)
  else if (s.tableUe es).isSome then (s.tableBad ((s.tableUe es).getD 0), { status := stUncorrectable })
  else if !es.all (fun e => (s.mem.ftGet s.pages.ft e).st == ftOrphaned) then (s, notPermitted)
  else ({ s with pages := { s.pages with scrubs := s.pages.scrubs ++ [{ first := first, count := q.u32 8, cmd := q.cmd }] } }, { status := stAccepted })

/-- FRAME_SCRUB (R228). -/
def execFrameScrub (f : Fn) (m : Mb) (s : State) : Host.Outcome State Fault Refusal := .next (s.serve f m scrubForm scrubRow)

/-- A frame scrubbed: zeros, HELD, FUNCTION 0; a pannier frame EMPTY (R228, R176). -/
def MemState.scrubFrame (m : MemState) (t : FtBase) (e : Nat) : MemState :=
  let m := (m.zero (ftAddr e) (ftAddr e + 65536)).ftPut t e { count := 0, st := ftHeld, fn := 0, epoch := 0 }
  if isFast e then m else { m with fill := tset .empty m.fill (e - fastFrames) .empty }

/-- An unreadable entry that an operation for no one function's service meets, if it meets one (R226; log 48). -/
def State.tableMet (s : State) (g : Option Nat) : State :=
  match g with
  | some g => s.tableBad g
  | none => s

/-- ORPHANS of a function clears once no ORPHANED frame names it (R350, R228), as far as all entries that may name it can be read. -/
def State.orphansLeft (f : Nat) (s : State) : State :=
  if (s.host.fn f).orphans && (s.framesUe f).isNone && (s.framesOf f (fun x => x.st == ftOrphaned)).isEmpty then
    { s with host := s.host.setFn f { s.host.fn f with orphans := false } }
  else s

/-- The oldest scrub is done. -/
def State.scrubbed (s : State) : State :=
  match s.pages.scrubs with
  | [] => s
  | j :: rest =>
    let s :=
      { s with
        mem := (List.range j.count).foldl (fun m i => m.scrubFrame s.pages.ft (j.first + i)) s.mem
        pages := { s.pages with scrubs := rest } }
    ((each (List.range 16) State.orphansLeft s).tableMet (s.framesUe 0)).complete j.cmd {}

/-- FRAME_SCRUB_DONE (R228). -/
def execFrameScrubDone (s : State) : Host.Outcome State Fault Refusal := .next (s.clocked (fun s => s.scrubbed))

def reenableForm : CmdForm := { code := 0x0407, len := .fixed 4, pf0 := true, accepts := true, masks := [0xF] }

def reenableRow (q : Req) (s : State) : State × Answer :=
  let f := q.u32 0
  if !s.pages.ftValid then (s, notPermitted)
  else if (s.pageRec f).enabled || s.pages.reenables.any (fun x => x.1 == f) then (s, busy)
  else ({ s with pages := { s.pages with reenables := s.pages.reenables ++ [(f, q.cmd)] } }, { status := stAccepted, names := f })

/-- PAGE_REENABLE (R229). -/
def execPageReenable (f : Fn) (m : Mb) (s : State) : Host.Outcome State Fault Refusal := .next (s.serve f m reenableForm reenableRow)

/-- Leaf entries of pages, those that map. -/
def State.leaves (f : Nat) : List Nat → State → Paged (List Leaf)
  | [], _ => .ok []
  | p :: l, s =>
    match s.leaf f p with
    | .error g => .error g
    | .ok x =>
      match State.leaves f l s with
      | .error g => .error g
      | .ok ls => .ok (x.toList ++ ls)

/-- Pages of all of a function's sequences but those whose pages are ORPHANED (R227, R229). -/
def State.fnPages (s : State) (f : Nat) : List Nat :=
  let r := s.pageRec f
  ((s.seqs.ofFn f).filter (fun i => !((s.seq i).st == .parkedHost && (s.seq i).parkReason == 3))).flatMap (fun i => seqPages r (s.seq i).vbase.toNat 0 r.pagesMax.toNat)

/-- Steps 1 to 5 of R229: COUNTs from the leaf entries, the frames no entry names FREE, ascending, on stacks built anew; a pannier frame among them is EMPTY again (R176). -/
def State.rebuild (s : State) (f : Nat) : Paged State :=
  match State.leaves f (s.fnPages f) s, s.frames f (fun x => x.st != ftHeld && x.st != ftOrphaned) with
  | .error g, _ => .error g
  | _, .error g => .error g
  | .ok ls, .ok free =>
    let named := ls.map (fun l => l.frame)
    let e := (s.pageRec f).stepEpoch.toNat
    let s := { s with pages := { s.pages with ring := tset [] s.pages.ring f [], ringHead := tset 0 s.pages.ringHead f 0 } }.modRec f (fun r => { r with freeFast := 0, freePannier := 0, quarantined := 0 })
    match pagedEach (fun x s => s.ftWrite x { count := named.count x, st := ftMapped, fn := f, epoch := e }) named.eraseDups s with
    | .error g => .error g
    | .ok s =>
      match pagedEach (State.freeFrame f) (free.filter (fun x => !named.contains x)) s with
      | .error g => .error g
      | .ok s =>
        .ok ({ s with pages := { s.pages with stopped := s.pages.stopped.erase f } }.modRec f (fun r => { r with
          occupancy := BitVec.ofNat 32 (named.eraseDups.filter isFast).length
          spilled := BitVec.ofNat 32 (named.eraseDups.filter (fun x => !isFast x)).length
          enabled := true }))

/-- A re-enable ends (R229, R226). -/
def State.reenabled (s : State) (f : Nat) : State :=
  match s.pages.reenables.find? (fun x => x.1 == f) with
  | none => s
  | some x =>
    let s := { s with pages := { s.pages with reenables := s.pages.reenables.erase x } }
    match s.rebuild f with
    | .ok s => s.complete x.2 {}
    | .error g => (s.stopService f g).complete x.2 { status := stUncorrectable, address := g, kind := 1 }

/-- PAGE_REENABLE_DONE (R229). -/
def execPageReenableDone (f : Fn) (s : State) : Host.Outcome State Fault Refusal := .next (s.clocked (fun s => s.reenabled f))

/-- 64 KiB copied between frames (R219, R224, R225). -/
def MemState.copyFrame (m : MemState) (a b : Nat) : MemState := m.write (ftAddr b) (m.read (ftAddr a) 65536)

/-- First uncorrectable grain of a frame. -/
def MemState.frameUe (m : MemState) (e : Nat) : Option Nat := m.ueIn (ftAddr e) 65536

/-- What waits for an acknowledgement (R213). -/
def State.await (s : State) (f : Nat) (release : List Nat) : State :=
  { s with pages := { s.pages with invalidations := s.pages.invalidations ++ [{ fn := f, release := release }] } }

/-- Every unit has acknowledged the oldest invalidation of function f: the frames it held back lose their references (R219 step 5, R224 step 6, R225 step 6). -/
def State.acked (s : State) (f : Nat) : State :=
  match s.pages.invalidations.find? (fun v => v.fn == f) with
  | none => s
  | some v =>
    { s with pages := { s.pages with invalidations := s.pages.invalidations.erase v } }.paged f (fun s =>
      match pagedEach (State.unref f) v.release s with
      | .error g => .error g
      | .ok s =>
        match s.sweepIdle f with
        | .error g => .error g
        | .ok s => s.feedPrefetch f)

/-- INVALIDATION_ACKED (R213). -/
def execInvalidationAcked (f : Fn) (s : State) : Host.Outcome State Fault Refusal := .next (s.clocked (fun s => s.acked f))

/-- Later of a frame's EPOCH and its sequence's LAST_USE, as an age behind STEP_EPOCH (R223). -/
def useAge (step : BitVec 16) (epoch : Nat) (last : BitVec 16) : Nat := min (step - BitVec.ofNat 16 epoch).toNat (step - last).toNat

/-- A spill candidate (R223): age, sequence, page, frame. -/
structure Spillable where
  age : Nat
  seq : Nat
  page : Nat
  frame : Nat
  deriving DecidableEq, Repr

/-- A copy on write reads the frame: it stays MAPPED throughout (R219). -/
def PageState.copied (p : PageState) (e : Nat) : Bool := p.appends.any (fun a => a.copies.any (fun c => c.source == e))

/-- Page p of sequence i, if it may be spilled. -/
def State.spillable (s : State) (f i p : Nat) : Paged (Option Spillable) :=
  match s.leaf f p with
  | .error g => .error g
  | .ok none => .ok none
  | .ok (some l) =>
    match s.ftRead l.frame with
    | .error g => .error g
    | .ok x =>
      let step := (s.pageRec f).stepEpoch
      let age := useAge step x.epoch (s.seq i).lastUse
      if isFast l.frame && x.st == ftMapped && x.count == 1 && !s.pages.copied l.frame && !s.pages.spillSkip.contains (f, p, (step - BitVec.ofNat 16 age).toNat) then
        .ok (some { age := age, seq := i, page := p, frame := l.frame })
      else .ok none

/-- The candidate a spill takes: the least recently used, the first of equals (R224). -/
def State.pickSpill (s : State) (f : Nat) : List (Nat × Nat) → Paged (Option Spillable)
  | [] => .ok none
  | (i, p) :: l =>
    match s.spillable f i p with
    | .error g => .error g
    | .ok a =>
      match s.pickSpill f l with
      | .error g => .error g
      | .ok b => .ok (match a, b with
        | some x, some y => if x.age < y.age then some y else some x
        | some x, none => some x
        | none, y => y)

/-- Pages of sequences that appear in no unretired list and not in the lookahead set (R223). A sequence whose append is under way counts as in the list being built (log 48); the pages of one whose function was reset are ORPHANED (R227). -/
def State.spillPages (s : State) (f : Nat) : List (Nat × Nat) :=
  let r := s.pageRec f
  ((s.seqs.ofFn f).filter (fun i =>
    !(s.seq i).listed && !(tget [] s.seqs.lookahead f).contains i && !((s.seq i).st == .parkedHost && (s.seq i).parkReason == 3)
      && !s.pages.appends.any (fun a => a.seq == i && !a.dropped))).flatMap (fun i =>
    (seqPages r (s.seq i).vbase.toNat 0 r.pagesMax.toNat).map (fun p => (i, p)))

/-- A prefetch of function f waits for a frame (R225). -/
def PageState.starved (p : PageState) (f : Nat) : Bool := ((p.nextPrefetch f).map (fun m => m.frames.isNone)).getD false && (p.pageRec f).freeFast == 0

/-- Whether function f spills: above HIGH_WATER, or as though it were while a prefetch starves, until at or below LOW_WATER (R224, R225). -/
def PageState.watch (p : PageState) (f : Nat) : PageState :=
  let r := p.pageRec f
  { p with spilling :=
      if decide (r.highWater < r.occupancy) || p.starved f then insertNat f p.spilling
      else if r.occupancy ≤ r.lowWater then p.spilling.erase f
      else p.spilling }

/-- Number of the page engine's own mover queue among the queues that fill pannier frames: no function's. -/
def pageQueue : Nat := 16

/-- The page engine's queue writes an EMPTY pannier frame, which is FILLING for it from then on (R176). -/
def MemState.spillFill (m : MemState) (x : Nat) : MemState :=
  if tget .empty m.fill x = .empty then { m with fill := tset .empty m.fill x (.filling pageQueue) } else m

/-- The fence of the page engine's queue: its frame is FILLED (R176). -/
def MemState.spillFilled (m : MemState) (x : Nat) : MemState :=
  if tget .empty m.fill x = .filling pageQueue then { m with fill := tset .empty m.fill x .filled } else m

/-- Steps 1 and 2 of R224. -/
def State.beginSpill (s : State) (f : Nat) : Paged State :=
  match s.pickSpill f (s.spillPages f) with
  | .error g => .error g
  | .ok none => .ok s
  | .ok (some c) =>
    if (s.pageRec f).freePannier = 0 then
      .ok ({ s with pages := { s.pages with spillStopped := insertNat f s.pages.spillStopped } }.pageEvent f 3 stNoMemory 0 0 none)
    else
      match s.popFrame f false with
      | .error g => .error g
      | .ok (s, e) =>
        match s.ftWrite e { count := 0, st := ftMoving, fn := f, epoch := (s.pageRec f).stepEpoch.toNat } with
        | .error g => .error g
        | .ok s =>
          match s.ftRead c.frame with
          | .error g => .error g
          | .ok x =>
            match s.ftWrite c.frame { x with st := ftMoving } with
            | .error g => .error g
            | .ok s => .ok { s with
                mem := s.mem.spillFill (e - fastFrames)
                pages := { s.pages with spills := s.pages.spills ++ [{ fn := f, seq := c.seq, page := c.page, frames := some (c.frame, e) }] } }

/-- SPILL_START: one spill at a time (R224). -/
def State.spillStart (s : State) (f : Nat) : State :=
  let s := { s with pages := s.pages.watch f }
  if !s.serves f || s.pages.spills.any (fun m => m.fn == f) || s.pages.spillStopped.contains f || !s.pages.spilling.contains f then s
  else s.paged f (fun s => s.beginSpill f)

/-- SPILL_START (R223, R224). -/
def execSpillStart (f : Fn) (s : State) : Host.Outcome State Fault Refusal := .next (s.clocked (fun s => s.spillStart f))

/-- The copy of a spill ended with an error at an address (R224): F is MAPPED again, the new frame goes through quarantine, the page is left alone until its last use changes. -/
def State.spillFailed (f : Nat) (m : PageMove) (a b : Nat) (e : Args) (s : State) : Paged State :=
  match s.ftRead a with
  | .error g => .error g
  | .ok x =>
    match s.ftWrite a { x with st := ftMapped } with
    | .error g => .error g
    | .ok s =>
      let step := (s.pageRec f).stepEpoch
      let age := useAge step x.epoch (s.seq m.seq).lastUse
      let s := { (s.noteBad e) with pages := { s.pages with spillSkip := s.pages.spillSkip ++ [(f, m.page, (step - BitVec.ofNat 16 age).toNat)] } }
      match { s with mem := s.mem.spillFilled (b - fastFrames) }.quarantine f b with
      | .error g => .error g
      | .ok s => .ok (s.pageEvent f 2 e.status m.seq 0 (some e.address))

/-- Steps 3 to 5 of R224: the page now lies in the pannier tier. -/
def State.spillMoved (f : Nat) (m : PageMove) (a b : Nat) (s : State) : Paged State :=
  let s := { s with mem := (s.mem.copyFrame a b).spillFilled (b - fastFrames) }
  match s.ftWrite b { count := 1, st := ftMapped, fn := f, epoch := (s.pageRec f).stepEpoch.toNat } with
  | .error g => .error g
  | .ok s =>
    match s.setLeaf f m.page (some { frame := b, write := false, spilled := true }) with
    | .error g => .error g
    | .ok s => .ok ((s.modRec f (fun r => { r with spilled := r.spilled + 1, spillCount := satAdd r.spillCount 1 })).await f [a])

/-- How the copy of a spill fails: an uncorrectable grain (R224), or a frame that another queue has written meanwhile (R176; log 48). Frames whose sealing differs, by a seal made or removed since the grant, are no failure: the page is copied as it reads (DESIGN CHOICE, log 46: R215 gives no outcome for such a page). -/
def MemState.spillError (m : MemState) (a b : Nat) : Option Args :=
  match m.frameUe a with
  | some g => some (accErr stUncorrectable 0 g 1)
  | none => if tget .empty m.fill (b - fastFrames) = .filling pageQueue then none else some (accErr stNotPermitted 0 (ftAddr b) 1)

/-- SPILL_COPY_DONE. -/
def State.spillDone (s : State) (f : Nat) : State :=
  match s.pages.spills.find? (fun m => m.fn == f) with
  | none => s
  | some m =>
    match m.frames with
    | none => s
    | some (a, b) =>
      { s with pages := { s.pages with spills := s.pages.spills.erase m } }.paged f (fun s =>
        match s.mem.spillError a b with
        | some e => State.spillFailed f m a b e s
        | none => State.spillMoved f m a b s)

/-- SPILL_COPY_DONE (R224, R226). -/
def execSpillCopyDone (f : Fn) (s : State) : Host.Outcome State Fault Refusal := .next (s.clocked (fun s => s.spillDone f))

/-- The copy of a prefetch met an uncorrectable grain: the page stays spilled, the frame goes back (log 23). -/
def State.prefetchFailed (f : Nat) (m : PageMove) (b g : Nat) (s : State) : Paged State :=
  match State.freeFrame f b ({ s with mem := s.mem.note g false .uncorrectable }.modRec f (fun r => { r with occupancy := r.occupancy - 1 })) with
  | .error g => .error g
  | .ok s => .ok (s.pageEvent f 2 stUncorrectable m.seq 0 (some g))

/-- Steps 2 to 5 of R225: the page lies in the fast tier again. -/
def State.prefetchMoved (f : Nat) (m : PageMove) (a b : Nat) (s : State) : Paged State :=
  match { s with mem := s.mem.copyFrame a b }.ftWrite b { count := 1, st := ftMapped, fn := f, epoch := (s.pageRec f).stepEpoch.toNat } with
  | .error g => .error g
  | .ok s =>
    match s.setLeaf f m.page (some { frame := b, write := true, spilled := false }) with
    | .error g => .error g
    | .ok s => .ok ((s.modRec f (fun r => { r with prefetchCount := satAdd r.prefetchCount 1 })).await f [a])

/-- PREFETCH_COPY_DONE. -/
def State.prefetchDone (s : State) (f : Nat) : State :=
  match s.pages.nextPrefetch f with
  | none => s
  | some m =>
    match m.frames with
    | none => s
    | some (a, b) =>
      (s.dropPrefetch m).paged f (fun s =>
        match (match s.mem.frameUe a with
          | some g => State.prefetchFailed f m b g s
          | none => State.prefetchMoved f m a b s) with
        | .error g => .error g
        | .ok s => s.feedPrefetch f)

/-- PREFETCH_COPY_DONE (R225). -/
def execPrefetchCopyDone (f : Fn) (s : State) : Host.Outcome State Fault Refusal := .next (s.clocked (fun s => s.prefetchDone f))

/-- Acknowledgements of function f, all of them. The number bounds them. -/
def State.ackAll (f : Nat) : Nat → State → State
  | 0, s => s
  | n + 1, s => State.ackAll f n (s.acked f)

/-- An operation on pages that are MOVING waits until the move has completed (Table 9.6). -/
def State.settleMoves (s : State) (f : Nat) (named : Nat → Bool) : State :=
  let s := if s.pages.spills.any (fun m => m.fn == f && named m.page) then s.spillDone f else s
  let s := if ((s.pages.nextPrefetch f).map (fun m => m.frames.isSome && named m.page)).getD false then s.prefetchDone f else s
  State.ackAll f s.pages.invalidations.length s

/-- A page lies in pages p0 to p1 - 1 of a sequence of this function. -/
def pageIn (r : PageRec) (vbase p0 p1 p : Nat) : Bool := (seqPages r vbase p0 p1).contains p

/-- Sequence i is the caller's, or nobody's (R231, R333). -/
def State.ownsSeq (s : State) (q : Req) (i : Nat) : Bool := (s.seq (i % 4096)).st == .free || (s.seq (i % 4096)).fn.toNat == q.fn

/-- A waiting share names sequence i, as its source or its target: another command on it is answered BUSY (R331). -/
def State.shareHolds (s : State) (i : Nat) : Bool := s.pages.shareWaits.any (fun w => w.source == i || w.target == i)

/-- How a command on sequence i fares before its own checks: the caller's commands are not taken (R214, R226), or a waiting share holds the sequence (R331). -/
def State.seqRefusal (s : State) (q : Req) (i : Nat) : Option Answer :=
  if !s.seqOpen q.fn then some notPermitted
  else if s.shareHolds i then some busy
  else none


/-- Sequences whose pages a command may change: not FREE, not RETIRING, their pages not ORPHANED (R231). -/
def SeqEntry.live (e : SeqEntry) : Bool := e.st != .free && e.st != .retiring && !(e.st == .parkedHost && e.parkReason == 3)

/-- Words holding a sequence index: below 4,096. -/
def seqIx : Nat := 0xFFF

def pageReleaseForm : CmdForm := { code := 0x040E, len := .fixed 12, masks := [seqIx, 0xFFFFFFFF, 0xFFFFFFFF], owns := fun q s => s.ownsSeq q (q.u32 0), range := fun q => if q.u32 8 < q.u32 4 then [8] else [] }

/-- Pages of a list released, and what follows a release (R221, R222). -/
def State.releaseAll (f : Nat) (ps : List Nat) (s : State) : Paged State :=
  match pagedEach (State.releasePage f) ps s with
  | .error g => .error g
  | .ok s =>
    match s.sweepIdle f with
    | .error g => .error g
    | .ok s => s.feedPrefetch f

def pageReleaseRow (q : Req) (s : State) : State × Answer :=
  let i := q.u32 0
  let r := s.pageRec q.fn
  let e := s.seq i
  match s.seqRefusal q i with
  | some a => (s, a)
  | none =>
    if !s.serves q.fn then (s, notPermitted)
    else if !e.live then (s, { status := stSequenceState })
    else if r.pagesMax.toNat < q.u32 8 then (s, badField 8)
    else
      let s := s.settleMoves q.fn (pageIn r e.vbase.toNat (q.u32 4) (q.u32 8))
      if !s.serves q.fn then (s, notPermitted)
      else pagedRow q.fn s (match State.releaseAll q.fn (seqPages r e.vbase.toNat (q.u32 4) (q.u32 8)) s with
        | .error g => .error g
        | .ok s => .ok (s, {}))

/-- PAGE_RELEASE (R221, R222). -/
def execPageRelease (f : Fn) (m : Mb) (s : State) : Host.Outcome State Fault Refusal := .next (s.serve f m pageReleaseForm pageReleaseRow)

/-- A page of a share: in the source and in the target. -/
structure SharePage where
  src : Nat
  dst : Nat
  deriving DecidableEq, Repr

def sharePages (r : PageRec) (sv tv p0 p1 : Nat) : List SharePage :=
  (seqPages r sv p0 p1).zipWith (fun a b => { src := a, dst := b }) (seqPages r tv p0 p1)

/-- Limit and target checks of R220 on one page; a status, or none. -/
def State.shareCheck (f : Nat) (x : SharePage) (s : State) : Paged (Nat × Nat) :=
  match s.leaf f x.src, s.leaf f x.dst with
  | .error g, _ => .error g
  | _, .error g => .error g
  | .ok none, .ok t => .ok (0, b2n t.isSome)
  | .ok (some l), .ok t =>
    match s.ftRead l.frame with
    | .error g => .error g
    | .ok e => .ok (b2n (decide (65535 ≤ e.count)), b2n t.isSome)

/-- The check over a range: the limit first, then an occupied target (R220). -/
def State.shareChecks (f : Nat) (s : State) : List SharePage → Paged (Nat × Nat)
  | [] => .ok (0, 0)
  | x :: l =>
    match State.shareCheck f x s, State.shareChecks f s l with
    | .error g, _ => .error g
    | _, .error g => .error g
    | .ok a, .ok b => .ok (max a.1 b.1, max a.2 b.2)

/-- One page shared (R220). -/
def State.sharePage (f : Nat) (x : SharePage) (s : State) : Paged State :=
  match s.leaf f x.src with
  | .error g => .error g
  | .ok none => .ok s
  | .ok (some l) =>
    match s.ftRead l.frame with
    | .error g => .error g
    | .ok e =>
      match s.ftWrite l.frame { e with count := e.count + 1 } with
      | .error g => .error g
      | .ok s =>
        match s.setLeaf f x.dst (some { l with write := false }) with
        | .error g => .error g
        | .ok s => s.setLeaf f x.src (some { l with write := false })

/-- The whole share, or the status that refuses it. -/
def State.doShare (f : Nat) (w : ShareWait) (s : State) : Paged (State × Nat) :=
  let r := s.pageRec f
  let ps := sharePages r (s.seq w.source).vbase.toNat (s.seq w.target).vbase.toNat w.first w.last
  if !(s.seq w.source).live || !(s.seq w.target).live then .ok (s, stSequenceState)
  else
    match State.shareChecks f s ps with
    | .error g => .error g
    | .ok (lim, occ) =>
      if lim ≠ 0 then .ok (s, stShareLimit)
      else if occ ≠ 0 then .ok (s, stSequenceState)
      else
        match pagedEach (State.sharePage f) ps s with
        | .error g => .error g
        | .ok s => .ok (s, stOk)

def shareForm : CmdForm :=
  { code := 0x040D, len := .fixed 16, masks := [seqIx, seqIx, 0xFFFFFFFF, 0xFFFFFFFF]
    owns := fun q s => s.ownsSeq q (q.u32 0) && s.ownsSeq q (q.u32 4), range := fun q => if q.u32 12 < q.u32 8 then [12] else [] }

/-- Moves of a share's pages, on either side, completed first (Table 9.6). -/
def State.settleShare (s : State) (f : Nat) (w : ShareWait) : State :=
  let r := s.pageRec f
  s.settleMoves f (fun p => pageIn r (s.seq w.source).vbase.toNat w.first w.last p || pageIn r (s.seq w.target).vbase.toNat w.first w.last p)

/-- A share has to wait: its source is in a list that has not retired (R220), or an append for one, of its source or its target, is under way (DEDUCED, log 48). -/
def State.shareEarly (s : State) (w : ShareWait) : Bool :=
  (s.seq w.source).listed || s.pages.appends.any (fun a => !a.dropped && (a.seq == w.source || a.seq == w.target))

def shareRow (q : Req) (s : State) : State × Answer :=
  let w : ShareWait := { source := q.u32 0, target := q.u32 4, first := q.u32 8, last := q.u32 12, cmd := q.cmd }
  match s.seqRefusal q w.source, s.seqRefusal q w.target with
  | some a, _ => (s, a)
  | none, some a => (s, a)
  | none, none =>
    if !s.serves q.fn then (s, notPermitted)
    else if (s.pageRec q.fn).pagesMax.toNat < w.last then (s, badField 12)
    else
      let s := s.settleShare q.fn w
      if !s.serves q.fn then (s, notPermitted)
      else pagedRow q.fn s (match State.doShare q.fn w s with
        | .error g => .error g
        | .ok (t, st) =>
          if st = stOk ∧ s.shareEarly w = true then
            .ok ({ s with pages := { s.pages with shareWaits := s.pages.shareWaits ++ [w] } }, { status := stAccepted })
          else .ok (t, { status := st }))

/-- PAGE_SHARE (R220). -/
def execPageShare (f : Fn) (m : Mb) (s : State) : Host.Outcome State Fault Refusal := .next (s.serve f m shareForm shareRow)

/-- A share that waited is carried out once its source is in no unretired list (R220), unless the service has stopped meanwhile (R226). -/
def State.shareLate (s : State) (w : ShareWait) : State :=
  let f := w.cmd.fn
  if !s.serves f then { s with pages := { s.pages with shareWaits := s.pages.shareWaits.erase w } }.complete w.cmd { status := stNotPermitted }
  else
    let s := { s with pages := { s.pages with shareWaits := s.pages.shareWaits.erase w } }.settleShare f w
    if !s.serves f then s.complete w.cmd { status := stNotPermitted }
    else
    match State.doShare f w s with
    | .ok (s, st) => s.complete w.cmd { status := st }
    | .error g => (s.stopService f g).complete w.cmd { status := stUncorrectable, address := g, kind := 1 }

/-- Shares of function f whose wait is over. -/
def State.sharesDue (s : State) (f : Nat) : State :=
  each (s.pages.shareWaits.filter (fun w => w.cmd.fn == f && !s.shareEarly w)) (fun w s => s.shareLate w) s

end Sys2Proof.Machine
end

