-- ==== Sys2Proof/Machine/Sequences.lean ====
section
/-! DEFINITION. The active sequence table and the brewer (R210, R218, R219, R230 to R238): sequences, appends, brew lists. -/

namespace Sys2Proof.Machine

def createForm : CmdForm :=
  { code := 0x0408, len := .fixed 24, masks := [7, 0x1FFFF, 0x1FFFF, 0xFFFFFFFF, 0xFFFFFFFF, 0xFFFF]
    range := fun q => (if q.u32 4 = 0 ∨ 65536 < q.u32 4 then [4] else []) ++ (if q.u32 4 < q.u32 8 then [8] else [])
      ++ (if q.u32 16 % 65536 = 0 then [] else [16]) }

/-- Length in bytes of a sequence's range (R210). -/
def PageRec.rangeLen (r : PageRec) : Nat := r.planes.toNat * r.pagesMax.toNat * 65536

/-- The function maps page p, at either level: the entry that maps it is VALID, whatever its frame (R210). -/
def State.mapped (s : State) (f p : Nat) : Paged Bool :=
  let va := 65536 * p
  let root := 65536 * (s.pageRec f).root.toNat
  if !s.ownTable f root then .ok false
  else
    match s.pgRead (root + 8 * field va 47 42) 8 with
    | .error g => .error g
    | .ok e =>
      match (tablePage e).filter (s.ownTable f) with
      | none => .ok false
      | some t =>
        match s.pgRead (t + 8 * field va 41 29) 8 with
        | .error g => .error g
        | .ok e =>
          if bit e 0 && bit e 1 then .ok true
          else
            match (tablePage e).filter (s.ownTable f) with
            | none => .ok false
            | some t =>
              match s.pgRead (t + 8 * field va 28 16) 8 with
              | .error g => .error g
              | .ok e => .ok (bit e 0)

/-- Some page of a list is mapped. -/
def State.anyMapped (f : Nat) (s : State) : List Nat → Paged Bool
  | [] => .ok false
  | p :: l =>
    match s.mapped f p with
    | .error g => .error g
    | .ok true => .ok true
    | .ok false => State.anyMapped f s l

/-- A range at VBASE is free for a new sequence (R210). While the geometry is not set, PLANES and PAGES_MAX being 0, the range is empty, and free (DESIGN CHOICE, log 46). -/
def State.rangeFree (s : State) (f vbase : Nat) : Paged Bool :=
  let r := s.pageRec f
  let n := r.rangeLen
  if decide (vbase + n ≤ 2 ^ 48) && (s.seqs.ofFn f).all (fun i => let v := (s.seq i).vbase.toNat; decide (vbase + n ≤ v) || decide (v + n ≤ vbase)) then
    match State.anyMapped f s (seqPages r vbase 0 r.pagesMax.toNat) with
    | .error g => .error g
    | .ok b => .ok (!b)
  else .ok false

/-- SEQ_CREATE, its range once found free. -/
def createAt (q : Req) (s : State) : State × Answer :=
  let f := q.fn
  if (s.ctxOf f).seqQuota.toNat ≤ (s.seqs.ofFn f).length then (s, { status := stNoMemory })
  else
    match (List.range 4096).find? (fun i => (s.seq i).st == .free) with
    | none => (s, { status := stNoMemory })
    | some i =>
      let e : SeqEntry :=
        { st := .active, priority := BitVec.ofNat 3 (q.u32 0), fn := BitVec.ofNat 4 f, stepTokens := BitVec.ofNat 17 (q.u32 4), append := BitVec.ofNat 17 (q.u32 8)
          lastUse := (s.pageRec f).stepEpoch, vbase := BitVec.ofNat 48 (q.u64 16), user := BitVec.ofNat 32 (q.u32 12) }
      (s.modSeq i (fun _ => e), { reply := natLe 4 i })

def createRow (q : Req) (s : State) : State × Answer :=
  let f := q.fn
  if !s.serves f then (s, notPermitted)
  else
    pagedRow f s (match s.rangeFree f (q.u64 16) with
      | .error g => .error g
      | .ok ok => .ok (if ok then createAt q s else (s, badField 16)))

/-- SEQ_CREATE (R231, R232). -/
def execSeqCreate (f : Fn) (m : Mb) (s : State) : Host.Outcome State Fault Refusal := .next (s.serve f m createForm createRow)

/-- Checks common to the commands that name one sequence; then the state it must be in (R231). -/
def seqRow (ok : SeqEntry → Bool) (act : Nat → Req → State → State × Answer) (q : Req) (s : State) : State × Answer :=
  let i := q.u32 0
  match s.seqRefusal q i with
  | some a => (s, a)
  | none => if ok (s.seq i) then act i q s else (s, { status := stSequenceState })

/-- ACTIVE or PARKED_NOPAGE. -/
def SeqEntry.runs (e : SeqEntry) : Bool := e.st == .active || e.st == .parkedNoPage

def setForm : CmdForm :=
  { code := 0x0409, len := .fixed 24, owns := fun q s => s.ownsSeq q (q.u32 0), masks := [seqIx, 0xF, 7, 0x1FFFF, 0x1FFFF, 0xFFFFFFFF]
    range := fun q => if bit (q.u32 4) 1 && (q.u32 12 == 0 || decide (65536 < q.u32 12)) then [12] else [] }

/-- The entry with the masked fields taken from the request. -/
def SeqEntry.with (e : SeqEntry) (q : Req) : SeqEntry :=
  { e with
    priority := if bit (q.u32 4) 0 then BitVec.ofNat 3 (q.u32 8) else e.priority
    stepTokens := if bit (q.u32 4) 1 then BitVec.ofNat 17 (q.u32 12) else e.stepTokens
    append := if bit (q.u32 4) 2 then BitVec.ofNat 17 (q.u32 16) else e.append
    user := if bit (q.u32 4) 3 then BitVec.ofNat 32 (q.u32 20) else e.user }

def setAct (i : Nat) (q : Req) (s : State) : State × Answer :=
  let e := (s.seq i).with q
  if e.stepTokens < e.append then (s, badField (if bit (q.u32 4) 2 then 16 else 12)) else (s.modSeq i (fun _ => e), {})

/-- SEQ_SET (R231). -/
def execSeqSet (f : Fn) (m : Mb) (s : State) : Host.Outcome State Fault Refusal := .next (s.serve f m setForm (seqRow SeqEntry.runs setAct))

def seqForm (code : Nat) : CmdForm := { code := code, len := .fixed 4, masks := [seqIx], owns := fun q s => s.ownsSeq q (q.u32 0) }

/-- SEQ_PARK (R231). -/
def execSeqPark (f : Fn) (m : Mb) (s : State) : Host.Outcome State Fault Refusal :=
  .next (s.serve f m (seqForm 0x040A) (seqRow SeqEntry.runs (fun i _ s => (s.modSeq i (fun e => { e with st := .parkedHost, parkReason := 1 }), {}))))

/-- Parked by the host, an uncorrectable grain or a core reset. -/
def SeqEntry.resumable (e : SeqEntry) : Bool := e.st == .parkedHost && e.parkReason != 3

/-- SEQ_RESUME (R231). -/
def execSeqResume (f : Fn) (m : Mb) (s : State) : Host.Outcome State Fault Refusal :=
  .next (s.serve f m (seqForm 0x040B) (seqRow SeqEntry.resumable (fun i _ s => (s.modSeq i (fun e => { e with st := .active, parkReason := 0 }), {}))))

/-- A RETIRING sequence in no unretired list becomes FREE at once (R231). -/
def State.freeSeq (s : State) (i : Nat) : State :=
  if (s.seq i).st = .retiring ∧ (s.seq i).listed = false then s.modSeq i (fun e => { e with st := .free }) else s

/-- An append under way for sequence i will not take place. -/
def State.dropAppend (s : State) (i : Nat) : State :=
  { s with pages := { s.pages with appends := mapIf (fun a => a.seq == i) (fun a => { a with dropped := true }) s.pages.appends } }

/-- Lists not yet built consider sequence i no more: its index may come to name another (R231, R235). -/
def State.forget (s : State) (f i : Nat) : State :=
  { s with seqs := { s.seqs with lists := tmod [] s.seqs.lists f (fun ls => ls.map (fun l =>
    { l with todo := l.todo.filter (· != i), asOpened := l.asOpened.filter (fun x => x.1 != i) })) } }

/-- A sequence retires (R221, R231); one whose pages are ORPHANED has none to release, and needs no page engine. -/
def retireSeqAct (i : Nat) (q : Req) (s : State) : State × Answer :=
  let e := s.seq i
  let r := s.pageRec q.fn
  let all := seqPages r e.vbase.toNat 0 r.pagesMax.toNat
  let gone := e.st == .parkedHost && e.parkReason == 3
  let s := if gone || !s.serves q.fn then s else s.settleMoves q.fn all.contains
  if !gone && !s.serves q.fn then (s, notPermitted)
  else
    pagedRow q.fn s (match (if gone then .ok s else State.releaseAll q.fn all s) with
      | .error g => .error g
      | .ok s => .ok ((((s.dropAppend i).forget q.fn i).modSeq i (fun e => { e with st := .retiring })).freeSeq i, {}))

/-- SEQ_RETIRE (R221, R231). -/
def execSeqRetire (f : Fn) (m : Mb) (s : State) : Host.Outcome State Fault Refusal :=
  .next (s.serve f m (seqForm 0x040C) (seqRow (fun e => e.st != .free && e.st != .retiring) retireSeqAct))

/-- log2 of a sequence's bucket (R234). -/
def bucketLog2 (stepTokens : Nat) : Nat := max 4 (Nat.log2 (2 * stepTokens - 1))

/-- One function's list that is being built: the oldest (R235). -/
def SeqState.building (q : SeqState) (f : Nat) : Option BrewList := (tget [] q.lists f).find? (fun l => l.phase == .open)

def SeqState.modList (q : SeqState) (f : Nat) (epoch : BitVec 16) (g : BrewList → BrewList) : SeqState :=
  { q with lists := tmod [] q.lists f (fun l => mapIf (fun x => x.epoch == epoch) g l) }

def State.modList (s : State) (f : Nat) (epoch : BitVec 16) (g : BrewList → BrewList) : State := { s with seqs := s.seqs.modList f epoch g }

/-- Sequence a goes before sequence b in list e (R235). -/
def seqBefore (q : SeqState) (e : BitVec 16) (a b : Nat) : Bool :=
  let x := q.seq a
  let y := q.seq b
  decide (y.priority < x.priority) || (x.priority == y.priority && (decide (e - y.lastUse < e - x.lastUse) || (x.lastUse == y.lastUse && decide (a < b))))

/-- ACTIVE sequences of function f in the brewer's order. -/
def SeqState.brewOrder (q : SeqState) (f : Nat) (e : BitVec 16) : List Nat :=
  ((q.ofFn f).filter (fun i => (q.seq i).st == .active)).foldl (fun l i => insertBy (seqBefore q e) i l) []

/-- Ring distance of two dies (R16). -/
def ringDist (a b : Nat) : Nat := let d := (a + 4 - b) % 4; min d (4 - d)

/-- Clusters that qualify for function f: an available core of CORE_MASK (R235). -/
def State.qualifies (s : State) (f c : Nat) : Bool := (List.range 16).any (fun i => (s.ctxOf f).hasCore (16 * c + i) && s.available (16 * c + i))

/-- Clusters by ring distance from a die, then by number. -/
def clustersFrom (die : Nat) : List Nat := (List.range 3).flatMap (fun d => (List.range 16).filter (fun c => ringDist die (c / 4) == d))

/-- The first fast frame that pages of function f map, in the order given. -/
def State.firstFast (f : Nat) (s : State) : List Nat → Paged (Option Nat)
  | [] => .ok none
  | p :: l =>
    match s.leaf f p with
    | .error g => .error g
    | .ok x =>
      match (x.map (fun y => y.frame)).filter isFast with
      | some e => .ok (some e)
      | none => State.firstFast f s l

/-- First fast frame a sequence maps, in plane-then-page order. -/
def State.firstFrame (s : State) (f i : Nat) : Paged (Option Nat) :=
  let r := s.pageRec f
  State.firstFast f s (seqPages r (s.seq i).vbase.toNat 0 r.pagesMax.toNat)

/-- clusters(s) of R235. -/
def State.clusterOrder (s : State) (f i : Nat) : Paged (List Nat) :=
  let e := s.seq i
  let home := e.home.toNat
  if e.homeValid then .ok ((home :: (clustersFrom (home / 4)).filter (· != home)).filter (s.qualifies f))
  else
    match s.firstFrame f i with
    | .error g => .error g
    | .ok x => .ok ((clustersFrom ((x.map (fun x => (s.mem.placeFast (ftAddr x)).1 / 128)).getD 0)).filter (s.qualifies f))

/-- Entries and padded tokens of section c so far. -/
def sectionFits (r : CtxRec) (placed : List Placed) (c pad : Nat) : Bool :=
  let l := placed.filter (fun p => p.cluster == c)
  decide (l.length < r.clusterEntries.toNat) && decide ((l.map (fun p => 2 ^ p.bucketLog2)).sum + pad ≤ r.tokenCap.toNat)

/-- Pages of every plane that hold tokens a to b - 1. -/
def tokenPages (r : PageRec) (vbase a b : Nat) : List Nat :=
  if b ≤ a then [] else seqPages r vbase (a / 2 ^ r.tppLog2.toNat) ((b - 1) / 2 ^ r.tppLog2.toNat + 1)

/-- A page the step needs is spilled or MOVING (R218, R235). -/
def State.absent (f : Nat) (s : State) : List Nat → Paged Bool
  | [] => .ok false
  | p :: l =>
    match s.leaf f p with
    | .error g => .error g
    | .ok none => State.absent f s l
    | .ok (some x) =>
      match s.ftRead x.frame with
      | .error g => .error g
      | .ok e => if x.spilled || e.st == ftMoving then .ok true else State.absent f s l

/-- The pages of an append by class (R218): unmapped, shared with their frames, and mapped read-only with COUNT 1. -/
structure Classes where
  fresh : List Nat := []
  shared : List (Nat × Nat) := []
  writable : List Nat := []
  deriving DecidableEq, Repr

def State.classify (f : Nat) (s : State) : List Nat → Paged Classes
  | [] => .ok {}
  | p :: l =>
    match State.classify f s l, s.leaf f p with
    | .error g, _ => .error g
    | _, .error g => .error g
    | .ok c, .ok none => .ok { c with fresh := p :: c.fresh }
    | .ok c, .ok (some x) =>
      match s.ftRead x.frame with
      | .error g => .error g
      | .ok e =>
        .ok (if 1 < e.count then { c with shared := (p, x.frame) :: c.shared }
          else if x.write then c else { c with writable := p :: c.writable })

/-- An unmapped page is mapped to its new frame; if something maps it by now, the frame goes back (R218). -/
def State.commitFresh (f : Nat) (x : Nat × Nat) (s : State) : Paged State :=
  match s.leaf f x.1 with
  | .error g => .error g
  | .ok (some _) => s.pushFrame f x.2
  | .ok none =>
    match s.ftWrite x.2 { count := 1, st := ftMapped, fn := f, epoch := (s.pageRec f).stepEpoch.toNat } with
    | .error g => .error g
    | .ok s =>
      match s.setLeaf f x.1 (some { frame := x.2, write := true, spilled := false }) with
      | .error g => .error g
      | .ok s => .ok (s.modRec f (fun r => { r with occupancy := r.occupancy + 1 }))

/-- A frame set MOVING goes back to the free stack. -/
def State.returnMoving (f e : Nat) (s : State) : Paged State := State.freeFrame f e (s.modRec f (fun r => { r with occupancy := r.occupancy - 1 }))

/-- Steps 3 to 5 of R219: the new frame keeps the EPOCH of step 1, the page is remapped, and the old frame's reference goes once the units have acknowledged. -/
def State.commitCopy (f : Nat) (c : CowCopy) (s : State) : Paged State :=
  match s.leaf f c.page with
  | .error g => .error g
  | .ok l =>
    if l.map (fun x => x.frame) ≠ some c.source then State.returnMoving f c.target s
    else
      match s.ftRead c.target with
      | .error g => .error g
      | .ok x =>
      match s.ftWrite c.target { x with count := 1, st := ftMapped } with
      | .error g => .error g
      | .ok s =>
        match s.setLeaf f c.page (some { frame := c.target, write := true, spilled := false }) with
        | .error g => .error g
        | .ok s => .ok ((s.modRec f (fun r => { r with cowCount := satAdd r.cowCount 1 })).await f [c.source])

/-- A page with COUNT 1 gains WRITE: one that a share has meanwhile given a second reference does not (R218, R220). -/
def State.commitWrite (f p : Nat) (s : State) : Paged State :=
  match s.leaf f p with
  | .error g => .error g
  | .ok none => .ok s
  | .ok (some l) =>
    match s.ftRead l.frame with
    | .error g => .error g
    | .ok x => if x.count = 1 ∧ x.st = ftMapped ∧ l.spilled = false then s.setLeaf f p (some { l with write := true }) else .ok s

/-- The commit phase of R218. -/
def State.commitAppend (a : Append) (s : State) : Paged State :=
  match pagedEach (State.commitFresh a.fn) a.fresh s with
  | .error g => .error g
  | .ok s =>
    match pagedEach (State.commitCopy a.fn) a.copies s with
    | .error g => .error g
    | .ok s => pagedEach (State.commitWrite a.fn) a.writable s

/-- Every frame popped goes back, as it came (R219). -/
def State.undoAppend (a : Append) (s : State) : Paged State :=
  pagedEach (fun e s => if a.copies.any (fun c => c.target == e) then State.returnMoving a.fn e s else s.pushFrame a.fn e) a.popped.reverse s

/-- A sequence's entry with the fields a SEQ_SET sets as they stood when the list opened (R231). -/
def BrewList.entry (l : BrewList) (i : Nat) (e : SeqEntry) : SeqEntry :=
  match l.asOpened.find? (fun x => x.1 == i) with
  | some x => { e with stepTokens := x.2.1, append := x.2.2.1, user := x.2.2.2 }
  | none => e

/-- Sequence i as function f's list being built sees it. -/
def State.brewSeq (s : State) (f i : Nat) : SeqEntry := ((s.seqs.building f).map (fun l => l.entry i (s.seq i))).getD (s.seq i)

/-- Sequence i takes its place in section c of the list being built (R235). -/
def State.place (s : State) (f i c : Nat) : State :=
  match s.seqs.building f with
  | none => s
  | some l =>
    let e := l.entry i (s.seq i)
    let p : Placed :=
      { seq := i, cluster := c, bucketLog2 := bucketLog2 e.stepTokens.toNat, stepTokens := e.stepTokens.toNat, start := e.length.toNat
        append := e.append.toNat, user := e.user, vbase := e.vbase.toNat }
    (s.modList f l.epoch (fun l => { l with placed := l.placed ++ [p] })).modSeq i (fun e =>
      { e with lastUse := l.epoch, listEpoch := l.epoch, listed := true, home := BitVec.ofNat 4 c, homeValid := true, length := e.length + (l.entry i e).append.setWidth 32 })

/-- The append of sequence i is prepared: its frames are popped, its copies begun; without copies it commits at once (R218). -/
def State.prepare (f i c : Nat) (s : State) : Paged State :=
  let e := s.brewSeq f i
  match State.classify f s (tokenPages (s.pageRec f) e.vbase.toNat e.length.toNat (e.length.toNat + e.append.toNat)) with
  | .error g => .error g
  | .ok k =>
    let n := k.fresh.length + k.shared.length
    if (s.pageRec f).freeFast.toNat < n then
      let s := ((s.modRec f (fun r => { r with noPageCount := satAdd r.noPageCount 1 })).pageEvent f 1 stNoPage i n none).modSeq i (fun e =>
        { e with st := .parkedNoPage, need := BitVec.ofNat 32 n })
      .ok (match s.seqs.building f with
        | some l => s.modList f l.epoch (fun l => { l with noPage := l.noPage + 1 })
        | none => s)
    else
      match State.popFrames f n s with
      | .error g => .error g
      | .ok (s, es) =>
        let copies := (k.shared.zip (es.drop k.fresh.length)).map (fun x => ({ page := x.1.1, source := x.1.2, target := x.2 } : CowCopy))
        let a : Append := { fn := f, seq := i, popped := es, copies := copies, fresh := k.fresh.zip es, writable := k.writable, cluster := c }
        if copies.isEmpty then
          (match State.commitAppend a s with
            | .error g => .error g
            | .ok s => .ok (s.place f i c))
        else
          match pagedEach (fun (x : CowCopy) (s : State) => s.ftWrite x.target { count := 0, st := ftMoving, fn := f, epoch := (s.pageRec f).stepEpoch.toNat }) copies s with
          | .error g => .error g
          | .ok s =>
            .ok ({ s with pages := { s.pages with appends := s.pages.appends ++ [a] } }.modRec f (fun r => { r with occupancy := r.occupancy + BitVec.ofNat 32 copies.length }))

/-- One sequence considered by the brewer (R235). -/
def State.consider (f i : Nat) (l : BrewList) (s : State) : Paged State :=
  let e := l.entry i (s.seq i)
  let r := s.pageRec f
  if e.st ≠ .active then .ok s
  else
    match State.absent f s (tokenPages r e.vbase.toNat 0 (e.length.toNat + e.append.toNat)) with
    | .error g => .error g
    | .ok true => .ok (s.modList f l.epoch (fun l => { l with notResident := l.notResident + 1 }))
    | .ok false =>
      match s.clusterOrder f i with
      | .error g => .error g
      | .ok cs =>
        match cs.find? (fun c => sectionFits (s.ctxOf f) l.placed c (2 ^ bucketLog2 e.stepTokens.toNat)) with
        | none => .ok (s.modList f l.epoch (fun l => { l with deferred := l.deferred + 1 }))
        | some c =>
          match State.prepare f i c s with
          | .error g => .error g
          | .ok s => s.feedPrefetch f

/-- The page engine's service of function f stops while its list is built: the list takes no more sequences (R226). -/
def State.stopList (s : State) (f g : Nat) : State :=
  (match s.seqs.building f with
    | some l => s.modList f l.epoch (fun l => { l with begun := true, todo := [], failed := l.failed.or (some g) })
    | none => s).stopService f g

/-- The building of function f's list of epoch e begins, the lists before it being built: the order of R235 stands from now on. -/
def State.beginList (s : State) (f : Nat) (e : BitVec 16) : State :=
  let todo := s.seqs.brewOrder f e
  s.modList f e (fun l => { l with begun := true, todo := todo })

/-- The brewer goes on with function f's list, until an append must copy. The number bounds the sequences left. -/
def State.brewLoop (f : Nat) : Nat → State → State
  | 0, s => s
  | n + 1, s =>
    match s.seqs.building f with
    | none => s
    | some l =>
      if !s.serves f then s.modList f l.epoch (fun l => { l with begun := true, todo := [] })
      else if (s.ctxOf f).st = .saved ∨ s.pages.appends.any (fun a => a.fn == f) = true then s
      else if !l.begun then State.brewLoop f n (s.beginList f l.epoch)
      else
        match l.todo with
        | [] => s
        | i :: rest =>
          let s := s.modList f l.epoch (fun l => { l with todo := rest })
          match State.consider f i l s with
          | .ok s => State.brewLoop f n s
          | .error g => s.stopList f g

def State.brew (s : State) (f : Nat) : State := State.brewLoop f ((s.seqs.ofFn f).length + 2) s

def listOpenForm : CmdForm := { code := 0x040F, len := .fixed 0, accepts := true }

/-- Bytes of a list area (R240). -/
def CtxRec.listLen (r : CtxRec) : Nat := 64 + 512 * r.clusterEntries.toNat

/-- Where a piece of a list area lies: a page of the function's own fast extents, writable for a write (R233). -/
def State.listPlace (s : State) (f : Nat) (write : Bool) (x : Nat × Nat) : Reach :=
  match walk s.mem (s.pages.asker f true write) x.1 with
  | .ok p _ _ _ => .at_ p
  | .fault r => .bad (accErr stTranslation r x.1 0)
  | .bad g => .bad (accErr stUncorrectable 0 g 1)

/-- First failure among the pieces of an area. -/
def State.listBad (s : State) (f a n : Nat) : Option Args :=
  (grainPieces a n).findSome? (fun x => match s.listPlace f true x with
    | .at_ _ => none
    | .bad e => some e)

/-- Steps 1 to 3 of R233, and the sequences waiting for pages that may go on (R231). -/
def State.openList (s : State) (f : Nat) (cmd : CmdRef) : State :=
  let idle := (tget [] s.seqs.lists f).isEmpty
  let s := s.modRec f (fun r => { r with retiredEpoch := if idle then r.stepEpoch else r.retiredEpoch, stepEpoch := r.stepEpoch + 1 })
  let e := (s.pageRec f).stepEpoch
  let s := each (s.seqs.ofFn f) (fun i s => s.modSeq i (fun x => { x with lastUse := freshEpoch e x.lastUse })) s
  let s := each ((s.seqs.ofFn f).filter (fun i => (s.seq i).st == .parkedNoPage && decide ((s.seq i).need ≤ (s.pageRec f).freeFast))) (fun i s =>
    s.modSeq i (fun x => { x with st := .active, need := 0 })) s
  let asOpened := (s.seqs.ofFn f).map (fun i => (i, (s.seq i).stepTokens, (s.seq i).append, (s.seq i).user))
  { s with seqs := { s.seqs with lists := tmod [] s.seqs.lists f (fun l => l ++ [{ epoch := e, asOpened := asOpened, cmd := cmd }]) } }

def listOpenRow (q : Req) (s : State) : State × Answer :=
  let f := q.fn
  let r := s.ctxOf f
  if !s.serves f then (s, notPermitted)
  else if 2 ≤ (tget [] s.seqs.lists f).length then (s, busy)
  else
    match (s.listBad f r.listStage.toNat r.listLen).or (s.listBad f r.listLive.toNat r.listLen) with
    | some e => (s, { status := e.status, detail := e.detail })
    | none =>
      let s := (s.openList f q.cmd).brew f
      (s, { status := stAccepted, reply := natLe 4 (s.pageRec f).stepEpoch.toNat })

/-- LIST_OPEN (R233). -/
def execListOpen (f : Fn) (m : Mb) (s : State) : Host.Outcome State Fault Refusal := .next (s.serve f m listOpenForm listOpenRow)

/-- What an append whose copies have all ended does to the pages: it commits, or every frame goes back (R218, R219). -/
def State.endAppend (a : Append) (s : State) : Paged State :=
  match (if a.failed.isNone && !a.dropped then State.commitAppend a s else State.undoAppend a s) with
  | .error g => .error g
  | .ok s => s.feedPrefetch a.fn

/-- An append whose copies have all ended: it commits and its sequence is placed, or nothing of it took place (R218, R219). -/
def State.appendEnds (s : State) (a : Append) : State :=
  let s := { s with pages := { s.pages with appends := s.pages.appends.erase a } }
  match State.endAppend a s with
  | .error g => s.stopList a.fn g
  | .ok s =>
    if a.dropped then s
    else
      match a.failed with
      | none => s.place a.fn a.seq a.cluster
      | some g =>
        let s := s.pageEvent a.fn 2 stUncorrectable a.seq a.popped.length (some g)
        (if (s.seq a.seq).runs then s.modSeq a.seq (fun e => { e with st := .parkedHost, parkReason := 2 }) else s).sharesDue a.fn

/-- The next copy of function f's append is done, or, after the last, the append ends (R219, step 2); while the context is SAVED it waits, as no sequence is placed then (R244), but for a function being reset, of which the page engine finishes what it has under way (R227). -/
def State.copyDone (s : State) (f : Nat) : State :=
  match s.pages.appends.find? (fun a => a.fn == f) with
  | none => s
  | some a =>
    match a.copies.find? (fun c => !c.copied) with
    | none => if (s.ctxOf f).st = .saved ∧ (s.host.fn f).flr.isNone = true then s else (s.appendEnds a).brew f
    | some c =>
      let ue := s.mem.frameUe c.source
      let b := { a with copies := mapIf (fun x => x == c) (fun x => { x with copied := true }) a.copies, failed := a.failed.or ue }
      let s := { s with
        mem := match ue with
          | some g => s.mem.note g false .uncorrectable
          | none => s.mem.copyFrame c.source c.target
        pages := { s.pages with appends := mapIf (fun x => x == a) (fun _ => b) s.pages.appends } }
      if b.copies.all (fun c => c.copied) && ((s.ctxOf f).st != .saved || (s.host.fn f).flr.isSome) then (s.appendEnds b).brew f else s

/-- COW_COPY_DONE (R219, R226). -/
def execCowCopyDone (f : Fn) (s : State) : Host.Outcome State Fault Refusal := .next (s.clocked (fun s => s.copyDone f))

/-- The second pass of R235, which forms the lookahead set (R237): the sequences it places, in its order. It takes the entries as they stand as it runs, a SEQ_SET since the list opened included (DESIGN CHOICE, log 46: R231 speaks of lists opened, and R237 of no settings). -/
def State.lookaheadPass (s : State) (f : Nat) : List Nat → List Placed → Paged (List Nat)
  | [], p => .ok (p.map (fun p => p.seq))
  | i :: l, p =>
    let b := bucketLog2 (s.seq i).stepTokens.toNat
    match s.clusterOrder f i with
    | .error g => .error g
    | .ok cs =>
      match cs.find? (fun c => sectionFits (s.ctxOf f) p c (2 ^ b)) with
      | some c => s.lookaheadPass f l (p ++ [{ seq := i, cluster := c, bucketLog2 := b, stepTokens := 0, start := 0, append := 0, user := 0, vbase := 0 }])
      | none => s.lookaheadPass f l p

/-- The lookahead set of list e of function f; a table page that cannot be read stops the service, and the list's set is empty (R226, R237). -/
def State.lookahead (s : State) (f : Nat) (e : BitVec 16) : State × List Nat :=
  match s.lookaheadPass f (s.seqs.brewOrder f e) [] with
  | .ok look => (s, look)
  | .error g => (s.stopList f g, [])

/-- Entry a stands before entry b in a section (R236). -/
def Placed.before (a b : Placed) : Bool := decide (b.bucketLog2 < a.bucketLog2) || (a.bucketLog2 == b.bucketLog2 && decide (a.seq < b.seq))

def insertPlaced (a : Placed) : List Placed → List Placed
  | [] => [a]
  | b :: l => if a.before b then a :: b :: l else b :: insertPlaced a l

/-- A list entry (Table 10.4). -/
def Placed.bytes (p : Placed) : List Byte :=
  natLe 2 p.seq ++ natLe 2 p.bucketLog2 ++ natLe 4 p.stepTokens ++ natLe 4 (2 ^ p.bucketLog2) ++ natLe 4 p.start ++ natLe 4 p.append
    ++ natLe 4 p.user.toNat ++ natLe 8 p.vbase

/-- Section c of a list (R236). -/
def BrewList.section (l : BrewList) (entries c : Nat) : List Byte :=
  sliceAt (((l.placed.filter (fun p => p.cluster == c)).foldl (fun x p => insertPlaced p x) []).flatMap Placed.bytes) 0 (32 * entries)

/-- The list's header (Table 10.3). -/
def BrewList.header (l : BrewList) (lookahead : Nat) : List Byte :=
  natLe 4 l.epoch.toNat ++ natLe 2 l.placed.length ++ natLe 2 l.deferred ++ natLe 2 l.notResident ++ natLe 2 l.noPage ++ natLe 2 lookahead
    ++ List.replicate 18 0 ++ (List.range 16).flatMap (fun c => natLe 2 (l.placed.filter (fun p => p.cluster == c)).length)

def BrewList.bytes (l : BrewList) (lookahead entries : Nat) : List Byte := l.header lookahead ++ (List.range 16).flatMap (fun c => l.section entries c)

/-- A list area written grain by grain; a grain that no longer translates is passed over, and the first such failure is told (R233). -/
def State.listWrite (f : Nat) : List (Nat × Nat) → List Byte → State → State × Option Args
  | [], _, s => (s, none)
  | x :: l, bs, s =>
    match s.listPlace f true x with
    | .at_ p => State.listWrite f l (bs.drop x.2) (s.writePhys f p (bs.take x.2))
    | .bad e => ((State.listWrite f l (bs.drop x.2) s).1, some e)

/-- The spilled pages of the lookahead set that are not waiting yet, in plane-then-page order (R225). -/
def State.spilledOf (f : Nat) (s : State) : List (Nat × Nat) → Paged (List PageMove)
  | [] => .ok []
  | (i, p) :: l =>
    match s.leaf f p, State.spilledOf f s l with
    | .error g, _ => .error g
    | _, .error g => .error g
    | .ok x, .ok ms =>
      .ok (if (x.map (fun y => y.spilled)).getD false && !s.pages.prefetches.any (fun m => m.fn == f && m.page == p) then { fn := f, seq := i, page := p } :: ms else ms)

/-- Prefetches for a lookahead set begin (R225). -/
def State.prefetchFor (f : Nat) (look : List Nat) (s : State) : Paged State :=
  let r := s.pageRec f
  match State.spilledOf f s (look.flatMap (fun i => (seqPages r (s.seq i).vbase.toNat 0 r.pagesMax.toNat).map (fun p => (i, p)))) with
  | .error g => .error g
  | .ok ms => State.feedPrefetch f { s with pages := { s.pages with prefetches := s.pages.prefetches ++ ms } }

/-- The brewer has finished with function f's list (R235 to R237). -/
def State.listBuilt (s : State) (f : Nat) : State :=
  let s := s.brew f
  match s.seqs.building f with
  | none => s
  | some l =>
    if !l.todo.isEmpty || s.pages.appends.any (fun a => a.fn == f) || s.pages.invalidations.any (fun v => v.fn == f) || (s.ctxOf f).st == .saved then s
    else
      let r := s.ctxOf f
      let y := s.lookahead f l.epoch
      let s := y.1
      let look := y.2
      let l := (s.seqs.building f).getD l
      let w := State.listWrite f (grainPieces r.listStage.toNat r.listLen) (l.bytes look.length r.clusterEntries.toNat) s
      let s := { w.1 with seqs := { w.1.seqs.modList f l.epoch (fun l => { l with phase := .built }) with lookahead := tset [] w.1.seqs.lookahead f look } }
      let s := s.complete l.cmd (match l.failed, w.2 with
        | some g, _ => { status := stUncorrectable, address := g, kind := 1, result := (l.header look.length).take 16 }
        | none, some e => { e with result := (l.header look.length).take 16 }
        | none, none => { result := (l.header look.length).take 16 })
      if s.serves f then s.paged f (State.prefetchFor f look) else s

/-- LIST_BUILT (R235 to R237). -/
def execListBuilt (f : Fn) (s : State) : Host.Outcome State Fault Refusal := .next (s.clocked (fun s => s.listBuilt f))

/-- The staged list copied to LIST_LIVE; the first grain that fails on either side (R233, R238). -/
def State.listCopy (f src dst : Nat) : List (Nat × Nat) → State → State × Option Args
  | [], s => (s, none)
  | x :: l, s =>
    match s.listPlace f false x with
    | .bad e => ((State.listCopy f src dst l s).1, some e)
    | .at_ p =>
      match s.mem.ueIn p x.2 with
      | some g => ((State.listCopy f src dst l { s with mem := s.mem.note g false .uncorrectable }).1, some (accErr stUncorrectable 0 g 1))
      | none =>
        let w := State.listWrite f (grainPieces (dst + (x.1 - src)) x.2) (s.mem.read p x.2) s
        let r := State.listCopy f src dst l w.1
        (r.1, w.2.or r.2)

/-- A LIST entry (Table 15.7): 1 RELEASED, 2 RETIRED. -/
def State.listEvent (s : State) (f kind : Nat) (epoch : BitVec 16) (freed : Nat) (e : Args) : State :=
  s.event f f srcList kind { e with arg0 := epoch.toNat, arg1 := freed }

/-- The oldest list, once built, is released (R238). -/
def State.listReleased (s : State) (f : Nat) : State :=
  match (tget [] s.seqs.lists f).head? with
  | none => s
  | some l =>
    let r := s.ctxOf f
    if l.phase ≠ .built ∨ r.st = .saved then s
    else
      let w := State.listCopy f r.listStage.toNat r.listLive.toNat (grainPieces r.listStage.toNat r.listLen) s
      ((w.1.modList f l.epoch (fun l => { l with phase := .released })).rouse.addHub r.listReady.toNat 1).listEvent f 1 l.epoch 0 (w.2.getD {})

/-- LIST_RELEASED (R238). -/
def execListReleased (f : Fn) (s : State) : Host.Outcome State Fault Refusal := .next (s.clocked (fun s => s.listReleased f))

def listCloseForm : CmdForm := { code := 0x0410, len := .fixed 4, masks := [0xFFFF] }

def listCloseRow (q : Req) (s : State) : State × Answer :=
  let e := BitVec.ofNat 16 (q.u32 0)
  if !s.seqOpen q.fn then (s, notPermitted)
  else
    match (tget [] s.seqs.lists q.fn).find? (fun l => l.epoch == e) with
    | none => (s, { status := stSequenceState })
    | some l => if l.phase = .open then (s, { status := stSequenceState }) else (s.modList q.fn e (fun l => { l with closed := true }), {})

/-- LIST_CLOSE (R238). -/
def execListClose (f : Fn) (m : Mb) (s : State) : Host.Outcome State Fault Refusal := .next (s.serve f m listCloseForm listCloseRow)

/-- The sequences of list e are in no unretired list any more (R238, R231). -/
def State.unlist (s : State) (f : Nat) (e : BitVec 16) : State :=
  each ((s.seqs.ofFn f).filter (fun i => (s.seq i).listed && (s.seq i).listEpoch == e)) (fun i s => (s.modSeq i (fun x => { x with listed := false })).freeSeq i) s

/-- The oldest list retires (R238): the sweep, the sequences, the shares that waited, the spills that had stopped. -/
def State.listRetired (s : State) (f : Nat) : State :=
  match (tget [] s.seqs.lists f).head? with
  | none => s
  | some l =>
    if l.phase ≠ .released ∨ l.closed = false ∨ l.chains ≠ 0 then s
    else
      let s := { s with seqs := { s.seqs with lists := tmod [] s.seqs.lists f (fun x => x.drop 1) } }.modRec f (fun r => { r with retiredEpoch := l.epoch })
      let w := if s.serves f then s.sweep f else .ok (s, 0)
      let s := match w with
        | .ok (s, _) => s
        | .error g => s.stopService f g
      let freed := match w with
        | .ok (_, n) => n
        | .error _ => 0
      let s := (s.unlist f l.epoch).sharesDue f
      let s := { s with pages := { s.pages with spillStopped := s.pages.spillStopped.erase f } }
      let s := if s.serves f then s.paged f (State.feedPrefetch f) else s
      s.listEvent f 2 l.epoch freed {}

/-- LIST_RETIRED (R238, R222, R220). -/
def execListRetired (f : Fn) (s : State) : Host.Outcome State Fault Refusal := .next (s.clocked (fun s => s.listRetired f))

end Sys2Proof.Machine
end

