-- ==== Sys2Proof/Machine/StemMath.lean ====
section
/-! DEFINITION. What a stem engine computes: descriptors (Tables 14.1, 14.2), their checks (R309, R310, R313), convolution and pooling (R311 to R313), boxes and the strainer (R319 to R321). -/

namespace Sys2Proof.Machine

/-- Stem descriptor (Table 14.1). -/
structure StemDesc where
  kind : Nat
  inFmt : Nat
  outFmt : Nat
  act : Nat
  biasEn : Bool
  rowEn : Bool
  event : Bool
  waitEn : Bool
  kh : Nat
  kw : Nat
  sh : Nat
  sw : Nat
  padT : Nat
  padB : Nat
  padL : Nat
  padR : Nat
  avgDiv : Bool
  imgW : Nat
  imgH : Nat
  cin : Nat
  cout : Nat
  x0 : Nat
  x1 : Nat
  y0 : Nat
  rows : Nat
  src : Nat
  srcPitch : Nat
  srcUv : Nat
  dst : Nat
  dstPitch : Nat
  dstUv : Nat
  wgt : Nat
  inScale : Nat
  inBias : Nat
  outScale : Nat
  outBias : Nat
  ctrL : Nat
  ctrR : Nat
  ctrC : Nat
  rowCtr : Nat
  baseL : Nat
  baseC : Nat
  baseR : Nat
  nbL : Nat
  nbR : Nat
  user : Nat
  timeout : Nat
  deriving DecidableEq, Repr

def parseStem (b : List Byte) : StemDesc :=
  let w := fieldAt b 0 4
  let k := fieldAt b 4 4
  { kind := field w 2 0, inFmt := field w 6 3, outFmt := field w 10 7, act := field w 12 11, biasEn := bit w 13, rowEn := bit w 14
    event := bit w 15, waitEn := bit w 16, kh := field k 3 0, kw := field k 7 4, sh := field k 11 8, sw := field k 15 12
    padT := field k 18 16, padB := field k 21 19, padL := field k 24 22, padR := field k 27 25, avgDiv := bit k 28
    imgW := fieldAt b 8 2, imgH := fieldAt b 10 2, cin := field (fieldAt b 0xC 4) 10 0, cout := field (fieldAt b 0xC 4) 26 16
    x0 := fieldAt b 0x10 2, x1 := fieldAt b 0x12 2, y0 := fieldAt b 0x14 2, rows := fieldAt b 0x16 2
    src := fieldAt b 0x18 6, srcPitch := fieldAt b 0x20 4, srcUv := fieldAt b 0x24 4, dst := fieldAt b 0x28 6, dstPitch := fieldAt b 0x30 4
    dstUv := fieldAt b 0x34 4, wgt := fieldAt b 0x38 6, inScale := fieldAt b 0x40 4, inBias := fieldAt b 0x44 4, outScale := fieldAt b 0x48 4
    outBias := fieldAt b 0x4C 4, ctrL := field (fieldAt b 0x50 4) 12 0, ctrR := field (fieldAt b 0x50 4) 28 16
    ctrC := field (fieldAt b 0x54 4) 12 0, rowCtr := field (fieldAt b 0x54 4) 28 16, baseL := fieldAt b 0x58 4, baseC := fieldAt b 0x5C 4
    baseR := fieldAt b 0x60 4, nbL := fieldAt b 0x64 2, nbR := fieldAt b 0x66 2, user := fieldAt b 0x68 4, timeout := fieldAt b 0x6C 4 }

def stemMasks : List Nat :=
  [0x1FFFF, 0x1FFFFFFF, 0xFFFFFFFF, 0x07FF07FF, 0xFFFFFFFF, 0xFFFFFFFF, 0xFFFFFFFF, 0xFFFF, 0xFFFFFFFF, 0xFFFFFFFF, 0xFFFFFFFF, 0xFFFF,
    0xFFFFFFFF, 0xFFFFFFFF, 0xFFFFFFFF, 0xFFFF, 0xFFFFFFFF, 0xFFFFFFFF, 0xFFFFFFFF, 0xFFFFFFFF, 0x1FFF1FFF, 0x1FFF1FFF, 0xFFFFFFFF,
    0xFFFFFFFF, 0xFFFFFFFF, 0xFFFFFFFF, 0xFFFFFFFF, 0xFFFFFFFF, 0, 0, 0, 0]

/-- Bytes of an element of IN_FMT or OUT_FMT (Table 14.1). -/
def stemBytes : Nat → Nat
  | 2 => 4
  | 3 => 1
  | _ => 2

/-- The two surface formats, NV12 and P010. -/
def stemSurface (f : Nat) : Bool := f == 3 || f == 4

/-- Output width, height, and channels (R309). -/
def StemDesc.outW (d : StemDesc) : Nat := (d.imgW + d.padL + d.padR - d.kw) / d.sw + 1
def StemDesc.outH (d : StemDesc) : Nat := (d.imgH + d.padT + d.padB - d.kh) / d.sh + 1
def StemDesc.chans (d : StemDesc) : Nat := if d.kind = 0 then d.cout else d.cin

/-- First input column of the stripe and one past the last, within the image (R316). -/
def StemDesc.colLo (d : StemDesc) : Nat := d.x0 * d.sw - d.padL
def StemDesc.colHi (d : StemDesc) : Nat := min d.imgW ((d.x1 - 1) * d.sw + d.kw - d.padL)

/-- Bytes of the weights (R310). -/
def StemDesc.wgtBytes (d : StemDesc) : Nat := 2 * d.cout * d.kh * d.kw * d.cin
/-- Bytes of weights and biases, the biases at the next 256-byte boundary. -/
def StemDesc.wgtLen (d : StemDesc) : Nat := if d.biasEn then ceilDiv d.wgtBytes 256 * 256 + 4 * d.cout else d.wgtBytes

/-- Input rows an output row needs, within the image. -/
def StemDesc.rowsFor (d : StemDesc) (y : Nat) : List Nat :=
  ((List.range d.kh).map (fun u => y * d.sh + u)).filterMap (fun r => if d.padT ≤ r ∧ r - d.padT < d.imgH then some (r - d.padT) else none)

/-- Input rows the descriptor needs, ascending (R316). -/
def StemDesc.inRows (d : StemDesc) : List Nat := ((List.range d.rows).flatMap (fun i => d.rowsFor (d.y0 + i))).eraseDups

/-- Bytes of input row r that hold columns from colLo to colHi: luma or tensor, then chroma (R289, R311). -/
def StemDesc.srcRanges (d : StemDesc) (r : Nat) : List (Nat × Nat) :=
  let sz := stemBytes d.inFmt
  if stemSurface d.inFmt then
    let lo := d.colLo / 2
    let hi := ceilDiv d.colHi 2
    [(d.src + r * d.srcPitch + d.colLo * sz, (d.colHi - d.colLo) * sz), (d.src + d.srcUv + r / 2 * d.srcPitch + 2 * lo * sz, 2 * (hi - lo) * sz)]
  else [(d.src + r * d.srcPitch + d.colLo * d.cin * sz, (d.colHi - d.colLo) * d.cin * sz)]

/-- Bytes of output row y: tensor or luma, then chroma where the row has any (R313). -/
def StemDesc.dstRanges (d : StemDesc) (y : Nat) : List (Nat × Nat) :=
  let sz := stemBytes d.outFmt
  if stemSurface d.outFmt then
    (d.dst + y * d.dstPitch + d.x0 * sz, (d.x1 - d.x0) * sz)
      :: (if y % 2 = 0 then [(d.dst + d.dstUv + y / 2 * d.dstPitch + d.x0 / 2 * 2 * sz, ceilDiv (d.x1 - d.x0) 2 * 2 * sz)] else [])
  else [(d.dst + y * d.dstPitch + d.x0 * d.chans * sz, (d.x1 - d.x0) * d.chans * sz)]

/-- The span from the first byte of some ranges to the last. -/
def spanOf (l : List (Nat × Nat)) : Option (Nat × Nat) :=
  match l with
  | [] => none
  | x :: t => some (t.foldl (fun s y => (min s.1 y.1, max s.2 (y.1 + y.2))) (x.1, x.1 + x.2))

def spansMeet : Option (Nat × Nat) → Option (Nat × Nat) → Bool
  | some a, some b => decide (a.1 < b.2 ∧ b.1 < a.2)
  | _, _ => false

/-- A surface's pitch and chroma offset hold its rows (R289). -/
def surfaceOk (fmt pitch uv w h : Nat) : Bool := decide (2 * ceilDiv w 2 * stemBytes fmt ≤ pitch) && uv % 256 == 0 && decide (pitch * h ≤ uv)

/-- A field outside its range (Table 14.1, R309, R310, R312, R313). -/
def StemDesc.bad (d : StemDesc) (vf : Bool) : Bool :=
  let k := if d.kind = 0 then 7 else 8
  let st := if d.kind = 0 then 4 else 8
  decide (2 < d.kind ∨ 5 < d.inFmt ∨ 5 < d.outFmt) || (d.kind == 0 && decide (1 < d.act))
    || decide (d.kh < 1 ∨ k < d.kh ∨ d.kw < 1 ∨ k < d.kw ∨ d.sh < 1 ∨ st < d.sh ∨ d.sw < 1 ∨ st < d.sw)
    || decide (d.kh ≤ d.padT ∨ d.kh ≤ d.padB ∨ d.kw ≤ d.padL ∨ d.kw ≤ d.padR)
    || decide (d.imgW < 1 ∨ 16384 < d.imgW ∨ d.imgH < 1 ∨ 16384 < d.imgH ∨ d.cin < 1 ∨ 1024 < d.cin)
    || (if d.kind = 0 then decide (d.cout < 1 ∨ 1024 < d.cout) else d.cout != 0)
    || decide (d.imgW + d.padL + d.padR < d.kw ∨ d.imgH + d.padT + d.padB < d.kh)
    || decide (d.x1 ≤ d.x0 ∨ d.outW < d.x1 ∨ d.rows < 1 ∨ 16384 < d.rows ∨ d.outH < d.y0 + d.rows)
    || d.src % 256 != 0 || d.srcPitch % 256 != 0 || d.dst % 256 != 0 || d.dstPitch % 256 != 0 || (d.kind == 0 && d.wgt % 256 != 0)
    || (stemSurface d.inFmt && (d.cin != 3 || !surfaceOk d.inFmt d.srcPitch d.srcUv d.imgW d.imgH))
    || (d.kind == 0 && stemSurface d.outFmt
      && (d.cout != 3 || !surfaceOk d.outFmt d.dstPitch d.dstUv d.outW d.outH || d.x0 % 2 == 1 || (d.x1 % 2 == 1 && d.x1 != d.outW)))
    || (d.kind == 0 && (decide (16 < min d.cin d.cout) || decide (524288 < d.wgtBytes)))
    || (d.kind != 0 && (d.inFmt != d.outFmt || decide (2 < d.outFmt)))
    || decide (2097152 < (d.kh + d.sh) * ((d.x1 - 1 - d.x0) * d.sw + d.kw) * d.cin * (if d.kind != 0 && d.inFmt == 2 then 4 else 2))
    || (vf && d.timeout == 0)
    || (let w := spanOf ((List.range d.rows).flatMap (fun i => d.dstRanges (d.y0 + i)))
        spansMeet w (spanOf (d.inRows.flatMap d.srcRanges)) || (d.kind == 0 && spansMeet w (some (d.wgt, d.wgt + d.wgtLen))))

/-- Words of a packed list of elements, each of `n` bytes. -/
def wordsOf (n : Nat) (bs : List Byte) : List Nat := (List.range (bs.length / n)).map (fun i => fieldAt bs (n * i) n)

/-- A code of NV12, P010 or UINT16 as BF16 (R311). -/
def codeIn (d : StemDesc) (c : Nat) : Nat :=
  (convertTo bf16 .rne false false (f32 (ffma (fofNat (if d.inFmt = 4 then c / 64 else c)) d.inScale d.inBias))).code

/-- A stored element as the line buffer takes it: a BF16 code for CONV and for codes (R311), the stored element in FP32 for pooling (R312). -/
def elemIn (d : StemDesc) (c : Nat) : FpVal :=
  match d.inFmt with
  | 0 => bf16.decode c
  | 1 => if d.kind = 0 then bf16.decode (convertTo bf16 .rne false false (fp16.decode c)).code else fp16.decode c
  | 2 => if d.kind = 0 then bf16.decode (convertTo bf16 .rne false false (fp32.decode c)).code else fp32.decode c
  | _ => bf16.decode (codeIn d c)

/-- An input row as elements (x - colLo) * CIN + c, from the bytes of its ranges in turn (R311). -/
def rowIn (d : StemDesc) (bs : List Byte) : List FpVal :=
  let n := d.colHi - d.colLo
  let sz := stemBytes d.inFmt
  if stemSurface d.inFmt then
    let y := (wordsOf sz (bs.take (n * sz))).map (elemIn d)
    let c := (wordsOf sz (bs.drop (n * sz))).map (elemIn d)
    (List.range n).flatMap (fun i =>
      let p := (d.colLo + i) / 2 - d.colLo / 2
      [y.getD i .nan, c.getD (2 * p) .nan, c.getD (2 * p + 1) .nan])
  else (wordsOf sz bs).map (elemIn d)

/-- The lines an output row reads, each with its row number. -/
abbrev StemLines := List (Nat × List FpVal)

/-- Element (row u, column v, channel c) of the window of output (x, y); none in padding. -/
def stemTap (d : StemDesc) (lines : StemLines) (x y u v c : Nat) : Option FpVal :=
  let r := y * d.sh + u
  let q := x * d.sw + v
  if d.padT ≤ r ∧ r - d.padT < d.imgH ∧ d.padL ≤ q ∧ q - d.padL < d.imgW then
    match lines.find? (fun l => l.1 == r - d.padT) with
    | some l => l.2[(q - d.padL - d.colLo) * d.cin + c]?
    | none => none
  else none

/-- The weight of output channel o at (u, v, c) (R310). -/
def stemWeight (d : StemDesc) (w : List Byte) (o u v c : Nat) : FpVal := bf16.decode (fieldAt w (2 * (((o * d.kh + u) * d.kw + v) * d.cin + c)) 2)

/-- Exact sum of one chunk of (v, c) pairs of kernel row u (R42, R46, R312); padding reads zero. -/
def stemChunk (d : StemDesc) (w : List Byte) (lines : StemLines) (x y u o : Nat) (l : List (Nat × Nat)) : FpVal :=
  dot (l.map (fun e => (stemTap d lines x y u e.1 e.2).getD (.fin false 0 0))) (l.map (fun e => stemWeight d w o u e.1 e.2))

/-- A list in runs of n. -/
def runsOf (n : Nat) (l : List (Nat × Nat)) : List (List (Nat × Nat)) := (List.range (ceilDiv l.length n)).map (fun i => (l.drop (n * i)).take n)

/-- The chunks of one kernel row, in order (R310, R312): 16 of the flattened (v, c) sequence in IN mode, 128 channels of one tap in OUT mode. -/
def stemChunks (d : StemDesc) : List (List (Nat × Nat)) :=
  if d.cin ≤ 16 then runsOf 16 ((List.range (d.kw * d.cin)).map (fun i => (i / d.cin, i % d.cin)))
  else (List.range d.kw).flatMap (fun v => runsOf 128 ((List.range d.cin).map (fun c => (v, c))))

/-- Output (x, y, o) of a CONV as an FP32 code (R312). -/
def stemConv (d : StemDesc) (w : List Byte) (lines : StemLines) (x y o : Nat) : Nat :=
  let bias := if d.biasEn then fieldAt w (ceilDiv d.wgtBytes 256 * 256 + 4 * o) 4 else 0
  let acc := (List.range d.kh).foldl (fun a u => (stemChunks d).foldl (fun a l => to32 ((f32 a).add (stemChunk d w lines x y u o l))) a) bias
  if d.act = 1 then fmax acc 0 else acc

/-- Output (x, y, c) of a pooling as an FP32 code (R144, R312). -/
def stemPool (d : StemDesc) (lines : StemLines) (x y c : Nat) : Nat :=
  let vals := ((List.range d.kh).flatMap (fun u => (List.range d.kw).filterMap (fun v => stemTap d lines x y u v c))).map to32
  if d.kind = 1 then vals.tail.foldl fmax (vals.headD 0)
  else fdiv (vals.foldl fadd 0) (fofNat (if d.avgDiv then d.kh * d.kw else vals.length))

/-- Output element as an FP32 code. -/
def stemOut (d : StemDesc) (w : List Byte) (lines : StemLines) (x y o : Nat) : Nat := if d.kind = 0 then stemConv d w lines x y o else stemPool d lines x y o

/-- A value rounded to the nearest integer, ties to even. -/
def roundInt : FpVal → Option Int
  | .fin n m e =>
    let k := if 0 ≤ e then m * 2 ^ e.toNat else Rounding.rne.shift m (-e).toNat
    some (if n then -(k : Int) else k)
  | _ => none

/-- Largest code of a code format (R313). -/
def codeTop : Nat → Nat
  | 3 => 255
  | 4 => 1023
  | _ => 65535

/-- A result as a code of NV12, P010 or UINT16, and whether it was clamped or NaN (R313). -/
def codeOut (d : StemDesc) (v : Nat) : Nat × Bool :=
  let top := codeTop d.outFmt
  match f32 (ffma v d.outScale d.outBias) with
  | .nan => (0, true)
  | .inf n => (if n then 0 else top, true)
  | .fin n m e =>
    match roundInt (.fin n m e) with
    | some k => if k < 0 then (0, true) else if (top : Int) < k then (top, true) else (k.toNat, false)
    | none => (0, true)

/-- A result as stored: its bytes, and 1 where it counts in CLAMPED (R313). -/
def elemOut (d : StemDesc) (v : Nat) : List Byte × Nat :=
  match d.outFmt with
  | 0 => (natLe 2 (convertTo bf16 .rne false false (f32 v)).code, 0)
  | 1 => (natLe 2 (convertTo fp16 .rne false false (f32 v)).code, 0)
  | 2 => (natLe 4 v, 0)
  | f => let c := codeOut d v; (natLe (stemBytes f) (if f = 4 then 64 * c.1 else c.1), b2n c.2)

/-- Elements stored one after another. -/
def elemsOut (d : StemDesc) (l : List Nat) : List Byte × Nat := let r := l.map (elemOut d); (r.flatMap (·.1), (r.map (·.2)).sum)

/-- Output row y: what each of its ranges holds, and the elements clamped (R313). -/
def stemRow (d : StemDesc) (w : List Byte) (lines : StemLines) (y : Nat) : List (List Byte) × Nat :=
  let xs := (List.range (d.x1 - d.x0)).map (d.x0 + ·)
  if stemSurface d.outFmt then
    let l := elemsOut d (xs.map (fun x => stemOut d w lines x y 0))
    if y % 2 = 0 then
      let c := elemsOut d ((xs.filter (fun x => x % 2 == 0)).flatMap (fun x => [stemOut d w lines x y 1, stemOut d w lines x y 2]))
      ([l.1, c.1], l.2 + c.2)
    else ([l.1], l.2)
  else
    let r := elemsOut d (xs.flatMap (fun x => (List.range d.chans).map (stemOut d w lines x y)))
    ([r.1], r.2)

/-- The counters that gate input row r, with their thresholds (R316). -/
def StemDesc.gates (d : StemDesc) (r : Nat) : List (Nat × Nat) :=
  (if d.colLo < d.nbL then [(d.ctrL, d.baseL + r + 1)] else [])
    ++ (if max d.colLo d.nbL < min d.colHi d.nbR then [(d.ctrC, d.baseC + r + 1)] else [])
    ++ (if d.nbR < d.colHi then [(d.ctrR, d.baseR + r + 1)] else [])

/-- Detection descriptor (Table 14.2). -/
structure DetDesc where
  centre : Bool
  clip : Bool
  agnostic : Bool
  waitEn : Bool
  doneEn : Bool
  event : Bool
  count : Nat
  countAddr : Nat
  cand : Nat
  anchors : Nat
  dst : Nat
  dstCount : Nat
  v : List Nat
  scoreMin : Nat
  iou : Nat
  keepMax : Nat
  classMax : Nat
  clipW : Nat
  clipH : Nat
  waitCtr : Nat
  doneCtr : Nat
  waitThr : Nat
  amount : Nat
  user : Nat
  timeout : Nat
  anchorCount : Nat
  deriving DecidableEq, Repr

def parseDet (b : List Byte) : DetDesc :=
  let w := fieldAt b 0 4
  { centre := bit w 3, clip := bit w 4, agnostic := bit w 5, waitEn := bit w 6, doneEn := bit w 7, event := bit w 8
    count := field (fieldAt b 4 4) 16 0, countAddr := fieldAt b 8 6, cand := fieldAt b 0x10 6, anchors := fieldAt b 0x18 6
    dst := fieldAt b 0x20 6, dstCount := fieldAt b 0x28 6, v := wordsOf 4 (sliceAt b 0x30 16), scoreMin := fieldAt b 0x40 4
    iou := fieldAt b 0x44 4, keepMax := field (fieldAt b 0x48 4) 12 0, classMax := field (fieldAt b 0x48 4) 28 16
    clipW := fieldAt b 0x4C 4, clipH := fieldAt b 0x50 4, waitCtr := field (fieldAt b 0x54 4) 12 0
    doneCtr := field (fieldAt b 0x54 4) 28 16, waitThr := fieldAt b 0x58 4, amount := fieldAt b 0x5C 2, user := fieldAt b 0x60 4
    timeout := fieldAt b 0x64 4, anchorCount := fieldAt b 0x68 4 }

def detMasks : List Nat :=
  [0x1FF, 0x1FFFF, 0xFFFFFFFF, 0xFFFF, 0xFFFFFFFF, 0xFFFF, 0xFFFFFFFF, 0xFFFF, 0xFFFFFFFF, 0xFFFF, 0xFFFFFFFF, 0xFFFF, 0xFFFFFFFF,
    0xFFFFFFFF, 0xFFFFFFFF, 0xFFFFFFFF, 0xFFFFFFFF, 0xFFFFFFFF, 0x1FFF1FFF, 0xFFFFFFFF, 0xFFFFFFFF, 0x1FFF1FFF, 0xFFFFFFFF, 0xFFFF,
    0xFFFFFFFF, 0xFFFFFFFF, 0xFFFFFFFF, 0, 0, 0, 0, 0]

/-- A field outside its range (Table 14.2). -/
def DetDesc.bad (d : DetDesc) (vf : Bool) : Bool :=
  (d.countAddr == 0 && decide (65536 < d.count)) || d.countAddr % 4 != 0 || d.cand % 256 != 0 || d.dst % 256 != 0 || d.dstCount % 4 != 0
    || !((f32 0).le (f32 d.iou) && (f32 d.iou).le (f32 fone)) || decide (d.keepMax < 1 ∨ 4096 < d.keepMax ∨ 4096 < d.classMax)
    || (vf && d.timeout == 0)

/-- A candidate or kept record (Table 14.3). -/
structure Box where
  d : List Nat
  score : Nat
  cls : Nat
  ix : Nat
  deriving DecidableEq, Repr

def parseBox (b : List Byte) : Box := { d := wordsOf 4 (b.take 16), score := fieldAt b 0x10 4, cls := fieldAt b 0x14 2, ix := fieldAt b 0x18 4 }

def Box.bytes (x : Box) : List Byte := x.d.flatMap (natLe 4) ++ natLe 4 x.score ++ natLe 2 x.cls ++ natLe 2 0 ++ natLe 4 x.ix ++ natLe 4 0

/-- 0.5 and log2 e. -/
def fhalf : Nat := 0x3F000000
def flog2e : Nat := 0x3FB8AA3B

/-- Corners of a candidate's box from its values and its anchor entry (R319). -/
def decodeBox (d : DetDesc) (r a : List Nat) : List Nat :=
  let x (i : Nat) := r.getD i 0
  let an (i : Nat) := a.getD i 0
  let v (i : Nat) := d.v.getD i 0
  let cx := if d.centre then fmul (fadd (an 0) (x 0)) (an 2) else fadd (an 0) (fmul (fmul (x 0) (v 0)) (an 2))
  let cy := if d.centre then fmul (fadd (an 1) (x 1)) (an 3) else fadd (an 1) (fmul (fmul (x 1) (v 1)) (an 3))
  let w := if d.centre then fmul (x 2) (an 2) else fmul (an 2) (fexp2 (fmul (fmul (x 2) (v 2)) flog2e))
  let h := if d.centre then fmul (x 3) (an 3) else fmul (an 3) (fexp2 (fmul (fmul (x 3) (v 3)) flog2e))
  let clip (z top : Nat) := if d.clip then fmin (fmax z 0) top else z
  [clip (fsub cx (fmul w fhalf)) d.clipW, clip (fsub cy (fmul h fhalf)) d.clipH,
    clip (fadd cx (fmul w fhalf)) d.clipW, clip (fadd cy (fmul h fhalf)) d.clipH]

/-- No coordinate is NaN and the box is not empty (R320). -/
def goodBox (c : List Nat) : Bool :=
  let x (i : Nat) := f32 (c.getD i 0)
  !c.any (fun z => (f32 z).isNan) && (x 0).lt (x 2) && (x 1).lt (x 3)

/-- Visiting order of the strainer (R321): descending SCORE, ascending CLASS, ascending index. -/
def boxBefore (a b : Box) : Bool :=
  (f32 b.score).lt (f32 a.score)
    || ((f32 a.score).feq (f32 b.score) && (decide (a.cls < b.cls) || (a.cls == b.cls && decide (a.ix ≤ b.ix))))

/-- Insert into a list in visiting order. -/
def boxInsert (a : Box) : List Box → List Box
  | [] => [a]
  | b :: l => if boxBefore a b then a :: b :: l else b :: boxInsert a l

/-- The overlap test: inter > IOU_T * union (R321). -/
def boxOverlaps (iou : Nat) (a b : Box) : Bool :=
  let x (k : Box) (i : Nat) := k.d.getD i 0
  let side (i : Nat) := fmax 0 (fsub (fmin (x a (i + 2)) (x b (i + 2))) (fmax (x a i) (x b i)))
  let inter := fmul (side 0) (side 1)
  let area (k : Box) := fmul (fsub (x k 2) (x k 0)) (fsub (x k 3) (x k 1))
  (f32 (fmul iou (fsub (fadd (area a) (area b)) inter))).lt (f32 inter)

/-- The strainer over candidates in visiting order (R321): those kept, in order, and how many were limited. -/
def strain (d : DetDesc) : List Box → List Box → Nat → List Box × Nat
  | [], kept, lim => (kept, lim)
  | a :: l, kept, lim =>
    if d.keepMax ≤ kept.length then (kept, lim + (a :: l).length)
    else if kept.any (fun k => (d.agnostic || k.cls == a.cls) && boxOverlaps d.iou k a) then strain d l kept lim
    else if d.classMax ≠ 0 ∧ d.classMax ≤ (kept.filter (fun k => k.cls == a.cls)).length then strain d l kept (lim + 1)
    else strain d l (kept ++ [a]) lim

end Sys2Proof.Machine
end

