-- ==== Sys2Proof/Machine/Tables.lean ====
section
/-! DEFINITION. Loads of caddy tables and code tables (R148, R150, R151, R153, R190, R192, R193; Table 15.13), and the cadence frame (R87, R89, R90). -/

namespace Sys2Proof.Machine

/-- ADD of a load: enable, counter, amount (Table 15.13). -/
structure LoadAdd where
  en : Bool
  ctr : Nat
  amount : Nat
  deriving DecidableEq, Repr

def parseLoadAdd (w : Nat) : LoadAdd := { en := bit w 0, ctr := field w 13 1, amount := field w 29 14 }

/-- The cluster a counter field of a command names (R123). -/
def fieldCluster (ctr : Nat) : Nat := field ctr 11 8

/-- The load's counter is allotted to the caller (R101, R123). -/
def LoadAdd.permitted (a : LoadAdd) (r : CtxRec) : Bool := !a.en || r.ownsCtr (fieldCluster a.ctr) a.ctr

/-- The ADD of a load applied. -/
def State.loadAdd (s : State) (l : TableLoad) : State := if l.addEn then s.addCtr (fieldCluster l.addCtr) l.addCtr l.addAmount else s

/-- A load enters, after its image has been read: refused if it cannot be read. -/
def loadRow (bytes : Nat) (q : Req) (s : State) (enter : List Byte → State → State) : State × Answer :=
  match readVirt s.mem s.pages q.fn (q.u64 0) bytes with
  | .error e => (s.noteBad e, { status := e.status, detail := e.detail })
  | .ok img => (enter img s, { status := stAccepted, names := q.fn })

/-- A load that failed its checks ends (R150, R192). -/
def State.rejectLoad (s : State) (l : TableLoad) : State :=
  match l.rejected with
  | none => s
  | some (reason, segment) => s.complete l.cmd { status := stTableRejected, detail := reason, arg0 := segment }

/-- Loads that failed their checks leave. -/
def State.rejectLoads (s : State) : State :=
  let bad := (s.cores.caddyLoads ++ s.cores.codeLoads).filter (fun l => l.rejected.isSome)
  each bad (fun l s => s.rejectLoad l)
    { s with cores := { s.cores with caddyLoads := s.cores.caddyLoads.filter (fun l => l.rejected.isNone), codeLoads := s.cores.codeLoads.filter (fun l => l.rejected.isNone) } }

def caddyForm : CmdForm :=
  { code := 0x0501, len := .fixed 48, masks := [0xFFFFFFFF, 0xFFFF, 3, 0x3FFFFFFF], accepts := true
    owns := fun q s =>
      let r := s.ctxOf q.fn
      r.caddySlots.getLsbD (q.u32 8 % 4) && (bitsOf 256 (fieldAt q.params 16 32)).all r.hasCore && (parseLoadAdd (q.u32 12)).permitted r
    range := fun q => if q.u32 0 % 64 = 0 then [] else [0] }

/-- The shadow bank of a load's slot takes a state on its cores; PENDING with the new table (R151). -/
def CoresState.shadow (x : CoresState) (l : TableLoad) (g : CaddySlot → CaddySlot) : CoresState :=
  each l.cores (fun c x => x.setCore c { x.core c with caddy := tmod {} (x.core c).caddy l.slot g }) x

/-- The oldest load of each slot of a function is being written: its shadow banks are LOADING (R151). -/
def CoresState.startLoad (x : CoresState) (f slot : Nat) : CoresState :=
  match x.caddyLoads.find? (fun l => l.fn == f && l.slot == slot && l.rejected.isNone) with
  | none => x
  | some l => x.shadow l (fun b => { b with shadowState := .loading })

def caddyRow (q : Req) (s : State) : State × Answer :=
  let slot := q.u32 8
  let cores := bitsOf 256 (fieldAt q.params 16 32)
  let a := parseLoadAdd (q.u32 12)
  loadRow 4224 q s (fun img s =>
    let l : TableLoad :=
      { fn := q.fn, slot := slot, image := img, cores := cores, addEn := a.en, addCtr := a.ctr, addAmount := a.amount, rejected := caddyFault img, cmd := q.cmd }
    { s with cores := ({ s.cores with caddyLoads := s.cores.caddyLoads ++ [l] } : CoresState).startLoad q.fn slot })

/-- CADDY_LOAD (R148 to R153). -/
def execCaddyLoad (f : Fn) (m : Mb) (s : State) : Host.Outcome State Fault Refusal := .next (s.serve f m caddyForm caddyRow).rejectLoads

/-- CADDY_SHADOW_PENDING: every masked core of the function's oldest load holds the table (R151). -/
def State.shadowPending (s : State) (f : Nat) : State :=
  match s.cores.caddyLoads.find? (fun l => l.fn == f) with
  | none => s
  | some l =>
    let x := s.cores.shadow l (fun b => { b with shadow := l.image, shadowState := .pending })
    let s := { s with cores := { x with caddyLoads := x.caddyLoads.erase l } }
    let s := (s.loadAdd l).complete l.cmd {}
    { s with cores := s.cores.startLoad f l.slot }

/-- CADDY_SHADOW_PENDING (R151). -/
def execCaddyShadowPending (f : Fn) (s : State) : Host.Outcome State Fault Refusal := .next (s.clocked (fun s => s.shadowPending f))

def codeForm : CmdForm :=
  { code := 0x0502, len := .fixed 16, masks := [0xFFFFFFFF, 0xFFFF, 0xF, 0x3FFFFFFF], accepts := true
    owns := fun q s => (parseLoadAdd (q.u32 12)).permitted (s.ctxOf q.fn)
    range := fun q => if q.u32 0 % 64 = 0 then [] else [0] }

def codeRow (q : Req) (s : State) : State × Answer :=
  let a := parseLoadAdd (q.u32 12)
  loadRow 256 q s (fun img s =>
    let busyCores := (s.cores.cores.filter (fun e => e.2.run.isSome)).map (·.1)
    let l : TableLoad :=
      { fn := q.fn, slot := q.u32 8, image := img, cores := busyCores, addEn := a.en, addCtr := a.ctr, addAmount := a.amount
        rejected := (codeTableFault img).map (fun x => (x.1, 0)), cmd := q.cmd }
    { s with cores := { s.cores with codeLoads := s.cores.codeLoads ++ [l] } })

/-- CODE_TABLE_LOAD (R190, R192, R193). -/
def execCodeTableLoad (f : Fn) (m : Mb) (s : State) : Host.Outcome State Fault Refusal := .next (s.serve f m codeForm codeRow).rejectLoads

/-- CODE_TABLE_IN_FORCE: every core has passed a boundary, or had no block, since the function's oldest load (R193). -/
def State.codeInForce (s : State) (f : Nat) : State :=
  match s.cores.codeLoads.find? (fun l => l.fn == f) with
  | none => s
  | some l =>
    if l.cores.isEmpty then
      ({ s with cores := { s.cores with codeLoads := s.cores.codeLoads.erase l, codeTables := tset [] s.cores.codeTables (16 * f + l.slot) l.image } }.loadAdd l).complete l.cmd {}
    else s

/-- CODE_TABLE_IN_FORCE (R193). -/
def execCodeTableInForce (f : Fn) (s : State) : Host.Outcome State Fault Refusal := .next (s.clocked (fun s => s.codeInForce f))

/-- What the RESERVED groups carry in frame n (R89), and the changes of entries that name no core (R90). -/
def ShareState.newFrame (h : ShareState) (n t : Nat) (hot : Nat → Bool) : ShareState :=
  each (h.waiting.filter (fun w => !h.namesCore w)) (fun w h => h.apply t w)
    { h with
      frame := n
      calibrating := n % 65536 == 0
      hotDies := BitVec.ofNat 4 (maskOf ((List.range 4).filter hot)) }

/-- CADENCE_FRAME: the next frame boundary (R87, R89). -/
def State.cadence (s : State) : State :=
  let n := s.share.frame + 1
  let s := s.upTo (n * frameTicks)
  let hot (d : Nat) : Bool := decide (95 ≤ max (tget 0 s.clocks.stackHeld (2 * d)) (tget 0 s.clocks.stackHeld (2 * d + 1)))
  { s with share := s.share.newFrame n (n * frameTicks) hot }

/-- CADENCE_FRAME (R89). -/
def execCadenceFrame (s : State) : Host.Outcome State Fault Refusal := .next (s.clocked State.cadence)

end Sys2Proof.Machine
end

