-- ==== Sys2Proof/Machine/Stem.lean ====
section
/-! DEFINITION. The stem engines (R307 to R325): queues, descriptors from start to end, rows and their counters, detections, completions (Table 14.4), early endings. -/

namespace Sys2Proof.Machine

def State.stem (s : State) (e : Nat) : StemEngine := tget {} s.stems e
def State.modStem (s : State) (e : Nat) (f : StemEngine → StemEngine) : State := { s with stems := tmod {} s.stems e f }
def State.modStemRun (s : State) (e : Nat) (f : StemRun → StemRun) : State := s.modStem e (fun x => { x with running := x.running.map f })

def StemEngine.queue (x : StemEngine) (f : Nat) : List (List Byte) := tget [] x.queues f

def stemPostForm : CmdForm :=
  { code := 0x0303, len := .counted 4 1 0 128, masks := [3, 3, 0, 0], range := fun q => if q.u32 4 % 4 = 0 then [4] else [] }

def stemPostRow (q : Req) (s : State) : State × Answer :=
  let e := q.u32 0
  let n := q.u32 4 % 4
  if (s.ctxOf q.fn).coreMask.toNat / 2 ^ (64 * e) % 2 ^ 64 = 0 then (s, notPermitted)
  else if 64 < ((s.stem e).queue q.fn).length + n then (s, busy)
  else (s.modStem e (fun x => { x with queues := tset [] x.queues q.fn (x.queue q.fn ++ q.entries 16 128 n) }), {})

/-- STEM_POST (R308). -/
def execStemPost (f : Fn) (m : Mb) (s : State) : Host.Outcome State Fault Refusal := .next (s.serve f m stemPostForm stemPostRow)

def stemResumeForm : CmdForm := { code := 0x0304, len := .fixed 8, masks := [3, 1] }

def stemResumeRow (q : Req) (s : State) : State × Answer :=
  let x := s.stem (q.u32 0)
  if !x.halted.contains q.fn then (s, { status := stSequenceState })
  else
    (s.modStem (q.u32 0) (fun x =>
      { x with halted := x.halted.filter (· != q.fn), queues := if bit (q.u32 4) 0 then tset [] x.queues q.fn [] else x.queues }), {})

/-- STEM_RESUME (R324). -/
def execStemResume (f : Fn) (m : Mb) (s : State) : Host.Outcome State Fault Refusal := .next (s.serve f m stemResumeForm stemResumeRow)

/-- A stem or detection descriptor's KIND, 3 being DETECT. -/
def stemKind (b : List Byte) : Nat := field (fieldAt b 0 4) 2 0

/-- A counter the descriptor may not name: not allotted, or of a cluster on another die (R123, R309). -/
def badCtr (r : CtxRec) (die ctr : Nat) : Bool := !r.ownsCtr (fieldCluster ctr) ctr || (!bit ctr 12 && fieldCluster ctr / 4 != die)

/-- Why a descriptor ends at its start (R309). -/
def stemRefusal (r : CtxRec) (die f : Nat) (b : List Byte) : Option Nat :=
  if stemKind b = 3 then
    let d := parseDet b
    if wordsBad detMasks b || d.bad (f != 0) then some stBadField
    else if (d.waitEn && badCtr r die d.waitCtr) || (d.doneEn && badCtr r die d.doneCtr) then some stNotPermitted
    else none
  else
    let d := parseStem b
    if wordsBad stemMasks b || d.bad (f != 0) then some stBadField
    else if (d.waitEn && (badCtr r die d.ctrL || badCtr r die d.ctrC || badCtr r die d.ctrR)) || (d.rowEn && badCtr r die d.rowCtr) then some stNotPermitted
    else none

/-- A completion (Table 14.4). -/
structure StemEnd where
  status : Nat := 0
  kind : Nat := 0
  reason : Nat := 0
  user : Nat := 0
  rowsDone : Nat := 0
  clamped : Nat := 0
  waitUs : Nat := 0
  kept : Nat := 0
  invalid : Nat := 0
  limited : Nat := 0
  overflow : Nat := 0
  address : Nat := 0
  deriving DecidableEq, Repr

def StemEnd.payload (x : StemEnd) (e : Nat) : List Byte :=
  natLe 2 x.status ++ natLe 1 (x.kind + 8 * e) ++ natLe 1 x.reason ++ natLe 4 x.user ++ natLe 4 x.rowsDone ++ natLe 4 x.clamped
    ++ natLe 4 (min x.waitUs (2 ^ 32 - 1)) ++ natLe 4 x.kept ++ natLe 4 x.invalid ++ natLe 4 x.limited ++ natLe 4 x.overflow ++ natLe 4 0 ++ natLe 6 x.address

/-- A STEM entry (R323). -/
def State.stemEntry (s : State) (e f : Nat) (x : StemEnd) : State :=
  s.post f { source := BitVec.ofNat 8 srcStem, origin := BitVec.ofNat 4 f, code := 0, payload := x.payload e, timeNs := s.ns }

/-- USER, EVENT and TIMEOUT of a descriptor of either layout. -/
def stemUser (b : List Byte) : Nat := if stemKind b = 3 then (parseDet b).user else (parseStem b).user
def stemEvent (b : List Byte) : Bool := if stemKind b = 3 then (parseDet b).event else (parseStem b).event
def stemTimeoutUs (b : List Byte) : Nat := if stemKind b = 3 then (parseDet b).timeout else (parseStem b).timeout

/-- Ticks waited by now. -/
def StemRun.waits (r : StemRun) (now : Nat) : Nat :=
  r.waited + match r.waitSince with
    | some t => now - t
    | none => 0

/-- What every ending of a run reports. -/
def StemRun.ending (r : StemRun) (now : Nat) : StemEnd :=
  { kind := stemKind r.desc, user := stemUser r.desc, rowsDone := r.rowsDone, clamped := r.clamped, waitUs := r.waits now / usTicks }

/-- An input row's bytes, its halo columns with the stripe's own, as memory stands (R290, R311, R317). -/
def stemLine (m : MemState) (p : PageState) (f : Nat) (d : StemDesc) (row : Nat) : Except (Nat × Args) (List Byte) :=
  engineRead m p f ((d.srcRanges row).flatMap (fun x => grainPieces x.1 x.2))

/-- The row as the line buffers hold it; one they do not hold, as memory stands. -/
def StemRun.line (r : StemRun) (m : MemState) (p : PageState) (row : Nat) : Except (Nat × Args) (List Byte) :=
  match r.lines.find? (fun x => x.1 == row) with
  | some x => .ok x.2
  | none => stemLine m p r.fn (parseStem r.desc) row

/-- The lines an output row reads (R311). -/
def stemLines (m : MemState) (p : PageState) (r : StemRun) : List Nat → Except (Nat × Args) StemLines
  | [] => .ok []
  | x :: l =>
    match r.line m p x with
    | .error e => .error e
    | .ok bs =>
      match stemLines m p r l with
      | .error e => .error e
      | .ok t => .ok ((x, rowIn (parseStem r.desc) bs) :: t)

/-- Output row y: the pieces to write and the elements clamped. -/
def stemRowPieces (s : State) (r : StemRun) (y : Nat) : Except (Nat × Args) (List (Nat × List Byte) × Nat) :=
  let d := parseStem r.desc
  match stemLines s.mem s.pages r (d.rowsFor y) with
  | .error e => .error e
  | .ok lines =>
    let row := stemRow d r.weights lines y
    .ok (((d.dstRanges y).zip row.1).flatMap (fun x => cutPieces x.1.1 x.2), row.2)

/-- One candidate: dropped, invalid, or passing with its box (R319, R320). -/
inductive Cand where
  | dropped
  | invalid
  | passes (b : Box)
  deriving DecidableEq, Repr

/-- Candidate i (R319, R320). -/
def readCand (s : State) (f : Nat) (d : DetDesc) (i : Nat) : Except (Nat × Args) Cand :=
  match engineRead s.mem s.pages f (grainPieces (d.cand + 32 * i) 32) with
  | .error e => .error e
  | .ok bs =>
    let c := parseBox bs
    if !(f32 d.scoreMin).le (f32 c.score) then .ok .dropped
    else if d.anchorCount ≤ c.ix then .ok .invalid
    else
      match engineRead s.mem s.pages f (grainPieces (d.anchors + 16 * c.ix) 16) with
      | .error e => .error e
      | .ok as =>
        let x := decodeBox d c.d (wordsOf 4 as)
        .ok (if goodBox x then .passes { d := x, score := c.score, cls := c.cls, ix := i } else .invalid)

/-- Candidates i to i + n - 1: those passing in visiting order, and how many are invalid. -/
def readCands (s : State) (f : Nat) (d : DetDesc) : Nat → Nat → Except (Nat × Args) (List Box × Nat)
  | _, 0 => .ok ([], 0)
  | i, n + 1 =>
    match readCand s f d i with
    | .error e => .error e
    | .ok c =>
      match readCands s f d (i + 1) n with
      | .error e => .error e
      | .ok r =>
        match c with
        | .dropped => .ok r
        | .invalid => .ok (r.1, r.2 + 1)
        | .passes b => .ok (boxInsert b r.1, r.2)

/-- What a detection writes, and its counts (R319 to R322). -/
def detPieces (s : State) (r : StemRun) : Except (Nat × Args) (List (Nat × List Byte) × StemEnd) :=
  let d := parseDet r.desc
  let n := r.count.getD 0
  match readCands s r.fn d 0 (min n 65536) with
  | .error e => .error e
  | .ok c =>
    let k := strain d c.1 [] 0
    .ok (cutPieces d.dst (k.1.flatMap Box.bytes) ++ (if d.dstCount = 0 then [] else cutPieces d.dstCount (natLe 4 k.1.length)),
      { kept := k.1.length, invalid := c.2, limited := k.2, overflow := n - 65536 })

/-- Input row r may be read (R316). -/
def State.gatesMet (s : State) (d : StemDesc) (r : Nat) : Bool :=
  !d.waitEn || (d.gates r).all (fun g => s.share.reached (fieldCluster g.1) g.1 g.2)

/-- Output row i of those still to come can be computed: each input row it needs has been read, or its counters are met (R316). -/
def State.rowReady (s : State) (r : StemRun) (i : Nat) : Bool :=
  let d := parseStem r.desc
  (d.rowsFor (d.y0 + r.rowsDone + i)).all (fun x => (d.inRows.take r.rowsRead).contains x || s.gatesMet d x)

/-- What the descriptor may still have written: rows in turn, as far as their input may be read and a CONV has its weights, or the detection once its wait is met (R316, R318, R324). -/
def State.stemRest (s : State) (r : StemRun) (rows : Nat) : List (Nat × List Byte) :=
  if stemKind r.desc = 3 then
    match r.count, detPieces s r with
    | some _, .ok x => x.1
    | _, _ => []
  else if stemKind r.desc = 0 ∧ r.weights = [] then []
  else
    ((List.range rows).takeWhile (fun i => s.rowReady r i)).flatMap (fun i =>
      match stemRowPieces s r ((parseStem r.desc).y0 + r.rowsDone + i) with
      | .ok x => x.1
      | .error _ => [])

/-- Grains that are left old or new as the model's free bits have it (R324; log 22). -/
def State.someWritten (s : State) (f : Nat) (l : List (Nat × List Byte)) : State :=
  (written s.freeCtr true 0 ((engineWrites s.mem s.pages f l).map (·.2))).foldl (fun s t => s.writePhys f t.dst t.data) { s with freeCtr := s.freeCtr + 1 }

/-- A descriptor ends early: later grains hold old or new contents, the queue halts, the entry is written always (R324). -/
def State.stemFails (s : State) (e : Nat) (r : StemRun) (status reason address : Nat) : State :=
  let left := if stemKind r.desc = 3 then 0 else (parseStem r.desc).rows - r.rowsDone
  let s := s.someWritten r.fn (s.stemRest r left)
  (s.modStem e (fun x => { x with running := none, halted := insertNat r.fn x.halted })).stemEntry e r.fn { r.ending s.now with status := status, reason := reason, address := address }

/-- A failed access ends the descriptor (R324). -/
def State.stemBad (s : State) (e : Nat) (r : StemRun) (b : Nat × Args) : State := (s.noteBad b.2).stemFails e r b.2.status 0 b.1

/-- Input rows the run has still to read for its next output row. -/
def StemRun.awaited (r : StemRun) : List Nat :=
  let d := parseStem r.desc
  if d.rows ≤ r.rowsDone then [] else (d.inRows.drop r.rowsRead).filter (fun x => (d.rowsFor (d.y0 + r.rowsDone)).any (fun y => decide (x ≤ y)))

/-- A row has reached the line buffers (R316, R317). -/
def StemRun.take (r : StemRun) (now row : Nat) (bs : List Byte) : StemRun :=
  { r with lines := r.lines ++ [(row, bs)], rowsRead := r.rowsRead + 1, waited := r.waits now, waitSince := none }

/-- An output row is announced: the line buffers keep what the rows to come need. -/
def StemRun.announce (r : StemRun) (clamped : Nat) : StemRun :=
  let d := parseStem r.desc
  let n := r.rowsDone + 1
  { r with
    rowsDone := n
    clamped := r.clamped + clamped
    lines := r.lines.filter (fun x => (List.range (d.rows - n)).any (fun i => (d.rowsFor (d.y0 + n + i)).contains x.1)) }

/-- Rows read in turn, once each, while their counters are met; at the first that is not, the run waits (R316, R317). -/
def State.readRows (e : Nat) : List Nat → State → State
  | [], s => s.modStemRun e (fun r => { r with waitSince := none })
  | x :: l, s =>
    match (s.stem e).running with
    | none => s
    | some r =>
      if s.gatesMet (parseStem r.desc) x then
        (match stemLine s.mem s.pages r.fn (parseStem r.desc) x with
          | .error b => s.stemBad e r b
          | .ok bs => State.readRows e l (s.modStemRun e (fun r => r.take s.now x bs)))
      else s.modStemRun e (fun r => { r with waitSince := some (r.waitSince.getD s.now) })

/-- The count of candidates read, or given (R319). -/
def State.readCount (s : State) (e : Nat) (r : StemRun) : State :=
  let d := parseDet r.desc
  let done (n : Nat) : State := s.modStemRun e (fun r => { r with count := some n, waited := r.waits s.now, waitSince := none })
  if d.countAddr = 0 then done d.count
  else
    match engineRead s.mem s.pages r.fn (grainPieces d.countAddr 4) with
    | .error b => s.stemBad e r b
    | .ok bs => done (leNat bs)

/-- A DETECT whose wait is met, or asks for none, reads its count; else it waits (R318, R319). -/
def State.detGo (s : State) (e : Nat) (r : StemRun) : State :=
  let d := parseDet r.desc
  if d.waitEn && !s.share.reached (fieldCluster d.waitCtr) d.waitCtr d.waitThr then
    s.modStemRun e (fun r => { r with waitSince := some (r.waitSince.getD s.now) })
  else s.readCount e r

/-- The next queue with a ready head, in ascending function number from the one served last (R308). -/
def StemEngine.next (x : StemEngine) : Option (Nat × List Byte) :=
  ((List.range 16).map (fun i => (x.last + 1 + i) % 16)).findSome? (fun f => if x.halted.contains f then none else (x.queue f).head?.map (fun b => (f, b)))

/-- The descriptor begins: a CONV reads its weights, a DETECT its count, and the first rows are read (R308, R310, R316). -/
def State.stemBegin (s : State) (e : Nat) (r : StemRun) : State :=
  let s := s.modStem e (fun x => { x with running := some r })
  if stemKind r.desc = 3 then s.detGo e r
  else if stemKind r.desc = 0 then
    let d := parseStem r.desc
    match engineRead s.mem s.pages r.fn (grainPieces d.wgt d.wgtLen) with
    | .error b => s.stemBad e r b
    | .ok bs => State.readRows e r.awaited (s.modStemRun e (fun r => { r with weights := bs }))
  else State.readRows e r.awaited s

/-- STEM_DESCRIPTOR_START: the engine takes the next queue's head; one that R309 rejects ends there. -/
def State.stemStart (s : State) (e : Nat) : State :=
  let x := s.stem e
  if x.running.isSome || !s.rst.past 11 true then s
  else
    match x.next with
    | none => s
    | some (f, b) =>
      let s := s.modStem e (fun x => { x with last := f, queues := tset [] x.queues f ((x.queue f).drop 1) })
      match stemRefusal (s.ctxOf f) e f b with
      | some st => s.stemEntry e f { status := st, kind := stemKind b, user := stemUser b }
      | none => s.stemBegin e { fn := f, desc := b, startAt := s.now }

/-- STEM_DESCRIPTOR_START (R308, R309). -/
def execStemDescriptorStart (e : StemIx) (s : State) : Host.Outcome State Fault Refusal := .next (s.clocked (fun s => s.stemStart e))

/-- The counters of the row the engine waits for have been met: it reads it (R316). -/
def State.rowWaitMet (s : State) (e : Nat) : State :=
  match (s.stem e).running with
  | none => s
  | some r => if stemKind r.desc = 3 then s else State.readRows e r.awaited s

/-- STEM_ROW_WAIT_MET (R316). -/
def execStemRowWaitMet (e : StemIx) (s : State) : Host.Outcome State Fault Refusal := .next (s.clocked (fun s => s.rowWaitMet e))

/-- DETECT_WAIT_MET (R318). -/
def execDetectWaitMet (e : StemIx) (s : State) : Host.Outcome State Fault Refusal :=
  .next (s.clocked (fun s => match (s.stem e).running with
    | none => s
    | some r => if stemKind r.desc = 3 && r.count.isNone then s.detGo e r else s))

/-- An output row finishes once the rows it needs are read: written, then announced (R312 to R316). -/
def State.stemRowDone (s : State) (e : Nat) : State :=
  match (s.stem e).running with
  | none => s
  | some r =>
    let d := parseStem r.desc
    if stemKind r.desc = 3 || decide (d.rows ≤ r.rowsDone) || r.awaited != [] then s
    else
      match stemRowPieces s r (d.y0 + r.rowsDone) with
      | .error b => s.stemBad e r b
      | .ok row =>
        match firstBad (engineWrites s.mem s.pages r.fn row.1) with
        | some b => s.stemBad e r b
        | none =>
          let s := (s.engineWrite r.fn row.1).1
          let s := if d.rowEn then s.addCtr (fieldCluster d.rowCtr) d.rowCtr 1 else s
          let s := s.modStemRun e (fun r => r.announce row.2)
          s.rowWaitMet e

/-- STEM_ROW_DONE (R103, R313, R315). -/
def execStemRowDone (e : StemIx) (s : State) : Host.Outcome State Fault Refusal := .next (s.clocked (fun s => s.stemRowDone e))

/-- The run leaves the engine and reports, if asked (R323). -/
def State.stemEnds (s : State) (e : Nat) (r : StemRun) (x : StemEnd) : State :=
  let s := s.modStem e (fun x => { x with running := none })
  if stemEvent r.desc then s.stemEntry e r.fn x else s

/-- The descriptor ends: its last row is announced, or the detection is made (R322, R323). -/
def State.stemDone (s : State) (e : Nat) : State :=
  match (s.stem e).running with
  | none => s
  | some r =>
    if stemKind r.desc = 3 then
      if r.count.isNone then s
      else
        match detPieces s r with
        | .error b => s.stemBad e r b
        | .ok x =>
          match firstBad (engineWrites s.mem s.pages r.fn x.1) with
          | some b => s.stemBad e r b
          | none =>
            let d := parseDet r.desc
            let s := (s.engineWrite r.fn x.1).1
            let s := if d.doneEn then s.addCtr (fieldCluster d.doneCtr) d.doneCtr d.amount else s
            s.stemEnds e r { x.2 with kind := 3, user := d.user, waitUs := r.waits s.now / usTicks }
    else if (parseStem r.desc).rows ≤ r.rowsDone then s.stemEnds e r (r.ending s.now)
    else s

/-- STEM_DESCRIPTOR_DONE (R322, R323). -/
def execStemDescriptorDone (e : StemIx) (s : State) : Host.Outcome State Fault Refusal := .next (s.clocked (fun s => s.stemDone e))

/-- TIMEOUT elapses (R324). -/
def State.stemTimedOut (s : State) (e : Nat) : State :=
  match (s.stem e).running with
  | none => s
  | some r =>
    let t := stemTimeoutUs r.desc
    if t = 0 then s else (s.upTo (r.startAt + t * usTicks)).stemFails e r stSlipLimit 1 0

/-- STEM_TIMEOUT (R324). -/
def execStemTimeout (e : StemIx) (s : State) : Host.Outcome State Fault Refusal := .next (s.clocked (fun s => s.stemTimedOut e))

/-- Function-level reset of f on engine e: its queue is emptied; its descriptor in progress stops at its next row, with no ADD and no completion (R325). -/
def State.stemFlr (f : Nat) (s : State) (e : Nat) : State :=
  let x := s.stem e
  let s := s.modStem e (fun x => { x with queues := tset [] x.queues f [], halted := x.halted.filter (· != f) })
  match x.running with
  | none => s
  | some r => if r.fn = f then (s.someWritten f (s.stemRest r 1)).modStem e (fun x => { x with running := none }) else s

end Sys2Proof.Machine
end

