-- ==== Sys2Proof/Machine/Flr.lean ====
section
/-! DEFINITION. Function-level reset (R342, R357, R358 and the reset rules of each chapter) and VF Enable (R348). -/

namespace Sys2Proof.Machine

/-- A ring not set, its backlog discarded (R342). -/
def RingState.cleared (r : RingState) : RingState := { r with valid := false, backlog := [], lostSince := 0, owed := none, unsignalled := 0 }

/-- Mailboxes of function f at their Reset values, its commands gone, its ring cleared (R342). -/
def CtlState.flr (c : CtlState) (f : Nat) : CtlState :=
  { c with
    mailbox := c.mailbox.filter (fun e => e.1 / 8192 != f)
    posted := c.posted.filter (fun p => p.1 != f)
    stale := c.stale.filter (fun p => p.1 != f)
    rings := tset {} c.rings f (c.ring f).cleared
    inProgress := c.inProgress.filter (fun p => p.cmd.fn != f)
    services := c.services.filter (fun p => p.1.fn != f) }

/-- Commands of PF0 that name function f complete with SEQUENCE_STATE (R342). -/
def State.flrNamed (s : State) (f : Nat) : State :=
  if f = 0 then s
  else each (s.ctl.inProgress.filter (fun p => p.cmd.fn == 0 && p.names == f)) (fun p s => s.complete p.cmd { status := stSequenceState, detail := 3 }) s

/-- A sequence of a function being reset (R248). -/
def SeqEntry.flr (e : SeqEntry) : SeqEntry :=
  if e.st = .retiring then { e with st := .free, listed := false } else { e with st := .parkedHost, parkReason := 3, listed := false, need := 0 }

/-- Lists of function f are discarded, its sequences parked, its context commands over (R248, R342). -/
def SeqState.flr (q : SeqState) (f : Nat) : SeqState :=
  { q with
    seqs := each (q.ofFn f) (fun i t => tmod {} t i SeqEntry.flr) q.seqs
    lists := tset [] q.lists f []
    lookahead := tset [] q.lookahead f []
    destroying := tset none q.destroying f none
    preempting := tset none q.preempting f none
    restoring := tset none q.restoring f none }

/-- The page engine starts nothing more for function f (R227). -/
def PageState.flr (p : PageState) (f : Nat) : PageState :=
  { p with
    recs := tmod {} p.recs f (fun r => { r with enabled := false })
    prefetches := p.prefetches.filter (fun m => m.fn != f || m.frames.isSome)
    shareWaits := p.shareWaits.filter (fun w => w.cmd.fn != f)
    reenables := p.reenables.filter (fun r => r.1 != f) }

/-- A core of a function being reset: its queued blocks and waiting successors are gone; a running block goes on to its boundary (R357, step 3). -/
def CoreState.flr (k : CoreState) (f : Nat) : CoreState :=
  { k with
    queues := tset [] k.queues f []
    successors := tset none k.successors f none
    load := k.load.filter (fun l => l.fn != f)
    kept := k.kept.filter (fun l => l.fn != f)
    saved := tset (0, false) k.saved f (0, false) }

/-- The loads of tables that function f asked for end (R151, R193). -/
def CoresState.flr (x : CoresState) (f : Nat) : CoresState :=
  { x.mapCores (fun _ k => k.flr f) with
    caddyLoads := x.caddyLoads.filter (fun l => l.fn != f)
    codeLoads := x.codeLoads.filter (fun l => l.fn != f) }

/-- A started MOVE or copy is cut short: grains started complete, no ADD or entry follows (R357, step 4; log 22). -/
def State.descCut (s : State) (ch : ChannelIx) (f : Nat) (q : QDesc) : State :=
  if !q.started || (parseDesc ch q.bytes).fence then s
  else
    match ch with
    | .pannier =>
      let d := parsePannier q.bytes
      let w := written s.freeCtr true 0 ((List.range d.count).map (moveGrain s f d q.early))
      { s with freeCtr := s.freeCtr + 1, mem := w.foldl (fun m t => m.moverStore f s.rst.pannierFilled t) s.mem }
    | .hostCopy =>
      let d := parseHostCopy q.bytes
      let ps := grainPieces d.dst d.count
      if d.flag then
        let w := written s.freeCtr true 0 (ps.map (toHostPiece s f d q.early))
        State.toHost f w { s with freeCtr := s.freeCtr + 1 }
      else
        let w := written s.freeCtr true 0 (ps.map (fromHostPiece s f d))
        w.foldl (fun s t => s.writePhys f t.dst t.data) { s with freeCtr := s.freeCtr + 1 }
    | .collective => s

/-- A mover or host-copy queue of function f is emptied (R357, step 4). -/
def State.queueCut (s : State) (ch : ChannelIx) (f : Nat) : State :=
  (each (s.queue ch f).descs (fun q s => s.descCut ch f q) s).setQueue ch f {}

/-- Steps 1 to 5 of R357 for one function; a quote whose signing it stops makes way for the next (R406). -/
def State.flrBegin (f : Nat) (s : State) : State :=
  if (s.host.fn f).flr.isSome then s
  else
    let s := { s with host := s.host.setFn f { s.host.fn f with flr := some { since := s.now } } }
    let s := s.flrNamed f
    let s := State.unrouse { s with ctl := s.ctl.flr f, seqs := s.seqs.flr f, pages := s.pages.flr f, cores := s.cores.flr f } s
    let s := (s.queueCut .pannier f).queueCut .hostCopy f
    let s := { s with mem := s.mem.filled f }.flrFabric f
    let s := { s with codecs := each (s.codecs.map (·.1)) (fun e t => tmod {} t e (fun x => x.flr f)) s.codecs }
    (each (List.range 4) (fun e s => State.stemFlr f s e) s).nextQuote

/-- VFs that are enabled, ascending. -/
def HostState.vfs (h : HostState) : List Nat := (List.range h.vfsEnabled.toNat).map (· + 1)

/-- VF Enable clears: each VF is reset (R357, R358). -/
def State.vfsClear (s : State) : State :=
  let s' := each s.host.vfs State.flrBegin s
  { s' with host := { s'.host with vfsEnabled := 0 } }

/-- The reset of the next function that waits begins, once no VF's is in progress (R358). -/
def State.flrNext (s : State) : State :=
  match s.host.flrWaiting with
  | [] => s
  | f :: rest =>
    if (List.range 15).any (fun i => (s.host.fn (i + 1)).flr.isSome) then s
    else State.flrBegin f { s with host := { s.host with flrWaiting := rest } }

/-- A function-level reset begins; one of PF0 clears VF Enable, and the resets of the VFs come before its own steps, in ascending order (R357, R358). One that arrives while the function's reset is in progress has no further effect. -/
def State.flrStart (s : State) (f : Nat) : State :=
  if s.host.resetting f then s
  else if f = 0 then
    { s with host := { s.host with vfsEnabled := 0, flrWaiting := s.host.vfs.filter (fun g => (s.host.fn g).flr.isNone) ++ [0] } }.flrNext
  else State.flrBegin f s

/-- FLR: Initiate Function Level Reset is a configuration write (R357). -/
def execFlr (f : Fn) (s : State) : Host.Outcome State Fault Refusal := .next (s.clocked (fun s => s.configure f (fun s => s.flrStart f)))

/-- FLR_BLOCK_LIMIT: 1 ms after the FLR began, a block still running ends under R99, without an entry (R357, step 3). -/
def State.flrLimit (s : State) (f c : Nat) : State :=
  match (s.host.fn f).flr, (s.core c).run with
  | some j, some r =>
    if r.fn = f ∧ r.ending.isNone = true then
      (s.endAt c (max s.now (j.since + msTicks)) (blockFault faultPreempted)).modRun c (fun r => { r with silent := r.silent || r.ending == some (blockFault faultPreempted) })
    else s
  | _, _ => s

/-- FLR_BLOCK_LIMIT (R357). -/
def execFlrBlockLimit (f : Fn) (c : CoreIx) (s : State) : Host.Outcome State Fault Refusal := .next (s.clocked (fun s => s.flrLimit f c))

/-- A core holds nothing more of function f: no block, no grain or ADD of an ended one outstanding, and no entry of one to be written. -/
def CoreState.leftBy (k : CoreState) (f : Nat) : Bool :=
  (k.run.map (fun r => r.fn != f)).getD true && k.mover.descs.all (fun d => d.fn != f)
    && k.ended.all (fun b => b.fn != f)

/-- The page engine has finished what it had under way for function f (R227). -/
def PageState.idleOf (p : PageState) (f : Nat) : Bool :=
  p.appends.all (fun a => a.fn != f) && p.spills.all (fun m => m.fn != f) && p.prefetches.all (fun m => m.fn != f) && p.invalidations.all (fun v => v.fn != f)

/-- The FLR of function f may complete: its blocks have left the cores, the page engine has finished (R227, R357). -/
def State.flrReady (s : State) (f : Nat) : Bool := s.cores.cores.all (fun e => e.2.leftBy f) && s.pages.idleOf f

/-- Frames of function f become ORPHANED (R227), as far as their entries can be read; of one that cannot, PF0 is told (R226; log 48). -/
def State.orphan (s : State) (f : Nat) : State :=
  if !s.pages.ftValid then s
  else
    let es := s.framesOf f (fun x => x.st == ftFree || x.st == ftMapped || x.st == ftQuarantine || x.st == ftMoving)
    State.tableMet { s with
      mem := each es (fun e m => m.ftMod s.pages.ft e (fun x => { x with st := ftOrphaned, count := 0 })) s.mem
      host := if es.isEmpty then s.host else s.host.setFn f { s.host.fn f with orphans := true } } (s.framesUe f)

/-- The page engine's state of function f: stacks and ring empty, ENABLED clear, translations gone (R227). -/
def PageState.empty (p : PageState) (f : Nat) : PageState :=
  { p.invalidate f (fun _ => true) with
    recs := tmod {} p.recs f (fun r => { r with freeFast := 0, freePannier := 0, occupancy := 0, quarantined := 0, spilled := 0, enabled := false })
    ring := tset [] p.ring f []
    ringHead := tset 0 p.ringHead f 0
    spilling := p.spilling.filter (· != f)
    spillStopped := p.spillStopped.filter (· != f)
    spillSkip := p.spillSkip.filter (fun x => x.1 != f) }

/-- Seal entries of function f go with zeros; its key is destroyed (R182, R407). -/
def State.unsealAll (s : State) (f : Nat) : State :=
  let mine := (List.range 64).filter (fun i => (s.mem.seal i).valid && (s.mem.seal i).owner.toNat == f)
  let s := each mine (fun i s => if s.mem.removals.any (fun r => r.entry == i) then s.sealRemoved i else { s with mem := s.mem.unseal i }) s
  { s with mem := { s.mem with sealKeys := tset none s.mem.sealKeys f none } }

/-- Function registers at their Reset values, but for ORPHANS (R357, step 8); configuration space at its own, the MSI-X table masked, but for Max_Payload_Size, the BAR sizes and the AER registers (the PCIe rules for a reset function: PRESUMED, log 50). -/
def HostFn.afterFlr (x : HostFn) : HostFn :=
  { orphans := x.orphans, bar2Log2 := x.bar2Log2, aerStatus := x.aerStatus, aerMask := x.aerMask, aerSeverity := x.aerSeverity
    aerCorrectable := x.aerCorrectable, aerCorrectableMask := x.aerCorrectableMask, aerFirst := x.aerFirst
    deviceControl := 0x2010 ||| (x.deviceControl &&& 0xE0) }

/-- Steps 2 and 5 to 8 of R357; what arose for the function meanwhile goes with its backlog (R342); the next reset that waits begins (R358). The context's allotments stay in force (R240). -/
def State.flrEnd (s : State) (f : Nat) : State :=
  let r := s.ctxOf f
  let s := (s.setCtx f { r with st := .absent }).scrubAllot r {}
  let cores := s.cores.emptySlots r
  let s := { s with cores := { cores with codeTables := tclear cores.codeTables (16 * f) (16 * f + 16) } }
  let s := { s with pages := s.pages.empty f }.orphan f
  let s := s.unsealAll f
  let s := { s with ctl := s.ctl.setRing f (s.ctl.ring f).cleared }
  { s with host := { s.host.setFn f (s.host.fn f).afterFlr with vfMemory := s.host.vfMemory && f != 0 } }.flrNext

/-- FLR_COMPLETE (R357). -/
def execFlrComplete (f : Fn) (s : State) : Host.Outcome State Fault Refusal :=
  .next (s.clocked (fun s => if (s.host.fn f).flr.isSome && s.flrReady f then s.flrEnd f else s))

/-- VF_ENABLE: VF Enable is set with NumVFs, while it was clear, or cleared (R348, R357). -/
def State.vfEnable (s : State) (num : Nat) : State :=
  s.configure 0 (fun s =>
    if num = 0 then s.vfsClear
    else if s.host.vfsEnabled = 0 then { s with host := { s.host with vfsEnabled := BitVec.ofNat 4 num } }
    else s)

/-- VF_ENABLE (R348). -/
def execVfEnable (num : Fin 16) (s : State) : Host.Outcome State Fault Refusal := .next (s.clocked (fun s => s.vfEnable num))

end Sys2Proof.Machine
end

