-- ==== Sys2Proof/Machine/Tandem.lean ====
section
/-! DEFINITION. Trim loading and the tandem store (R383 to R390). -/

namespace Sys2Proof.Machine

/-- A trim copy is good (R383). -/
def trimGood (b : List Byte) : Bool :=
  fieldAt b 0 4 == 0x7A440001 && fieldAt b 4 2 == 1 && fieldAt b 0x7FC 4 == (crc32c (sliceAt b 0 0x7FC)).toNat
    && (List.range 272).all (fun n => field (fieldAt b (0x100 + n / 2) 1) (4 * (n % 2) + 3) (4 * (n % 2)) != 0)

/-- The trim copy the loader takes: the first good one (R384). -/
def trimTaken : Option (List Byte) := ((List.range 3).map (fun k => sliceAt (Config.trimCopy k) 0 2048)).find? trimGood

/-- The shadows after one pass (R384, R385). -/
def ResetState.loadTrim (r : ResetState) : ResetState :=
  match trimTaken with
  | some b => { r with shadow := b, shadowValid := true, trimDefaulted := false }
  | none => { r with shadow := [], shadowValid := true, trimDefaulted := true }

/-- A reset of system level or above stands after step k of Table 18.4 and has not taken the next. -/
def ResetState.standsAfter (r : ResetState) (k : Nat) : Bool :=
  match r.current with
  | some c => c.level != .core && c.step == k + 1
  | none => false

/-- TRIM_LOAD_DONE: the loading started at step 2 ends (R384). -/
def execTrimLoadDone (s : State) : Host.Outcome State Fault Refusal :=
  .next (s.clocked (fun s => if s.rst.standsAfter 2 && !s.rst.shadowValid then { s with rst := s.rst.loadTrim } else s))

/-- Base of a tandem bank, true for B, and its size (Table 18.7). -/
def bankBase (b : Bool) : Nat := norTandem + 0x100000 * b2n b

/-- Sections of a body: type and contents of each, or none when one does not lie inside the body. The number bounds them. -/
def sections : Nat → List Byte → Option (List (Nat × List Byte))
  | 0, _ => none
  | n + 1, b =>
    if b.isEmpty then some []
    else
      let len := fieldAt b 1 3
      if b.length < 4 + len then none
      else (sections n (b.drop (4 + len))).map (fun l => (fieldAt b 0 1, sliceAt b 4 len) :: l)

/-- The check of a bank: 128 bits of SHAKE256 over the header with CHECK zero, then the body (R387). -/
def bankCheck (header body : List Byte) : List Byte := shake256 16 (patch header 16 (List.replicate 16 0) ++ body)

/-- A bank as stored: sequence number, body and sections; none unless it is valid (R387). -/
structure Bank where
  sequence : Nat
  body : List Byte
  parts : List (Nat × List Byte)
  deriving DecidableEq, Repr

def ResetState.readBank (r : ResetState) (b : Bool) : Option Bank :=
  let h := r.norRead (bankBase b) 64
  let n := fieldAt h 12 4
  if fieldAt h 0 4 ≠ 0x444E4154 ∨ fieldAt h 4 2 ≠ 1 ∨ 1048512 < n then none
  else
    let body := r.norRead (bankBase b + 64) n
    match sections (n + 1) body with
    | none => none
    | some l =>
      let types := l.map (·.1)
      if bankCheck h body == sliceAt h 16 16 && types.all (fun t => decide (1 ≤ t) && decide (t ≤ 5)) && decide types.Nodup then
        some { sequence := fieldAt h 8 4, body := body, parts := l }
      else none

/-- Bank A is the newer, or none is (R388). -/
def bankBNewer (a b : Nat) : Bool := let d := (b + 2 ^ 32 - a) % 2 ^ 32; decide (1 ≤ d) && decide (d < 2 ^ 31)

/-- The bank taken (R388). -/
def ResetState.takenBank (r : ResetState) : Option (Bool × Bank) :=
  match r.readBank false, r.readBank true with
  | some a, some b => if bankBNewer a.sequence b.sequence then some (true, b) else some (false, a)
  | some a, none => some (false, a)
  | none, some b => some (true, b)
  | none, none => none

/-- Entries of n bytes of a section. -/
def sectionEntries (n : Nat) (b : List Byte) : List Nat := (List.range (b.length / n)).map (fun i => fieldAt b (n * i) n)

/-- A section of a type; an absent one is empty (R389). -/
def Bank.part (b : Bank) (t : Nat) : List Byte := ((b.parts.find? (fun p => p.1 == t)).map (·.2)).getD []

/-- What a bank's sections say (Table 18.9); the layout of STACK_REPAIRS entries and of NEXT is the model's (log 31). -/
def Bank.config (b : Bank) : TandemConfig :=
  { retiredSlots := (List.range 16).flatMap (fun c => (bitsOf 17 (fieldAt (b.part 1) (4 * c) 4)).map (17 * c + ·))
    linkLanes := (sectionEntries 4 (b.part 2)).map (fun w => (field w 2 0, bit w 3, field w 18 4))
    repairs := (sectionEntries 8 (b.part 3)).map (fun w => (field w 7 0, field w 15 8, field w 63 16))
    fastRetired := bitsOf 64 (fieldAt (b.part 4) 0 8)
    pannierRetired := bitsOf 64 (fieldAt (b.part 4) 8 8)
    reserveNext := fieldAt (b.part 5) 0 4 }

/-- A section with its header. -/
def sectionBytes (t : Nat) (b : List Byte) : List Byte := natLe 1 t ++ natLe 3 b.length ++ b

/-- The body a configuration is written as. -/
def TandemConfig.body (t : TandemConfig) : List Byte :=
  sectionBytes 1 ((List.range 16).flatMap (fun c => natLe 4 (maskOf ((List.range 17).filter (fun k => t.retiredSlots.contains (17 * c + k))))))
    ++ sectionBytes 2 (t.linkLanes.flatMap (fun e => natLe 4 (e.1 + 8 * b2n e.2.1 + 16 * e.2.2)))
    ++ sectionBytes 3 (t.repairs.flatMap (fun e => natLe 8 (e.1 + 256 * e.2.1 + 65536 * e.2.2)))
    ++ sectionBytes 4 (natLe 8 (maskOf t.fastRetired) ++ natLe 8 (maskOf t.pannierRetired))
    ++ sectionBytes 5 (natLe 4 t.reserveNext)

/-- A bank's bytes: header and body (Tables 18.8, 18.9). -/
def bankBytes (sequence : Nat) (body : List Byte) : List Byte :=
  let h := natLe 4 0x444E4154 ++ natLe 4 1 ++ natLe 4 sequence ++ natLe 4 body.length ++ List.replicate 48 0
  patch h 16 (bankCheck h body) ++ body

/-- The taken bank's contents apply, or factory defaults (R388, R389). -/
def ResetState.takeBank (r : ResetState) : ResetState :=
  match r.takenBank with
  | some (b, x) => { r with tandemRead := true, bank := some b, sequence := BitVec.ofNat 32 x.sequence, config := x.config, configDefaulted := false }
  | none => { r with tandemRead := true, bank := none, sequence := 0, config := {}, configDefaulted := true }

/-- The tandem-store read started at step 3 is over or under way: it has not been taken yet. -/
def ResetState.reading (r : ResetState) : Bool := !r.tandemRead && r.past 3 false && !r.inCore

/-- TANDEM_READ_DONE (R389). -/
def execTandemReadDone (s : State) : Host.Outcome State Fault Refusal := .next (s.clocked (fun s => if s.rst.reading then { s with rst := s.rst.takeBank } else s))

/-- The older bank: the one not taken, or A (R390, step 1). -/
def ResetState.target (r : ResetState) : Bool := (r.bank.map (fun b => !b)).getD false

/-- The SEQUENCE the next write carries (R390, step 4). -/
def ResetState.nextSequence (r : ResetState) : W32 := if r.bank.isSome then r.sequence + 1 else 1

/-- TANDEM_WRITE_START: the firmware erases the target and writes what has been recorded so far; later changes are gathered for the next write (R390). -/
def ResetState.startWrite (r : ResetState) : ResetState :=
  { r.norErase (bankBase r.target) 0x100000 with write := some { bankB := r.target, config := r.config, sequence := r.nextSequence }, gathered := false }

/-- TANDEM_WRITE_START (R390). -/
def execTandemWriteStart (s : State) : Host.Outcome State Fault Refusal :=
  .next (s.clocked (fun s => if s.rst.ready && s.rst.gathered && s.rst.write.isNone then { s with rst := s.rst.startWrite } else s))

/-- A bank read back good is in force (R389, R390). -/
def ResetState.written (r : ResetState) (w : TandemWrite) : ResetState :=
  { r.norWrite (bankBase w.bankB) (bankBytes w.sequence.toNat w.config.body) with write := none, bank := some w.bankB, sequence := w.sequence, configDefaulted := false }

/-- A write's read-back ends (R390): in force, retried once, or given up with SPARE_EXHAUSTED. -/
def State.writeDone (s : State) (good : Bool) : State :=
  match s.rst.write with
  | none => s
  | some w =>
    if good then { s with rst := s.rst.written w }
    else if !w.retried then { s with rst := { s.rst with write := some { w with retried := true } } }
    else { s with rst := { s.rst with write := none } }.spareOut 7 (b2n w.bankB) false

/-- TANDEM_WRITE_DONE (R390). -/
def execTandemWriteDone (readBackGood : Bool) (s : State) : Host.Outcome State Fault Refusal := .next (s.clocked (fun s => s.writeDone readBackGood))

end Sys2Proof.Machine
end

