-- ==== Sys2Proof/Machine/Reset.lean ====
section
/-! DEFINITION. Resets (R377 to R382, R343, R248, R360 and the reset rules of each chapter): the levels and their sources, what each clears, the release order of Table 18.4, and the start of the controller (R391, R402). -/

namespace Sys2Proof.Machine

/-- Rank of a level: power-on contains system, and system contains core (R377). -/
def levelRank : ResetLevel → Nat
  | .core => 0
  | .system => 1
  | .powerOn => 2

/-- The security block at system reset: fuses stand; the log, the boot's key and the debug opening are gone (R393, R399, R403, R405). -/
def SecState.restart (c : SecState) : SecState :=
  { lcFuses := c.lcFuses, svn := c.svn, identitySeed := c.identitySeed, identityRoot := c.identityRoot, ownerSeed := c.ownerSeed, lifecycle := c.lifecycle
    ringMark := c.ringMark }

/-- Reset controller, stores and pins at system reset: kept, but for what a boot reads again (Table 18.1). -/
def ResetState.restart (r : ResetState) (now : Nat) : ResetState :=
  { trimDefaulted := r.trimDefaulted, configDefaulted := r.configDefaulted, cause := r.cause, current := some { level := .system, step := 2, lastAt := now }
    software := r.software, pins := r.pins, nor := r.nor, watchdogUntil := r.watchdogUntil }

/-- The system level of Table 18.1; after a thermal trip the stacks, in self-refresh, keep their contents (R373, R429): what the always-on block, the fuses, the stores and the outside hold stays; everything else takes its Reset values. -/
def State.systemReset (s : State) : State :=
  let s := s.cutTransition
  { pending := s.pending
    now := s.now
    freeCtr := s.freeCtr
    host := { memory := s.host.memory, messages := s.host.messages, reply := s.host.reply }
    mem := if s.clocks.thermtrip then { selfRefresh := true, cells := s.mem.cells, ue := s.mem.ue } else {}
    clocks := { brake := s.clocks.brake, stackNow := s.clocks.stackNow, junctionNow := s.clocks.junctionNow, packageMw := s.clocks.packageMw
                thermtrip := s.clocks.thermtrip, aoInternal := s.clocks.aoInternal }
    rst := s.rst.restart s.now
    sec := s.sec.restart
    svc := { exhausted := s.svc.exhausted } }

/-- The power-on level: the always-on block, RESET_CAUSE, the debug logic and the pins as well (Tables 18.1, 18.3). -/
def State.powerOnReset (s : State) : State :=
  let t := s.systemReset
  { t with
    mem := {}
    svc := {}
    clocks := { t.clocks with thermtrip := false, aoInternal := false }
    rst := { pins := { perstAsserted := s.rst.pins.perstAsserted }, nor := t.rst.nor, current := some { level := .powerOn, step := 1, lastAt := s.now } } }

/-- A ring at core reset: its backlog is discarded and counted (R343), which leaves it drained after a loss (R336). -/
def RingState.coreReset (now : Nat) (r : RingState) : RingState :=
  { r with lost := satAdd r.lost r.backlog.length, lostSince := r.lostSince + r.backlog.length, backlog := [] }.owe now

/-- The controller at core reset: mailbox pages and ring settings stay, commands in progress end without an entry (R343). -/
def CtlState.coreReset (now : Nat) (c : CtlState) : CtlState :=
  { c with rings := each (c.rings.map (·.1)) (fun f t => tmod {} t f (RingState.coreReset now)) c.rings, inProgress := [], services := [] }

/-- A sequence at core reset (R248). -/
def SeqEntry.coreReset (e : SeqEntry) : SeqEntry :=
  match e.st with
  | .active | .parkedNoPage => { e with st := .parkedHost, parkReason := 4, listed := false }
  | .retiring => { e with st := .free, listed := false }
  | .parkedHost | .free => { e with listed := false }

/-- A context at core reset (R248). -/
def CtxRec.coreReset (r : CtxRec) : CtxRec := if r.st = .absent ∨ r.st = .saved then r else { r with st := .running }

/-- Sequences, lists and contexts at core reset (R248). -/
def SeqState.coreReset (q : SeqState) : SeqState :=
  { seqs := each (q.seqs.map (·.1)) (fun i t => tmod {} t i SeqEntry.coreReset) q.seqs
    ctx := each (q.ctx.map (·.1)) (fun f t => tmod {} t f CtxRec.coreReset) q.ctx }

/-- The page engine at core reset: ENABLED is clear, nothing is under way; what memory holds stands (R217, R229). -/
def PageState.coreReset (p : PageState) : PageState :=
  { ftBase := p.ftBase, ftValid := p.ftValid, ring := p.ring, ringHead := p.ringHead, stopped := p.stopped
    recs := each (p.recs.map (·.1)) (fun f t => tmod {} t f (fun r => { r with enabled := false })) p.recs }

/-- Share table and counters at core reset: changes that wait are applied, counters are 0 (R90, R101). -/
def ShareState.coreReset (h : ShareState) (now : Nat) : ShareState :=
  { each h.waiting (fun w h => h.apply now w) h with clusterCtr := [], hubCtr := [], ueCtr := [], added := [] }

/-- A core at core reset: the driver's gear, and a swap that is due, stay with the logical core, and so does what a SAVED context left in memory (R19, R248, R382). -/
def CoreState.coreReset (k : CoreState) (kept : Nat → Bool) : CoreState :=
  { clock := { driverGear := k.clock.driverGear }, swap := k.swap, saved := k.saved.filter (fun e => kept e.1) }

/-- The cores at core reset: no block, zero partitions, caddy banks and code tables EMPTY, records clear (R77, R96, R153, R193, R248). -/
def CoresState.coreReset (x : CoresState) (kept : Nat → Bool) : CoresState :=
  { cores := each (x.cores.map (·.1)) (fun c t => tmod {} t c (fun k => k.coreReset kept)) x.cores, unavailable := x.unavailable }

/-- A relaxed queue at core reset: started descriptors end and halt it (R178). -/
def State.queueReset (s : State) (ch : ChannelIx) (f : Nat) : State :=
  let x := s.queue ch f
  if x.descs.any (fun q => q.started) then
    (each x.descs (fun q s => s.descCut ch f q) s).setQueue ch f { x with descs := x.descs.filter (fun q => !q.started), halted := true }
  else s

/-- A stem engine at core reset: its queues are empty, a descriptor in progress stops (R325). -/
def State.stemReset (e : Nat) (s : State) : State :=
  let s := match (s.stem e).running with
    | some r => s.someWritten r.fn (s.stemRest r 1)
    | none => s
  s.modStem e (fun _ => {})

/-- The core level of Table 18.1 (R382): in one tick the cores, stem, sequence and collective engines and the controller stop. -/
def State.coreResetNow (s : State) (lockup : Bool) : State :=
  let s := each (List.range 16) (fun f s => (s.queueReset .pannier f).queueReset .hostCopy f) s
  let s := each (List.range 4) State.stemReset s
  { s with
    ctl := s.ctl.coreReset s.now
    seqs := s.seqs.coreReset
    pages := s.pages.coreReset
    share := s.share.coreReset s.now
    cores := s.cores.coreReset (fun f => (s.ctxOf f).st == .saved)
    fabric := s.fabric.coreReset
    clocks := { s.clocks with spareClocks := [] }
    svc := { s.svc with requests := [], spares := each (s.svc.spares.map (·.1)) (fun c t => tmod {} t c (fun p => { p with first := [] })) s.svc.spares }
    sec := { s.sec with update := none, recovery := false, firmware := s.sec.firmware.map (fun f => { f with svnAt := none }) }
    rst := { s.rst with
      ready := false, coreReset := true, doneDue := true, lockupReset := lockup, current := some { level := .core, step := 5, lastAt := s.now }
      write := none, gathered := s.rst.gathered || s.rst.write.isSome } }

/-- A reset of a level is taken, unless one of the same or a higher level is in progress (R379). -/
def State.take (s : State) (level : ResetLevel) (fault lockup : Bool) : State :=
  if (s.rst.current.map (fun c => decide (levelRank level ≤ levelRank c.level))).getD false then s
  else
    let s := match level with
      | .core => s.coreResetNow lockup
      | .system => s.systemReset
      | .powerOn => s.powerOnReset
    if fault then { s with rst := { s.rst with pins := { s.rst.pins with faultN := false } } } else s

/-- A source of Table 18.2 arises: its bit of RESET_CAUSE is set, its level is taken; some assert FAULT_N (R348, R378, R379, R409). -/
def State.source (s : State) (level : ResetLevel) (cause : Nat) (fault lockup : Bool) : State :=
  if s.rst.pins.vaoUp then { s with rst := { s.rst with cause := s.rst.cause ||| BitVec.ofNat 8 (2 ^ cause) } }.take level fault lockup else s

/-- SYSTEM_RESET: the system level is taken, 10 us after a life-cycle transition or after recovery's update where one of these asks for it (R377, R394, R402). -/
def execSystemReset (s : State) : Host.Outcome State Fault Refusal := .next (((s.sec.transitionResetAt.map s.upTo).getD s).take .system false false)

/-- CORE_RESET: the core level is taken (R377, R382). -/
def execCoreReset (s : State) : Host.Outcome State Fault Refusal := .next (s.take .core false false)

/-- SOFTWARE_RESET_START: 10 us after its reply the oldest RESET_REQUEST acts (R378). -/
def State.softwareReset (s : State) : State :=
  match s.rst.software with
  | [] => s
  | (level, t) :: rest => ({ s with rst := { s.rst with software := rest } }.upTo t).source level 4 false false

/-- SOFTWARE_RESET_START (R378). -/
def execSoftwareResetStart (s : State) : Host.Outcome State Fault Refusal := .next (s.clocked (fun s => s.softwareReset))

/-- PERST_N_ASSERT (R378). -/
def execPerstNAssert (s : State) : Host.Outcome State Fault Refusal :=
  .next (if s.rst.pins.perstAsserted then s else { s with rst := { s.rst with pins := { s.rst.pins with perstAsserted := true } } }.source .system 2 false false)

/-- PERST_N_DEASSERT (R361): the release goes on (R379, R381). -/
def execPerstNDeassert (s : State) : Host.Outcome State Fault Refusal := .next { s with rst := { s.rst with pins := { s.rst.pins with perstAsserted := false } } }

/-- DEBUG_RESET_REQUEST: in BLANK, in MAKER, or in RETURN once opened; elsewhere no effect (R378, Table 19.2). -/
def execDebugResetRequest (system : Bool) (s : State) : Host.Outcome State Fault Refusal :=
  .next (if s.sec.lifecycle = 0 ∨ s.sec.lifecycle = 1 ∨ (s.sec.lifecycle = 3 ∧ s.sec.debugOpen = true) then s.source (if system then .system else .core) 5 false false else s)

/-- POWER_ON: VAO rises through its threshold (R378). -/
def execPowerOn (s : State) : Host.Outcome State Fault Refusal := .next s.powerOnReset

/-- VAO_LOSS: the always-on domain goes and every activity ends; only a power-on goes on from here (R378). THERMTRIP_N and FAULT_N stand until then (R373, R409). -/
def State.vaoLost (s : State) : State :=
  let t := s.powerOnReset
  { t with
    clocks := { t.clocks with thermtrip := s.clocks.thermtrip }
    rst := { t.rst with pins := { t.rst.pins with vaoUp := false, faultN := s.rst.pins.faultN } } }

/-- VAO_LOSS (R378). -/
def execVaoLoss (s : State) : Host.Outcome State Fault Refusal := .next s.vaoLost

/-- Rails that keep the stacks alive: the three of VMEM, and V1P8 (R429). -/
def memRail (r : Nat) : Bool := r == 6 || r == 7 || r == 8 || r == 11

/-- What a rail's loss takes from the stacks: their contents (R429). -/
def MemState.railLost (m : MemState) (r : Nat) : MemState := if memRail r then { m with cells := [], ue := [] } else m

/-- BROWN_OUT: a monitored rail other than VAO (R378, R427, R429). -/
def execBrownOut (rail : Fin 12) (s : State) : Host.Outcome State Fault Refusal :=
  .next (if rail.val = 10 then s
    else { s with mem := s.mem.railLost rail, rst := { s.rst with pins := { s.rst.pins with railsLow := insertNat rail s.rst.pins.railsLow } } }.source .system 1 true false)

/-- CLOCK_FAILURE (R365, R378). -/
def execClockFailure (s : State) : Host.Outcome State Fault Refusal :=
  .next ({ s with rst := { s.rst with pins := { s.rst.pins with referencePresent := false } } }.source .system 6 true false)

/-- CLK32K_LOSS (R365). -/
def execClk32kLoss (s : State) : Host.Outcome State Fault Refusal := .next (if s.rst.pins.vaoUp then { s with clocks := { s.clocks with aoInternal := true } } else s)

/-- CONTROLLER_LOCKUP: core reset, or system reset within 1 s of the release of a core reset that a lock-up caused (R378). -/
def State.lockup (s : State) : State :=
  if !s.rst.past 5 true then s
  else if s.now < s.rst.watchdogUntil then s.source .system 3 true false
  else s.source .core 7 true true

/-- CONTROLLER_LOCKUP (R378). -/
def execControllerLockup (s : State) : Host.Outcome State Fault Refusal := .next (s.clocked (fun s => s.lockup))

/-- Gap before a step of Table 18.4, in reference ticks of 10 ns; at steps 9 and 10, before each cluster (R381). -/
def stepGap : Nat → Nat
  | 2 | 3 | 9 | 10 => 64
  | 6 => 50
  | 7 => 200
  | 1 => 0
  | _ => 100

/-- Conditions of Table 18.4 that the state can tell (log 32 for the others). -/
def ResetState.stepOk (r : ResetState) : Nat → Bool
  | 1 => r.pins.vaoUp
  | 2 => !r.pins.perstAsserted && r.pins.railsLow.isEmpty
  | 3 => r.shadowValid
  | 7 => r.tandemRead
  | 14 => !r.pins.perstAsserted
  | _ => true

/-- Channel groups recorded as retired are out of service, and the last extents with them (R174, R175). -/
def MemState.retireStored (m : MemState) (t : TandemConfig) : MemState :=
  { m with
    groups := each t.fastRetired (fun x g => tmod {} g x (fun e => { e with retired := true })) m.groups
    extents := each (List.range t.fastRetired.length) (fun i x => tmod {} x (63 - i) (fun e => { e with valid := false })) m.extents
    pannierRetired := t.pannierRetired }

/-- Retired lanes and groups of the die links (R23, R389); without trim no spare lane is brought in, so a retired lane takes its group out of service (R23, R385). -/
def SvcState.linkStored (v : SvcState) (t : TandemConfig) (defaulted : Bool) : SvcState :=
  each t.linkLanes (fun e v =>
    match linkGroup e.1 (if e.2.1 then e.2.2 else e.2.2 / 264) with
    | none => v
    | some j =>
      let v := if e.2.1 then v else { v with lanesFailed := tmod 0 v.lanesFailed j (· + 1) }
      if e.2.1 || defaulted then { v with groupsRetired := insertNat j v.groupsRetired } else v) v

/-- Slots of a cluster that the store does not list. -/
def TandemConfig.goodSlots (t : TandemConfig) (c : Nat) : List Nat := (List.range 17).filter (fun k => !t.retiredSlots.contains (17 * c + k))

/-- The map of R19, or of R385 under TRIM_DEFAULTED. The logical cores that no good slot is left for stay with retired ones, as they do when they lose them (R22). -/
def TandemConfig.sparesAt (t : TandemConfig) (c : Nat) (defaulted : Bool) : Spares :=
  let good := t.goodSlots c
  let retired := (List.range 17).filter (fun k => t.retiredSlots.contains (17 * c + k))
  if defaulted then { retired := retired, spare := none, spareReady := false }
  else { map := (good ++ retired).take 16, retired := retired, spare := good[16]?, spareReady := false }

/-- Logical cores unavailable at start-up (R19, R22, R26, R385). -/
def coreLost (t : TandemConfig) (v : SvcState) (defaulted : Bool) (c : Nat) : Bool :=
  (if defaulted then t.retiredSlots.contains (17 * (c / 16) + c % 16) else decide ((t.goodSlots (c / 16)).length ≤ c % 16))
    || v.linkDown (4 + c / 64)

/-- The cores of a cluster are released, in freewheel; after a power-on or system reset under the map of R19 (step 10). The spare then comes to wait for its steeping (R368, R416). -/
def State.releaseCores (s : State) (core : Bool) (cl : Nat) : State :=
  if core then s.retarget (256 + cl)
  else
    let d := s.rst.trimDefaulted
    let t := s.rst.config
    State.retarget { s with
      svc := s.svc.modSpares cl (fun _ => t.sparesAt cl d)
      cores := { s.cores with unavailable := each (((List.range 16).map (16 * cl + ·)).filter (coreLost t s.svc d)) insertNat s.cores.unavailable } } (256 + cl)

/-- Device time starts from 0 as the timebase is released (R418); what the always-on block times goes on: the second of the watchdog, the 10 us of a software reset (R378). -/
def State.startTime (s : State) : State :=
  { s with
    now := 0
    rst := { s.rst with watchdogUntil := s.rst.watchdogUntil - s.now, software := s.rst.software.map (fun x => (x.1, x.2 - s.now)) } }

/-- The boot ROM completes a life-cycle transition that a power loss cut short (R396). -/
def State.bootDestroys (s : State) : State :=
  if s.sec.lifecycle = 3 then s.enterReturn else if s.sec.lifecycle = 4 then s.enterRetired else s

/-- What a step of Table 18.4 does, in a system or power-on release, or in a core release. -/
def State.stepAct (s : State) (core : Bool) : Nat → State
  | 2 => { s with
      sec := { s.sec with lifecycle := BitVec.ofNat 3 (lcState s.sec.lcFuses.toNat) }
      rst := { s.rst with shadowValid := false, pins := { s.rst.pins with referencePresent := true } } }
  | 3 => s.startTime
  | 4 => { s with freeCtr := s.freeCtr + 1, sec := { s.sec with challenge := drawBytes s.freeCtr } }
  | 5 => if core then { s with rst := { s.rst with coreReset := false } } else s.bootDestroys
  | 7 => { s with mem := s.mem.retireStored s.rst.config }
  | 8 => { s with svc := s.svc.linkStored s.rst.config s.rst.trimDefaulted }
  | 14 => { s with host := { s.host with link := .training } }
  | _ => s

/-- The step after a step; none after the last (Table 18.4, R382). -/
def nextStep (core : Bool) (k : Nat) : Option Nat :=
  if core then (if k = 6 then some 9 else if k = 11 then none else some (k + 1)) else if k = 14 then none else some (k + 1)

/-- A core reset is over: the posts it met are answered BUSY once the controller takes mailboxes, and if a lock-up caused it, one within 1 s counts as the watchdog (R343, R378). -/
def State.coreReleased (s : State) : State :=
  { s with
    ctl := { s.ctl with stale := s.ctl.posted }
    rst := { s.rst with watchdogUntil := if s.rst.lockupReset then s.now + 1000 * msTicks else s.rst.watchdogUntil, lockupReset := false } }

/-- A step's releases that go cluster by cluster: at step 9 the fabric of a cluster, with the cores of the one before it; at step 10 the cores of the last (R381). -/
def State.stepCores (s : State) (core : Bool) (c : ResetNow) : State :=
  if c.step = 9 ∧ 0 < c.cluster then s.releaseCores core (c.cluster - 1)
  else if c.step = 10 then s.releaseCores core 15
  else s

/-- What a release has still to take after a step, or after a cluster at step 9. -/
def ResetNow.after (c : ResetNow) (core : Bool) (now : Nat) : Option ResetNow :=
  if c.step = 9 ∧ c.cluster < 15 then some { c with cluster := c.cluster + 1, lastAt := now }
  else (nextStep core c.step).map (fun k => { level := c.level, step := k, lastAt := now })

/-- The board's sequence steps of Table 21.2, each with its rails, in the order of R427: VAO and V1P8 first, VCORE and VSRAM last. -/
def railSteps : List (List Nat) := [[11], [8], [6, 7], [4, 5], [0, 1, 2, 3, 9]]

/-- The board raises the low rails of the first step of its sequence that has any (R427). -/
def Pins.raise (p : Pins) : Pins :=
  { p with railsLow := p.railsLow.filter (fun r => !((railSteps.find? (fun l => l.any p.railsLow.contains)).getD []).contains r) }

/-- RESET_RELEASE_STEP: the next step, its gap after the one before, if its condition holds; steps 9 and 10 for one cluster at a time (R381, R382). While rails are low it stands for the board's next step of raising them, and no step is taken (DESIGN CHOICE, log 32). -/
def State.releaseStep (s : State) : State :=
  match s.rst.current with
  | none => s
  | some c =>
    if c.step ≠ 1 ∧ s.rst.pins.railsLow ≠ [] then { s with rst := { s.rst with pins := s.rst.pins.raise } }
    else if !s.rst.stepOk c.step then s
    else
      let core := c.level == .core
      let s := s.upTo (c.lastAt + stepGap c.step * 10 * nsTicks)
      let s := { s with rst := { s.rst with current := c.after core s.now } }
      let s := (s.stepAct core c.step).stepCores core c
      let s := { s with rst := { s.rst with current := s.rst.current.map (fun x => { x with lastAt := s.now }) } }
      if core && s.rst.current.isNone then s.coreReleased else s

/-- RESET_RELEASE_STEP (R381). -/
def execResetReleaseStep (s : State) : Host.Outcome State Fault Refusal := .next (s.clocked (fun s => s.releaseStep))

/-- ZERO_FILL_DONE: the fill started at step 7 ends, of the fast tier, then of so many pannier frames (R381). -/
def State.filledTier (s : State) (t : FillDone) : State :=
  if !s.rst.past 7 false then s
  else
    match t with
    | .fast => { s with rst := { s.rst with fastFilled := true } }
    | .pannier n => if s.rst.fastFilled then { s with rst := { s.rst with pannierFilled := max s.rst.pannierFilled (min n pannierFrames) } } else s

/-- ZERO_FILL_DONE (R381). -/
def execZeroFillDone (t : FillDone) (s : State) : Host.Outcome State Fault Refusal := .next (s.clocked (fun s => s.filledTier t))

/-- 32 free bytes: the digest of the safe defaults, which the spec does not give as words (R385, R405; log 11). -/
def freeDigest (ctr : Nat) : List Byte := (List.range 4).flatMap (fun i => natLe 8 (Config.freeWord ctr i).toNat)

/-- Body of the taken bank, empty under CONFIG_DEFAULTED (R405). -/
def ResetState.takenBody (r : ResetState) : List Byte :=
  match r.bank with
  | some b => if r.configDefaulted then [] else r.norRead (bankBase b + 64) (fieldAt (r.norRead (bankBase b + 12) 4) 0 4)
  | none => []

/-- Kinds 1 to 4, which the boot ROM measures first (R405). -/
def State.measureBoot (s : State) : State :=
  if s.sec.records ≠ 0 then s
  else
    let m (kind : Nat) (d : List Byte) (c : SecState) : SecState := c.measure s.ns kind 0 0 0 0 d
    let trim := if s.rst.trimDefaulted then freeDigest s.freeCtr else shake256 32 (fillTo 2048 s.rst.shadow)
    { s with
      freeCtr := s.freeCtr + 1
      sec := m 4 (shake256 32 s.rst.takenBody) (m 3 trim (m 2 (shake256 32 (natLe 2 s.sec.lcFuses.toNat ++ uniqueIdBytes)) (m 1 (shake256 32 Config.bootRom) s.sec))) }

/-- The slot the boot ROM runs: the first in its order that verifies (R402). -/
def State.bootSlot (s : State) : Option Nat := s.rst.bootOrder.find? (fun k => fwStatus s.sec.svn.toNat (s.rst.slotImage k) == stOk)

/-- Posts that a core reset met are answered BUSY (R343). -/
def State.answerStale (s : State) : State :=
  { each s.ctl.stale (fun p s => s.answer p.1 p.2 (s.ctl.req p.1 p.2) { status := stBusy, detail := 1 }) s with
    ctl := { (each s.ctl.stale (fun p s => s.answer p.1 p.2 (s.ctl.req p.1 p.2) { status := stBusy, detail := 1 }) s).ctl with stale := [] } }

/-- RESET_DONE on every ring that is set (R343). -/
def State.resetDone (s : State) : State :=
  each ((List.range 16).filter (fun f => (s.ctl.ring f).valid)) (fun f s => s.event f f srcDevice 1 { arg0 := 1 }) s

/-- The firmware of a slot runs and sets READY (R391, R402, R430). -/
def State.runFirmware (s : State) (k : Nat) : State :=
  let img := s.rst.slotImage k
  let h := fwHeader img
  let s := s.measureBoot
  let fw : Firmware := { slot := k, major := BitVec.ofNat 8 h.major, minor := BitVec.ofNat 8 h.minor, sv := BitVec.ofNat 8 h.sv, svnAt := some (s.now + 60000 * msTicks) }
  let s :=
    { s with
      sec := { s.sec.measure s.ns 5 k h.major h.minor h.sv (shake256 32 img) with firmware := some fw, recovery := false, failedSlot := none }
      rst := { s.rst with
        ready := true, doneDue := false
        pins := { s.rst.pins with gpioDriven := true, throttle := (List.range 4).any (fun d => decide ((s.clocks.die d).powerCap.toNat < 15)) } } }
  s.answerStale

/-- Neither slot verifies: recovery (R402). -/
def State.recover (s : State) : State :=
  let s := s.measureBoot
  { s with sec := { s.sec with firmware := none, recovery := true, failedSlot := some (s.rst.bootOrder.headD 0) } }

/-- BOOT_FIRMWARE_VERIFIED: READY waits for the release, the fast tier's fill and the attestation key; a RETIRED device never sets it (R381, R398, R402, R403). -/
def State.bootVerified (s : State) : State :=
  if s.rst.ready || s.sec.recovery || s.sec.lifecycle == 4 || !s.rst.past 5 true || !s.rst.tandemRead then s
  else
    match s.bootSlot with
    | none => s.recover
    | some k =>
      if s.rst.current.isNone && s.rst.fastFilled && s.sec.attKey.isSome then
        (if s.rst.doneDue then (s.runFirmware k).resetDone else s.runFirmware k)
      else s

/-- BOOT_FIRMWARE_VERIFIED (R402). -/
def execBootFirmwareVerified (s : State) : Host.Outcome State Fault Refusal := .next (s.clocked (fun s => s.bootVerified))

end Sys2Proof.Machine
end

