-- ==== Sys2Proof/Machine/Views.lean ====
section
/-! DEFINITION. What a host read of BAR0 shows (R346 to R351, Tables 15.1, 16.2 to 16.4, 20.2, 20.4): words of the registers, mailboxes, MSI-X table, snapshot page and memory-path view, as functions of the state. -/

namespace Sys2Proof.Machine

/-- CORE_AVAIL: bit n for CORE_n (R22). -/
def State.coreAvail (s : State) : Nat := maskOf ((List.range 256).filter s.available)

/-- DEVICE_STATUS (Table 16.3). -/
def State.deviceStatus (s : State) : Nat :=
  b2n s.rst.ready + 2 * b2n s.rst.coreReset + 4 * b2n s.rst.trimDefaulted + 8 * b2n s.rst.configDefaulted + 16 * s.sec.lifecycle.toNat
    + 128 * b2n (!s.rst.pins.faultN)

/-- Word o of the global registers (Table 16.3). -/
def State.globalWord (s : State) (o : Nat) : Nat :=
  if o = 0x000 then 0x00A00400
  else if o = 0x004 then s.sec.version.1 + 256 * s.sec.version.2
  else if o = 0x008 then s.deviceStatus
  else if o = 0x00C then s.rst.cause.toNat
  else if o = 0x010 then s.fabric.idWord
  else if o = 0x018 then s.ns % 2 ^ 32
  else if o = 0x01C then s.ns / 2 ^ 32 % 2 ^ 32
  else if o = 0x020 then s.host.vfsEnabled.toNat
  else if 0x040 ≤ o ∧ o < 0x060 then s.coreAvail / 2 ^ (8 * (o - 0x040)) % 2 ^ 32
  else 0

/-- Word o of function f's registers (Table 16.4). -/
def State.functionWord (s : State) (f o : Nat) : Nat :=
  let x := s.host.fn f
  if o = 0x000 then f
  else if o = 0x004 then b2n x.flr.isSome + 2 * b2n x.orphans + 4 * b2n x.d3hot
  else if o = 0x008 then x.bar2Base.toNat % 2 ^ 32
  else if o = 0x00C then x.bar2Base.toNat / 2 ^ 32
  else if 0x020 ≤ o ∧ o < 0x040 then s.coreAvail / 2 ^ (8 * (o - 0x020)) % 2 ^ 32
  else 0

/-- Word o of function f's mailbox page (Table 15.1). -/
def CtlState.pageWord (c : CtlState) (f o : Nat) : Nat :=
  let r := c.ring f
  if o < 0x2000 then fieldAt (bytesAt 0 c.mailbox (8192 * f + o) 4) 0 4
  else if o = 0x2000 then r.head.toNat
  else if o = 0x2004 then r.tail.toNat + 2 ^ 31 * b2n r.phase
  else if o = 0x2008 then r.lost.toNat
  else if o = 0x200C then r.backlog.length + 2 ^ 31 * b2n r.valid
  else if o = 0x2010 then r.violations.toNat
  else 0

/-- Word w of vector v of a function's MSI-X table (R353). -/
def HostFn.vectorWord (x : HostFn) (v w : Nat) : Nat :=
  let e := tget {} x.vectors v
  if w = 0 then e.address.toNat % 2 ^ 32 else if w = 1 then e.address.toNat / 2 ^ 32 else if w = 2 then e.data.toNat else b2n e.masked

/-- Word o of the pending-bit array (R353). -/
def HostFn.pendingWord (x : HostFn) (o : Nat) : Nat := maskOf ((List.range 32).filter (fun i => (tget {} x.vectors (8 * o + i)).pending))

/-- Word of a channel-group or extent entry (Tables 7.6, 7.7). -/
def GroupEntry.word (e : GroupEntry) : Nat := 2 ^ 31 * b2n e.valid + 2 ^ 30 * b2n e.retired + 2 ^ 29 * b2n e.spread + 2 ^ 20 * e.fn.toNat
def ExtentEntry.word (e : ExtentEntry) : Nat :=
  2 ^ 31 * b2n e.valid + 2 ^ 30 * b2n e.pending + 2 ^ 29 * b2n e.spread + 2 ^ 27 * e.die.toNat + 2 ^ 20 * e.fn.toNat

/-- A seal entry (Table 7.11). -/
def SealEntry.bytes (e : SealEntry) : List Byte := natLe 4 e.base.toNat ++ natLe 4 e.limit.toNat ++ natLe 8 (e.owner.toNat + 2 ^ 31 * b2n e.valid)

/-- PWR_GOOD follows the rails alone (R428). -/
def Pins.pwrGood (p : Pins) : Bool := p.vaoUp && p.railsLow.isEmpty

/-- State of a physical slot (R411). -/
def SvcState.slotState (v : SvcState) (cl k : Nat) : SlotSt :=
  let p := v.sparesOf cl
  if p.retired.contains k then .retired
  else if p.map.contains k then .active
  else if p.spare = some k then (if p.spareReady then .spareReady else .spareSteeping)
  else .unused

/-- Its code in SLOT_STATE (Table 20.2); a slot TRIM_DEFAULTED leaves out of use counts as RETIRED (log 33). -/
def SlotSt.code : SlotSt → Nat
  | .active => 0
  | .spareSteeping => 1
  | .spareReady => 2
  | .retired | .unused => 3

/-- Error record of a cluster, or of the hub as 16 (Table 20.2). -/
def SvcState.errRecord (v : SvcState) (u : Nat) : List Byte :=
  let e := v.err u
  fillTo 64 (natLe 4 e.correctedWords.toNat ++ natLe 4 e.uncorrectableWords.toNat ++ natLe 4 e.coreChecks.toNat ++ natLe 4 e.steepPasses.toNat
    ++ natLe 4 e.steepFails.toNat ++ natLe 4 0
    ++ natLe 8 (if u < 16 then ((List.range 17).map (fun k => (v.slotState u k).code * 4 ^ k)).sum else 0)
    ++ packBits 8 [(0, e.lastUe.toNat), (41, e.lastUeUnit.toNat), (48, e.lastUeSlot.toNat)]
    ++ natLe 4 (e.lastRetiredSlot.toNat + 32 * e.lastRetireReason.toNat))

/-- Clusters whose spare steeps now (R416). -/
def State.steepingMask (s : State) : Nat :=
  maskOf ((List.range 16).filter s.steeps)

/-- The spare inventory (Table 20.4). -/
def State.inventory (s : State) : List Byte :=
  fillTo 64 (natLe 2 (maskOf ((List.range 16).filter (fun c => (s.svc.sparesOf c).spare.isSome))) ++ natLe 2 s.steepingMask
    ++ natLe 12 (((List.range 24).map (fun j => (8 - min 8 (tget 0 s.svc.lanesFailed j)) * 16 ^ j)).sum)
    ++ natLe 4 (maskOf ((List.range 4).filter (fun p => (s.fabric.port p).spare != 7)))
    ++ natLe 4 (((List.range 64).filter (fun g => (s.mem.group g).retired)).length + 256 * s.mem.pannierRetired.length)
    ++ natLe 4 (maskOf ((List.range 20).filter (fun k => (s.mem.stackRec k).failing)))
    ++ natLe 4 s.svc.exhausted.toNat)

/-- The time record (Table 20.8). -/
def FabricState.timeRecord (x : FabricState) : List Byte :=
  fillTo 64 (natLe 8 x.fabricOffset.toNat ++ natLe 4 (b2n x.fabricValid + 2 * x.sourceSlot.toNat) ++ natLe 4 x.hops.toNat ++ natLe 8 x.lastAlign.toNat)

/-- Word o of the memory-path view; the stack error records read zero (R347, R410, R420). -/
def State.memoryWord (s : State) (o : Nat) : Nat :=
  if o < 0x100 then (s.mem.group (o / 4)).word
  else if o < 0x200 then (s.mem.extent ((o - 0x100) / 4)).word
  else if 0x400 ≤ o ∧ o < 0x800 then fieldAt (s.mem.seal ((o - 0x400) / 16)).bytes ((o - 0x400) % 16) 4
  else if 0x2000 ≤ o ∧ o < 0x2440 then fieldAt (s.svc.errRecord ((o - 0x2000) / 64)) ((o - 0x2000) % 64) 4
  else if 0x2800 ≤ o ∧ o < 0x2840 then fieldAt s.inventory (o - 0x2800) 4
  else if 0x2C00 ≤ o ∧ o < 0x2C40 then fieldAt s.fabric.timeRecord (o - 0x2C00) 4
  else 0

/-- A word of BAR0 of function f (R346, Table 16.2). -/
def State.barWord (s : State) (f o : Nat) : Nat :=
  if o < 0x1000 then (if f = 0 then s.globalWord o else 0)
  else if o < 0x2000 then s.functionWord f (o - 0x1000)
  else if 0x4000 ≤ o ∧ o < 0x8000 then s.ctl.pageWord f (o - 0x4000)
  else if 0x10000 ≤ o ∧ o < 0x11000 then
    (if f ≠ 0 then 0 else if o = 0x10000 then s.host.snapSeq.toNat else fieldAt (bytesAt 0 s.host.snapshot (o - 0x10000) 4) 0 4)
  else if 0x20000 ≤ o ∧ o < 0x20000 + 16 * vectorCount f then (s.host.fn f).vectorWord ((o - 0x20000) / 16) ((o - 0x20000) % 16 / 4)
  else if 0x28000 ≤ o ∧ o < 0x28000 + vectorCount f / 8 then (s.host.fn f).pendingWord (o - 0x28000)
  else if 0x1000000 ≤ o ∧ o < 0x1010000 ∧ f = 0 then s.memoryWord (o - 0x1000000)
  else 0

end Sys2Proof.Machine
end

