-- ==== Sys2Proof/Machine/Registers.lean ====
section
/-! DEFINITION. The host's register requests: reads and writes of BAR0 (R346 to R351) and of configuration space (R344, R345, R353). -/

namespace Sys2Proof.Machine

/-- Bytes of a function's BAR0 (R346). -/
def barSize (f : Nat) : Nat := if f = 0 then 2 ^ 26 else 2 ^ 20

/-- A 64-bit BAR's low or high word: the address bits of its size, then memory type 64-bit and whether it is prefetchable (R346; the PCIe layout: PRESUMED, log 50). -/
def barRegister (base : W64) (log2 : Nat) (prefetch high : Bool) : Nat :=
  if high then base.toNat / 2 ^ 32 else base.toNat / 2 ^ log2 * 2 ^ log2 % 2 ^ 32 + 4 + 8 * b2n prefetch

/-- A 64-bit BAR with one of its words written: only the address bits of its size hold. -/
def barWritten (base : W64) (log2 : Nat) (high : Bool) (v : Nat) : W64 :=
  let b := base.toNat
  BitVec.ofNat 64 ((if high then b % 2 ^ 32 + 2 ^ 32 * v else b / 2 ^ 32 * 2 ^ 32 + v) / 2 ^ log2 * 2 ^ log2)

/-- A Resizable BAR control word: BAR 2 and its size code (PRESUMED, log 50). -/
def resizeWord (log2 : Nat) : Nat := 2 + 2 ^ 5 + 2 ^ 8 * (log2 - 20)

/-- A configuration register as function f reads it (R344, R345, Table 16.1); a capability the device lacks reads zero. A VF's own BARs are zero: theirs stand in PF0's SR-IOV capability. -/
def State.configWord (s : State) (f : Nat) : ConfigReg → Nat
  | .deviceId => if f = 0 then 0x0400 else 0x0401
  | .classCode => 0x12000000
  | .interruptPin => 0
  | .bar k =>
    let x := s.host.fn f
    if f ≠ 0 ∨ 4 ≤ k.val then 0
    else if k.val < 2 then barRegister x.bar0 26 false (k.val == 1)
    else barRegister x.bar2 x.bar2Log2 true (k.val == 3)
  | .vfBar k =>
    if f ≠ 0 ∨ 4 ≤ k.val then 0
    else if k.val < 2 then barRegister s.host.vfBar0 20 false (k.val == 1)
    else barRegister s.host.vfBar2 (s.host.fn 1).bar2Log2 true (k.val == 3)
  | .sriovControl => if f = 0 then b2n (s.host.vfsEnabled != 0) + 2 ^ 3 * b2n s.host.vfMemory + 2 ^ 16 * s.host.vfsEnabled.toNat else 0
  | .sriovLayout => if f = 0 then 15 + 2 ^ 8 * 1 + 2 ^ 16 * 1 else 0
  | .command => (s.host.fn f).command.toNat + 2 ^ 20
  | .deviceCapabilities => 0x10008022
  | .deviceCapabilities2 => 0x0003001F
  | .linkCapabilities => 0x00420905
  | .linkControl => if f = 0 then s.host.linkControl.toNat else 0
  | .aerStatus => (s.host.fn f).aerStatus.toNat
  | .aerMask => (s.host.fn f).aerMask.toNat
  | .aerSeverity => (s.host.fn f).aerSeverity.toNat
  | .aerCorrectable => (s.host.fn f).aerCorrectable.toNat
  | .aerCorrectableMask => (s.host.fn f).aerCorrectableMask.toNat
  | .deviceControl => (s.host.fn f).deviceControl.toNat
  | .deviceControl2 => (s.host.fn f).deviceControl2.toNat
  | .msixControl => vectorCount f - 1 + 2 ^ 14 * b2n (s.host.fn f).functionMask + 2 ^ 15 * b2n (s.host.fn f).msixEnable
  | .aerControl => (s.host.fn f).aerFirst.toNat + 2 ^ 5 + 2 ^ 6 * b2n (s.host.fn f).ecrcGenerate + 2 ^ 7 + 2 ^ 8 * b2n (s.host.fn f).ecrcCheck
  | .resizableBar => if f = 0 then resizeWord (s.host.fn 0).bar2Log2 else 0
  | .vfResizableBar => if f = 0 then resizeWord (s.host.fn 1).bar2Log2 else 0
  | .powerControl => 3 * b2n (s.host.fn f).d3hot + 2 ^ 3
  | .absent _ => 0

/-- BAR2 of a function takes a size; BAR2_BASE keeps no bit below it (R344, Table 16.4). -/
def HostFn.resize (x : HostFn) (log2 : Nat) : HostFn :=
  { x with bar2Log2 := log2, bar2 := barWritten x.bar2 log2 true (x.bar2.toNat / 2 ^ 32), bar2Base := BitVec.ofNat 41 (x.bar2Base.toNat / 2 ^ log2 * 2 ^ log2) }

/-- The size a Resizable BAR control word asks for: 1 GiB to 2 TiB (Table 16.1). -/
def sizeAsked (v : Nat) : Option Nat := let n := field v 13 8 + 20; if 30 ≤ n ∧ n ≤ 41 then some n else none

/-- Errors that AER's Mask and Severity name: of those the PCIe specification has, the ones up to Unsupported Request and Uncorrectable Internal (PRESUMED, log 50). -/
def aerBits : Nat := 0x005FF030

/-- Device Control as written: the enables of error reporting, Relaxed Ordering, Extended Tag, and the two sizes, each of which keeps its value where a size above 512 or 4,096 bytes is written (R345, Table 16.1). -/
def controlWritten (old : BitVec 16) (v : Nat) : BitVec 16 :=
  let mps := if field v 7 5 ≤ 2 then field v 7 5 else field old.toNat 7 5
  let mrrs := if field v 14 12 ≤ 5 then field v 14 12 else field old.toNat 14 12
  BitVec.ofNat 16 ((v &&& 0x011F) + 2 ^ 5 * mps + 2 ^ 12 * mrrs)

/-- The Command register as written: Memory Space Enable (a VF has none of its own), Bus Master Enable, Parity Error Response and SERR# Enable (R345). -/
def commandWritten (f v : Nat) : BitVec 16 := BitVec.ofNat 16 (v &&& (if f = 0 then 0x0146 else 0x0144))

/-- What a function may send goes out: its event entries, then its vectors (R345, R356). -/
def State.sendHeld (s : State) (f : Nat) : State := { s.drainEvents f with host := (s.drainEvents f).host.flushPending f }

/-- A configuration register written (R345, R353). VF Enable, the D-state and Initiate Function Level Reset have commands of their own; read-only registers and those of absent capabilities discard the write. -/
def State.configWrite (s : State) (f v : Nat) : ConfigReg → State
  | .bar k =>
    let x := s.host.fn f
    if f ≠ 0 ∨ 4 ≤ k.val then s
    else if k.val < 2 then { s with host := s.host.setFn 0 { x with bar0 := barWritten x.bar0 26 (k.val == 1) v } }
    else { s with host := s.host.setFn 0 { x with bar2 := barWritten x.bar2 x.bar2Log2 (k.val == 3) v } }
  | .vfBar k =>
    if f ≠ 0 ∨ 4 ≤ k.val then s
    else if k.val < 2 then { s with host := { s.host with vfBar0 := barWritten s.host.vfBar0 20 (k.val == 1) v } }
    else { s with host := { s.host with vfBar2 := barWritten s.host.vfBar2 (s.host.fn 1).bar2Log2 (k.val == 3) v } }
  | .command => { s with host := s.host.setFn f { s.host.fn f with command := commandWritten f v } }.sendHeld f
  | .linkControl => if f = 0 then { s with host := { s.host with linkControl := BitVec.ofNat 16 (v &&& 0x00CB) } } else s
  | .aerStatus => { s with host := s.host.setFn f { s.host.fn f with aerStatus := (s.host.fn f).aerStatus &&& ~~~ BitVec.ofNat 32 v } }
  | .aerMask => { s with host := s.host.setFn f { s.host.fn f with aerMask := BitVec.ofNat 32 (v &&& aerBits) } }
  | .aerSeverity => { s with host := s.host.setFn f { s.host.fn f with aerSeverity := BitVec.ofNat 32 (v &&& aerBits) } }
  | .aerCorrectable => { s with host := s.host.setFn f { s.host.fn f with aerCorrectable := (s.host.fn f).aerCorrectable &&& ~~~ BitVec.ofNat 32 v } }
  | .aerCorrectableMask => { s with host := s.host.setFn f { s.host.fn f with aerCorrectableMask := BitVec.ofNat 32 (v &&& 0x31C1) } }
  | .sriovControl => if f = 0 then { s with host := { s.host with vfMemory := bit v 3 } } else s
  | .deviceControl => { s with host := s.host.setFn f { s.host.fn f with deviceControl := controlWritten (s.host.fn f).deviceControl v } }
  | .deviceControl2 => { s with host := s.host.setFn f { s.host.fn f with deviceControl2 := BitVec.ofNat 16 (v &&& 0x101F) } }
  | .msixControl => { s with host := (s.host.setFn f { s.host.fn f with functionMask := bit v 14, msixEnable := bit v 15 }).flushPending f }
  | .aerControl => { s with host := s.host.setFn f { s.host.fn f with ecrcGenerate := bit v 6, ecrcCheck := bit v 8 } }
  | .resizableBar =>
    match sizeAsked v with
    | some n => if f = 0 then { s with host := s.host.setFn 0 ((s.host.fn 0).resize n) } else s
    | none => s
  | .vfResizableBar =>
    match sizeAsked v with
    | some n => if f = 0 then { s with host := each (List.range 15) (fun i h => h.setFn (i + 1) ((h.fn (i + 1)).resize n)) s.host } else s
    | none => s
  | .deviceId | .classCode | .interruptPin | .deviceCapabilities | .deviceCapabilities2 | .linkCapabilities | .sriovLayout | .powerControl | .absent _ => s

/-- One word of BAR0 as a request reads it: a 4-byte read of DEVICE_TIME's low word latches the high one, which the function's next 4-byte read of it returns (R349). -/
def State.readWord (s : State) (f : Nat) (wide : Bool) (o : Nat) : State × Nat :=
  let x := s.host.fn f
  if f = 0 && !wide && o == 0x018 then ({ s with host := s.host.setFn f { x with timeLatch := some (BitVec.ofNat 32 (s.ns / 2 ^ 32)) } }, s.ns % 2 ^ 32)
  else if f = 0 && !wide && o == 0x01C then ({ s with host := s.host.setFn f { x with timeLatch := none } }, (x.timeLatch.map (·.toNat)).getD (s.ns / 2 ^ 32 % 2 ^ 32))
  else (s, s.barWord f o)

/-- The bytes of a word that a request enables. -/
def enabledBytes (enables : BitVec 8) (first v : Nat) : List Byte := ((natLe 4 v).zipIdx first).filterMap (fun x => if enables.getLsbD x.2 then some x.1 else none)

/-- A host read of BAR0, of 4 or 8 aligned bytes: the bytes enabled (R346, R349); a request not aligned, or beyond the BAR, is none that BAR0 accepts (log 50). -/
def State.registerRead (s : State) (f offset : Nat) (wide : Bool) (enables : BitVec 8) : State :=
  let n := if wide then 8 else 4
  if offset % n ≠ 0 ∨ barSize f < offset + n then { s with host := { s.host with reply := .unsupportedRequest } }
  else
    let a := s.readWord f wide offset
    let hi := if wide then enabledBytes enables 4 (s.barWord f (offset + 4)) else []
    { a.1 with host := { a.1.host with reply := .data (enabledBytes enables 0 a.2 ++ hi) } }

/-- A host read of configuration space. -/
def State.configRead (s : State) (f : Nat) (r : ConfigReg) (enables : BitVec 8) : State :=
  { s with host := { s.host with reply := .data (enabledBytes enables 0 (s.configWord f r)) } }

/-- DEVICE_TIME_READ: the one command that reads a register; DEVICE_TIME is the register whose read has an effect (R346, R349; log 50). -/
def execDeviceTimeRead (f : Fn) (place : RegPlace) (wide : Bool) (enables : BitVec 8) (s : State) : Host.Outcome State Fault Refusal :=
  .next (s.clocked (fun s => match place with
    | .bar0 o => s.request f (fun s => s.registerRead f o wide enables)
    | .config r => s.configure f (fun s => s.configRead f r enables)))

/-- The words of a request, each with its offset and its bytes' enables; a byte not carried is not enabled. -/
def requestWords (offset : Nat) (enables : BitVec 8) (data : List Byte) : List (Nat × List Bool × Nat) :=
  let lo := offset / 4 * 4
  (List.range ((offset + data.length + 3) / 4 - offset / 4)).map (fun i =>
    let a := lo + 4 * i
    let on (j : Nat) : Bool := decide (offset ≤ a + j) && decide (a + j < offset + data.length) && enables.getLsbD (a + j - offset)
    (a, (List.range 4).map on, fieldAt data (a - offset) 4))

/-- A host write to BAR0: whole words take effect in turn, a word enabled in part is discarded and counted (R346). -/
def State.registerWrite (s : State) (f offset : Nat) (enables : BitVec 8) (data : List Byte) : State :=
  if (data.length = 8 ∧ offset % 8 ≠ 0) ∨ barSize f < offset + data.length then s
  else
    (requestWords offset enables data).foldl (fun s w =>
      if w.2.1.all id then s.wordWrite f w.1 w.2.2 else if w.2.1.any id then s.violation f else s) s

/-- The bytes of a configuration word that a write does not enable keep what the register holds. -/
def mergedWord (enables : BitVec 8) (data : List Byte) (old : Nat) : Nat :=
  leNat ((natLe 4 old).zipIdx.map (fun x => if enables.getLsbD x.2 then data.getD x.2 0 else x.1))

/-- REGISTER_WRITE (R330, R345, R346, R350). -/
def execRegisterWrite (f : Fn) (place : RegPlace) (enables : BitVec 8) (data : List Byte) (s : State) : Host.Outcome State Fault Refusal :=
  .next (s.clocked (fun s => match place with
    | .bar0 o => s.request f (fun s => s.registerWrite f o enables data)
    | .config r => s.configure f (fun s => s.configWrite f (mergedWord enables data (s.configWord f r)) r)))

end Sys2Proof.Machine
end

