-- ==== Sys2Proof/Machine/Dispatch.lean ====
section
/-! DEFINITION. One arm per command: a direct call of its meaning. -/

namespace Sys2Proof.Machine

/-- The effect of a command on everything but the queue. -/
def exec (i : Instr) (s : State) : Host.Outcome State Fault Refusal :=
  match i with
  | .identify f m => Sys2Proof.Machine.execIdentify f m s
  | .eventRingSet f m => Sys2Proof.Machine.execEventRingSet f m s
  | .gearRequest f m => Sys2Proof.Machine.execGearRequest f m s
  | .envelopeSet f m => Sys2Proof.Machine.execEnvelopeSet f m s
  | .resetRequest f m => Sys2Proof.Machine.execResetRequest f m s
  | .softwareResetStart => Sys2Proof.Machine.execSoftwareResetStart s
  | .contextSet f m => Sys2Proof.Machine.execContextSet f m s
  | .contextDestroy f m => Sys2Proof.Machine.execContextDestroy f m s
  | .contextDestroyDone f => Sys2Proof.Machine.execContextDestroyDone f s
  | .shareSet f m => Sys2Proof.Machine.execShareSet f m s
  | .shareChangeApplied cl g => Sys2Proof.Machine.execShareChangeApplied cl g s
  | .preempt f m => Sys2Proof.Machine.execPreempt f m s
  | .preemptGraceExpired f c => Sys2Proof.Machine.execPreemptGraceExpired f c s
  | .saveStart f => Sys2Proof.Machine.execSaveStart f s
  | .saveDone f => Sys2Proof.Machine.execSaveDone f s
  | .restore f m => Sys2Proof.Machine.execRestore f m s
  | .restoreDone f => Sys2Proof.Machine.execRestoreDone f s
  | .mapSet f m => Sys2Proof.Machine.execMapSet f m s
  | .mapChangeComplete => Sys2Proof.Machine.execMapChangeComplete s
  | .retire f m => Sys2Proof.Machine.execRetire f m s
  | .retireComplete => Sys2Proof.Machine.execRetireComplete s
  | .pannierFree f m => Sys2Proof.Machine.execPannierFree f m s
  | .moverPost f m => Sys2Proof.Machine.execMoverPost f m s
  | .hostCopyPost f m => Sys2Proof.Machine.execHostCopyPost f m s
  | .queueResume f m => Sys2Proof.Machine.execQueueResume f m s
  | .sealCreate f m => Sys2Proof.Machine.execSealCreate f m s
  | .sealRemove f m => Sys2Proof.Machine.execSealRemove f m s
  | .sealRemoveComplete e => Sys2Proof.Machine.execSealRemoveComplete e s
  | .xlateInvalidate f m => Sys2Proof.Machine.execXlateInvalidate f m s
  | .blockPost f m => Sys2Proof.Machine.execBlockPost f m s
  | .blockCancel f m => Sys2Proof.Machine.execBlockCancel f m s
  | .stemPost f m => Sys2Proof.Machine.execStemPost f m s
  | .stemResume f m => Sys2Proof.Machine.execStemResume f m s
  | .frameTablePlace f m => Sys2Proof.Machine.execFrameTablePlace f m s
  | .pageSetup f m => Sys2Proof.Machine.execPageSetup f m s
  | .geometrySet f m => Sys2Proof.Machine.execGeometrySet f m s
  | .waterSet f m => Sys2Proof.Machine.execWaterSet f m s
  | .frameGrant f m => Sys2Proof.Machine.execFrameGrant f m s
  | .frameScrub f m => Sys2Proof.Machine.execFrameScrub f m s
  | .frameScrubDone => Sys2Proof.Machine.execFrameScrubDone s
  | .pageReenable f m => Sys2Proof.Machine.execPageReenable f m s
  | .pageReenableDone f => Sys2Proof.Machine.execPageReenableDone f s
  | .seqCreate f m => Sys2Proof.Machine.execSeqCreate f m s
  | .seqSet f m => Sys2Proof.Machine.execSeqSet f m s
  | .seqPark f m => Sys2Proof.Machine.execSeqPark f m s
  | .seqResume f m => Sys2Proof.Machine.execSeqResume f m s
  | .seqRetire f m => Sys2Proof.Machine.execSeqRetire f m s
  | .pageShare f m => Sys2Proof.Machine.execPageShare f m s
  | .pageRelease f m => Sys2Proof.Machine.execPageRelease f m s
  | .listOpen f m => Sys2Proof.Machine.execListOpen f m s
  | .listBuilt f => Sys2Proof.Machine.execListBuilt f s
  | .listReleased f => Sys2Proof.Machine.execListReleased f s
  | .listClose f m => Sys2Proof.Machine.execListClose f m s
  | .listRetired f => Sys2Proof.Machine.execListRetired f s
  | .cowCopyDone f => Sys2Proof.Machine.execCowCopyDone f s
  | .spillStart f => Sys2Proof.Machine.execSpillStart f s
  | .spillCopyDone f => Sys2Proof.Machine.execSpillCopyDone f s
  | .prefetchCopyDone f => Sys2Proof.Machine.execPrefetchCopyDone f s
  | .invalidationAcked f => Sys2Proof.Machine.execInvalidationAcked f s
  | .caddyLoad f m => Sys2Proof.Machine.execCaddyLoad f m s
  | .caddyShadowPending f => Sys2Proof.Machine.execCaddyShadowPending f s
  | .codeTableLoad f m => Sys2Proof.Machine.execCodeTableLoad f m s
  | .codeTableInForce f => Sys2Proof.Machine.execCodeTableInForce f s
  | .portControl f m => Sys2Proof.Machine.execPortControl f m s
  | .deviceIdSet f m => Sys2Proof.Machine.execDeviceIdSet f m s
  | .pelotonForm f m => Sys2Proof.Machine.execPelotonForm f m s
  | .pelotonReform f m => Sys2Proof.Machine.execPelotonReform f m s
  | .pelotonDissolve f m => Sys2Proof.Machine.execPelotonDissolve f m s
  | .collPost f m => Sys2Proof.Machine.execCollPost f m s
  | .codecQuota f m => Sys2Proof.Machine.execCodecQuota f m s
  | .codecOpen f m => Sys2Proof.Machine.execCodecOpen f m s
  | .codecClose f m => Sys2Proof.Machine.execCodecClose f m s
  | .codecContextFreed e x => Sys2Proof.Machine.execCodecContextFreed e x s
  | .codecPost f m => Sys2Proof.Machine.execCodecPost f m s
  | .surfaceRelease f m => Sys2Proof.Machine.execSurfaceRelease f m s
  | .recordRead f m => Sys2Proof.Machine.execRecordRead f m s
  | .recordClear f m => Sys2Proof.Machine.execRecordClear f m s
  | .measurementRead f m => Sys2Proof.Machine.execMeasurementRead f m s
  | .quote f m => Sys2Proof.Machine.execQuote f m s
  | .certificateRead f m => Sys2Proof.Machine.execCertificateRead f m s
  | .lifecycleAdvance f m => Sys2Proof.Machine.execLifecycleAdvance f m s
  | .steepRequest f m => Sys2Proof.Machine.execSteepRequest f m s
  | .spareSwap f m => Sys2Proof.Machine.execSpareSwap f m s
  | .firmwareUpdate f m => Sys2Proof.Machine.execFirmwareUpdate f m s
  | .logRead f m => Sys2Proof.Machine.execLogRead f m s
  | .unlistedCommand f m => Sys2Proof.Machine.execUnlistedCommand f m s
  | .evqHeadWrite f head => Sys2Proof.Machine.execEvqHeadWrite f head s
  | .eventBacklogDrain f => Sys2Proof.Machine.execEventBacklogDrain f s
  | .eventModerationTimer f => Sys2Proof.Machine.execEventModerationTimer f s
  | .msixMaskClear f v => Sys2Proof.Machine.execMsixMaskClear f v s
  | .deviceTimeRead f place wide enables => Sys2Proof.Machine.execDeviceTimeRead f place wide enables s
  | .resetCauseClear v => Sys2Proof.Machine.execResetCauseClear v s
  | .registerWrite f place enables data => Sys2Proof.Machine.execRegisterWrite f place enables data s
  | .bar2Read f offset len errors => Sys2Proof.Machine.execBar2Read f offset len errors s
  | .bar2Write f offset data poisoned => Sys2Proof.Machine.execBar2Write f offset data poisoned s
  | .flr f => Sys2Proof.Machine.execFlr f s
  | .flrBlockLimit f c => Sys2Proof.Machine.execFlrBlockLimit f c s
  | .flrComplete f => Sys2Proof.Machine.execFlrComplete f s
  | .d3hotEnter f => Sys2Proof.Machine.execD3hotEnter f s
  | .d0Return f => Sys2Proof.Machine.execD0Return f s
  | .l1Exit => Sys2Proof.Machine.execL1Exit s
  | .hostCompletionError f k at_ err => Sys2Proof.Machine.execHostCompletionError f k at_ err s
  | .perstNAssert => Sys2Proof.Machine.execPerstNAssert s
  | .perstNDeassert => Sys2Proof.Machine.execPerstNDeassert s
  | .mctpSetEndpointId v eid => Sys2Proof.Machine.execMctpSetEndpointId v eid s
  | .mctpGetEndpointId v => Sys2Proof.Machine.execMctpGetEndpointId v s
  | .mctpGetVersionSupport v => Sys2Proof.Machine.execMctpGetVersionSupport v s
  | .mctpGetMessageTypeSupport v => Sys2Proof.Machine.execMctpGetMessageTypeSupport v s
  | .pldmMonitoring v msg => Sys2Proof.Machine.execPldmMonitoring v msg s
  | .pldmFirmwareUpdate path image => Sys2Proof.Machine.execPldmFirmwareUpdate path image s
  | .getMeasurement path index => Sys2Proof.Machine.execGetMeasurement path index s
  | .getQuote path nonce => Sys2Proof.Machine.execGetQuote path nonce s
  | .getCertificate path => Sys2Proof.Machine.execGetCertificate path s
  | .debugResetRequest system => Sys2Proof.Machine.execDebugResetRequest system s
  | .debugUnlock authorisation => Sys2Proof.Machine.execDebugUnlock authorisation s
  | .blockChosen c => Sys2Proof.Machine.execBlockChosen c s
  | .blockLoad c => Sys2Proof.Machine.execBlockLoad c s
  | .blockReady c => Sys2Proof.Machine.execBlockReady c s
  | .boundWaitMet c => Sys2Proof.Machine.execBoundWaitMet c s
  | .boundWaitTimeout c => Sys2Proof.Machine.execBoundWaitTimeout c s
  | .blockIssue c => Sys2Proof.Machine.execBlockIssue c s
  | .product c => Sys2Proof.Machine.execProduct c s
  | .rotateStore c => Sys2Proof.Machine.execRotateStore c s
  | .convert c => Sys2Proof.Machine.execConvert c s
  | .elemwise c => Sys2Proof.Machine.execElemwise c s
  | .format c => Sys2Proof.Machine.execFormat c s
  | .reduce c => Sys2Proof.Machine.execReduce c s
  | .rowstat c => Sys2Proof.Machine.execRowstat c s
  | .window c => Sys2Proof.Machine.execWindow c s
  | .func c => Sys2Proof.Machine.execFunc c s
  | .lookup c => Sys2Proof.Machine.execLookup c s
  | .swap c => Sys2Proof.Machine.execSwap c s
  | .fetch c => Sys2Proof.Machine.execFetch c s
  | .store c => Sys2Proof.Machine.execStore c s
  | .add c => Sys2Proof.Machine.execAdd c s
  | .waitGe c => Sys2Proof.Machine.execWaitGe c s
  | .regop c => Sys2Proof.Machine.execRegop c s
  | .loadreg c => Sys2Proof.Machine.execLoadreg c s
  | .setflag c => Sys2Proof.Machine.execSetflag c s
  | .operationResultWritten c => Sys2Proof.Machine.execOperationResultWritten c s
  | .quantClipStopEnd c => Sys2Proof.Machine.execQuantClipStopEnd c s
  | .translationWalkDone c d g => Sys2Proof.Machine.execTranslationWalkDone c d g s
  | .fetchGrainLanded c d g o => Sys2Proof.Machine.execFetchGrainLanded c d g o s
  | .storeGrainVisible c d g => Sys2Proof.Machine.execStoreGrainVisible c d g s
  | .releaseAddApplied c => Sys2Proof.Machine.execReleaseAddApplied c s
  | .slipResume c => Sys2Proof.Machine.execSlipResume c s
  | .wallLimitExpired c => Sys2Proof.Machine.execWallLimitExpired c s
  | .blockBoundary c => Sys2Proof.Machine.execBlockBoundary c s
  | .lateGrainFault c d g o => Sys2Proof.Machine.execLateGrainFault c d g o s
  | .blockCompletionEntry c => Sys2Proof.Machine.execBlockCompletionEntry c s
  | .spareSwapApplied c => Sys2Proof.Machine.execSpareSwapApplied c s
  | .gearChangeDone c => Sys2Proof.Machine.execGearChangeDone c s
  | .freewheelEnter c => Sys2Proof.Machine.execFreewheelEnter c s
  | .admissionWindow d => Sys2Proof.Machine.execAdmissionWindow d s
  | .coreWakeDone c => Sys2Proof.Machine.execCoreWakeDone c s
  | .kettleSample packageMw dieMw rails16 stackC junctionC => Sys2Proof.Machine.execKettleSample packageMw dieMw rails16 stackC junctionC s
  | .thermalCapReminder => Sys2Proof.Machine.execThermalCapReminder s
  | .thermtrip stackC junctionC => Sys2Proof.Machine.execThermtrip stackC junctionC s
  | .brakeNInput low => Sys2Proof.Machine.execBrakeNInput low s
  | .avsSetpointReached d => Sys2Proof.Machine.execAvsSetpointReached d s
  | .avsRetry d reportedMv => Sys2Proof.Machine.execAvsRetry d reportedMv s
  | .snapshotRefresh => Sys2Proof.Machine.execSnapshotRefresh s
  | .cadenceFrame => Sys2Proof.Machine.execCadenceFrame s
  | .scrubGrain addr errors => Sys2Proof.Machine.execScrubGrain addr errors s
  | .sramRowRepair unit a slot row addr from_ flips => Sys2Proof.Machine.execSramRowRepair unit a slot row addr from_ flips s
  | .dieLinkLaneFail link group lane => Sys2Proof.Machine.execDieLinkLaneFail link group lane s
  | .moverDescriptorStart ch f => Sys2Proof.Machine.execMoverDescriptorStart ch f s
  | .moverDescriptorDone ch f => Sys2Proof.Machine.execMoverDescriptorDone ch f s
  | .fenceComplete ch f => Sys2Proof.Machine.execFenceComplete ch f s
  | .collectiveStart f => Sys2Proof.Machine.execCollectiveStart f s
  | .collectiveComplete slot => Sys2Proof.Machine.execCollectiveComplete slot s
  | .collectiveTimeout slot => Sys2Proof.Machine.execCollectiveTimeout slot s
  | .idleFrame p k h => Sys2Proof.Machine.execIdleFrame p k h s
  | .dataFrame p k h payload r => Sys2Proof.Machine.execDataFrame p k h payload r s
  | .holdFrame p k h => Sys2Proof.Machine.execHoldFrame p k h s
  | .negFrame p k h id idValid port mask => Sys2Proof.Machine.execNegFrame p k h id idValid port mask s
  | .retryFrame p k h expected => Sys2Proof.Machine.execRetryFrame p k h expected s
  | .swapFrame p k h failed spare => Sys2Proof.Machine.execSwapFrame p k h failed spare s
  | .joinFrame p k h j => Sys2Proof.Machine.execJoinFrame p k h j s
  | .joinAckFrame p k h j => Sys2Proof.Machine.execJoinAckFrame p k h j s
  | .abortFrame p k h a => Sys2Proof.Machine.execAbortFrame p k h a s
  | .tokenFrame p k h time => Sys2Proof.Machine.execTokenFrame p k h time s
  | .frameDiscarded p k codewords frame => Sys2Proof.Machine.execFrameDiscarded p k codewords frame s
  | .reorderGapTimeout p => Sys2Proof.Machine.execReorderGapTimeout p s
  | .joinRepeat slot => Sys2Proof.Machine.execJoinRepeat slot s
  | .joinLimitExpired slot => Sys2Proof.Machine.execJoinLimitExpired slot s
  | .spokeLossOfLight p k => Sys2Proof.Machine.execSpokeLossOfLight p k s
  | .spokeSilentTimeout p k => Sys2Proof.Machine.execSpokeSilentTimeout p k s
  | .spokeErrorWindow p k symbols errors => Sys2Proof.Machine.execSpokeErrorWindow p k symbols errors s
  | .portDown p => Sys2Proof.Machine.execPortDown p s
  | .portBringupAdvance p b mask => Sys2Proof.Machine.execPortBringupAdvance p b mask s
  | .codecFrameStart e => Sys2Proof.Machine.execCodecFrameStart e s
  | .codecFrameDone e => Sys2Proof.Machine.execCodecFrameDone e s
  | .stemDescriptorStart e => Sys2Proof.Machine.execStemDescriptorStart e s
  | .stemRowWaitMet e => Sys2Proof.Machine.execStemRowWaitMet e s
  | .stemRowDone e => Sys2Proof.Machine.execStemRowDone e s
  | .stemDescriptorDone e => Sys2Proof.Machine.execStemDescriptorDone e s
  | .stemTimeout e => Sys2Proof.Machine.execStemTimeout e s
  | .steepingDone cl patternsPass marginPercent => Sys2Proof.Machine.execSteepingDone cl patternsPass marginPercent s
  | .requestedSteepingDone kind target result scan => Sys2Proof.Machine.execRequestedSteepingDone kind target result scan s
  | .tandemWriteStart => Sys2Proof.Machine.execTandemWriteStart s
  | .tandemWriteDone readBackGood => Sys2Proof.Machine.execTandemWriteDone readBackGood s
  | .powerOn => Sys2Proof.Machine.execPowerOn s
  | .vaoLoss => Sys2Proof.Machine.execVaoLoss s
  | .brownOut rail => Sys2Proof.Machine.execBrownOut rail s
  | .clockFailure => Sys2Proof.Machine.execClockFailure s
  | .clk32kLoss => Sys2Proof.Machine.execClk32kLoss s
  | .controllerLockup => Sys2Proof.Machine.execControllerLockup s
  | .systemReset => Sys2Proof.Machine.execSystemReset s
  | .coreReset => Sys2Proof.Machine.execCoreReset s
  | .resetReleaseStep => Sys2Proof.Machine.execResetReleaseStep s
  | .trimLoadDone => Sys2Proof.Machine.execTrimLoadDone s
  | .tandemReadDone => Sys2Proof.Machine.execTandemReadDone s
  | .zeroFillDone t => Sys2Proof.Machine.execZeroFillDone t s
  | .bootFirmwareVerified => Sys2Proof.Machine.execBootFirmwareVerified s
  | .attestationSetup => Sys2Proof.Machine.execAttestationSetup s
  | .svnRaise => Sys2Proof.Machine.execSvnRaise s
  | .mailboxPost f m irq => Sys2Proof.Machine.execMailboxPost f m irq s
  | .aspmL1Entry => Sys2Proof.Machine.execAspmL1Entry s
  | .pcieLinkUp => Sys2Proof.Machine.execPcieLinkUp s
  | .configurationReady => Sys2Proof.Machine.execConfigurationReady s
  | .vfEnable num => Sys2Proof.Machine.execVfEnable num s
  | .coreCheckFault c => Sys2Proof.Machine.execCoreCheckFault c s
  | .frameTablePlaced => Sys2Proof.Machine.execFrameTablePlaced s
  | .lifecycleTransitionDone => Sys2Proof.Machine.execLifecycleTransitionDone s
  | .firmwareUpdateDone => Sys2Proof.Machine.execFirmwareUpdateDone s
  | .quoteSigned f => Sys2Proof.Machine.execQuoteSigned f s
  | .certificateWritten f => Sys2Proof.Machine.execCertificateWritten f s
  | .logReadDone f => Sys2Proof.Machine.execLogReadDone f s
  | .detectWaitMet e => Sys2Proof.Machine.execDetectWaitMet e s
  | .frameSlotSent p k => Sys2Proof.Machine.execFrameSlotSent p k s

end Sys2Proof.Machine
end

