-- ==== Sys2Proof/WellFormed.lean ====
section
/-! DEFINITION. The shape a command's payloads must have; everything else about a command is judged by its meaning. -/

namespace Sys2Proof

/-- The payload sizes and list lengths the spec gives. -/
def Instr.wellFormed : Instr → Bool
  | .registerWrite _ _ _ data => decide (1 ≤ data.length) && decide (data.length ≤ 8)
  | .getQuote _ nonce => decide (nonce.length = 32)
  | .thermtrip stackC junctionC => decide (stackC.length = 20) && decide (junctionC.length = 16)
  | .kettleSample _ dieMw rails16 stackC junctionC =>
    decide (dieMw.length = 4) && decide (rails16.length = 12)
      && decide (stackC.length = 20) && decide (junctionC.length = 16)
  | _ => true

end Sys2Proof
end

