-- ==== Sys2Proof/Machine/Step.lean ====
section
/-! DEFINITION. One step: the command at the front of the queue, or the passing of one fabric cycle. -/

namespace Sys2Proof.Machine

/-- Ticks of `now` in one fabric cycle of 0.5 ns (log 3; Table 0.3). -/
def fabricCycle : Nat := 90090

/-- The device with nothing commanded: one fabric cycle passes (log 3). -/
def idle (s : State) : State := { s with now := s.now + fabricCycle }

/-- Take the command at the front of the queue and run it with the queue's rest; with an empty queue, let one fabric cycle pass. -/
def step (s : State) : Host.Outcome State Fault Refusal :=
  match s.pending with
  | [] => .next (idle s)
  | c :: rest =>
    if c.wellFormed then exec c { s with pending := rest } else .refused .illFormed

/-- The state with the command a word spells put at the front of its queue; no word spells one. -/
def State.withFetchWord (s : State) (nbits w : Nat) : State :=
  match decodeTableWord nbits w with
  | some c => { s with pending := c :: s.pending }
  | none => s

end Sys2Proof.Machine
end

