-- ==== Sys2Proof/Safety.lean ====
section
/-! DEFINITION. The terms the statements use: what counts as a safe run, when a mailbox command is admitted, and the invariants of the security block and of the tables. -/

namespace Sys2Proof.Safety

open Sys2Proof.Machine

/-- The device goes on from this state for `k` steps. -/
def runs : Nat → State → Prop
  | 0, _ => True
  | k + 1, s => ∃ t, step s = .next t ∧ runs k t

/-- Mailbox m of function f is the one the controller takes next, it holds a command of this form, and checks 1 to 5 of Table 15.4 pass (R331, R332). -/
abbrev Admitted (form : CmdForm) (s : State) (f : Fn) (m : Mb) : Prop :=
  s.takes f m = true ∧ (s.ctl.req f m).code = form.code ∧ form.refusal (s.ctl.req f m) s = none

/-- Mailbox m of function f is the one the controller takes next, it holds a command of this form, and its length is right: checks 1 and 2 of Table 15.4 pass (R331, R332). -/
abbrev Presented (form : CmdForm) (s : State) (f : Fn) (m : Mb) : Prop :=
  s.takes f m = true ∧ (s.ctl.req f m).code = form.code ∧ (s.ctl.req f m).length = form.len.expect (s.ctl.req f m)

/-- No thermal trip stands (R373). -/
abbrev Clocked (s : State) : Prop := s.clocks.thermtrip = false

/-- The sequencer of core c reaches, at position p, the word `word` with this opcode: the block runs and does not slip, everything due up to p has been done, and the word has left its bundle. `s1` is the state in which the word then acts, `r` the block in it (R83). -/
def Issues (s : State) (c opcode : Nat) (s1 : State) (r : RunBlock) (word p : Nat) : Prop :=
  Clocked s ∧ ∃ r0 ra : RunBlock, (s.core c).run = some r0 ∧ r0.slip = none ∧ r0.ending = none
    ∧ r0.offers.any (fun w => (parseSlot w).opcode == opcode) = true
    ∧ p = (if r0.slots.isEmpty then r0.nextOffset else r0.lastIssue)
    ∧ ((s.advance c p).core c).run = some ra ∧ ra.slip = none ∧ ra.ending = none ∧ (ra.slots.isEmpty && ra.nextBundle.isNone) = false
    ∧ (if ra.slots.isEmpty then ra.begin else ra).takeWord opcode = some (word, r)
    ∧ s1 = ((s.advance c p).upTo (r.timeAt ((s.advance c p).core c).period p)).modRun c (fun _ => r)

/-- The block chosen on core c stands in this phase, and a change of gear, a swap, a wake or a change of the share table holds nothing back. -/
abbrev MayIssue (s : State) (c : Nat) (l : LoadBlock) : Prop :=
  Clocked s ∧ (s.core c).load = some l ∧ l.phase = .ready ∧ (s.core c).run = none ∧ (s.core c).swap = none ∧ (s.core c).clock.change = none
    ∧ (s.core c).clock.waking = none ∧ (s.core c).clock.waiting = false ∧ (s.core c).clock.gear.toNat = s.targetGear c
    ∧ s.share.changeDue (clusterOf c) = false

/-- The commands that issue a unit's operation, with their opcodes (Table 5.6). -/
def unitCommands : List ((CoreIx → Instr) × Nat) :=
  [(.product, 0x01), (.rotateStore, 0x08), (.convert, 0x10), (.elemwise, 0x11), (.format, 0x12), (.reduce, 0x13), (.rowstat, 0x14), (.window, 0x15),
    (.func, 0x20), (.lookup, 0x21)]

/-- The security block's fields lie where the spec lets them lie: LIFECYCLE is one of 0 to 4 (R393), the log holds at most 256 records (R405), an attestation key signs at most 1,024 times (R403, R406). -/
abbrev SecurityInv (s : State) : Prop :=
  s.sec.lifecycle.toNat ≤ 4 ∧ s.sec.log.length ≤ 256 ∧ ∀ k ∈ s.sec.attKey, k.nextIndex ≤ 1024

/-- The byte arrays and counters stand in their canonical form: addresses strictly rise, and nothing listed equals what an unlisted place reads as. -/
abbrev MemoriesCanonical (s : State) : Prop :=
  s.mem.wf = true ∧ twf 0 s.host.memory = true ∧ twf 0 s.ctl.mailbox = true ∧ twf 0 s.cores.spad = true ∧ twf 0 s.cores.acc = true
    ∧ twf 0 s.share.clusterCtr = true ∧ twf 0 s.share.hubCtr = true ∧ twf 0xFF s.rst.nor = true

/-- The tables of functions, cores, queues, sequences, ports, engines and records stand in their canonical form: indexes strictly rise and no entry is the default. -/
abbrev TablesCanonical (s : State) : Prop :=
  twf {} s.cores.cores = true ∧ twf {} s.ctl.rings = true ∧ twf {} s.host.fns = true ∧ twf {} s.mem.movers = true ∧ twf {} s.mem.hostq = true
    ∧ twf {} s.pages.recs = true ∧ twf {} s.seqs.seqs = true ∧ twf [] s.seqs.lists = true ∧ twf [] s.seqs.lookahead = true ∧ twf {} s.seqs.ctx = true
    ∧ twf none s.seqs.destroying = true ∧ twf none s.seqs.preempting = true ∧ twf none s.seqs.restoring = true
    ∧ twf {} s.fabric.ports = true ∧ twf {} s.fabric.links = true ∧ twf {} s.fabric.slots = true ∧ twf {} s.fabric.queues = true ∧ twf none s.fabric.sent = true
    ∧ twf {} s.codecs = true ∧ twf {} s.stems = true ∧ twf {} s.svc.errs = true ∧ twf {} s.svc.spares = true
    ∧ twf {} s.clocks.dies = true ∧ twf 0 s.clocks.stackNow = true ∧ twf 0 s.clocks.stackHeld = true ∧ twf 0 s.clocks.junctionNow = true ∧ twf 0 s.clocks.junctionHeld = true

end Sys2Proof.Safety
end

