-- ==== Sys2Proof/Certificates/Slice0/Obligations.lean ====
section
/-! DEFINITION. Statements for the provers. -/

open Sys2Proof Sys2Proof.Machine Sys2Proof.Safety

/-- A step takes the command at the front of the queue: it is exec of that command on the state with the queue's rest; an ill-formed term is refused; with an empty queue one fabric cycle passes and nothing else (log 3). No command faults and none is refused: each answers a next state, and a well-formed front command always gives one. -/
def Obligations.step_runs_the_front_command : Prop :=
  ((∀ (c : Instr) (rest : List Instr) (s : State), c.wellFormed = true → step { s with pending := c :: rest } = exec c { s with pending := rest })
  ∧ (∀ (c : Instr) (rest : List Instr) (s : State), c.wellFormed = false → step { s with pending := c :: rest } = .refused .illFormed)
  ∧ (∀ s : State, s.pending = [] → step s = .next { s with now := s.now + fabricCycle }))
  ∧ ((∀ (c : Instr) (s : State), ∃ t : State, exec c s = .next t)
  ∧ (∀ (c : Instr) (rest : List Instr) (s : State), s.pending = c :: rest → c.wellFormed = true → ∃ t : State, step s = .next t))

/-- The commands of the controller about itself: IDENTIFY, EVENT_RING_SET, RESET_REQUEST are applied and answered, and a code no table lists is answered BAD_COMMAND (R332, R334, R340, R378). Where the spec leaves room this follows the readings the model chose (log 12, log 16). -/
def Obligations.controller_commands_are_applied_and_answered : Prop :=
  (∀ (s : State) (f : Fn) (m : Mb), Admitted identifyForm s f m →
    ∃ r : List Byte, exec (.identify f m) s = .next (s.answer f m (s.ctl.req f m) { reply := r }) ∧ r.length = 32
      ∧ r.take 16 = partNumber ++ List.replicate 6 0 ∧ fieldAt r 0x10 1 = 0xA0 ∧ fieldAt r 0x18 4 = f.val
      ∧ fieldAt r 0x1C 4 = s.host.vfsEnabled.toNat)
  ∧ (∀ (s : State) (f : Fn) (m : Mb), Admitted ringForm s f m →
    ∃ u : State, exec (.eventRingSet f m) s = .next (u.answer f m (s.ctl.req f m) {})
      ∧ u = { s with ctl := s.ctl.setRing f { s.ctl.ring f with
          head := 0, tail := 0, phase := true, valid := true, lost := 0, unsignalled := 0
          base := BitVec.ofNat 64 ((s.ctl.req f m).u64 0), log2Size := BitVec.ofNat 5 ((s.ctl.req f m).u32 8)
          vector := BitVec.ofNat 11 ((s.ctl.req f m).u32 0xC), mbVector := BitVec.ofNat 11 ((s.ctl.req f m).u32 0x10)
          modCount := BitVec.ofNat 8 ((s.ctl.req f m).u32 0x14), modUs := BitVec.ofNat 10 ((s.ctl.req f m).u32 0x14 / 65536) } })
  ∧ (∀ (s : State) (f : Fn) (m : Mb), Admitted resetForm s f m →
    exec (.resetRequest f m) s = .next (State.answer { s with rst := { s.rst with
      software := s.rst.software ++ [(if (s.ctl.req f m).u32 0 = 1 then .core else .system, s.now + 10 * usTicks)] } } f m (s.ctl.req f m) {}))
  ∧ (∀ (s : State) (f : Fn) (m : Mb), s.takes f m = true → codeListed (s.ctl.req f m).code = false →
    exec (.unlistedCommand f m) s = .next (s.answer f m (s.ctl.req f m) { status := stBadCommand }))

/-- What an answer leaves in a mailbox: the status, the detail, the reply and its length, and the host as owner; no byte of another mailbox changes (R328). -/
def Obligations.an_answer_reads_back_and_touches_no_other_mailbox : Prop :=
  ∀ (s : State) (f : Fn) (m : Mb) (q : Req) (a : Answer), twf 0 s.ctl.mailbox = true → a.reply.length ≤ 480 →
    (s.answer f m q a).ctl.mb f m 0x0C 2 = natLe 2 a.status
    ∧ (s.answer f m q a).ctl.mb f m 0x0E 2 = natLe 2 a.detail
    ∧ (s.answer f m q a).ctl.mb f m 0x10 a.reply.length = a.reply
    ∧ (s.answer f m q a).ctl.mb f m 0x1F0 2 = natLe 2 a.reply.length
    ∧ (s.answer f m q a).ctl.owned f m = false
    ∧ (∀ (g : Fn) (n : Mb) (b : Fin 512), (g, n) ≠ (f, m) → tget 0 (s.answer f m q a).ctl.mailbox (mbKey g n b) = tget 0 s.ctl.mailbox (mbKey g n b))
    ∧ (∀ b : Fin 512, b.val < 0x0C → tget 0 (s.answer f m q a).ctl.mailbox (mbKey f m b) = tget 0 s.ctl.mailbox (mbKey f m b))

/-- What the common checks refuse is answered with the check's status and has no other effect, whatever the command (R329, R332, Table 15.4). -/
def Obligations.a_refused_command_changes_nothing_but_its_mailbox : Prop :=
  ∀ (s : State) (f : Fn) (m : Mb) (form : CmdForm) (row : Req → State → State × Answer) (a : Answer),
    s.takes f m = true → (s.ctl.req f m).code = form.code → form.refusal (s.ctl.req f m) s = some a →
    (s.serve f m form row = s.answer f m (s.ctl.req f m) a
      ∧ (a.status = stBadLength ∨ a.status = stNotPermitted ∨ a.status = stBadField ∨ a.status = stBusy)
      ∧ ((s.ctl.req f m).length ≠ form.len.expect (s.ctl.req f m) → a = { status := stBadLength, detail := form.len.expect (s.ctl.req f m) % 65536 })
      ∧ ((s.ctl.req f m).length = form.len.expect (s.ctl.req f m) → form.pf0 = true → f.val ≠ 0 → a = { status := stNotPermitted })
      ∧ ((s.ctl.req f m).length = form.len.expect (s.ctl.req f m) → form.owns (s.ctl.req f m) s = false → a = { status := stNotPermitted })
      ∧ ((s.ctl.req f m).length = form.len.expect (s.ctl.req f m) → (form.pf0 = true → f.val = 0) → form.owns (s.ctl.req f m) s = true →
          (∃ k, firstOf (reservedBad form.masks 0 (s.ctl.req f m) ++ form.range (s.ctl.req f m)) = some k ∧ a = { status := stBadField, detail := 0x10 + k })
          ∨ (firstOf (reservedBad form.masks 0 (s.ctl.req f m) ++ form.range (s.ctl.req f m)) = none ∧ form.accepts = true ∧ 32 ≤ s.ctl.inFlight f ∧ a = { status := stBusy, detail := 2 })))

/-- Host writes to BAR0: a mailbox the host owns is posted, EVQ_HEAD moves unless it would pass EVQ_TAIL, 1s clear RESET_CAUSE, a partly enabled word is discarded and counted, and so is a write past the BAR discarded; a configuration write reaches its register (R328, R330, R334, R345, R346, R348). Where the spec leaves room this follows the readings the model chose (log 15, log 50). -/
def Obligations.host_register_writes_take_effect : Prop :=
  (∀ (s : State) (f : Fn) (m : Mb) (irq : Bool), Clocked s → s.host.serves f = true → s.wake.ctl.owned f m = false →
    ∃ t : State, exec (.mailboxPost f m irq) s = .next t ∧ t.ctl.posted = s.wake.ctl.posted ++ [(f.val, m.val)]
      ∧ t.ctl.mailbox = setBytes 0 s.wake.ctl.mailbox (mbKey f m 0x1FC) (natLe 4 (2 ^ 31 + (if irq then 2 ^ 30 else 0)))
      ∧ t = { s.wake with ctl := { s.wake.ctl with mailbox := t.ctl.mailbox, posted := t.ctl.posted } })
  ∧ (∀ (s : State) (f : Fn) (m : Mb) (irq : Bool), Clocked s → s.host.serves f = true → s.wake.ctl.owned f m = true →
    exec (.mailboxPost f m irq) s = .next { s.wake with ctl := s.wake.ctl.setRing f { s.wake.ctl.ring f with violations := satAdd (s.wake.ctl.ring f).violations 1 } })
  ∧ (∀ (s : State) (f : Fn) (head : BitVec 16), Clocked s → s.host.serves f = true →
    head.toNat < 2 ^ (s.wake.ctl.ring f).log2Size.toNat →
    (head.toNat + 2 ^ (s.wake.ctl.ring f).log2Size.toNat - (s.wake.ctl.ring f).head.toNat) % 2 ^ (s.wake.ctl.ring f).log2Size.toNat ≤ (s.wake.ctl.ring f).used →
    exec (.evqHeadWrite f head) s = .next { s.wake with ctl := s.wake.ctl.setRing f { s.wake.ctl.ring f with head := head } })
  ∧ (∀ (s : State) (f : Fn) (head : BitVec 16), Clocked s → s.host.serves f = true →
    (2 ^ (s.wake.ctl.ring f).log2Size.toNat ≤ head.toNat
      ∨ (s.wake.ctl.ring f).used < (head.toNat + 2 ^ (s.wake.ctl.ring f).log2Size.toNat - (s.wake.ctl.ring f).head.toNat) % 2 ^ (s.wake.ctl.ring f).log2Size.toNat) →
    exec (.evqHeadWrite f head) s = .next { s.wake with ctl := s.wake.ctl.setRing f { s.wake.ctl.ring f with violations := satAdd (s.wake.ctl.ring f).violations 1 } })
  ∧ (∀ (s : State) (v : BitVec 32), Clocked s → s.host.serves 0 = true →
    ∃ t : State, exec (.resetCauseClear v) s = .next t
      ∧ (∀ i : Fin 8, t.rst.cause.getLsbD i = (s.wake.rst.cause.getLsbD i && !v.getLsbD i))
      ∧ (t.rst.pins.faultN = true ↔ (s.wake.rst.pins.faultN = true ∨ ((t.rst.cause.getLsbD 1 || t.rst.cause.getLsbD 3 || t.rst.cause.getLsbD 6 || t.rst.cause.getLsbD 7) = false ∧ s.wake.clocks.thermtrip = false)))
      ∧ t = { s.wake with rst := { s.wake.rst with cause := t.rst.cause, pins := { s.wake.rst.pins with faultN := t.rst.pins.faultN } } })
  ∧ (∀ (s : State) (f : Fn) (r : ConfigReg) (e : BitVec 8) (data : List Byte), Clocked s → s.host.configures f = true →
    exec (.registerWrite f (.config r) e data) s = .next (s.wake.configWrite f (mergedWord e data (s.wake.configWord f r)) r))
  ∧ (∀ (s : State) (f : Fn) (o : Nat) (e : BitVec 8) (data : List Byte), Clocked s → s.host.serves f = true →
    ((data.length = 8 ∧ o % 8 ≠ 0) ∨ (if f.val = 0 then 2 ^ 26 else 2 ^ 20) < o + data.length) →
    exec (.registerWrite f (.bar0 o) e data) s = .next s.wake)
  ∧ (∀ (s : State) (f : Fn) (o : Nat) (e : BitVec 8) (data : List Byte), Clocked s → s.host.serves f = true → o % 4 = 0 → data.length = 4 →
    o + 4 ≤ (if f.val = 0 then 2 ^ 26 else 2 ^ 20) →
    exec (.registerWrite f (.bar0 o) e data) s = .next (
      if e.getLsbD 0 && e.getLsbD 1 && e.getLsbD 2 && e.getLsbD 3 then s.wake.wordWrite f o (leNat data)
      else if e.getLsbD 0 || e.getLsbD 1 || e.getLsbD 2 || e.getLsbD 3 then
        { s.wake with ctl := s.wake.ctl.setRing f { s.wake.ctl.ring f with violations := satAdd (s.wake.ctl.ring f).violations 1 } }
      else s.wake))

/-- Event rings, MSI-X and register reads: the drain command writes the ring's held entries; of a ring with no loss pending as many as it has room for go out, in order, each 64 bytes at EVQ_BASE + 64 × EVQ_TAIL with the ring's PHASE and EVQ_TAIL moved on, and the rest stay held; a due EVENTS_LOST entry goes first, and becomes due as a backlog that has lost entries empties; the moderation time sends the vector, an unmasked vector's message is sent, a vector's mask and Function Mask are cleared, and a register is read through the bytes enabled (the one read command is the model's reading, log 50) (R334, R335, R336, R337, R353). Where the spec leaves room this follows the readings the model chose (log 5, log 15, log 50). -/
def Obligations.rings_vectors_and_device_time : Prop :=
  (∀ (s : State) (f : Fn), Clocked s → s.rst.past 5 true = true → (s.host.fn f).flr = none →
    exec (.eventBacklogDrain f) s = .next { s with
      ctl := s.ctl.setRing f (drainRing s.now f ((s.ctl.ring f).backlog.length + 2) (s.ctl.ring f) s.host).1
      host := (drainRing s.now f ((s.ctl.ring f).backlog.length + 2) (s.ctl.ring f) s.host).2 })
  ∧ (∀ (s : State) (f : Fn), Clocked s → (s.ctl.ring f).unsignalled ≠ 0 →
    exec (.eventModerationTimer f) s = .next { s with
      now := max s.now ((s.ctl.ring f).firstUnsignalled + (s.ctl.ring f).modUs.toNat * usTicks)
      ctl := s.ctl.setRing f { s.ctl.ring f with unsignalled := 0 }
      host := s.host.signal f (s.ctl.ring f).vector.toNat })
  ∧ (∀ (s : State) (f : Fn) (v : Fin 2048), Clocked s → s.host.serves f = true → v.val < (if f.val = 0 then 2048 else 64) →
    exec (.msixMaskClear f (some v)) s = .next { s.wake with host := s.wake.host.setMask f v false })
  ∧ (∀ (s : State) (f : Fn), Clocked s → s.host.configures f = true →
    exec (.msixMaskClear f none) s = .next { s.wake with host := (s.wake.host.setFn f { s.wake.host.fn f with functionMask := false }).flushPending f })
  ∧ (∀ (h : HostState) (f v : Nat), (tget {} (h.fn f).vectors v).masked = false → (h.fn f).functionMask = false → (h.fn f).msixEnable = true → h.sends f = true →
    h.signal f v = { h with messages :=
      { fn := f, vector := v, address := (tget {} (h.fn f).vectors v).address, data := (tget {} (h.fn f).vectors v).data } :: h.messages })
  ∧ (∀ (s : State) (f : Fn) (o : Nat) (wide : Bool) (e : BitVec 8), Clocked s → s.host.serves f = true → o % 4 = 0 → o + 4 ≤ (if f.val = 0 then 2 ^ 26 else 2 ^ 20) →
    (f.val ≠ 0 ∨ (o ≠ 0x018 ∧ o ≠ 0x01C)) → wide = false →
    exec (.deviceTimeRead f (.bar0 o) wide e) s = .next { s.wake with host := { s.wake.host with reply := .data (enabledBytes e 0 (s.wake.barWord f o)) } })
  ∧ (∀ (s : State) (f : Fn) (r : ConfigReg) (wide : Bool) (e : BitVec 8), Clocked s → s.host.configures f = true →
    exec (.deviceTimeRead f (.config r) wide e) s = .next { s.wake with host := { s.wake.host with reply := .data (enabledBytes e 0 (s.wake.configWord f r)) } })
  ∧ (∀ (now f n : Nat) (r : RingState) (h : HostState), r.owed = none → r.lostSince = 0 → r.valid = true → h.sends f = true → r.backlog.length < n →
    r.head.toNat < 2 ^ r.log2Size.toNat → r.tail.toNat < 2 ^ r.log2Size.toNat → r.log2Size.toNat ≤ 16 →
    drainRing now f n r h =
      (r.backlog.take (2 ^ r.log2Size.toNat - 1 - r.used)).foldl (fun w e => writeEntry now f e w.1 w.2) ({ r with backlog := r.backlog.drop (2 ^ r.log2Size.toNat - 1 - r.used) }, h))
  ∧ (∀ (now f n : Nat) (r : RingState) (h : HostState), r.valid = false ∨ h.sends f = false ∨ 2 ^ r.log2Size.toNat - 1 ≤ r.used → drainRing now f n r h = (r, h))
  ∧ (∀ (now f n : Nat) (r : RingState) (h : HostState) (x : Nat × Nat), r.room = true → h.sends f = true → r.owed = some x →
    drainRing now f (n + 1) r h =
      drainRing now f n (writeEntry now f (eventsLost f x) { r with owed := none } h).1 (writeEntry now f (eventsLost f x) { r with owed := none } h).2)
  ∧ (∀ (now f n : Nat) (r : RingState) (h : HostState) (e : Entry), r.room = true → h.sends f = true → r.owed = none → r.backlog = [e] → r.lostSince ≠ 0 →
    drainRing now f (n + 1) r h =
      drainRing now f n (writeEntry now f e { r with backlog := [], owed := some (r.lostSince, now / nsTicks), lostSince := 0 } h).1
        (writeEntry now f e { r with backlog := [], owed := some (r.lostSince, now / nsTicks), lostSince := 0 } h).2)
  ∧ (∀ (now f : Nat) (e : Entry) (r : RingState) (h : HostState),
    (writeEntry now f e r h).2.memory = setBytes 0 h.memory (r.base.toNat + 64 * r.tail.toNat) (e.bytes r.phase)
    ∧ (writeEntry now f e r h).1.tail.toNat = (if r.tail.toNat + 1 = 2 ^ r.log2Size.toNat then 0 else (r.tail.toNat + 1) % 2 ^ 16)
    ∧ (writeEntry now f e r h).1.phase = (if r.tail.toNat + 1 = 2 ^ r.log2Size.toNat then !r.phase else r.phase)
    ∧ (writeEntry now f e r h).1.head = r.head ∧ (writeEntry now f e r h).1.backlog = r.backlog ∧ (writeEntry now f e r h).1.lost = r.lost
    ∧ (writeEntry now f e r h).2.messages = (if r.modCount.toNat ≤ r.unsignalled + 1 then (h.signal f r.vector.toNat).messages else h.messages))

/-- The device-memory window: a read answers memory's bytes, or Completer Abort at an uncorrectable grain, a write stores them, a poisoned write stores nothing (R352). Link and power states, and what reaches a function that is not served: L1 is entered and left, the link comes up, the configuration space answers, D3hot stops a function and D0 sends what it holds (R356, R357, R361). Where the spec leaves room this follows the readings the model chose (log 14, log 15, log 50). -/
def Obligations.device_memory_window : Prop :=
  ((∀ (s : State) (f : Fn) (offset len : Nat), Clocked s → s.host.serves f = true → len ≠ 0 →
    offset + len ≤ 2 ^ (s.wake.host.fn f).bar2Log2 →
    (∀ x ∈ grainPieces ((s.wake.host.fn f).bar2Base.toNat + offset) len, s.wake.bar2Place f x.1 false = .ok x.1 ∧ s.wake.mem.ue.contains (x.1 / 256) = false) →
    ∃ t : State, exec (.bar2Read f offset len []) s = .next t
      ∧ t.host.reply = .data ((grainPieces ((s.wake.host.fn f).bar2Base.toNat + offset) len).flatMap (fun x => sliceAt (s.wake.mem.grain (x.1 / 256)) (x.1 % 256) x.2))
      ∧ t.mem.cells = s.wake.mem.cells ∧ t.mem.ue = s.wake.mem.ue ∧ t.ctl = s.wake.ctl ∧ t.cores = s.wake.cores ∧ t.host.fns = s.wake.host.fns)
  ∧ (∀ (s : State) (f : Fn) (offset len a : Nat) (errors : List GrainErrors), Clocked s → s.host.serves f = true → len ≠ 0 →
    offset + len ≤ 2 ^ (s.wake.host.fn f).bar2Log2 → grainPieces ((s.wake.host.fn f).bar2Base.toNat + offset) len = [(a, len)] →
    s.wake.bar2Place f a false = .ok a → s.wake.mem.ue.contains (a / 256) = true →
    ∃ t : State, exec (.bar2Read f offset len errors) s = .next t ∧ t.host.reply = .completerAbort ∧ t.mem.cells = s.wake.mem.cells ∧ t.cores = s.wake.cores)
  ∧ (∀ (s : State) (f : Fn) (offset : Nat) (data : List Byte), Clocked s → s.host.serves f = true → data ≠ [] →
    offset + data.length ≤ 2 ^ (s.wake.host.fn f).bar2Log2 →
    s.wake.bar2Bad f true (grainPieces ((s.wake.host.fn f).bar2Base.toNat + offset) data.length) = none →
    exec (.bar2Write f offset data false) s = .next (State.bar2Put f (cutPieces ((s.wake.host.fn f).bar2Base.toNat + offset) data) s.wake))
  ∧ (∀ (s : State) (f a : Nat) (bs : List Byte), s.bar2Place f a true = .ok a → s.mem.seals = [] → s.mem.ue = [] →
    State.bar2Put f [(a, bs)] s = { s with mem := { s.mem with cells := setBytes 0 s.mem.cells a bs } })
  ∧ (∀ (s : State) (f : Fn) (offset : Nat) (data : List Byte), Clocked s → s.host.serves f = true → data ≠ [] →
    offset + data.length ≤ 2 ^ (s.wake.host.fn f).bar2Log2 →
    ∃ t : State, exec (.bar2Write f offset data true) s = .next t ∧ t.mem = s.wake.mem ∧ t.cores = s.wake.cores ∧ t.pages = s.wake.pages))
  ∧ ((∀ s : State, Clocked s → s.host.link = .l0 → s.host.linkControl.getLsbD 1 = true → exec .aspmL1Entry s = .next { s with host := { s.host with link := .l1 } })
  ∧ (∀ s : State, Clocked s → s.host.link = .l1 → ∃ t : State, exec .l1Exit s = .next t ∧ t.host.link = .l0 ∧ t.mem = s.mem ∧ t.rst = s.rst ∧ t.now = s.now)
  ∧ (∀ s : State, Clocked s → s.host.link = .training → exec .pcieLinkUp s = .next { s with host := { s.host with link := .l0 } })
  ∧ (∀ s : State, Clocked s → s.host.link = .l0 ∨ s.host.link = .l1 → exec .configurationReady s = .next { s with host := { s.host with configReady := true } })
  ∧ (∀ (s : State) (f : Fn), Clocked s → s.host.configures f = true →
    exec (.d3hotEnter f) s = .next { s.wake with host := s.wake.host.setFn f { s.wake.host.fn f with d3hot := true } })
  ∧ (∀ (s : State) (f : Fn), Clocked s → s.host.configures f = true →
    ∃ u : State, u = { s.wake with host := s.wake.host.setFn f { s.wake.host.fn f with d3hot := false } }
      ∧ exec (.d0Return f) s = .next { u.drainEvents f with host := (u.drainEvents f).host.flushPending f })
  ∧ (∀ (s : State) (f : Fn), Clocked s → s.host.link = .l0 ∨ s.host.link = .l1 → s.host.configReady = false →
    exec (.d3hotEnter f) s = .next { s.wake with host := { s.wake.host with reply := .retryStatus } })
  ∧ (∀ (s : State) (f : Fn) (head : BitVec 16), Clocked s → s.host.serves f = false → s.host.link = .l0 ∨ s.host.link = .l1 →
    exec (.evqHeadWrite f head) s = .next { s.wake with host := { s.wake.host with reply := .unsupportedRequest } }))

/-- The MCTP endpoint answers control messages, in packets of the request's size between 64 and 512 bytes, while it is open, and is silent otherwise (R362; the answers' bytes are the model's, log 29). -/
def Obligations.mctp_control_messages : Prop :=
  (∀ (s : State) (v : Vdm) (eid : Byte), Clocked s → s.mctpOpen v = true →
    exec (.mctpSetEndpointId v eid) s = .next { s.wake with host := { s.wake.host with endpointId := eid, reply := .mctp (vdmPackets v [0, 0, eid, 0]) } })
  ∧ (∀ (s : State) (v : Vdm), Clocked s → s.mctpOpen v = true →
    exec (.mctpGetEndpointId v) s = .next { s.wake with host := { s.wake.host with reply := .mctp (vdmPackets v [0, s.host.endpointId, 0, 0]) } })
  ∧ (∀ (s : State) (v : Vdm), Clocked s → s.mctpOpen v = true →
    exec (.mctpGetVersionSupport v) s = .next { s.wake with host := { s.wake.host with reply := .mctp (vdmPackets v ([0, 1] ++ Config.mctpVersion)) } })
  ∧ (∀ (s : State) (v : Vdm), Clocked s → s.mctpOpen v = true →
    exec (.mctpGetMessageTypeSupport v) s = .next { s.wake with host := { s.wake.host with reply := .mctp (vdmPackets v [0, 2, 0x01, 0x7F]) } })
  ∧ (∀ (s : State) (v : Vdm) (msg : List Byte), Clocked s → s.mctpOpen v = true →
    exec (.pldmMonitoring v msg) s = .next { s.wake with freeCtr := s.wake.freeCtr + 1, host := { s.wake.host with reply := .mctp (vdmPackets v (Config.pldmAnswer s.freeCtr msg)) } })
  ∧ (∀ (v : Vdm) (b : List Byte), (vdmPackets v b).flatMap id = b ∧ ∀ p ∈ vdmPackets v b, p.length ≤ 512)
  ∧ (∀ (s : State) (v : Vdm), v.to_ ≠ 0 → s.mctpOpen v = false)
  ∧ (∀ (s : State) (v : Vdm) (eid : Byte), s.mctpOpen v = false → exec (.mctpSetEndpointId v eid) s = .next s ∧ exec (.mctpGetEndpointId v) s = .next s
    ∧ exec (.mctpGetVersionSupport v) s = .next s ∧ exec (.mctpGetMessageTypeSupport v) s = .next s)

/-- RECORD_READ answers the records asked for, and RECORD_CLEAR clears the format-event and clip-watch records of the cores named and nothing else of them (R340, Tables 15.16 and 15.17). Where the spec leaves room this follows the readings the model chose (log 16). -/
def Obligations.telemetry_records : Prop :=
  (∀ (s : State) (f : Fn) (m : Mb) (o : TelObj), Admitted (telForm 0x0801 false) s f m → telObj ((s.ctl.req f m).u32 0) = some o →
    telRange o (s.ctl.req f m) = none → f.val = 0 →
    exec (.recordRead f m) s = .next (s.chargeAll.answer f m (s.ctl.req f m)
      { reply := ((List.range ((s.ctl.req f m).u32 8)).map ((s.ctl.req f m).u32 4 + ·)).flatMap (s.chargeAll.telRecord ((s.ctl.req f m).u32 0)) }))
  ∧ (∀ (s : State) (f : Fn) (m : Mb) (o : TelObj), Presented (telForm 0x0801 false) s f m → telObj ((s.ctl.req f m).u32 0 % 256) = some o → f.val ≠ 0 → o.pf0 = true →
    exec (.recordRead f m) s = .next (s.answer f m (s.ctl.req f m) { status := stNotPermitted }))
  ∧ (∀ (s : State) (f : Fn) (m : Mb), Admitted (telForm 0x0802 true) s f m → (s.ctl.req f m).u32 0 = 1 → (s.ctl.req f m).u32 4 < 256 → (s.ctl.req f m).u32 8 = 1 →
    exec (.recordClear f m) s = .next (State.answer (s.modCore ((s.ctl.req f m).u32 4) (fun k => { k with fmtRec := {} })) f m (s.ctl.req f m) {}))
  ∧ (∀ (s : State) (f : Fn) (m : Mb), Admitted (telForm 0x0802 true) s f m → (s.ctl.req f m).u32 0 = 2 → (s.ctl.req f m).u32 4 < 256 → (s.ctl.req f m).u32 8 = 1 →
    exec (.recordClear f m) s = .next (State.answer (s.modCore ((s.ctl.req f m).u32 4) (fun k => { k with clipRec := {} })) f m (s.ctl.req f m) {}))
  ∧ (∀ (s : State) (f : Fn) (m : Mb), Admitted (telForm 0x0802 true) s f m → (s.ctl.req f m).u32 0 = 3 →
    telRange ⟨64, 256, true, false⟩ (s.ctl.req f m) = none →
    exec (.recordClear f m) s = .next (s.answer f m (s.ctl.req f m) { status := stBadField, detail := 0x10 }))

/-- A block's way to its first bundle: the core picks a chain, its image is read and checked, the bound wait ends or times out, or its core goes unavailable, the bound words are read, and the block begins 48 core cycles, and the copy of a moved core, after the later of boundary and readiness (R86, R112, R113, R133, R243, R413). What a block finds at its first bundle: its chain's registers, no user flag, no QUANT_CLIP, no operation in flight, its counters at zero (R83, R124). Where the spec leaves room this follows the readings the model chose (log 3, log 35, log 46). -/
def Obligations.blocks_are_chosen_loaded_and_issued : Prop :=
  ((∀ (s : State) (c : CoreIx) (f : Nat) (succ : Bool) (ch : Chain), Clocked s → (s.core c).load = none → (s.core c).swap = none → (s.core c).run = none → (s.core c).kept = [] →
    ((s.core c).raise ((s.core c).candidates s.seqs) none).pick s.seqs = some f →
    ((s.core c).raise ((s.core c).candidates s.seqs) none).candidate s.seqs f = some (succ, ch) →
    exec (.blockChosen c) s = .next (s.setCore c
      { (((s.core c).raise ((s.core c).candidates s.seqs) none).take f succ ch).1 with
        load := some { fn := f, chain := (((s.core c).raise ((s.core c).candidates s.seqs) none).take f succ ch).2, headAt := s.now }, kept := [] }))
  ∧ (∀ (s : State) (c : CoreIx) (l : LoadBlock) (img : List Byte), Clocked s → (s.core c).load = some l → l.phase = .chosen → s.loadChecks c l = .ok img →
    exec (.blockLoad c) s = .next (s.modCore c (fun k => { k with load := some { l with image := img, phase := if (parseHeader img).waitEn then .boundWait else .checked } })))
  ∧ (∀ (s : State) (c : CoreIx) (l : LoadBlock) (e : Ending), Clocked s → (s.core c).load = some l → l.phase = .chosen → s.loadChecks c l = .error e →
    exec (.blockLoad c) s = .next (s.failLoad c l e))
  ∧ (∀ (s : State) (c : CoreIx) (l : LoadBlock), Clocked s → (s.core c).load = some l → l.phase = .boundWait → s.available c = true →
    s.share.ctrBad (clusterOf c) (parseHeader l.image).waitCtr = false →
    (s.share.ctr (clusterOf c) (parseHeader l.image).waitCtr - BitVec.ofNat 32 (parseHeader l.image).waitThr).toNat < 2 ^ 31 →
    exec (.boundWaitMet c) s = .next (s.modCore c (fun k => { k with load := some { l with phase := .checked } })))
  ∧ (∀ (s : State) (c : CoreIx) (l : LoadBlock), Clocked s → (s.core c).load = some l → l.phase = .boundWait → s.available c = true → (parseHeader l.image).wallLimit ≠ 0 →
    2 ^ 31 ≤ (s.share.ctr (clusterOf c) (parseHeader l.image).waitCtr - BitVec.ofNat 32 (parseHeader l.image).waitThr).toNat →
    exec (.boundWaitTimeout c) s = .next ((s.upTo (l.headAt + (parseHeader l.image).wallLimit * nsTicks + fabTicks)).failLoad c l { status := BitVec.ofNat 16 stSlipLimit }))
  ∧ (∀ (s : State) (c : CoreIx) (l : LoadBlock) (bs : List W32), Clocked s → (s.core c).load = some l → l.phase = .checked → s.available c = true →
    readBounds s.mem s.pages l.fn l.image (parseHeader l.image).mboundCount 0 = .ok bs →
    exec (.blockReady c) s = .next ((s.modCore c (fun k => { k with load := some { l with phase := .ready, bounds := bs, readyAt := s.now } })).retarget c))
  ∧ (∀ (s : State) (c : CoreIx) (l : LoadBlock), MayIssue s c l → s.available c = true → s.groupsFew c l.fn l.image = false →
    exec (.blockIssue c) s = .next ((s.upTo (max (s.core c).boundaryAt l.readyAt + 48 * (s.core c).period + (s.core c).copyTime)).modCore c (fun k => k.begin l (s.share.ownGroups c l.fn))))
  ∧ (∀ (s : State) (c : CoreIx) (l : LoadBlock), MayIssue s c l → s.available c = false →
    exec (.blockIssue c) s = .next (s.failLoad c l (blockFault faultCoreUnavailable)))
  ∧ (∀ (s : State) (c : CoreIx) (l : LoadBlock), Clocked s → (s.core c).load = some l → l.phase = .boundWait → s.available c = false →
    exec (.boundWaitMet c) s = .next (s.failLoad c l (blockFault faultCoreUnavailable))
    ∧ exec (.boundWaitTimeout c) s = .next (s.failLoad c l (blockFault faultCoreUnavailable))))
  ∧ (∀ (k : CoreState) (l : LoadBlock) (gs : List Nat) (i : Fin 16),
    (k.begin l gs).sreg i = l.chain.sregs.getD i 0 ∧ (k.begin l gs).userFlags = 0 ∧ (k.begin l gs).quantClip = false ∧ (k.begin l gs).load = none
    ∧ ∃ r : RunBlock, (k.begin l gs).run = some r ∧ r.fn = l.fn ∧ r.groups = gs ∧ r.image = l.image ∧ r.startAt = max k.boundaryAt l.readyAt + 48 * k.period + k.copyTime
      ∧ r.pos = 0 ∧ r.ops = [] ∧ r.scalars = [] ∧ r.slots = [] ∧ r.slip = none ∧ r.ending = none ∧ r.clipCount = 0 ∧ r.maxMag = 0 ∧ r.slips = {})

/-- A block's end: the wall limit ends it with SLIP_LIMIT, the boundary settles what it leaves, its entry is written once its work has settled, and an idle core, or the idle spare slot of a cluster, goes to freewheel (R86, R98, R108, R132, R368). What the boundary of a block leaves on its core: no block, the boundary's time, the clip-watch counts of the block with the running peak (none of a block that its function's reset ended), one more over-budget block where its slips exceed its budget, a successor only for a block that ended OK and has one; the format-event record, the sub-queues and the mover stay (R76, R97, R132). Where the spec leaves room this follows the readings the model chose (log 3, log 46). -/
def Obligations.blocks_end_and_report : Prop :=
  ((∀ (s : State) (c : CoreIx) (r : RunBlock), Clocked s → (s.core c).run = some r → (parseHeader r.image).wallLimit ≠ 0 → r.ending = none →
    r.runsAt (s.core c).period (max s.now ((r.startAt + (parseHeader r.image).wallLimit * nsTicks) / fabTicks * fabTicks + fabTicks)) = true →
    exec (.wallLimitExpired c) s = .next (s.endAt c (max s.now ((r.startAt + (parseHeader r.image).wallLimit * nsTicks) / fabTicks * fabTicks + fabTicks)) { status := BitVec.ofNat 16 stSlipLimit }))
  ∧ (∀ (s : State) (c : CoreIx) (r : RunBlock) (e : Ending), Clocked s → (s.core c).run = some r → r.ending = some e →
    exec (.blockBoundary c) s = .next (s.boundaryAt c r.endedAt r))
  ∧ (∀ (s : State) (c : CoreIx) (b : EndedBlock), Clocked s → (s.core c).ended = [b] → (s.core c).mover.descs = [] → (s.core c).mover.adds = [] →
    b.silent = false → b.ending.status ≠ 0 →
    exec (.blockCompletionEntry c) s = .next ((s.modCore c (fun k => { k with ended := [] })).post b.fn
      { source := 1, origin := BitVec.ofNat 4 b.fn, code := 0, payload := b.payload c, timeNs := b.endNs }))
  ∧ (∀ (s : State) (c : CoreIx) (b : EndedBlock), Clocked s → (s.core c).ended = [b] → (s.core c).mover.descs = [] → (s.core c).mover.adds = [] →
    b.ending.status = 0 → b.event = false →
    exec (.blockCompletionEntry c) s = .next (s.modCore c (fun k => { k with ended := [] })))
  ∧ (∀ (s : State) (c : CoreIx), Clocked s → (s.core c).run = none → (s.core c).load = none → (s.core c).swap = none →
    (∀ q ∈ s.svc.requests, q.kind = 0 → q.target ≠ c.val) → (s.core c).clock.change = none →
    (s.core c).clock.waking = none → (s.core c).clock.gear ≠ 0 → (s.core c).candidates s.seqs = [] →
    exec (.freewheelEnter ⟨c.val, by omega⟩) s = .next ((s.upTo ((s.core c).clock.idleSince + usTicks)).modCore c (fun k => { k with clock := { k.clock with gear := 0, waiting := false } })))
  ∧ (∀ (s : State) (cl : Fin 16), Clocked s → s.steeps cl = false → (tget {} s.clocks.spareClocks cl).change = none → (tget {} s.clocks.spareClocks cl).waking = none →
    (tget {} s.clocks.spareClocks cl).gear ≠ 0 →
    exec (.freewheelEnter ⟨256 + cl.val, by omega⟩) s = .next ((s.upTo ((tget {} s.clocks.spareClocks cl).idleSince + usTicks)).modClock (256 + cl.val) (fun k => { k with gear := 0, waiting := false }))))
  ∧ (∀ (k : CoreState) (r : RunBlock) (t weight : Nat),
    (k.boundary r t weight false).run = none ∧ (k.boundary r t weight false).boundaryAt = t
    ∧ (r.silent = false → (k.boundary r t weight false).clipRec.blockClipCount = r.clipCount ∧ (k.boundary r t weight false).clipRec.blockMaxMag = r.maxMag
        ∧ (k.boundary r t weight false).clipRec.peakMaxMag.toNat = max k.clipRec.peakMaxMag.toNat r.maxMag.toNat)
    ∧ (r.silent = true → (k.boundary r t weight false).clipRec = k.clipRec)
    ∧ ((k.boundary r t weight false).slipRec.overBlocks = if (parseHeader r.image).slipBudget < r.slips.total then satAdd k.slipRec.overBlocks 1 else k.slipRec.overBlocks)
    ∧ (∀ e : Ending, r.ending = some e → e.status ≠ 0 → (k.boundary r t weight false).successors = k.successors)
    ∧ (r.ending = none → k.chainCut.contains r.chain.id = false → (k.successor r).1 ≠ 0 → twf none k.successors = true →
        ∃ ch : Chain, tget none (k.boundary r t weight false).successors r.fn = some ch ∧ ch.id = r.chain.id ∧ ch.image = BitVec.ofNat 64 (k.successor r).1
          ∧ ch.sregs = (List.range 16).map (fun i => tget 0 k.sregs i))
    ∧ (k.boundary r t weight false).fmtRec = k.fmtRec ∧ (k.boundary r t weight false).queues = k.queues ∧ (k.boundary r t weight false).mover = k.mover)

/-- The sequencer's own words: REGOP and SETFLAG write one core cycle later, LOADREG four after reading one word of the scratchpad, which ends the block where another read or write of the core holds its bank, and no other register, flag, counter or byte of memory changes at their issue (R79, R80, R122). A register or flag takes its value when its latency has run: the write due first becomes visible and nothing else of the core changes (R122). ADD and WAIT_GE: an ADD is applied at once, or waits under RELEASE for the earlier STOREs; WAIT_GE goes on when the counter has come round to the threshold and slips otherwise; a counter of another context ends the block (R101, R102, R123). Where the spec leaves room this follows the readings the model chose (log 47). -/
def Obligations.register_and_flag_words : Prop :=
  (((∀ (s s1 : State) (c : CoreIx) (r : RunBlock) (w p : Nat), Issues s c 0x32 s1 r w p →
    exec (.regop c) s = .next (s1.modRun c (fun r => r.write p 1 false ((parseSlot w).op 0 % 16)
      (match (parseSlot w).op 1 % 8 with
        | 0 => BitVec.ofNat 32 ((parseSlot w).op 2)
        | 1 => (s1.core c).sreg ((parseSlot w).op 3 % 16)
        | 2 => (s1.core c).sreg ((parseSlot w).op 0 % 16) + BitVec.ofNat 32 ((parseSlot w).op 2)
        | 3 => if (BitVec.ofNat 32 ((parseSlot w).op 2)).toInt < ((s1.core c).sreg ((parseSlot w).op 0 % 16)).toInt then BitVec.ofNat 32 ((parseSlot w).op 2) else (s1.core c).sreg ((parseSlot w).op 0 % 16)
        | _ => if ((s1.core c).sreg ((parseSlot w).op 0 % 16)).toInt < (BitVec.ofNat 32 ((parseSlot w).op 2)).toInt then BitVec.ofNat 32 ((parseSlot w).op 2) else (s1.core c).sreg ((parseSlot w).op 0 % 16)))))
  ∧ (∀ (s s1 : State) (c : CoreIx) (r : RunBlock) (w p : Nat), Issues s c 0x34 s1 r w p →
    ∃ v : W32, exec (.setflag c) s = .next (s1.modRun c (fun r => r.write p 1 true ((parseSlot w).op 0 % 4) v))
      ∧ (v = 0 ∨ v = 1)
      ∧ ((parseSlot w).op 2 % 4 = 0 → (v = 1 ↔ (s1.core c).sreg ((parseSlot w).op 1 % 16) = BitVec.ofNat 32 ((parseSlot w).op 3)))
      ∧ ((parseSlot w).op 2 % 4 = 1 → (v = 1 ↔ (s1.core c).sreg ((parseSlot w).op 1 % 16) ≠ BitVec.ofNat 32 ((parseSlot w).op 3)))
      ∧ ((parseSlot w).op 2 % 4 = 2 → (v = 1 ↔ ((s1.core c).sreg ((parseSlot w).op 1 % 16)).toInt < (BitVec.ofNat 32 ((parseSlot w).op 3)).toInt))
      ∧ ((parseSlot w).op 2 % 4 = 3 → (v = 1 ↔ (BitVec.ofNat 32 ((parseSlot w).op 3)).toInt ≤ ((s1.core c).sreg ((parseSlot w).op 1 % 16)).toInt)))
  ∧ (∀ (s s1 : State) (c : CoreIx) (r : RunBlock) (w p : Nat), Issues s c 0x33 s1 r w p → (s1.ctxOf r.fn).spadOk ((parseSlot w).spad 1) = true →
    r.collides (loadregOp w p ((parseSlot w).spad 1)) p = false → (s1.core c).mover.holds (c % 16) false [((parseSlot w).spad 1, 4)] = none → s1.cores.badWord c ((parseSlot w).spad 1, 4) = none →
    exec (.loadreg c) s = .next (s1.modRun c (fun r => RunBlock.write { r with ops := r.liveOps p ++ [loadregOp w p ((parseSlot w).spad 1)] } p 4 false ((parseSlot w).op 0 % 16) (BitVec.ofNat 32 (leNat ((s1.viewAt c p).bytes ((parseSlot w).spad 1) 4))))))
  ∧ (∀ (s s1 : State) (c : CoreIx) (r : RunBlock) (w p : Nat), Issues s c 0x33 s1 r w p → (s1.ctxOf r.fn).spadOk ((parseSlot w).spad 1) = true →
    r.collides (loadregOp w p ((parseSlot w).spad 1)) p = true →
    exec (.loadreg c) s = .next (s1.endBlock c (r.timeAt (s1.core c).period p) (blockFault faultBank)))
  ∧ (∀ (s s1 : State) (c : CoreIx) (r : RunBlock) (w p : Nat), Issues s c 0x33 s1 r w p → (s1.ctxOf r.fn).spadOk ((parseSlot w).spad 1) = false →
    exec (.loadreg c) s = .next (s1.endBlock c (r.timeAt (s1.core c).period p) (blockFault faultPartition 0x10 ((parseSlot w).spad 1) 2))))
  ∧ (∀ (k : CoreState) (r : RunBlock) (w : ScalarWrite), k.run = some r → r.scalars = [w] → twf 0 k.sregs = true →
    (w.isFlag = false → w.index < 16 →
      (∀ i : Fin 16, k.scalarWrite.sreg i = if i.val = w.index then w.value else k.sreg i) ∧ k.scalarWrite.userFlags = k.userFlags)
    ∧ (w.isFlag = true → w.index < 4 →
      (∀ i : Fin 4, k.scalarWrite.userFlags.getLsbD i = if i.val = w.index then decide (w.value ≠ 0) else k.userFlags.getLsbD i) ∧ k.scalarWrite.sregs = k.sregs)
    ∧ k.scalarWrite.run = some { r with scalars := [] } ∧ k.scalarWrite.quantClip = k.quantClip ∧ k.scalarWrite.mover = k.mover))
  ∧ ((∀ (s s1 : State) (c : CoreIx) (r : RunBlock) (w p : Nat), Issues s c 0x30 s1 r w p → (s1.ctxOf r.fn).ownsCtr (clusterOf c) ((parseSlot w).op 0 % 2 ^ 13) = true →
    (bit ((parseSlot w).op 1) 16 = false ∨ (s1.core c).mover.descs = []) →
    exec (.add c) s = .next (s1.addCtr (clusterOf c) ((parseSlot w).op 0 % 2 ^ 13) ((parseSlot w).op 1 % 65536)))
  ∧ (∀ (s s1 : State) (c : CoreIx) (r : RunBlock) (w p : Nat), Issues s c 0x30 s1 r w p → (s1.ctxOf r.fn).ownsCtr (clusterOf c) ((parseSlot w).op 0 % 2 ^ 13) = true →
    bit ((parseSlot w).op 1) 16 = true → (s1.core c).mover.descs.any (fun d => d.isStore) = true →
    exec (.add c) s = .next (s1.modCore c (fun k => { k with mover := { k.mover with
      adds := k.mover.adds ++ [{ block := r.ordinal, ctr := (parseSlot w).op 0 % 2 ^ 13, amount := (parseSlot w).op 1 % 65536, before := k.mover.nextId }] } })))
  ∧ (∀ (s s1 : State) (c : CoreIx) (r : RunBlock) (w p : Nat), Issues s c 0x30 s1 r w p → (s1.ctxOf r.fn).ownsCtr (clusterOf c) ((parseSlot w).op 0 % 2 ^ 13) = false →
    exec (.add c) s = .next (s1.endBlock c (r.timeAt (s1.core c).period p) (blockFault faultCounterOwner)))
  ∧ (∀ (s s1 : State) (c : CoreIx) (r : RunBlock) (w p : Nat), Issues s c 0x31 s1 r w p → (s1.ctxOf r.fn).ownsCtr (clusterOf c) ((parseSlot w).op 0 % 2 ^ 13) = true →
    s1.share.ctrBad (clusterOf c) ((parseSlot w).op 0 % 2 ^ 13) = false → bit ((parseSlot w).op 2) 2 = false →
    exec (.waitGe c) s = .next (if (s1.share.seen (s1.now / fabTicks) (clusterOf c) ((parseSlot w).op 0 % 2 ^ 13) - BitVec.ofNat 32 ((parseSlot w).op 1)).toNat < 2 ^ 31 then s1
      else s1.slipAt c p [.counter ((parseSlot w).op 0 % 2 ^ 13) (BitVec.ofNat 32 ((parseSlot w).op 1)).toNat (classCause ((parseSlot w).op 2 % 4))]))
  ∧ (∀ (s s1 : State) (c : CoreIx) (r : RunBlock) (w p : Nat), Issues s c 0x31 s1 r w p → (s1.ctxOf r.fn).ownsCtr (clusterOf c) ((parseSlot w).op 0 % 2 ^ 13) = false →
    exec (.waitGe c) s = .next (s1.endBlock c (r.timeAt (s1.core c).period p) (blockFault faultCounterOwner)))
  ∧ (∀ (s : State) (c : CoreIx) (a : ReleaseAdd) (l : List ReleaseAdd), Clocked s → (s.core c).mover.adds = a :: l → (s.core c).mover.descs = [] →
    exec (.releaseAddApplied c) s = .next ((s.modCore c (fun k => { k with mover := { k.mover with adds := l } })).addCtr (clusterOf c) a.ctr a.amount))
  ∧ (∀ (s : State) (c : CoreIx) (r : RunBlock) (sl : SlipNow), Clocked s → ((s.settle c s.now).core c).run = some r → r.slip = some sl →
    slipCause (s.settle c s.now).share ((s.settle c s.now).core c).mover c ((s.settle c s.now).now / fabTicks) sl = none →
    ∃ t : Nat, exec (.slipResume c) s = .next (((s.settle c s.now).upTo t).modRun c (fun r => { r with slip := none, posAt := t, chargedTo := max r.chargedTo sl.chargedTo, chargedAs := sl.chargedAs }))
      ∧ (s.settle c s.now).now < t ∧ (r.posAt ≤ (s.settle c s.now).now → t ≤ (s.settle c s.now).now + ((s.settle c s.now).core c).period) ∧ (∃ n : Nat, t = r.posAt + (n + 1) * ((s.settle c s.now).core c).period)))

/-- An ADD changes one counter, by its amount modulo 2^32, and no other: a hub counter by its number, a cluster counter of the core's own cluster; a wait on any field that names the counter sees it from the fabric cycle after it on, and not before; to a counter whose word is uncorrectable an ADD changes nothing (R101, R102, R123, R172). -/
def Obligations.an_add_changes_one_counter : Prop :=
  ∀ (h : ShareState) (cl fld amount : Nat), twf 0 h.hubCtr = true → twf 0 h.clusterCtr = true →
    (h.ctrBad cl fld = false → (h.addCtr cl fld amount).ctr cl fld = h.ctr cl fld + BitVec.ofNat 32 amount)
    ∧ (h.ctrBad cl fld = true → h.addCtr cl fld amount = h)
    ∧ (∀ cl' fld' : Nat, cl < 16 → cl' < 16 → (bit fld 12 ≠ bit fld' 12 ∨ (bit fld 12 = true ∧ bit fld' 12 = true ∧ fld % 4096 ≠ fld' % 4096)
        ∨ (bit fld 12 = false ∧ bit fld' 12 = false ∧ (cl, fld % 256) ≠ (cl', fld' % 256))) →
      (h.addCtr cl fld amount).ctr cl' fld' = h.ctr cl' fld')
    ∧ (h.addCtr cl fld amount).owners = h.owners
    ∧ (∀ fld' : Nat, (bit fld 12 = true ∧ bit fld' 12 = true ∧ fld % 4096 = fld' % 4096 ∨ bit fld 12 = false ∧ bit fld' 12 = false ∧ fld % 256 = fld' % 256) →
      (∀ t : Nat, (h.addAt t cl fld amount).seen (t / fabTicks) cl fld' = h.seen (t / fabTicks) cl fld')
      ∧ (∀ t n : Nat, h.ctrBad cl fld = false → t / fabTicks < n → (h.addAt t cl fld amount).seen n cl fld' = h.ctr cl fld' + BitVec.ofNat 32 amount))

/-- A unit's operation at its issue: it joins the operations in flight, and the block's last result comes no earlier than its own tiles and latency ask; a busy unit, and any other check that fails, end the block with BLOCK_FAULT instead; a SWAP exchanges its slot (R79 to R81, R85, R86, R151). A swapped slot: a pending shadow becomes active and the former table is kept STALE; any other shadow leaves the slot alone (R151). Where the spec leaves room this follows the readings the model chose (log 38, log 46). -/
def Obligations.unit_operations_issue : Prop :=
  ((∀ x ∈ unitCommands, ∀ (s s1 : State) (c : CoreIx) (r : RunBlock) (w p : Nat), Issues s c x.2 s1 r w p →
    issueFault (s1.ctxOf r.fn) r ((s1.core c).newOp r w p) p = none →
    exec (x.1 c) s = .next (s1.modRun c (fun b => { b with
      ops := b.ops.filter (fun o => o.occupies p || decide (o.next < o.count) || !o.flight.isEmpty) ++ [(s1.core c).newOp r w p]
      lastResult := max b.lastResult (p + ((s1.core c).newOp r w p).count * ((s1.core c).newOp r w p).tile + ((s1.core c).newOp r w p).latency - 1) }))
    ∧ r.busy ((s1.core c).newOp r w p) p = false ∧ r.collides ((s1.core c).newOp r w p) p = false)
  ∧ (∀ x ∈ unitCommands, ∀ (s s1 : State) (c : CoreIx) (r : RunBlock) (w p : Nat), Issues s c x.2 s1 r w p → r.busy ((s1.core c).newOp r w p) p = true →
    exec (x.1 c) s = .next (s1.endBlock c (r.timeAt (s1.core c).period p) (blockFault faultUnitBusy)))
  ∧ (∀ x ∈ unitCommands, ∀ (s s1 : State) (c : CoreIx) (r : RunBlock) (w p : Nat) (e : Ending), Issues s c x.2 s1 r w p →
    issueFault (s1.ctxOf r.fn) r ((s1.core c).newOp r w p) p = some e →
    exec (x.1 c) s = .next (s1.endBlock c (r.timeAt (s1.core c).period p) e)
    ∧ e.status = BitVec.ofNat 16 stBlockFault)
  ∧ (∀ (s s1 : State) (c : CoreIx) (r : RunBlock) (w p : Nat), Issues s c 0x22 s1 r w p → r.busy ((s1.core c).newOp r w p) p = false →
    (s1.ctxOf r.fn).caddySlots.getLsbD ((parseSlot w).op 0 % 4) = true →
    exec (.swap c) s = .next ((s1.modCore c (fun k => { k with caddy := tmod {} k.caddy ((parseSlot w).op 0 % 4) CaddySlot.swap })).modRun c
      (fun b => b.start { (s1.core c).newOp r w p with next := ((s1.core c).newOp r w p).count } p))))
  ∧ (∀ b : CaddySlot, (b.shadowState = .pending → b.swap.active = b.shadow ∧ b.swap.shadow = b.active ∧ b.swap.shadowState = .stale)
    ∧ (b.shadowState ≠ .pending → b.swap = b) ∧ b.swap.swap = b.swap)

/-- An iteration computes its results from what it reads at its issue, where its format events are counted, and they are written when their last core cycle has passed: the words it names and no others, but for an entry to which a later product has added on top of its sums (R45, R55, R82, R85, R126). What writing a result does to the on-die memories: the bytes or the entry named take the new value, everything else reads as before (R78, R82). Where the spec leaves room this follows the readings the model chose (log 1, log 38, log 46). -/
def Obligations.iterations_read_compute_and_write : Prop :=
  ((∀ (s : State) (c p : Nat) (r : RunBlock) (op : Nat) (o : UnitOp), r.ops[op]? = some o → (o.ctx r.image).masked o.next = false →
    s.readError c (o.ctx r.image) o.next = none →
    ∃ (x : IterOut) (q : Pending), x = runTile (o.ctx r.image) (if (o.ctx r.image).w.opcode = 0x01 then s.productView c p r else s.viewAt c p) o.next
      ∧ s.issueIter c p r op = (s.modCore c (fun k => { k with fmtRec := each x.events (fun e y => y.count e.2 e.1) k.fmtRec })).modRun c
          (fun r => { r with ops := modAt r.ops op (fun o => { o with next := o.next + 1, flight := o.flight ++ [q] }) })
      ∧ q.first = p + o.latency ∧ q.last = p + o.latency + o.tile - 1 ∧ q.writes = x.writes ∧ q.later = [])
  ∧ (∀ (s : State) (c p : Nat) (r : RunBlock) (op : Nat) (o : UnitOp), r.ops[op]? = some o → (o.ctx r.image).masked o.next = true →
    s.issueIter c p r op = s.modRun c (fun r => { r with ops := modAt r.ops op (fun o => { o with next := o.next + 1 }) }))
  ∧ (∀ (s : State) (c : Nat) (r : RunBlock) (op pend : Nat) (o : UnitOp) (q : Pending), r.ops[op]? = some o → o.flight[pend]? = some q → (s.core c).mover.descs = [] →
    (s.commit c r op pend).cores.spad = (each q.toWrite (fun w x => x.putWrite c w) s.cores).spad
    ∧ (s.commit c r op pend).cores.acc = (each q.toWrite (fun w x => x.putWrite c w) s.cores).acc
    ∧ (s.commit c r op pend).mem = s.mem ∧ (s.commit c r op pend).share = s.share)
  ∧ (∀ q : Pending, (∀ w ∈ q.toWrite, w ∈ q.writes) ∧ (q.later = [] → q.toWrite = q.writes)
    ∧ (∀ (l e : Nat) (v : W32) (sums : List W32), CoreWrite.acc l e v sums ∈ q.writes → (CoreWrite.acc l e v sums ∈ q.toWrite ↔ (l, e) ∉ q.later)))
  ∧ (∀ (s : State) (c : CoreIx) (r : RunBlock) (p q : Nat) (op pend : Nat), Clocked s → (s.core c).run = some r → r.slip = none → r.ending = none →
    leastDue r.dues = some (q, .commit op pend) → r.nextCommit = some p → r.limit p = p →
    exec (.operationResultWritten c) s = .next ((s.upTo (r.timeAt (s.core c).period p)).advance c p))
  ∧ (∀ (s : State) (c : CoreIx) (r r1 : RunBlock), Clocked s → (s.core c).run = some r → r.slip = none → r.ending = none → r.stopAt.isSome = true → r.slots = [] →
    r.nextBundle = none → ((s.advance c (max r.lastIssue r.lastResult + 1)).core c).run = some r1 → r1.slip = none → r1.ending = none →
    exec (.quantClipStopEnd c) s = .next (((s.advance c (max r.lastIssue r.lastResult + 1)).upTo
        (r1.timeAt ((s.advance c (max r.lastIssue r.lastResult + 1)).core c).period (max r.lastIssue r.lastResult + 1))).modRun c (fun r => { r with
      ending := some { status := BitVec.ofNat 16 stQuantClip }
      endedAt := r1.timeAt ((s.advance c (max r.lastIssue r.lastResult + 1)).core c).period (max r.lastIssue r.lastResult + 1)
      ops := [], scalars := [] }))))
  ∧ ((∀ (x : CoresState) (c a : Nat) (d : List Byte), twf 0 x.spad = true →
    (x.putSpad c a d).getSpad c a d.length = d
    ∧ (∀ c' b : Nat, b < 2 ^ 22 → a + d.length ≤ 2 ^ 22 → (c' ≠ c ∨ b < a ∨ a + d.length ≤ b) → (x.putSpad c a d).getSpad c' b 1 = x.getSpad c' b 1)
    ∧ (x.putSpad c a d).acc = x.acc ∧ (x.putSpad c a d).cores = x.cores)
  ∧ (∀ (x : CoresState) (c lane e : Nat) (v : W32), twf 0 x.acc = true → lane < 128 → e < 2048 →
    tget 0 (x.putAcc c lane e v).acc (accKeyOf c + 2 ^ 11 * lane + e) = v
    ∧ (∀ c' l' e' : Nat, l' < 128 → e' < 2048 → (c', l', e') ≠ (c, lane, e) →
        tget 0 (x.putAcc c lane e v).acc (accKeyOf c' + 2 ^ 11 * l' + e') = tget 0 x.acc (accKeyOf c' + 2 ^ 11 * l' + e'))
    ∧ (x.putAcc c lane e v).spad = x.spad ∧ (x.putAcc c lane e v).cores = x.cores))

/-- What one iteration of a unit operation computes, element by element: a PRODUCT entry takes the chunks in ascending reduction index, each an exact sum times both scales, one rounding each, then the correction; a quantiser's scale is the smallest code that reaches the largest magnitude; ROTATE_STORE writes seeded signs, butterflies and normalisation, quantised; CONVERT the scaled entries in the target format; ELEMWISE, FORMAT and REDUCE the elements of Tables 6.2 and R137, a row's sum in the tree's order; ROWSTAT the states and results of Table 6.4; WINDOW the taps in order; FUNC and LOOKUP the function of the mapped element, rounded (R32, R36, R42 to R45, R48, R49, R56, R58, R61, R65, R117 to R119, R134, R137, R138, R140 to R146, R149). Where the spec leaves room this follows the readings the model chose (log 38, log 39, log 40, log 46). -/
def Obligations.unit_operations_compute : Prop :=
  (∀ (v : View) (a w n j : Nat), v.open_ = [] → 0 < w → j < n → (v.row a (8 * w) n).getD j 0 = leNat (bytesAt 0 v.spad (v.spadKey + a + j * w) w))
  ∧ (∀ (v : View) (a n j : Nat), v.open_ = [] → j < n → (v.row a 4 n).getD j 0 = (tget 0 v.spad (v.spadKey + a + j / 2)).toNat / 16 ^ (j % 2) % 16)
  ∧ (∀ (p : Pair) (r : ProductRec) (v : View) (a : ProductAt) (i j nsc start : Nat) (x w : Vec), a.empty = false → r.inline = false → i < r.m → j < r.n →
    nsc = (match p.scaleLen with
      | some n => ceilDiv r.k n
      | none => 0) →
    x = mkVec p ((List.range r.k).map (fun k => (xElem p r ((v.row (a.x + i * (r.k * p.xBits / 8)) p.xBits r.k).getD k 0)).1)) ((v.bytes (a.sx + i * nsc) nsc).map (·.toNat)) →
    w = mkVec p ((List.range r.k).map (fun k => (wElem p r ((v.row (a.w + j / 128 * (r.k * 128 * p.wBits / 8) + k * (128 * p.wBits / 8)) p.wBits 128).getD (j % 128) 0)).1)) ((v.bytes (a.sw + j * nsc) nsc).map (·.toNat)) →
    start = (if a.zero = true ∧ r.keep = false then 0 else v.entry (j % 128) (a.d + j / 128 * r.m + i)) →
    ∃ sums, CoreWrite.acc (j % 128) (a.d + j / 128 * r.m + i) (BitVec.ofNat 32
      (if r.corr then fadd ((List.range x.chunks.length).foldl (fun acc g => to32 ((f32 acc).add (chunkValue p g x w))) start) (((correction r v).terms.getD i []).getD j 0)
        else (List.range x.chunks.length).foldl (fun acc g => to32 ((f32 acc).add (chunkValue p g x w))) start)) sums ∈ (product p r v a).writes)
  ∧ (∀ (p : Pair) (g n : Nat) (x w : Vec), p.scaleLen = some n → p ≠ .mxfp4 → chunkValue p g x w =
    exactSum [((dot (x.chunks.getD g []) (w.chunks.getD g [])).mul (e5m3Val (x.scales.getD (g * p.chunk / n) 0))).mul (e5m3Val (w.scales.getD (g * p.chunk / n) 0))])
  ∧ (∀ (p : Pair) (g : Nat) (x w : Vec), p.scaleLen = none → chunkValue p g x w = dot (x.chunks.getD g []) (w.chunks.getD g []))
  ∧ (∀ l : List (Int × Int), dot (l.map (fun x => FpVal.ofInt x.1 0)) (l.map (fun x => FpVal.ofInt x.2 0)) = .ofInt ((l.map (fun x => x.1 * x.2)).sum) 0)
  ∧ (∀ (r : ProductRec) (v : View) (i j n : Nat), n = (if r.corrFp8 then 16 else 8) → i < r.m → j < r.n →
    ((correction r v).terms.getD i []).getD j 0 = chunkedDot n
      ((List.range r.rank).map (fun q => bf16.decode (convertTo bf16 .rne true false (f32 (chunkedDot n
        ((v.row (r.corrX + i * (r.k * (corrFmt r 0).width / 8)) (corrFmt r 0).width r.k).map (fun c => (wideVal (corrFmt r 0) c).1))
        ((v.row (r.corrA + q * (r.k * (corrFmt r 1).width / 8)) (corrFmt r 1).width r.k).map (fun c => (wideVal (corrFmt r 1) c).1))))).code))
      ((v.row (r.corrB + j * (r.rank * (corrFmt r 2).width / 8)) (corrFmt r 2).width r.rank).map (fun c => (wideVal (corrFmt r 2) c).1)))
  ∧ (∀ (t : NarrowFmt) (l : List FpVal), (amaxOf l).1 = 0 → dynamicScale t l = 0x78)
  ∧ (∀ (t : NarrowFmt) (l : List FpVal), (amaxOf l).1 ≠ 0 → (∀ c < dynamicScale t l, dyLe (amaxOf l).1 (amaxOf l).2 ((e5m3 c).1 * t.q) (e5m3 c).2 = false)
    ∧ (dynamicScale t l = 255 ∨ dyLe (amaxOf l).1 (amaxOf l).2 ((e5m3 (dynamicScale t l)).1 * t.q) (e5m3 (dynamicScale t l)).2 = true))
  ∧ (∀ (l : List FpVal) (s : Bool) (m : Nat) (e : Int), FpVal.fin s m e ∈ l → dyLe m e (amaxOf l).1 (amaxOf l).2 = true)
  ∧ (∀ (seed b i : Nat) (l : List Nat), i < l.length → (signs seed b l).getD i 0 = (if (splitmix64 (BitVec.ofNat 64 (seed + (b + i)))).getLsbD 63 then fneg (l.getD i 0) else l.getD i 0))
  ∧ (∀ (d n b i : Nat) (l : List Nat), 0 < d → l.length = 2 * d * n → b < n → i < d →
    (butterfly d l.length l).getD (2 * d * b + i) 0 = fadd (l.getD (2 * d * b + i) 0) (l.getD (2 * d * b + d + i) 0)
    ∧ (butterfly d l.length l).getD (2 * d * b + d + i) 0 = fsub (l.getD (2 * d * b + i) 0) (l.getD (2 * d * b + d + i) 0))
  ∧ (∀ (k n : Nat) (l : List Nat), stages k 0 l = l ∧ stages k (n + 1) l = stages k n (butterfly (2 ^ (k - (n + 1))) l.length l))
  ∧ (∀ (k seed b : Nat) (l : List Nat), rotateBlock k seed false b l = (stages k k (signs seed b l)).map (fun x => fmul x (to32 (.fin false 1 (-((k / 2 : Nat) : Int)))))
    ∧ rotateBlock k seed true b l = signs seed b ((stages k k l).map (fun x => fmul x (to32 (.fin false 1 (-((k / 2 : Nat) : Int)))))))
  ∧ (∀ (k seed b n q i : Nat) (tr : Bool) (f : Fmt) (codes : List Nat), k ≠ 0 → codes.length = 2 ^ k * n → q < n → i < 2 ^ k →
    (rotateRow k seed tr b f codes).getD (2 ^ k * q + i) 0 = (rotateBlock k seed tr (b + 2 ^ k * q) (((codes.drop (2 ^ k * q)).take (2 ^ k)).map (fun c => to32 (f.decode c)))).getD i 0)
  ∧ (∀ (seed b : Nat) (tr : Bool) (f : Fmt) (codes : List Nat), rotateRow 0 seed tr b f codes = codes.map (fun c => to32 (f.decode c)))
  ∧ (∀ (r : ProductRec) (v : View) (src dst sv copy coord i bits : Nat) (f : Fmt) (row : List Nat), i < r.m → f = (srcFmt? r.srcFmt).getD bf16 →
    row = rotateRow r.rotK r.seed r.transpose coord f (v.row (src + i * (r.k * f.width / 8)) f.width r.k) → bits = (if r.pair = 4 then 8 else 4) →
    CoreWrite.spad (dst + i * (r.k * bits / 8)) (pack bits 0 ((quantiseRow r (if r.stored then (v.bytes (sv + i * ceilDiv r.k 128) (ceilDiv r.k 128)).map (·.toNat) else []) row).elems.map (·.code)))
        ∈ (rotateStore r v src dst sv copy coord).writes
    ∧ (r.pair ≠ 4 → r.stored = false → CoreWrite.spad (sv + i * ceilDiv r.k 128) ((quantiseRow r [] row).scales.map (BitVec.ofNat 8)) ∈ (rotateStore r v src dst sv copy coord).writes)
    ∧ (r.corr = true → CoreWrite.spad (copy + i * (r.k * r.copyFmt.width / 8)) (pack r.copyFmt.width 0 (row.map (fun c => (convertTo r.copyFmt .rne r.sat false (f32 c)).code)))
        ∈ (rotateStore r v src dst sv copy coord).writes))
  ∧ (∀ (r : ProductRec) (t : NarrowFmt) (st row : List Nat) (j : Nat), r.rotTarget = .narrow t → j < row.length → (r.stored = true → ceilDiv row.length 128 ≤ st.length) →
    ((quantiseRow r st row).elems.map (·.code)).getD j 0 = (quantise t .rne false ((quantiseRow r st row).scales.getD (j / 128) 0) (f32 (row.getD j 0))).code
    ∧ (quantiseRow r st row).scales.getD (j / 128) 0 = (if r.stored then st.getD (j / 128) 0 else dynamicScale t (((row.drop (j / 128 * 128)).take 128).map f32)))
  ∧ (∀ (r : ProductRec) (f : Fmt) (st row : List Nat), r.rotTarget = .wide f → (quantiseRow r st row).elems.map (·.code) = row.map (fun x => (convertTo f .rne r.sat false (f32 x)).code))
  ∧ (∀ (r : ConvRec) (f : Fmt) (v : View) (src dst sv row col i : Nat) (pad : Nat → BitVec 4), i < r.rows →
    CoreWrite.spad (dst + i * r.pitch) (pack f.width (pad i).toNat ((List.range r.cols).map (fun j =>
      (convertTo f (if r.sr then .sr (srRandom r.seed ((row + i) * r.w + col + j)) else .rne) r.sat r.flush ((f32 (v.entry (j % 128) (src + j / 128 * r.rows + i))).mul (f32 r.outScale))).code)))
      ∈ (convertTile r (.wide f) v src dst sv row col pad).writes)
  ∧ (∀ (r : ConvRec) (t : NarrowFmt) (v : View) (src dst sv row col i nseg : Nat) (ps : List FpVal) (sc : List Nat) (pad : Nat → BitVec 4), i < r.rows → nseg = ceilDiv r.cols 128 →
    ps = (List.range r.cols).map (fun j => (f32 (v.entry (j % 128) (src + j / 128 * r.rows + i))).mul (f32 r.outScale)) →
    sc = (if r.stored then (v.bytes (sv + i * nseg) nseg).map (·.toNat) else (List.range nseg).map (fun q => dynamicScale t ((ps.drop (128 * q)).take 128))) →
    CoreWrite.spad (dst + i * r.pitch) (pack 4 (pad i).toNat ((List.range r.cols).map (fun j =>
      (quantise t (if r.sr then .sr (srRandom r.seed ((row + i) * r.w + col + j)) else .rne) r.flush (sc.getD (j / 128) 0) (ps.getD j .nan)).code)))
      ∈ (convertTile r (.narrow t) v src dst sv row col pad).writes
    ∧ (r.stored = false → CoreWrite.spad (sv + i * nseg) (sc.map (BitVec.ofNat 8)) ∈ (convertTile r (.narrow t) v src dst sv row col pad).writes))
  ∧ (∀ (r : VecRec) (u : VecUse) (v : View) (at_ : VecAt) (sel : Option (Nat → Nat → Bool)) (i : Nat) (a b x : Nat → Nat), i < r.rows → u.b = true →
    (∀ j < r.cols, a j = widen r.fmtA ((v.row (at_.a + i * r.pitchA) (8 * vecBytes r.fmtA) r.cols).getD j 0)) →
    (∀ j < r.cols, b j = (match r.bMode with
      | 0 => widen r.fmtB ((v.row (at_.b + i * r.pitchB) (8 * vecBytes r.fmtB) r.cols).getD j 0)
      | 1 => widen r.fmtB ((v.row (at_.b + i * vecBytes r.fmtB) (8 * vecBytes r.fmtB) 1).getD 0 0)
      | 2 => widen r.fmtB ((v.row at_.b (8 * vecBytes r.fmtB) r.cols).getD j 0)
      | _ => r.imm)) →
    (∀ j < r.cols, x j = (match sel with
      | some f => if f i j then fone else 0
      | none => if u.x then widen r.fmtX ((v.row (at_.x + i * r.pitchX) (8 * vecBytes r.fmtX) r.cols).getD j 0) else 0)) →
    CoreWrite.spad (at_.d + i * r.pitchD) (pack (8 * vecBytes r.fmtD) 0 ((List.range r.cols).map (fun j => narrowTo r.fmtD r.sat (elemOp r.subop (a j) (b j) (x j))))) ∈ (elemwiseTile r u v at_ sel).writes)
  ∧ (∀ a b x : Nat, elemOp 0 a b x = fadd a b ∧ elemOp 1 a b x = fsub a b ∧ elemOp 2 a b x = fmul a b ∧ elemOp 3 a b x = ffma a b x ∧ elemOp 4 a b x = fmax a b ∧ elemOp 5 a b x = fmin a b
    ∧ elemOp 6 a b x = to32 (f32 a).abs ∧ elemOp 7 a b x = to32 (f32 a).neg ∧ elemOp 8 a b x = (if (f32 a).feq (f32 b) then fone else 0) ∧ elemOp 9 a b x = (if (f32 a).lt (f32 b) then fone else 0)
    ∧ elemOp 10 a b x = (if (f32 a).le (f32 b) then fone else 0) ∧ elemOp 11 a b x = (if (f32 x).isNan = true ∨ (f32 x).isZero = true then b else a))
  ∧ (∀ (r : VecRec) (v : View) (at_ : VecAt) (i : Nat), i < r.rows →
    CoreWrite.spad (at_.d + i * r.pitchD) (pack (8 * vecBytes r.fmtD) 0 ((v.row (at_.a + i * r.pitchA) (8 * vecBytes r.fmtA) r.cols).map (fun c => narrowTo r.fmtD r.sat (widen r.fmtA c)))) ∈ (formatTile r v at_).writes)
  ∧ (∀ (r : VecRec) (v : View) (at_ : VecAt) (i : Nat) (l : List Nat), i < r.rows → l = (v.row (at_.a + i * r.pitchA) (8 * vecBytes r.fmtA) r.cols).map (widen r.fmtA) →
    CoreWrite.spad (at_.d + i * vecBytes r.fmtD) (natLe (vecBytes r.fmtD) (narrowTo r.fmtD r.sat (match r.subop with
      | 0 => treeSum l
      | 1 => l.tail.foldl fmax (l.headD 0)
      | 2 => l.tail.foldl fmin (l.headD 0)
      | 3 => treeSum (l.map (fun a => fmul a a))
      | _ => treeSum (l.map (fun a => to32 (f32 a).abs))))) ∈ (reduceTile r v at_).writes)
  ∧ (∀ l : List Nat, ∃ p : Nat → Nat → Nat,
    (∀ k < 256, p 0 k = ((List.range l.length).filter (fun q => q % 256 == k)).foldl (fun acc q => fadd acc (l.getD q 0)) 0)
    ∧ (∀ t < 8, ∀ k < 2 ^ (7 - t), p (t + 1) k = fadd (p t (2 * k)) (p t (2 * k + 1))) ∧ treeSum l = p 8 0)
  ∧ (∀ (s : RowState) (z : List Nat) (m : Nat), m = z.foldl fmax s.max →
    s.updExp z = (if m = fninf then { s with prevMax := s.max, max := m }
      else { s with prevMax := s.max, max := m, sumexp := fadd (fmul s.sumexp (fexp2 (fsub s.max m))) (treeSum (z.map (fun x => fexp2 (fsub x m)))) }))
  ∧ (∀ (s : RowState) (x : List Nat) (n mb d w : Nat), n = s.count + x.length → mb = fdiv (treeSum x) (fofNat x.length) → d = fsub mb s.mean → w = fdiv (fofNat x.length) (fofNat n) →
    s.updMom x = { s with
      mean := fadd s.mean (fmul d w)
      m2 := fadd (fadd s.m2 (treeSum (x.map (fun v => fmul (fsub v mb) (fsub v mb))))) (fmul (fmul (fmul d d) (fofNat s.count)) w)
      count := min n 0xFFFFFFFF })
  ∧ (∀ (s b : RowState) (n m d w : Nat), n = s.count + b.count → m = fmax s.max b.max → d = fsub b.mean s.mean → w = fdiv (fofNat b.count) (fofNat n) → b.count ≠ 0 →
    s.merge b = { s with
      prevMax := s.max, max := m
      sumexp := if m = fninf then 0 else fadd (fmul s.sumexp (fexp2 (fsub s.max m))) (fmul b.sumexp (fexp2 (fsub b.max m)))
      mean := fadd s.mean (fmul d w), m2 := fadd (fadd s.m2 b.m2) (fmul (fmul (fmul d d) (fofNat s.count)) w), count := min n 0xFFFFFFFF })
  ∧ (∀ s : RowState, s.lse = (if s.max = fninf then fninf else fadd s.max (flog2 s.sumexp)) ∧ s.factor = (if s.max = fninf then fone else fexp2 (fsub s.prevMax s.max)))
  ∧ (∀ (s : RowState) (imm : Nat) (x g : List Nat) (j : Nat), j < x.length → j < g.length →
    (s.apply 7 imm x g).getD j 0 = (if s.max = fninf then 0 else fmul (fexp2 (fsub (fmul (x.getD j 0) imm) s.max)) (frecip s.sumexp))
    ∧ (s.apply 8 imm x g).getD j 0 = (if s.count = 0 then 0 else fmul (fmul (fsub (x.getD j 0) s.mean) (frsqrt (fadd (fdiv s.m2 (fofNat s.count)) imm))) (g.getD j 0))
    ∧ (s.apply 9 imm x g).getD j 0 = (if s.count = 0 then 0 else fmul (fmul (x.getD j 0) (frsqrt (fadd (fadd (fdiv s.m2 (fofNat s.count)) (fmul s.mean s.mean)) imm))) (g.getD j 0)))
  ∧ (∀ (r : VecRec) (v : View) (at_ : VecAt) (i : Nat) (s b : RowState) (x g : List Nat), i < r.rows →
    s = parseRowState (v.bytes (at_.x + 32 * i) 32) → b = parseRowState (v.bytes (at_.b + 32 * i) 32) → x = (v.row (at_.a + i * r.pitchA) (8 * vecBytes r.fmtA) r.cols).map (widen r.fmtA) →
    g = (match r.bMode with
      | 0 => (v.row (at_.b + i * r.pitchB) (8 * vecBytes r.fmtB) r.cols).map (widen r.fmtB)
      | 1 => List.replicate r.cols (((v.row (at_.b + i * vecBytes r.fmtB) (8 * vecBytes r.fmtB) 1).map (widen r.fmtB)).headD 0)
      | 2 => (v.row at_.b (8 * vecBytes r.fmtB) r.cols).map (widen r.fmtB)
      | _ => List.replicate r.cols r.imm2) →
    (match r.subop with
      | 0 => CoreWrite.spad (at_.x + 32 * i) (RowState.bytes {})
      | 1 => .spad (at_.x + 32 * i) (s.updExp (x.map (fun y => fmul y r.imm))).bytes
      | 2 => .spad (at_.x + 32 * i) (s.updMom x).bytes
      | 3 => .spad (at_.x + 32 * i) ((s.updExp (x.map (fun y => fmul y r.imm))).updMom x).bytes
      | 4 => .spad (at_.x + 32 * i) (s.merge b).bytes
      | 5 => .spad (at_.d + i * vecBytes r.fmtD) (natLe (vecBytes r.fmtD) (narrowTo r.fmtD r.sat s.lse))
      | 6 => .spad (at_.d + i * vecBytes r.fmtD) (natLe (vecBytes r.fmtD) (narrowTo r.fmtD r.sat s.factor))
      | n => .spad (at_.d + i * r.pitchD) (pack (8 * vecBytes r.fmtD) 0 ((s.apply n r.imm x g).map (narrowTo r.fmtD r.sat)))) ∈ (rowstatTile r v at_).writes)
  ∧ (∀ (r : VecRec) (v : View) (at_ : VecAt) (p : Nat) (w : WinWord) (tap : Nat → Nat → Nat × Nat → Option Nat) (out : Nat → Nat → Nat), p < r.rows → w = parseWin r.window → r.subop ≤ 2 → w.acc ≤ 2 →
    (∀ q c t, tap q c t =
      (if w.padT ≤ p * w.strideH + t.1 ∧ p * w.strideH + t.1 < r.inH + w.padT ∧ w.padL ≤ q * w.strideW + t.2 ∧ q * w.strideW + t.2 < r.inW + w.padL then
        some (widen r.fmtA ((v.row (at_.a + (p * w.strideH + t.1 - w.padT) * r.pitchA) (8 * vecBytes r.fmtA) (r.inW * r.channels)).getD ((q * w.strideW + t.2 - w.padL) * r.channels + c) 0))
      else none)) →
    (∀ q c, q < r.cols / r.channels → c < r.channels → out q c =
      (if r.subop = 0 then
        ((List.range w.kh).flatMap (fun u => (List.range w.kw).map (fun y => (u, y)))).foldl (fun acc t =>
            match tap q (c / 2 ^ r.group * 2 ^ r.group + r.pass) t with
            | some x => ffma x (((v.row at_.b (8 * vecBytes r.fmtB) (w.kh * w.kw * r.channels)).map (widen r.fmtB)).getD ((t.1 * w.kw + t.2) * r.channels + c) 0) acc
            | none => acc)
          (if w.acc = 0 then 0 else if w.acc = 1 then ((v.row (at_.d + p * r.pitchD) (8 * vecBytes r.fmtD) r.cols).map (widen r.fmtD)).getD (q * r.channels + c) 0
            else ((v.row at_.x (8 * vecBytes r.fmtX) r.channels).map (widen r.fmtX)).getD c 0)
      else if r.subop = 1 then
        (((List.range w.kh).flatMap (fun u => (List.range w.kw).map (fun y => (u, y)))).filterMap (tap q c)).tail.foldl fmax
          ((((List.range w.kh).flatMap (fun u => (List.range w.kw).map (fun y => (u, y)))).filterMap (tap q c)).headD 0)
      else fdiv ((((List.range w.kh).flatMap (fun u => (List.range w.kw).map (fun y => (u, y)))).filterMap (tap q c)).foldl fadd 0)
        (fofNat (if w.avgDiv then w.kh * w.kw else (((List.range w.kh).flatMap (fun u => (List.range w.kw).map (fun y => (u, y)))).filterMap (tap q c)).length)))) →
    CoreWrite.spad (at_.d + p * r.pitchD) (pack (8 * vecBytes r.fmtD) 0
      (((List.range (r.cols / r.channels)).flatMap (fun q => (List.range r.channels).map (fun c => narrowTo r.fmtD r.sat (out q c)))))) ∈ (windowTile r v at_).writes)
  ∧ (∀ (r : FuncRec) (f : Nat → Nat) (v : View) (src dst i : Nat), i < r.rows →
    CoreWrite.spad (dst + i * r.pitchD) (pack (8 * vecBytes r.dstFmt) 0 ((v.row (src + i * r.pitchS) (8 * vecBytes r.srcFmt) r.cols).map (fun c =>
      narrowTo r.dstFmt r.sat (f (ffma (widen r.srcFmt c) r.inScale r.inBias))))) ∈ (funcTile r f v src dst).writes)
  ∧ (builtin 0 fnan = fnan ∧ builtin 0 fninf = 0 ∧ builtin 0 finf = finf ∧ builtin 0 0x40400000 = 0x41000000 ∧ builtin 1 0 = fninf ∧ builtin 1 0xBF800000 = fnan ∧ builtin 1 0x41000000 = 0x40400000
    ∧ builtin 2 0 = finf ∧ builtin 2 0x80000000 = fninf ∧ builtin 2 0x40000000 = 0x3F000000 ∧ builtin 3 0 = finf ∧ builtin 3 0x40800000 = 0x3F000000 ∧ builtin 4 fninf = 0 ∧ builtin 5 0 = 0 ∧ builtin 6 0 = 0)
  ∧ (∀ (t : Caddy) (x : Nat), (f32 x).isNan = true → t.lookup x = fnan)
  ∧ (∀ (t : Caddy) (x : Nat), t.exponent = false → (f32 x).isNan = false →
    t.lookup x = (if (f32 x).lt (f32 t.xLo) then t.below else if t.rightEnd.le (f32 x) then t.above
      else to32 (t.cubic (floorDiv2 ((f32 x).sub (f32 t.xLo)) t.log2)
        ((((f32 x).sub (f32 t.xLo)).sub ((natVal (floorDiv2 ((f32 x).sub (f32 t.xLo)) t.log2)).mul (pow2 t.log2))).mul (pow2 (-t.log2))))))
  ∧ (∀ (t : Caddy) (x : Nat), t.exponent = true → (f32 x).isNan = false →
    t.lookup x = (if (f32 x).sign = false ∨ (f32 x).isZero = true then t.expValue (f32 x) else if t.sign = 0 then t.below
      else if t.sign = 1 then to32 (f32 (t.expValue (f32 x).abs)).neg else t.expValue (f32 x).abs))
  ∧ (∀ (u : UnitCtx) (v : View) (t : Nat), u.w.opcode = 0x20 → runTile u v t = funcTile (parseFunc u.param) (builtin (parseFunc u.param).func) v (u.spad 0 t).toNat (u.spad 1 t).toNat)
  ∧ (∀ (u : UnitCtx) (v : View) (t : Nat), u.w.opcode = 0x21 → runTile u v t = funcTile (parseFunc u.param) (parseCaddy u.bank).lookup v (u.spad 0 t).toNat (u.spad 1 t).toNat)
  ∧ (∀ (u : UnitCtx) (v : View) (t : Nat) (at_ : VecAt), at_ = { a := (u.spad 0 t).toNat, b := (u.spad 1 t).toNat, d := (u.spad 2 t).toNat, x := (u.spad 3 t).toNat } →
    (u.w.opcode = 0x12 → runTile u v t = formatTile (parseVec u.param) v at_) ∧ (u.w.opcode = 0x13 → runTile u v t = reduceTile (parseVec u.param) v at_)
    ∧ (u.w.opcode = 0x14 → runTile u v t = rowstatTile (parseVec u.param) v at_) ∧ (u.w.opcode = 0x15 → runTile u v t = windowTile (parseVec u.param) v at_)
    ∧ (u.w.opcode = 0x11 → ∃ sel, runTile u v t = elemwiseTile (parseVec u.param) ((vecUse? 0x11 (parseVec u.param).subop).getD {}) v at_ sel))
  ∧ (∀ (u : UnitCtx) (v : View) (t : Nat), u.w.opcode = 0x08 →
    runTile u v t = rotateStore (parseProduct u.param) v (u.spad 0 t).toNat (u.spad 1 t).toNat (u.spad 2 t).toNat (u.spad 3 t).toNat (u.coord 4 t).toNat)
  ∧ (∀ (u : UnitCtx) (v : View) (t : Nat), u.w.opcode = 0x01 →
    ∃ a : ProductAt, runTile u v t = product ((Pair.of? (parseProduct u.param).pair).getD .fp4) (parseProduct u.param) v a
      ∧ a.x = (u.spad 0 t).toNat ∧ a.w = (u.spad 1 t).toNat ∧ a.sx = (u.spad 2 t).toNat ∧ a.sw = (u.spad 3 t).toNat ∧ a.d = (u.entry 4 t).toNat ∧ (u.loop = none → a.zero = true ∧ a.empty = false))
  ∧ (∀ (u : UnitCtx) (v : View) (t : Nat), u.w.opcode = 0x10 →
    ∃ pad, runTile u v t = convertTile (parseConv u.param) ((target? (parseConv u.param).target).getD (.wide fp32)) v (u.entry 0 t).toNat (u.spad 1 t).toNat (u.spad 2 t).toNat (u.coord 3 t).toNat (u.coord 4 t).toNat pad)

/-- FETCH and STORE at their issue: the descriptor joins the core's mover with its grains placed, a full queue holds the word back, a failed check ends the block (R91, R93, R94, R120). Where the spec leaves room this follows the readings the model chose (log 13, log 40). -/
def Obligations.mover_operations_issue : Prop :=
  ∀ (store : Bool) (s s1 : State) (c : CoreIx) (r : RunBlock) (w p : Nat), Issues s c (if store then 0x29 else 0x28) s1 r w p →
    ((s1.core c).mover.full store = true →
      exec (if store then .store c else .fetch c) s = .next (s1.holdWord c w p (.queue w)))
    ∧ ∃ (o : UnitOp) (m : MoverCtl) (its : List MoveIter), o = (s1.core c).moverOp r w p ∧ m = parseMover (parseSlot w)
      ∧ its = moveIters (o.ctx r.image) m store ((m.baseReg.map (fun b => ((s1.core c).sreg b).toNat)).getD 0)
      ∧ (∀ e : Ending, (s1.core c).mover.full store = false → moverFault (s1.ctxOf r.fn) s1 c r o (o.ctx r.image) m p its = some e →
          exec (if store then .store c else .fetch c) s = .next (s1.endBlock c (r.timeAt (s1.core c).period p) e))
      ∧ (∀ d : MDesc, (s1.core c).mover.full store = false → moverFault (s1.ctxOf r.fn) s1 c r o (o.ctx r.image) m p its = none →
          s1.newDesc c r (o.ctx r.image) m store p its = (d, none) →
          exec (if store then .store c else .fetch c) s = .next (State.finishDescs
            ((((if d.phys then s1 else s1.touchPages c d.fn d.grains)).modRun c (fun r => RunBlock.recheck { r with ops := r.ops.filter (fun x => x.occupies p || decide (x.next < x.count) || !x.flight.isEmpty) ++ [o] } p)).modCore c
              (fun k => { k with mover := { k.mover with descs := k.mover.descs ++ [d], nextId := k.mover.nextId + 1 } })) c)
          ∧ d.isStore = store ∧ d.block = r.ordinal ∧ d.fn = r.fn ∧ d.id = (s1.core c).mover.nextId)

/-- Grains move: a fetched plain grain lands in the scratchpads its mask names, a stored one becomes visible in memory at its place, a walk gives its grains their frames, and a grain that fails ends or cuts its block (R86, R91, R121, R169, R172, R213). Where the spec leaves room this follows the readings the model chose (log 13, log 40, log 47). -/
def Obligations.grains_land_and_become_visible : Prop :=
  (∀ (s s1 s2 : State) (c : CoreIx) (d g : Nat) (o : GrainErrors) (desc : MDesc) (gr : MGrain) (data : List Byte), Clocked s → s.desc c d = some desc → desc.isStore = false →
    desc.grains[g]? = some gr → gr.kind = .plain → gr.st = .waiting → gr.walking = false → gr.slot.isSome = true →
    s1 = ((s.upTo (slotTime (gr.slot.getD 0))).settleDest c gr.mask).chargeAll →
    (s1.desc c desc.id).bind (fun e => (e.grains[g]?).map (fun x => x.st)) = some .waiting → s1.deliverGrain (s1.fetchLinks (dieOfCore c) gr.phys) gr.phys o = (s2, some data) →
    exec (.fetchGrainLanded c d g o) s = .next (((s2.writeDest c gr.mask gr.spad s2.now data).modDesc c desc.id (fun e => e.modGrain g (fun x => { x with st := .done }))).settleStores c))
  ∧ (∀ (s : State) (links : List Nat) (a : Nat), s.mem.ue.contains (a / 256) = false → (s.deliverGrain links a {}).2 = some (s.mem.grain (a / 256)) ∧ (s.deliverGrain links a {}).1.mem.cells = s.mem.cells)
  ∧ (∀ (s s1 : State) (c : CoreIx) (d g : Nat) (desc : MDesc) (gr gr1 : MGrain), Clocked s → s.desc c d = some desc → desc.grains[g]? = some gr → gr.moves = true →
    s1 = (s.upTo (slotTime (gr.slot.getD 0))).settle c (max s.now (slotTime (gr.slot.getD 0))) →
    (∃ x : MDesc, s1.desc c d = some x ∧ x.isStore = true ∧ x.grains[g]? = some gr1) → gr1.st = .read → s1.svc.transit = [] → s1.svc.ueHub = [] →
    exec (.storeGrainVisible c d g) s = .next (State.settleStores
        (({ s1.chargeAll with mem := s1.mem.write gr1.phys gr1.data }).modDesc c d (fun e => e.modGrain g (fun y => { y with st := .done, data := [] }))) c))
  ∧ (∀ (s s1 : State) (c : CoreIx) (d g phys : Nat) (desc : MDesc) (gr : MGrain), Clocked s → s1 = (s.settle c s.now).chargeAll → s1.desc c d = some desc →
    desc.grains[g]? = some gr → gr.walking = true → gr.st = .waiting → (∀ a, walk s1.mem (s1.pages.asker desc.fn true desc.isStore) gr.virt ≠ .bad a) →
    locateXl s1.mem desc.fn desc.coded gr.virt (walk s1.mem (s1.pages.asker desc.fn true desc.isStore) gr.virt) = .at_ phys →
    exec (.translationWalkDone c d g) s = .next ((s1.rememberPage c desc.fn gr.virt (walk s1.mem (s1.pages.asker desc.fn true desc.isStore) gr.virt)).modDesc c d
      (fun e => e.walked (gr.virt / 65536) phys s1.now (s1.core c).mover.afterExcess (s1.share.blockGroups c desc.fn desc.groups) (s1.core c).mover.held)))
  ∧ (∀ (s s1 : State) (c : CoreIx) (d g : Nat) (desc : MDesc) (gr : MGrain) (e : Ending), Clocked s → s1 = (s.settle c s.now).chargeAll → s1.desc c d = some desc →
    desc.grains[g]? = some gr → gr.walking = true → gr.st = .waiting → (∀ a, walk s1.mem (s1.pages.asker desc.fn true desc.isStore) gr.virt ≠ .bad a) →
    locateXl s1.mem desc.fn desc.coded gr.virt (walk s1.mem (s1.pages.asker desc.fn true desc.isStore) gr.virt) = .bad e →
    exec (.translationWalkDone c d g) s = .next (s1.grainEnding c desc g true e))
  ∧ (∀ (s s1 s2 : State) (c : CoreIx) (d g : Nat) (o : GrainErrors) (desc : MDesc) (gr : MGrain), Clocked s → (s.core c).run = none → s.desc c d = some desc → desc.isStore = false →
    desc.grains[g]? = some gr → gr.kind = .plain → gr.st = .waiting → gr.walking = false → gr.slot.isSome = true →
    s1 = ((s.upTo (slotTime (gr.slot.getD 0))).settleDest c gr.mask).chargeAll →
    (s1.desc c desc.id).bind (fun e => (e.grains[g]?).map (fun x => x.st)) = some .waiting → s1.deliverGrain (s1.fetchLinks (dieOfCore c) gr.phys) gr.phys o = (s2, none) →
    exec (.lateGrainFault c d g o) s = .next (s2.grainEnding c desc g false (memEnding stUncorrectable 0 gr.phys 1)))

/-- Device memory without a seal: the bytes written read back, every other byte reads as before, and no map, group or uncorrectable grain changes; zeroing makes the bytes named 0 and leaves every other alone (R157, R159, R165). A write under an uncorrectable grain: a whole grain written is correctable from then on, and a partial write of one is discarded (R159, R172). Sealed memory: what the owner writes it reads back, a stored grain stands in the stack as the ciphertext of its owner's key under its own tweak, and no access on behalf of another function reaches it (R183, R184). Where the spec leaves room this follows the readings the model chose (log 47). -/
def Obligations.memory_reads_what_was_written : Prop :=
  (((∀ (m : MemState) (a : Nat) (bs : List Byte), m.seals = [] → m.ue = [] → twf 0 m.cells = true →
    (m.write a bs).read a bs.length = bs
    ∧ (∀ x : Nat, x < a ∨ a + bs.length ≤ x → (m.write a bs).read x 1 = m.read x 1)
    ∧ (m.write a bs).ue = [] ∧ (m.write a bs).extents = m.extents ∧ (m.write a bs).groups = m.groups ∧ (m.write a bs).stackRecs = m.stackRecs)
  ∧ (∀ (m : MemState) (lo hi : Nat), twf 0 m.cells = true →
      (∀ x, lo ≤ x → x < hi → tget 0 (m.zero lo hi).cells x = 0)
      ∧ (∀ x, (x < lo ∨ hi ≤ x) → tget 0 (m.zero lo hi).cells x = tget 0 m.cells x)))
  ∧ (∀ (m : MemState) (g : Nat) (bs : List Byte), m.seals = [] → m.ue = [g] → twf 0 m.cells = true →
    (bs.length = 256 → (m.write (256 * g) bs).ue = [] ∧ (m.write (256 * g) bs).read (256 * g) 256 = bs)
    ∧ (∀ o : Nat, 0 < bs.length → o + bs.length ≤ 256 → bs.length < 256 → m.write (256 * g + o) bs = m)))
  ∧ ((∀ (key : BitVec 512) (g : Nat) (d : List Byte), d.length = 256 → xtsGrain false key g (xtsGrain true key g d) = d ∧ (xtsGrain true key g d).length = 256)
  ∧ (∀ (m : MemState) (a : Nat) (bs : List Byte), m.ue = [] → twf 0 m.cells = true →
    (m.write a bs).read a bs.length = bs
    ∧ (∀ x : Nat, x < a ∨ a + bs.length ≤ x → (m.write a bs).read x 1 = m.read x 1)
    ∧ (m.write a bs).seals = m.seals ∧ (m.write a bs).sealKeys = m.sealKeys)
  ∧ (∀ (m : MemState) (g i : Nat) (k : BitVec 512) (d : List Byte), twf 0 m.cells = true → d.length = 256 → m.sealOf (256 * g) = some i → tget none m.sealKeys (m.seal i).owner.toNat = some k →
    (m.putGrain g d).raw g = xtsGrain true k g d ∧ (m.putGrain g d).grain g = d)
  ∧ (∀ (m : MemState) (p : PageState) (f a i : Nat) (phys write : Bool) (x : Nat), reach m p f phys write a = .at_ x → m.sealOf x = some i → (m.seal i).owner.toNat = f)
  ∧ (∀ (m : MemState) (p : PageState) (f a i : Nat) (write : Bool), (∃ e, placeOf a = .fast e ∧ m.live e = true) ∨ (∃ e, placeOf a = .pannier e) → m.sealOf a = some i → (m.seal i).owner.toNat ≠ f →
    reach m p f true write a = .bad { status := stSealed, detail := 0, address := a, kind := 1 })
  ∧ (∀ (m : MemState) (p : PageState) (f a i x : Nat) (w u l : Bool) (write : Bool), walk m (p.asker f false write) a = .ok x w u l → m.sealOf x = some i → (m.seal i).owner.toNat ≠ f →
    reach m p f false write a = .bad { status := stSealed, detail := 0, address := a, kind := 0 })
  ∧ (∀ (m : MemState) (p : PageState) (f n : Nat) (phys : Bool) (a : Nat) (e : Args), reach m p f phys false a = .bad e → readPiece m p f phys (a, n) = .error e)
  ∧ (∀ (m : MemState) (f i x : Nat) (coded : Bool) (va kind : Nat), m.sealOf x = some i →
    (coded = true → sealCheck m f coded x va kind = .bad (blockFault 0x16 0 va kind))
    ∧ (coded = false → (m.seal i).owner.toNat = f → sealCheck m f coded x va kind = .at_ x)
    ∧ (coded = false → (m.seal i).owner.toNat ≠ f → sealCheck m f coded x va kind = .bad (blockFault 0x17 0 va kind)))
  ∧ (∀ (m : MemState) (f i : Nat) (va : Int) (x : Nat) (w u l : Bool), m.sealOf x = some i → (m.seal i).owner.toNat ≠ f →
    locateXl m f false va (.ok x w u l) = .bad (blockFault 0x17 0 (wrapInt 62 va) 0))
  ∧ (∀ (s : State) (f a i : Nat) (write : Bool) (x : Nat), s.bar2Place f a write = .ok x → s.mem.sealOf x = some i → (s.mem.seal i).owner.toNat = f))

/-- Contexts are set and destroyed: CONTEXT_SET puts the record in force, scrubbing what it no longer allots, and answers its SAVE_NEED; a conflict with another context is BAD_FIELD; CONTEXT_DESTROY makes the context ABSENT its end scrubs and releases every allotment, and with nothing allotted it ends at once (R240, R245, R247). Slot groups: a SHARE_SET waits for the boundaries of the cores it concerns, is applied once they have passed, and every frame boundary applies the changes that name no core; the reserved groups take no owner (R87, R88, R90). Where the spec leaves room this follows the readings the model chose (log 12, log 35, log 46). -/
def Obligations.contexts_are_set_and_destroyed : Prop :=
  ((∀ (s : State) (f : Fn) (m : Mb) (g : Nat) (old new : CtxRec), Admitted contextSetForm s f m → g = (s.ctl.req f m).u32 0 → old = s.ctxOf g →
    new = old.with (s.ctl.req f m) → firstOf (s.ctxBad g new) = none → tget none s.seqs.destroying g = none →
    (old.st = .absent ∨ old.st = .running) → s.ctxInUse g = false →
    exec (.contextSet f m) s = .next (State.answer ((s.scrubAllot old new).setCtx g { new with st := if old.st = .absent then .running else old.st }) f m (s.ctl.req f m)
      { reply := natLe 4 new.need }))
  ∧ (∀ (s : State) (f : Fn) (m : Mb) (g a : Nat), Admitted contextSetForm s f m → g = (s.ctl.req f m).u32 0 →
    firstOf (s.ctxBad g ((s.ctxOf g).with (s.ctl.req f m))) = some a →
    exec (.contextSet f m) s = .next (s.answer f m (s.ctl.req f m) { status := stBadField, detail := 0x10 + a }))
  ∧ (∀ (s u : State) (f : Fn) (m : Mb) (g : Nat), Admitted (fnForm 0x0102) s f m → g = (s.ctl.req f m).u32 0 → s.seqs.destroying = [] →
    ((s.ctxOf g).st = .absent ∨ (s.ctxOf g).st = .saved ∨ ((s.ctxOf g).st = .running ∧ s.ctxInUse g = false)) →
    u = (if (s.ctxOf g).st = .saved then s.dropSaved g else s) →
    ∃ v : State, v = State.answer { u with seqs := { u.seqs with
        ctx := tset {} u.seqs.ctx g { u.ctxOf g with st := .absent }
        destroying := tset none u.seqs.destroying g (some { cmd := (s.ctl.req f m).cmd, since := u.now }) } } f m (s.ctl.req f m) { status := stAccepted, names := g }
      ∧ ((s.ctxOf g).bare ≠ s.ctxOf g → exec (.contextDestroy f m) s = .next v)
      ∧ ((s.ctxOf g).bare = s.ctxOf g →
          exec (.contextDestroy f m) s = .next (State.complete { v.release g with seqs := { (v.release g).seqs with destroying := tset none (v.release g).seqs.destroying g none } } (s.ctl.req f m).cmd {})))
  ∧ (∀ (s : State) (f : Fn) (m : Mb) (g : Nat), Admitted (fnForm 0x0102) s f m → g = (s.ctl.req f m).u32 0 → (s.ctxOf g).st = .running → s.ctxInUse g = true →
    exec (.contextDestroy f m) s = .next (s.answer f m (s.ctl.req f m) { status := stBusy }))
  ∧ (∀ (s : State) (f : Fn) (j : CtxJob), Clocked s → tget none s.seqs.destroying f = some j →
    ∃ u : State, exec (.contextDestroyDone f) s = .next (u.complete j.cmd {}) ∧ u.ctl = s.ctl ∧ u.host = s.host ∧ u.mem = s.mem
      ∧ u.seqs.ctx = tset {} s.seqs.ctx f { s.ctxOf f with spadBanks := 0, accUnits := 0, cacheWays := 0, caddySlots := 0, clusterCtrUnits := 0, hubCtrUnits := 0, coreMask := 0, saveNeed := 0 }
      ∧ u.seqs.destroying = tset none s.seqs.destroying f none
      ∧ (∀ e ∈ u.cores.spad, (s.ctxOf f).hasBank (e.1 / 2 ^ 22) (e.1 % 2 ^ 22 / 2 ^ 18) = false)
      ∧ (∀ e ∈ u.cores.acc, (s.ctxOf f).hasUnit (e.1 / 2 ^ 18) (e.1 % 2 ^ 11 / 128) = false)
      ∧ (∀ e ∈ u.share.hubCtr, (s.ctxOf f).hasHubUnit (e.1 / 64) = false)))
  ∧ ((∀ (s : State) (f : Fn) (m : Mb), Admitted shareSetForm s f m → reservedGroup ((s.ctl.req f m).u32 4) = false →
    (∀ o, ownerOf ((s.ctl.req f m).u32 8) = some o → (s.ctxOf o.fn.toNat).hasCore (16 * (s.ctl.req f m).u32 0 + o.core.toNat) = true) →
    ∃ w : ShareChange, exec (.shareSet f m) s = .next (State.answer { s with share := { s.share with waiting := s.share.waiting ++ [w] } } f m (s.ctl.req f m) {})
      ∧ w.cluster = (s.ctl.req f m).u32 0 ∧ w.group = (s.ctl.req f m).u32 4 ∧ w.owner = ownerOf ((s.ctl.req f m).u32 8)
      ∧ w.waits = (ownerCores (s.share.owner w.cluster w.group)).filter (fun c => (s.core (16 * w.cluster + c)).run.isSome))
  ∧ (∀ (s : State) (f : Fn) (m : Mb), Admitted shareSetForm s f m → reservedGroup ((s.ctl.req f m).u32 4) = true →
    exec (.shareSet f m) s = .next (s.answer f m (s.ctl.req f m) {}))
  ∧ (∀ (s s1 : State) (cl : ClusterIx) (g : Fin 64) (w : ShareChange), Clocked s →
    s.share.waiting.find? (fun w => w.cluster == cl.val && w.group == g.val) = some w → s.share.namesCore w = true → (∀ c ∈ w.waits, (s.core (16 * cl.val + c)).run = none) →
    s1 = each (ownerCores (s.share.owner w.cluster w.group) ++ ownerCores w.owner).eraseDups (fun c s => s.settle (16 * w.cluster + c) s.now) s →
    ∃ t : State, exec (.shareChangeApplied cl g) s = .next t ∧ t.share = s1.share.apply s1.now w ∧ t.mem = s1.mem ∧ t.ctl = s1.ctl ∧ t.seqs = s1.seqs)
  ∧ (∀ (h : ShareState) (t : Nat) (w : ShareChange), (h.apply t w).owners = tset none h.owners (64 * w.cluster + w.group) w.owner
    ∧ (h.apply t w).hubCtr = h.hubCtr ∧ (h.apply t w).clusterCtr = h.clusterCtr ∧ (h.apply t w).frame = h.frame)
  ∧ (∀ (s : State) (cl : ClusterIx) (g : Fin 64) (w : ShareChange), Clocked s →
    s.share.waiting.find? (fun w => w.cluster == cl.val && w.group == g.val) = some w → s.share.namesCore w = false → exec (.shareChangeApplied cl g) s = .next s)
  ∧ (∀ s : State, Clocked s → s.share.waiting = [] →
    ∃ t : State, exec .cadenceFrame s = .next t ∧ t.share.frame = s.share.frame + 1 ∧ t.now = max s.now ((s.share.frame + 1) * frameTicks)
      ∧ t.share.owners = s.share.owners ∧ t.cores = s.cores ∧ t.mem = s.mem)
  ∧ (∀ (s : State) (cl : ClusterIx) (g : Fin 64) (w : ShareChange), Clocked s → s.share.waiting.find? (fun w => w.cluster == cl.val && w.group == g.val) = some w →
    (∃ c ∈ w.waits, (s.core (16 * cl.val + c)).run.isSome = true) → exec (.shareChangeApplied cl g) s = .next s)
  ∧ (∀ (s : State) (f : Fn) (m : Mb), Presented shareSetForm s f m → f.val = 0 → (s.ctl.req f m).u32 0 < 16 → (s.ctl.req f m).u32 4 < 64 →
    (s.ctl.req f m).u32 8 &&& 0xCF0F = (s.ctl.req f m).u32 8 → (s.ctl.req f m).u32 4 % 16 = 0 → (s.ctl.req f m).u32 8 ≠ 0x8000 →
    exec (.shareSet f m) s = .next (s.answer f m (s.ctl.req f m) { status := stBadField, detail := 0x14 }))
  ∧ (∀ (s : State) (f : Fn) (m : Mb), Presented shareSetForm s f m → f.val = 0 → (s.ctl.req f m).u32 0 < 16 → (s.ctl.req f m).u32 4 < 64 →
    (s.ctl.req f m).u32 8 &&& 0xCF0F = (s.ctl.req f m).u32 8 → (s.ctl.req f m).u32 4 % 16 ≠ 0 → field ((s.ctl.req f m).u32 8) 15 14 = 2 ∨ field ((s.ctl.req f m).u32 8) 15 14 = 3 →
    exec (.shareSet f m) s = .next (s.answer f m (s.ctl.req f m) { status := stBadField, detail := 0x18 }))
  ∧ (∀ (s : State) (f : Fn) (m : Mb) (o : SlotOwner), Admitted shareSetForm s f m → reservedGroup ((s.ctl.req f m).u32 4) = false → ownerOf ((s.ctl.req f m).u32 8) = some o →
    (s.ctxOf o.fn.toNat).hasCore (16 * (s.ctl.req f m).u32 0 + o.core.toNat) = false →
    exec (.shareSet f m) s = .next (s.answer f m (s.ctl.req f m) { status := stBadField, detail := 0x18 }))
  ∧ (∀ (h : ShareState) (cl g : Nat), ownerCores (h.owner cl g) = match h.owner cl g with
    | some o => [o.core.toNat]
    | none => []))

/-- Pre-emption, save and restore of a context: a RUNNING context starts to be pre-empted, any other is refused; a block still running when the grace time ends is ended; saving starts once no block of the function runs; what is saved and restored ends with its context SAVED or RUNNING (R244, R247). Where the spec leaves room this follows the readings the model chose (log 24, log 35). -/
def Obligations.contexts_are_preempted_saved_and_restored : Prop :=
  (∀ (s : State) (f : Fn) (m : Mb) (g : Nat), Admitted (fnForm 0x0104) s f m → g = (s.ctl.req f m).u32 0 → (s.ctxOf g).st = .running →
    exec (.preempt f m) s = .next (State.answer (State.unrouse { s with
      cores := s.cores.mapCores (fun _ k => k.putBack g)
      seqs := { s.seqs with ctx := tset {} s.seqs.ctx g { s.ctxOf g with st := .preempting }
                            preempting := tset none s.seqs.preempting g (some { cmd := (s.ctl.req f m).cmd, since := s.now }) } } s) f m (s.ctl.req f m) { status := stAccepted, names := g }))
  ∧ (∀ (k : CoreState) (l : LoadBlock) (g : Nat), k.load = some l → (l.fn ≠ g → k.putBack g = k)
    ∧ (l.fn = g → k.putBack g = { k with load := none, successors := tset none k.successors g (some l.chain) }))
  ∧ (∀ (s : State) (f : Fn) (m : Mb), Admitted (fnForm 0x0104) s f m → (s.ctxOf ((s.ctl.req f m).u32 0)).st ≠ .running →
    exec (.preempt f m) s = .next (s.answer f m (s.ctl.req f m) { status := stSequenceState }))
  ∧ (∀ (s : State) (f : Fn) (c : CoreIx) (j : CtxJob) (r r1 : RunBlock) (u : State), Clocked s → tget none s.seqs.preempting f = some j → (s.core c).run = some r →
    (s.ctxOf f).st = .preempting → r.fn = f → r.ending = none →
    u = s.endAt c (max s.now (j.since + (s.ctxOf f).grace.toNat * usTicks)) (blockFault faultPreempted) →
    (u.core c).run = some r1 → r1.ending = some (blockFault faultPreempted) →
    exec (.preemptGraceExpired f c) s = .next (u.setCtx f { u.ctxOf f with preempted := satAdd (u.ctxOf f).preempted 1 }))
  ∧ (∀ (s : State) (f : Fn), Clocked s → (s.ctxOf f).st = .preempting → (∀ e ∈ s.cores.cores, ∀ r, e.2.run = some r → r.fn ≠ f) →
    exec (.saveStart f) s = .next (s.setCtx f { s.ctxOf f with st := .saving }))
  ∧ (∀ (s : State) (f : Fn), Clocked s → (s.ctxOf f).st = .saving → s.cores.badPartition (s.ctxOf f) = none → tget none s.seqs.preempting f = none → f.val ≠ 0 →
    exec (.saveDone f) s = .next ((((s.writeSave f).setCtx f { (s.writeSave f).ctxOf f with st := .saved, damaged := false, saves := satAdd ((s.writeSave f).ctxOf f).saves 1 }).event f f 10 4 { arg0 := f }).event 0 f 10 4 { arg0 := f }))
  ∧ (∀ (s : State) (f : Fn) (m : Mb) (g : Nat), Admitted (fnForm 0x0105) s f m → g = (s.ctl.req f m).u32 0 → (s.ctxOf g).st = .saved → (s.ctxOf g).damaged = false →
    exec (.restore f m) s = .next (State.answer { s with seqs := { s.seqs with
      ctx := tset {} s.seqs.ctx g { s.ctxOf g with st := .restoring }
      restoring := tset none s.seqs.restoring g (some { cmd := (s.ctl.req f m).cmd, since := s.now }) } } f m (s.ctl.req f m) { status := stAccepted, names := g }))
  ∧ (∀ (s : State) (f : Fn) (m : Mb), Admitted (fnForm 0x0105) s f m → (s.ctxOf ((s.ctl.req f m).u32 0)).st = .saved → (s.ctxOf ((s.ctl.req f m).u32 0)).damaged = true →
    exec (.restore f m) s = .next (s.answer f m (s.ctl.req f m) { status := stUncorrectable }))
  ∧ (∀ (s u : State) (f : Fn) (r : CtxRec), Clocked s → r = s.ctxOf f → r.st = .restoring → tget none s.seqs.restoring f = none → f.val ≠ 0 →
    u = each r.coreList.zipIdx (fun x s => s.restoreCore f x.1 (s.mem.read (r.saveBase.toNat + r.saveStride * x.2) r.saveStride)) s →
    tget none u.seqs.restoring f = none →
    exec (.restoreDone f) s = .next ((((u.setCtx f { u.ctxOf f with st := .running, restores := satAdd (u.ctxOf f).restores 1 }).rouse).event f f 10 5 { arg0 := f }).event 0 f 10 5 { arg0 := f }))

/-- Blocks are posted to a core's sub-queue in order, up to 32, by a function that holds the core, and cancelled (R242, R340). Where the spec leaves room this follows the readings the model chose (log 12, log 35). -/
def Obligations.blocks_are_posted_and_cancelled : Prop :=
  (∀ (s : State) (f : Fn) (m : Mb) (es : List QEntry), Admitted blockPostForm s f m → es = ((s.ctl.req f m).entries 16 96 ((s.ctl.req f m).u32 4 % 8)).map parseEntry →
    (s.ctxOf f).hasCore ((s.ctl.req f m).u32 0) = true → (s.core ((s.ctl.req f m).u32 0)).queued f + es.length ≤ 32 →
    (∀ e ∈ es, e.gateEn = false ∧ e.doneList = false) →
    exec (.blockPost f m) s = .next (State.answer (s.modCore ((s.ctl.req f m).u32 0) (fun k => { k with queues := tset [] k.queues f (tget [] k.queues f ++ es) })).rouse f m (s.ctl.req f m) {}))
  ∧ (∀ (s : State) (f : Fn) (m : Mb), Admitted blockPostForm s f m → (s.ctxOf f).hasCore ((s.ctl.req f m).u32 0) = false →
    exec (.blockPost f m) s = .next (s.answer f m (s.ctl.req f m) { status := stNotPermitted }))
  ∧ (∀ (s : State) (f : Fn) (m : Mb), Admitted blockPostForm s f m → (s.ctxOf f).hasCore ((s.ctl.req f m).u32 0) = true →
    32 < (s.core ((s.ctl.req f m).u32 0)).queued f + ((s.ctl.req f m).entries 16 96 ((s.ctl.req f m).u32 4 % 8)).length →
    exec (.blockPost f m) s = .next (s.answer f m (s.ctl.req f m) { status := stBusy }))
  ∧ (∀ (s : State) (f : Fn) (m : Mb) (c : Nat), Admitted { code := 0x0302, len := .fixed 32 } s f m → bitsOf 256 (fieldAt (s.ctl.req f m).params 0 32) = [c] →
    (∀ e ∈ tget [] (s.core c).queues f, e.doneList = false) →
    exec (.blockCancel f m) s = .next (State.answer (State.unrouse (s.setCore c ((s.core c).cancel f)) s) f m (s.ctl.req f m) { reply := natLe 4 (tget [] (s.core c).queues f).length }))
  ∧ (∀ (k : CoreState) (f : Nat), twf [] k.queues = true → tget [] (k.cancel f).queues f = [] ∧ (k.cancel f).run = k.run ∧ (k.cancel f).load = k.load ∧ (k.cancel f).successors = k.successors
    ∧ (∀ g, g ≠ f → tget [] (k.cancel f).queues g = tget [] k.queues g))

/-- Caddy tables and code tables are loaded: an accepted load waits for its cores, its end puts the table in the shadow banks or in force and applies its ADD (R148, R151, R190, R193). Where the spec leaves room this follows the readings the model chose (log 35, log 40). -/
def Obligations.tables_are_loaded : Prop :=
  (∀ (s : State) (f : Fn) (m : Mb) (img : List Byte) (l : TableLoad), Admitted caddyForm s f m → s.cores.caddyLoads = [] → s.cores.codeLoads = [] →
    (s.ctxOf f).caddySlots.getLsbD ((s.ctl.req f m).u32 8) = true → (∀ c ∈ bitsOf 256 (fieldAt (s.ctl.req f m).params 16 32), (s.ctxOf f).hasCore c = true) →
    (parseLoadAdd ((s.ctl.req f m).u32 12)).permitted (s.ctxOf f) = true → readVirt s.mem s.pages f ((s.ctl.req f m).u64 0) 4224 = .ok img → caddyFault img = none →
    l = { fn := f, slot := (s.ctl.req f m).u32 8, image := img, cores := bitsOf 256 (fieldAt (s.ctl.req f m).params 16 32), addEn := (parseLoadAdd ((s.ctl.req f m).u32 12)).en
          addCtr := (parseLoadAdd ((s.ctl.req f m).u32 12)).ctr, addAmount := (parseLoadAdd ((s.ctl.req f m).u32 12)).amount, rejected := none, cmd := (s.ctl.req f m).cmd } →
    ∃ t : State, exec (.caddyLoad f m) s = .next t ∧ t.cores.caddyLoads = [l] ∧ t.cores.codeTables = s.cores.codeTables ∧ t.mem = s.mem
      ∧ t.ctl = (s.answer f m (s.ctl.req f m) { status := stAccepted, names := f }).ctl)
  ∧ (∀ (s : State) (f : Fn) (l : TableLoad), Clocked s → s.cores.caddyLoads = [l] → l.fn = f → l.cores = [] → l.addEn = false →
    exec (.caddyShadowPending f) s = .next ({ s with cores := { s.cores with caddyLoads := [] } }.complete l.cmd {}))
  ∧ (∀ (s : State) (f : Fn) (l : TableLoad) (c : Nat), Clocked s → s.cores.caddyLoads = [l] → l.fn = f → l.cores = [c] →
    ∃ t : State, exec (.caddyShadowPending f) s = .next t ∧ t.cores.caddyLoads = []
      ∧ (l.addEn = false → t.cores.cores = tset {} s.cores.cores c { s.core c with caddy := tmod {} (s.core c).caddy l.slot (fun b => { b with shadow := l.image, shadowState := .pending }) }))
  ∧ (∀ (s : State) (f : Fn) (m : Mb) (img : List Byte), Admitted codeForm s f m → s.cores.caddyLoads = [] → s.cores.codeLoads = [] →
    (parseLoadAdd ((s.ctl.req f m).u32 12)).permitted (s.ctxOf f) = true → readVirt s.mem s.pages f ((s.ctl.req f m).u64 0) 256 = .ok img → codeTableFault img = none →
    ∃ (t : State) (l : TableLoad), exec (.codeTableLoad f m) s = .next t ∧ t.cores.codeLoads = [l] ∧ l.image = img ∧ l.fn = f.val ∧ l.slot = (s.ctl.req f m).u32 8
      ∧ (∀ c ∈ l.cores, ∃ e ∈ s.cores.cores, e.1 = c ∧ e.2.run.isSome = true) ∧ t.cores.codeTables = s.cores.codeTables
      ∧ t.ctl = (s.answer f m (s.ctl.req f m) { status := stAccepted, names := f }).ctl)
  ∧ (∀ (s : State) (f : Fn) (l : TableLoad), Clocked s → s.cores.codeLoads = [l] → l.fn = f → l.cores = [] → l.addEn = false →
    exec (.codeTableInForce f) s = .next ({ s with cores := { s.cores with codeLoads := [], codeTables := tset [] s.cores.codeTables (16 * f.val + l.slot) l.image } }.complete l.cmd {}))

/-- The maps: a MAP_SET that keeps the domains whole makes the extents it touches pending and is carried out once no grain is in flight to them; a retirement gives up the last extent of its domain or its pannier frames; PANNIER_FREE empties the frames named (R162, R165, R174 to R176). Seals, translations and the scrub: a SEAL_CREATE takes the lowest free entry and draws the function's key pair once, from OWNER_SEED and its number, a removal zeroes what was sealed and frees the entry, XLATE_INVALIDATE drops the pages named, and a scrubbed grain is counted (R171, R182, R213, R407). Where the spec leaves room this follows the readings the model chose (log 12, log 13, log 21, log 46). -/
def Obligations.memory_maps_change : Prop :=
  ((∀ (s : State) (f : Fn) (m : Mb), Admitted mapForm s f m → (∀ x < 64, (s.mem.group x).retired = false) →
    allDomains.all (domainOk (mapGroup (s.ctl.req f m) s.mem.group) (mapExtent (s.ctl.req f m))) = true → s.mem.mapChange = none → s.mem.retires = [] → s.pages.ftValid = false →
    ∃ (t : State) (ch : MapChange), exec (.mapSet f m) s = .next (t.answer f m (s.ctl.req f m) { status := stAccepted })
      ∧ t = { s with mem := { s.mem.setPending (touchedExtents s.mem (mapGroup (s.ctl.req f m) s.mem.group) (mapExtent (s.ctl.req f m))) true with mapChange := some ch } }
      ∧ ch.groups.length = 64 ∧ ch.extents.length = 64 ∧ (∀ x < 64, ch.groups.getD x {} = mapGroup (s.ctl.req f m) s.mem.group x) ∧ (∀ x < 64, ch.extents.getD x {} = mapExtent (s.ctl.req f m) x))
  ∧ (∀ (s : State) (f : Fn) (m : Mb), Admitted mapForm s f m → (∀ x < 64, (s.mem.group x).retired = false) →
    allDomains.all (domainOk (mapGroup (s.ctl.req f m) s.mem.group) (mapExtent (s.ctl.req f m))) = false →
    exec (.mapSet f m) s = .next (s.answer f m (s.ctl.req f m) { status := stBadField, detail := 0x10 }))
  ∧ (∀ (s : State) (ch : MapChange), Clocked s → s.mem.mapChange = some ch → s.inFlightPending = false → s.pages.ftValid = false →
    ∃ mem : MemState, exec .mapChangeComplete s = .next ({ s with mem := mem }.complete ch.cmd {}) ∧ mem.mapChange = none ∧ mem.seals = s.mem.seals ∧ mem.movers = s.mem.movers
      ∧ (∀ x < 64, mem.extent x = ch.extents.getD x {} ∧ mem.group x = ch.groups.getD x {}))
  ∧ (∀ s : State, Clocked s → s.inFlightPending = true → exec .mapChangeComplete s = .next s)
  ∧ (∀ (s : State) (f : Fn) (m : Mb) (last : Nat), Admitted retireForm s f m → (s.ctl.req f m).u32 0 = 0 → (s.mem.group ((s.ctl.req f m).u32 4)).valid = true →
    (s.mem.group ((s.ctl.req f m).u32 4)).retired = false → s.mem.mapChange = none → s.mem.retires = [] → s.pages.ftValid = false →
    (domExtents s.mem.extent (groupDomain ((s.ctl.req f m).u32 4) (s.mem.group ((s.ctl.req f m).u32 4)))).getLast? = some last →
    exec (.retire f m) s = .next (State.answer { s with mem := { s.mem.setPending (domExtents s.mem.extent (groupDomain ((s.ctl.req f m).u32 4) (s.mem.group ((s.ctl.req f m).u32 4)))) true with
      retires := [{ tier := .fast, unit := (s.ctl.req f m).u32 4, listAddr := (s.ctl.req f m).u64 16 % 2 ^ 48, cmd := (s.ctl.req f m).cmd }] } } f m (s.ctl.req f m) { status := stAccepted }))
  ∧ (∀ (s : State) (r : RetireJob) (rest : List RetireJob), Clocked s → s.mem.retires = r :: rest → s.inFlightPending = false → s.mem.retireBad r = [] →
    ∃ (t : State) (a : Args), exec .retireComplete s = .next (t.complete r.cmd a) ∧ a.arg0 = 0 ∧ t.mem.retires = rest ∧ t.cores = s.cores ∧ t.rst.gathered = true
      ∧ (r.tier = .fast → r.unit ∈ t.rst.config.fastRetired) ∧ (r.tier = .pannier → r.unit ∈ t.rst.config.pannierRetired ∧ r.unit ∈ t.mem.pannierRetired))
  ∧ (∀ (s : State) (f : Fn) (m : Mb), Admitted pannierFreeForm s f m → f.val = 0 → s.pages.ftValid = false → s.mem.fill.any (fun e => e.2.isFilling) = false →
    exec (.pannierFree f m) s = .next (State.answer { s with mem := { s.mem with fill := tclear s.mem.fill ((s.ctl.req f m).u32 0) ((s.ctl.req f m).u32 0 + (s.ctl.req f m).u32 4) } } f m (s.ctl.req f m) {})))
  ∧ ((∀ (s : State) (f : Fn) (m : Mb) (i : Nat), Admitted sealForm s f m → s.sec.lifecycle ≠ 3 → s.mem.seals = [] → i = 0 →
    (∀ k < (s.ctl.req f m).u32 4 + 1 - (s.ctl.req f m).u32 0, s.sealable f ((s.ctl.req f m).u32 0 + k) = true) →
    ∃ u : State, exec (.sealCreate f m) s = .next (u.answer f m (s.ctl.req f m) { reply := natLe 4 i })
      ∧ u.mem.seals = tset {} s.mem.seals i { base := BitVec.ofNat 25 ((s.ctl.req f m).u32 0), limit := BitVec.ofNat 25 ((s.ctl.req f m).u32 4), owner := BitVec.ofNat 4 f.val, valid := true }
      ∧ u.mem.cells = s.mem.cells ∧ (∀ k, tget none s.mem.sealKeys f = some k → u.mem.sealKeys = s.mem.sealKeys)
      ∧ (tget none s.mem.sealKeys f = none → u.mem.sealKeys = tset none s.mem.sealKeys f (some (keyPair (natLe 32 s.sec.ownerSeed.toNat) f 64 s.freeCtr).1)))
  ∧ (∀ (s : State) (f : Fn) (m : Mb), Admitted sealForm s f m → s.sec.lifecycle = 3 →
    exec (.sealCreate f m) s = .next (s.answer f m (s.ctl.req f m) { status := stLifecycle }))
  ∧ (∀ (s : State) (f : Fn) (m : Mb), Admitted unsealForm s f m → (s.mem.seal ((s.ctl.req f m).u32 0)).valid = true →
    (f.val = 0 ∨ (s.mem.seal ((s.ctl.req f m).u32 0)).owner.toNat = f.val) → s.mem.removals.any (fun r => r.entry == (s.ctl.req f m).u32 0) = false →
    exec (.sealRemove f m) s = .next (State.answer { s with mem := { s.mem with removals := s.mem.removals ++ [{ entry := (s.ctl.req f m).u32 0, cmd := some (s.ctl.req f m).cmd }] } } f m
      (s.ctl.req f m) { status := stAccepted }))
  ∧ (∀ (s : State) (e : Fin 64) (r : SealRemoval) (c : CmdRef), Clocked s → s.mem.removals = [r] → r.entry = e.val → r.cmd = some c → twf 0 s.mem.cells = true →
    ∃ mem : MemState, exec (.sealRemoveComplete e) s = .next ({ s with mem := mem }.complete c {}) ∧ mem.seals = tset {} s.mem.seals e.val {} ∧ mem.removals = []
      ∧ (∀ a, 65536 * (s.mem.seal e.val).base.toNat ≤ a → a < 65536 * ((s.mem.seal e.val).limit.toNat + 1) → tget 0 mem.cells a = 0)
      ∧ (∀ a, (a < 65536 * (s.mem.seal e.val).base.toNat ∨ 65536 * ((s.mem.seal e.val).limit.toNat + 1) ≤ a) → tget 0 mem.cells a = tget 0 s.mem.cells a))
  ∧ (∀ (s : State) (f : Fn) (m : Mb), Admitted xlateForm s f m →
    ∃ p : PageState, exec (.xlateInvalidate f m) s = .next (State.answer { s with pages := p } f m (s.ctl.req f m) {})
      ∧ p = s.pages.invalidate f (fun k => (s.ctl.req f m).u32 8 == 0 || (decide ((s.ctl.req f m).u64 0 / 65536 ≤ k) && decide (k < (s.ctl.req f m).u64 0 / 65536 + (s.ctl.req f m).u32 8))))
  ∧ (∀ (s : State) (a : Nat) (es : List SymbolError), Clocked s → placeOf a ≠ .control → placeOf a ≠ .unmapped → (s.mem.readGrain (a / 256) es).outcome = .uncorrectable →
    ∃ t : State, exec (.scrubGrain a es) s = .next t ∧ t.mem.cells = s.mem.cells ∧ t.mem.ue = insertNat (a / 256) s.mem.ue ∧ t.ctl = s.ctl
      ∧ t.mem.stackRecs = tset {} s.mem.stackRecs (s.mem.stackOf (a / 256 * 256)) { s.mem.stackRec (s.mem.stackOf (a / 256 * 256)) with
          uncorrectableGrains := satAdd (s.mem.stackRec (s.mem.stackOf (a / 256 * 256))).uncorrectableGrains 1, lastUe := BitVec.ofNat 41 (a / 256 * 256) })
  ∧ (∀ (s : State) (a : Nat), Clocked s → placeOf a ≠ .control → placeOf a ≠ .unmapped → s.mem.ue.contains (a / 256) = false →
    ∃ t : State, exec (.scrubGrain a []) s = .next t ∧ t.mem.cells = s.mem.cells ∧ t.mem.ue = s.mem.ue ∧ t.mem.seals = s.mem.seals ∧ t.ctl = s.ctl))

/-- Descriptors end: a MOVE whose grains all pass writes each of them, leaves the queue, adds its counter and reports if asked; one that fails halts the queue; a fence ends once it is the oldest; a host request that fails ends its copy (R103, R107, R172, R176, R178, R355). What the end of a descriptor does to its queue: a completed one leaves it; a failed one leaves it too and halts it, and only an uncorrectable grain makes the halt one that PF0 alone may lift (R172, R178). The relaxed channels' queues: descriptors are posted in order and up to 256 of them, a halted queue is resumed with what it holds or empty, a descriptor starts when its counter allows, some of its source read at once, and one that cannot start halts its queue and is reported (R177, R178, R354). Where the spec leaves room this follows the readings the model chose (log 14, log 22). -/
def Obligations.channel_descriptors_end : Prop :=
  (((∀ (s : State) (f : Fn) (q : QDesc), Clocked s → (s.queue .pannier f).running .pannier = some q → s.inReach .pannier f q = true → s.svc.transit = [] → s.svc.ueHub = [] →
    firstError ((List.range (parsePannier q.bytes).count).map (moveGrain s f (parsePannier q.bytes) q.early)) = none →
    ∃ w : List Transfer, exec (.moverDescriptorDone .pannier f) s = .next (State.descDone { s with freeCtr := s.freeCtr + 1, mem := w.foldl (fun m t => m.moverStore f s.rst.pannierFilled t) s.mem } .pannier f q w.length)
      ∧ w.length = (parsePannier q.bytes).count
      ∧ (∀ i < w.length, moveGrain s f (parsePannier q.bytes) q.early i = .ok (w.getD i { data := [], dst := 0 })))
  ∧ (∀ (s : State) (f : Fn) (q : QDesc) (e : Args), Clocked s → (s.queue .pannier f).running .pannier = some q → s.inReach .pannier f q = true → s.svc.transit = [] → s.svc.ueHub = [] →
    firstError ((List.range (parsePannier q.bytes).count).map (moveGrain s f (parsePannier q.bytes) q.early)) = some e →
    ∃ (u : State) (n : Nat), exec (.moverDescriptorDone .pannier f) s = .next (u.descFails .pannier f q n e) ∧ n < (parsePannier q.bytes).count ∧ u.cores = s.cores ∧ u.share = s.share)
  ∧ (∀ (s : State) (f : Fn) (q : QDesc), Clocked s → s.host.link = .l0 → (s.queue .hostCopy f).running .hostCopy = some q → (parseHostCopy q.bytes).flag = true → s.inReach .hostCopy f q = true → s.svc.transit = [] → s.svc.ueHub = [] →
    firstError ((grainPieces (parseHostCopy q.bytes).dst (parseHostCopy q.bytes).count).map (toHostPiece s f (parseHostCopy q.bytes) q.early)) = none →
    ∃ w : List Transfer, exec (.moverDescriptorDone .hostCopy f) s = .next (State.descDone (State.toHost f w { s with freeCtr := s.freeCtr + 1 }) .hostCopy f q w.length)
      ∧ w.length = (grainPieces (parseHostCopy q.bytes).dst (parseHostCopy q.bytes).count).length
      ∧ (∀ i < w.length, toHostPiece s f (parseHostCopy q.bytes) q.early ((grainPieces (parseHostCopy q.bytes).dst (parseHostCopy q.bytes).count).getD i (0, 0)) = .ok (w.getD i { data := [], dst := 0 })))
  ∧ (∀ (s : State) (f : Fn) (q : QDesc) (l : List QDesc), Clocked s → (s.queue .pannier f).descs = q :: l → (s.queue .pannier f).halted = false → q.started = true →
    (parsePannier q.bytes).fence = true → ((parsePannier q.bytes).kind ≠ 2 ∨ s.host.link = .l0) →
    exec (.fenceComplete .pannier f) s = .next (State.descDone { s with mem := s.mem.filled f } .pannier f q 0))
  ∧ (∀ (s : State) (f : Fn) (k at_ : Nat) (q : QDesc) (a : W64) (err : HostError), Clocked s → ((s.queue .hostCopy f).descs.filter (fun q => q.started))[k]? = some q →
    (s.queue .hostCopy f).halted = false → (parseHostCopy q.bytes).kind = 2 → (s.queue .hostCopy f).lastHost = some a →
    exec (.hostCompletionError f k at_ err) s = .next (State.descFails s .hostCopy f q 0
      { status := stTranslation, detail := hostErrorCode err, address := a.toNat % 2 ^ 62 }))
  ∧ (hostErrorCode .unsupportedRequest = 0x0110 ∧ hostErrorCode .completerAbort = 0x0111 ∧ hostErrorCode .poisoned = 0x0112 ∧ hostErrorCode .timeout = 0x0113))
  ∧ (∀ (s : State) (f : Fn) (q : QDesc) (n : Nat) (e : Args), twf {} s.mem.movers = true →
    ((s.descDone .pannier f q n).queue .pannier f).descs = (s.queue .pannier f).descs.erase q
    ∧ ((s.descDone .pannier f q n).queue .pannier f).halted = (s.queue .pannier f).halted
    ∧ ((s.descFails .pannier f q n e).queue .pannier f).descs = (s.queue .pannier f).descs.erase q
    ∧ ((s.descFails .pannier f q n e).queue .pannier f).halted = true
    ∧ ((s.descFails .pannier f q n e).queue .pannier f).haltedMem = decide (e.status = stUncorrectable)
    ∧ (∀ g : Fn, g ≠ f → (s.descFails .pannier f q n e).queue .pannier g = s.queue .pannier g)))
  ∧ ((∀ (s : State) (f : Fn) (m : Mb), Admitted (postForm 0x0204 pannierMasks) s f m → (s.queue .pannier f).descs.length + (s.ctl.req f m).u32 0 % 16 ≤ 256 →
    ∃ x : ChanQueue, exec (.moverPost f m) s = .next (State.answer { s with mem := { s.mem with movers := tset {} s.mem.movers f x } } f m (s.ctl.req f m) {})
      ∧ x.descs.map (fun d => d.bytes) = (s.queue .pannier f).descs.map (fun d => d.bytes) ++ (s.ctl.req f m).entries 16 32 ((s.ctl.req f m).u32 0 % 16)
      ∧ x.halted = (s.queue .pannier f).halted)
  ∧ (∀ (s : State) (f : Fn) (m : Mb), Admitted (postForm 0x0204 pannierMasks) s f m → 256 < (s.queue .pannier f).descs.length + (s.ctl.req f m).u32 0 % 16 →
    exec (.moverPost f m) s = .next (s.answer f m (s.ctl.req f m) { status := stBusy }))
  ∧ (∀ (s : State) (f : Fn) (m : Mb), Admitted (postForm 0x0205 hostCopyMasks) s f m → (s.queue .hostCopy f).descs.length + (s.ctl.req f m).u32 0 % 16 ≤ 256 →
    ∃ x : ChanQueue, exec (.hostCopyPost f m) s = .next (State.answer { s with mem := { s.mem with hostq := tset {} s.mem.hostq f x } } f m (s.ctl.req f m) {})
      ∧ x.descs.map (fun d => d.bytes) = (s.queue .hostCopy f).descs.map (fun d => d.bytes) ++ (s.ctl.req f m).entries 16 32 ((s.ctl.req f m).u32 0 % 16)
      ∧ x.halted = (s.queue .hostCopy f).halted)
  ∧ (∀ (s : State) (f : Fn) (m : Mb) (ch : ChannelIx) (g : Nat), Admitted resumeForm s f m → ch = chanOf ((s.ctl.req f m).u32 0) → g = (s.ctl.req f m).u32 4 →
    (f.val = 0 ∨ g = f.val) → (s.queue ch g).halted = true → (f.val = 0 ∨ (s.queue ch g).haltedMem = false) →
    exec (.queueResume f m) s = .next (State.answer (s.setQueue ch g { s.queue ch g with
      halted := false, haltedMem := false, descs := if bit ((s.ctl.req f m).u32 8) 0 then [] else (s.queue ch g).descs }) f m (s.ctl.req f m) {}))
  ∧ (∀ (s : State) (f : Fn) (m : Mb), Presented resumeForm s f m → f.val ≠ 0 → (s.ctl.req f m).u32 4 % 16 ≠ f.val →
    exec (.queueResume f m) s = .next (s.answer f m (s.ctl.req f m) { status := stNotPermitted }))
  ∧ (∀ (s : State) (ch : ChannelIx) (f : Fn) (q : QDesc), Clocked s → ch ≠ .collective → (s.queue ch f).startable ch = some q → (s.ctxOf f).startsWork = true →
    startRefusal ch f (s.ctxOf f) (parseDesc ch q.bytes) = none →
    ((parseDesc ch q.bytes).startEn = false ∨ s.share.ctrBad 0 (4096 + (parseDesc ch q.bytes).startCtr) = false ∧ (s.share.ctr 0 (4096 + (parseDesc ch q.bytes).startCtr) - BitVec.ofNat 32 (parseDesc ch q.bytes).startThr).toNat < 2 ^ 31) →
    ∃ e : List (Nat × List Byte), exec (.moverDescriptorStart ch f) s = .next (State.setQueue { s with freeCtr := s.freeCtr + 1 } ch f { s.queue ch f with
        descs := mapIf (fun y => y == q) (fun y => { y with started := true, startNs := s.ns, early := e }) (s.queue ch f).descs })
      ∧ (∀ x ∈ e, ∃ n : Nat, readPiece s.mem s.pages f (ch == .pannier && (parseDesc ch q.bytes).flag) (x.1, n) = .ok x.2))
  ∧ (∀ (s : State) (ch : ChannelIx) (f : Fn) (q : QDesc) (st : Nat), Clocked s → ch ≠ .collective → (s.queue ch f).startable ch = some q → (s.ctxOf f).startsWork = true →
    startRefusal ch f (s.ctxOf f) (parseDesc ch q.bytes) = some st →
    exec (.moverDescriptorStart ch f) s = .next (s.descFails ch f q 0 { status := st })))

/-- Gears: a request sets the driver's gear of the cores it masks, the envelope is set, a change of gear ends after its clock stop, a wake ends with the core clocked, and admission lets a clock wake whose steps fit what the last 100 ns leave of 256 (R366 to R370). A core's gear never exceeds any of the caps of R366: the driver's, the trim's, the die's power and memory caps and the cluster's junction cap, the plan of its block, and what the voltage supports while a regulator does not answer (R366, R426). Where the spec leaves room this follows the readings the model chose (log 42, log 46, log 51). -/
def Obligations.gears_and_admission : Prop :=
  ((∀ (s : State) (f : Fn) (m : Mb) (c : Nat), Admitted gearForm s f m → bitsOf 256 (leNat ((s.ctl.req f m).params.take 32)) = [c] →
    exec (.gearRequest f m) s = .next (State.answer ((s.modCore c (fun k => { k with clock := { k.clock with driverGear := BitVec.ofNat 4 ((s.ctl.req f m).u32 0x20) } })).retarget c) f m (s.ctl.req f m) {}))
  ∧ (∀ (s : State) (f : Fn) (m : Mb), Admitted envelopeForm s f m →
    450 ≤ (s.ctl.req f m).u32 0 ∧ (s.ctl.req f m).u32 0 ≤ 700
    ∧ exec (.envelopeSet f m) s = .next (State.answer { s with clocks := { s.clocks with envelopeW := BitVec.ofNat 16 ((s.ctl.req f m).u32 0) } } f m (s.ctl.req f m) {}))
  ∧ (∀ (s s1 : State) (c : ClockIx) (g t : Nat), Clocked s → (s.clockOf c).change = some (g, t) → s1 = (s.upTo t).modClock c (fun k => { k with change := none }) →
    exec (.gearChangeDone c) s = .next ((State.retarget
      (if c.val < 256 then s1.modCore c (fun k => { k with boundaryAt := if k.run.isNone then max k.boundaryAt t else k.boundaryAt }) else s1) c).lowerVolts (clockDie c)))
  ∧ (∀ (s s1 : State) (c : ClockIx) (g t : Nat), Clocked s → (s.clockOf c).waking = some (g, t) →
    s1 = (s.upTo t).modClock c (fun k => { k with gear := BitVec.ofNat 4 g, waking := none, idleSince := max s.now t }) →
    exec (.coreWakeDone c) s = .next (State.retarget (if c.val < 256 then s1.modCore c (fun k => { k with boundaryAt := max k.boundaryAt t }) else s1) c))
  ∧ (∀ (s : State) (d : DieIx), Clocked s → (∀ i < 4, s.waiters (4 * d.val + i) = []) → exec (.admissionWindow d) s = .next s)
  ∧ (∀ (s s1 : State) (d : DieIx) (i c g n : Nat), Clocked s → i = (s.clocks.die d).lastCluster → i < 4 → s.waiters (4 * d.val + i) = [(c, g, n)] →
    (∀ j < 4, j ≠ i → s.waiters (4 * d.val + j) = []) → (s.clockOf c).gear = 0 →
    (((s.clocks.die d).admits.filter (fun a => decide (s.now < a.1 + 100 * nsTicks))).map (fun a => a.2)).sum + n ≤ 256 →
    s1 = s.modClock c (fun k => { k with waiting := false, waking := some (g, s.now + 200 * nsTicks) }) →
    exec (.admissionWindow d) s = .next { s1 with clocks := s1.clocks.modDie d (fun k => { k with
      admits := k.admits.filter (fun a => decide (s.now < a.1 + 100 * nsTicks)) ++ [(s.now, n)], lastCluster := i }) }))
  ∧ (∀ (s : State) (c : Nat),
    s.targetGear c ≤ (s.clockOf c).driverGear.toNat ∧ s.targetGear c ≤ s.rst.trimCap (clockCluster c) (s.svc.clockSlot c)
    ∧ s.targetGear c ≤ (s.clocks.die (clockDie c)).powerCap.toNat ∧ s.targetGear c ≤ s.clocks.memCap (clockDie c)
    ∧ s.targetGear c ≤ s.clocks.junctionCap (clockCluster c)
    ∧ (∀ g : Nat, (s.clocks.die (clockDie c)).voltCap = some g → s.targetGear c ≤ g)
    ∧ (∀ r : RunBlock, c < 256 → (s.core c).run = some r → s.targetGear c ≤ (parseHeader r.image).planGear)
    ∧ ((s.core c).plan = none → (s.clocks.die (clockDie c)).voltCap = none →
        s.targetGear c = min (min (s.clockOf c).driverGear.toNat (s.rst.trimCap (clockCluster c) (s.svc.clockSlot c)))
          (min (min (s.clocks.die (clockDie c)).powerCap.toNat (s.clocks.memCap (clockDie c))) (s.clocks.junctionCap (clockCluster c)))))

/-- Temperatures and their caps: a sample holds each sensor's reading, following a rise at once and a fall of 2 degrees or more; the junction cap is gear 15 below 100 degrees, 114 less the held temperature from 100 to 112, gear 1 from 113; the memory cap falls likewise from 85 to 97 with the hotter of the die's two stacks; no cap is below gear 1 (R371, R372). -/
def Obligations.thermal_caps_follow_their_tables : Prop :=
  (∀ t : Nat, 1 ≤ memCapOf t ∧ memCapOf t ≤ 15 ∧ (t < 85 → memCapOf t = 15) ∧ (85 ≤ t → t ≤ 97 → memCapOf t = 99 - t) ∧ (98 ≤ t → memCapOf t = 1))
  ∧ (∀ t : Nat, 1 ≤ junctionCapOf t ∧ junctionCapOf t ≤ 15 ∧ (t < 100 → junctionCapOf t = 15) ∧ (100 ≤ t → t ≤ 112 → junctionCapOf t = 114 - t) ∧ (113 ≤ t → junctionCapOf t = 1))
  ∧ (∀ a b : Nat, a ≤ b → memCapOf b ≤ memCapOf a ∧ junctionCapOf b ≤ junctionCapOf a)
  ∧ (∀ old now : Nat, (old < now → holdTemp old now = now) ∧ (now + 2 ≤ old → holdTemp old now = now) ∧ (now ≤ old → old < now + 2 → holdTemp old now = old))
  ∧ (∀ (k : ClockState) (d cl : Nat), k.memCap d = memCapOf (max (tget 0 k.stackHeld (2 * d)) (tget 0 k.stackHeld (2 * d + 1))) ∧ k.junctionCap cl = junctionCapOf (tget 0 k.junctionHeld cl))
  ∧ (∀ (k : ClockState) (p : Nat) (a b st j : List Nat), twf 0 k.stackHeld = true → twf 0 k.junctionHeld = true →
    (∀ i < 20, tget 0 (k.sampleTemps p a b st j).stackHeld i = holdTemp (tget 0 k.stackHeld i) (st.getD i 0))
    ∧ (∀ i < 16, tget 0 (k.sampleTemps p a b st j).junctionHeld i = holdTemp (tget 0 k.junctionHeld i) (j.getD i 0)))

/-- The kettle and its neighbours: a sample moves time to the next microsecond and holds the temperatures it read, the regulator's answers are taken, the brake is remembered, and a refresh of the snapshot advances its sequence count by two (R351, R370 to R374, R376, R426, R430). THERMTRIP: a stack at 105 degrees or a junction at 120 asserts it and FAULT_N and puts the stacks in self-refresh; from then on the commands that need a stopped clock have no effect (R373, R409). Where the spec leaves room this follows the readings the model chose (log 17, log 42, log 51, log 53). -/
def Obligations.kettle_and_snapshot : Prop :=
  ((∀ (s : State) (p : Nat) (a b st j : List Nat), Clocked s → twf 0 s.clocks.stackNow = true →
    ∃ u : State, exec (.kettleSample p a b st j) s = .next (each (List.range 4) (fun d s => s.lowerVolts d) u.retargetAll) ∧ u.now = max s.now ((s.now / usTicks + 1) * usTicks) ∧ u.clocks.packageMw = p
      ∧ (∀ i < 20, tget 0 u.clocks.stackNow i = st.getD i 0) ∧ u.clocks.means.samples = s.clocks.means.samples + 1 ∧ u.clocks.thermtrip = false
      ∧ u.mem.cells = s.mem.cells ∧ u.cores = s.cores ∧ u.sec = s.sec)
  ∧ (∀ (s : State) (d : Fin 4), Clocked s → (∀ i < d.val, (s.clocks.die i).powerCap = 15) → (s.clocks.die d).powerCap.toNat < 15 →
    ∃ t : State, exec .thermalCapReminder s = .next t ∧ t.clocks.reminderAt = max s.now s.clocks.reminderAt + 1000 * msTicks
      ∧ t = (State.thermal { s with now := max s.now s.clocks.reminderAt, clocks := { s.clocks with reminderAt := max s.now s.clocks.reminderAt + 1000 * msTicks } }
          (if (s.clocks.die d).overRail then 3 else 2) d (s.clocks.packageMw / 1000) (s.clocks.die d).powerCap.toNat true))
  ∧ (∀ (s : State) (low : Bool), exec (.brakeNInput low) s = .next { s with clocks := { s.clocks with brake := low } })
  ∧ (∀ (s : State) (d : DieIx), Clocked s →
    exec (.avsSetpointReached d) s = .next (each (dieClocks d) (fun c s => s.retarget c)
      { s with clocks := s.clocks.modDie d (fun k => { k with setpointMv := k.targetMv, avsHold := none, voltCap := none }) }))
  ∧ (∀ (s : State) (d : DieIx) (mv : Nat), Clocked s → (s.clocks.die d).targetMv = (s.clocks.die d).setpointMv → exec (.avsRetry d mv) s = .next s)
  ∧ (∀ (s u : State) (d : DieIx) (mv : Nat), Clocked s → (s.clocks.die d).targetMv ≠ (s.clocks.die d).setpointMv → u = s.upTo ((s.clocks.die d).askedAt + msTicks) →
    ∃ g : Nat, exec (.avsRetry d mv) s = .next (each (dieClocks d) (fun c s => s.retarget c)
        { u with clocks := u.clocks.modDie d (fun k => { k with setpointMv := mv, askedAt := u.now, avsHold := none, voltCap := some g }) })
      ∧ 1 ≤ g ∧ g ≤ 15 ∧ (g ≠ 1 → s.rst.gearMv d g ≤ mv) ∧ (∀ x, g < x → x ≤ 15 → mv < s.rst.gearMv d x))
  ∧ (∀ s : State, Clocked s →
    ∃ t : State, exec .snapshotRefresh s = .next t ∧ t.now = max s.now ((s.now / (100 * usTicks) + 1) * (100 * usTicks)) ∧ t.host.snapSeq = (if s.host.snapSeq = 0xFFFFFFFE then s.host.snapSeq else s.host.snapSeq + 2)
      ∧ t.clocks.means = {} ∧ t.host.memory = s.host.memory ∧ t.cores = s.cores ∧ t.mem = s.mem)
  ∧ (∀ (s : State) (p E n : Nat) (a b st j : List Nat), Clocked s → twf {} s.clocks.dies = true → twf 0 s.clocks.stackHeld = true → twf 0 s.clocks.junctionHeld = true → twf 0 s.clocks.junctionNow = true →
    E = (if s.clocks.brake = true ∧ s.rst.pins.gpioDriven = true then min s.clocks.envelopeW.toNat 450 else s.clocks.envelopeW.toNat) →
    n = (if 100 * p < 95 * 1000 * E ∧ (∀ r < 12, ¬ 16 * railTenths.getD r 0 < 10 * b.getD r 0) then s.clocks.underCount + 1 else 0) →
    ∃ u : State, exec (.kettleSample p a b st j) s = .next (each (List.range 4) (fun d s => s.lowerVolts d) u.retargetAll)
      ∧ u.clocks.envelopeNow = E ∧ u.clocks.underCount = (if 64 ≤ n then 0 else n)
      ∧ (∀ (d c1 c2 : Nat), d < 4 → c1 = (if 1000 * E < p then max 1 ((s.clocks.die d).powerCap.toNat - 1) else (s.clocks.die d).powerCap.toNat) →
        c2 = (if 2200 * 16 < 10 * b.getD d 0 then max 1 (c1 - 1) else c1) →
        (u.clocks.die d).powerCap = BitVec.ofNat 4 (if 64 ≤ n then min 15 (c2 + 1) else c2))
      ∧ (∀ i < 16, tget 0 u.clocks.junctionNow i = j.getD i 0 ∧ tget 0 u.clocks.junctionHeld i = holdTemp (tget 0 s.clocks.junctionHeld i) (j.getD i 0))
      ∧ (∀ i < 20, tget 0 u.clocks.stackHeld i = holdTemp (tget 0 s.clocks.stackHeld i) (st.getD i 0)))
  ∧ (∀ (u t : State), twf {} u.clocks.dies = true → t = each (List.range 4) (fun d s => s.lowerVolts d) u.retargetAll →
    (∀ d < 4, (t.clocks.die d).powerCap = (u.clocks.die d).powerCap) ∧ t.clocks.underCount = u.clocks.underCount ∧ t.clocks.envelopeNow = u.clocks.envelopeNow
      ∧ t.clocks.junctionNow = u.clocks.junctionNow ∧ t.clocks.junctionHeld = u.clocks.junctionHeld ∧ t.clocks.stackHeld = u.clocks.stackHeld))
  ∧ ((∀ (s : State) (st j : List Nat), (∃ t ∈ st, 105 ≤ t) ∨ (∃ t ∈ j, 120 ≤ t) →
    exec (.thermtrip st j) s = .next { s with
      clocks := { s.clocks with thermtrip := true }
      mem := { s.mem with selfRefresh := true }
      rst := { s.rst with pins := { s.rst.pins with faultN := false } } })
  ∧ (∀ (s : State) (st j : List Nat), (∀ t ∈ st, t < 105) → (∀ t ∈ j, t < 120) → exec (.thermtrip st j) s = .next s)
  ∧ (∀ s : State, s.clocks.thermtrip = true →
    (∀ c : CoreIx, exec (.blockChosen c) s = .next s ∧ exec (.blockIssue c) s = .next s ∧ exec (.blockBoundary c) s = .next s ∧ exec (.product c) s = .next s
      ∧ exec (.add c) s = .next s ∧ exec (.fetch c) s = .next s ∧ exec (.store c) s = .next s)
    ∧ (∀ c : ClockIx, exec (.gearChangeDone c) s = .next s ∧ exec (.coreWakeDone c) s = .next s)
    ∧ (∀ (f : Fn) (m : Mb), exec (.identify f m) s = .next s ∧ exec (.contextSet f m) s = .next s ∧ exec (.blockPost f m) s = .next s ∧ exec (.mapSet f m) s = .next s)
    ∧ exec .cadenceFrame s = .next s ∧ exec .snapshotRefresh s = .next s ∧ (∀ f : Fn, exec (.spillStart f) s = .next s)))

/-- Spares: a swap asked for is due at the core's next boundary and is made there, a spare that passes steeping takes the next core in turn, and one that fails is retired; a requested scan of a stack reports the grains found in error, a requested test of a port its spoke (R169, R20, R412, R413, R416, R417). Where the spec leaves room this follows the readings the model chose (log 41, log 46, log 51). -/
def Obligations.spares_are_steeped_and_swapped : Prop :=
  (∀ (s : State) (f : Fn) (m : Mb) (c slot : Nat), Admitted spareSwapForm s f m → c = (s.ctl.req f m).u32 0 % 256 → (s.svc.sparesOf (clusterOf c)).spare = some slot →
    exec (.spareSwap f m) s = .next (State.answer ((s.modCore c (fun k => k.dueSwap .command)).retarget c) f m (s.ctl.req f m) {}))
  ∧ (∀ (s : State) (f : Fn) (m : Mb) (c : Nat), Admitted spareSwapForm s f m → c = (s.ctl.req f m).u32 0 % 256 → (s.svc.sparesOf (clusterOf c)).spare = none →
    exec (.spareSwap f m) s = .next (s.answer f m (s.ctl.req f m) { status := stSpareExhausted }))
  ∧ (∀ (s : State) (c : CoreIx) (sp : Nat), Clocked s → (s.core c).run = none → (s.core c).swap = some .command → (s.svc.sparesOf (clusterOf c)).spare = some sp →
    exec (.spareSwapApplied c) s = .next (State.moveCore { s.modCore c (fun k => { k with swap := none }) with
      svc := s.svc.modSpares (clusterOf c) (fun p => { p with map := modAt p.map (c.val % 16) (fun _ => sp), spare := some (s.svc.slotOf c), spareReady := false }) } c))
  ∧ (∀ (s : State) (f : Fn) (m : Mb), Admitted steepForm s f m → (s.ctl.req f m).u32 0 % 4 = 3 → s.svc.requests.any (fun r => r.kind == 3 && r.target == (s.ctl.req f m).u32 4) = false →
    exec (.steepRequest f m) s = .next (State.answer { s with svc := { s.svc with
      requests := s.svc.requests ++ [{ kind := 3, target := (s.ctl.req f m).u32 4, cmd := (s.ctl.req f m).cmd }] } } f m (s.ctl.req f m) { status := stSelftestDeferred }))
  ∧ (∀ (s : State) (cl : ClusterIx) (slot margin : Nat), Clocked s → (s.svc.sparesOf cl).spare = some slot → s.steeps cl = true → s.steepPaused cl = false → (tget {} s.clocks.spareClocks cl).gear ≠ 0 →
    5 ≤ margin → s.svc.requests = [] →
    ∃ u : State, exec (.steepingDone cl true margin) s = .next ((u.modCore (16 * cl.val + (s.svc.sparesOf cl).nextCore) (fun k => k.dueSwap .rolling)).retarget (16 * cl.val + (s.svc.sparesOf cl).nextCore))
      ∧ u.cores = s.cores ∧ u.svc = (s.svc.modErr cl (fun e => { e with steepPasses := satAdd e.steepPasses 1 })).modSpares cl (fun p => { p with spareReady := true }))
  ∧ (∀ (s : State) (cl : ClusterIx) (slot margin : Nat) (pass : Bool), Clocked s → (s.svc.sparesOf cl).spare = some slot → s.steeps cl = true → s.steepPaused cl = false →
    (tget {} s.clocks.spareClocks cl).gear ≠ 0 → (pass = false ∨ margin < 5) →
    exec (.steepingDone cl pass margin) s = .next (State.retireSlot { s with svc := s.svc.modErr cl (fun e => { e with steepFails := satAdd e.steepFails 1 }) } cl slot (if pass then 3 else 1)))
  ∧ (∀ (s : State) (target result : Nat) (scan : List (Nat × List SymbolError)) (r : SteepReq), Clocked s → s.svc.requests = [r] → r.kind = 3 → r.target = target →
    exec (.requestedSteepingDone 3 target result scan) s = .next (State.commandEntry { s with svc := { s.svc with requests := [] } } r.cmd 
      { arg0 := (s.mem.scanBad target scan).length, address := (s.mem.scanBad target scan).headD 0, kind := 1 }))
  ∧ (∀ (s : State) (target _result : Nat) (scan : List (Nat × List SymbolError)) (r : SteepReq), Clocked s → s.svc.requests = [r] → r.kind = 2 → r.target = target →
    exec (.requestedSteepingDone 2 target 0 scan) s = .next (State.commandEntry { s with svc := { s.svc with requests := [] } } r.cmd { arg1 := (s.port target).spare.toNat }))

/-- Errors of the die: a core check ends the block and has its slot retired, a corrected word is counted, an uncorrectable one is recorded and met at its next read, and a failed lane takes a spare of its group (R23, R170, R172, R408, R410, R412, R414). A retired slot stays retired: its cluster gives up its spare, or its core, and the tandem store is due a write (R22, R390, R412, R413). Where the spec leaves room this follows the readings the model chose (log 21, log 41, log 47). -/
def Obligations.on_die_errors_are_recorded : Prop :=
  ((∀ (s : State) (c : CoreIx) (r : RunBlock), Clocked s → ((s.settle c s.now).core c).run = some r →
    exec (.coreCheckFault c) s = .next ((State.endBlock { s.settle c s.now with
      svc := (s.settle c s.now).svc.modErr (clusterOf c) (fun e => { e with coreChecks := satAdd e.coreChecks 1 }) } c (s.settle c s.now).now (blockFault faultCoreCheck)).modCore c (fun k => k.dueSwap (.wear 2))))
  ∧ (∀ (s : State) (u : Fin 17) (a : SramArray) (slot : Fin 17) (row addr from_ n : Nat) (flips : BitVec 80), Clocked s → s.svc.worn = [] →
    wordRead addr from_ (s.wordAt u a slot addr) flips = some (s.wordAt u a slot addr, n) → n ≠ 0 → wears a = true →
    exec (.sramRowRepair u a slot row addr from_ flips) s = .next { s with svc := { s.svc.modErr u (fun e => { e with correctedWords := satAdd e.correctedWords 1 }) with
      worn := [{ unit := u, arr := a, slot := slot, row := row, at_ := s.now }] } })
  ∧ (∀ (s : State) (u : Fin 17) (slot : Fin 17) (row addr from_ i : Nat) (flips : BitVec 80), Clocked s → u.val < 16 → (s.svc.sparesOf u).map.findIdx? (fun x => x == slot.val) = some i →
    twf {} s.svc.errs = true → wordRead addr from_ (s.wordAt u .scratchpad slot addr) flips = none →
    ∃ t : State, exec (.sramRowRepair u .scratchpad slot row addr from_ flips) s = .next t
      ∧ t.cores.ueSpad = insertNat (spadKeyOf (16 * u.val + i) + addr % 2 ^ 22 / 8 * 8) s.cores.ueSpad ∧ t.cores.spad = s.cores.spad ∧ t.cores.acc = s.cores.acc
      ∧ (tget 0 s.svc.rowsUsed (4 * u.val) < Config.spareRows u 0 → t.cores.cores = s.cores.cores)
      ∧ (t.svc.err u).uncorrectableWords = satAdd (s.svc.err u).uncorrectableWords 1)
  ∧ (∀ (s : State) (link : Fin 8) (group : Fin 4) (lane : Fin 264) (j : Nat), Clocked s → linkGroup link group = some j → s.svc.groupsRetired.contains j = false →
    s.rst.trimDefaulted = false → tget 0 s.svc.lanesFailed j + 1 < 8 →
    exec (.dieLinkLaneFail link group lane) s = .next { s with
      svc := { s.svc with lanesFailed := tset 0 s.svc.lanesFailed j (tget 0 s.svc.lanesFailed j + 1) }
      rst := { s.rst with config := { s.rst.config with linkLanes := s.rst.config.linkLanes ++ [(link.val, false, 264 * group.val + lane.val)] }, gathered := true } })
  ∧ (∀ (s : State) (link : Fin 8) (group : Fin 4) (lane : Fin 264) (j : Nat), Clocked s → linkGroup link group = some j → s.svc.groupsRetired.contains j = false →
    s.rst.trimDefaulted = false → 8 ≤ tget 0 s.svc.lanesFailed j →
    ∃ t : State, exec (.dieLinkLaneFail link group lane) s = .next t ∧ j ∈ t.svc.groupsRetired ∧ t.mem = s.mem ∧ t.rst.gathered = true))
  ∧ (∀ (s : State) (cl slot reason : Nat), twf {} s.svc.spares = true → (s.svc.sparesOf cl).retired.contains slot = false →
    (∀ sp : Nat, (s.svc.sparesOf cl).spare = some sp → sp ≠ slot → (s.core (16 * cl + (s.svc.sparesOf cl).map.idxOf slot)).run = none) →
    slot ∈ ((s.retireSlot cl slot reason).svc.sparesOf cl).retired
    ∧ ((s.retireSlot cl slot reason).svc.sparesOf cl).spare = none
    ∧ (s.retireSlot cl slot reason).rst.gathered = true
    ∧ 17 * cl + slot ∈ (s.retireSlot cl slot reason).rst.config.retiredSlots
    ∧ ((s.svc.sparesOf cl).spare = none → (s.svc.sparesOf cl).map.contains slot = true →
        16 * cl + (s.svc.sparesOf cl).map.idxOf slot ∈ (s.retireSlot cl slot reason).cores.unavailable)
    ∧ (∀ k : Nat, k ≠ cl → (s.retireSlot cl slot reason).svc.sparesOf k = s.svc.sparesOf k))

/-- The page engine is set up: the frame table is placed, a function's record is set and enabled, its geometry and water marks set; a function without an enabled record is refused (R209, R214, R217, R224). Frames are granted, scrubbed and taken up again: granted frames become FREE on the function's stacks, a scrubbed frame is zero and HELD, a re-enabled function's counts are rebuilt from its leaf entries (R215, R228, R229). Where the spec leaves room this follows the readings the model chose (log 12, log 34, log 48). -/
def Obligations.the_page_engine_is_set_up : Prop :=
  ((∀ (s : State) (f : Fn) (m : Mb), Admitted placeForm s f m → s.pages.ftValid = false → s.pages.placing = none → s.mem.inExtents 0 ((s.ctl.req f m).u64 0) ftSize = true →
    exec (.frameTablePlace f m) s = .next (State.answer { s with pages := { s.pages with placing := some ((s.ctl.req f m).u64 0, (s.ctl.req f m).cmd) } } f m (s.ctl.req f m) { status := stAccepted }))
  ∧ (∀ (s : State) (f : Fn) (m : Mb), Admitted placeForm s f m → s.pages.ftValid = true →
    exec (.frameTablePlace f m) s = .next (s.answer f m (s.ctl.req f m) { status := stBusy }))
  ∧ (∀ (s : State) (a : Nat) (c : CmdRef), Clocked s → s.pages.placing = some (a, c) →
    ∃ mem : MemState, exec .frameTablePlaced s = .next (State.complete { s with mem := mem, pages := { s.pages with placing := none, ftBase := BitVec.ofNat 41 a, ftValid := true } } c {})
      ∧ mem = s.mem.placeTable a)
  ∧ (∀ (s : State) (f : Fn) (m : Mb) (g : Nat), Admitted setupForm s f m → g = (s.ctl.req f m).u32 0 → s.pages.ftValid = true → (s.pageRec g).enabled = false → s.pages.reenables = [] →
    s.mem.areaOk g (65536 * (s.ctl.req f m).u32 8) 65536 = true → s.mem.areaOk g ((s.ctl.req f m).u64 0x10) (4 * (s.ctl.req f m).u32 0x28) = true →
    s.mem.areaOk g ((s.ctl.req f m).u64 0x18) (4 * (s.ctl.req f m).u32 0x2C) = true → s.mem.areaOk g ((s.ctl.req f m).u64 0x20) (4 * (s.ctl.req f m).u32 0x30) = true →
    exec (.pageSetup f m) s = .next (State.answer (s.modRec g (fun r => { r with
      root := BitVec.ofNat 25 ((s.ctl.req f m).u32 8), fastStack := BitVec.ofNat 41 ((s.ctl.req f m).u64 0x10), pannierStack := BitVec.ofNat 41 ((s.ctl.req f m).u64 0x18)
      quarRing := BitVec.ofNat 41 ((s.ctl.req f m).u64 0x20), fastCap := BitVec.ofNat 32 ((s.ctl.req f m).u32 0x28), pannierCap := BitVec.ofNat 32 ((s.ctl.req f m).u32 0x2C)
      quarCap := BitVec.ofNat 32 ((s.ctl.req f m).u32 0x30), kvSealed := bit ((s.ctl.req f m).u32 0x34) 0, enabled := true })) f m (s.ctl.req f m) {}))
  ∧ (∀ (s : State) (f : Fn) (m : Mb), Admitted geometryForm s f m → s.serves f = true → s.seqs.ofFn f = [] →
    exec (.geometrySet f m) s = .next (State.answer (s.modRec f (fun r => { r with tppLog2 := BitVec.ofNat 4 ((s.ctl.req f m).u32 0), planes := BitVec.ofNat 11 ((s.ctl.req f m).u32 4), pagesMax := BitVec.ofNat 21 ((s.ctl.req f m).u32 8) })) f m (s.ctl.req f m) {}))
  ∧ (∀ (s : State) (f : Fn) (m : Mb) (g : Nat), Admitted waterForm s f m → g = (s.ctl.req f m).u32 0 → (f.val = 0 ∨ g = f.val) → s.serves g = true →
    exec (.waterSet f m) s = .next (State.answer (s.modRec g (fun r => { r with highWater := BitVec.ofNat 32 ((s.ctl.req f m).u32 4), lowWater := BitVec.ofNat 32 ((s.ctl.req f m).u32 8) })) f m (s.ctl.req f m) {}))
  ∧ (∀ (s : State) (f : Fn) (m : Mb), s.serves f = false →
    (Admitted geometryForm s f m → exec (.geometrySet f m) s = .next (s.answer f m (s.ctl.req f m) { status := stNotPermitted }))
    ∧ (Admitted listOpenForm s f m → exec (.listOpen f m) s = .next (s.answer f m (s.ctl.req f m) { status := stNotPermitted }))
    ∧ (Admitted createForm s f m → exec (.seqCreate f m) s = .next (s.answer f m (s.ctl.req f m) { status := stNotPermitted }))))
  ∧ ((∀ (s t u : State) (f : Fn) (m : Mb) (g : Nat), Admitted grantForm s f m → g = (s.ctl.req f m).u32 0 → s.serves g = true → (s.ctl.req f m).u32 4 % 2 = 0 →
    (∀ e ∈ (s.ctl.req f m).frames 4 8 12, s.grantable g e = true ∧ s.sealFits g e = true) →
    ((s.ctl.req f m).frames 4 8 12).length ≤ (s.pageRec g).fastCap.toNat - (s.pageRec g).freeFast.toNat →
    pagedEach (State.grant g) ((s.ctl.req f m).frames 4 8 12) s = .ok u → u.feedPrefetch g = .ok t →
    exec (.frameGrant f m) s = .next (t.answer f m (s.ctl.req f m) {}))
  ∧ (∀ (s : State) (f : Fn) (m : Mb) (g e : Nat), Admitted grantForm s f m → g = (s.ctl.req f m).u32 0 → s.serves g = true → (s.ctl.req f m).u32 4 % 2 = 0 →
    e ∈ (s.ctl.req f m).frames 4 8 12 → s.grantable g e = false →
    exec (.frameGrant f m) s = .next (s.answer f m (s.ctl.req f m) { status := stNotPermitted }))
  ∧ (∀ (s : State) (f : Fn) (m : Mb), Admitted scrubForm s f m → s.pages.ftValid = true → s.pages.scrubs = [] →
    (∀ e ∈ (s.ctl.req f m).frames 0 4 8, (s.mem.ftGet s.pages.ft e).st = ftOrphaned) →
    ∃ first : Nat, exec (.frameScrub f m) s = .next (State.answer { s with pages := { s.pages with scrubs := [{ first := first, count := (s.ctl.req f m).u32 8, cmd := (s.ctl.req f m).cmd }] } } f m
        (s.ctl.req f m) { status := stAccepted })
      ∧ first = (if (s.ctl.req f m).u32 0 % 2 = 0 then 0 else fastFrames) + (s.ctl.req f m).u32 4)
  ∧ (∀ (s : State) (j : ScrubJob) (rest : List ScrubJob), Clocked s → s.pages.scrubs = j :: rest →
    ∃ u : State, exec .frameScrubDone s = .next (u.complete j.cmd {}) ∧ u.pages = { s.pages with scrubs := rest } ∧ u.cores = s.cores ∧ u.ctl = s.ctl
      ∧ u.mem = (List.range j.count).foldl (fun m i => m.scrubFrame s.pages.ft (j.first + i)) s.mem)
  ∧ (∀ (s : State) (f : Fn) (m : Mb) (g : Nat), Admitted reenableForm s f m → g = (s.ctl.req f m).u32 0 → s.pages.ftValid = true → (s.pageRec g).enabled = false → s.pages.reenables = [] →
    exec (.pageReenable f m) s = .next (State.answer { s with pages := { s.pages with reenables := [(g, (s.ctl.req f m).cmd)] } } f m (s.ctl.req f m) { status := stAccepted, names := g }))
  ∧ (∀ (s t : State) (f : Fn) (c : CmdRef), Clocked s → s.pages.reenables = [(f.val, c)] → State.rebuild { s with pages := { s.pages with reenables := [] } } f = .ok t →
    twf {} s.pages.recs = true →
    exec (.pageReenableDone f) s = .next (t.complete c {}) ∧ (t.pageRec f).enabled = true))

/-- Pages move between the tiers: a spill takes the page of least last use of the sequences in no unretired list, pops a pannier frame and makes both frames MOVING; its copy, or the copy of a prefetch, remaps the page, makes the new frame MAPPED with COUNT 1 and holds the old frame back until the units have acknowledged, when its reference goes and it enters quarantine; an uncorrectable grain stops a move and the page stays where it was (R213, R222 to R226). The page engine's operations: the page a spill takes is the first of least last use among the candidates, fast frames MAPPED with COUNT 1 that no copy on write reads and no failed spill keeps back; the spill pops the top pannier frame, makes both frames MOVING and starts the frame's filling, or reports SPILL_STOPPED while the stack is empty; moved, the new frame is MAPPED with COUNT 1, the leaf names it with SPILLED set and WRITE clear, SPILL_COUNT rises and the old frame waits for the acknowledgement; failed, the old frame is MAPPED again, the leaf as it was, the new frame in quarantine and the function told; a prefetch is the reverse; a reference gone takes one from COUNT, and at the last puts the frame in quarantine, COUNT 0, on the ring; a frame leaves it FREE on its stack once its tag is not newer than RETIRED_EPOCH (R215, R216, R221 to R226). Pages are shared and released: a share waits while its source is listed or an append for it is under way; it is refused where a frame's COUNT is at its limit, then where a target page is mapped; each page shared gains one COUNT and both its leaves lose WRITE; a release clears the leaf, drops its translations and takes the reference (R213, R220, R221). Where the spec leaves room this follows the readings the model chose (log 20, log 23, log 34, log 48). -/
def Obligations.pages_are_spilled_and_fetched : Prop :=
  (((∀ (s u : State) (f : Fn), Clocked s → u = { s with pages := s.pages.watch f } → u.serves f = true → u.pages.spills.any (fun m => m.fn == f.val) = false → f.val ∉ u.pages.spillStopped → f.val ∈ u.pages.spilling →
    exec (.spillStart f) s = .next (match u.beginSpill f with
      | .ok t => t
      | .error g => u.stopService f g))
  ∧ (∀ (s u : State) (f : Fn), Clocked s → u = { s with pages := s.pages.watch f } → u.serves f = false ∨ u.pages.spills.any (fun m => m.fn == f.val) = true ∨ f.val ∈ u.pages.spillStopped ∨ f.val ∉ u.pages.spilling →
    exec (.spillStart f) s = .next u)
  ∧ (∀ (s u : State) (f : Fn) (m : PageMove) (a b : Nat), Clocked s → s.pages.spills.find? (fun m => m.fn == f.val) = some m → m.frames = some (a, b) → s.mem.spillError a b = none →
    u = { s with pages := { s.pages with spills := s.pages.spills.erase m } } →
    exec (.spillCopyDone f) s = .next (match State.spillMoved f m a b u with
      | .ok t => t
      | .error g => u.stopService f g))
  ∧ (∀ (s u : State) (f : Fn) (m : PageMove) (a b : Nat) (e : Args), Clocked s → s.pages.spills.find? (fun m => m.fn == f.val) = some m → m.frames = some (a, b) → s.mem.spillError a b = some e →
    u = { s with pages := { s.pages with spills := s.pages.spills.erase m } } →
    exec (.spillCopyDone f) s = .next (match State.spillFailed f m a b e u with
      | .ok t => t
      | .error g => u.stopService f g))
  ∧ (∀ (s u : State) (f : Fn) (m : PageMove) (a b : Nat), Clocked s → s.pages.nextPrefetch f = some m → m.frames = some (a, b) →
    u = { s with pages := { s.pages with prefetches := s.pages.prefetches.erase m } } →
    exec (.prefetchCopyDone f) s = .next (match (match (match s.mem.frameUe a with
          | none => State.prefetchMoved f m a b u
          | some g => State.prefetchFailed f m b g u) with
        | .ok w => w.feedPrefetch f
        | .error g => .error g) with
      | .ok t => t
      | .error g => u.stopService f g))
  ∧ (∀ (s u : State) (f : Fn) (v : Invalidation), Clocked s → s.pages.invalidations.find? (fun v => v.fn == f.val) = some v → u = { s with pages := { s.pages with invalidations := s.pages.invalidations.erase v } } →
    exec (.invalidationAcked f) s = .next (match (match (match pagedEach (State.unref f) v.release u with
          | .ok w => w.sweepIdle f
          | .error g => .error g) with
        | .ok w => w.feedPrefetch f
        | .error g => .error g) with
      | .ok t => t
      | .error g => u.stopService f g))
  ∧ (∀ (s : State) (f : Fn), Clocked s →
    (s.pages.invalidations.find? (fun v => v.fn == f.val) = none → exec (.invalidationAcked f) s = .next s)
    ∧ (s.pages.spills.find? (fun m => m.fn == f.val) = none → exec (.spillCopyDone f) s = .next s)
    ∧ (s.pages.nextPrefetch f = none → exec (.prefetchCopyDone f) s = .next s)))
  ∧ ((∀ (s : State) (f i p : Nat) (l : Leaf), s.mem.ue = [] → s.leaf f p = .ok (some l) →
    s.spillable f i p = .ok (if l.frame < fastFrames ∧ (s.mem.ftGet s.pages.ft l.frame).st = 2 ∧ (s.mem.ftGet s.pages.ft l.frame).count = 1 ∧ s.pages.copied l.frame = false
        ∧ (f, p, ((s.pageRec f).stepEpoch - BitVec.ofNat 16 (min ((s.pageRec f).stepEpoch - BitVec.ofNat 16 (s.mem.ftGet s.pages.ft l.frame).epoch).toNat ((s.pageRec f).stepEpoch - (s.seq i).lastUse).toNat)).toNat) ∉ s.pages.spillSkip then
      some { age := min ((s.pageRec f).stepEpoch - BitVec.ofNat 16 (s.mem.ftGet s.pages.ft l.frame).epoch).toNat ((s.pageRec f).stepEpoch - (s.seq i).lastUse).toNat, seq := i, page := p, frame := l.frame }
      else none))
  ∧ (∀ (s : State) (f : Nat) (l : List (Nat × Nat)) (c : Spillable), s.pickSpill f l = .ok (some c) →
    ∃ l1 l2, l = l1 ++ (c.seq, c.page) :: l2 ∧ s.spillable f c.seq c.page = .ok (some c)
      ∧ (∀ x ∈ l1, ∀ b, s.spillable f x.1 x.2 = .ok (some b) → b.age < c.age) ∧ (∀ x ∈ l2, ∀ b, s.spillable f x.1 x.2 = .ok (some b) → b.age ≤ c.age))
  ∧ (∀ (s : State) (f : Nat) (l : List (Nat × Nat)), s.pickSpill f l = .ok none → ∀ x ∈ l, s.spillable f x.1 x.2 = .ok none)
  ∧ (∀ (s : State) (f i p : Nat), (i, p) ∈ s.spillPages f → i ∈ s.seqs.ofFn f ∧ (s.seq i).listed = false ∧ i ∉ tget [] s.seqs.lookahead f)
  ∧ (∀ (s : State) (f e : Nat) (c : Spillable), s.mem.ue = [] → twf {} s.pages.recs = true → s.pickSpill f (s.spillPages f) = .ok (some c) → (s.pageRec f).freePannier ≠ 0 →
    e = fastFrames + s.mem.readLe ((s.pageRec f).pannierStack.toNat + 4 * ((s.pageRec f).freePannier.toNat - 1)) 4 % 2 ^ 25 →
    s.beginSpill f = .ok { s with
      mem := ((s.mem.ftPut s.pages.ft e { count := 0, st := 4, fn := f, epoch := (s.pageRec f).stepEpoch.toNat }).ftMod s.pages.ft c.frame (fun x => { x with st := 4 })).spillFill (e - fastFrames)
      pages := { s.pages.setRec f { s.pageRec f with freePannier := (s.pageRec f).freePannier - 1 } with
        spills := s.pages.spills ++ [{ fn := f, seq := c.seq, page := c.page, frames := some (c.frame, e) }] } })
  ∧ (∀ (s : State) (f : Nat) (c : Spillable), s.pickSpill f (s.spillPages f) = .ok (some c) → (s.pageRec f).freePannier = 0 →
    s.beginSpill f = .ok ({ s with pages := { s.pages with spillStopped := insertNat f s.pages.spillStopped } }.pageEvent f 3 stNoMemory 0 0 none))
  ∧ (∀ (s : State) (f : Nat), s.pickSpill f (s.spillPages f) = .ok none → s.beginSpill f = .ok s)
  ∧ (∀ (s : State) (f a b x : Nat) (m : PageMove) (w : MemState), s.mem.ue = [] →
    w = ((s.mem.copyFrame a b).spillFilled (b - fastFrames)).ftPut s.pages.ft b { count := 1, st := 2, fn := f, epoch := (s.pageRec f).stepEpoch.toNat } →
    State.leafSlot { s with mem := w } f m.page = .ok (some x) →
    State.spillMoved f m a b s = .ok { s with
      mem := w.write x (natLe 8 (1 + 8 + ftAddr b))
      pages := { (s.pages.invalidate f (fun p => p == m.page)).setRec f { s.pageRec f with spilled := (s.pageRec f).spilled + 1, spillCount := satAdd (s.pageRec f).spillCount 1 } with
        invalidations := s.pages.invalidations ++ [{ fn := f, release := [a] }] } })
  ∧ (∀ (s : State) (f a b x : Nat) (m : PageMove) (w : MemState), s.mem.ue = [] →
    w = (s.mem.copyFrame a b).ftPut s.pages.ft b { count := 1, st := 2, fn := f, epoch := (s.pageRec f).stepEpoch.toNat } →
    State.leafSlot { s with mem := w } f m.page = .ok (some x) →
    State.prefetchMoved f m a b s = .ok { s with
      mem := w.write x (natLe 8 (1 + 4 + ftAddr b))
      pages := { (s.pages.invalidate f (fun p => p == m.page)).setRec f { s.pageRec f with prefetchCount := satAdd (s.pageRec f).prefetchCount 1 } with
        invalidations := s.pages.invalidations ++ [{ fn := f, release := [a] }] } })
  ∧ (∀ (s u : State) (f a b g : Nat) (m : PageMove), s.mem.ftUe s.pages.ft a = none →
    u = { s with
      mem := ((s.mem.ftMod s.pages.ft a (fun x => { x with st := 2 })).note g false .uncorrectable).spillFilled (b - fastFrames)
      pages := { s.pages with spillSkip := s.pages.spillSkip ++ [(f, m.page,
        ((s.pageRec f).stepEpoch - BitVec.ofNat 16 (min ((s.pageRec f).stepEpoch - BitVec.ofNat 16 (s.mem.ftGet s.pages.ft a).epoch).toNat ((s.pageRec f).stepEpoch - (s.seq m.seq).lastUse).toNat)).toNat)] } } →
    State.spillFailed f m a b (accErr stUncorrectable 0 g 1) s = (match u.quarantine f b with
      | .ok t => .ok (t.pageEvent f 2 stUncorrectable m.seq 0 (some g))
      | .error x => .error x))
  ∧ (∀ (s u : State) (f b g : Nat) (m : PageMove), u = { s with mem := s.mem.note g false .uncorrectable, pages := s.pages.setRec f { s.pageRec f with occupancy := (s.pageRec f).occupancy - 1 } } →
    State.prefetchFailed f m b g s = (match State.freeFrame f b u with
      | .ok t => .ok (t.pageEvent f 2 stUncorrectable m.seq 0 (some g))
      | .error x => .error x))
  ∧ (∀ (s : State) (f e : Nat), s.mem.ue = [] →
    s.quarantine f e = .ok { s with
      mem := (s.mem.ftPut s.pages.ft e { count := 0, st := 3, fn := f, epoch := (s.pageRec f).stepEpoch.toNat }).write
        ((s.pageRec f).quarRing.toNat + 4 * ((tget 0 s.pages.ringHead f + (tget [] s.pages.ring f).length) % max 1 (s.pageRec f).quarCap.toNat)) (natLe 4 (if e < fastFrames then e else e - fastFrames))
      pages := { s.pages with
        ring := tset [] s.pages.ring f (tget [] s.pages.ring f ++ [e])
        recs := tset {} s.pages.recs f { s.pageRec f with quarantined := (s.pageRec f).quarantined + 1 } } })
  ∧ (∀ (s : State) (f e : Nat), s.mem.ftUe s.pages.ft e = none → 1 < (s.mem.ftGet s.pages.ft e).count →
    State.unref f e s = .ok { s with mem := s.mem.ftMod s.pages.ft e (fun x => { x with count := x.count - 1 }) })
  ∧ (∀ (s t : State) (f e : Nat), s.mem.ftUe s.pages.ft e = none → (s.mem.ftGet s.pages.ft e).count ≤ 1 → s.quarantine f e = .ok t →
    State.unref f e s = .ok { t with pages := t.pages.setRec f (if e < fastFrames then { t.pageRec f with occupancy := (t.pageRec f).occupancy - 1 } else { t.pageRec f with spilled := (t.pageRec f).spilled - 1 }) })
  ∧ (∀ (s : State) (f e : Nat), s.mem.ue = [] → e < fastFrames →
    State.freeFrame f e s = .ok { s with
      mem := (s.mem.ftPut s.pages.ft e { count := 0, st := 1, fn := f, epoch := 0 }).write ((s.pageRec f).fastStack.toNat + 4 * (s.pageRec f).freeFast.toNat) (natLe 4 e)
      pages := s.pages.setRec f { s.pageRec f with freeFast := (s.pageRec f).freeFast + 1 } })
  ∧ (∀ (s : State) (f e : Nat) (w : MemState), s.mem.ue = [] → fastFrames ≤ e → w = s.mem.ftPut s.pages.ft e { count := 0, st := 1, fn := f, epoch := 0 } →
    State.freeFrame f e s = .ok { s with
      mem := { w with fill := tset .empty w.fill (e - fastFrames) .empty }.write ((s.pageRec f).pannierStack.toNat + 4 * (s.pageRec f).freePannier.toNat) (natLe 4 (e - fastFrames))
      pages := s.pages.setRec f { s.pageRec f with freePannier := (s.pageRec f).freePannier + 1 } })
  ∧ (∀ (s u : State) (f n e : Nat) (rest : List Nat), s.mem.ue = [] → tget [] s.pages.ring f = e :: rest →
    ((s.pageRec f).retiredEpoch - BitVec.ofNat 16 (s.mem.ftGet s.pages.ft e).epoch).toNat < 2 ^ 15 →
    u = { s with pages := { s.pages with
      ring := tset [] s.pages.ring f rest
      ringHead := tset 0 s.pages.ringHead f ((tget 0 s.pages.ringHead f + 1) % max 1 (s.pageRec f).quarCap.toNat)
      recs := tset {} s.pages.recs f { s.pageRec f with quarantined := (s.pageRec f).quarantined - 1 } } } →
    State.sweepRing f (n + 1) s = (match State.freeFrame f e u with
      | .ok t => (match State.sweepRing f n t with
        | .ok x => .ok (x.1, x.2 + 1)
        | .error g => .error g)
      | .error g => .error g))
  ∧ (∀ (s : State) (f n e : Nat) (rest : List Nat), s.mem.ue = [] → tget [] s.pages.ring f = e :: rest →
    2 ^ 15 ≤ ((s.pageRec f).retiredEpoch - BitVec.ofNat 16 (s.mem.ftGet s.pages.ft e).epoch).toNat → State.sweepRing f (n + 1) s = .ok (s, 0))
  ∧ (∀ (s : State) (f : Nat), tget [] s.seqs.lists f ≠ [] → s.sweepIdle f = .ok s)
  ∧ (∀ (s : State) (f : Nat), tget [] s.seqs.lists f = [] →
    s.sweepIdle f = (match State.sweep { s with pages := s.pages.setRec f { s.pageRec f with retiredEpoch := (s.pageRec f).stepEpoch } } f with
      | .ok x => .ok x.1
      | .error g => .error g))
  ∧ (∀ (s : State) (f n : Nat) (m : PageMove) (l : Leaf), s.mem.ue = [] → s.pages.nextPrefetch f = some m → m.frames = none → s.leaf f m.page = .ok (some l) →
    l.spilled = true ∧ (s.mem.ftGet s.pages.ft l.frame).st = 2 ∧ (s.mem.ftGet s.pages.ft l.frame).count = 1 → (s.pageRec f).freeFast = 0 → State.feed f (n + 1) s = .ok s)
  ∧ (∀ (s : State) (f n e : Nat) (m : PageMove) (l : Leaf), s.mem.ue = [] → twf {} s.pages.recs = true → s.pages.nextPrefetch f = some m → m.frames = none → s.leaf f m.page = .ok (some l) →
    l.spilled = true ∧ (s.mem.ftGet s.pages.ft l.frame).st = 2 ∧ (s.mem.ftGet s.pages.ft l.frame).count = 1 → (s.pageRec f).freeFast ≠ 0 →
    e = s.mem.readLe ((s.pageRec f).fastStack.toNat + 4 * ((s.pageRec f).freeFast.toNat - 1)) 4 % 2 ^ 25 →
    State.feed f (n + 1) s = .ok { s with
      mem := s.mem.ftPut s.pages.ft e { count := 0, st := 4, fn := f, epoch := (s.pageRec f).stepEpoch.toNat }
      pages := { s.pages with
        prefetches := mapIf (fun y => y == m) (fun y => { y with frames := some (l.frame, e) }) s.pages.prefetches
        recs := tset {} s.pages.recs f { s.pageRec f with freeFast := (s.pageRec f).freeFast - 1, occupancy := (s.pageRec f).occupancy + 1 } } })
  ∧ (∀ (s : State) (f n : Nat) (m : PageMove) (l : Leaf), s.mem.ue = [] → s.pages.nextPrefetch f = some m → m.frames = none → s.leaf f m.page = .ok (some l) →
    ¬ (l.spilled = true ∧ (s.mem.ftGet s.pages.ft l.frame).st = 2 ∧ (s.mem.ftGet s.pages.ft l.frame).count = 1) →
    State.feed f (n + 1) s = State.feed f n { s with pages := { s.pages with prefetches := s.pages.prefetches.erase m } })
  ∧ (∀ (s : State) (f n : Nat), (s.pages.nextPrefetch f = none → State.feed f n s = .ok s)
    ∧ (∀ m, s.pages.nextPrefetch f = some m → m.frames.isSome = true → State.feed f n s = .ok s))
  ∧ (∀ (p : PageState) (f : Nat), p.spilling.Nodup →
    (f ∈ (p.watch f).spilling ↔ (p.pageRec f).highWater < (p.pageRec f).occupancy ∨ p.starved f = true ∨ (f ∈ p.spilling ∧ (p.pageRec f).lowWater < (p.pageRec f).occupancy)))
  ∧ (∀ (p : PageState) (f cl page : Nat), (p.invalidate f (fun x => x == page)).cached cl f page = none)
  ∧ (∀ (s : State) (f page : Nat) (x a : Nat), s.mem.ue = [] → s.leafSlot f page = .ok (some a) → x = s.mem.readLe a 8 →
    s.leaf f page = .ok (if x % 2 = 1 then some { frame := ftIndexOf (xlFrame x), write := bit x 2, spilled := bit x 3 } else none))))
  ∧ ((∀ (s t : State) (f : Fn) (m : Mb) (w : ShareWait) (st : Nat), Admitted shareForm s f m → s.seqRefusal (s.ctl.req f m) w.source = none → s.seqRefusal (s.ctl.req f m) w.target = none → s.serves f = true →
    w = { source := (s.ctl.req f m).u32 0, target := (s.ctl.req f m).u32 4, first := (s.ctl.req f m).u32 8, last := (s.ctl.req f m).u32 12, cmd := (s.ctl.req f m).cmd } →
    w.last ≤ (s.pageRec f).pagesMax.toNat → (s.settleShare f w).serves f = true → State.doShare f w (s.settleShare f w) = .ok (t, st) → st ≠ stOk ∨ (s.settleShare f w).shareEarly w = false →
    exec (.pageShare f m) s = .next (t.answer f m (s.ctl.req f m) { status := st }))
  ∧ (∀ (s t : State) (f : Fn) (m : Mb) (w : ShareWait), Admitted shareForm s f m → s.seqRefusal (s.ctl.req f m) w.source = none → s.seqRefusal (s.ctl.req f m) w.target = none → s.serves f = true →
    w = { source := (s.ctl.req f m).u32 0, target := (s.ctl.req f m).u32 4, first := (s.ctl.req f m).u32 8, last := (s.ctl.req f m).u32 12, cmd := (s.ctl.req f m).cmd } →
    w.last ≤ (s.pageRec f).pagesMax.toNat → (s.settleShare f w).serves f = true → State.doShare f w (s.settleShare f w) = .ok (t, stOk) → (s.settleShare f w).shareEarly w = true →
    exec (.pageShare f m) s = .next (State.answer { s.settleShare f w with pages := { (s.settleShare f w).pages with shareWaits := (s.settleShare f w).pages.shareWaits ++ [w] } } f m (s.ctl.req f m) { status := stAccepted }))
  ∧ (∀ (s u : State) (f : Fn) (m : Mb) (i : Nat) (e : SeqEntry), Admitted pageReleaseForm s f m → i = (s.ctl.req f m).u32 0 → e = s.seq i → s.seqRefusal (s.ctl.req f m) i = none → s.serves f = true →
    e.live = true → (s.ctl.req f m).u32 8 ≤ (s.pageRec f).pagesMax.toNat →
    u = s.settleMoves f (pageIn (s.pageRec f) e.vbase.toNat ((s.ctl.req f m).u32 4) ((s.ctl.req f m).u32 8)) → u.serves f = true →
    exec (.pageRelease f m) s = .next (match State.releaseAll f (seqPages (s.pageRec f) e.vbase.toNat ((s.ctl.req f m).u32 4) ((s.ctl.req f m).u32 8)) u with
      | .ok t => t.answer f m (s.ctl.req f m) {}
      | .error g => State.answer (u.stopService f g) f m (s.ctl.req f m) { status := stUncorrectable }))
  ∧ (∀ (s : State) (f : Fn) (m : Mb), Admitted pageReleaseForm s f m → s.seqRefusal (s.ctl.req f m) ((s.ctl.req f m).u32 0) = none → s.serves f = true → (s.seq ((s.ctl.req f m).u32 0)).live = false →
    exec (.pageRelease f m) s = .next (s.answer f m (s.ctl.req f m) { status := stSequenceState }))
  ∧ (∀ (s : State) (w : ShareWait), s.shareEarly w = true ↔ (s.seq w.source).listed = true ∨ ∃ a ∈ s.pages.appends, a.dropped = false ∧ (a.seq = w.source ∨ a.seq = w.target))
  ∧ (∀ (s : State) (f : Nat) (x : SharePage) (l : Leaf) (t : Option Leaf), s.mem.ue = [] → s.leaf f x.src = .ok (some l) → s.leaf f x.dst = .ok t →
    State.shareCheck f x s = .ok (if 65535 ≤ (s.mem.ftGet s.pages.ft l.frame).count then 1 else 0, if t.isSome then 1 else 0))
  ∧ (∀ (s : State) (f : Nat) (x : SharePage) (t : Option Leaf), s.leaf f x.src = .ok none → s.leaf f x.dst = .ok t →
    State.shareCheck f x s = .ok (0, if t.isSome then 1 else 0) ∧ State.sharePage f x s = .ok s)
  ∧ (∀ (s : State) (f a b : Nat) (l : List SharePage), State.shareChecks f s l = .ok (a, b) →
    (a ≠ 0 ↔ ∃ x ∈ l, ∃ c d, State.shareCheck f x s = .ok (c, d) ∧ c ≠ 0) ∧ (b ≠ 0 ↔ ∃ x ∈ l, ∃ c d, State.shareCheck f x s = .ok (c, d) ∧ d ≠ 0))
  ∧ (∀ (s : State) (f : Nat) (x : SharePage) (l : Leaf) (w : MemState) (a b : Nat), s.mem.ue = [] → s.leaf f x.src = .ok (some l) →
    w = s.mem.ftMod s.pages.ft l.frame (fun e => { e with count := e.count + 1 }) → State.leafSlot { s with mem := w } f x.dst = .ok (some b) →
    State.leafSlot { s with mem := w.write b (leafBytes (some { l with write := false })) } f x.src = .ok (some a) →
    State.sharePage f x s = .ok { s with
      mem := (w.write b (leafBytes (some { l with write := false }))).write a (leafBytes (some { l with write := false }))
      pages := (s.pages.invalidate f (fun p => p == x.dst)).invalidate f (fun p => p == x.src) })
  ∧ (∀ (s : State) (f lim occ : Nat) (w : ShareWait) (ps : List SharePage),
    ps = (seqPages (s.pageRec f) (s.seq w.source).vbase.toNat w.first w.last).zipWith SharePage.mk (seqPages (s.pageRec f) (s.seq w.target).vbase.toNat w.first w.last) →
    (s.seq w.source).live = true → (s.seq w.target).live = true → State.shareChecks f s ps = .ok (lim, occ) → lim ≠ 0 ∨ occ ≠ 0 →
    State.doShare f w s = .ok (s, if lim = 0 then stSequenceState else stShareLimit))
  ∧ (∀ (s t : State) (f : Nat) (w : ShareWait) (ps : List SharePage),
    ps = (seqPages (s.pageRec f) (s.seq w.source).vbase.toNat w.first w.last).zipWith SharePage.mk (seqPages (s.pageRec f) (s.seq w.target).vbase.toNat w.first w.last) →
    (s.seq w.source).live = true → (s.seq w.target).live = true → State.shareChecks f s ps = .ok (0, 0) → pagedEach (State.sharePage f) ps s = .ok t → State.doShare f w s = .ok (t, stOk))
  ∧ (∀ (s : State) (f : Nat) (w : ShareWait), (s.seq w.source).live = false ∨ (s.seq w.target).live = false → State.doShare f w s = .ok (s, stSequenceState))
  ∧ (∀ (s : State) (f page a : Nat) (l : Leaf), s.mem.ue = [] → s.leaf f page = .ok (some l) → s.leafSlot f page = .ok (some a) →
    State.releasePage f page s = State.unref f l.frame { s with mem := s.mem.write a (natLe 8 0), pages := s.pages.invalidate f (fun p => p == page) })
  ∧ (∀ (s : State) (f page : Nat), s.leaf f page = .ok none → State.releasePage f page s = .ok s)
  ∧ (∀ (s u v w : State) (f : Nat) (ps : List Nat), pagedEach (State.releasePage f) ps s = .ok u → u.sweepIdle f = .ok v → v.feedPrefetch f = .ok w → State.releaseAll f ps s = .ok w)
  ∧ (∀ (f page : Nat) (ps : List Nat) (s : State), pagedEach (State.releasePage f) (page :: ps) s = (match State.releasePage f page s with
      | .ok t => pagedEach (State.releasePage f) ps t
      | .error g => .error g)))

/-- Sequences: created at the lowest free index, set, parked, resumed and retired by their owner in the states R231 gives (R230 to R232). A command on a sequence of another function, or of a function not served, is NOT_PERMITTED and changes nothing but its mailbox (R231, R333). Where the spec leaves room this follows the readings the model chose (log 34, log 46, log 48). -/
def Obligations.sequences_live_and_end : Prop :=
  ((∀ (s : State) (f : Fn) (m : Mb) (i : Nat), Admitted createForm s f m → s.serves f = true → s.rangeFree f ((s.ctl.req f m).u64 16) = .ok true →
    (s.seqs.ofFn f).length < (s.ctxOf f).seqQuota.toNat → i < 4096 → (s.seq i).st = .free → (∀ k < i, (s.seq k).st ≠ .free) →
    exec (.seqCreate f m) s = .next (State.answer (s.modSeq i (fun _ =>
      { st := .active, priority := BitVec.ofNat 3 ((s.ctl.req f m).u32 0), fn := BitVec.ofNat 4 f.val, stepTokens := BitVec.ofNat 17 ((s.ctl.req f m).u32 4)
        append := BitVec.ofNat 17 ((s.ctl.req f m).u32 8), lastUse := (s.pageRec f).stepEpoch, vbase := BitVec.ofNat 48 ((s.ctl.req f m).u64 16), user := BitVec.ofNat 32 ((s.ctl.req f m).u32 12) }))
      f m (s.ctl.req f m) { reply := natLe 4 i }))
  ∧ (∀ (s : State) (f : Fn) (m : Mb), Admitted createForm s f m → s.serves f = true → s.rangeFree f ((s.ctl.req f m).u64 16) = .ok true →
    (s.ctxOf f).seqQuota.toNat ≤ (s.seqs.ofFn f).length → exec (.seqCreate f m) s = .next (s.answer f m (s.ctl.req f m) { status := stNoMemory }))
  ∧ (∀ (s : State) (f : Fn) (m : Mb) (i : Nat), Admitted setForm s f m → i = (s.ctl.req f m).u32 0 → s.seqRefusal (s.ctl.req f m) i = none → (s.seq i).runs = true →
    ((s.seq i).with (s.ctl.req f m)).append ≤ ((s.seq i).with (s.ctl.req f m)).stepTokens →
    exec (.seqSet f m) s = .next (State.answer (s.modSeq i (fun _ => (s.seq i).with (s.ctl.req f m))) f m (s.ctl.req f m) {}))
  ∧ (∀ (s : State) (f : Fn) (m : Mb) (i : Nat), Admitted (seqForm 0x040A) s f m → i = (s.ctl.req f m).u32 0 → s.seqRefusal (s.ctl.req f m) i = none →
    ((s.seq i).st = .active ∨ (s.seq i).st = .parkedNoPage) →
    exec (.seqPark f m) s = .next (State.answer (s.modSeq i (fun e => { e with st := .parkedHost, parkReason := 1 })) f m (s.ctl.req f m) {}))
  ∧ (∀ (s : State) (f : Fn) (m : Mb) (i : Nat), Admitted (seqForm 0x040B) s f m → i = (s.ctl.req f m).u32 0 → s.seqRefusal (s.ctl.req f m) i = none → (s.seq i).st = .parkedHost →
    (s.seq i).parkReason ≠ 3 → exec (.seqResume f m) s = .next (State.answer (s.modSeq i (fun e => { e with st := .active, parkReason := 0 })) f m (s.ctl.req f m) {}))
  ∧ (∀ (s : State) (f : Fn) (m : Mb) (i : Nat), Admitted (seqForm 0x040B) s f m → i = (s.ctl.req f m).u32 0 → s.seqRefusal (s.ctl.req f m) i = none → (s.seq i).st ≠ .parkedHost →
    exec (.seqResume f m) s = .next (s.answer f m (s.ctl.req f m) { status := stSequenceState }))
  ∧ (∀ (s t : State) (f : Fn) (m : Mb) (i : Nat) (all : List Nat), Admitted (seqForm 0x040C) s f m → i = (s.ctl.req f m).u32 0 → s.seqRefusal (s.ctl.req f m) i = none →
    (s.seq i).st = .active → all = seqPages (s.pageRec f) (s.seq i).vbase.toNat 0 (s.pageRec f).pagesMax.toNat → State.releaseAll f all (s.settleMoves f all.contains) = .ok t →
    exec (.seqRetire f m) s = .next (State.answer (((t.dropAppend i).modSeq i (fun e => { e with st := .retiring })).freeSeq i) f m (s.ctl.req f m) {})))
  ∧ (∀ (s : State) (f : Fn) (m : Mb) (i : Nat) (alien : Prop), i = (s.ctl.req f m).u32 0 % 4096 → (alien ↔ (s.seq i).st ≠ .free ∧ (s.seq i).fn.toNat ≠ f.val) →
    ((Presented setForm s f m ∧ alien) ∨ (Admitted setForm s f m ∧ s.serves f = false) → exec (.seqSet f m) s = .next (s.answer f m (s.ctl.req f m) { status := stNotPermitted }))
    ∧ ((Presented (seqForm 0x040A) s f m ∧ alien) ∨ (Admitted (seqForm 0x040A) s f m ∧ s.serves f = false) → exec (.seqPark f m) s = .next (s.answer f m (s.ctl.req f m) { status := stNotPermitted }))
    ∧ ((Presented (seqForm 0x040B) s f m ∧ alien) ∨ (Admitted (seqForm 0x040B) s f m ∧ s.serves f = false) → exec (.seqResume f m) s = .next (s.answer f m (s.ctl.req f m) { status := stNotPermitted }))
    ∧ ((Presented (seqForm 0x040C) s f m ∧ alien) ∨ (Admitted (seqForm 0x040C) s f m ∧ s.serves f = false) → exec (.seqRetire f m) s = .next (s.answer f m (s.ctl.req f m) { status := stNotPermitted }))
    ∧ ((Presented pageReleaseForm s f m ∧ alien) ∨ (Admitted pageReleaseForm s f m ∧ s.serves f = false) → exec (.pageRelease f m) s = .next (s.answer f m (s.ctl.req f m) { status := stNotPermitted })))

/-- Brew lists: a list is opened with the next epoch and brewed, built once no append is left, released to LIST_LIVE with its counter, closed by the function and retired once its chains have ended (R233, R235 to R238). Where the spec leaves room this follows the readings the model chose (log 20, log 34, log 48). -/
def Obligations.brew_lists_live_and_retire : Prop :=
  (∀ (s : State) (f : Fn) (m : Mb), Admitted listOpenForm s f m → s.serves f = true → (tget [] s.seqs.lists f).length < 2 →
    s.listBad f (s.ctxOf f).listStage.toNat (s.ctxOf f).listLen = none → s.listBad f (s.ctxOf f).listLive.toNat (s.ctxOf f).listLen = none →
    ∃ u : State, u = (s.openList f (s.ctl.req f m).cmd).brew f
      ∧ exec (.listOpen f m) s = .next (u.answer f m (s.ctl.req f m) { status := stAccepted, reply := natLe 4 (u.pageRec f).stepEpoch.toNat }))
  ∧ (∀ (s : State) (f : Fn) (m : Mb), Admitted listOpenForm s f m → s.serves f = true → 2 ≤ (tget [] s.seqs.lists f).length →
    exec (.listOpen f m) s = .next (s.answer f m (s.ctl.req f m) { status := stBusy }))
  ∧ (∀ (s : State) (f : Fn) (a : Append), Clocked s → s.pages.appends.find? (fun a => a.fn == f.val) = some a → (s.ctxOf f).st ≠ .saved → (∀ c ∈ a.copies, c.copied = true) →
    exec (.cowCopyDone f) s = .next ((s.appendEnds a).brew f))
  ∧ (∀ (s : State) (f : Fn) (a : Append) (c d : CowCopy), Clocked s → s.pages.appends = [a] → a.fn = f → a.copies = [c, d] → c.copied = false → d.copied = false → c ≠ d →
    s.mem.frameUe c.source = none →
    exec (.cowCopyDone f) s = .next { s with mem := s.mem.copyFrame c.source c.target, pages := { s.pages with appends := [{ a with copies := [{ c with copied := true }, d] }] } })
  ∧ (∀ (s u v : State) (f : Fn) (l : BrewList) (look : List Nat), Clocked s → u = s.brew f → u.seqs.building f = some l → l.todo = [] → u.pages.appends = [] → u.pages.invalidations = [] →
    (u.ctxOf f).st ≠ .saved → u.lookahead f l.epoch = (v, look) → v.serves f = false →
    ∃ (w : State) (b : BrewList) (a : Args), w = (State.listWrite f (grainPieces (u.ctxOf f).listStage.toNat (u.ctxOf f).listLen) (b.bytes look.length (u.ctxOf f).clusterEntries.toNat) v).1
      ∧ b = (v.seqs.building f).getD l ∧ a.result = (b.header look.length).take 16
      ∧ (∀ x : State, x = State.complete { w with seqs := { w.seqs.modList f b.epoch (fun y => { y with phase := .built }) with lookahead := tset [] w.seqs.lookahead f look } } b.cmd a →
          x.serves f = false → exec (.listBuilt f) s = .next x))
  ∧ (∀ (s : State) (f : Fn) (l : BrewList) (rest : List BrewList), Clocked s → tget [] s.seqs.lists f = l :: rest → l.phase = .built → (s.ctxOf f).st ≠ .saved →
    ∃ w : State × Option Args, w = State.listCopy f (s.ctxOf f).listStage.toNat (s.ctxOf f).listLive.toNat (grainPieces (s.ctxOf f).listStage.toNat (s.ctxOf f).listLen) s
      ∧ exec (.listReleased f) s = .next (((w.1.modList f l.epoch (fun l => { l with phase := .released })).rouse.addHub (s.ctxOf f).listReady.toNat 1).listEvent f 1 l.epoch 0 (w.2.getD {})))
  ∧ (∀ (s : State) (f : Fn) (m : Mb) (l : BrewList), Admitted listCloseForm s f m → s.seqOpen f = true →
    (tget [] s.seqs.lists f).find? (fun l => l.epoch == BitVec.ofNat 16 ((s.ctl.req f m).u32 0)) = some l → l.phase ≠ .open →
    exec (.listClose f m) s = .next (State.answer (s.modList f (BitVec.ofNat 16 ((s.ctl.req f m).u32 0)) (fun l => { l with closed := true })) f m (s.ctl.req f m) {}))
  ∧ (∀ (s u : State) (f : Fn) (l : BrewList) (rest : List BrewList), Clocked s → tget [] s.seqs.lists f = l :: rest → l.phase = .released → l.closed = true → l.chains = 0 →
    u = { s with seqs := { s.seqs with lists := tmod [] s.seqs.lists f (fun x => x.drop 1) } }.modRec f (fun r => { r with retiredEpoch := l.epoch }) → u.serves f = false →
    exec (.listRetired f) s = .next (State.listEvent { ((u.unlist f l.epoch).sharesDue f) with pages := { ((u.unlist f l.epoch).sharesDue f).pages with
      spillStopped := ((u.unlist f l.epoch).sharesDue f).pages.spillStopped.erase f.val } } f 2 l.epoch 0 {}))
  ∧ (∀ (s : State) (f : Fn) (l : BrewList) (rest : List BrewList), Clocked s → tget [] s.seqs.lists f = l :: rest → (l.phase ≠ .released ∨ l.closed = false ∨ l.chains ≠ 0) →
    exec (.listRetired f) s = .next s)
  ∧ (∀ (s q : State) (f : Nat) (cmd : CmdRef), twf {} s.seqs.seqs = true → twf [] s.seqs.lists = true → twf {} s.pages.recs = true → q = s.openList f cmd →
    (q.pageRec f).stepEpoch = (s.pageRec f).stepEpoch + 1
    ∧ (q.pageRec f).retiredEpoch = (if tget [] s.seqs.lists f = [] then (s.pageRec f).stepEpoch else (s.pageRec f).retiredEpoch)
    ∧ (∃ o : List (Nat × BitVec 17 × BitVec 17 × W32), tget [] q.seqs.lists f = tget [] s.seqs.lists f ++ [{ epoch := (s.pageRec f).stepEpoch + 1, asOpened := o, cmd := cmd }]
      ∧ ∀ i, (s.seq i).st ≠ .free → (s.seq i).fn.toNat = f → (i, (s.seq i).stepTokens, (s.seq i).append, (s.seq i).user) ∈ o)
    ∧ (∀ g, g ≠ f → tget [] q.seqs.lists g = tget [] s.seqs.lists g ∧ q.pageRec g = s.pageRec g)
    ∧ (∀ i, (s.seq i).st = .free ∨ (s.seq i).fn.toNat ≠ f → q.seq i = s.seq i)
    ∧ (∀ i, (s.seq i).st ≠ .free → (s.seq i).fn.toNat = f → (q.seq i).lastUse = freshEpoch ((s.pageRec f).stepEpoch + 1) (s.seq i).lastUse
      ∧ (q.seq i).length = (s.seq i).length
      ∧ ((s.seq i).st = .parkedNoPage ∧ (s.seq i).need ≤ (s.pageRec f).freeFast → (q.seq i).st = .active ∧ (q.seq i).need = 0)
      ∧ (¬ ((s.seq i).st = .parkedNoPage ∧ (s.seq i).need ≤ (s.pageRec f).freeFast) → (q.seq i).st = (s.seq i).st))
    ∧ q.mem = s.mem ∧ q.cores = s.cores ∧ q.pages.appends = s.pages.appends)
  ∧ (∀ e x : BitVec 16, freshEpoch e x = if 2 ^ 14 ≤ (e - x).toNat then e - 0x4000 else x)

/-- Every command of a brew list has its effect (R219, R233, R235 to R238): LIST_OPEN whose two areas lie in writable pages of a served function with fewer than two lists is ACCEPTED with the new epoch; a copy of an append ends, the last with the append; a list with no sequence left to consider is written and told; a built list is copied, released and announced; LIST_CLOSE marks it; a released and closed list with no chain left retires. Where the spec leaves room this follows the readings the model chose (log 20, log 34, log 48). -/
def Obligations.brew_list_commands_complete : Prop :=
  (∀ (s : State) (f : Fn) (m : Mb), Admitted listOpenForm s f m → s.serves f = true → (tget [] s.seqs.lists f).length < 2 →
    (∀ x ∈ grainPieces (s.ctxOf f).listStage.toNat (s.ctxOf f).listLen ++ grainPieces (s.ctxOf f).listLive.toNat (s.ctxOf f).listLen, (match s.listPlace f true x with | .at_ _ => true | .bad _ => false) = true) →
    exec (.listOpen f m) s = .next (State.answer ((s.openList f (s.ctl.req f m).cmd).brew f) f m (s.ctl.req f m)
      { status := stAccepted, reply := natLe 4 (((s.openList f (s.ctl.req f m).cmd).brew f).pageRec f).stepEpoch.toNat }))
  ∧ (∀ (s : State) (f : Fn) (a : Append) (c : CowCopy), Clocked s → s.pages.appends.find? (fun a => a.fn == f.val) = some a → (s.ctxOf f).st ≠ .saved →
    a.copies.find? (fun x => !x.copied) = some c →
    ∃ (b : Append) (t : State), b = { a with copies := mapIf (fun x => x == c) (fun x => { x with copied := true }) a.copies, failed := a.failed.or (s.mem.frameUe c.source) }
      ∧ t = { s with
          mem := (match s.mem.frameUe c.source with
            | some g => s.mem.note g false .uncorrectable
            | none => s.mem.copyFrame c.source c.target)
          pages := { s.pages with appends := mapIf (fun x => x == a) (fun _ => b) s.pages.appends } }
      ∧ exec (.cowCopyDone f) s = .next (if b.copies.all (fun x => x.copied) then (t.appendEnds b).brew f else t))
  ∧ (∀ (s v : State) (f : Fn) (l : BrewList) (look : List Nat), Clocked s → s.serves f = true → s.seqs.building f = some l → l.todo = [] → (∀ a ∈ s.pages.appends, a.fn ≠ f.val) →
    (∀ i ∈ s.pages.invalidations, i.fn ≠ f.val) → (s.ctxOf f).st ≠ .saved → s.lookahead f l.epoch = (v, look) →
    ∃ (w : State) (b : BrewList) (a : Args), w = (State.listWrite f (grainPieces (s.ctxOf f).listStage.toNat (s.ctxOf f).listLen) (b.bytes look.length (s.ctxOf f).clusterEntries.toNat) v).1
      ∧ b = (v.seqs.building f).getD l
      ∧ (∀ x : State, x = State.complete { w with seqs := { w.seqs.modList f b.epoch (fun y => { y with phase := .built }) with lookahead := tset [] w.seqs.lookahead f look } } b.cmd a →
          exec (.listBuilt f) s = .next (if x.serves f then x.paged f (State.prefetchFor f look) else x)))
  ∧ (∀ (s : State) (f src dst : Nat) (x : Nat × Nat) (l : List (Nat × Nat)),
    State.listCopy f src dst (x :: l) s = ((State.listCopy f src dst l (State.listCopy f src dst [x] s).1).1, (State.listCopy f src dst [x] s).2.or (State.listCopy f src dst l (State.listCopy f src dst [x] s).1).2)
    ∧ (∀ p q : Nat, s.listPlace f false x = .at_ p → s.mem.ueIn p x.2 = none → grainPieces (dst + (x.1 - src)) x.2 = [(dst + (x.1 - src), x.2)] → s.listPlace f true (dst + (x.1 - src), x.2) = .at_ q →
        State.listCopy f src dst [x] s = (s.writePhys f q ((s.mem.read p x.2).take x.2), none))
    ∧ (∀ (p : Nat) (e : Args), s.listPlace f false x = .at_ p → s.mem.ueIn p x.2 = none → grainPieces (dst + (x.1 - src)) x.2 = [(dst + (x.1 - src), x.2)] → s.listPlace f true (dst + (x.1 - src), x.2) = .bad e →
        State.listCopy f src dst [x] s = (s, some e))
    ∧ (∀ e : Args, s.listPlace f false x = .bad e → State.listCopy f src dst [x] s = (s, some e))
    ∧ (∀ p g : Nat, s.listPlace f false x = .at_ p → s.mem.ueIn p x.2 = some g →
        State.listCopy f src dst [x] s = ({ s with mem := s.mem.note g false .uncorrectable }, some { status := stUncorrectable, address := g, kind := 1 })))
  ∧ (∀ (s : State) (f : Fn) (m : Mb), Admitted listCloseForm s f m → s.seqOpen f = true →
    (∀ l, (tget [] s.seqs.lists f).find? (fun l => l.epoch == BitVec.ofNat 16 ((s.ctl.req f m).u32 0)) = some l → l.phase = .open) →
    exec (.listClose f m) s = .next (s.answer f m (s.ctl.req f m) { status := stSequenceState }))
  ∧ (∀ (s u v y t : State) (f : Fn) (l : BrewList) (rest : List BrewList) (n : Nat), Clocked s → tget [] s.seqs.lists f = l :: rest → l.phase = .released → l.closed = true → l.chains = 0 →
    u = { s with seqs := { s.seqs with lists := tmod [] s.seqs.lists f (fun x => x.drop 1) } }.modRec f (fun r => { r with retiredEpoch := l.epoch }) →
    u.serves f = true → u.sweep f = .ok (v, n) → y = (v.unlist f l.epoch).sharesDue f →
    State.feedPrefetch f { y with pages := { y.pages with spillStopped := y.pages.spillStopped.erase f.val } } = .ok t → y.serves f = true →
    exec (.listRetired f) s = .next (t.listEvent f 2 l.epoch n {}))
  ∧ (∀ (s u y : State) (f : Fn) (l : BrewList) (rest : List BrewList) (g : Nat), Clocked s → tget [] s.seqs.lists f = l :: rest → l.phase = .released → l.closed = true → l.chains = 0 →
    u = { s with seqs := { s.seqs with lists := tmod [] s.seqs.lists f (fun x => x.drop 1) } }.modRec f (fun r => { r with retiredEpoch := l.epoch }) →
    u.serves f = true → u.sweep f = .error g → y = ((u.stopService f g).unlist f l.epoch).sharesDue f → y.serves f = false →
    exec (.listRetired f) s = .next (State.listEvent { y with pages := { y.pages with spillStopped := y.pages.spillStopped.erase f.val } } f 2 l.epoch 0 {}))
  ∧ (∀ (s : State) (f i : Nat) (e : BitVec 16), twf {} s.seqs.seqs = true →
    ((s.seq i).st ≠ .free ∧ (s.seq i).fn.toNat = f ∧ (s.seq i).listed = true ∧ (s.seq i).listEpoch = e →
      (s.unlist f e).seq i = { s.seq i with listed := false, st := if (s.seq i).st = .retiring then .free else (s.seq i).st })
    ∧ (¬ ((s.seq i).st ≠ .free ∧ (s.seq i).fn.toNat = f ∧ (s.seq i).listed = true ∧ (s.seq i).listEpoch = e) → (s.unlist f e).seq i = s.seq i))

/-- Link frames and discarded frames act on the port: an IDLE renews acknowledgement and credits, a HOLD puts the port in HOLD_SEEN, a NEG gives the peer's identity, a RETRY asks for a resend, a SWAP takes the spare, a discarded frame or a gap asks for RETRY (R251, R252, R254 to R257). Every frame slot of a spoke in use carries a frame: HOLD in a core reset, a link frame that waits, a sequenced frame in its spoke's turn, else IDLE (R250, R254, R257). Where the spec leaves room this follows the readings the model chose (log 36, log 49). -/
def Obligations.link_frames_act_on_their_port : Prop :=
  ((∀ (s : State) (p : PortIx) (k : SpokeIx) (h : FrameHdr) (t : State), Clocked s → (s.port p).hears k = true → t = s.modLink p (fun l => l.refresh k s.now h) →
    exec (.idleFrame p k h) s = .next (if (s.port p).st = .holdSeen then t.modPort p (fun x => { x with st := .up }) else t))
  ∧ (∀ (s : State) (p : PortIx) (k : SpokeIx) (h : FrameHdr), Clocked s → (s.port p).st = .up → (s.port p).spokesGood.getLsbD k = true →
    (∀ o ∈ s.fabric.ops, (s.slot o.slot).ports.contains p.val = false) →
    exec (.holdFrame p k h) s = .next ((s.modLink p (fun l => l.refresh k s.now h)).modPort p (fun x => { x with st := .holdSeen, peerHolds := satAdd x.peerHolds 1 })).drainAll)
  ∧ (∀ (s : State) (p : PortIx) (k : SpokeIx) (h : FrameHdr) (id : BitVec 20) (v : Bool) (port : PortIx) (mask : BitVec 5), Clocked s → (s.port p).spokesGood.getLsbD k = true →
    (s.port p).spokesGood &&& mask = (s.port p).spokesGood → twf {} s.fabric.ports = true → twf {} s.fabric.links = true →
    ((s.port p).st = .align → tget none (s.link p).negSentAt k = none →
      ∃ t : State, exec (.negFrame p k h id v port mask) s = .next t ∧ t.mem = s.mem ∧ t.port p = s.port p
        ∧ (t.link p).peer = some { id := id, idValid := v, port := port, mask := mask } ∧ (t.link p).linkFrames = (s.link p).linkFrames ++ [(some k.val, .neg true 3)]
        ∧ (∀ p' : PortIx, p' ≠ p → t.port p' = s.port p' ∧ t.link p' = s.link p'))
    ∧ (∀ t0 : Nat, (s.port p).st = .align → tget none (s.link p).negSentAt k = some t0 → 512 * nsTicks ≤ s.now - t0 →
      ∃ t : State, exec (.negFrame p k h id v port mask) s = .next t ∧ t.port p = s.port p ∧ (t.link p).negAcked = (s.link p).negAcked ||| BitVec.ofNat 5 (2 ^ k.val)
        ∧ (t.link p).delayNs = ((s.now - t0) / nsTicks - 512) / 2 ∧ (t.link p).linkFrames = (s.link p).linkFrames)
    ∧ ((s.port p).st = .negotiate → ∃ t : State, exec (.negFrame p k h id v port mask) s = .next t
        ∧ t.port p = { s.port p with peerId := id, peerPort := BitVec.ofNat 2 port, peerIdValid := v }))
  ∧ (∀ (s : State) (p : PortIx) (k : SpokeIx) (h : FrameHdr) (expected : BitVec 16) (l : PortLink) (i : Nat) (e : RetryEntry), Clocked s → (s.port p).st = .up →
    (s.port p).spokesGood.getLsbD k = true → twf {} s.fabric.links = true → l = (s.link p).refresh k s.now h →
    l.retry.findIdx? (fun e => e.frame.hdr.frameSeq == expected) = some i → l.retry[i]? = some e → e.resends < 16 →
    ∃ t : State, exec (.retryFrame p k h expected) s = .next t ∧ t.link p = { l with resendAt := some i } ∧ t.port p = s.port p ∧ t.mem = s.mem)
  ∧ (∀ (s : State) (p : PortIx) (k failed sp : SpokeIx) (h : FrameHdr), Clocked s → (s.port p).st = .up → (s.port p).spokesGood.getLsbD k = true →
    (s.port p).spokesGood.getLsbD failed = true → (s.port p).spare = BitVec.ofNat 3 sp → sp ≠ failed → twf {} s.fabric.ports = true → twf {} s.fabric.links = true →
    ∃ t : State, exec (.swapFrame p k h failed sp) s = .next t
      ∧ t.port p = { s.port p with spokesGood := (s.port p).spokesGood &&& ~~~(BitVec.ofNat 5 (2 ^ failed.val)), spare := 7, spokeSwaps := satAdd (s.port p).spokeSwaps 1 }
      ∧ (t.link p).active = (s.link p).active.map (fun j => if j = failed.val then sp.val else j) ∧ (t.link p).linkFrames = (s.link p).linkFrames)
  ∧ (∀ (s : State) (p : PortIx) (k : SpokeIx) (n : Nat) (frame : List Byte), Clocked s → (s.port p).linked = true → (s.port p).spokesGood.getLsbD k = true →
    twf {} s.fabric.ports = true → twf {} s.fabric.links = true →
    ((n ≠ 0 ∨ lineBad frame = true) → ∃ t : State, exec (.frameDiscarded p k n frame) s = .next t ∧ t.link p = (s.link p).askRetry s.now
      ∧ t.port p = (if n = 0 then { s.port p with crcErrors := satAdd (s.port p).crcErrors 1 } else { s.port p with fecUncorrectable := satAdd (s.port p).fecUncorrectable (min n 4) }))
    ∧ (n = 0 → lineBad frame = false → exec (.frameDiscarded p k n frame) s = .next s))
  ∧ (∀ (s : State) (p : PortIx) (g : Nat), Clocked s → (s.link p).gapSince = some g →
    exec (.reorderGapTimeout p) s = .next ((s.upTo (g + usTicks)).modLink p (fun l => l.askRetry (max s.now (g + usTicks))))))
  ∧ (∀ (s : State) (p : PortIx) (k : SpokeIx), Clocked s → (s.port p).hears k = true → twf none s.fabric.sent = true → twf {} s.fabric.links = true → twf 0 (s.link p).lastSent = true →
    ∃ (t : State) (h : FrameHdr) (f : SentFrame), exec (.frameSlotSent p k) s = .next t ∧ tget none t.fabric.sent (5 * p.val + k.val) = some (h, f)
      ∧ h.ackSeq = (s.link p).rxSeq - 1 ∧ h.creditData = (s.link p).freedData ∧ h.creditCtrl = (s.link p).freedCtrl
      ∧ (s.rst.inCore = true → (s.port p).linked = true → f = .hold)
      ∧ ((s.rst.inCore = false ∨ (s.port p).linked = false) → (s.link p).linkFrames = [] → (s.link p).resendAt = none → (s.link p).sendQueue = [] → f = .idle)
      ∧ (∀ (g : Option Nat × LinkFrame) (a : Bool) (w : Nat), (s.rst.inCore = false ∨ (s.port p).linked = false) → (s.link p).linkFrames.find? (fun x => (s.link p).sendable k x) = some g →
        g.2 = .neg a w → f = .neg (s.negOf p))
      ∧ (tget 0 (s.link p).lastSent k ≠ 0 → t.now = max s.now (tget 0 (s.link p).lastSent k + 128 * nsTicks))
      ∧ tget 0 (t.link p).lastSent k = t.now ∧ t.mem = s.mem)

/-- Sequenced frames are taken in order: the next one goes to its buffer and is consumed when it can be, an early one waits in the window, a copy is passed over; then the engine consumes what it can (R252, R253). Where the spec leaves room this follows the readings the model chose (log 36). -/
def Obligations.sequenced_frames_are_taken_in_order : Prop :=
  (∀ (s : State) (p : PortIx) (k : SpokeIx) (h : FrameHdr) (bs : List Byte) (r : ResidueOutcome) (j : JoinInfo) (a : AbortInfo) (time : W64), Clocked s →
    exec (.dataFrame p k h bs r) s = .next (s.takeSeq p k { kind := .data, hdr := h, payload := .data (sliceAt bs 0 1024), residue := r }).drainAll
    ∧ exec (.joinFrame p k h j) s = .next (s.takeSeq p k { kind := .join, hdr := h, payload := .join j }).drainAll
    ∧ exec (.joinAckFrame p k h j) s = .next (s.takeSeq p k { kind := .joinAck, hdr := h, payload := .join j }).drainAll
    ∧ exec (.abortFrame p k h a) s = .next (s.takeSeq p k { kind := .abort, hdr := h, payload := .abort a }).drainAll
    ∧ exec (.tokenFrame p k h time) s = .next (s.takeSeq p k { kind := .token, hdr := h, payload := .token time }).drainAll)
  ∧ (∀ (s : State) (p k : Nat) (f : SeqFrame) (l : PortLink), (s.port p).st = .up → (s.port p).spokesGood.getLsbD k = true → twf {} s.fabric.links = true →
    l = (s.link p).refresh k s.now f.hdr →
    (s.takeSeq p k f).link p = l.receive s.now f ∧ (s.takeSeq p k f).mem = s.mem ∧ (s.takeSeq p k f).fabric.ops = s.fabric.ops ∧ (s.takeSeq p k f).fabric.slots = s.fabric.slots
    ∧ (∀ q : Nat, q ≠ p → (s.takeSeq p k f).link q = s.link q))
  ∧ (∀ (l : PortLink) (now : Nat) (f : SeqFrame), f.hdr.frameSeq = l.rxSeq → l.roomFor f = true → l.window = [] →
    (l.receive now f).rxSeq = l.rxSeq + 1 ∧ (l.receive now f).gapSince = none
    ∧ (l.receive now f).dataBuf = (if f.kind = .data then l.dataBuf ++ [f] else l.dataBuf)
    ∧ (l.receive now f).ctrlBuf = (if f.kind = .data then l.ctrlBuf else l.ctrlBuf ++ [f]))
  ∧ (∀ (l : PortLink) (now : Nat) (f : SeqFrame), 0 < (f.hdr.frameSeq - l.rxSeq).toNat → (f.hdr.frameSeq - l.rxSeq).toNat < 16 →
    l.window.any (fun g => g.hdr.frameSeq == f.hdr.frameSeq) = false →
    l.receive now f = { l with window := l.window ++ [f], gapSince := some (l.gapSince.getD now) })
  ∧ (∀ (l : PortLink) (now : Nat) (f : SeqFrame), 2 ^ 15 ≤ (f.hdr.frameSeq - l.rxSeq).toNat → l.receive now f = l)

/-- Spokes fail and ports come up and go down: a failed active spoke's traffic moves to the spare, without a spare the port goes on degraded and is reported; a spoke silent for 4 us or with too many corrected symbols fails; a port goes through the states of Table 11.4 and is DARK once nothing is heard (R249, R254 to R256). PORT_CONTROL disables and re-enables a port; DEVICE_ID_SET takes effect once (R18, R255). Where the spec leaves room this follows the readings the model chose (log 36). -/
def Obligations.spokes_fail_and_ports_come_up : Prop :=
  ((∀ (s : State) (p : PortIx) (k sp : SpokeIx), Clocked s → (s.port p).st = .up → (s.port p).spokesGood.getLsbD k = true → (s.port p).spare = BitVec.ofNat 3 sp → sp ≠ k →
    exec (.spokeLossOfLight p k) s = .next (((s.modPort p (fun x => { x with spokesGood := (s.port p).spokesGood &&& ~~~(BitVec.ofNat 5 (2 ^ k.val)), spare := 7, spokeSwaps := satAdd x.spokeSwaps 1 })).modLink p
      (fun l => { l.ask [some sp.val] (.swap k sp) with active := (s.link p).active.map (fun j => if j = k.val then sp.val else j), failed := l.failed ||| BitVec.ofNat 5 (2 ^ k.val) })).spareOut 3 p false))
  ∧ (∀ (s : State) (p : PortIx) (k : SpokeIx), Clocked s → (s.port p).st = .up → (s.port p).spokesGood.getLsbD k = true → (s.port p).spare = 7 →
    ∃ u : State, exec (.spokeLossOfLight p k) s = .next (u.spareOut 3 p true)
      ∧ u.fabric.ports = tmod {} s.fabric.ports p (fun x => { x with
          spokesGood := x.spokesGood &&& ~~~(BitVec.ofNat 5 (2 ^ k.val)), degraded := true
          activeLessOne := BitVec.ofNat 2 (((s.link p).active.filter (fun j => j != k.val)).length - 1) }))
  ∧ (∀ (s : State) (p : PortIx) (k : SpokeIx), Clocked s → (s.port p).linked = true → (s.port p).spokesGood.getLsbD k = true → s.othersDeliver p k = true →
    exec (.spokeSilentTimeout p k) s = .next ((s.upTo (tget 0 (s.link p).lastValid k + 4 * usTicks)).failSpoke p k true))
  ∧ (∀ (s : State) (p : PortIx) (k : SpokeIx) (symbols errors : Nat), Clocked s → (s.port p).linked = true → (s.port p).spokesGood.getLsbD k = true → 100000 * errors ≤ symbols →
    exec (.spokeErrorWindow p k symbols errors) s = .next (s.modPort p (fun x => { x with fecCorrected := satAdd x.fecCorrected errors })))
  ∧ (∀ (s : State) (p : PortIx) (k : SpokeIx) (symbols errors : Nat), Clocked s → (s.port p).linked = true → (s.port p).spokesGood.getLsbD k = true → symbols < 100000 * errors →
    exec (.spokeErrorWindow p k symbols errors) s = .next ((s.modPort p (fun x => { x with fecCorrected := satAdd x.fecCorrected errors })).failSpoke p k true))
  ∧ (∀ (s : State) (p : PortIx) (k : SpokeIx), Clocked s → (∀ j : SpokeIx, j ≠ k → tget 0 (s.link p).lastValid j ≤ tget 0 (s.link p).lastValid k) →
    exec (.spokeSilentTimeout p k) s = .next s)
  ∧ (∀ (s u : State) (p : PortIx), Clocked s → (s.port p).linked = true → (∀ o ∈ s.fabric.ops, (s.slot o.slot).ports.contains p.val = false) →
    u = s.upTo (((s.link p).active.map (fun k => tget 0 (s.link p).lastValid k)).foldl max 0 + 4 * usTicks) →
    exec (.portDown p) s = .next ((u.modPort p (fun x => x.dropTo .dark)).modLink p (fun _ => {})).drainAll)
  ∧ (∀ (s : State) (p : PortIx) (mask : BitVec 5), Clocked s → s.rst.optics = true → fourOf mask = true →
    ((s.port p).st = .dark → exec (.portBringupAdvance p .lightReceived mask) s = .next (s.modPort p (fun x => { x with st := .light, laserFeedLost := false })))
    ∧ ((s.port p).st = .light → exec (.portBringupAdvance p .ringsLocked mask) s = .next (s.modPort p (fun x => { x with st := .tune })))
    ∧ ((s.port p).st = .tune → exec (.portBringupAdvance p .fecLocked mask) s = .next ((s.modPort p (fun x => { x with st := .align, spokesGood := mask })).modLink p
        (fun _ => ({} : PortLink).askNeg mask)))
    ∧ (∀ n : NegInfo, (s.port p).st = .align → (s.link p).peer = some n → (s.port p).spokesGood ≠ 0 → (s.port p).spokesGood &&& ~~~(s.link p).negAcked = 0 →
      exec (.portBringupAdvance p .negAcknowledged mask) s = .next (s.modPort p (fun x =>
        { x with st := .negotiate, peerId := n.id, peerPort := BitVec.ofNat 2 n.port, peerIdValid := n.idValid }))))
  ∧ (∀ (s : State) (p : PortIx) (mask : BitVec 5) (n : NegInfo), Clocked s → s.rst.optics = true → (s.port p).st = .negotiate →
    (s.link p).peer = some n → n.mask = (s.port p).spokesGood → bitsOf 5 (s.port p).spokesGood.toNat = [0, 1, 2, 3, 4] → twf {} s.fabric.ports = true → twf {} s.fabric.links = true →
    ∃ t : State, exec (.portBringupAdvance p .masksAgree mask) s = .next t ∧ (t.port p).st = .up ∧ (t.port p).spare = 4 ∧ (t.port p).degraded = false ∧ (t.port p).activeLessOne = 3
      ∧ (t.link p).active = [0, 1, 2, 3] ∧ (t.link p).creditData = 1024 ∧ (t.link p).creditCtrl = 64))
  ∧ ((∀ (s : State) (f : Fn) (m : Mb), Admitted portControlForm s f m → bit ((s.ctl.req f m).u32 4) 0 = true → (s.port ((s.ctl.req f m).u32 0)).st = .disabled →
    exec (.portControl f m) s = .next (State.answer (s.modPort ((s.ctl.req f m).u32 0) (fun x => { x with st := .dark })) f m (s.ctl.req f m) {}))
  ∧ (∀ (s : State) (f : Fn) (m : Mb), Admitted portControlForm s f m → bit ((s.ctl.req f m).u32 4) 0 = true → (s.port ((s.ctl.req f m).u32 0)).st ≠ .disabled →
    exec (.portControl f m) s = .next (s.answer f m (s.ctl.req f m) {}))
  ∧ (∀ (s u : State) (f : Fn) (m : Mb) (p : Nat), Admitted portControlForm s f m → bit ((s.ctl.req f m).u32 4) 0 = false → p = (s.ctl.req f m).u32 0 →
    (∀ o ∈ s.fabric.ops, (s.slot o.slot).ports.contains p = false) → u = (s.modPort p (fun x => x.dropTo .disabled)).modLink p (fun _ => {}) →
    exec (.portControl f m) s = .next (State.answer (if (s.port p).linked then u.drainAll else u) f m (s.ctl.req f m) {}))
  ∧ (∀ (s : State) (f : Fn) (m : Mb), Admitted deviceIdForm s f m → s.fabric.idValid = false → (∀ p : PortIx, (s.port p).st ≠ .up) →
    exec (.deviceIdSet f m) s = .next (State.answer { s with fabric := { s.fabric with deviceId := BitVec.ofNat 20 ((s.ctl.req f m).u32 0), idValid := true } } f m (s.ctl.req f m) {}))
  ∧ (∀ (s : State) (f : Fn) (m : Mb) (p : PortIx), Admitted deviceIdForm s f m → s.fabric.idValid = false → (∀ p' : PortIx, (s.port p').st = .up ↔ p' = p) →
    exec (.deviceIdSet f m) s = .next (State.answer { s with
      fabric := { s.fabric with deviceId := BitVec.ofNat 20 ((s.ctl.req f m).u32 0), idValid := true, links := tmod {} s.fabric.links p (fun l => l.askNeg (s.port p).spokesGood) } } f m (s.ctl.req f m) {}))
  ∧ (∀ (s : State) (f : Fn) (m : Mb), Admitted deviceIdForm s f m → s.fabric.idValid = true →
    exec (.deviceIdSet f m) s = .next (s.answer f m (s.ctl.req f m) { status := stNotPermitted })))

/-- Pelotons: FORM takes the lowest free slot and joins, REFORM ends the slot's operations and joins anew with the next epoch, DISSOLVE frees the slot; a JOIN is repeated every 10 us and a join that is not answered in time ends with PEER_LOST (R260, R261). Where the spec leaves room this follows the readings the model chose (log 25, log 49). -/
def Obligations.pelotons_join_and_dissolve : Prop :=
  (∀ (s : State) (f : Fn) (m : Mb) (i : Nat), Admitted formForm s f m → i < 64 → (s.slot i).valid = false → (∀ j < i, (s.slot j).valid = true) →
    s.formBad ((s.ctl.req f m).slot 0) 0 none = none →
    exec (.pelotonForm f m) s = .next (State.answer (s.startJoin i ((s.ctl.req f m).slot 0) (s.ctl.req f m).cmd) f m (s.ctl.req f m) { status := stAccepted, reply := natLe 4 i, names := f }).drainAll)
  ∧ (∀ (s : State) (f : Fn) (m : Mb), Admitted formForm s f m → (∀ i < 64, (s.slot i).valid = true) →
    exec (.pelotonForm f m) s = .next (s.answer f m (s.ctl.req f m) { status := stNoMemory }).drainAll)
  ∧ (∀ (s : State) (i : Nat) (x : Slot) (c : CmdRef),
    (s.startJoin i x c).fabric.slots = tset {} s.fabric.slots i { x with valid := true, joined := false, broken := false, nextOp := 0, opsWrapped := false }
      ∧ (s.startJoin i x c).fabric.joining = s.fabric.joining ++ [{ slot := i, cmd := c, since := s.now, repeatAt := s.now + 10 * usTicks }]
      ∧ (s.startJoin i x c).fabric.gone = s.fabric.gone.filter (fun g => g.id != x.pelotonId) ∧ (s.startJoin i x c).fabric.ops = s.fabric.ops ∧ (s.startJoin i x c).mem = s.mem ∧ (s.startJoin i x c).fabric.ports = s.fabric.ports)
  ∧ (∀ (s : State) (f : Fn) (m : Mb) (i : Nat) (x : Slot), Admitted reformForm s f m → i = (s.ctl.req f m).u32 0 →
    s.fabric.joining.any (fun j => j.slot == i) = false → (s.slot i).epoch ≠ 0xFFFFFFFF → x = { (s.ctl.req f m).slot 4 with pelotonId := (s.slot i).pelotonId } →
    x.epoch = (s.slot i).epoch + 1 → s.formBad x 4 (some i) = none →
    exec (.pelotonReform f m) s = .next (State.answer ((s.groupChanged i).startJoin i x (s.ctl.req f m).cmd) f m (s.ctl.req f m) { status := stAccepted, names := f }).drainAll)
  ∧ (∀ (s : State) (f : Fn) (m : Mb), Presented reformForm s f m → s.ownsSlot f ((s.ctl.req f m).u32 0 % 64) = false →
    exec (.pelotonReform f m) s = .next (s.answer f m (s.ctl.req f m) { status := stNotPermitted }).drainAll)
  ∧ (∀ (s : State) (f : Fn) (m : Mb) (i : Nat), Admitted dissolveForm s f m → i = (s.ctl.req f m).u32 0 →
    s.fabric.joining.any (fun j => j.slot == i) = false → s.opOn i = none → s.heldOn i = [] →
    exec (.pelotonDissolve f m) s = .next (State.answer { s with fabric := { s.fabric with gone := (s.slot i).asGone :: s.fabric.gone, slots := tset {} s.fabric.slots i {} } } f m (s.ctl.req f m) {}).drainAll)
  ∧ (∀ (s : State) (slot : Fin 64) (j : Joining), Clocked s → s.fabric.joining = [j] → j.slot = slot → (∀ d ∈ (s.slot slot).dirs, j.acked.contains d = true) →
    exec (.joinRepeat slot) s = .next { s.upTo j.repeatAt with fabric := { s.fabric with joining := [{ j with repeatAt := j.repeatAt + 10 * usTicks }] } })
  ∧ (∀ (s u : State) (slot : Fin 64) (j : Joining), Clocked s → s.fabric.joining.find? (fun j => j.slot == slot.val) = some j →
    u = (s.upTo j.repeatAt).modJoining slot (fun j => { j with repeatAt := j.repeatAt + 10 * usTicks }) →
    exec (.joinRepeat slot) s = .next (each ((u.slot slot).dirs.filter (fun d => !j.acked.contains d && (u.port ((u.slot slot).dirPort d)).linked)) (fun d v => v.sendJoin slot d) u))
  ∧ (∀ (s : State) (slot : Fin 64), Clocked s → s.fabric.joining.find? (fun j => j.slot == slot.val) = none → exec (.joinRepeat slot) s = .next s)
  ∧ (∀ (s : State) (slot : Fin 64) (j : Joining) (d : Nat), Clocked s → s.fabric.joining = [j] → j.slot = slot → (s.slot slot).dirs.find? (fun d => !j.acked.contains d) = some d →
    exec (.joinLimitExpired slot) s = .next (State.complete { s.upTo (j.since + (s.slot slot).joinLimit.toNat * msTicks) with fabric := { s.fabric with joining := [] } } j.cmd
      { status := stPeerLost, arg0 := ((s.slot slot).dirId d).toNat }))

/-- Collectives: descriptors are posted, the next one starts when its slot is JOINED and free, taking the slot's NEXT_OP; a complete operation is written, leaves its queue and makes its ADD; an operation that runs out of time ends with PEER_LOST, reason TIMEOUT (R262, R263, R272, R273). A sum frame of a reduction adds this member's operand, element by element, and goes on along the ring, or its sum is complete on its owner (R266, R268). Where the spec leaves room this follows the readings the model chose (log 25). -/
def Obligations.collectives_start_and_complete : Prop :=
  ((∀ (s : State) (f : Fn) (m : Mb), Admitted collPostForm s f m → (s.queue .collective f).descs.length + (s.ctl.req f m).u32 0 % 8 ≤ 128 →
    exec (.collPost f m) s = .next (State.answer (s.setQueue .collective f ((s.queue .collective f).post ((s.ctl.req f m).entries 16 64 ((s.ctl.req f m).u32 0 % 8)))) f m (s.ctl.req f m) {}))
  ∧ (∀ (s : State) (f : Fn) (m : Mb), Admitted collPostForm s f m → 128 < (s.queue .collective f).descs.length + (s.ctl.req f m).u32 0 % 8 →
    exec (.collPost f m) s = .next (s.answer f m (s.ctl.req f m) { status := stBusy }))
  ∧ (∀ (s : State) (f : Fn) (q : QDesc) (d : CollDesc), Clocked s → (s.queue .collective f).halted = false → s.collResumes f = none →
    (s.queue .collective f).descs.find? (fun q => !q.started) = some q → s.mayStart f q = true → d = parseColl q.bytes → s.collCheck f d = none → d.kind = 2 →
    d.epoch = (s.slot d.slot).epoch.toNat → (s.slot d.slot).broken = false → (s.slot d.slot).joined = true → (s.slot d.slot).posX ≠ 0 → twf {} s.fabric.slots = true →
    ∃ (u : State) (o : CollOp), exec (.collectiveStart f) s = .next u.drainAll ∧ u.fabric.ops = s.fabric.ops ++ [o] ∧ o.slot = d.slot ∧ o.fn = f.val ∧ o.opSeq = (s.slot d.slot).nextOp
      ∧ o.digest = d.digest (s.slot d.slot).nextOp ∧ o.desc.started = true
      ∧ u.fabric.slots = tset {} s.fabric.slots d.slot { s.slot d.slot with
        nextOp := (s.slot d.slot).nextOp + 1, opsWrapped := (s.slot d.slot).opsWrapped || (s.slot d.slot).nextOp + 1 == 0 } ∧ u.mem = s.mem)
  ∧ (∀ (s : State) (f : Fn) (q : QDesc), Clocked s → (s.queue .collective f).halted = false → s.collResumes f = none → (s.queue .collective f).descs.find? (fun q => !q.started) = some q →
    (s.mayStart f q = false → exec (.collectiveStart f) s = .next s)
    ∧ (∀ st : Nat, s.mayStart f q = true → s.collCheck f (parseColl q.bytes) = some st → exec (.collectiveStart f) s = .next (s.collRefused f q st 0 nobody))
    ∧ (∀ d : CollDesc, d = parseColl q.bytes → s.mayStart f q = true → s.collCheck f d = none → d.kind < 3 →
      (d.epoch < (s.slot d.slot).epoch.toNat → exec (.collectiveStart f) s = .next (s.collRefused f q stGroupChanged rsnReformed nobody))
      ∧ ((s.slot d.slot).epoch.toNat < d.epoch → exec (.collectiveStart f) s = .next (s.setQueue .collective f ((s.queue .collective f).begin q s.ns)))))
  ∧ (∀ (s u : State) (slot : Fin 64) (o : CollOp), Clocked s → s.opOn slot = some o → s.opDone o = true → (o.d.kind = 2 → u = s) →
    (o.d.kind ≠ 2 → s.writeVirt o.fn o.d.dst o.result = .ok u) → o.d.event = false →
    exec (.collectiveComplete slot) s = .next (State.drainAll
      (if o.d.doneEn then ((u.dropOp slot).collLeaves o.fn o.desc false).addHub o.d.doneCtr o.d.doneAmount else (u.dropOp slot).collLeaves o.fn o.desc false)))
  ∧ (∀ (s : State) (slot : Fin 64) (o : CollOp), Clocked s → s.opOn slot = some o → s.opDone o = false → exec (.collectiveComplete slot) s = .next s)
  ∧ (∀ (s : State) (slot : Fin 64) (o : CollOp), Clocked s → s.opOn slot = some o → o.d.timeout ≠ 0 →
    exec (.collectiveTimeout slot) s = .next ((s.upTo ((o.desc.startNs + 1000 * o.d.timeout) * nsTicks)).endOp o stPeerLost rsnTimeout (o.awaited (s.slot slot)) {} true none false).drainAll)
  ∧ (∀ (s : State) (slot : Fin 64) (f : Nat) (q : QDesc), Clocked s → s.opOn slot = none → (s.heldOn slot).head? = some (f, q) → (parseColl q.bytes).timeout ≠ 0 →
    exec (.collectiveTimeout slot) s = .next (State.sendAborts
      ((s.upTo ((q.startNs + 1000 * (parseColl q.bytes).timeout) * nsTicks)).collRefused f q stPeerLost rsnTimeout { s.heldAwaits f q with reason := BitVec.ofNat 8 rsnTimeout })
      { s.slot slot with epoch := BitVec.ofNat 32 (parseColl q.bytes).epoch } (s.slot slot).nextOp ((parseColl q.bytes).digest (s.slot slot).nextOp)
      { s.heldAwaits f q with reason := BitVec.ofNat 8 rsnTimeout } none)))
  ∧ (∀ (s : State) (o : CollOp) (f : Nat) (bs : List Byte) (acc : List W32), (o.placeX (s.slot o.slot) f).owner ≠ (s.slot o.slot).posX.toNat →
    acc = ((elementsOf 4 256 bs).zip (o.own f)).map (fun e => collAdd o.d.type (BitVec.ofNat 32 e.1) e.2) →
    ∃ u : State, s.reduce o false f bs = u.sendData o 0 false (o.placeX (s.slot o.slot) f).back f (o.placeX (s.slot o.slot) f).back (codeBytes 4 acc)
      ∧ u.fabric.links = s.fabric.links ∧ u.fabric.slots = s.fabric.slots ∧ u.mem = s.mem
      ∧ u.fabric.ops = mapIf (fun x => x.slot == o.slot) (fun x => { x with sums := tset [] x.sums f acc }) s.fabric.ops)

/-- Codec contexts: a quota is set within 64 an engine, CODEC_OPEN takes a FREE context and answers its WORK_NEED, CODEC_POST queues frames, CODEC_CLOSE ends what is queued, a CLOSING context becomes FREE, SURFACE_RELEASE drops OUT (R291 to R294, R296). Where the spec leaves room this follows the readings the model chose (log 1, log 28). -/
def Obligations.codec_contexts_open_and_close : Prop :=
  (∀ (s : State) (f : Fn) (m : Mb) (e g n : Nat), Admitted codecQuotaForm s f m → e = (s.ctl.req f m).u32 0 → g = (s.ctl.req f m).u32 4 → n = (s.ctl.req f m).u32 8 →
    ((tset 0 (s.codec e).quota g n).map (fun x => x.2)).sum ≤ 64 → (s.codec e).held g ≤ n →
    exec (.codecQuota f m) s = .next (State.answer (s.modCodec e (fun x => { x with quota := tset 0 (s.codec e).quota g n })) f m (s.ctl.req f m) { names := g }))
  ∧ (∀ (s : State) (f : Fn) (m : Mb), Admitted codecQuotaForm s f m →
    64 < ((tset 0 (s.codec ((s.ctl.req f m).u32 0)).quota ((s.ctl.req f m).u32 4) ((s.ctl.req f m).u32 8)).map (fun x => x.2)).sum →
    exec (.codecQuota f m) s = .next (s.answer f m (s.ctl.req f m) { status := stBadField, detail := 0x18 }))
  ∧ (∀ (s : State) (f : Fn) (m : Mb) (e : Nat) (x : CodecSet) (b : List Byte), Admitted codecOpenForm s f m → e = (s.ctl.req f m).u32 0 → b = sliceAt (s.ctl.req f m).params 4 72 →
    x = parseCodec b → 4 ≤ e → (s.codec e).held f < tget 0 (s.codec e).quota f → (∃ c < 64, (s.codecCtx e c).st = .free) → x.need true ≤ fieldAt b 0x18 4 →
    rangeFails s f x.workBase (x.need true) = none →
    ∃ c < 64, (s.codecCtx e c).st = .free ∧ exec (.codecOpen f m) s = .next (State.answer (State.modCtx { s with freeCtr := s.freeCtr + 1 } e c (fun _ => openedCtx f b (x.need true))) f m
      (s.ctl.req f m) { reply := natLe 4 c ++ natLe 4 (x.need true) }))
  ∧ (∀ (s : State) (f : Fn) (m : Mb) (e : Nat), Admitted codecOpenForm s f m → e = (s.ctl.req f m).u32 0 → tget 0 (s.codec e).quota f ≤ (s.codec e).held f →
    exec (.codecOpen f m) s = .next (s.answer f m (s.ctl.req f m) { status := stNoMemory }))
  ∧ (∀ (s : State) (f : Fn) (m : Mb) (e c : Nat), Admitted codecCloseForm s f m → e = (s.ctl.req f m).u32 0 → c = (s.ctl.req f m).u32 4 → (s.codecCtx e c).fn.toNat = f →
    ((s.codecCtx e c).st = .open ∨ (s.codecCtx e c).st = .halted) → (s.codecCtx e c).queue = [] →
    exec (.codecClose f m) s = .next (State.answer (s.modCtx e c (fun x => { x with st := .closing, queue := [], closeCmd := some (s.ctl.req f m).cmd })) f m (s.ctl.req f m) { status := stAccepted }))
  ∧ (∀ (s : State) (f : Fn) (m : Mb), Admitted codecCloseForm s f m → (s.codecCtx ((s.ctl.req f m).u32 0) ((s.ctl.req f m).u32 4)).st = .free →
    exec (.codecClose f m) s = .next (s.answer f m (s.ctl.req f m) { status := stSequenceState }))
  ∧ (∀ (s : State) (f : Fn) (m : Mb) (e c : Nat), e = (s.ctl.req f m).u32 0 → c = (s.ctl.req f m).u32 4 → (s.codecCtx e c).st = .closing →
    (Admitted codecCloseForm s f m → exec (.codecClose f m) s = .next (s.answer f m (s.ctl.req f m) { status := stBusy }))
    ∧ (Admitted surfaceForm s f m → exec (.surfaceRelease f m) s = .next (s.answer f m (s.ctl.req f m) { status := stBusy })))
  ∧ (∀ (s : State) (e : CodecIx) (c : Fin 64), Clocked s → (s.codecCtx e c).st = .closing → (s.codec e).runs c = false →
    ∀ t : State, t = (s.modCtx e c CodecCtx.freed).modCodec e (fun y => { y with loaded := y.loaded.filter (fun l => decide (l.1 ≠ c.val)) }) →
    exec (.codecContextFreed e c) s = .next (match (s.codecCtx e c).closeCmd with
      | some cmd => t.complete cmd {}
      | none => t))
  ∧ (∀ (s : State) (f : Fn) (m : Mb) (e c n : Nat), Admitted codecPostForm s f m → e = (s.ctl.req f m).u32 0 → c = (s.ctl.req f m).u32 4 → n = (s.ctl.req f m).u32 8 % 8 →
    (s.codecCtx e c).st = .open → (s.codecCtx e c).fn.toNat = f → (s.codecCtx e c).queue.length + n ≤ 32 →
    exec (.codecPost f m) s = .next (State.answer (s.modCtx e c (fun x => { x with queue := x.queue ++ (s.ctl.req f m).entries 16 64 n })) f m (s.ctl.req f m) {}))
  ∧ (∀ (s : State) (f : Fn) (m : Mb) (e c : Nat), Presented codecPostForm s f m → e = (s.ctl.req f m).u32 0 % 8 → c = (s.ctl.req f m).u32 4 % 64 →
    (s.codecCtx e c).st ≠ .free → (s.codecCtx e c).fn.toNat ≠ f → exec (.codecPost f m) s = .next (s.answer f m (s.ctl.req f m) { status := stNotPermitted }))
  ∧ (∀ (s : State) (f : Fn) (m : Mb) (e c i : Nat), Admitted surfaceForm s f m → e = (s.ctl.req f m).u32 0 → c = (s.ctl.req f m).u32 4 → i = (s.ctl.req f m).u32 8 →
    (s.codecCtx e c).st = .open → (tget {} (s.codecCtx e c).pool i).out = true →
    exec (.surfaceRelease f m) s = .next (State.answer (s.modCtx e c (fun x => { x with pool := tmod {} x.pool i (fun u => { u with out := false }) })) f m (s.ctl.req f m) {}))

/-- Frames: an idle engine takes the next ready descriptor, ascending from the context served last; one that its checks refuse ends at its start; a frame that reads an inaccessible place halts its context (R290, R294, R295, R305). Where the spec leaves room this follows the readings the model chose (log 26, log 27, log 28). -/
def Obligations.codec_frames_start_and_end : Prop :=
  (∀ (s u : State) (e : CodecIx) (c : Nat) (b st : List Byte), Clocked s → (s.codec e).running = none → s.rst.inCore = false → s.rst.past 12 false = true → s.nextFrame e = some (c, b) →
    frameRefusal (decide (4 ≤ e.val)) (parseCodec (s.codecCtx e c).settings) (s.ctxOf (s.codecCtx e c).fn.toNat) b = none → (s.codec e).loaded = some (c, st) → twf {} s.codecs = true →
    u = (s.modCtx e c (fun x => { x with queue := x.queue.drop 1 })).modCodec e (fun y => { y with lastServed := c }) →
    exec (.codecFrameStart e) s = .next ((u.modCodec e (fun y => { y with running := some (c, b), loaded := some (c, st) })).modCtx e c (fun x => { x with begun := true })))
  ∧ (∀ (s u v : State) (e : CodecIx) (c : Nat) (b : List Byte), Clocked s → (s.codec e).running = none → s.rst.inCore = false → s.rst.past 12 false = true → s.nextFrame e = some (c, b) →
    frameRefusal (decide (4 ≤ e.val)) (parseCodec (s.codecCtx e c).settings) (s.ctxOf (s.codecCtx e c).fn.toNat) b = none →
    u = (s.modCtx e c (fun x => { x with queue := x.queue.drop 1 })).modCodec e (fun y => { y with lastServed := c }) → v = u.saveEngine e c →
    exec (.codecFrameStart e) s = .next (match v.engineState e c with
      | .ok st => (v.modCodec e (fun y => { y with running := some (c, b), loaded := some (c, st) })).modCtx e c (fun x => { x with begun := true })
      | .error x => (v.modCodec e (fun y => { y with loaded := none })).frameBadAccess e c (parseFrame (decide (4 ≤ e.val)) b) x))
  ∧ (∀ (s : State) (e : CodecIx) (c st : Nat) (b : List Byte), Clocked s → (s.codec e).running = none → s.rst.inCore = false → s.rst.past 12 false = true → s.nextFrame e = some (c, b) →
    frameRefusal (decide (4 ≤ e.val)) (parseCodec (s.codecCtx e c).settings) (s.ctxOf (s.codecCtx e c).fn.toNat) b = some st →
    exec (.codecFrameStart e) s = .next (((s.modCtx e c (fun x => { x with queue := x.queue.drop 1 })).modCodec e (fun y => { y with lastServed := c })).frameFails e c
      { status := st, user := (parseFrame (decide (4 ≤ e.val)) b).user }))
  ∧ (∀ (s : State) (e : CodecIx), Clocked s → (s.codec e).running = none → exec (.codecFrameDone e) s = .next s)
  ∧ (∀ (s u : State) (e : CodecIx) (c : Nat) (b bs : List Byte) (d : FrameDesc) (x : CodecCtx) (cs : CodecSet), Clocked s → (s.codec e).running = some (c, b) → 4 ≤ e.val →
    d = parseFrame true b → u = s.modCodec e (fun y => { y with running := none }) → x = (u.codecCtx e c).rates d → cs = parseCodec x.settings → cs.random = true → d.last = false →
    engineRead s.mem s.pages x.fn.toNat (inputRows cs d.src) = .ok bs → x.group.length < 7 →
    ∃ (plan : EncodePlan) (qp : Nat), plan = x.plan d.force false ∧ (cs.rc = 0 → qp = if plan.key then cs.qpI else cs.qpB)
      ∧ exec (.codecFrameDone e) s = .next (((State.modCtx { u with freeCtr := u.freeCtr + 1 } e c (fun _ => { x.coded plan.key with
          group := x.group ++ [(plan, inputPicture cs bs)] })).frameAdd d true).frameEnds e c d { key := plan.key, qp := qp, user := d.user }))
  ∧ (∀ (s u : State) (e : CodecIx) (c : Nat) (b : List Byte) (d : FrameDesc) (x : Nat × Args), Clocked s → (s.codec e).running = some (c, b) → e.val < 4 → d = parseFrame false b →
    u = s.modCodec e (fun y => { y with running := none }) → d.length ≠ 0 → engineRead s.mem s.pages (u.codecCtx e c).fn.toNat (grainPieces d.src d.length) = .error x →
    exec (.codecFrameDone e) s = .next (u.frameBadAccess e c d x))
  ∧ (∀ (s u : State) (e : CodecIx) (c : Nat) (b : List Byte) (d : FrameDesc) (r : UnitRead), Clocked s → (s.codec e).running = some (c, b) → e.val < 4 → d = parseFrame false b →
    u = s.modCodec e (fun y => { y with running := none }) → d.length ≠ 0 → u.unitRead e c d = .ok r →
    exec (.codecFrameDone e) s = .next (match unitStops (parseCodec (u.codecCtx e c).settings) r.head, u.unitOf e c r with
      | some n, _ => u.frameHalts e c d { status := stCodecStream, reason := n, user := d.user }
      | none, .error x => u.frameBadAccess e c d x
      | none, .ok w => u.unitDone e c d w))
  ∧ (∀ (s u : State) (e c : Nat) (d : FrameDesc) (r : CodecEnd), twf {} s.codecs = true → twf {} (s.codec e).ctx = true → u = s.frameHalts e c d r →
    ((s.codecCtx e c).st = .open → (u.codecCtx e c).st = .halted) ∧ ((s.codecCtx e c).st ≠ .open → (u.codecCtx e c).st = (s.codecCtx e c).st)
    ∧ (u.codecCtx e c).lastStatus = BitVec.ofNat 16 r.status ∧ (u.codecCtx e c).lastReason = BitVec.ofNat 8 r.reason ∧ (u.codecCtx e c).lastUser = BitVec.ofNat 32 r.user
    ∧ (u.codecCtx e c).framesDone = satAdd (s.codecCtx e c).framesDone 1 ∧ (r.status ≠ 0 → (u.codecCtx e c).errors = satAdd (s.codecCtx e c).errors 1)
    ∧ (u.codecCtx e c).queue = (s.codecCtx e c).queue ∧ (u.codecCtx e c).pool = (s.codecCtx e c).pool
    ∧ (∀ e' c', (e', c') ≠ (e, c) → u.codecCtx e' c' = s.codecCtx e' c') ∧ u.mem = s.mem ∧ (d.doneEn = false → u.share = s.share ∧ u.cores = s.cores))
  ∧ (∀ (s : State) (e c : Nat) (d : FrameDesc) (a : Nat) (x : Args),
    (x.status ≠ stUncorrectable → s.frameBadAccess e c d (a, x) = s.frameHalts e c d { status := x.status, user := d.user, address := a })
    ∧ (x.status = stUncorrectable → s.frameBadAccess e c d (a, x) =
        State.frameHalts { s with mem := s.mem.note x.address false .uncorrectable } e c d { status := stUncorrectable, user := d.user, address := a }))
  ∧ (∀ (s : State) (e : CodecIx) (c : Nat) (b : List Byte), Clocked s → (s.codec e).running = some (c, b) → e.val < 4 → (parseFrame false b).length = 0 →
    exec (.codecFrameDone e) s = .next ((s.modCodec e (fun y => { y with running := none })).flushDone e c (parseFrame false b)))

/-- Stem descriptors: the next queue's head starts, or ends at its start where R309 refuses it; rows are read once their counters are met, each output row is written before its ADD; the last row ends the descriptor; a descriptor that runs out of time halts its queue (R103, R308, R309, R313, R316, R318, R323, R324). Stem queues: descriptors are posted by a function that owns a core of the die, a halted queue is resumed or emptied (R308, R324). Where the spec leaves room this follows the readings the model chose (log 37). -/
def Obligations.stem_descriptors_run_row_by_row : Prop :=
  ((∀ (s : State) (e : StemIx) (f : Nat) (b : List Byte), Clocked s → (s.stem e).running = none → s.rst.past 11 true = true → (s.stem e).next = some (f, b) → stemRefusal (s.ctxOf f) e f b = none →
    exec (.stemDescriptorStart e) s = .next ((s.modStem e (fun x => { x with last := f, queues := tset [] x.queues f ((x.queue f).drop 1) })).stemBegin e { fn := f, desc := b, startAt := s.now }))
  ∧ (∀ (s : State) (e : StemIx) (f st : Nat) (b : List Byte), Clocked s → (s.stem e).running = none → s.rst.past 11 true = true → (s.stem e).next = some (f, b) → stemRefusal (s.ctxOf f) e f b = some st →
    exec (.stemDescriptorStart e) s = .next ((s.modStem e (fun x => { x with last := f, queues := tset [] x.queues f ((x.queue f).drop 1) })).stemEntry e f
      { status := st, kind := stemKind b, user := stemUser b }))
  ∧ (∀ (s : State) (e : StemIx) (r : StemRun) (x : Nat) (bs : List Byte), Clocked s → (s.stem e).running = some r → stemKind r.desc ≠ 3 → r.awaited = [x] → s.gatesMet (parseStem r.desc) x = true → twf {} s.stems = true →
    stemLine s.mem s.pages r.fn (parseStem r.desc) x = .ok bs →
    ∃ t : State, exec (.stemRowWaitMet e) s = .next t
      ∧ (t.stem e).running = some { r with lines := r.lines ++ [(x, bs)], rowsRead := r.rowsRead + 1, waited := r.waits s.now, waitSince := none }
      ∧ t.mem = s.mem ∧ t.share = s.share ∧ t.ctl = s.ctl)
  ∧ (∀ (s : State) (e : StemIx) (r : StemRun) (x : Nat) (l : List Nat), Clocked s → (s.stem e).running = some r → stemKind r.desc ≠ 3 → r.awaited = x :: l → s.gatesMet (parseStem r.desc) x = false →
    exec (.stemRowWaitMet e) s = .next (s.modStemRun e (fun r => { r with waitSince := some (r.waitSince.getD s.now) })))
  ∧ (∀ (s u : State) (e : StemIx) (r : StemRun) (row : List (Nat × List Byte) × Nat), Clocked s → (s.stem e).running = some r → stemKind r.desc ≠ 3 → r.rowsDone < (parseStem r.desc).rows → r.awaited = [] →
    stemRowPieces s r ((parseStem r.desc).y0 + r.rowsDone) = .ok row → firstBad (engineWrites s.mem s.pages r.fn row.1) = none →
    u = (if (parseStem r.desc).rowEn then (s.engineWrite r.fn row.1).1.addCtr (fieldCluster (parseStem r.desc).rowCtr) (parseStem r.desc).rowCtr 1 else (s.engineWrite r.fn row.1).1) →
    exec (.stemRowDone e) s = .next ((u.modStemRun e (fun r => r.announce row.2)).rowWaitMet e))
  ∧ (∀ (s : State) (e : StemIx) (r : StemRun) (b : Nat × Args), Clocked s → (s.stem e).running = some r → stemKind r.desc ≠ 3 → r.rowsDone < (parseStem r.desc).rows → r.awaited = [] →
    stemRowPieces s r ((parseStem r.desc).y0 + r.rowsDone) = .error b → exec (.stemRowDone e) s = .next (s.stemBad e r b))
  ∧ (∀ (s : State) (e : StemIx) (r : StemRun), Clocked s → (s.stem e).running = some r → stemKind r.desc ≠ 3 → (parseStem r.desc).rows ≤ r.rowsDone →
    exec (.stemDescriptorDone e) s = .next (if (parseStem r.desc).event then (s.modStem e (fun x => { x with running := none })).stemEntry e r.fn (r.ending s.now)
      else s.modStem e (fun x => { x with running := none })))
  ∧ (∀ (s : State) (e : StemIx) (r : StemRun), Clocked s → (s.stem e).running = some r → stemTimeoutUs r.desc ≠ 0 →
    exec (.stemTimeout e) s = .next ((s.upTo (r.startAt + stemTimeoutUs r.desc * usTicks)).stemFails e r stSlipLimit 1 0))
  ∧ (∀ (s : State) (e : StemIx) (r : StemRun), Clocked s → (s.stem e).running = some r → stemKind r.desc = 3 → r.count = none → (parseDet r.desc).countAddr = 0 →
    ((parseDet r.desc).waitEn = false ∨ s.share.ctrBad (fieldCluster (parseDet r.desc).waitCtr) (parseDet r.desc).waitCtr = false ∧ meets (s.share.ctr (fieldCluster (parseDet r.desc).waitCtr) (parseDet r.desc).waitCtr) (BitVec.ofNat 32 (parseDet r.desc).waitThr) = true) →
    exec (.detectWaitMet e) s = .next (s.modStemRun e (fun x => { x with count := some (parseDet r.desc).count, waited := x.waits s.now, waitSince := none })))
  ∧ (∀ (s : State) (e : StemIx) (r : StemRun), Clocked s → (s.stem e).running = some r → stemKind r.desc = 3 → r.count = none → (parseDet r.desc).waitEn = true →
    meets (s.share.ctr (fieldCluster (parseDet r.desc).waitCtr) (parseDet r.desc).waitCtr) (BitVec.ofNat 32 (parseDet r.desc).waitThr) = false →
    exec (.detectWaitMet e) s = .next (s.modStemRun e (fun r => { r with waitSince := some (r.waitSince.getD s.now) })))
  ∧ (∀ (s u : State) (e : Nat) (r : StemRun) (st rs a : Nat), twf {} s.stems = true → u = s.stemFails e r st rs a →
    (u.stem e).running = none ∧ r.fn ∈ (u.stem e).halted ∧ (∀ g, g ≠ r.fn → (g ∈ (u.stem e).halted ↔ g ∈ (s.stem e).halted))
    ∧ (u.stem e).queues = (s.stem e).queues ∧ (u.stem e).last = (s.stem e).last ∧ (∀ e', e' ≠ e → u.stem e' = s.stem e')
    ∧ (stemKind r.desc ≠ 3 → (parseStem r.desc).rows ≤ r.rowsDone → u.mem = s.mem) ∧ u.cores = s.cores ∧ u.share = s.share
    ∧ ∃ v : State, v.now = s.now ∧ (v.stem e).running = none ∧ u = v.stemEntry e r.fn { r.ending s.now with status := st, reason := rs, address := a })
  ∧ (∀ (s : State) (e : Nat) (r : StemRun) (a : Nat) (x : Args),
    (x.status ≠ stUncorrectable → s.stemBad e r (a, x) = s.stemFails e r x.status 0 a)
    ∧ (x.status = stUncorrectable → s.stemBad e r (a, x) = State.stemFails { s with mem := s.mem.note x.address false .uncorrectable } e r stUncorrectable 0 a)))
  ∧ ((∀ (s : State) (f : Fn) (m : Mb) (e n : Nat), Admitted stemPostForm s f m → e = (s.ctl.req f m).u32 0 → n = (s.ctl.req f m).u32 4 % 4 →
    (s.ctxOf f).coreMask.toNat / 2 ^ (64 * e) % 2 ^ 64 ≠ 0 → ((s.stem e).queue f).length + n ≤ 64 →
    exec (.stemPost f m) s = .next (State.answer (s.modStem e (fun x => { x with queues := tset [] x.queues f (x.queue f ++ (s.ctl.req f m).entries 16 128 n) })) f m (s.ctl.req f m) {}))
  ∧ (∀ (s : State) (f : Fn) (m : Mb), Admitted stemPostForm s f m → (s.ctxOf f).coreMask.toNat / 2 ^ (64 * (s.ctl.req f m).u32 0) % 2 ^ 64 = 0 →
    exec (.stemPost f m) s = .next (s.answer f m (s.ctl.req f m) { status := stNotPermitted }))
  ∧ (∀ (s : State) (f : Fn) (m : Mb) (e : Nat), Admitted stemResumeForm s f m → e = (s.ctl.req f m).u32 0 → (s.stem e).halted.contains f.val = true →
    exec (.stemResume f m) s = .next (State.answer (s.modStem e (fun x => { x with
      halted := x.halted.filter (fun g => g != f.val), queues := if bit ((s.ctl.req f m).u32 4) 0 then tset [] x.queues f [] else x.queues })) f m (s.ctl.req f m) {}))
  ∧ (∀ (s : State) (f : Fn) (m : Mb), Admitted stemResumeForm s f m → (s.stem ((s.ctl.req f m).u32 0)).halted.contains f.val = false →
    exec (.stemResume f m) s = .next (s.answer f m (s.ctl.req f m) { status := stSequenceState })))

/-- A function-level reset: it begins at the configuration write and empties what the function asked for; a block still running after 1 ms ends; it completes once the function's blocks have left the cores and the page engine has finished (R227, R348, R357, R358). What begins a function-level reset leaves: FLR_ACTIVE set; the function's mailboxes at their Reset values, its commands and those of PF0 that name it gone, its ring not set with no backlog; its sequences parked or free, its lists, lookahead set and context commands gone; its page engine told to start nothing more; its queued entries, waiting chains and table loads gone from every core, while a running block goes on; its mover and host-copy queues empty, started grains apart, every frame FILLING for it FILLED; its collectives ended silently and its slots free; its codec contexts freed and its stem queues empty; each of these leaves every other function's part as it was (R248, R275, R306, R325, R342, R357). Where the spec leaves room this follows the readings the model chose (log 18, log 22, log 50). -/
def Obligations.a_function_is_reset : Prop :=
  ((∀ (s : State) (f : Fn), Clocked s → s.host.configures f = true → f.val ≠ 0 → s.wake.host.resetting f = false →
    exec (.flr f) s = .next (State.flrBegin f s.wake))
  ∧ (∀ (s : State) (f : Fn), Clocked s → s.host.configures f = false → s.host.link ≠ .l0 → s.host.link ≠ .l1 → exec (.flr f) s = .next s)
  ∧ (∀ (s : State) (f : Fn), Clocked s → (s.host.link = .l0 ∨ s.host.link = .l1) → s.host.configReady = false →
    exec (.flr f) s = .next { s.wake with host := { s.wake.host with reply := .retryStatus } })
  ∧ (∀ (s : State) (f : Fn), Clocked s → s.host.configures f = true → s.wake.host.resetting f = true → exec (.flr f) s = .next s.wake)
  ∧ (∀ (s : State) (f : Fn) (c : CoreIx) (j : FlrJob) (r : RunBlock), Clocked s → (s.host.fn f).flr = some j → (s.core c).run = some r → r.fn = f → r.ending = none →
    exec (.flrBlockLimit f c) s = .next ((s.endAt c (max s.now (j.since + msTicks)) (blockFault faultPreempted)).modRun c (fun r =>
      { r with silent := r.silent || r.ending == some (blockFault faultPreempted) })))
  ∧ (∀ (s : State) (f : Fn), Clocked s → (s.host.fn f).flr.isSome = true → s.flrReady f = true → exec (.flrComplete f) s = .next (s.flrEnd f))
  ∧ (∀ (s : State) (f : Fn), Clocked s → s.flrReady f = false → exec (.flrComplete f) s = .next s)
  ∧ (∀ (s : State) (num : Fin 16), Clocked s → s.host.configures 0 = true → num.val ≠ 0 → s.wake.host.vfsEnabled = 0 →
    exec (.vfEnable num) s = .next { s.wake with host := { s.wake.host with vfsEnabled := BitVec.ofNat 4 num } })
  ∧ (∀ (s : State), Clocked s → s.host.configures 0 = true → s.wake.host.vfsEnabled = 0 →
    exec (.vfEnable 0) s = .next { s.wake with host := { s.wake.host with vfsEnabled := 0 } }))
  ∧ ((∀ (s a b c d : State) (f : Nat), (s.host.fn f).flr = none →
    a = State.flrNamed { s with host := s.host.setFn f { s.host.fn f with flr := some { since := s.now } } } f →
    b = State.unrouse { a with ctl := a.ctl.flr f, seqs := a.seqs.flr f, pages := a.pages.flr f, cores := a.cores.flr f } a →
    c = (b.queueCut .pannier f).queueCut .hostCopy f →
    d = State.flrFabric { c with mem := c.mem.filled f } f →
    State.flrBegin f s = State.nextQuote (each (List.range 4) (fun e s => State.stemFlr f s e) { d with codecs := each (d.codecs.map (·.1)) (fun e t => tmod {} t e (fun x => x.flr f)) d.codecs }))
  ∧ (∀ (s : State) (f : Nat), (s.host.fn f).flr.isSome = true → State.flrBegin f s = s)
  ∧ (∀ (s : State) (f : Nat) (p : InProgress), s.ctl.inProgress = [p] →
    s.flrNamed f = (if f ≠ 0 ∧ p.cmd.fn = 0 ∧ p.names = f then State.commandEntry { s with ctl := { s.ctl with inProgress := [] } } p.cmd { status := stSequenceState, detail := 3 } else s))
  ∧ (∀ (c : CtlState) (f : Nat), twf {} c.rings = true →
    (∀ e, e ∈ (c.flr f).mailbox ↔ e ∈ c.mailbox ∧ e.1 / 8192 ≠ f) ∧ (∀ q, q ∈ (c.flr f).posted ↔ q ∈ c.posted ∧ q.1 ≠ f)
    ∧ (∀ q, q ∈ (c.flr f).inProgress ↔ q ∈ c.inProgress ∧ q.cmd.fn ≠ f) ∧ (∀ q, q ∈ (c.flr f).services ↔ q ∈ c.services ∧ q.1.fn ≠ f)
    ∧ ((c.flr f).ring f).valid = false ∧ ((c.flr f).ring f).backlog = [] ∧ ((c.flr f).ring f).owed = none ∧ (∀ g, g ≠ f → (c.flr f).ring g = c.ring g))
  ∧ (∀ (q : SeqState) (f i : Nat), twf {} q.seqs = true →
    tget {} (q.flr f).seqs i =
      (if (tget {} q.seqs i).st = .free ∨ (tget {} q.seqs i).fn.toNat ≠ f then tget {} q.seqs i
        else if (tget {} q.seqs i).st = .retiring then { tget {} q.seqs i with st := .free, listed := false }
        else { tget {} q.seqs i with st := .parkedHost, parkReason := 3, listed := false, need := 0 }))
  ∧ (∀ (q : SeqState) (f g : Nat), twf [] q.lists = true → twf [] q.lookahead = true → twf none q.destroying = true → twf none q.preempting = true → twf none q.restoring = true →
    (q.flr f).ctx = q.ctx ∧ tget [] (q.flr f).lists g = (if g = f then [] else tget [] q.lists g) ∧ tget [] (q.flr f).lookahead g = (if g = f then [] else tget [] q.lookahead g)
    ∧ tget none (q.flr f).destroying g = (if g = f then none else tget none q.destroying g) ∧ tget none (q.flr f).preempting g = (if g = f then none else tget none q.preempting g)
    ∧ tget none (q.flr f).restoring g = (if g = f then none else tget none q.restoring g))
  ∧ (∀ (p : PageState) (f g : Nat), twf {} p.recs = true →
    (p.flr f).pageRec g = (if g = f then { p.pageRec f with enabled := false } else p.pageRec g)
    ∧ (∀ m, m ∈ (p.flr f).prefetches ↔ m ∈ p.prefetches ∧ (m.fn ≠ f ∨ m.frames.isSome = true)) ∧ (∀ w, w ∈ (p.flr f).shareWaits ↔ w ∈ p.shareWaits ∧ w.cmd.fn ≠ f)
    ∧ (∀ r, r ∈ (p.flr f).reenables ↔ r ∈ p.reenables ∧ r.1 ≠ f) ∧ (p.flr f).spills = p.spills ∧ (p.flr f).appends = p.appends ∧ (p.flr f).invalidations = p.invalidations)
  ∧ (∀ (x : CoresState) (f c : Nat), twf {} x.cores = true → (x.flr f).core c = (x.core c).flr f)
  ∧ (∀ (x : CoresState) (f : Nat),
    (∀ l, l ∈ (x.flr f).caddyLoads ↔ l ∈ x.caddyLoads ∧ l.fn ≠ f) ∧ (∀ l, l ∈ (x.flr f).codeLoads ↔ l ∈ x.codeLoads ∧ l.fn ≠ f)
    ∧ (x.flr f).spad = x.spad ∧ (x.flr f).acc = x.acc ∧ (x.flr f).codeTables = x.codeTables)
  ∧ (∀ (k : CoreState) (f g : Nat), twf [] k.queues = true → twf none k.successors = true →
    tget [] (k.flr f).queues g = (if g = f then [] else tget [] k.queues g) ∧ tget none (k.flr f).successors g = (if g = f then none else tget none k.successors g)
    ∧ (∀ l, (k.flr f).load = some l ↔ k.load = some l ∧ l.fn ≠ f) ∧ (∀ l, l ∈ (k.flr f).kept ↔ l ∈ k.kept ∧ l.fn ≠ f)
    ∧ (k.flr f).run = k.run ∧ (k.flr f).sregs = k.sregs ∧ (k.flr f).mover = k.mover ∧ (k.flr f).caddy = k.caddy)
  ∧ (∀ (s : State) (f : Nat), (∀ q ∈ (s.queue .pannier f).descs, q.started = false ∨ (parseDesc .pannier q.bytes).fence = true) →
    s.queueCut .pannier f = { s with mem := { s.mem with movers := tset {} s.mem.movers f {} } })
  ∧ (∀ (s : State) (f : Nat), (∀ q ∈ (s.queue .hostCopy f).descs, q.started = false ∨ (parseDesc .hostCopy q.bytes).fence = true) →
    s.queueCut .hostCopy f = { s with mem := { s.mem with hostq := tset {} s.mem.hostq f {} } })
  ∧ (∀ (s : State) (f : Nat) (q : QDesc) (d : RDesc), q.started = true → (parseDesc .pannier q.bytes).fence = false → d = parsePannier q.bytes →
    s.descCut .pannier f q = { s with
      freeCtr := s.freeCtr + 1
      mem := (written s.freeCtr true 0 ((List.range d.count).map (moveGrain s f d q.early))).foldl (fun m t => m.moverStore f s.rst.pannierFilled t) s.mem })
  ∧ (∀ (m : MemState) (f x : Nat), tget .empty (m.filled f).fill x = (if tget .empty m.fill x = .filling f then .filled else tget .empty m.fill x))
  ∧ (∀ (s : State) (f : Nat) (mine : List Nat), (∀ o ∈ s.fabric.ops, o.fn ≠ f) → mine = (List.range 64).filter (fun i => (s.slot i).valid && (s.slot i).fn.toNat == f) →
    s.flrFabric f = State.drainAll { s with fabric := each mine (fun i x => x.freeSlot i) { s.fabric with
      queues := tset {} s.fabric.queues f {}
      joining := s.fabric.joining.filter (fun j => !mine.contains j.slot) } })
  ∧ (∀ (s : State) (o : CollOp) (st reason : Nat) (a : AbortInfo) (e : Args) (abort : Bool) (skip : Option Nat), ∀ x ∈ (s.endOp o st reason a e abort skip true).fabric.ops, x ∈ s.fabric.ops ∧ x.slot ≠ o.slot)
  ∧ (∀ (x : FabricState) (i j : Nat), twf {} x.slots = true → (x.freeSlot i).slot j = (if j = i then {} else x.slot j))
  ∧ (∀ (x : CodecEngine) (f c : Nat), tget {} (x.flr f).ctx c = (if (tget {} x.ctx c).fn.toNat = f then (tget {} x.ctx c).freed else tget {} x.ctx c))
  ∧ (∀ (x : CodecEngine) (f c : Nat) (b : List Byte), (x.flr f).running = some (c, b) ↔ x.running = some (c, b) ∧ ((tget {} x.ctx c).fn.toNat ≠ f ∨ (tget {} x.ctx c).st = .free))
  ∧ (∀ (x : CodecCtx), x.freed.st = .free ∧ x.freed.queue = [] ∧ x.freed.closeCmd = none ∧ x.freed.pending = [] ∧ x.freed.framesDone = x.framesDone ∧ x.freed.errors = x.errors)
  ∧ (∀ (s : State) (f e : Nat), (∀ r, (s.stem e).running = some r → r.fn ≠ f) →
    State.stemFlr f s e = s.modStem e (fun x => { x with queues := tset [] x.queues f [], halted := x.halted.filter (· != f) }))
  ∧ (∀ (s u : State) (f e : Nat) (r : StemRun), (s.stem e).running = some r → r.fn = f →
    u = s.modStem e (fun x => { x with queues := tset [] x.queues f [], halted := x.halted.filter (· != f) }) →
    State.stemFlr f s e = (u.someWritten f (u.stemRest r 1)).modStem e (fun x => { x with running := none })))

/-- When a function-level reset ends, nothing of the function is left in the scratchpads and accumulators, its code tables are EMPTY and its context is ABSENT with its allotments (R78, R193, R240, R357). Scrubbing makes what one record allots and another does not read zero, and touches nothing else of the scratchpads, accumulators and counters (R78, R240). Where the spec leaves room this follows the readings the model chose (log 18). -/
def Obligations.a_reset_function_leaves_nothing : Prop :=
  (∀ (s : State) (f : Nat), twf {} s.seqs.ctx = true → ∃ t : State, s.flrEnd f = t.flrNext
    ∧ (∀ e ∈ t.cores.spad, (s.ctxOf f).hasBank (e.1 / 2 ^ 22) (e.1 % 2 ^ 22 / 2 ^ 18) = false)
    ∧ (∀ e ∈ t.cores.acc, (s.ctxOf f).hasUnit (e.1 / 2 ^ 18) (e.1 % 2 ^ 11 / 128) = false)
    ∧ (∀ e ∈ t.cores.codeTables, e.1 < 16 * f ∨ 16 * f + 16 ≤ e.1)
    ∧ t.ctxOf f = { s.ctxOf f with st := .absent })
  ∧ (∀ (s : State) (old keep : CtxRec) (k : Nat), twf 0 s.cores.spad = true → twf 0 s.cores.acc = true →
    tget 0 (s.scrubAllot old keep).cores.spad k
      = (if old.hasBank (k / 2 ^ 22) (k % 2 ^ 22 / 2 ^ 18) && !keep.hasBank (k / 2 ^ 22) (k % 2 ^ 22 / 2 ^ 18) then 0 else tget 0 s.cores.spad k)
    ∧ tget 0 (s.scrubAllot old keep).cores.acc k
      = (if old.hasUnit (k / 2 ^ 18) (k % 2 ^ 11 / 128) && !keep.hasUnit (k / 2 ^ 18) (k % 2 ^ 11 / 128) then 0 else tget 0 s.cores.acc k)
    ∧ (s.scrubAllot old keep).cores.cores = s.cores.cores ∧ (s.scrubAllot old keep).mem = s.mem)

/-- Reset sources: each sets its bit of RESET_CAUSE and takes its level, brown-out and clock failure with FAULT_N; a reset of the same or a higher level in progress takes no other of its level or below (R348, R361, R365, R377 to R379, R409). A power-on resets everything but the fuses, the serial store and what lies outside; a system reset keeps the always-on block's record as well; both leave memory, cores, counters, contexts and queues at their Reset values (R377, R378, R392). Where the spec leaves room this follows the readings the model chose (log 19). -/
def Obligations.reset_sources_take_their_levels : Prop :=
  ((∀ s : State, s.rst.current = none → s.sec.transitionResetAt = none → exec .systemReset s = .next s.systemReset)
  ∧ (∀ (s : State) (t : Nat), s.rst.current = none → s.sec.transitionResetAt = some t → exec .systemReset s = .next (s.upTo t).systemReset)
  ∧ (∀ s : State, s.rst.current = none → exec .coreReset s = .next (s.coreResetNow false))
  ∧ (∀ (s : State) (c : ResetNow), s.rst.current = some c → exec .coreReset s = .next s)
  ∧ (∀ (s : State) (t : Nat) (rest : List (ResetLevel × Nat)), Clocked s → s.rst.software = (.system, t) :: rest → s.rst.current = none → s.rst.pins.vaoUp = true →
    ∃ u : State, exec .softwareResetStart s = .next u.systemReset ∧ u.rst = { s.rst with software := rest, cause := s.rst.cause ||| 0x10 } ∧ u.now = max s.now t)
  ∧ (∀ s : State, s.rst.pins.perstAsserted = false → s.rst.pins.vaoUp = true → s.rst.current = none →
    ∃ t : State, exec .perstNAssert s = .next t ∧ t.rst.cause = s.rst.cause ||| 0x04 ∧ t.rst.pins.perstAsserted = true ∧ t.rst.current.isSome = true ∧ t.mem = (if s.clocks.thermtrip then { selfRefresh := true, cells := s.mem.cells, ue := s.mem.ue } else {}) ∧ t.cores = {})
  ∧ (∀ s : State, exec .perstNDeassert s = .next { s with rst := { s.rst with pins := { s.rst.pins with perstAsserted := false } } })
  ∧ (∀ s : State, (s.sec.lifecycle = 0 ∨ s.sec.lifecycle = 1 ∨ (s.sec.lifecycle = 3 ∧ s.sec.debugOpen = true)) → s.rst.pins.vaoUp = true → s.rst.current = none →
    exec (.debugResetRequest true) s = .next (State.systemReset { s with rst := { s.rst with cause := s.rst.cause ||| 0x20 } })
    ∧ exec (.debugResetRequest false) s = .next (State.coreResetNow { s with rst := { s.rst with cause := s.rst.cause ||| 0x20 } } false))
  ∧ (∀ (s : State) (b : Bool), (s.sec.lifecycle = 2 ∨ s.sec.lifecycle = 4 ∨ (s.sec.lifecycle = 3 ∧ s.sec.debugOpen = false)) → exec (.debugResetRequest b) s = .next s)
  ∧ (∀ (s : State) (rail : Fin 12), rail.val ≠ 10 → s.rst.pins.vaoUp = true → s.rst.current = none →
    ∃ t : State, exec (.brownOut rail) s = .next t ∧ t.rst.cause = s.rst.cause ||| 0x02 ∧ t.rst.pins.faultN = false ∧ t.rst.pins.railsLow = insertNat rail s.rst.pins.railsLow
      ∧ t.mem = (if s.clocks.thermtrip then { selfRefresh := true, cells := if memRail rail then [] else s.mem.cells, ue := if memRail rail then [] else s.mem.ue } else {})
      ∧ t.cores = {} ∧ (s.sec.transition = none → t.rst.nor = s.rst.nor))
  ∧ (∀ s : State, s.rst.pins.vaoUp = true → s.rst.current = none →
    ∃ t : State, exec .clockFailure s = .next t ∧ t.rst.cause = s.rst.cause ||| 0x40 ∧ t.rst.pins.faultN = false ∧ t.rst.pins.referencePresent = false ∧ t.mem = (if s.clocks.thermtrip then { selfRefresh := true, cells := s.mem.cells, ue := s.mem.ue } else {}) ∧ t.cores = {})
  ∧ (∀ s : State, s.rst.pins.vaoUp = true → exec .clk32kLoss s = .next { s with clocks := { s.clocks with aoInternal := true } })
  ∧ (∀ s : State, Clocked s → s.rst.past 5 true = true → s.now < s.rst.watchdogUntil → s.rst.pins.vaoUp = true → s.rst.current = none →
    ∃ t : State, exec .controllerLockup s = .next t ∧ t.rst.cause = s.rst.cause ||| 0x08 ∧ t.rst.pins.faultN = false ∧ t.mem = {} ∧ t.cores = {})
  ∧ (∀ s : State, Clocked s → s.rst.past 5 true = true → s.rst.watchdogUntil ≤ s.now → s.rst.pins.vaoUp = true → s.rst.current = none →
    ∃ t u : State, exec .controllerLockup s = .next t ∧ u = State.coreResetNow { s with rst := { s.rst with cause := s.rst.cause ||| 0x80 } } true
      ∧ t = { u with rst := { u.rst with pins := { u.rst.pins with faultN := false } } })
  ∧ (∀ (s : State) (t : Nat) (rest : List (ResetLevel × Nat)), Clocked s → s.rst.software = (.core, t) :: rest → s.rst.current = none → s.rst.pins.vaoUp = true →
    ∃ u : State, exec .softwareResetStart s = .next (u.coreResetNow false) ∧ u = { s with rst := { s.rst with software := rest, cause := s.rst.cause ||| 0x10 }, now := max s.now t })
  ∧ (∀ (s : State) (c : ResetNow), s.rst.current = some c → c.level ≠ .core → s.rst.pins.vaoUp = true →
    (s.sec.transitionResetAt = none → exec .systemReset s = .next s)
    ∧ (s.rst.pins.perstAsserted = false →
      exec .perstNAssert s = .next { s with rst := { s.rst with cause := s.rst.cause ||| 0x04, pins := { s.rst.pins with perstAsserted := true } } })
    ∧ exec .clockFailure s = .next { s with rst := { s.rst with cause := s.rst.cause ||| 0x40, pins := { s.rst.pins with referencePresent := false } } }
    ∧ (∀ rail : Fin 12, rail.val ≠ 10 →
      ∃ t : State, exec (.brownOut rail) s = .next t ∧ t.rst = { s.rst with cause := s.rst.cause ||| 0x02, pins := { s.rst.pins with railsLow := insertNat rail s.rst.pins.railsLow } }
        ∧ t.mem = s.mem.railLost rail ∧ t.cores = s.cores ∧ t.sec = s.sec ∧ t.fabric = s.fabric))
  ∧ (∀ (s : State) (c : ResetNow) (b : Bool), s.rst.current = some c → c.level ≠ .core → s.rst.pins.vaoUp = true → (s.sec.lifecycle = 0 ∨ s.sec.lifecycle = 1 ∨ (s.sec.lifecycle = 3 ∧ s.sec.debugOpen = true)) →
    exec (.debugResetRequest b) s = .next { s with rst := { s.rst with cause := s.rst.cause ||| 0x20 } })
  ∧ (∀ (s : State) (c : ResetNow) (l : ResetLevel) (t : Nat) (rest : List (ResetLevel × Nat)), Clocked s → s.rst.current = some c → s.rst.software = (l, t) :: rest → s.rst.pins.vaoUp = true →
    levelRank l ≤ levelRank c.level →
    exec .softwareResetStart s = .next { s with rst := { s.rst with software := rest, cause := s.rst.cause ||| 0x10 }, now := max s.now t })
  ∧ (∀ (s : State) (c : ResetNow), s.rst.current = some c → c.level = .core → s.rst.pins.vaoUp = true →
    (s.sec.transitionResetAt = none → exec .systemReset s = .next s.systemReset)
    ∧ (s.rst.pins.perstAsserted = false →
      exec .perstNAssert s = .next (State.systemReset { s with rst := { s.rst with cause := s.rst.cause ||| 0x04, pins := { s.rst.pins with perstAsserted := true } } }))
    ∧ (∀ (t : Nat) (rest : List (ResetLevel × Nat)), Clocked s → s.rst.software = (.system, t) :: rest →
      exec .softwareResetStart s = .next (State.systemReset { s with rst := { s.rst with software := rest, cause := s.rst.cause ||| 0x10 }, now := max s.now t }))
    ∧ (∀ rail : Fin 12, rail.val ≠ 10 → ∃ t : State, exec (.brownOut rail) s = .next t ∧ t.rst.cause = s.rst.cause ||| 0x02 ∧ t.rst.current = some { level := .system, step := 2, lastAt := s.now } ∧ t.cores = {})))
  ∧ ((∀ s : State, exec .powerOn s = .next s.powerOnReset)
  ∧ (∀ s : State, exec .vaoLoss s = .next s.vaoLost)
  ∧ (∀ s : State, s.vaoLost.rst.pins.vaoUp = false ∧ s.vaoLost.clocks.thermtrip = s.clocks.thermtrip ∧ s.vaoLost.rst.pins.faultN = s.rst.pins.faultN ∧ s.vaoLost.mem = {})
  ∧ (∀ s : State, s.powerOnReset.mem = {} ∧ s.powerOnReset.cores = {} ∧ s.powerOnReset.share = {} ∧ s.powerOnReset.seqs = {} ∧ s.powerOnReset.pages = {} ∧ s.powerOnReset.fabric = {}
    ∧ s.powerOnReset.ctl = {} ∧ s.powerOnReset.rst.cause = 1 ∧ (s.sec.transition = none → s.powerOnReset.rst.nor = s.rst.nor ∧ s.powerOnReset.sec.lcFuses = s.sec.lcFuses)
    ∧ s.sec.lcFuses &&& s.powerOnReset.sec.lcFuses = s.sec.lcFuses ∧ s.powerOnReset.sec.svn = s.sec.svn
    ∧ s.powerOnReset.clocks.thermtrip = false ∧ s.powerOnReset.rst.current = some { level := .powerOn, step := 1, lastAt := s.now })
  ∧ (∀ s : State, s.systemReset.mem = (if s.clocks.thermtrip then { selfRefresh := true, cells := s.mem.cells, ue := s.mem.ue } else {}) ∧ s.systemReset.cores = {} ∧ s.systemReset.share = {} ∧ s.systemReset.seqs = {} ∧ s.systemReset.pages = {} ∧ s.systemReset.fabric = {}
    ∧ s.systemReset.ctl = {} ∧ s.systemReset.rst.cause = s.rst.cause ∧ (s.sec.transition = none → s.systemReset.rst.nor = s.rst.nor ∧ s.systemReset.sec.lcFuses = s.sec.lcFuses)
    ∧ s.sec.lcFuses &&& s.systemReset.sec.lcFuses = s.sec.lcFuses ∧ s.systemReset.sec.svn = s.sec.svn
    ∧ s.systemReset.sec.log = [] ∧ s.systemReset.sec.attKey = none ∧ s.systemReset.sec.debugOpen = false ∧ s.systemReset.rst.ready = false))

/-- A core reset leaves no block on a core, clears the scratchpads, accumulators, counters, peloton slots and operations and the commands in progress, parks the ACTIVE sequences with reason 4, and keeps the memory's groups and extents, the ports, the mailboxes and the driver's gears (R77, R96, R101, R275, R343, R382). Where the spec leaves room this follows the readings the model chose (log 19). -/
def Obligations.a_core_reset_stops_the_cores : Prop :=
  ∀ (s : State) (lockup : Bool),
    (s.coreResetNow lockup).cores.spad = [] ∧ (s.coreResetNow lockup).cores.acc = [] ∧ (s.coreResetNow lockup).share.hubCtr = [] ∧ (s.coreResetNow lockup).share.clusterCtr = []
    ∧ (s.coreResetNow lockup).fabric.slots = [] ∧ (s.coreResetNow lockup).fabric.ops = [] ∧ (s.coreResetNow lockup).fabric.ports = s.fabric.ports
    ∧ (s.coreResetNow lockup).ctl.inProgress = [] ∧ (s.coreResetNow lockup).ctl.mailbox = s.ctl.mailbox ∧ (s.coreResetNow lockup).rst.ready = false
    ∧ (s.coreResetNow lockup).rst.coreReset = true ∧ (s.coreResetNow lockup).mem.groups = s.mem.groups ∧ (s.coreResetNow lockup).mem.extents = s.mem.extents
    ∧ (twf {} s.cores.cores = true → ∀ c : Nat, ((s.coreResetNow lockup).core c).run = none ∧ ((s.coreResetNow lockup).core c).load = none
        ∧ ((s.coreResetNow lockup).core c).clock.driverGear = (s.core c).clock.driverGear)
    ∧ (twf {} s.seqs.seqs = true → ∀ i : Nat, (s.seq i).st = .active →
        ((s.coreResetNow lockup).seq i).st = .parkedHost ∧ ((s.coreResetNow lockup).seq i).parkReason = 4 ∧ ((s.coreResetNow lockup).seq i).length = (s.seq i).length)

/-- A reset is released step by step, each step its gap after the one before and once its condition holds; the life cycle is read from the fuses at step 2; the fills and the verified firmware lead to READY, which a RETIRED device never sets (R381, R382, R393, R398, R402). Where the spec leaves room this follows the readings the model chose (log 19, log 32, log 43). -/
def Obligations.a_reset_is_released_in_order : Prop :=
  (∀ (s : State) (c : ResetNow), Clocked s → s.rst.current = some c → s.rst.pins.railsLow = [] ∨ c.step = 1 → s.rst.stepOk c.step = false → exec .resetReleaseStep s = .next s)
  ∧ (∀ (s : State) (c : ResetNow), Clocked s → s.rst.current = some c → s.rst.pins.railsLow = [] → c.level ≠ .core → (c.step = 11 ∨ c.step = 12 ∨ c.step = 13) →
    exec .resetReleaseStep s = .next { s.upTo (c.lastAt + 1000 * nsTicks) with
      rst := { s.rst with current := some { level := c.level, step := c.step + 1, lastAt := max s.now (c.lastAt + 1000 * nsTicks) } } })
  ∧ (∀ (s : State) (c : ResetNow), Clocked s → s.rst.current = some c → s.rst.pins.railsLow = [] → c.level ≠ .core → c.step = 2 → s.rst.pins.perstAsserted = false →
    ∃ t : State, exec .resetReleaseStep s = .next t ∧ t.sec.lifecycle = BitVec.ofNat 3 (lcState s.sec.lcFuses.toNat) ∧ t.rst.shadowValid = false
      ∧ t.rst.current = some { level := c.level, step := 3, lastAt := max s.now (c.lastAt + 640 * nsTicks) })
  ∧ (∀ (s : State) (c : ResetNow), Clocked s → s.rst.current = some c → s.rst.pins.railsLow = [] → c.level ≠ .core → c.step = 14 → s.rst.pins.perstAsserted = false →
    ∃ t : State, exec .resetReleaseStep s = .next t ∧ t.rst.current = none ∧ t.host.link = .training ∧ t.cores = s.cores ∧ t.mem = s.mem)
  ∧ (∀ (s : State) (c : ResetNow), Clocked s → s.rst.current = some c → s.rst.pins.railsLow = [] → c.level = .core → c.step = 11 →
    ∃ t : State, exec .resetReleaseStep s = .next t ∧ t.rst.current = none ∧ t.ctl.stale = s.ctl.posted ∧ t.mem = s.mem)
  ∧ (∀ (s : State) (c : ResetNow), Clocked s → s.rst.current = some c → s.rst.pins.railsLow = [] → c.level = .core → c.step = 6 →
    ∃ t : State, exec .resetReleaseStep s = .next t ∧ t.rst.current = some { level := .core, step := 9, lastAt := max s.now (c.lastAt + 500 * nsTicks) })
  ∧ (∀ (s : State) (c : ResetNow), Clocked s → s.rst.current = some c → s.rst.pins.railsLow = [] → c.step = 9 → c.cluster < 15 →
    ∃ t : State, exec .resetReleaseStep s = .next t ∧ t.rst.current = some { level := c.level, step := 9, cluster := c.cluster + 1, lastAt := max s.now (c.lastAt + 640 * nsTicks) }
      ∧ (c.level = .core → t.svc.spares = s.svc.spares))
  ∧ (∀ (s : State) (n : Nat), Clocked s → s.rst.past 7 false = true → exec (.zeroFillDone .fast) s = .next { s with rst := { s.rst with fastFilled := true } }
    ∧ (s.rst.fastFilled = true → exec (.zeroFillDone (.pannier n)) s = .next { s with rst := { s.rst with pannierFilled := max s.rst.pannierFilled (min n pannierFrames) } })
    ∧ (s.rst.fastFilled = false → exec (.zeroFillDone (.pannier n)) s = .next s))
  ∧ (∀ s : State, Clocked s → s.rst.ready = false → s.sec.recovery = false → s.sec.lifecycle ≠ 4 → s.rst.tandemRead = true → s.rst.current = none →
    s.rst.fastFilled = true → s.sec.attKey.isSome = true →
    exec .bootFirmwareVerified s = .next (match s.bootSlot with
      | some k => if s.rst.doneDue then (s.runFirmware k).resetDone else s.runFirmware k
      | none => s.recover))
  ∧ (∀ (s : State) (k : Nat), (s.runFirmware k).rst.ready = true ∧ s.recover.rst.ready = s.rst.ready ∧ s.recover.sec.recovery = true)
  ∧ (∀ s : State, Clocked s → s.rst.ready = false → s.sec.recovery = false → s.sec.lifecycle ≠ 4 → s.rst.past 5 true = true → s.rst.tandemRead = true → s.bootSlot = none →
    exec .bootFirmwareVerified s = .next s.recover)
  ∧ (∀ s : State, Clocked s → s.sec.lifecycle = 4 → exec .bootFirmwareVerified s = .next s)
  ∧ (∀ (s : State) (c : ResetNow), Clocked s → s.rst.current = some c → c.step ≠ 1 → s.rst.pins.railsLow ≠ [] →
    exec .resetReleaseStep s = .next { s with rst := { s.rst with pins := s.rst.pins.raise } })
  ∧ (∀ (p : Pins), p.railsLow ≠ [] → (∀ x ∈ p.railsLow, x < 12 ∧ x ≠ 10) → p.raise.railsLow.length < p.railsLow.length ∧ ∀ x ∈ p.raise.railsLow, x ∈ p.railsLow)
  ∧ (∀ (p : Pins) (a b : Nat) (i j : Nat), a ∈ railSteps.getD i [] → b ∈ railSteps.getD j [] → i < j → a ∈ p.railsLow → b ∈ p.railsLow → b ∈ p.raise.railsLow)

/-- Attestation: a measurement is answered from the log; a QUOTE takes the next index of the attestation key and its signing; the certificates and the persistent log are delivered to the caller's buffer; each is refused where the life cycle, the key or the buffer's size forbids it (R403 to R406, R340). Attestation over the management bus: a measurement, a quote and the certificates are the answer's body, an unanswered request leaves the state (R362, R402, R406). Where the spec leaves room this follows the readings the model chose (log 12, log 30, log 44, log 52). -/
def Obligations.attestation_commands : Prop :=
  ((∀ (s : State) (f : Fn) (m : Mb) (r : List Byte), Admitted measurementForm s f m → s.sec.log[(s.ctl.req f m).u32 0]? = some r →
    exec (.measurementRead f m) s = .next (s.answer f m (s.ctl.req f m) { reply := r }))
  ∧ (∀ (s : State) (f : Fn) (m : Mb), Admitted measurementForm s f m → s.sec.log.length ≤ (s.ctl.req f m).u32 0 →
    exec (.measurementRead f m) s = .next (s.answer f m (s.ctl.req f m) { status := stBadField, detail := 0x10 }))
  ∧ (∀ (s : State) (f : Fn) (m : Mb) (k : AttKey) (p : List Byte), Admitted quoteForm s f m → s.sec.lifecycle ≠ 0 → 2628 ≤ (s.ctl.req f m).u64 0x28 → s.sec.attKey = some k → k.usable = true →
    s.ctl.services = [] → p = (s.ctl.req f m).params →
    exec (.quote f m) s = .next (State.answer { s with
      sec := { s.sec with attKey := some { k with nextIndex := k.nextIndex + 1 } }
      ctl := { s.ctl with services := [((s.ctl.req f m).cmd, .quote (sliceAt p 0 32) ((s.ctl.req f m).u64 0x20) (some k.nextIndex))] } } f m (s.ctl.req f m) { status := stAccepted }))
  ∧ (∀ (s : State) (f : Fn) (m : Mb), Admitted quoteForm s f m → s.sec.lifecycle ≠ 0 → 2628 ≤ (s.ctl.req f m).u64 0x28 → s.sec.attKey = none →
    exec (.quote f m) s = .next (s.answer f m (s.ctl.req f m) { status := stKeyExhausted }))
  ∧ (∀ (s : State) (f : Fn) (c : CmdRef) (k : AttKey) (nonce : List Byte) (buffer ix : Nat), Clocked s → s.ctl.services = [(c, .quote nonce buffer (some ix))] → c.fn = f → s.sec.attKey = some k →
    exec (.quoteSigned f) s = .next (State.nextQuote (match State.writeVirt { s with ctl := { s.ctl with services := [] } } f buffer (s.quoteBytes k f ix nonce) with
      | .ok u => u.complete c { arg0 := (s.quoteBytes k f ix nonce).length }
      | .error e => (State.noteBad { s with ctl := { s.ctl with services := [] } } e).complete c e)))
  ∧ (∀ (s : State) (f : Fn) (m : Mb) (x : List Byte), Admitted certificateForm s f m → s.sec.lifecycle ≠ 0 → s.sec.certificate = some x →
    exec (.certificateRead f m) s = .next (if (s.ctl.req f m).u64 8 < (certificates x).length then s.answer f m (s.ctl.req f m) { status := stNoMemory }
      else State.answer (s.addService (s.ctl.req f m) (.certificate ((s.ctl.req f m).u64 0))) f m (s.ctl.req f m) { status := stAccepted }))
  ∧ (∀ (s : State) (f : Fn) (m : Mb), Admitted certificateForm s f m → s.sec.lifecycle = 0 →
    exec (.certificateRead f m) s = .next (s.answer f m (s.ctl.req f m) { status := stLifecycle }))
  ∧ (∀ (s : State) (f : Fn) (c : CmdRef) (x : List Byte) (buffer : Nat), Clocked s → s.ctl.services = [(c, .certificate buffer)] → c.fn = f → s.sec.certificate = some x →
    exec (.certificateWritten f) s = .next (match State.writeVirt { s with ctl := { s.ctl with services := [] } } f buffer (certificates x) with
      | .ok u => u.complete c { arg0 := (certificates x).length }
      | .error e => (State.noteBad { s with ctl := { s.ctl with services := [] } } e).complete c e))
  ∧ (∀ (s : State) (f : Fn) (m : Mb), Admitted logForm s f m → (s.ctl.req f m).u64 16 ≠ 0 →
    exec (.logRead f m) s = .next (State.answer (s.addService (s.ctl.req f m) (.logRead ((s.ctl.req f m).u64 0) ((s.ctl.req f m).u64 8) ((s.ctl.req f m).u64 16))) f m (s.ctl.req f m) { status := stAccepted }))
  ∧ (∀ (s u : State) (f : Fn) (c : CmdRef) (offset buffer size : Nat), Clocked s → s.ctl.services = [(c, .logRead offset buffer size)] → c.fn = f →
    State.writeVirt { s with ctl := { s.ctl with services := [] } } c.fn buffer (s.rst.norRead (norLog + offset) size) = .ok u →
    exec (.logReadDone f) s = .next (u.complete c { arg0 := (s.rst.norRead (norLog + offset) size).length }))
  ∧ (∀ s : State, Clocked s → s.rst.past 5 false = true → s.rst.tandemRead = true → s.sec.attKey = none → (s.sec.lifecycle = 1 ∨ s.sec.lifecycle = 2 ∨ s.sec.lifecycle = 3) → s.highWater < 2 ^ 20 →
    ∃ (t : State) (k : AttKey), exec .attestationSetup s = .next t ∧ t.sec.attKey = some k ∧ k.nextIndex = 0 ∧ k.certificate.isSome = true
      ∧ t.sec.pool = some (s.highWater + 1, s.highWater + 64) ∧ t.sec.ringMark = s.highWater + 64))
  ∧ ((∀ (s : State) (p : MgmtPath) (i : W32), Clocked s → s.hears p false = true →
    (∀ r : List Byte, s.sec.log[i.toNat]? = some r → exec (.getMeasurement p i) s = .next ((s.arrives p).replies (.mctp (pathPackets p r))))
    ∧ (s.sec.log.length ≤ i.toNat → exec (.getMeasurement p i) s = .next ((s.arrives p).replies (.refused (BitVec.ofNat 16 stBadField)))))
  ∧ (∀ (s : State) (p : MgmtPath) (nonce : List Byte), Clocked s → s.hears p false = true → s.sec.lifecycle ≠ 0 →
    (∀ k : AttKey, s.sec.attKey = some k → k.usable = true →
      exec (.getQuote p nonce) s = .next (State.replies { s.arrives p with sec := { s.sec with attKey := some { k with nextIndex := k.nextIndex + 1 } } } (.mctp (pathPackets p
        ((s.arrives p).quoteBytes k (pathSource p) k.nextIndex nonce)))))
    ∧ (s.sec.attKey = none → exec (.getQuote p nonce) s = .next ((s.arrives p).replies (.refused (BitVec.ofNat 16 stKeyExhausted)))))
  ∧ (∀ (s : State) (p : MgmtPath), Clocked s → s.hears p false = true → s.sec.lifecycle ≠ 0 →
    (∀ x : List Byte, s.sec.certificate = some x → exec (.getCertificate p) s = .next ((s.arrives p).replies (.mctp (pathPackets p (certificates x))))))
  ∧ (∀ (s : State) (p : MgmtPath) (nonce : List Byte), Clocked s → s.hears p false = true → s.sec.lifecycle = 0 →
    exec (.getQuote p nonce) s = .next ((s.arrives p).replies (.refused (BitVec.ofNat 16 stLifecycle)))
    ∧ exec (.getCertificate p) s = .next ((s.arrives p).replies (.refused (BitVec.ofNat 16 stLifecycle))))
  ∧ (∀ (s : State) (p : MgmtPath) (i : W32) (nonce : List Byte), Clocked s → s.hears p false = false →
    exec (.getMeasurement p i) s = .next s ∧ exec (.getQuote p nonce) s = .next s ∧ exec (.getCertificate p) s = .next s))

/-- The life cycle: only the transitions of Table 19.3 are taken, those it lists with a verified authorisation; a transition burns its fuses, destroys what the table names, and a system reset follows 10 us later; the debug logic opens in RETURN only (R392 to R395, R399). Where the spec leaves room this follows the readings the model chose (log 19, log 44, log 52). -/
def Obligations.the_life_cycle_advances : Prop :=
  (∀ (s : State) (f : Fn) (m : Mb), Admitted advanceForm s f m → transition s.sec.lifecycle.toNat ((s.ctl.req f m).u32 0) = none →
    exec (.lifecycleAdvance f m) s = .next (s.answer f m (s.ctl.req f m) { status := stLifecycle }))
  ∧ (∀ (s : State) (f : Fn) (m : Mb), Admitted advanceForm s f m → (s.ctl.req f m).u32 0 = 4 → s.sec.lifecycle.toNat < 4 → s.sec.transition = none → s.sec.transitionResetAt = none →
    (s.ctl.req f m).u64 16 = 0 →
    exec (.lifecycleAdvance f m) s = .next (State.answer { s with sec := { s.sec with transition := some (4, (s.ctl.req f m).cmd) } } f m (s.ctl.req f m) { status := stAccepted }))
  ∧ (∀ (s : State) (f : Fn) (m : Mb) (a : List Byte), Admitted advanceForm s f m → transition s.sec.lifecycle.toNat ((s.ctl.req f m).u32 0) = some true → s.sec.transition = none →
    s.sec.transitionResetAt = none → (s.ctl.req f m).u64 16 = 2948 → readVirt s.mem s.pages f ((s.ctl.req f m).u64 8) 2948 = .ok a →
    exec (.lifecycleAdvance f m) s = .next (if authorises a s.sec.lifecycle.toNat ((s.ctl.req f m).u32 0) (List.replicate 32 0) then
        State.answer { s with sec := { s.sec with transition := some (BitVec.ofNat 3 ((s.ctl.req f m).u32 0), (s.ctl.req f m).cmd) } } f m (s.ctl.req f m) { status := stAccepted }
      else s.answer f m (s.ctl.req f m) { status := stSignature }))
  ∧ (∀ (s : State) (to_ : BitVec 3) (c : CmdRef), Clocked s → s.sec.transition = some (to_, c) →
    ∃ u : State, exec .lifecycleTransitionDone s = .next (u.complete c {}) ∧ u.sec.transition = none ∧ u.sec.transitionResetAt = some (s.now + 10 * usTicks)
      ∧ (to_ = 1 → u.sec.lcFuses = s.sec.lcFuses ||| 0x000F ∧ (s.sec.identitySeed ≠ 0 → u.sec.identitySeed = s.sec.identitySeed)
        ∧ u.sec.identitySeed &&& s.sec.identitySeed = s.sec.identitySeed ∧ u.sec.identityRoot &&& s.sec.identityRoot = s.sec.identityRoot)
      ∧ (to_ = 2 → u.sec.lcFuses = s.sec.lcFuses ||| 0x00F0 ∧ u.sec.ownerSeed &&& s.sec.ownerSeed = s.sec.ownerSeed ∧ u.sec.identitySeed = s.sec.identitySeed)
      ∧ (to_ = 3 → u.sec.lcFuses = s.sec.lcFuses ||| 0x0F00 ∧ u.sec.ownerSeed = BitVec.allOnes 256 ∧ u.mem.sealKeys = [])
      ∧ (to_ = 4 → u.sec.lcFuses = 0xFFFF ∧ u.sec.identitySeed = BitVec.allOnes 768 ∧ u.sec.ownerSeed = BitVec.allOnes 256 ∧ u.mem.sealKeys = []))
  ∧ (∀ (s : State) (a : List Byte), Clocked s → s.sec.lifecycle = 3 → s.sec.ownerSeed = BitVec.allOnes 256 → s.rst.fastFilled = true → s.rst.pannierFilled = pannierFrames →
    exec (.debugUnlock a) s = .next { s with sec := { s.sec with debugOpen := authorises a 3 3 s.sec.challenge || s.sec.debugOpen } })
  ∧ (∀ (s : State) (a : List Byte), (s.sec.lifecycle ≠ 3 ∨ authorises a 3 3 s.sec.challenge = false) → exec (.debugUnlock a) s = .next s)

/-- Trim and the tandem store: the first good trim copy goes into the shadows, or the safe defaults apply and TRIM_DEFAULTED is set; the newer valid bank, or the only one, is taken with its contents, or CONFIG_DEFAULTED is set and factory defaults apply; a write erases the older bank, carries the next SEQUENCE, and is in force once it reads back good: the bank then reads as a valid one with that SEQUENCE and body, and the rest of the store as before; it is given up after a second failure (R383 to R385, R387 to R390). Firmware: an update is refused for the running slot and for an image that does not verify; a done update is programmed, measured and marked if it is to be activated; SVN_FUSES rise to the running image's SV 60 s after READY and never fall (R363, R392, R401, R402, R405). Where the spec leaves room this follows the readings the model chose (log 31, log 44, log 52). -/
def Obligations.trim_and_tandem_store : Prop :=
  ((∀ s : State, Clocked s → s.rst.standsAfter 2 = true → s.rst.shadowValid = false → exec .trimLoadDone s = .next { s with rst := s.rst.loadTrim })
  ∧ (∀ s : State, Clocked s → s.rst.reading = true → exec .tandemReadDone s = .next { s with rst := s.rst.takeBank })
  ∧ (∀ s : State, Clocked s → s.rst.ready = true → s.rst.gathered = true → s.rst.write = none → exec .tandemWriteStart s = .next { s with rst := s.rst.startWrite })
  ∧ (∀ (s : State) (w : TandemWrite), Clocked s → s.rst.write = some w → exec (.tandemWriteDone true) s = .next { s with rst := s.rst.written w })
  ∧ (∀ (s : State) (w : TandemWrite), Clocked s → s.rst.write = some w → w.retried = false → exec (.tandemWriteDone false) s = .next { s with rst := { s.rst with write := some { w with retried := true } } })
  ∧ (∀ (s : State) (w : TandemWrite), Clocked s → s.rst.write = some w → w.retried = true →
    exec (.tandemWriteDone false) s = .next (State.spareOut { s with rst := { s.rst with write := none } } 7 (b2n w.bankB) false))
  ∧ (∀ (r : ResetState) (a b : Bank), r.readBank false = some a → r.readBank true = some b →
    r.takenBank = (if bankBNewer a.sequence b.sequence then some (true, b) else some (false, a)))
  ∧ (∀ r : ResetState, r.bank = some false → r.startWrite.write = some { bankB := true, config := r.config, sequence := r.sequence + 1 }
    ∧ (∀ a : Nat, norTandem + 0x100000 ≤ a → a < norTandem + 0x200000 → twf 0xFF r.nor = true → tget 0xFF r.startWrite.nor a = 0xFF)
    ∧ (∀ a : Nat, (a < norTandem + 0x100000 ∨ norTandem + 0x200000 ≤ a) → twf 0xFF r.nor = true → tget 0xFF r.startWrite.nor a = tget 0xFF r.nor a))
  ∧ (∀ b : List Byte, trimGood b = true ↔ fieldAt b 0 4 = 0x7A440001 ∧ fieldAt b 4 2 = 1 ∧ fieldAt b 0x7FC 4 = (crc32c (sliceAt b 0 0x7FC)).toNat
    ∧ ∀ n < 272, (fieldAt b (0x100 + n / 2) 1 / 16 ^ (n % 2)) % 16 ≠ 0)
  ∧ (∀ r : ResetState, r.loadTrim.shadowValid = true ∧ (r.loadTrim.trimDefaulted = true ↔ ∀ k < 3, trimGood (sliceAt (Config.trimCopy k) 0 2048) = false)
    ∧ (∀ k < 3, trimGood (sliceAt (Config.trimCopy k) 0 2048) = true → (∀ j < k, trimGood (sliceAt (Config.trimCopy j) 0 2048) = false) → r.loadTrim.shadow = sliceAt (Config.trimCopy k) 0 2048)
    ∧ (r.loadTrim.trimDefaulted = true → r.loadTrim.shadow = [])
    ∧ r.loadTrim = { r with shadow := r.loadTrim.shadow, shadowValid := true, trimDefaulted := r.loadTrim.trimDefaulted })
  ∧ (∀ (r : ResetState) (b : Bool) (x : Bank), r.takenBank = some (b, x) →
    r.takeBank = { r with tandemRead := true, bank := some b, sequence := BitVec.ofNat 32 x.sequence, config := x.config, configDefaulted := false })
  ∧ (∀ r : ResetState, r.takenBank = none → r.takeBank = { r with tandemRead := true, bank := none, sequence := 0, config := {}, configDefaulted := true })
  ∧ (∀ (r : ResetState) (b : Bool) (x : Bank), r.readBank b = some x → r.readBank (!b) = none → r.takenBank = some (b, x))
  ∧ (∀ r : ResetState, r.readBank false = none → r.readBank true = none → r.takenBank = none)
  ∧ (∀ a b : Nat, a < 2 ^ 32 → b < 2 ^ 32 → (bankBNewer a b = true ↔ 1 ≤ (b + 2 ^ 32 - a) % 2 ^ 32 ∧ (b + 2 ^ 32 - a) % 2 ^ 32 < 2 ^ 31))
  ∧ (∀ (r : ResetState) (w : TandemWrite), (r.written w).write = none ∧ (r.written w).bank = some w.bankB ∧ (r.written w).sequence = w.sequence ∧ (r.written w).configDefaulted = false
    ∧ (r.written w).config = r.config)
  ∧ (∀ (r : ResetState) (w : TandemWrite) (a : Nat), twf 0xFF r.nor = true → w.config.body.length ≤ 1048512 → (a < bankBase w.bankB ∨ bankBase w.bankB + 0x100000 ≤ a) →
    tget 0xFF (r.written w).nor a = tget 0xFF r.nor a)
  ∧ (∀ (r : ResetState) (w : TandemWrite), twf 0xFF r.nor = true → w.config.body.length ≤ 1048512 →
    ((r.written w).readBank w.bankB).map (fun x => (x.sequence, x.body)) = some (w.sequence.toNat, w.config.body))
  ∧ (∀ r : ResetState, r.bank = none → r.startWrite.write = some { bankB := false, config := r.config, sequence := 1 })
  ∧ (∀ r : ResetState, r.bank = some true → r.startWrite.write = some { bankB := false, config := r.config, sequence := r.sequence + 1 }))
  ∧ ((∀ (s : State) (f : Fn) (m : Mb), Admitted updateForm s f m → (s.sec.update.isSome = true ∨ s.sec.runs ((s.ctl.req f m).u32 16 % 2) = true) →
    exec (.firmwareUpdate f m) s = .next (s.answer f m (s.ctl.req f m) { status := stBusy }))
  ∧ (∀ (s : State) (f : Fn) (m : Mb) (image : List Byte), Admitted updateForm s f m → s.sec.update = none → s.sec.runs ((s.ctl.req f m).u32 16 % 2) = false → (s.ctl.req f m).u64 8 ≠ 0 →
    readVirt s.mem s.pages f ((s.ctl.req f m).u64 0) ((s.ctl.req f m).u64 8) = .ok image →
    exec (.firmwareUpdate f m) s = .next (if fwStatus s.sec.svn.toNat image = stOk then State.answer { s with
      sec := { s.sec with update := some { slot := (s.ctl.req f m).u32 16 % 2, image := image, activate := bit ((s.ctl.req f m).u32 16) 1, cmd := some (s.ctl.req f m).cmd } }
      rst := s.rst.norErase (slotBase ((s.ctl.req f m).u32 16 % 2)) 0x04000000 } f m (s.ctl.req f m) { status := stAccepted }
      else s.answer f m (s.ctl.req f m) { status := fwStatus s.sec.svn.toNat image }))
  ∧ (∀ (s : State) (f : Fn) (m : Mb) (image : List Byte), Admitted updateForm s f m → s.sec.update = none → s.sec.runs ((s.ctl.req f m).u32 16 % 2) = false → (s.ctl.req f m).u64 8 ≠ 0 →
    readVirt s.mem s.pages f ((s.ctl.req f m).u64 0) ((s.ctl.req f m).u64 8) = .ok image → fwSigned image = false →
    exec (.firmwareUpdate f m) s = .next (s.answer f m (s.ctl.req f m) { status := stSignature }))
  ∧ (∀ (s : State) (u : Update) (c : CmdRef) (k : SecState), Clocked s → s.sec.update = some u → u.cmd = some c → u.markerOnly = false → u.activate = false → s.sec.recovery = false →
    k = { s.sec with update := none } →
    exec .firmwareUpdateDone s = .next (State.complete { s with
      rst := s.rst.program u
      sec := if fwStatus s.sec.svn.toNat u.image = stOk then
          k.measure s.ns 6 u.slot (fwHeader u.image).major (fwHeader u.image).minor (fwHeader u.image).sv (shake256 32 (fwBytes u.image))
        else k } c { status := fwStatus s.sec.svn.toNat u.image }))
  ∧ (∀ (s : State) (p : MgmtPath) (image : List Byte) (f : Firmware), Clocked s → s.hears p true = true → s.sec.update = none → s.sec.recovery = false → s.sec.firmware = some f →
    exec (.pldmFirmwareUpdate p image) s = .next (if fwStatus s.sec.svn.toNat image = stOk then
        State.replies { s.arrives p with
          sec := { s.sec with update := some { slot := 1 - f.slot, image := image, activate := true, cmd := none } }
          rst := s.rst.norErase (slotBase (1 - f.slot)) 0x04000000 } (.pldmCode 0)
      else (s.arrives p).replies (.refused (BitVec.ofNat 16 (fwStatus s.sec.svn.toNat image)))))
  ∧ (∀ (s : State) (f : Firmware) (t : Nat), Clocked s → s.sec.firmware = some f → f.svnAt = some t →
    exec .svnRaise s = .next { s.upTo t with sec := { s.sec with svn := if s.sec.svn < f.sv then f.sv else s.sec.svn, firmware := some { f with svnAt := none } } })
  ∧ (∀ (c : SecState) (ns kind slot major minor sv : Nat) (d : List Byte), c.log.length ≤ 256 →
    (c.measure ns kind slot major minor sv d).log.length ≤ 256 ∧ (c.measure ns kind slot major minor sv d).records = c.records + 1
    ∧ c.log <+: (c.measure ns kind slot major minor sv d).log))

/-- DEVICE_TIME: a 4-byte read of the lower half latches the upper, which the next 4-byte read of the upper half returns; an 8-byte read returns both halves of one instant; without a latched half the current one is returned; each read carries the bytes it enables (R349, R346). -/
def Obligations.device_time_reads_are_consistent : Prop :=
  (∀ (s : State) (e : BitVec 8), Clocked s → s.host.serves 0 = true →
    exec (.deviceTimeRead 0 (.bar0 0x018) false e) s = .next { s.wake with host := { s.wake.host.setFn 0 { s.wake.host.fn 0 with timeLatch := some (BitVec.ofNat 32 (s.wake.now / 180180 / 2 ^ 32)) } with
      reply := .data (enabledBytes e 0 (s.wake.now / 180180 % 2 ^ 32)) } })
  ∧ (∀ (s : State) (e : BitVec 8) (x : W32), Clocked s → s.host.serves 0 = true → (s.wake.host.fn 0).timeLatch = some x →
    exec (.deviceTimeRead 0 (.bar0 0x01C) false e) s = .next { s.wake with host := { s.wake.host.setFn 0 { s.wake.host.fn 0 with timeLatch := none } with
      reply := .data (enabledBytes e 0 x.toNat) } })
  ∧ (∀ (s : State) (e : BitVec 8), Clocked s → s.host.serves 0 = true → (s.wake.host.fn 0).timeLatch = none →
    exec (.deviceTimeRead 0 (.bar0 0x01C) false e) s = .next { s.wake with host := { s.wake.host.setFn 0 { s.wake.host.fn 0 with timeLatch := none } with
      reply := .data (enabledBytes e 0 (s.wake.now / 180180 / 2 ^ 32 % 2 ^ 32)) } })
  ∧ (∀ (s : State) (e : BitVec 8), Clocked s → s.host.serves 0 = true →
    exec (.deviceTimeRead 0 (.bar0 0x018) true e) s = .next { s.wake with host := { s.wake.host with
      reply := .data (enabledBytes e 0 (s.wake.now / 180180 % 2 ^ 32) ++ enabledBytes e 4 (s.wake.now / 180180 / 2 ^ 32 % 2 ^ 32)) } })
  ∧ (∀ v : Nat, enabledBytes 0xFF 0 v = natLe 4 v ∧ enabledBytes 0x00 0 v = [])

/-- An FLR of PF0 clears VF Enable; the enabled VFs that are not in their own FLR are then reset, ascending, one after another, and PF0's own steps come after the last; an FLR that arrives while the function's FLR is in progress, or waits, has no further effect (R358). Where the spec leaves room this follows the readings the model chose (log 18). -/
def Obligations.an_flr_of_pf0_resets_the_vfs_first : Prop :=
  (∀ (s u : State), Clocked s → s.host.configures 0 = true → s.wake.host.resetting 0 = false →
    u = { s.wake with host := { s.wake.host with
      vfsEnabled := 0, flrWaiting := ((List.range s.wake.host.vfsEnabled.toNat).map (fun i => i + 1)).filter (fun g => (s.wake.host.fn g).flr.isNone) ++ [0] } } →
    exec (.flr 0) s = .next u.flrNext)
  ∧ (∀ (s : State) (f : Nat) (rest : List Nat), s.host.flrWaiting = f :: rest → (∀ i < 15, (s.host.fn (i + 1)).flr = none) →
    s.flrNext = State.flrBegin f { s with host := { s.host with flrWaiting := rest } })
  ∧ (∀ (s : State) (i : Nat), i < 15 → (s.host.fn (i + 1)).flr.isSome = true → s.flrNext = s)
  ∧ (∀ (s : State) (f : Fn), Clocked s → (s.host.fn f).flr.isSome = true → s.flrReady f = true →
    ∃ t : State, exec (.flrComplete f) s = .next t.flrNext ∧ t.host.flrWaiting = s.host.flrWaiting ∧ (twf {} s.host.fns = true → (t.host.fn f).flr = none))
  ∧ (∀ (s : State) (f : Fn), Clocked s → s.host.configures f = true → s.wake.host.resetting f = true → exec (.flr f) s = .next s.wake)
  ∧ (∀ (s : State) (f : Nat), (s.host.fn f).flr.isSome = true → State.flrBegin f s = s)

/-- The sixteen FP4 codes have the values of Table 2.2, bit 3 the sign; negative zero is zero and no FP4 operand is counted as malformed (R28). -/
def Obligations.fp4_codes_decode_as_the_table_says : Prop :=
  ∀ c : Fin 16, ∃ m : Nat, ∃ e : Int, fp4.decode c = .fin (decide (8 ≤ c.val)) m e ∧ -1 ≤ e
    ∧ (m : Int) * 2 ^ (e + 1).toNat = [0, 1, 2, 3, 4, 6, 8, 12].getD (c.val % 8) 0
    ∧ (∀ r : ProductRec, xElem .fp4 r c = (fp4.decode c, []) ∧ wElem .fp4 r c = (fp4.decode c, []))

/-- The queue is the sender's: no command changes it. The queue and this are the model's choice (DESIGN CHOICE, log 45): the spec lists the part's commands, each whole and indivisible, and gives them no queue. -/
def Obligations.no_command_changes_the_queue : Prop :=
  ∀ (c : Instr) (s t : State), exec c s = .next t → t.pending = s.pending

/-- Fuses only burn: whatever is commanded, no bit of LC_FUSES, of the identity key's seeds and root or of OWNER_SEED returns to 0, and SVN_FUSES never falls (R392, R402). -/
def Obligations.fuses_only_burn : Prop :=
  ∀ s t : State, step s = .next t → s.sec.lcFuses &&& t.sec.lcFuses = s.sec.lcFuses ∧ s.sec.svn ≤ t.sec.svn
    ∧ s.sec.identitySeed &&& t.sec.identitySeed = s.sec.identitySeed ∧ s.sec.identityRoot &&& t.sec.identityRoot = s.sec.identityRoot
    ∧ s.sec.ownerSeed &&& t.sec.ownerSeed = s.sec.ownerSeed

/-- The security block's invariant is kept by every step: LIFECYCLE names one of the five states, the measurement log holds at most 256 records, and no attestation key has signed more than 1,024 times (R393, R403, R405, R406). -/
def Obligations.every_step_keeps_the_security_invariant : Prop :=
  ∀ s t : State, SecurityInv s → step s = .next t → SecurityInv t

/-- The memories keep their canonical form through every step: bytes of the fast and pannier tiers, of the host's memory, of the mailboxes, of the scratchpads, the accumulator entries, the sync counters and the NOR store are listed in rising order, and none equals what an unlisted one reads as (the form is the model's, log 4). -/
def Obligations.every_step_keeps_the_memories_canonical : Prop :=
  ∀ s t : State, MemoriesCanonical s → step s = .next t → MemoriesCanonical t

/-- The tables keep their canonical form through every step: those of cores, rings, functions, queues, page records, sequences, contexts, ports, links, pelotons, engines, error records and clocks list their entries in rising order, and none is the default (the form is the model's, log 4). -/
def Obligations.every_step_keeps_the_tables_canonical : Prop :=
  ∀ s t : State, TablesCanonical s → step s = .next t → TablesCanonical t

/-- The state after reset: memory, partitions and counters read zero, no sequence, context, peloton or command is there, the ports are DARK, READY is clear, a power-on is in progress, and the invariants hold (R77, R101, R230, R239, R255, R348, R377, R381). Where the spec leaves room this follows the readings the model chose (log 2, log 4, log 43). -/
def Obligations.the_state_after_reset : Prop :=
  State.reset.pending = [] ∧ MemoriesCanonical State.reset ∧ TablesCanonical State.reset ∧ SecurityInv State.reset
  ∧ (∀ a : Nat, State.reset.mem.read a 1 = [0]) ∧ (∀ cl fld : Nat, State.reset.share.ctr cl fld = 0) ∧ (∀ c a : Nat, State.reset.cores.getSpad c a 1 = [0])
  ∧ (∀ i : Nat, (State.reset.seq i).st = .free) ∧ (∀ f : Nat, (State.reset.ctxOf f).st = .absent) ∧ (∀ p : Nat, (State.reset.port p).st = .dark ∧ (State.reset.slot p).valid = false)
  ∧ (∀ c : Nat, (State.reset.core c).run = none ∧ (State.reset.core c).load = none) ∧ State.reset.ctl.posted = [] ∧ State.reset.rst.ready = false
  ∧ State.reset.rst.cause = 1 ∧ State.reset.rst.current = some { level := .powerOn, step := 1, lastAt := 0 } ∧ State.reset.clocks.envelopeW = 700
  ∧ State.reset.clocks.thermtrip = false ∧ State.reset.pages.ftValid = false ∧ State.reset.sec.log = []
end

