-- ==== Sys2Proof/Laws/Tab.lean ====
section
/-! SUPPORT. Laws of the sparse tables and byte arrays: read after write, canonical form, little-endian fields. -/

namespace Sys2Proof.Machine

variable {α : Type} [DecidableEq α]

theorem twfFrom_weaken {d : α} {t : Tab α} : ∀ {lo lo' : Nat}, lo' ≤ lo → twfFrom d lo t = true → twfFrom d lo' t = true := by
  cases t with
  | nil => intros; rfl
  | cons e t => intro lo lo' h; obtain ⟨k, v⟩ := e; simp only [twfFrom, Bool.and_eq_true, decide_eq_true_eq]; rintro ⟨⟨a, b⟩, c⟩; exact ⟨⟨by omega, b⟩, c⟩

/-- Below its first key a canonical table reads the default. -/
theorem tget_below {d : α} {t : Tab α} {lo i : Nat} (h : twfFrom d lo t = true) (hi : i < lo) : tget d t i = d := by
  cases t with
  | nil => rfl
  | cons e t =>
    obtain ⟨k, v⟩ := e
    simp only [twfFrom, Bool.and_eq_true, decide_eq_true_eq] at h
    have : i < k := by omega
    simp [tget, this, Nat.ne_of_lt this]

theorem twfFrom_tcons {d : α} {t : Tab α} {lo i : Nat} {x : α} (h : twfFrom d (i + 1) t = true) (hi : lo ≤ i) :
    twfFrom d lo (tcons d i x t) = true := by
  unfold tcons
  split
  · exact twfFrom_weaken (by omega) h
  · next hx => simp [twfFrom, hi, hx, h]

theorem twfFrom_tset {d : α} {i : Nat} {x : α} : ∀ {t : Tab α} {lo : Nat}, twfFrom d lo t = true → lo ≤ i → twfFrom d lo (tset d t i x) = true := by
  intro t
  induction t with
  | nil => intro lo _ hi; exact twfFrom_tcons (by rfl) hi
  | cons e t ih =>
    obtain ⟨k, v⟩ := e
    intro lo h hi
    have h' := h
    simp only [twfFrom, Bool.and_eq_true, decide_eq_true_eq] at h'
    obtain ⟨⟨hk, hv⟩, ht⟩ := h'
    unfold tset
    split
    · next hlt =>
      refine twfFrom_tcons ?_ hi
      simp only [twfFrom, Bool.and_eq_true, decide_eq_true_eq]
      exact ⟨⟨hlt, hv⟩, ht⟩
    · split
      · next he => subst he; exact twfFrom_tcons ht hi
      · next hn he =>
        simp only [twfFrom, Bool.and_eq_true, decide_eq_true_eq]
        exact ⟨⟨hk, hv⟩, ih ht (by omega)⟩

/-- A write keeps the canonical form. -/
theorem twf_tset {d : α} {t : Tab α} {i : Nat} {x : α} (h : twf d t = true) : twf d (tset d t i x) = true := twfFrom_tset h (Nat.zero_le _)

theorem twf_tmod {d : α} {t : Tab α} {i : Nat} {f : α → α} (h : twf d t = true) : twf d (tmod d t i f) = true := twf_tset h

theorem twf_nil {d : α} : twf d ([] : Tab α) = true := rfl

theorem tget_tcons_same {d : α} {t : Tab α} {i : Nat} {x : α} (h : twfFrom d (i + 1) t = true) : tget d (tcons d i x t) i = x := by
  unfold tcons
  split
  · next hx => rw [tget_below h (Nat.lt_succ_self _), hx]
  · simp [tget]

theorem tget_tset_sameFrom {d : α} {i : Nat} {x : α} : ∀ {t : Tab α} {lo : Nat}, twfFrom d lo t = true → tget d (tset d t i x) i = x := by
  intro t
  induction t with
  | nil => intro lo _; exact tget_tcons_same (by rfl)
  | cons e t ih =>
    obtain ⟨k, v⟩ := e
    intro lo h
    simp only [twfFrom, Bool.and_eq_true, decide_eq_true_eq] at h
    obtain ⟨⟨hk, hv⟩, ht⟩ := h
    unfold tset
    split
    · next hlt =>
      refine tget_tcons_same ?_
      simp only [twfFrom, Bool.and_eq_true, decide_eq_true_eq]
      exact ⟨⟨hlt, hv⟩, ht⟩
    · split
      · next he => subst he; exact tget_tcons_same ht
      · next hn he => simp [tget, hn, he, ih ht]

/-- A read after a write to the same entry gives the value written. -/
theorem tget_tset_same {d : α} {t : Tab α} {i : Nat} {x : α} (h : twf d t = true) : tget d (tset d t i x) i = x := tget_tset_sameFrom h

theorem tget_tcons_ne {d : α} {t : Tab α} {i j : Nat} {x : α} (hne : j ≠ i) (h : j < i → tget d t j = d) :
    tget d (tcons d i x t) j = tget d t j := by
  unfold tcons
  split
  · rfl
  · by_cases hj : j < i
    · simp [tget, hne, hj, h hj]
    · simp [tget, hne, hj]

theorem tget_tset_neFrom {d : α} {i j : Nat} {x : α} (hne : j ≠ i) : ∀ {t : Tab α} {lo : Nat}, twfFrom d lo t = true →
    tget d (tset d t i x) j = tget d t j := by
  intro t
  induction t with
  | nil => intro lo _; exact tget_tcons_ne hne (fun _ => rfl)
  | cons e t ih =>
    obtain ⟨k, v⟩ := e
    intro lo h
    simp only [twfFrom, Bool.and_eq_true, decide_eq_true_eq] at h
    obtain ⟨⟨hk, hv⟩, ht⟩ := h
    unfold tset
    split
    · next hlt =>
      refine tget_tcons_ne hne ?_
      intro hj
      have : j < k := by omega
      simp [tget, this, Nat.ne_of_lt this]
    · split
      · next he =>
        subst he
        rw [tget_tcons_ne hne (fun hj => tget_below ht (by omega))]
        by_cases hj : j < i
        · rw [tget_below ht (by omega)]; simp [tget, hne, hj]
        · simp [tget, hne, hj]
      · next hn he =>
        simp only [tget]
        rw [ih ht]

/-- A write leaves every other entry alone. -/
theorem tget_tset_ne {d : α} {t : Tab α} {i j : Nat} {x : α} (h : twf d t = true) (hne : j ≠ i) : tget d (tset d t i x) j = tget d t j :=
  tget_tset_neFrom hne h

theorem tget_tmod_same {d : α} {t : Tab α} {i : Nat} {f : α → α} (h : twf d t = true) : tget d (tmod d t i f) i = f (tget d t i) := tget_tset_same h

theorem tget_tmod_ne {d : α} {t : Tab α} {i j : Nat} {f : α → α} (h : twf d t = true) (hne : j ≠ i) : tget d (tmod d t i f) j = tget d t j :=
  tget_tset_ne h hne

theorem twfFrom_filter {d : α} {p : Nat × α → Bool} : ∀ {t : Tab α} {lo : Nat}, twfFrom d lo t = true → twfFrom d lo (t.filter p) = true := by
  intro t
  induction t with
  | nil => intros; rfl
  | cons e t ih =>
    obtain ⟨k, v⟩ := e
    intro lo h
    simp only [twfFrom, Bool.and_eq_true, decide_eq_true_eq] at h
    obtain ⟨⟨hk, hv⟩, ht⟩ := h
    simp only [List.filter]
    split
    · simp only [twfFrom, Bool.and_eq_true, decide_eq_true_eq]; exact ⟨⟨hk, hv⟩, ih ht⟩
    · exact twfFrom_weaken (by omega) (ih ht)

theorem twf_filter {d : α} {p : Nat × α → Bool} {t : Tab α} (h : twf d t = true) : twf d (t.filter p) = true := twfFrom_filter h

theorem twf_tclear {d : α} {t : Tab α} {lo hi : Nat} (h : twf d t = true) : twf d (tclear t lo hi) = true := twf_filter h

/-- A write of bytes keeps the canonical form. -/
theorem twf_setBytes {d : Byte} : ∀ {bs : List Byte} {m : List Host.Cell} {a : Nat}, twf d m = true → twf d (setBytes d m a bs) = true := by
  intro bs
  induction bs with
  | nil => intro m a h; exact h
  | cons b bs ih => intro m a h; exact ih (twf_tset h)

/-- A byte outside the bytes written reads as before. -/
theorem tget_setBytes_out {d : Byte} : ∀ {bs : List Byte} {m : List Host.Cell} {a x : Nat}, twf d m = true → (x < a ∨ a + bs.length ≤ x) →
    tget d (setBytes d m a bs) x = tget d m x := by
  intro bs
  induction bs with
  | nil => intros; rfl
  | cons b bs ih =>
    intro m a x h hx
    simp only [List.length_cons] at hx
    rw [setBytes, ih (twf_tset h) (by omega), tget_tset_ne h (by omega)]

/-- The bytes written read back. -/
theorem bytesAt_setBytes {d : Byte} : ∀ {bs : List Byte} {m : List Host.Cell} {a : Nat}, twf d m = true →
    bytesAt d (setBytes d m a bs) a bs.length = bs := by
  intro bs
  induction bs with
  | nil => intros; rfl
  | cons b bs ih =>
    intro m a h
    simp only [List.length_cons, bytesAt, setBytes]
    rw [ih (twf_tset h), tget_setBytes_out (twf_tset h) (by omega), tget_tset_same h]

theorem bytesAt_setBytes_out {d : Byte} {bs : List Byte} {m : List Host.Cell} {a : Nat} (h : twf d m = true) : ∀ {n x : Nat},
    (x + n ≤ a ∨ a + bs.length ≤ x) → bytesAt d (setBytes d m a bs) x n = bytesAt d m x n := by
  intro n
  induction n with
  | zero => intros; rfl
  | succ n ih =>
    intro x hx
    simp only [bytesAt]
    rw [ih (by omega), tget_setBytes_out h (by omega)]

@[simp] theorem natLe_length {n x : Nat} : (natLe n x).length = n := by
  induction n generalizing x with
  | zero => rfl
  | succ n ih => simp [natLe, ih]

@[simp] theorem bytesAt_length {d : Byte} {m : List Host.Cell} {n a : Nat} : (bytesAt d m a n).length = n := by
  induction n generalizing a with
  | zero => rfl
  | succ n ih => simp [bytesAt, ih]

/-- A number's low bytes have its value (R3). -/
theorem leNat_natLe {n x : Nat} : leNat (natLe n x) = x % 256 ^ n := by
  induction n generalizing x with
  | zero => simp [natLe, leNat, Nat.mod_one]
  | succ n ih =>
    have h : 256 ^ (n + 1) = 256 * 256 ^ n := by rw [pow_succ, mul_comm]
    rw [natLe, leNat, ih, BitVec.toNat_ofNat, h, Nat.mod_mul]

end Sys2Proof.Machine
end

