-- ==== Sys2Proof/Laws/Aes.lean ====
section
/-! SUPPORT. Deciphering undoes enciphering (R183): AES-256 and XTS on a grain. -/

namespace Sys2Proof.Machine

/-- Doubling in the field, as gfMul does it. -/
def gfDouble (a : Nat) : Nat := if a < 128 then 2 * a else (2 * a - 256) ^^^ 0x1B

theorem gfDouble_lt (a : Nat) (h : a < 256) : gfDouble a < 256 := by
  unfold gfDouble
  split
  · omega
  · exact Nat.xor_lt_two_pow (n := 8) (by omega) (by omega)

theorem gfMul_succ (n a b : Nat) :
    gfMul 0x1B (n + 1) a b = if b % 2 = 1 then a ^^^ gfMul 0x1B n (gfDouble a) (b / 2) else gfMul 0x1B n (gfDouble a) (b / 2) := rfl

theorem gfDouble_bits : ∀ a < 256, gfDouble a = (2 * (a % 128)) ^^^ (if a.testBit 7 then 0x1B else 0) := by decide +kernel

theorem gfDouble_xor (a b : Nat) (ha : a < 256) (hb : b < 256) : gfDouble (a ^^^ b) = gfDouble a ^^^ gfDouble b := by
  have hab : a ^^^ b < 256 := Nat.xor_lt_two_pow (n := 8) ha hb
  rw [gfDouble_bits a ha, gfDouble_bits b hb, gfDouble_bits _ hab, Nat.testBit_xor]
  have h : 2 * ((a ^^^ b) % 128) = 2 * (a % 128) ^^^ 2 * (b % 128) := by
    have e (x : Nat) : 2 * x = x <<< 1 := by rw [Nat.shiftLeft_eq]; omega
    rw [Nat.xor_mod_two_pow (n := 7) (a := a) (b := b), e, e, e, Nat.shiftLeft_xor_distrib]
  rw [h]
  cases a.testBit 7 <;> cases b.testBit 7 <;> simp [Nat.xor_comm, Nat.xor_left_comm]

theorem gfMul_lt : ∀ (n a b : Nat), a < 256 → gfMul 0x1B n a b < 256
  | 0, _, _, _ => by simp [gfMul]
  | n + 1, a, b, h => by
    rw [gfMul_succ]
    have := gfMul_lt n (gfDouble a) (b / 2) (gfDouble_lt a h)
    split
    · exact Nat.xor_lt_two_pow (n := 8) h this
    · exact this

theorem gfMul_xor : ∀ (n a b c : Nat), a < 256 → b < 256 → gfMul 0x1B n (a ^^^ b) c = gfMul 0x1B n a c ^^^ gfMul 0x1B n b c
  | 0, _, _, _, _, _ => by simp [gfMul]
  | n + 1, a, b, c, ha, hb => by
    rw [gfMul_succ, gfMul_succ, gfMul_succ, gfDouble_xor a b ha hb, gfMul_xor n _ _ _ (gfDouble_lt a ha) (gfDouble_lt b hb)]
    split
    · simp only [Nat.xor_assoc, Nat.xor_left_comm]
    · rfl

theorem aesMul_lt (a b : Nat) (h : a < 256) : aesMul a b < 256 := gfMul_lt 8 a b h
theorem aesMul_xor (a b c : Nat) (ha : a < 256) (hb : b < 256) : aesMul (a ^^^ b) c = aesMul a c ^^^ aesMul b c := gfMul_xor 8 a b c ha hb

set_option maxRecDepth 100000 in
theorem aesSubInv_aesSub : ∀ x < 256, aesSubInv (aesSub x) = x := by decide +kernel

/-- A block of 16 bytes, as numbers. -/
def Block16 (b : List Nat) : Prop := b.length = 16 ∧ ∀ x ∈ b, x < 256

theorem block16_cases {b : List Nat} (h : Block16 b) : ∃ b0 b1 b2 b3 b4 b5 b6 b7 b8 b9 b10 b11 b12 b13 b14 b15 : Nat,
    b = [b0, b1, b2, b3, b4, b5, b6, b7, b8, b9, b10, b11, b12, b13, b14, b15]
    ∧ b0 < 256 ∧ b1 < 256 ∧ b2 < 256 ∧ b3 < 256 ∧ b4 < 256 ∧ b5 < 256 ∧ b6 < 256 ∧ b7 < 256 ∧ b8 < 256 ∧ b9 < 256 ∧ b10 < 256 ∧ b11 < 256
    ∧ b12 < 256 ∧ b13 < 256 ∧ b14 < 256 ∧ b15 < 256 := by
  obtain ⟨hl, hb⟩ := h
  match b, hl with
  | [b0, b1, b2, b3, b4, b5, b6, b7, b8, b9, b10, b11, b12, b13, b14, b15], _ =>
    exact ⟨b0, b1, b2, b3, b4, b5, b6, b7, b8, b9, b10, b11, b12, b13, b14, b15, rfl, by simpa using hb⟩

theorem aesShift_three_one {b : List Nat} (h : Block16 b) : aesShift 3 (aesShift 1 b) = b := by
  obtain ⟨b0, b1, b2, b3, b4, b5, b6, b7, b8, b9, b10, b11, b12, b13, b14, b15, rfl, -⟩ := block16_cases h
  rfl

theorem getD_lt {b : List Nat} (h : ∀ x ∈ b, x < 256) (i : Nat) : b.getD i 0 < 256 := by
  rw [List.getD_eq_getElem?_getD]
  cases hi : b[i]? with
  | none => simp
  | some x => exact h x (List.mem_of_getElem? hi)

theorem Block16.shift {b : List Nat} (h : Block16 b) (d : Nat) : Block16 (aesShift d b) := by
  refine ⟨by simp [aesShift], fun x hx => ?_⟩
  obtain ⟨i, -, rfl⟩ := List.mem_map.1 hx
  exact getD_lt h.2 _

theorem Block16.mix {b : List Nat} (h : Block16 b) (k : List Nat) : Block16 (aesMix k b) := by
  refine ⟨by simp [aesMix], fun x hx => ?_⟩
  obtain ⟨i, -, rfl⟩ := List.mem_map.1 hx
  simp only [List.range_succ, List.range_zero, List.nil_append, List.cons_append, List.foldl_cons, List.foldl_nil]
  iterate 4 refine Nat.xor_lt_two_pow (n := 8) ?_ (aesMul_lt _ _ (getD_lt h.2 _))
  decide

theorem Block16.xor {a b : List Nat} (ha : Block16 a) (hb : Block16 b) : Block16 (xorList a b) := by
  refine ⟨by simp [xorList, ha.1, hb.1], fun x hx => ?_⟩
  obtain ⟨i, hi, rfl⟩ := List.mem_iff_getElem.1 hx
  simp only [xorList, List.getElem_zipWith]
  exact Nat.xor_lt_two_pow (n := 8) (ha.2 _ (List.getElem_mem _)) (hb.2 _ (List.getElem_mem _))

theorem aesSub_lt : ∀ x < 256, aesSub x < 256 := by decide +kernel
theorem aesSubInv_lt : ∀ x < 256, aesSubInv x < 256 := by decide +kernel

theorem Block16.map {b : List Nat} (h : Block16 b) {f : Nat → Nat} (hf : ∀ x < 256, f x < 256) : Block16 (b.map f) := by
  refine ⟨by simp [h.1], fun x hx => ?_⟩
  obtain ⟨y, hy, rfl⟩ := List.mem_map.1 hx
  exact hf y (h.2 y hy)

theorem map_subInv_sub {b : List Nat} (h : Block16 b) : (b.map aesSub).map aesSubInv = b := by
  rw [List.map_map]
  exact (List.map_congr_left (fun x hx => aesSubInv_aesSub x (h.2 x hx))).trans (List.map_id b)

theorem xorList_self_right {a b : List Nat} (h : a.length = b.length) : xorList (xorList a b) b = a := by
  refine List.ext_getElem (by simp [xorList, h]) (fun i h1 h2 => ?_)
  simp [xorList]

/-- One column through MixColumns and back, in one byte's part of each sum. -/
theorem mix_diag : ∀ x < 256, aesMul (aesMul x 2) 14 ^^^ aesMul (aesMul x 1) 11 ^^^ aesMul (aesMul x 1) 13 ^^^ aesMul (aesMul x 3) 9 = x := by decide +kernel
theorem mix_one : ∀ x < 256, aesMul (aesMul x 3) 14 ^^^ aesMul (aesMul x 2) 11 ^^^ aesMul (aesMul x 1) 13 ^^^ aesMul (aesMul x 1) 9 = 0 := by decide +kernel
theorem mix_two : ∀ x < 256, aesMul (aesMul x 1) 14 ^^^ aesMul (aesMul x 3) 11 ^^^ aesMul (aesMul x 2) 13 ^^^ aesMul (aesMul x 1) 9 = 0 := by decide +kernel
theorem mix_three : ∀ x < 256, aesMul (aesMul x 1) 14 ^^^ aesMul (aesMul x 1) 11 ^^^ aesMul (aesMul x 3) 13 ^^^ aesMul (aesMul x 2) 9 = 0 := by decide +kernel

/-- Four bytes of a column come back. -/
theorem mix_column (a b c d : Nat) (ha : a < 256) (hb : b < 256) (hc : c < 256) (hd : d < 256) :
    aesMul (aesMul a 2 ^^^ aesMul b 3 ^^^ aesMul c 1 ^^^ aesMul d 1) 14 ^^^ aesMul (aesMul a 1 ^^^ aesMul b 2 ^^^ aesMul c 3 ^^^ aesMul d 1) 11
      ^^^ aesMul (aesMul a 1 ^^^ aesMul b 1 ^^^ aesMul c 2 ^^^ aesMul d 3) 13 ^^^ aesMul (aesMul a 3 ^^^ aesMul b 1 ^^^ aesMul c 1 ^^^ aesMul d 2) 9 = a := by
  have lt {x y : Nat} (hx : x < 256) (hy : y < 256) : x ^^^ y < 256 := Nat.xor_lt_two_pow (n := 8) hx hy
  have m {x : Nat} (hx : x < 256) (k : Nat) : aesMul x k < 256 := aesMul_lt x k hx
  have add4 (p q r s k : Nat) (hp : p < 256) (hq : q < 256) (hr : r < 256) (hs : s < 256) :
      aesMul (p ^^^ q ^^^ r ^^^ s) k = aesMul p k ^^^ aesMul q k ^^^ aesMul r k ^^^ aesMul s k := by
    rw [aesMul_xor _ _ _ (lt (lt hp hq) hr) hs, aesMul_xor _ _ _ (lt hp hq) hr, aesMul_xor _ _ _ hp hq]
  rw [add4 _ _ _ _ _ (m ha _) (m hb _) (m hc _) (m hd _), add4 _ _ _ _ _ (m ha _) (m hb _) (m hc _) (m hd _),
    add4 _ _ _ _ _ (m ha _) (m hb _) (m hc _) (m hd _), add4 _ _ _ _ _ (m ha _) (m hb _) (m hc _) (m hd _)]
  have e1 := mix_diag a ha
  have e2 := mix_one b hb
  have e3 := mix_two c hc
  have e4 := mix_three d hd
  calc _ = (aesMul (aesMul a 2) 14 ^^^ aesMul (aesMul a 1) 11 ^^^ aesMul (aesMul a 1) 13 ^^^ aesMul (aesMul a 3) 9)
        ^^^ (aesMul (aesMul b 3) 14 ^^^ aesMul (aesMul b 2) 11 ^^^ aesMul (aesMul b 1) 13 ^^^ aesMul (aesMul b 1) 9)
        ^^^ (aesMul (aesMul c 1) 14 ^^^ aesMul (aesMul c 3) 11 ^^^ aesMul (aesMul c 2) 13 ^^^ aesMul (aesMul c 1) 9)
        ^^^ (aesMul (aesMul d 1) 14 ^^^ aesMul (aesMul d 1) 11 ^^^ aesMul (aesMul d 3) 13 ^^^ aesMul (aesMul d 2) 9) := by ac_rfl
    _ = a := by rw [e1, e2, e3, e4]; simp

/-- A column's byte is a sum of four products. -/
theorem aesMix_explicit (k0 k1 k2 k3 b0 b1 b2 b3 b4 b5 b6 b7 b8 b9 b10 b11 b12 b13 b14 b15 : Nat) :
    aesMix [k0, k1, k2, k3] [b0, b1, b2, b3, b4, b5, b6, b7, b8, b9, b10, b11, b12, b13, b14, b15] =
      [0 ^^^ aesMul b0 k0 ^^^ aesMul b1 k1 ^^^ aesMul b2 k2 ^^^ aesMul b3 k3, 0 ^^^ aesMul b0 k3 ^^^ aesMul b1 k0 ^^^ aesMul b2 k1 ^^^ aesMul b3 k2, 0 ^^^ aesMul b0 k2 ^^^ aesMul b1 k3 ^^^ aesMul b2 k0 ^^^ aesMul b3 k1, 0 ^^^ aesMul b0 k1 ^^^ aesMul b1 k2 ^^^ aesMul b2 k3 ^^^ aesMul b3 k0, 0 ^^^ aesMul b4 k0 ^^^ aesMul b5 k1 ^^^ aesMul b6 k2 ^^^ aesMul b7 k3, 0 ^^^ aesMul b4 k3 ^^^ aesMul b5 k0 ^^^ aesMul b6 k1 ^^^ aesMul b7 k2, 0 ^^^ aesMul b4 k2 ^^^ aesMul b5 k3 ^^^ aesMul b6 k0 ^^^ aesMul b7 k1, 0 ^^^ aesMul b4 k1 ^^^ aesMul b5 k2 ^^^ aesMul b6 k3 ^^^ aesMul b7 k0, 0 ^^^ aesMul b8 k0 ^^^ aesMul b9 k1 ^^^ aesMul b10 k2 ^^^ aesMul b11 k3, 0 ^^^ aesMul b8 k3 ^^^ aesMul b9 k0 ^^^ aesMul b10 k1 ^^^ aesMul b11 k2, 0 ^^^ aesMul b8 k2 ^^^ aesMul b9 k3 ^^^ aesMul b10 k0 ^^^ aesMul b11 k1, 0 ^^^ aesMul b8 k1 ^^^ aesMul b9 k2 ^^^ aesMul b10 k3 ^^^ aesMul b11 k0, 0 ^^^ aesMul b12 k0 ^^^ aesMul b13 k1 ^^^ aesMul b14 k2 ^^^ aesMul b15 k3, 0 ^^^ aesMul b12 k3 ^^^ aesMul b13 k0 ^^^ aesMul b14 k1 ^^^ aesMul b15 k2, 0 ^^^ aesMul b12 k2 ^^^ aesMul b13 k3 ^^^ aesMul b14 k0 ^^^ aesMul b15 k1, 0 ^^^ aesMul b12 k1 ^^^ aesMul b13 k2 ^^^ aesMul b14 k3 ^^^ aesMul b15 k0] := rfl

theorem aesMix_inv {b : List Nat} (h : Block16 b) : aesMix [14, 11, 13, 9] (aesMix [2, 3, 1, 1] b) = b := by
  obtain ⟨b0, b1, b2, b3, b4, b5, b6, b7, b8, b9, b10, b11, b12, b13, b14, b15, rfl, h0, h1, h2, h3, h4, h5, h6, h7, h8, h9, h10, h11, h12, h13, h14, h15⟩ := block16_cases h
  rw [aesMix_explicit, aesMix_explicit]
  simp only [Nat.zero_xor]
  have e0 := mix_column b0 b1 b2 b3 h0 h1 h2 h3
  have e1 := mix_column b1 b2 b3 b0 h1 h2 h3 h0
  have e2 := mix_column b2 b3 b0 b1 h2 h3 h0 h1
  have e3 := mix_column b3 b0 b1 b2 h3 h0 h1 h2
  have e4 := mix_column b4 b5 b6 b7 h4 h5 h6 h7
  have e5 := mix_column b5 b6 b7 b4 h5 h6 h7 h4
  have e6 := mix_column b6 b7 b4 b5 h6 h7 h4 h5
  have e7 := mix_column b7 b4 b5 b6 h7 h4 h5 h6
  have e8 := mix_column b8 b9 b10 b11 h8 h9 h10 h11
  have e9 := mix_column b9 b10 b11 b8 h9 h10 h11 h8
  have e10 := mix_column b10 b11 b8 b9 h10 h11 h8 h9
  have e11 := mix_column b11 b8 b9 b10 h11 h8 h9 h10
  have e12 := mix_column b12 b13 b14 b15 h12 h13 h14 h15
  have e13 := mix_column b13 b14 b15 b12 h13 h14 h15 h12
  have e14 := mix_column b14 b15 b12 b13 h14 h15 h12 h13
  have e15 := mix_column b15 b12 b13 b14 h15 h12 h13 h14
  simp only [List.cons.injEq, and_true]
  refine ⟨Eq.trans (by ac_rfl) e0, Eq.trans (by ac_rfl) e1, Eq.trans (by ac_rfl) e2, Eq.trans (by ac_rfl) e3, Eq.trans (by ac_rfl) e4, Eq.trans (by ac_rfl) e5, Eq.trans (by ac_rfl) e6, Eq.trans (by ac_rfl) e7, Eq.trans (by ac_rfl) e8, Eq.trans (by ac_rfl) e9, Eq.trans (by ac_rfl) e10, Eq.trans (by ac_rfl) e11, Eq.trans (by ac_rfl) e12, Eq.trans (by ac_rfl) e13, Eq.trans (by ac_rfl) e14, Eq.trans (by ac_rfl) e15⟩

/-- The round keys fit the blocks. -/
def GoodKeys (ks : List (List Nat)) : Prop := ks.length = 15 ∧ ∀ k ∈ ks, Block16 k

theorem GoodKeys.at {ks : List (List Nat)} (h : GoodKeys ks) {i : Nat} (hi : i < 15) : Block16 (ks.getD i []) := by
  rw [List.getD_eq_getElem _ _ (by rw [h.1]; exact hi)]
  exact h.2 _ (List.getElem_mem _)

/-- Rounds undone in the opposite order. -/
theorem foldl_undone {α β : Type} (P : α → Prop) (Q : β → Prop) (f g : α → β → α) (hf : ∀ x k, P x → Q k → P (f x k)) (hg : ∀ x k, P x → Q k → g (f x k) k = x) :
    ∀ (l : List β) (x : α), P x → (∀ k ∈ l, Q k) → P (l.foldl f x) ∧ l.reverse.foldl g (l.foldl f x) = x
  | [], _, h, _ => ⟨h, rfl⟩
  | k :: l, x, h, hl => by
    have r := foldl_undone P Q f g hf hg l (f x k) (hf x k h (hl k (by simp))) (fun k' hk => hl k' (by simp [hk]))
    refine ⟨r.1, ?_⟩
    simp only [List.foldl_cons, List.reverse_cons, List.foldl_append, List.foldl_nil, r.2]
    exact hg x k h (hl k (by simp))

theorem aes_round_trip {ks : List (List Nat)} (hk : GoodKeys ks) {b : List Nat} (hb : Block16 b) :
    Block16 (aesEncrypt ks b) ∧ aesDecrypt ks (aesEncrypt ks b) = b := by
  have h0 := hb.xor (hk.at (i := 0) (by omega))
  have hmid : ∀ k ∈ (ks.drop 1).take 13, Block16 k := fun k h => hk.2 k (List.mem_of_mem_drop (List.mem_of_mem_take h))
  have r := foldl_undone Block16 Block16 (fun x k => xorList (aesMix [2, 3, 1, 1] (aesShift 1 (x.map aesSub))) k)
    (fun x k => (aesShift 3 (aesMix [14, 11, 13, 9] (xorList x k))).map aesSubInv)
    (fun x k hx h => ((((hx.map aesSub_lt).shift 1).mix _).xor h))
    (fun x k hx h => by
      have hs := (hx.map aesSub_lt)
      rw [xorList_self_right ((((hs.shift 1).mix _).1).trans h.1.symm), aesMix_inv (hs.shift 1), aesShift_three_one hs, map_subInv_sub hx])
    ((ks.drop 1).take 13) _ h0 hmid
  have hs := r.1.map aesSub_lt
  have h14 := hk.at (i := 14) (by omega)
  refine ⟨(hs.shift 1).xor h14, ?_⟩
  unfold aesEncrypt aesDecrypt
  dsimp only
  rw [xorList_self_right (((hs.shift 1).1).trans h14.1.symm), aesShift_three_one hs, map_subInv_sub r.1, r.2]
  exact xorList_self_right (hb.1.trans (hk.at (i := 0) (by omega)).1.symm)

/-- A word of four bytes. -/
def Word4 (w : List Nat) : Prop := w.length = 4 ∧ ∀ x ∈ w, x < 256

theorem Word4.xor {a b : List Nat} (ha : Word4 a) (hb : Word4 b) : Word4 (xorList a b) := by
  refine ⟨by simp [xorList, ha.1, hb.1], fun x hx => ?_⟩
  obtain ⟨i, hi, rfl⟩ := List.mem_iff_getElem.1 hx
  simp only [xorList, List.getElem_zipWith]
  exact Nat.xor_lt_two_pow (n := 8) (ha.2 _ (List.getElem_mem _)) (hb.2 _ (List.getElem_mem _))

theorem Word4.sub {w : List Nat} (h : Word4 w) : Word4 (w.map aesSub) := by
  refine ⟨by simp [h.1], fun x hx => ?_⟩
  obtain ⟨y, hy, rfl⟩ := List.mem_map.1 hx
  exact aesSub_lt y (h.2 y hy)

theorem Word4.rot {w : List Nat} (h : Word4 w) : Word4 (w.drop 1 ++ w.take 1) := by
  refine ⟨by simp [h.1], fun x hx => ?_⟩
  rcases List.mem_append.1 hx with hx | hx
  · exact h.2 x (List.mem_of_mem_drop hx)
  · exact h.2 x (List.mem_of_mem_take hx)

/-- Eight words of the key schedule. -/
def Words8 (l : List (List Nat)) : Prop := l.length = 8 ∧ ∀ w ∈ l, Word4 w

theorem Words8.expand {l : List (List Nat)} (h : Words8 l) {i : Nat} (hi : i < 8) : Words8 (aesExpand8 i l) := by
  have p (j : Nat) (hj : j < 8) : Word4 (l.getD j []) := by
    rw [List.getD_eq_getElem _ _ (by rw [h.1]; exact hj)]
    exact h.2 _ (List.getElem_mem _)
  have rc : Word4 [aesRcon i, 0, 0, 0] := by
    refine ⟨rfl, fun x hx => ?_⟩
    have : 2 ^ i < 2 ^ 8 := Nat.pow_lt_pow_right (by omega) hi
    simp only [List.mem_cons, List.not_mem_nil, or_false] at hx
    rcases hx with rfl | rfl | rfl | rfl <;> first | exact this | decide
  have w0 := ((p 0 (by omega)).xor ((p 7 (by omega)).rot.sub)).xor rc
  have w1 := (p 1 (by omega)).xor w0
  have w2 := (p 2 (by omega)).xor w1
  have w3 := (p 3 (by omega)).xor w2
  have w4 := (p 4 (by omega)).xor w3.sub
  have w5 := (p 5 (by omega)).xor w4
  have w6 := (p 6 (by omega)).xor w5
  have w7 := (p 7 (by omega)).xor w6
  refine ⟨rfl, fun w hw => ?_⟩
  simp only [aesExpand8, List.mem_cons, List.not_mem_nil, or_false] at hw
  rcases hw with rfl | rfl | rfl | rfl | rfl | rfl | rfl | rfl <;> assumption

theorem aesSchedule_good : ∀ (n i : Nat) (l : List (List Nat)), Words8 l → i + n ≤ 8 → (aesSchedule n i l).length = 8 * n ∧ ∀ w ∈ aesSchedule n i l, Word4 w
  | 0, _, _, _, _ => by simp [aesSchedule]
  | n + 1, i, l, h, hi => by
    cases n with
    | zero => simpa [aesSchedule, h.1] using h.2
    | succ n =>
      have r := aesSchedule_good (n + 1) (i + 1) _ (h.expand (i := i) (by omega)) (by omega)
      rw [aesSchedule]
      refine ⟨by rw [List.length_append, h.1, r.1]; omega, fun w hw => ?_⟩
      rcases List.mem_append.1 hw with hw | hw
      · exact h.2 w hw
      · exact r.2 w hw

theorem chunksOf_good {α : Type} (n : Nat) : ∀ (k : Nat) (l : List α), n * k ≤ l.length →
    (chunksOf n k l).length = k ∧ ∀ c ∈ chunksOf n k l, c.length = n ∧ ∀ x ∈ c, x ∈ l
  | 0, _, _ => by simp [chunksOf]
  | k + 1, l, h => by
    have hn : n * (k + 1) = n * k + n := Nat.mul_succ n k
    have r := chunksOf_good n k (l.drop n) (by rw [List.length_drop]; omega)
    rw [chunksOf]
    refine ⟨by rw [List.length_cons, r.1], fun c hc => ?_⟩
    rcases List.mem_cons.1 hc with rfl | hc
    · exact ⟨by rw [List.length_take]; omega, fun x hx => List.mem_of_mem_take hx⟩
    · exact ⟨(r.2 c hc).1, fun x hx => List.mem_of_mem_drop ((r.2 c hc).2 x hx)⟩

theorem aesKeys_good {key : List Nat} (hl : key.length = 32) (hb : ∀ x ∈ key, x < 256) : GoodKeys (aesKeys key) := by
  have c := chunksOf_good 4 8 key (by omega)
  have s := aesSchedule_good 8 0 _ ⟨c.1, fun w hw => ⟨(c.2 w hw).1, fun x hx => hb x ((c.2 w hw).2 x hx)⟩⟩ (by omega)
  have hf : (aesSchedule 8 0 (chunksOf 4 8 key)).flatten.length = 256 := by
    rw [List.length_flatten, List.map_congr_left (g := fun _ => 4) (fun w hw => (s.2 w hw).1), List.map_const', s.1]
    rfl
  have k := chunksOf_good 16 15 (aesSchedule 8 0 (chunksOf 4 8 key)).flatten (by omega)
  refine ⟨k.1, fun w hw => ⟨(k.2 w hw).1, fun x hx => ?_⟩⟩
  obtain ⟨v, hv, hxv⟩ := List.mem_flatten.1 ((k.2 w hw).2 x hx)
  exact (s.2 v hv).2 x hxv

theorem block16_natLe (v : Nat) : Block16 ((natLe 16 v).map (·.toNat)) := by
  refine ⟨by simp [natLe_length], fun x hx => ?_⟩
  obtain ⟨y, -, rfl⟩ := List.mem_map.1 hx
  exact y.isLt

/-- The blocks of a data unit of n blocks, ciphered and deciphered under the same tweaks. -/
theorem xts_round_trip {ks : List (List Nat)} (hk : GoodKeys ks) : ∀ (n : Nat) (t d : List Nat), Block16 t → d.length = 16 * n → (∀ x ∈ d, x < 256) →
    (xtsBlocks (aesEncrypt ks) n t d).length = 16 * n ∧ (∀ x ∈ xtsBlocks (aesEncrypt ks) n t d, x < 256)
    ∧ xtsBlocks (aesDecrypt ks) n t (xtsBlocks (aesEncrypt ks) n t d) = d
  | 0, _, d, _, h, _ => by
    have : d = [] := List.eq_nil_of_length_eq_zero (by omega)
    simp [xtsBlocks, this]
  | n + 1, t, d, ht, h, hd => by
    have hb : Block16 (d.take 16) := ⟨by rw [List.length_take]; omega, fun x hx => hd x (List.mem_of_mem_take hx)⟩
    have r := xts_round_trip hk n (xtsNext t) (d.drop 16) (block16_natLe _) (by rw [List.length_drop]; omega) (fun x hx => hd x (List.mem_of_mem_drop hx))
    have e := aes_round_trip hk (hb.xor ht)
    have hx := e.1.xor ht
    simp only [xtsBlocks]
    refine ⟨by rw [List.length_append, hx.1, r.1]; omega, fun x hm => ?_, ?_⟩
    · rcases List.mem_append.1 hm with hm | hm
      · exact hx.2 x hm
      · exact r.2.1 x hm
    · rw [List.take_left' hx.1, List.drop_left' hx.1, xorList_self_right (e.1.1.trans ht.1.symm), e.2, xorList_self_right (hb.1.trans ht.1.symm), r.2.2,
        List.take_append_drop]

theorem map_toNat_ofNat {l : List Nat} (h : ∀ x ∈ l, x < 256) : (l.map (BitVec.ofNat 8)).map (·.toNat) = l := by
  rw [List.map_map]
  refine (List.map_congr_left (fun x hx => ?_)).trans (List.map_id l)
  simp [Nat.mod_eq_of_lt (h x hx)]

/-- A grain enciphered comes back when deciphered with the same key and tweak. -/
theorem xtsGrain_round_trip (key : BitVec 512) (g : Nat) (d : List Byte) (h : d.length = 256) :
    xtsGrain false key g (xtsGrain true key g d) = d ∧ (xtsGrain true key g d).length = 256 := by
  have kb : ∀ x ∈ (natLe 64 key.toNat).map (·.toNat), x < 256 := fun x hx => by
    obtain ⟨y, -, rfl⟩ := List.mem_map.1 hx
    exact y.isLt
  have kl : ((natLe 64 key.toNat).map (·.toNat)).length = 64 := by simp [natLe_length]
  have k1 := aesKeys_good (key := ((natLe 64 key.toNat).map (·.toNat)).take 32) (by rw [List.length_take, kl]; rfl) (fun x hx => kb x (List.mem_of_mem_take hx))
  have k2 := aesKeys_good (key := ((natLe 64 key.toNat).map (·.toNat)).drop 32) (by rw [List.length_drop, kl]) (fun x hx => kb x (List.mem_of_mem_drop hx))
  have r := xts_round_trip k1 16 _ (d.map (·.toNat)) (aes_round_trip k2 (block16_natLe g)).1 (by simp [h]) (fun x hx => by
    obtain ⟨y, -, rfl⟩ := List.mem_map.1 hx
    exact y.isLt)
  refine ⟨?_, by simpa [xtsGrain] using r.1⟩
  simp only [xtsGrain, if_true, Bool.false_eq_true, if_false]
  rw [map_toNat_ofNat r.2.1, r.2.2, List.map_map]
  refine (List.map_congr_left (fun x _ => ?_)).trans (List.map_id d)
  simp

end Sys2Proof.Machine
end

