-- ==== Sys2Proof/Laws/Mailbox.lean ====
section
/-! SUPPORT. What serving a mailbox does, said once: the four ways it can end. -/

namespace Sys2Proof.Machine

variable {s : State} {f : Fn} {m : Mb} {form : CmdForm} {row : Req → State → State × Answer} {u : State} {a : Answer}

/-- A mailbox that is not first, or not ready, or holds another code, is not taken. -/
theorem serve_passes (h : (s.takes f m && (s.ctl.req f m).code == form.code) = false) : s.serve f m form row = s := by
  simp [State.serve, h]

/-- A failure of checks 2 to 5 is answered and nothing else happens (R329). -/
theorem serve_refused (ht : s.takes f m = true) (hc : (s.ctl.req f m).code = form.code) (hr : form.refusal (s.ctl.req f m) s = some a) :
    s.serve f m form row = s.answer f m (s.ctl.req f m) a := by
  simp [State.serve, ht, hc, hr]

/-- A command answered OK is applied and answered. -/
theorem serve_ok (ht : s.takes f m = true) (hc : (s.ctl.req f m).code = form.code) (hr : form.refusal (s.ctl.req f m) s = none)
    (hrow : row (s.ctl.req f m) s = (u, a)) (ha : a.status = stOk) : s.serve f m form row = u.answer f m (s.ctl.req f m) a := by
  simp [State.serve, ht, hc, hr, hrow, ha, stOk, stAccepted]

/-- A row of one of the ACCEPTED commands leaves room for it (R332). -/
theorem inFlight_lt (hf : form.accepts = true) {q : Req} (hr : form.refusal q s = none) : s.ctl.inFlight q.fn < 32 := by
  unfold CmdForm.refusal at hr
  split at hr
  · cases hr
  · split at hr
    · cases hr
    · split at hr
      · cases hr
      · by_contra hc
        simp [hf, Nat.le_of_not_lt hc] at hr

/-- A command answered ACCEPTED is applied and answered (R332). -/
theorem serve_accepted (ht : s.takes f m = true) (hc : (s.ctl.req f m).code = form.code) (hr : form.refusal (s.ctl.req f m) s = none)
    (hf : form.accepts = true) (hrow : row (s.ctl.req f m) s = (u, a)) (ha : a.status = stAccepted) :
    s.serve f m form row = u.answer f m (s.ctl.req f m) a := by
  have := inFlight_lt hf hr
  have h' : ¬ 32 ≤ s.ctl.inFlight f := by
    have e : (s.ctl.req f m).fn = f := rfl
    rw [e] at this; omega
  simp [State.serve, ht, hc, hr, hrow, ha, h', stOk, stAccepted]

/-- A row that refuses leaves the state it was given. -/
theorem serve_row_refused (ht : s.takes f m = true) (hc : (s.ctl.req f m).code = form.code) (hr : form.refusal (s.ctl.req f m) s = none)
    (hrow : row (s.ctl.req f m) s = (u, a)) (ha : a.status ≠ stOk ∧ a.status ≠ stAccepted ∧ a.status ≠ stSelftestDeferred ∧ a.status ≠ stUncorrectable) :
    s.serve f m form row = s.answer f m (s.ctl.req f m) a := by
  simp [State.serve, ht, hc, hr, hrow, ha]

/-- An effect that needs a clock happens while no thermal trip stands. -/
theorem clocked_runs (h : s.clocks.thermtrip = false) (g : State → State) : s.clocked g = g s := by simp [State.clocked, h]

/-- After a thermal trip it does not. -/
theorem clocked_stops (h : s.clocks.thermtrip = true) (g : State → State) : s.clocked g = s := by simp [State.clocked, h]

end Sys2Proof.Machine
end

