-- ==== Sys2Proof/Laws/Cores.lean ====
section
/-! SUPPORT. What the sequencer's issue of a word does, said once. -/

namespace Sys2Proof.Machine

open Sys2Proof.Safety

/-- A word the sequencer reaches acts on the state in which it was reached. -/
theorem issueWord_of_issues {s s1 : State} {c opcode : Nat} {r : RunBlock} {word p : Nat} (h : Issues s c opcode s1 r word p)
    (act : State → RunBlock → Nat → Nat → State) : s.clocked (fun s => s.issueWord c opcode act) = act s1 r word p := by
  obtain ⟨hc, r0, ra, h1, h2, h3, h4, rfl, h5, h6, h7, h8, h9, rfl⟩ := h
  rw [clocked_runs hc]
  unfold State.issueWord
  simp only [h1, h2, h3, h4, h5, h6, h7, h8, h9]
  simp

end Sys2Proof.Machine
end

