-- ==== Sys2Proof/Laws/Memory.lean ====
section
/-! SUPPORT. Every memory operation keeps the canonical form of memory. -/

namespace Sys2Proof.Machine

theorem MemState.wf_putGrain {m : MemState} {g : Nat} {d : List Byte} (h : m.wf = true) : (m.putGrain g d).wf = true := twf_setBytes h

theorem MemState.wf_write {m : MemState} {a : Nat} {bs : List Byte} (h : m.wf = true) : (m.write a bs).wf = true := by
  unfold MemState.write
  split
  · exact twf_setBytes h
  · next hn =>
    clear hn
    generalize grainsOf a bs.length = l
    induction l generalizing m with
    | nil => exact h
    | cons g l ih =>
      refine ih ?_
      dsimp only
      split
      · exact MemState.wf_putGrain h
      · split
        · exact h
        · exact MemState.wf_putGrain h

theorem MemState.wf_zero {m : MemState} {lo hi : Nat} (h : m.wf = true) : (m.zero lo hi).wf = true := twf_tclear h

theorem MemState.wf_note {m : MemState} {a : Nat} {scrub : Bool} {o : GrainOutcome} (h : m.wf = true) : (m.note a scrub o).wf = true := h

theorem MemState.wf_ftPut {m : MemState} {t : FtBase} {e : Nat} {x : FtEntry} (h : m.wf = true) : (m.ftPut t e x).wf = true := MemState.wf_write h

theorem MemState.wf_ftMod {m : MemState} {t : FtBase} {e : Nat} {f : FtEntry → FtEntry} (h : m.wf = true) : (m.ftMod t e f).wf = true := MemState.wf_write h

theorem MemState.wf_scrubBack {m : MemState} {g : Nat} {raw : List Byte} (h : m.wf = true) : (m.scrubBack g raw).wf = true := by
  unfold MemState.scrubBack
  split
  · exact h
  · exact twf_setBytes h

/-- Cells put down one after another, each where a function says, or nowhere. -/
theorem twf_placed {place : Nat → Option Nat} : ∀ {cs l : Tab Byte}, twf (0 : Byte) l = true →
    twf (0 : Byte) (cs.foldl (fun (l : Tab Byte) c => match place c.1 with
      | some a => tset (0 : Byte) l a c.2
      | none => l) l) = true
  | [], _, h => h
  | c :: cs, l, h => by
    refine twf_placed (cs := cs) ?_
    dsimp only
    split
    · exact twf_tset h
    · exact h

theorem MemState.wf_remap {m : MemState} {c : MapChange} (h : m.wf = true) : (m.remap c).wf = true :=
  twf_placed (place := fun a => movedTo m _ _ a) (twf_filter h)

theorem MemState.wf_retired {m : MemState} {r : RetireJob} (h : m.wf = true) : (m.retired r).wf = true := by
  unfold MemState.retired
  split
  · exact twf_tclear h
  · exact twf_filter h

theorem MemState.wf_reset : State.reset.mem.wf = true := rfl

end Sys2Proof.Machine
end

