-- ==== Sys2Proof/Laws/State.lean ====
section
/-! SUPPORT. What each named update of State leaves as it was, and what it writes. -/

namespace Sys2Proof.Machine

variable (s : State)

@[simp] theorem State.upTo_pending (t : Nat) : (s.upTo t).pending = s.pending := rfl
@[simp] theorem State.upTo_freeCtr (t : Nat) : (s.upTo t).freeCtr = s.freeCtr := rfl
@[simp] theorem State.upTo_mem (t : Nat) : (s.upTo t).mem = s.mem := rfl
@[simp] theorem State.upTo_share (t : Nat) : (s.upTo t).share = s.share := rfl
@[simp] theorem State.upTo_cores (t : Nat) : (s.upTo t).cores = s.cores := rfl
@[simp] theorem State.upTo_pages (t : Nat) : (s.upTo t).pages = s.pages := rfl
@[simp] theorem State.upTo_seqs (t : Nat) : (s.upTo t).seqs = s.seqs := rfl
@[simp] theorem State.upTo_fabric (t : Nat) : (s.upTo t).fabric = s.fabric := rfl
@[simp] theorem State.upTo_codecs (t : Nat) : (s.upTo t).codecs = s.codecs := rfl
@[simp] theorem State.upTo_stems (t : Nat) : (s.upTo t).stems = s.stems := rfl
@[simp] theorem State.upTo_ctl (t : Nat) : (s.upTo t).ctl = s.ctl := rfl
@[simp] theorem State.upTo_host (t : Nat) : (s.upTo t).host = s.host := rfl
@[simp] theorem State.upTo_clocks (t : Nat) : (s.upTo t).clocks = s.clocks := rfl
@[simp] theorem State.upTo_rst (t : Nat) : (s.upTo t).rst = s.rst := rfl
@[simp] theorem State.upTo_sec (t : Nat) : (s.upTo t).sec = s.sec := rfl
@[simp] theorem State.upTo_svc (t : Nat) : (s.upTo t).svc = s.svc := rfl
@[simp] theorem State.upTo_now (t : Nat) : (s.upTo t).now = max s.now t := rfl

@[simp] theorem State.setCore_pending (c : Nat) (k : CoreState) : (s.setCore c k).pending = s.pending := rfl
@[simp] theorem State.setCore_now (c : Nat) (k : CoreState) : (s.setCore c k).now = s.now := rfl
@[simp] theorem State.setCore_freeCtr (c : Nat) (k : CoreState) : (s.setCore c k).freeCtr = s.freeCtr := rfl
@[simp] theorem State.setCore_mem (c : Nat) (k : CoreState) : (s.setCore c k).mem = s.mem := rfl
@[simp] theorem State.setCore_share (c : Nat) (k : CoreState) : (s.setCore c k).share = s.share := rfl
@[simp] theorem State.setCore_pages (c : Nat) (k : CoreState) : (s.setCore c k).pages = s.pages := rfl
@[simp] theorem State.setCore_seqs (c : Nat) (k : CoreState) : (s.setCore c k).seqs = s.seqs := rfl
@[simp] theorem State.setCore_fabric (c : Nat) (k : CoreState) : (s.setCore c k).fabric = s.fabric := rfl
@[simp] theorem State.setCore_codecs (c : Nat) (k : CoreState) : (s.setCore c k).codecs = s.codecs := rfl
@[simp] theorem State.setCore_stems (c : Nat) (k : CoreState) : (s.setCore c k).stems = s.stems := rfl
@[simp] theorem State.setCore_ctl (c : Nat) (k : CoreState) : (s.setCore c k).ctl = s.ctl := rfl
@[simp] theorem State.setCore_host (c : Nat) (k : CoreState) : (s.setCore c k).host = s.host := rfl
@[simp] theorem State.setCore_clocks (c : Nat) (k : CoreState) : (s.setCore c k).clocks = s.clocks := rfl
@[simp] theorem State.setCore_rst (c : Nat) (k : CoreState) : (s.setCore c k).rst = s.rst := rfl
@[simp] theorem State.setCore_sec (c : Nat) (k : CoreState) : (s.setCore c k).sec = s.sec := rfl
@[simp] theorem State.setCore_svc (c : Nat) (k : CoreState) : (s.setCore c k).svc = s.svc := rfl
@[simp] theorem State.setCore_cores (c : Nat) (k : CoreState) : (s.setCore c k).cores = s.cores.setCore c k := rfl

@[simp] theorem State.modCore_pending (c : Nat) (f : CoreState → CoreState) : (s.modCore c f).pending = s.pending := rfl
@[simp] theorem State.modCore_now (c : Nat) (f : CoreState → CoreState) : (s.modCore c f).now = s.now := rfl
@[simp] theorem State.modCore_freeCtr (c : Nat) (f : CoreState → CoreState) : (s.modCore c f).freeCtr = s.freeCtr := rfl
@[simp] theorem State.modCore_mem (c : Nat) (f : CoreState → CoreState) : (s.modCore c f).mem = s.mem := rfl
@[simp] theorem State.modCore_share (c : Nat) (f : CoreState → CoreState) : (s.modCore c f).share = s.share := rfl
@[simp] theorem State.modCore_pages (c : Nat) (f : CoreState → CoreState) : (s.modCore c f).pages = s.pages := rfl
@[simp] theorem State.modCore_seqs (c : Nat) (f : CoreState → CoreState) : (s.modCore c f).seqs = s.seqs := rfl
@[simp] theorem State.modCore_fabric (c : Nat) (f : CoreState → CoreState) : (s.modCore c f).fabric = s.fabric := rfl
@[simp] theorem State.modCore_codecs (c : Nat) (f : CoreState → CoreState) : (s.modCore c f).codecs = s.codecs := rfl
@[simp] theorem State.modCore_stems (c : Nat) (f : CoreState → CoreState) : (s.modCore c f).stems = s.stems := rfl
@[simp] theorem State.modCore_ctl (c : Nat) (f : CoreState → CoreState) : (s.modCore c f).ctl = s.ctl := rfl
@[simp] theorem State.modCore_host (c : Nat) (f : CoreState → CoreState) : (s.modCore c f).host = s.host := rfl
@[simp] theorem State.modCore_clocks (c : Nat) (f : CoreState → CoreState) : (s.modCore c f).clocks = s.clocks := rfl
@[simp] theorem State.modCore_rst (c : Nat) (f : CoreState → CoreState) : (s.modCore c f).rst = s.rst := rfl
@[simp] theorem State.modCore_sec (c : Nat) (f : CoreState → CoreState) : (s.modCore c f).sec = s.sec := rfl
@[simp] theorem State.modCore_svc (c : Nat) (f : CoreState → CoreState) : (s.modCore c f).svc = s.svc := rfl
@[simp] theorem State.modCore_cores (c : Nat) (f : CoreState → CoreState) : (s.modCore c f).cores = s.cores.setCore c (f (s.core c)) := rfl

@[simp] theorem State.modRun_pending (c : Nat) (f : RunBlock → RunBlock) : (s.modRun c f).pending = s.pending := rfl
@[simp] theorem State.modRun_now (c : Nat) (f : RunBlock → RunBlock) : (s.modRun c f).now = s.now := rfl
@[simp] theorem State.modRun_freeCtr (c : Nat) (f : RunBlock → RunBlock) : (s.modRun c f).freeCtr = s.freeCtr := rfl
@[simp] theorem State.modRun_mem (c : Nat) (f : RunBlock → RunBlock) : (s.modRun c f).mem = s.mem := rfl
@[simp] theorem State.modRun_share (c : Nat) (f : RunBlock → RunBlock) : (s.modRun c f).share = s.share := rfl
@[simp] theorem State.modRun_pages (c : Nat) (f : RunBlock → RunBlock) : (s.modRun c f).pages = s.pages := rfl
@[simp] theorem State.modRun_seqs (c : Nat) (f : RunBlock → RunBlock) : (s.modRun c f).seqs = s.seqs := rfl
@[simp] theorem State.modRun_fabric (c : Nat) (f : RunBlock → RunBlock) : (s.modRun c f).fabric = s.fabric := rfl
@[simp] theorem State.modRun_codecs (c : Nat) (f : RunBlock → RunBlock) : (s.modRun c f).codecs = s.codecs := rfl
@[simp] theorem State.modRun_stems (c : Nat) (f : RunBlock → RunBlock) : (s.modRun c f).stems = s.stems := rfl
@[simp] theorem State.modRun_ctl (c : Nat) (f : RunBlock → RunBlock) : (s.modRun c f).ctl = s.ctl := rfl
@[simp] theorem State.modRun_host (c : Nat) (f : RunBlock → RunBlock) : (s.modRun c f).host = s.host := rfl
@[simp] theorem State.modRun_clocks (c : Nat) (f : RunBlock → RunBlock) : (s.modRun c f).clocks = s.clocks := rfl
@[simp] theorem State.modRun_rst (c : Nat) (f : RunBlock → RunBlock) : (s.modRun c f).rst = s.rst := rfl
@[simp] theorem State.modRun_sec (c : Nat) (f : RunBlock → RunBlock) : (s.modRun c f).sec = s.sec := rfl
@[simp] theorem State.modRun_svc (c : Nat) (f : RunBlock → RunBlock) : (s.modRun c f).svc = s.svc := rfl

@[simp] theorem State.setCtx_pending (f : Nat) (r : CtxRec) : (s.setCtx f r).pending = s.pending := rfl
@[simp] theorem State.setCtx_now (f : Nat) (r : CtxRec) : (s.setCtx f r).now = s.now := rfl
@[simp] theorem State.setCtx_freeCtr (f : Nat) (r : CtxRec) : (s.setCtx f r).freeCtr = s.freeCtr := rfl
@[simp] theorem State.setCtx_mem (f : Nat) (r : CtxRec) : (s.setCtx f r).mem = s.mem := rfl
@[simp] theorem State.setCtx_share (f : Nat) (r : CtxRec) : (s.setCtx f r).share = s.share := rfl
@[simp] theorem State.setCtx_cores (f : Nat) (r : CtxRec) : (s.setCtx f r).cores = s.cores := rfl
@[simp] theorem State.setCtx_pages (f : Nat) (r : CtxRec) : (s.setCtx f r).pages = s.pages := rfl
@[simp] theorem State.setCtx_fabric (f : Nat) (r : CtxRec) : (s.setCtx f r).fabric = s.fabric := rfl
@[simp] theorem State.setCtx_codecs (f : Nat) (r : CtxRec) : (s.setCtx f r).codecs = s.codecs := rfl
@[simp] theorem State.setCtx_stems (f : Nat) (r : CtxRec) : (s.setCtx f r).stems = s.stems := rfl
@[simp] theorem State.setCtx_ctl (f : Nat) (r : CtxRec) : (s.setCtx f r).ctl = s.ctl := rfl
@[simp] theorem State.setCtx_host (f : Nat) (r : CtxRec) : (s.setCtx f r).host = s.host := rfl
@[simp] theorem State.setCtx_clocks (f : Nat) (r : CtxRec) : (s.setCtx f r).clocks = s.clocks := rfl
@[simp] theorem State.setCtx_rst (f : Nat) (r : CtxRec) : (s.setCtx f r).rst = s.rst := rfl
@[simp] theorem State.setCtx_sec (f : Nat) (r : CtxRec) : (s.setCtx f r).sec = s.sec := rfl
@[simp] theorem State.setCtx_svc (f : Nat) (r : CtxRec) : (s.setCtx f r).svc = s.svc := rfl

@[simp] theorem State.modSeq_pending (i : Nat) (f : SeqEntry → SeqEntry) : (s.modSeq i f).pending = s.pending := rfl
@[simp] theorem State.modSeq_now (i : Nat) (f : SeqEntry → SeqEntry) : (s.modSeq i f).now = s.now := rfl
@[simp] theorem State.modSeq_freeCtr (i : Nat) (f : SeqEntry → SeqEntry) : (s.modSeq i f).freeCtr = s.freeCtr := rfl
@[simp] theorem State.modSeq_mem (i : Nat) (f : SeqEntry → SeqEntry) : (s.modSeq i f).mem = s.mem := rfl
@[simp] theorem State.modSeq_share (i : Nat) (f : SeqEntry → SeqEntry) : (s.modSeq i f).share = s.share := rfl
@[simp] theorem State.modSeq_cores (i : Nat) (f : SeqEntry → SeqEntry) : (s.modSeq i f).cores = s.cores := rfl
@[simp] theorem State.modSeq_pages (i : Nat) (f : SeqEntry → SeqEntry) : (s.modSeq i f).pages = s.pages := rfl
@[simp] theorem State.modSeq_fabric (i : Nat) (f : SeqEntry → SeqEntry) : (s.modSeq i f).fabric = s.fabric := rfl
@[simp] theorem State.modSeq_codecs (i : Nat) (f : SeqEntry → SeqEntry) : (s.modSeq i f).codecs = s.codecs := rfl
@[simp] theorem State.modSeq_stems (i : Nat) (f : SeqEntry → SeqEntry) : (s.modSeq i f).stems = s.stems := rfl
@[simp] theorem State.modSeq_ctl (i : Nat) (f : SeqEntry → SeqEntry) : (s.modSeq i f).ctl = s.ctl := rfl
@[simp] theorem State.modSeq_host (i : Nat) (f : SeqEntry → SeqEntry) : (s.modSeq i f).host = s.host := rfl
@[simp] theorem State.modSeq_clocks (i : Nat) (f : SeqEntry → SeqEntry) : (s.modSeq i f).clocks = s.clocks := rfl
@[simp] theorem State.modSeq_rst (i : Nat) (f : SeqEntry → SeqEntry) : (s.modSeq i f).rst = s.rst := rfl
@[simp] theorem State.modSeq_sec (i : Nat) (f : SeqEntry → SeqEntry) : (s.modSeq i f).sec = s.sec := rfl
@[simp] theorem State.modSeq_svc (i : Nat) (f : SeqEntry → SeqEntry) : (s.modSeq i f).svc = s.svc := rfl

@[simp] theorem State.modRec_pending (f : Nat) (g : PageRec → PageRec) : (s.modRec f g).pending = s.pending := rfl
@[simp] theorem State.modRec_now (f : Nat) (g : PageRec → PageRec) : (s.modRec f g).now = s.now := rfl
@[simp] theorem State.modRec_freeCtr (f : Nat) (g : PageRec → PageRec) : (s.modRec f g).freeCtr = s.freeCtr := rfl
@[simp] theorem State.modRec_mem (f : Nat) (g : PageRec → PageRec) : (s.modRec f g).mem = s.mem := rfl
@[simp] theorem State.modRec_share (f : Nat) (g : PageRec → PageRec) : (s.modRec f g).share = s.share := rfl
@[simp] theorem State.modRec_cores (f : Nat) (g : PageRec → PageRec) : (s.modRec f g).cores = s.cores := rfl
@[simp] theorem State.modRec_seqs (f : Nat) (g : PageRec → PageRec) : (s.modRec f g).seqs = s.seqs := rfl
@[simp] theorem State.modRec_fabric (f : Nat) (g : PageRec → PageRec) : (s.modRec f g).fabric = s.fabric := rfl
@[simp] theorem State.modRec_codecs (f : Nat) (g : PageRec → PageRec) : (s.modRec f g).codecs = s.codecs := rfl
@[simp] theorem State.modRec_stems (f : Nat) (g : PageRec → PageRec) : (s.modRec f g).stems = s.stems := rfl
@[simp] theorem State.modRec_ctl (f : Nat) (g : PageRec → PageRec) : (s.modRec f g).ctl = s.ctl := rfl
@[simp] theorem State.modRec_host (f : Nat) (g : PageRec → PageRec) : (s.modRec f g).host = s.host := rfl
@[simp] theorem State.modRec_clocks (f : Nat) (g : PageRec → PageRec) : (s.modRec f g).clocks = s.clocks := rfl
@[simp] theorem State.modRec_rst (f : Nat) (g : PageRec → PageRec) : (s.modRec f g).rst = s.rst := rfl
@[simp] theorem State.modRec_sec (f : Nat) (g : PageRec → PageRec) : (s.modRec f g).sec = s.sec := rfl
@[simp] theorem State.modRec_svc (f : Nat) (g : PageRec → PageRec) : (s.modRec f g).svc = s.svc := rfl

@[simp] theorem State.modPort_pending (p : Nat) (f : Port → Port) : (s.modPort p f).pending = s.pending := rfl
@[simp] theorem State.modPort_now (p : Nat) (f : Port → Port) : (s.modPort p f).now = s.now := rfl
@[simp] theorem State.modPort_freeCtr (p : Nat) (f : Port → Port) : (s.modPort p f).freeCtr = s.freeCtr := rfl
@[simp] theorem State.modPort_mem (p : Nat) (f : Port → Port) : (s.modPort p f).mem = s.mem := rfl
@[simp] theorem State.modPort_share (p : Nat) (f : Port → Port) : (s.modPort p f).share = s.share := rfl
@[simp] theorem State.modPort_cores (p : Nat) (f : Port → Port) : (s.modPort p f).cores = s.cores := rfl
@[simp] theorem State.modPort_pages (p : Nat) (f : Port → Port) : (s.modPort p f).pages = s.pages := rfl
@[simp] theorem State.modPort_seqs (p : Nat) (f : Port → Port) : (s.modPort p f).seqs = s.seqs := rfl
@[simp] theorem State.modPort_codecs (p : Nat) (f : Port → Port) : (s.modPort p f).codecs = s.codecs := rfl
@[simp] theorem State.modPort_stems (p : Nat) (f : Port → Port) : (s.modPort p f).stems = s.stems := rfl
@[simp] theorem State.modPort_ctl (p : Nat) (f : Port → Port) : (s.modPort p f).ctl = s.ctl := rfl
@[simp] theorem State.modPort_host (p : Nat) (f : Port → Port) : (s.modPort p f).host = s.host := rfl
@[simp] theorem State.modPort_clocks (p : Nat) (f : Port → Port) : (s.modPort p f).clocks = s.clocks := rfl
@[simp] theorem State.modPort_rst (p : Nat) (f : Port → Port) : (s.modPort p f).rst = s.rst := rfl
@[simp] theorem State.modPort_sec (p : Nat) (f : Port → Port) : (s.modPort p f).sec = s.sec := rfl
@[simp] theorem State.modPort_svc (p : Nat) (f : Port → Port) : (s.modPort p f).svc = s.svc := rfl
@[simp] theorem State.modPort_fabric (p : Nat) (f : Port → Port) : (s.modPort p f).fabric = s.fabric.modPort p f := rfl

@[simp] theorem State.modLink_pending (p : Nat) (f : PortLink → PortLink) : (s.modLink p f).pending = s.pending := rfl
@[simp] theorem State.modLink_now (p : Nat) (f : PortLink → PortLink) : (s.modLink p f).now = s.now := rfl
@[simp] theorem State.modLink_freeCtr (p : Nat) (f : PortLink → PortLink) : (s.modLink p f).freeCtr = s.freeCtr := rfl
@[simp] theorem State.modLink_mem (p : Nat) (f : PortLink → PortLink) : (s.modLink p f).mem = s.mem := rfl
@[simp] theorem State.modLink_share (p : Nat) (f : PortLink → PortLink) : (s.modLink p f).share = s.share := rfl
@[simp] theorem State.modLink_cores (p : Nat) (f : PortLink → PortLink) : (s.modLink p f).cores = s.cores := rfl
@[simp] theorem State.modLink_pages (p : Nat) (f : PortLink → PortLink) : (s.modLink p f).pages = s.pages := rfl
@[simp] theorem State.modLink_seqs (p : Nat) (f : PortLink → PortLink) : (s.modLink p f).seqs = s.seqs := rfl
@[simp] theorem State.modLink_codecs (p : Nat) (f : PortLink → PortLink) : (s.modLink p f).codecs = s.codecs := rfl
@[simp] theorem State.modLink_stems (p : Nat) (f : PortLink → PortLink) : (s.modLink p f).stems = s.stems := rfl
@[simp] theorem State.modLink_ctl (p : Nat) (f : PortLink → PortLink) : (s.modLink p f).ctl = s.ctl := rfl
@[simp] theorem State.modLink_host (p : Nat) (f : PortLink → PortLink) : (s.modLink p f).host = s.host := rfl
@[simp] theorem State.modLink_clocks (p : Nat) (f : PortLink → PortLink) : (s.modLink p f).clocks = s.clocks := rfl
@[simp] theorem State.modLink_rst (p : Nat) (f : PortLink → PortLink) : (s.modLink p f).rst = s.rst := rfl
@[simp] theorem State.modLink_sec (p : Nat) (f : PortLink → PortLink) : (s.modLink p f).sec = s.sec := rfl
@[simp] theorem State.modLink_svc (p : Nat) (f : PortLink → PortLink) : (s.modLink p f).svc = s.svc := rfl
@[simp] theorem State.modLink_fabric (p : Nat) (f : PortLink → PortLink) : (s.modLink p f).fabric = s.fabric.modLink p f := rfl

@[simp] theorem State.modSlot_pending (i : Nat) (f : Slot → Slot) : (s.modSlot i f).pending = s.pending := rfl
@[simp] theorem State.modSlot_now (i : Nat) (f : Slot → Slot) : (s.modSlot i f).now = s.now := rfl
@[simp] theorem State.modSlot_freeCtr (i : Nat) (f : Slot → Slot) : (s.modSlot i f).freeCtr = s.freeCtr := rfl
@[simp] theorem State.modSlot_mem (i : Nat) (f : Slot → Slot) : (s.modSlot i f).mem = s.mem := rfl
@[simp] theorem State.modSlot_share (i : Nat) (f : Slot → Slot) : (s.modSlot i f).share = s.share := rfl
@[simp] theorem State.modSlot_cores (i : Nat) (f : Slot → Slot) : (s.modSlot i f).cores = s.cores := rfl
@[simp] theorem State.modSlot_pages (i : Nat) (f : Slot → Slot) : (s.modSlot i f).pages = s.pages := rfl
@[simp] theorem State.modSlot_seqs (i : Nat) (f : Slot → Slot) : (s.modSlot i f).seqs = s.seqs := rfl
@[simp] theorem State.modSlot_codecs (i : Nat) (f : Slot → Slot) : (s.modSlot i f).codecs = s.codecs := rfl
@[simp] theorem State.modSlot_stems (i : Nat) (f : Slot → Slot) : (s.modSlot i f).stems = s.stems := rfl
@[simp] theorem State.modSlot_ctl (i : Nat) (f : Slot → Slot) : (s.modSlot i f).ctl = s.ctl := rfl
@[simp] theorem State.modSlot_host (i : Nat) (f : Slot → Slot) : (s.modSlot i f).host = s.host := rfl
@[simp] theorem State.modSlot_clocks (i : Nat) (f : Slot → Slot) : (s.modSlot i f).clocks = s.clocks := rfl
@[simp] theorem State.modSlot_rst (i : Nat) (f : Slot → Slot) : (s.modSlot i f).rst = s.rst := rfl
@[simp] theorem State.modSlot_sec (i : Nat) (f : Slot → Slot) : (s.modSlot i f).sec = s.sec := rfl
@[simp] theorem State.modSlot_svc (i : Nat) (f : Slot → Slot) : (s.modSlot i f).svc = s.svc := rfl

@[simp] theorem State.modOp_pending (i : Nat) (f : CollOp → CollOp) : (s.modOp i f).pending = s.pending := rfl
@[simp] theorem State.modOp_now (i : Nat) (f : CollOp → CollOp) : (s.modOp i f).now = s.now := rfl
@[simp] theorem State.modOp_freeCtr (i : Nat) (f : CollOp → CollOp) : (s.modOp i f).freeCtr = s.freeCtr := rfl
@[simp] theorem State.modOp_mem (i : Nat) (f : CollOp → CollOp) : (s.modOp i f).mem = s.mem := rfl
@[simp] theorem State.modOp_share (i : Nat) (f : CollOp → CollOp) : (s.modOp i f).share = s.share := rfl
@[simp] theorem State.modOp_cores (i : Nat) (f : CollOp → CollOp) : (s.modOp i f).cores = s.cores := rfl
@[simp] theorem State.modOp_pages (i : Nat) (f : CollOp → CollOp) : (s.modOp i f).pages = s.pages := rfl
@[simp] theorem State.modOp_seqs (i : Nat) (f : CollOp → CollOp) : (s.modOp i f).seqs = s.seqs := rfl
@[simp] theorem State.modOp_codecs (i : Nat) (f : CollOp → CollOp) : (s.modOp i f).codecs = s.codecs := rfl
@[simp] theorem State.modOp_stems (i : Nat) (f : CollOp → CollOp) : (s.modOp i f).stems = s.stems := rfl
@[simp] theorem State.modOp_ctl (i : Nat) (f : CollOp → CollOp) : (s.modOp i f).ctl = s.ctl := rfl
@[simp] theorem State.modOp_host (i : Nat) (f : CollOp → CollOp) : (s.modOp i f).host = s.host := rfl
@[simp] theorem State.modOp_clocks (i : Nat) (f : CollOp → CollOp) : (s.modOp i f).clocks = s.clocks := rfl
@[simp] theorem State.modOp_rst (i : Nat) (f : CollOp → CollOp) : (s.modOp i f).rst = s.rst := rfl
@[simp] theorem State.modOp_sec (i : Nat) (f : CollOp → CollOp) : (s.modOp i f).sec = s.sec := rfl
@[simp] theorem State.modOp_svc (i : Nat) (f : CollOp → CollOp) : (s.modOp i f).svc = s.svc := rfl

@[simp] theorem State.dropOp_pending (i : Nat) : (s.dropOp i).pending = s.pending := rfl
@[simp] theorem State.dropOp_now (i : Nat) : (s.dropOp i).now = s.now := rfl
@[simp] theorem State.dropOp_freeCtr (i : Nat) : (s.dropOp i).freeCtr = s.freeCtr := rfl
@[simp] theorem State.dropOp_mem (i : Nat) : (s.dropOp i).mem = s.mem := rfl
@[simp] theorem State.dropOp_share (i : Nat) : (s.dropOp i).share = s.share := rfl
@[simp] theorem State.dropOp_cores (i : Nat) : (s.dropOp i).cores = s.cores := rfl
@[simp] theorem State.dropOp_pages (i : Nat) : (s.dropOp i).pages = s.pages := rfl
@[simp] theorem State.dropOp_seqs (i : Nat) : (s.dropOp i).seqs = s.seqs := rfl
@[simp] theorem State.dropOp_codecs (i : Nat) : (s.dropOp i).codecs = s.codecs := rfl
@[simp] theorem State.dropOp_stems (i : Nat) : (s.dropOp i).stems = s.stems := rfl
@[simp] theorem State.dropOp_ctl (i : Nat) : (s.dropOp i).ctl = s.ctl := rfl
@[simp] theorem State.dropOp_host (i : Nat) : (s.dropOp i).host = s.host := rfl
@[simp] theorem State.dropOp_clocks (i : Nat) : (s.dropOp i).clocks = s.clocks := rfl
@[simp] theorem State.dropOp_rst (i : Nat) : (s.dropOp i).rst = s.rst := rfl
@[simp] theorem State.dropOp_sec (i : Nat) : (s.dropOp i).sec = s.sec := rfl
@[simp] theorem State.dropOp_svc (i : Nat) : (s.dropOp i).svc = s.svc := rfl

@[simp] theorem State.modCodec_pending (e : Nat) (f : CodecEngine → CodecEngine) : (s.modCodec e f).pending = s.pending := rfl
@[simp] theorem State.modCodec_now (e : Nat) (f : CodecEngine → CodecEngine) : (s.modCodec e f).now = s.now := rfl
@[simp] theorem State.modCodec_freeCtr (e : Nat) (f : CodecEngine → CodecEngine) : (s.modCodec e f).freeCtr = s.freeCtr := rfl
@[simp] theorem State.modCodec_mem (e : Nat) (f : CodecEngine → CodecEngine) : (s.modCodec e f).mem = s.mem := rfl
@[simp] theorem State.modCodec_share (e : Nat) (f : CodecEngine → CodecEngine) : (s.modCodec e f).share = s.share := rfl
@[simp] theorem State.modCodec_cores (e : Nat) (f : CodecEngine → CodecEngine) : (s.modCodec e f).cores = s.cores := rfl
@[simp] theorem State.modCodec_pages (e : Nat) (f : CodecEngine → CodecEngine) : (s.modCodec e f).pages = s.pages := rfl
@[simp] theorem State.modCodec_seqs (e : Nat) (f : CodecEngine → CodecEngine) : (s.modCodec e f).seqs = s.seqs := rfl
@[simp] theorem State.modCodec_fabric (e : Nat) (f : CodecEngine → CodecEngine) : (s.modCodec e f).fabric = s.fabric := rfl
@[simp] theorem State.modCodec_stems (e : Nat) (f : CodecEngine → CodecEngine) : (s.modCodec e f).stems = s.stems := rfl
@[simp] theorem State.modCodec_ctl (e : Nat) (f : CodecEngine → CodecEngine) : (s.modCodec e f).ctl = s.ctl := rfl
@[simp] theorem State.modCodec_host (e : Nat) (f : CodecEngine → CodecEngine) : (s.modCodec e f).host = s.host := rfl
@[simp] theorem State.modCodec_clocks (e : Nat) (f : CodecEngine → CodecEngine) : (s.modCodec e f).clocks = s.clocks := rfl
@[simp] theorem State.modCodec_rst (e : Nat) (f : CodecEngine → CodecEngine) : (s.modCodec e f).rst = s.rst := rfl
@[simp] theorem State.modCodec_sec (e : Nat) (f : CodecEngine → CodecEngine) : (s.modCodec e f).sec = s.sec := rfl
@[simp] theorem State.modCodec_svc (e : Nat) (f : CodecEngine → CodecEngine) : (s.modCodec e f).svc = s.svc := rfl
@[simp] theorem State.modCodec_codecs (e : Nat) (f : CodecEngine → CodecEngine) : (s.modCodec e f).codecs = tmod {} s.codecs e f := rfl

@[simp] theorem State.modCtx_pending (e c : Nat) (f : CodecCtx → CodecCtx) : (s.modCtx e c f).pending = s.pending := rfl
@[simp] theorem State.modCtx_now (e c : Nat) (f : CodecCtx → CodecCtx) : (s.modCtx e c f).now = s.now := rfl
@[simp] theorem State.modCtx_freeCtr (e c : Nat) (f : CodecCtx → CodecCtx) : (s.modCtx e c f).freeCtr = s.freeCtr := rfl
@[simp] theorem State.modCtx_mem (e c : Nat) (f : CodecCtx → CodecCtx) : (s.modCtx e c f).mem = s.mem := rfl
@[simp] theorem State.modCtx_share (e c : Nat) (f : CodecCtx → CodecCtx) : (s.modCtx e c f).share = s.share := rfl
@[simp] theorem State.modCtx_cores (e c : Nat) (f : CodecCtx → CodecCtx) : (s.modCtx e c f).cores = s.cores := rfl
@[simp] theorem State.modCtx_pages (e c : Nat) (f : CodecCtx → CodecCtx) : (s.modCtx e c f).pages = s.pages := rfl
@[simp] theorem State.modCtx_seqs (e c : Nat) (f : CodecCtx → CodecCtx) : (s.modCtx e c f).seqs = s.seqs := rfl
@[simp] theorem State.modCtx_fabric (e c : Nat) (f : CodecCtx → CodecCtx) : (s.modCtx e c f).fabric = s.fabric := rfl
@[simp] theorem State.modCtx_stems (e c : Nat) (f : CodecCtx → CodecCtx) : (s.modCtx e c f).stems = s.stems := rfl
@[simp] theorem State.modCtx_ctl (e c : Nat) (f : CodecCtx → CodecCtx) : (s.modCtx e c f).ctl = s.ctl := rfl
@[simp] theorem State.modCtx_host (e c : Nat) (f : CodecCtx → CodecCtx) : (s.modCtx e c f).host = s.host := rfl
@[simp] theorem State.modCtx_clocks (e c : Nat) (f : CodecCtx → CodecCtx) : (s.modCtx e c f).clocks = s.clocks := rfl
@[simp] theorem State.modCtx_rst (e c : Nat) (f : CodecCtx → CodecCtx) : (s.modCtx e c f).rst = s.rst := rfl
@[simp] theorem State.modCtx_sec (e c : Nat) (f : CodecCtx → CodecCtx) : (s.modCtx e c f).sec = s.sec := rfl
@[simp] theorem State.modCtx_svc (e c : Nat) (f : CodecCtx → CodecCtx) : (s.modCtx e c f).svc = s.svc := rfl

@[simp] theorem State.modStem_pending (e : Nat) (f : StemEngine → StemEngine) : (s.modStem e f).pending = s.pending := rfl
@[simp] theorem State.modStem_now (e : Nat) (f : StemEngine → StemEngine) : (s.modStem e f).now = s.now := rfl
@[simp] theorem State.modStem_freeCtr (e : Nat) (f : StemEngine → StemEngine) : (s.modStem e f).freeCtr = s.freeCtr := rfl
@[simp] theorem State.modStem_mem (e : Nat) (f : StemEngine → StemEngine) : (s.modStem e f).mem = s.mem := rfl
@[simp] theorem State.modStem_share (e : Nat) (f : StemEngine → StemEngine) : (s.modStem e f).share = s.share := rfl
@[simp] theorem State.modStem_cores (e : Nat) (f : StemEngine → StemEngine) : (s.modStem e f).cores = s.cores := rfl
@[simp] theorem State.modStem_pages (e : Nat) (f : StemEngine → StemEngine) : (s.modStem e f).pages = s.pages := rfl
@[simp] theorem State.modStem_seqs (e : Nat) (f : StemEngine → StemEngine) : (s.modStem e f).seqs = s.seqs := rfl
@[simp] theorem State.modStem_fabric (e : Nat) (f : StemEngine → StemEngine) : (s.modStem e f).fabric = s.fabric := rfl
@[simp] theorem State.modStem_codecs (e : Nat) (f : StemEngine → StemEngine) : (s.modStem e f).codecs = s.codecs := rfl
@[simp] theorem State.modStem_ctl (e : Nat) (f : StemEngine → StemEngine) : (s.modStem e f).ctl = s.ctl := rfl
@[simp] theorem State.modStem_host (e : Nat) (f : StemEngine → StemEngine) : (s.modStem e f).host = s.host := rfl
@[simp] theorem State.modStem_clocks (e : Nat) (f : StemEngine → StemEngine) : (s.modStem e f).clocks = s.clocks := rfl
@[simp] theorem State.modStem_rst (e : Nat) (f : StemEngine → StemEngine) : (s.modStem e f).rst = s.rst := rfl
@[simp] theorem State.modStem_sec (e : Nat) (f : StemEngine → StemEngine) : (s.modStem e f).sec = s.sec := rfl
@[simp] theorem State.modStem_svc (e : Nat) (f : StemEngine → StemEngine) : (s.modStem e f).svc = s.svc := rfl
@[simp] theorem State.modStem_stems (e : Nat) (f : StemEngine → StemEngine) : (s.modStem e f).stems = tmod {} s.stems e f := rfl

@[simp] theorem State.modStemRun_pending (e : Nat) (f : StemRun → StemRun) : (s.modStemRun e f).pending = s.pending := rfl
@[simp] theorem State.modStemRun_now (e : Nat) (f : StemRun → StemRun) : (s.modStemRun e f).now = s.now := rfl
@[simp] theorem State.modStemRun_freeCtr (e : Nat) (f : StemRun → StemRun) : (s.modStemRun e f).freeCtr = s.freeCtr := rfl
@[simp] theorem State.modStemRun_mem (e : Nat) (f : StemRun → StemRun) : (s.modStemRun e f).mem = s.mem := rfl
@[simp] theorem State.modStemRun_share (e : Nat) (f : StemRun → StemRun) : (s.modStemRun e f).share = s.share := rfl
@[simp] theorem State.modStemRun_cores (e : Nat) (f : StemRun → StemRun) : (s.modStemRun e f).cores = s.cores := rfl
@[simp] theorem State.modStemRun_pages (e : Nat) (f : StemRun → StemRun) : (s.modStemRun e f).pages = s.pages := rfl
@[simp] theorem State.modStemRun_seqs (e : Nat) (f : StemRun → StemRun) : (s.modStemRun e f).seqs = s.seqs := rfl
@[simp] theorem State.modStemRun_fabric (e : Nat) (f : StemRun → StemRun) : (s.modStemRun e f).fabric = s.fabric := rfl
@[simp] theorem State.modStemRun_codecs (e : Nat) (f : StemRun → StemRun) : (s.modStemRun e f).codecs = s.codecs := rfl
@[simp] theorem State.modStemRun_ctl (e : Nat) (f : StemRun → StemRun) : (s.modStemRun e f).ctl = s.ctl := rfl
@[simp] theorem State.modStemRun_host (e : Nat) (f : StemRun → StemRun) : (s.modStemRun e f).host = s.host := rfl
@[simp] theorem State.modStemRun_clocks (e : Nat) (f : StemRun → StemRun) : (s.modStemRun e f).clocks = s.clocks := rfl
@[simp] theorem State.modStemRun_rst (e : Nat) (f : StemRun → StemRun) : (s.modStemRun e f).rst = s.rst := rfl
@[simp] theorem State.modStemRun_sec (e : Nat) (f : StemRun → StemRun) : (s.modStemRun e f).sec = s.sec := rfl
@[simp] theorem State.modStemRun_svc (e : Nat) (f : StemRun → StemRun) : (s.modStemRun e f).svc = s.svc := rfl

@[simp] theorem State.fresh_pending : (s.fresh).pending = s.pending := rfl
@[simp] theorem State.fresh_now : (s.fresh).now = s.now := rfl
@[simp] theorem State.fresh_mem : (s.fresh).mem = s.mem := rfl
@[simp] theorem State.fresh_share : (s.fresh).share = s.share := rfl
@[simp] theorem State.fresh_cores : (s.fresh).cores = s.cores := rfl
@[simp] theorem State.fresh_pages : (s.fresh).pages = s.pages := rfl
@[simp] theorem State.fresh_seqs : (s.fresh).seqs = s.seqs := rfl
@[simp] theorem State.fresh_fabric : (s.fresh).fabric = s.fabric := rfl
@[simp] theorem State.fresh_codecs : (s.fresh).codecs = s.codecs := rfl
@[simp] theorem State.fresh_stems : (s.fresh).stems = s.stems := rfl
@[simp] theorem State.fresh_ctl : (s.fresh).ctl = s.ctl := rfl
@[simp] theorem State.fresh_host : (s.fresh).host = s.host := rfl
@[simp] theorem State.fresh_clocks : (s.fresh).clocks = s.clocks := rfl
@[simp] theorem State.fresh_rst : (s.fresh).rst = s.rst := rfl
@[simp] theorem State.fresh_sec : (s.fresh).sec = s.sec := rfl
@[simp] theorem State.fresh_svc : (s.fresh).svc = s.svc := rfl
@[simp] theorem State.fresh_freeCtr : (s.fresh).freeCtr = s.freeCtr + 1 := rfl

@[simp] theorem State.post_pending (r : Nat) (e : Entry) : (s.post r e).pending = s.pending := rfl
@[simp] theorem State.post_now (r : Nat) (e : Entry) : (s.post r e).now = s.now := rfl
@[simp] theorem State.post_freeCtr (r : Nat) (e : Entry) : (s.post r e).freeCtr = s.freeCtr := rfl
@[simp] theorem State.post_mem (r : Nat) (e : Entry) : (s.post r e).mem = s.mem := rfl
@[simp] theorem State.post_share (r : Nat) (e : Entry) : (s.post r e).share = s.share := rfl
@[simp] theorem State.post_cores (r : Nat) (e : Entry) : (s.post r e).cores = s.cores := rfl
@[simp] theorem State.post_pages (r : Nat) (e : Entry) : (s.post r e).pages = s.pages := rfl
@[simp] theorem State.post_seqs (r : Nat) (e : Entry) : (s.post r e).seqs = s.seqs := rfl
@[simp] theorem State.post_fabric (r : Nat) (e : Entry) : (s.post r e).fabric = s.fabric := rfl
@[simp] theorem State.post_codecs (r : Nat) (e : Entry) : (s.post r e).codecs = s.codecs := rfl
@[simp] theorem State.post_stems (r : Nat) (e : Entry) : (s.post r e).stems = s.stems := rfl
@[simp] theorem State.post_clocks (r : Nat) (e : Entry) : (s.post r e).clocks = s.clocks := rfl
@[simp] theorem State.post_rst (r : Nat) (e : Entry) : (s.post r e).rst = s.rst := rfl
@[simp] theorem State.post_sec (r : Nat) (e : Entry) : (s.post r e).sec = s.sec := rfl
@[simp] theorem State.post_svc (r : Nat) (e : Entry) : (s.post r e).svc = s.svc := rfl

@[simp] theorem State.event_pending (r o src code : Nat) (a : Args) : (s.event r o src code a).pending = s.pending := rfl
@[simp] theorem State.event_now (r o src code : Nat) (a : Args) : (s.event r o src code a).now = s.now := rfl
@[simp] theorem State.event_freeCtr (r o src code : Nat) (a : Args) : (s.event r o src code a).freeCtr = s.freeCtr := rfl
@[simp] theorem State.event_mem (r o src code : Nat) (a : Args) : (s.event r o src code a).mem = s.mem := rfl
@[simp] theorem State.event_share (r o src code : Nat) (a : Args) : (s.event r o src code a).share = s.share := rfl
@[simp] theorem State.event_cores (r o src code : Nat) (a : Args) : (s.event r o src code a).cores = s.cores := rfl
@[simp] theorem State.event_pages (r o src code : Nat) (a : Args) : (s.event r o src code a).pages = s.pages := rfl
@[simp] theorem State.event_seqs (r o src code : Nat) (a : Args) : (s.event r o src code a).seqs = s.seqs := rfl
@[simp] theorem State.event_fabric (r o src code : Nat) (a : Args) : (s.event r o src code a).fabric = s.fabric := rfl
@[simp] theorem State.event_codecs (r o src code : Nat) (a : Args) : (s.event r o src code a).codecs = s.codecs := rfl
@[simp] theorem State.event_stems (r o src code : Nat) (a : Args) : (s.event r o src code a).stems = s.stems := rfl
@[simp] theorem State.event_clocks (r o src code : Nat) (a : Args) : (s.event r o src code a).clocks = s.clocks := rfl
@[simp] theorem State.event_rst (r o src code : Nat) (a : Args) : (s.event r o src code a).rst = s.rst := rfl
@[simp] theorem State.event_sec (r o src code : Nat) (a : Args) : (s.event r o src code a).sec = s.sec := rfl
@[simp] theorem State.event_svc (r o src code : Nat) (a : Args) : (s.event r o src code a).svc = s.svc := rfl

@[simp] theorem State.commandEntry_pending (c : CmdRef) (a : Args) : (s.commandEntry c a).pending = s.pending := rfl
@[simp] theorem State.commandEntry_now (c : CmdRef) (a : Args) : (s.commandEntry c a).now = s.now := rfl
@[simp] theorem State.commandEntry_freeCtr (c : CmdRef) (a : Args) : (s.commandEntry c a).freeCtr = s.freeCtr := rfl
@[simp] theorem State.commandEntry_mem (c : CmdRef) (a : Args) : (s.commandEntry c a).mem = s.mem := rfl
@[simp] theorem State.commandEntry_share (c : CmdRef) (a : Args) : (s.commandEntry c a).share = s.share := rfl
@[simp] theorem State.commandEntry_cores (c : CmdRef) (a : Args) : (s.commandEntry c a).cores = s.cores := rfl
@[simp] theorem State.commandEntry_pages (c : CmdRef) (a : Args) : (s.commandEntry c a).pages = s.pages := rfl
@[simp] theorem State.commandEntry_seqs (c : CmdRef) (a : Args) : (s.commandEntry c a).seqs = s.seqs := rfl
@[simp] theorem State.commandEntry_fabric (c : CmdRef) (a : Args) : (s.commandEntry c a).fabric = s.fabric := rfl
@[simp] theorem State.commandEntry_codecs (c : CmdRef) (a : Args) : (s.commandEntry c a).codecs = s.codecs := rfl
@[simp] theorem State.commandEntry_stems (c : CmdRef) (a : Args) : (s.commandEntry c a).stems = s.stems := rfl
@[simp] theorem State.commandEntry_clocks (c : CmdRef) (a : Args) : (s.commandEntry c a).clocks = s.clocks := rfl
@[simp] theorem State.commandEntry_rst (c : CmdRef) (a : Args) : (s.commandEntry c a).rst = s.rst := rfl
@[simp] theorem State.commandEntry_sec (c : CmdRef) (a : Args) : (s.commandEntry c a).sec = s.sec := rfl
@[simp] theorem State.commandEntry_svc (c : CmdRef) (a : Args) : (s.commandEntry c a).svc = s.svc := rfl

@[simp] theorem State.answer_pending (f m : Nat) (q : Req) (a : Answer) : (s.answer f m q a).pending = s.pending := rfl
@[simp] theorem State.answer_now (f m : Nat) (q : Req) (a : Answer) : (s.answer f m q a).now = s.now := rfl
@[simp] theorem State.answer_freeCtr (f m : Nat) (q : Req) (a : Answer) : (s.answer f m q a).freeCtr = s.freeCtr := rfl
@[simp] theorem State.answer_mem (f m : Nat) (q : Req) (a : Answer) : (s.answer f m q a).mem = s.mem := rfl
@[simp] theorem State.answer_share (f m : Nat) (q : Req) (a : Answer) : (s.answer f m q a).share = s.share := rfl
@[simp] theorem State.answer_cores (f m : Nat) (q : Req) (a : Answer) : (s.answer f m q a).cores = s.cores := rfl
@[simp] theorem State.answer_pages (f m : Nat) (q : Req) (a : Answer) : (s.answer f m q a).pages = s.pages := rfl
@[simp] theorem State.answer_seqs (f m : Nat) (q : Req) (a : Answer) : (s.answer f m q a).seqs = s.seqs := rfl
@[simp] theorem State.answer_fabric (f m : Nat) (q : Req) (a : Answer) : (s.answer f m q a).fabric = s.fabric := rfl
@[simp] theorem State.answer_codecs (f m : Nat) (q : Req) (a : Answer) : (s.answer f m q a).codecs = s.codecs := rfl
@[simp] theorem State.answer_stems (f m : Nat) (q : Req) (a : Answer) : (s.answer f m q a).stems = s.stems := rfl
@[simp] theorem State.answer_clocks (f m : Nat) (q : Req) (a : Answer) : (s.answer f m q a).clocks = s.clocks := rfl
@[simp] theorem State.answer_rst (f m : Nat) (q : Req) (a : Answer) : (s.answer f m q a).rst = s.rst := rfl
@[simp] theorem State.answer_sec (f m : Nat) (q : Req) (a : Answer) : (s.answer f m q a).sec = s.sec := rfl
@[simp] theorem State.answer_svc (f m : Nat) (q : Req) (a : Answer) : (s.answer f m q a).svc = s.svc := rfl

@[simp] theorem State.addService_pending (q : Req) (j : ServiceJob) : (s.addService q j).pending = s.pending := rfl
@[simp] theorem State.addService_now (q : Req) (j : ServiceJob) : (s.addService q j).now = s.now := rfl
@[simp] theorem State.addService_freeCtr (q : Req) (j : ServiceJob) : (s.addService q j).freeCtr = s.freeCtr := rfl
@[simp] theorem State.addService_mem (q : Req) (j : ServiceJob) : (s.addService q j).mem = s.mem := rfl
@[simp] theorem State.addService_share (q : Req) (j : ServiceJob) : (s.addService q j).share = s.share := rfl
@[simp] theorem State.addService_cores (q : Req) (j : ServiceJob) : (s.addService q j).cores = s.cores := rfl
@[simp] theorem State.addService_pages (q : Req) (j : ServiceJob) : (s.addService q j).pages = s.pages := rfl
@[simp] theorem State.addService_seqs (q : Req) (j : ServiceJob) : (s.addService q j).seqs = s.seqs := rfl
@[simp] theorem State.addService_fabric (q : Req) (j : ServiceJob) : (s.addService q j).fabric = s.fabric := rfl
@[simp] theorem State.addService_codecs (q : Req) (j : ServiceJob) : (s.addService q j).codecs = s.codecs := rfl
@[simp] theorem State.addService_stems (q : Req) (j : ServiceJob) : (s.addService q j).stems = s.stems := rfl
@[simp] theorem State.addService_host (q : Req) (j : ServiceJob) : (s.addService q j).host = s.host := rfl
@[simp] theorem State.addService_clocks (q : Req) (j : ServiceJob) : (s.addService q j).clocks = s.clocks := rfl
@[simp] theorem State.addService_rst (q : Req) (j : ServiceJob) : (s.addService q j).rst = s.rst := rfl
@[simp] theorem State.addService_sec (q : Req) (j : ServiceJob) : (s.addService q j).sec = s.sec := rfl
@[simp] theorem State.addService_svc (q : Req) (j : ServiceJob) : (s.addService q j).svc = s.svc := rfl

@[simp] theorem State.violation_pending (f : Nat) : (s.violation f).pending = s.pending := rfl
@[simp] theorem State.violation_now (f : Nat) : (s.violation f).now = s.now := rfl
@[simp] theorem State.violation_freeCtr (f : Nat) : (s.violation f).freeCtr = s.freeCtr := rfl
@[simp] theorem State.violation_mem (f : Nat) : (s.violation f).mem = s.mem := rfl
@[simp] theorem State.violation_share (f : Nat) : (s.violation f).share = s.share := rfl
@[simp] theorem State.violation_cores (f : Nat) : (s.violation f).cores = s.cores := rfl
@[simp] theorem State.violation_pages (f : Nat) : (s.violation f).pages = s.pages := rfl
@[simp] theorem State.violation_seqs (f : Nat) : (s.violation f).seqs = s.seqs := rfl
@[simp] theorem State.violation_fabric (f : Nat) : (s.violation f).fabric = s.fabric := rfl
@[simp] theorem State.violation_codecs (f : Nat) : (s.violation f).codecs = s.codecs := rfl
@[simp] theorem State.violation_stems (f : Nat) : (s.violation f).stems = s.stems := rfl
@[simp] theorem State.violation_host (f : Nat) : (s.violation f).host = s.host := rfl
@[simp] theorem State.violation_clocks (f : Nat) : (s.violation f).clocks = s.clocks := rfl
@[simp] theorem State.violation_rst (f : Nat) : (s.violation f).rst = s.rst := rfl
@[simp] theorem State.violation_sec (f : Nat) : (s.violation f).sec = s.sec := rfl
@[simp] theorem State.violation_svc (f : Nat) : (s.violation f).svc = s.svc := rfl

@[simp] theorem State.replies_pending (r : Reply) : (s.replies r).pending = s.pending := rfl
@[simp] theorem State.replies_now (r : Reply) : (s.replies r).now = s.now := rfl
@[simp] theorem State.replies_freeCtr (r : Reply) : (s.replies r).freeCtr = s.freeCtr := rfl
@[simp] theorem State.replies_mem (r : Reply) : (s.replies r).mem = s.mem := rfl
@[simp] theorem State.replies_share (r : Reply) : (s.replies r).share = s.share := rfl
@[simp] theorem State.replies_cores (r : Reply) : (s.replies r).cores = s.cores := rfl
@[simp] theorem State.replies_pages (r : Reply) : (s.replies r).pages = s.pages := rfl
@[simp] theorem State.replies_seqs (r : Reply) : (s.replies r).seqs = s.seqs := rfl
@[simp] theorem State.replies_fabric (r : Reply) : (s.replies r).fabric = s.fabric := rfl
@[simp] theorem State.replies_codecs (r : Reply) : (s.replies r).codecs = s.codecs := rfl
@[simp] theorem State.replies_stems (r : Reply) : (s.replies r).stems = s.stems := rfl
@[simp] theorem State.replies_ctl (r : Reply) : (s.replies r).ctl = s.ctl := rfl
@[simp] theorem State.replies_clocks (r : Reply) : (s.replies r).clocks = s.clocks := rfl
@[simp] theorem State.replies_rst (r : Reply) : (s.replies r).rst = s.rst := rfl
@[simp] theorem State.replies_sec (r : Reply) : (s.replies r).sec = s.sec := rfl
@[simp] theorem State.replies_svc (r : Reply) : (s.replies r).svc = s.svc := rfl

/-- A completed command's entry touches the controller and what the device has sent, nothing else. -/
theorem State.complete_frame (c : CmdRef) (a : Args) : ∃ (k : CtlState) (h : HostState), s.complete c a = { s with ctl := k, host := h } := by
  unfold State.complete
  split
  · exact ⟨_, _, rfl⟩
  · exact ⟨_, _, rfl⟩

end Sys2Proof.Machine
end

