-- ==== Sys2Proof/Tests/Slice0.lean ====
section
/-! SUPPORT. Tests of the model: terms that the checks refuse, known answers, and for every obligation with hypotheses a theorem that shows a state and operands meeting them. -/

namespace Sys2Proof.Tests

open Sys2Proof Sys2Proof.Machine Sys2Proof.Safety

-- one theorem at a time: each evaluation takes much memory
set_option Elab.async false

theorem test_wellFormed_refuses_empty_write : (Instr.registerWrite 0 (.bar0 0) 0 []).wellFormed = false := by decide
theorem test_wellFormed_refuses_nine_byte_write : (Instr.registerWrite 0 (.bar0 0) 0 (List.replicate 9 0)).wellFormed = false := by decide
theorem test_wellFormed_refuses_short_nonce : (Instr.getQuote .i3c (List.replicate 31 0)).wellFormed = false := by decide
theorem test_wellFormed_refuses_three_die_powers :
    (Instr.kettleSample 0 [0, 0, 0] (List.replicate 12 0) (List.replicate 20 0) (List.replicate 16 0)).wellFormed = false := by decide
theorem test_wellFormed_refuses_eleven_rails :
    (Instr.kettleSample 0 (List.replicate 4 0) (List.replicate 11 0) (List.replicate 20 0) (List.replicate 16 0)).wellFormed = false := by decide
theorem test_wellFormed_refuses_nineteen_stacks :
    (Instr.kettleSample 0 (List.replicate 4 0) (List.replicate 12 0) (List.replicate 19 0) (List.replicate 16 0)).wellFormed = false := by decide
theorem test_wellFormed_refuses_seventeen_junctions :
    (Instr.kettleSample 0 (List.replicate 4 0) (List.replicate 12 0) (List.replicate 20 0) (List.replicate 17 0)).wellFormed = false := by decide
theorem test_wellFormed_takes_a_full_sample :
    (Instr.kettleSample 0 (List.replicate 4 0) (List.replicate 12 0) (List.replicate 20 0) (List.replicate 16 0)).wellFormed = true := by decide

/-- CRC-32C of the nine digits: the check value of the polynomial R111 names. -/
theorem test_crc32c_check_value : crc32c [0x31, 0x32, 0x33, 0x34, 0x35, 0x36, 0x37, 0x38, 0x39] = 0xE3069283 := by decide +kernel

/-- SHAKE256 of the empty message (FIPS 202): its first eight bytes. -/
theorem test_shake256_empty : shake256 8 [] = [0x46, 0xB9, 0xDD, 0x2B, 0x0B, 0xA8, 0x8D, 0x13] := by decide +kernel

/-- The generator of the stacks' code is the product of the 16 factors R168 names; that of the word code is m1(x) m3(x) (R170). -/
theorem test_code_generators :
    rsGenerator = [1, 59, 13, 104, 189, 68, 209, 30, 8, 163, 65, 41, 229, 98, 50, 36, 59] ∧ bchGenerator = 0x4377 := by decide +kernel

/-- Two flipped bits of a word are corrected; a word read from the wrong address of another parity is found out (R170). -/
theorem test_word_code : wordRead 3 3 77 0x21 = some (77, 2) ∧ wordRead 3 2 77 0 = none := by decide +kernel

/-- An ill-formed command in front is refused by name. -/
theorem test_step_refuses_ill_formed : step { pending := [.registerWrite 0 (.bar0 0) 0 []] } = .refused .illFormed := rfl

/-- No word spells a command (no row of the table has bits). -/
theorem test_no_word_decodes : decodeTableWord 32 0 = none := by decide



/-- The device released, running, with nothing set up. -/
def base : State := { rst := { ready := true, current := none, fastFilled := true, pannierFilled := pannierFrames, shadowValid := true, tandemRead := true, trimDefaulted := true, pins := { railsLow := [] } }, host := { link := .l0, configReady := true, fns := [(0, { command := 6, msixEnable := true })], vfMemory := true, linkControl := 2 } }

/-- Little-endian words. -/
def ws (l : List Nat) : List Byte := l.flatMap (natLe 4)

/-- A mailbox of a function posted with a command. -/
def asked (s : State) (f m code : Nat) (params : List Byte) : State :=
  { s with ctl := { s.ctl with
    mailbox := setBytes 0 (setBytes 0 (setBytes 0 s.ctl.mailbox (mbKey f m 0) (natLe 4 code ++ natLe 4 7 ++ natLe 4 params.length)) (mbKey f m 0x10) params) (mbKey f m 0x1FC) (natLe 4 (2 ^ 31))
    posted := [(f, m)] } }

/-- Bytes laid over a list of bytes. -/
def lay (l : List Byte) (p : Nat × List Byte) : List Byte := l.take p.1 ++ p.2 ++ l.drop (p.1 + p.2.length)

/-- `n` zero bytes with these laid over them. -/
def rec (n : Nat) (fs : List (Nat × List Byte)) : List Byte := fs.foldl lay (List.replicate n 0)

/-- A slot word. -/
def word (opcode param : Nat) (ops : List Nat) : Nat :=
  opcode * 2 ^ 250 + 0x3FF * 2 ^ 240 + param * 2 ^ 228 + (List.range 5).foldl (fun z o => z + ops.getD o 0 * 2 ^ (44 * o)) 0

/-- An image of one bundle: parameter records, slot words with their unit bits, further header bytes. -/
def image (params : List (List Byte)) (slots : Nat) (words : List Nat) (fs : List (Nat × List Byte)) : List Byte :=
  let b := natLe 4 (slots * 2 ^ 20) ++ List.replicate 12 0 ++ words.flatMap (natLe 32)
  let img := rec 512 ([(0, natLe 4 0x5458B10C), (5, [1]), (8, natLe 4 512), (0x18, natLe 2 2 ++ natLe 2 params.length), (0x20, natLe 2 (2 + params.length) ++ natLe 2 (b2n (slots != 0))),
    (0x24, natLe 4 15), (128, params.flatten), (128 + 64 * params.length, b)] ++ fs)
  lay img (12, natLe 4 (crcWithout img 12))

def chainAt (a : Nat) : Chain := { image := BitVec.ofNat 64 a, entry := { image := BitVec.ofNat 48 a }, sregs := [] }

/-- A block running from time 0. -/
def block (img : List Byte) : RunBlock := { fn := 0, ordinal := 1, chain := chainAt 0, image := img, bounds := [], startAt := 0, posAt := 0, nextAt := 64 * (parseHeader img).bundleOffset }

/-- A context of PF0 that holds everything of cores 0 and 1. -/
def ctx0 : CtxRec := { st := .running, spadBanks := 0xFFFF, accUnits := 0xFFFF, caddySlots := 0xF, clusterCtrUnits := 0xFFFF, hubCtrUnits := 0xFFFFFFFFFFFFFFFF, coreMask := 3 }

/-- PF0's block with this image runs on core 0 at gear 15. -/
def running (img : List Byte) : State :=
  (base.setCtx 0 ctx0).setCore 0 { run := some (block img), clock := { gear := 15 }, blocks := 1, chains := 1 }

/-- Device memory with a page table of PF0 at frame 0 that maps the first 512 MiB to itself, and bytes at an address. -/
def mapped (s : State) (a : Nat) (bs : List Byte) : State := { s with mem := ((s.mem.write 0 (natLe 8 0x10001)).write 0x10000 (natLe 8 7)).write a bs }

/-- PF0 with an enabled page engine: frame table at 0x1000000, tables at frames 0 to 2, stacks and ring above; page p of virtual address 0 mapped as listed. -/
def paging (leaves : List (Nat × Leaf)) (fts : List (Nat × FtEntry)) : State :=
  let m : MemState := (base.mem.write 0 (natLe 8 0x10001)).write 0x10000 (natLe 8 0x20001)
  let m := leaves.foldl (fun m x => m.write (0x20000 + 8 * x.1) (leafBytes (some x.2))) m
  let m := fts.foldl (fun m x => m.write (0x1000000 + 8 * x.1) x.2.bytes) m
  { base with
    mem := m
    pages := { ftBase := 0x1000000, ftValid := true
               recs := [(0, { enabled := true, tppLog2 := 4, planes := 1, pagesMax := 16, root := 0, fastStack := 0x80000, pannierStack := 0x90000, quarRing := 0xA0000,
                              fastCap := 64, pannierCap := 64, quarCap := 128 })] } }

/-- State, block, word and position at which the sequencer of core c issues the slot word with this opcode. -/
def point (s : State) (c opcode : Nat) : Option (State × RunBlock × Nat × Nat) :=
  match (s.core c).run with
  | none => none
  | some r0 =>
    if r0.slip.isSome || r0.ending.isSome || !(r0.offers.any (fun w => (parseSlot w).opcode == opcode)) || s.clocks.thermtrip then none
    else
      let p := if r0.slots.isEmpty then r0.nextOffset else r0.lastIssue
      let sa := s.advance c p
      match (sa.core c).run with
      | none => none
      | some ra =>
        if ra.slip.isSome || ra.ending.isSome || (ra.slots.isEmpty && ra.nextBundle.isNone) then none
        else
          match (if ra.slots.isEmpty then ra.begin else ra).takeWord opcode with
          | none => none
          | some (w, r) => some ((sa.upTo (r.timeAt (sa.core c).period p)).modRun c (fun _ => r), r, w, p)

def ptS (s : State) (c opcode : Nat) : State := ((point s c opcode).map (·.1)).getD s
def ptR (s : State) (c opcode : Nat) : RunBlock := ((point s c opcode).map (·.2.1)).getD (block [])
def ptW (s : State) (c opcode : Nat) : Nat := ((point s c opcode).map (·.2.2.1)).getD 0
def ptP (s : State) (c opcode : Nat) : Nat := ((point s c opcode).map (·.2.2.2)).getD 0

theorem issues_of_point {s : State} {c opcode : Nat} (h : (point s c opcode).isSome = true) :
    Issues s c opcode (ptS s c opcode) (ptR s c opcode) (ptW s c opcode) (ptP s c opcode) := by
  unfold ptS ptR ptW ptP
  obtain ⟨x, hx⟩ := Option.isSome_iff_exists.1 h
  rw [hx]
  unfold point at hx
  split at hx
  · cases hx
  · rename_i r0 h0
    split at hx
    · cases hx
    · rename_i h1
      simp only at hx
      split at hx
      · cases hx
      · rename_i ra hra
        split at hx
        · cases hx
        · rename_i h2
          split at hx
          · cases hx
          · rename_i w r hw
            simp only [Option.some.injEq] at hx
            subst hx
            simp only [Bool.or_eq_true, Bool.not_eq_true', not_or, Bool.not_eq_true, Option.isSome_eq_false_iff, Option.isNone_iff_eq_none, Bool.not_eq_false] at h1 h2
            refine ⟨h1.2, r0, ra, h0, h1.1.1.1, h1.1.1.2, h1.1.2, rfl, hra, h2.1.1, h2.1.2, h2.2, hw, rfl⟩

def Xl.fine : Xl → Bool
  | .bad _ => false
  | _ => true

theorem ne_bad {x : Xl} (h : Xl.fine x = true) : ∀ a, x ≠ .bad a := by
  rintro a rfl
  cases h

def nextOf (x : Host.Outcome Sys2Proof.Machine.State Fault Refusal) : State :=
  match x with
  | .next t => t
  | _ => {}

def goesOn (x : Host.Outcome Sys2Proof.Machine.State Fault Refusal) : Bool :=
  match x with
  | .next _ => true
  | _ => false

theorem nextOf_eq {x : Host.Outcome Sys2Proof.Machine.State Fault Refusal} (h : goesOn x = true) : x = .next (nextOf x) := by
  cases x <;> first | rfl | cases h


namespace W01

set_option maxRecDepth 100000
set_option linter.unusedVariables false



/-- States and operands that meet the hypotheses of Obligations.controller_commands_are_applied_and_answered, clause by clause. -/
theorem witness_controller_commands_are_applied_and_answered :
    (∃ s : State, ∃ f : Fn, ∃ m : Mb, Admitted identifyForm s f m)
    ∧ (∃ s : State, ∃ f : Fn, ∃ m : Mb, Admitted ringForm s f m)
    ∧ (∃ s : State, ∃ f : Fn, ∃ m : Mb, Admitted resetForm s f m)
    ∧ (∃ s : State, ∃ f : Fn, ∃ m : Mb, s.takes f m = true ∧ codeListed (s.ctl.req f m).code = false) :=
  ⟨⟨asked base 0 0 1 [], 0, 0, by decide +kernel⟩,
    ⟨asked base 0 0 2 (ws [0x1000,0,10,0,0,0]), 0, 0, by decide +kernel⟩,
    ⟨asked base 0 0 5 (ws [1]), 0, 0, by decide +kernel⟩,
    ⟨asked base 0 0 0x0B01 (ws [1]), 0, 0, by decide +kernel⟩⟩

/-- States and operands that meet the hypotheses of Obligations.an_answer_reads_back_and_touches_no_other_mailbox, clause by clause. -/
theorem witness_an_answer_reads_back_and_touches_no_other_mailbox :
    (∃ s : State, ∃ f : Fn, ∃ m : Mb, ∃ q : Req, ∃ a : Answer, twf 0 s.ctl.mailbox = true ∧ a.reply.length ≤ 480) :=
  ⟨asked base 0 0 1 [], 0, 0, (asked base 0 0 1 []).ctl.req 0 0, { status := 3, reply := [1, 2] }, by decide +kernel⟩

/-- States and operands that meet the hypotheses of Obligations.a_refused_command_changes_nothing_but_its_mailbox, clause by clause. -/
theorem witness_a_refused_command_changes_nothing_but_its_mailbox :
    (∃ s : State, ∃ f : Fn, ∃ m : Mb, ∃ form : CmdForm, ∃ row : Req → State → State × Answer, ∃ a : Answer, s.takes f m = true ∧ (s.ctl.req f m).code = form.code ∧ form.refusal (s.ctl.req f m) s = some a)
    ∧ (∃ s : State, ∃ f : Fn, ∃ m : Mb, ∃ form : CmdForm, ∃ row : Req → State → State × Answer, ∃ a : Answer, s.takes f m = true ∧ (s.ctl.req f m).code = form.code ∧ form.refusal (s.ctl.req f m) s = some a)
    ∧ (∃ s : State, ∃ f : Fn, ∃ m : Mb, ∃ form : CmdForm, ∃ row : Req → State → State × Answer, ∃ a : Answer, s.takes f m = true ∧ (s.ctl.req f m).code = form.code ∧ form.refusal (s.ctl.req f m) s = some a) :=
  ⟨⟨asked base 0 0 5 [], 0, 0, resetForm, resetRow, { status := stBadLength, detail := 4 }, by decide +kernel⟩,
    ⟨asked base 1 0 5 (ws [0]), 1, 0, resetForm, resetRow, { status := stNotPermitted }, by decide +kernel⟩,
    ⟨asked base 0 0 5 (ws [3]), 0, 0, resetForm, resetRow, { status := stBadField, detail := 0x10 }, by decide +kernel⟩⟩

/-- States and operands that meet the hypotheses of Obligations.host_register_writes_take_effect, clause by clause. -/
theorem witness_host_register_writes_take_effect :
    (∃ s : State, ∃ f : Fn, ∃ m : Mb, ∃ irq : Bool, Clocked s ∧ s.host.serves f = true ∧ s.wake.ctl.owned f m = false)
    ∧ (∃ s : State, ∃ f : Fn, ∃ m : Mb, ∃ irq : Bool, Clocked s ∧ s.host.serves f = true ∧ s.wake.ctl.owned f m = true)
    ∧ (∃ s : State, ∃ f : Fn, ∃ head : BitVec 16, Clocked s ∧ s.host.serves f = true ∧ head.toNat < 2 ^ (s.wake.ctl.ring f).log2Size.toNat ∧ (head.toNat + 2 ^ (s.wake.ctl.ring f).log2Size.toNat - (s.wake.ctl.ring f).head.toNat) % 2 ^ (s.wake.ctl.ring f).log2Size.toNat ≤ (s.wake.ctl.ring f).used)
    ∧ (∃ s : State, ∃ f : Fn, ∃ head : BitVec 16, Clocked s ∧ s.host.serves f = true ∧ ((2 ^ (s.wake.ctl.ring f).log2Size.toNat ≤ head.toNat ∨ (s.wake.ctl.ring f).used < (head.toNat + 2 ^ (s.wake.ctl.ring f).log2Size.toNat - (s.wake.ctl.ring f).head.toNat) % 2 ^ (s.wake.ctl.ring f).log2Size.toNat)))
    ∧ (∃ s : State, ∃ f : Fn, ∃ head : BitVec 16, Clocked s ∧ s.host.serves f = true ∧ ((2 ^ (s.wake.ctl.ring f).log2Size.toNat ≤ head.toNat ∨ (s.wake.ctl.ring f).used < (head.toNat + 2 ^ (s.wake.ctl.ring f).log2Size.toNat - (s.wake.ctl.ring f).head.toNat) % 2 ^ (s.wake.ctl.ring f).log2Size.toNat)))
    ∧ (∃ s : State, ∃ v : BitVec 32, Clocked s ∧ s.host.serves 0 = true)
    ∧ (∃ s : State, ∃ f : Fn, ∃ r : ConfigReg, ∃ e : BitVec 8, ∃ data : List Byte, Clocked s ∧ s.host.configures f = true)
    ∧ (∃ s : State, ∃ f : Fn, ∃ o : Nat, ∃ e : BitVec 8, ∃ data : List Byte, Clocked s ∧ s.host.serves f = true ∧ (((data.length = 8 ∧ o % 8 ≠ 0) ∨ (if f.val = 0 then 2 ^ 26 else 2 ^ 20) < o + data.length)))
    ∧ (∃ s : State, ∃ f : Fn, ∃ o : Nat, ∃ e : BitVec 8, ∃ data : List Byte, Clocked s ∧ s.host.serves f = true ∧ (((data.length = 8 ∧ o % 8 ≠ 0) ∨ (if f.val = 0 then 2 ^ 26 else 2 ^ 20) < o + data.length)))
    ∧ (∃ s : State, ∃ f : Fn, ∃ o : Nat, ∃ e : BitVec 8, ∃ data : List Byte, Clocked s ∧ s.host.serves f = true ∧ o % 4 = 0 ∧ data.length = 4 ∧ (o + 4 ≤ (if f.val = 0 then 2 ^ 26 else 2 ^ 20)))
    ∧ (∃ s : State, ∃ f : Fn, ∃ o : Nat, ∃ e : BitVec 8, ∃ data : List Byte, Clocked s ∧ s.host.serves f = true ∧ o % 4 = 0 ∧ data.length = 4 ∧ (o + 4 ≤ (if f.val = 0 then 2 ^ 26 else 2 ^ 20)))
    ∧ (∃ s : State, ∃ f : Fn, ∃ o : Nat, ∃ e : BitVec 8, ∃ data : List Byte, Clocked s ∧ s.host.serves f = true ∧ o % 4 = 0 ∧ data.length = 4 ∧ (o + 4 ≤ (if f.val = 0 then 2 ^ 26 else 2 ^ 20))) :=
  ⟨⟨base, 0, 15, true, by decide +kernel⟩,
    ⟨asked base 0 3 1 [], 0, 3, true, by decide +kernel⟩,
    ⟨{ base with ctl := base.ctl.setRing 0 { log2Size := 10, tail := 5 } }, 0, 5, by decide +kernel⟩,
    ⟨{ base with ctl := base.ctl.setRing 0 { log2Size := 10, tail := 5 } }, 0, 6, by decide +kernel⟩,
    ⟨{ base with ctl := base.ctl.setRing 0 { log2Size := 10, tail := 5 } }, 0, 1024, by decide +kernel⟩,
    ⟨{ base with rst := { base.rst with cause := 3, pins := { faultN := false } } }, 2, by decide +kernel⟩,
    ⟨base, 0, .msixControl, 15, [0,0,0,0x40], by decide +kernel⟩,
    ⟨base, 0, 4, 255, [0,0,0,0,0,0,0,0], by decide +kernel⟩,
    ⟨base, 0, 0x3FFFFFC, 255, [0,0,0,0,0,0,0,0], by decide +kernel⟩,
    ⟨base, 0, 0x1FC, 15, [0,0,0,0x80], by decide +kernel⟩,
    ⟨base, 0, 0x1FC, 3, [0,0,0,0x80], by decide +kernel⟩,
    ⟨base, 0, 0x1FC, 0, [0,0,0,0x80], by decide +kernel⟩⟩

/-- States and operands that meet the hypotheses of Obligations.rings_vectors_and_device_time, clause by clause. -/
theorem witness_rings_vectors_and_device_time :
    (∃ s : State, ∃ f : Fn, Clocked s ∧ s.rst.past 5 true = true ∧ (s.host.fn f).flr = none)
    ∧ (∃ s : State, ∃ f : Fn, Clocked s ∧ (s.ctl.ring f).unsignalled ≠ 0)
    ∧ (∃ s : State, ∃ f : Fn, ∃ v : Fin 2048, Clocked s ∧ s.host.serves f = true ∧ (v.val < (if f.val = 0 then 2048 else 64)))
    ∧ (∃ s : State, ∃ f : Fn, Clocked s ∧ s.host.configures f = true)
    ∧ (∃ h : HostState, ∃ f v : Nat, (tget {} (h.fn f).vectors v).masked = false ∧ (h.fn f).functionMask = false ∧ (h.fn f).msixEnable = true ∧ h.sends f = true)
    ∧ (∃ s : State, ∃ f : Fn, ∃ o : Nat, ∃ wide : Bool, ∃ e : BitVec 8, Clocked s ∧ s.host.serves f = true ∧ o % 4 = 0 ∧ (o + 4 ≤ (if f.val = 0 then 2 ^ 26 else 2 ^ 20)) ∧ ((f.val ≠ 0 ∨ (o ≠ 0x018 ∧ o ≠ 0x01C))) ∧ wide = false)
    ∧ (∃ s : State, ∃ f : Fn, ∃ o : Nat, ∃ wide : Bool, ∃ e : BitVec 8, Clocked s ∧ s.host.serves f = true ∧ o % 4 = 0 ∧ (o + 4 ≤ (if f.val = 0 then 2 ^ 26 else 2 ^ 20)) ∧ ((f.val ≠ 0 ∨ (o ≠ 0x018 ∧ o ≠ 0x01C))) ∧ wide = false)
    ∧ (∃ s : State, ∃ f : Fn, ∃ r : ConfigReg, ∃ wide : Bool, ∃ e : BitVec 8, Clocked s ∧ s.host.configures f = true)
    ∧ (∃ now f n : Nat, ∃ r : RingState, ∃ h : HostState, r.owed = none ∧ r.lostSince = 0 ∧ r.valid = true ∧ h.sends f = true ∧ r.backlog.length < n ∧ r.head.toNat < 2 ^ r.log2Size.toNat ∧ r.tail.toNat < 2 ^ r.log2Size.toNat ∧ r.log2Size.toNat ≤ 16)
    ∧ (∃ now f n : Nat, ∃ r : RingState, ∃ h : HostState, r.owed = none ∧ r.lostSince = 0 ∧ r.valid = true ∧ h.sends f = true ∧ r.backlog.length < n ∧ r.head.toNat < 2 ^ r.log2Size.toNat ∧ r.tail.toNat < 2 ^ r.log2Size.toNat ∧ r.log2Size.toNat ≤ 16)
    ∧ (∃ now f n : Nat, ∃ r : RingState, ∃ h : HostState, (r.valid = false ∨ h.sends f = false ∨ 2 ^ r.log2Size.toNat - 1 ≤ r.used))
    ∧ (∃ now f n : Nat, ∃ r : RingState, ∃ h : HostState, (r.valid = false ∨ h.sends f = false ∨ 2 ^ r.log2Size.toNat - 1 ≤ r.used))
    ∧ (∃ now f n : Nat, ∃ r : RingState, ∃ h : HostState, ∃ x : Nat × Nat, r.room = true ∧ h.sends f = true ∧ r.owed = some x)
    ∧ (∃ now f n : Nat, ∃ r : RingState, ∃ h : HostState, ∃ e : Entry, r.room = true ∧ h.sends f = true ∧ r.owed = none ∧ r.backlog = [e] ∧ r.lostSince ≠ 0)
    ∧ (∃ s : State, ∃ f : Fn, Clocked s ∧ s.rst.past 5 true = true ∧ (s.host.fn f).flr = none ∧ (s.ctl.ring f).room = false) :=
  ⟨⟨{ base with ctl := base.ctl.setRing 0 { valid := true, log2Size := 10, backlog := [{ source := 1, origin := 0, code := 0, payload := [], timeNs := 0}] } }, 0, by decide +kernel⟩,
    ⟨{ base with ctl := base.ctl.setRing 0 { valid := true, log2Size := 10, unsignalled := 1, modUs := 3, vector := 7 } }, 0, by decide +kernel⟩,
    ⟨base, 0, 2047, by decide +kernel⟩,
    ⟨base, 0, by decide +kernel⟩,
    ⟨{ base.host with fns := [(0, { command := 6, msixEnable := true, vectors := [(5, { masked := false })] })] }, 0, 5, by decide +kernel⟩,
    ⟨base, 0, 0x010, false, 15, by decide +kernel⟩,
    ⟨{ base with host := { base.host with vfsEnabled := 1 } }, 1, 0x018, false, 15, by decide +kernel⟩,
    ⟨base, 0, .deviceControl, false, 15, by decide +kernel⟩,
    ⟨5, 0, 9, { valid := true, log2Size := 4, head := 3, tail := 15, base := 4096, backlog := [{ source := 1, origin := 0, code := 0, payload := [], timeNs := 0}, { source := 1, origin := 0, code := 0, payload := [], timeNs := 1}, { source := 1, origin := 0, code := 0, payload := [], timeNs := 2}, { source := 1, origin := 0, code := 0, payload := [], timeNs := 3}, { source := 1, origin := 0, code := 0, payload := [], timeNs := 4}, { source := 1, origin := 0, code := 0, payload := [], timeNs := 5}] }, base.host, by decide +kernel⟩,
    ⟨5, 0, 9, { valid := true, log2Size := 4, head := 2, tail := 15, base := 4096, backlog := [{ source := 1, origin := 0, code := 0, payload := [], timeNs := 0}, { source := 1, origin := 0, code := 0, payload := [], timeNs := 1}, { source := 1, origin := 0, code := 0, payload := [], timeNs := 2}, { source := 1, origin := 0, code := 0, payload := [], timeNs := 3}, { source := 1, origin := 0, code := 0, payload := [], timeNs := 4}, { source := 1, origin := 0, code := 0, payload := [], timeNs := 5}] }, base.host, by decide +kernel⟩,
    ⟨5, 0, 9, { valid := false, log2Size := 4, head := 3, tail := 15, base := 4096, backlog := [{ source := 1, origin := 0, code := 0, payload := [], timeNs := 0}, { source := 1, origin := 0, code := 0, payload := [], timeNs := 1}, { source := 1, origin := 0, code := 0, payload := [], timeNs := 2}, { source := 1, origin := 0, code := 0, payload := [], timeNs := 3}, { source := 1, origin := 0, code := 0, payload := [], timeNs := 4}, { source := 1, origin := 0, code := 0, payload := [], timeNs := 5}] }, base.host, by decide +kernel⟩,
    ⟨5, 0, 9, { valid := true, log2Size := 4, head := 3, tail := 2, base := 4096, backlog := [{ source := 1, origin := 0, code := 0, payload := [], timeNs := 0}, { source := 1, origin := 0, code := 0, payload := [], timeNs := 1}, { source := 1, origin := 0, code := 0, payload := [], timeNs := 2}, { source := 1, origin := 0, code := 0, payload := [], timeNs := 3}, { source := 1, origin := 0, code := 0, payload := [], timeNs := 4}, { source := 1, origin := 0, code := 0, payload := [], timeNs := 5}] }, base.host, by decide +kernel⟩,
    ⟨5, 0, 9, { valid := true, log2Size := 4, head := 3, tail := 15, base := 4096, owed := some (4, 5), backlog := [{ source := 1, origin := 0, code := 0, payload := [], timeNs := 0}, { source := 1, origin := 0, code := 0, payload := [], timeNs := 1}, { source := 1, origin := 0, code := 0, payload := [], timeNs := 2}, { source := 1, origin := 0, code := 0, payload := [], timeNs := 3}, { source := 1, origin := 0, code := 0, payload := [], timeNs := 4}, { source := 1, origin := 0, code := 0, payload := [], timeNs := 5}] }, base.host, (4, 5), by decide +kernel⟩,
    ⟨5, 0, 9, { valid := true, log2Size := 4, head := 3, tail := 15, base := 4096, lostSince := 3, backlog := [{ source := 1, origin := 0, code := 0, payload := [], timeNs := 0}] }, base.host, { source := 1, origin := 0, code := 0, payload := [], timeNs := 0}, by decide +kernel⟩,
    ⟨{ base with ctl := base.ctl.setRing 0 { valid := true, log2Size := 4, head := 3, tail := 2 } }, 0, by decide +kernel⟩⟩

end W01

namespace W02

set_option maxRecDepth 100000
set_option linter.unusedVariables false



/-- States and operands that meet the hypotheses of Obligations.device_memory_window, clause by clause. -/
theorem witness_device_memory_window :
    (∃ s : State, ∃ f : Fn, ∃ offset len : Nat, Clocked s ∧ s.host.serves f = true ∧ len ≠ 0 ∧ offset + len ≤ 2 ^ (s.wake.host.fn f).bar2Log2 ∧ ((∀ x ∈ grainPieces ((s.wake.host.fn f).bar2Base.toNat + offset) len, s.wake.bar2Place f x.1 false = .ok x.1 ∧ s.wake.mem.ue.contains (x.1 / 256) = false)))
    ∧ (∃ s : State, ∃ f : Fn, ∃ offset len a : Nat, ∃ errors : List GrainErrors, Clocked s ∧ s.host.serves f = true ∧ len ≠ 0 ∧ offset + len ≤ 2 ^ (s.wake.host.fn f).bar2Log2 ∧ grainPieces ((s.wake.host.fn f).bar2Base.toNat + offset) len = [(a, len)] ∧ s.wake.bar2Place f a false = .ok a ∧ s.wake.mem.ue.contains (a / 256) = true)
    ∧ (∃ s : State, ∃ f : Fn, ∃ offset : Nat, ∃ data : List Byte, Clocked s ∧ s.host.serves f = true ∧ data ≠ [] ∧ offset + data.length ≤ 2 ^ (s.wake.host.fn f).bar2Log2 ∧ s.wake.bar2Bad f true (grainPieces ((s.wake.host.fn f).bar2Base.toNat + offset) data.length) = none)
    ∧ (∃ s : State, ∃ f a : Nat, ∃ bs : List Byte, s.bar2Place f a true = .ok a ∧ s.mem.seals = [] ∧ s.mem.ue = [])
    ∧ (∃ s : State, ∃ f : Fn, ∃ offset : Nat, ∃ data : List Byte, Clocked s ∧ s.host.serves f = true ∧ data ≠ [] ∧ offset + data.length ≤ 2 ^ (s.wake.host.fn f).bar2Log2) :=
  ⟨⟨base, 0, 250, 12, by decide +kernel⟩,
    ⟨{ base with mem := { ue := [0] } }, 0, 250, 4, 250, [], by decide +kernel⟩,
    ⟨base, 0, 256, [1,2,3], by decide +kernel⟩,
    ⟨base, 0, 250, [1], by decide +kernel⟩,
    ⟨base, 0, 256, [1,2,3], by decide +kernel⟩⟩

/-- States and operands that meet the hypotheses of Obligations.device_memory_window (its part on link and power states), clause by clause. -/
theorem witness_link_and_power_states :
    (∃ s : State, Clocked s ∧ s.host.link = .l0 ∧ s.host.linkControl.getLsbD 1 = true)
    ∧ (∃ s : State, Clocked s ∧ s.host.link = .l1)
    ∧ (∃ s : State, Clocked s ∧ s.host.link = .training)
    ∧ (∃ s : State, Clocked s ∧ (s.host.link = .l0 ∨ s.host.link = .l1))
    ∧ (∃ s : State, ∃ f : Fn, Clocked s ∧ s.host.configures f = true)
    ∧ (∃ s : State, ∃ f : Fn, Clocked s ∧ s.host.configures f = true)
    ∧ (∃ s : State, ∃ f : Fn, Clocked s ∧ (s.host.link = .l0 ∨ s.host.link = .l1) ∧ s.host.configReady = false)
    ∧ (∃ s : State, ∃ f : Fn, ∃ head : BitVec 16, Clocked s ∧ s.host.serves f = false ∧ (s.host.link = .l0 ∨ s.host.link = .l1)) :=
  ⟨⟨base, by decide +kernel⟩,
    ⟨{ base with host := { base.host with link := .l1 } }, by decide +kernel⟩,
    ⟨{ base with host := { base.host with link := .training } }, by decide +kernel⟩,
    ⟨{ base with host := { base.host with link := .l1, configReady := false } }, by decide +kernel⟩,
    ⟨base, 0, by decide +kernel⟩,
    ⟨base, 0, by decide +kernel⟩,
    ⟨{ base with host := { base.host with configReady := false } }, 1, by decide +kernel⟩,
    ⟨base, 1, 0, by decide +kernel⟩⟩

/-- States and operands that meet the hypotheses of Obligations.mctp_control_messages, clause by clause. -/
theorem witness_mctp_control_messages :
    (∃ s : State, ∃ v : Vdm, ∃ eid : Byte, Clocked s ∧ s.mctpOpen v = true)
    ∧ (∃ s : State, ∃ v : Vdm, Clocked s ∧ s.mctpOpen v = true)
    ∧ (∃ s : State, ∃ v : Vdm, Clocked s ∧ s.mctpOpen v = true)
    ∧ (∃ s : State, ∃ v : Vdm, Clocked s ∧ s.mctpOpen v = true)
    ∧ (∃ s : State, ∃ v : Vdm, ∃ msg : List Byte, Clocked s ∧ s.mctpOpen v = true)
    ∧ (∃ s : State, ∃ v : Vdm, v.to_ ≠ 0)
    ∧ (∃ s : State, ∃ v : Vdm, ∃ eid : Byte, s.mctpOpen v = false) :=
  ⟨⟨base, ⟨0, 64⟩, 9, by decide +kernel⟩,
    ⟨base, ⟨0, 64⟩, by decide +kernel⟩,
    ⟨base, ⟨0, 64⟩, by decide +kernel⟩,
    ⟨base, ⟨0, 64⟩, by decide +kernel⟩,
    ⟨base, ⟨0, 64⟩, [1], by decide +kernel⟩,
    ⟨base, ⟨1, 64⟩, by decide +kernel⟩,
    ⟨base, ⟨1, 64⟩, 9, by decide +kernel⟩⟩

/-- States and operands that meet the hypotheses of Obligations.telemetry_records, clause by clause. -/
theorem witness_telemetry_records :
    (∃ s : State, ∃ f : Fn, ∃ m : Mb, ∃ o : TelObj, Admitted (telForm 0x0801 false) s f m ∧ telObj ((s.ctl.req f m).u32 0) = some o ∧ telRange o (s.ctl.req f m) = none ∧ f.val = 0)
    ∧ (∃ s : State, ∃ f : Fn, ∃ m : Mb, ∃ o : TelObj, Presented (telForm 0x0801 false) s f m ∧ telObj ((s.ctl.req f m).u32 0 % 256) = some o ∧ f.val ≠ 0 ∧ o.pf0 = true)
    ∧ (∃ s : State, ∃ f : Fn, ∃ m : Mb, Admitted (telForm 0x0802 true) s f m ∧ (s.ctl.req f m).u32 0 = 1 ∧ (s.ctl.req f m).u32 4 < 256 ∧ (s.ctl.req f m).u32 8 = 1)
    ∧ (∃ s : State, ∃ f : Fn, ∃ m : Mb, Admitted (telForm 0x0802 true) s f m ∧ (s.ctl.req f m).u32 0 = 2 ∧ (s.ctl.req f m).u32 4 < 256 ∧ (s.ctl.req f m).u32 8 = 1)
    ∧ (∃ s : State, ∃ f : Fn, ∃ m : Mb, Admitted (telForm 0x0802 true) s f m ∧ (s.ctl.req f m).u32 0 = 3 ∧ telRange ⟨64, 256, true, false⟩ (s.ctl.req f m) = none) :=
  ⟨⟨asked base 0 0 0x801 (ws [3, 0, 1]), 0, 0, ⟨64, 256, true, false⟩, by decide +kernel⟩,
    ⟨asked { base with host := { base.host with vfsEnabled := 1} } 1 0 0x801 (ws [3, 0, 1]), 1, 0, ⟨64, 256, true, false⟩, by decide +kernel⟩,
    ⟨asked (base.modCore 255 (fun k => { k with fmtRec := { k.fmtRec with specialOperand := 1 } })) 0 0 0x802 (ws [1, 255, 1]), 0, 0, by decide +kernel⟩,
    ⟨asked (base.modCore 255 (fun k => { k with clipRec := { k.clipRec with flaggedBlocks := 1 } })) 0 0 0x802 (ws [2, 255, 1]), 0, 0, by decide +kernel⟩,
    ⟨asked base 0 0 0x802 (ws [3, 0, 1]), 0, 0, by decide +kernel⟩⟩

end W02

namespace W03

set_option maxRecDepth 100000
set_option linter.unusedVariables false

def imgA := image [] 0x20 [word 0x34 0 [1, 0, 0, 0]] []
def imgW := image [] 0x20 [word 0x34 0 [1, 0, 0, 0]] [(0x2C, natLe 4 10), (0x48, natLe 4 0x100), (0x4C, natLe 4 5)]
def rdy (s : State) : State := s.modCore 0 (fun k => { k with clock := { k.clock with gear := BitVec.ofNat 4 (s.targetGear 0) } })
def q1 : State := (base.setCtx 0 ctx0).modCore 0 (fun k => { k with queues := [(0, [{ image := 0x20000 }])] })
def ld (p : LoadPhase) (img : List Byte) : LoadBlock := { fn := 0, chain := chainAt 0x20000, phase := p, image := img }
def sld (p : LoadPhase) (img : List Byte) : State := (mapped (base.setCtx 0 ctx0) 0x20000 imgA).modCore 0 (fun k => { k with load := some (ld p img), clock := { gear := 15 } })
def eb : EndedBlock := { fn := 0, ordinal := 1, chain := 1, ending := { status := 4 }, event := false, clipFlag := false, slipOver := false, branched := false, chainEnd := true, dropped := 0, wallNs := 5, clipCount := 1, maxMag := 2, slips := {} }
def eb0 : EndedBlock := { eb with ending := {} }

/-- States and operands that meet the hypotheses of Obligations.blocks_are_chosen_loaded_and_issued, clause by clause. -/
theorem witness_blocks_are_chosen_loaded_and_issued :
    (∃ s : State, ∃ c : CoreIx, ∃ f : Nat, ∃ succ : Bool, ∃ ch : Chain, Clocked s ∧ (s.core c).load = none ∧ (s.core c).swap = none ∧ (s.core c).run = none ∧ (s.core c).kept = [] ∧ ((s.core c).raise ((s.core c).candidates s.seqs) none).pick s.seqs = some f ∧ ((s.core c).raise ((s.core c).candidates s.seqs) none).candidate s.seqs f = some (succ, ch))
    ∧ (∃ s : State, ∃ c : CoreIx, ∃ l : LoadBlock, ∃ img : List Byte, Clocked s ∧ (s.core c).load = some l ∧ l.phase = .chosen ∧ s.loadChecks c l = .ok img)
    ∧ (∃ s : State, ∃ c : CoreIx, ∃ l : LoadBlock, ∃ e : Ending, Clocked s ∧ (s.core c).load = some l ∧ l.phase = .chosen ∧ s.loadChecks c l = .error e)
    ∧ (∃ s : State, ∃ c : CoreIx, ∃ l : LoadBlock, Clocked s ∧ (s.core c).load = some l ∧ l.phase = .boundWait ∧ s.available c = true ∧ s.share.ctrBad (clusterOf c) (parseHeader l.image).waitCtr = false ∧ (s.share.ctr (clusterOf c) (parseHeader l.image).waitCtr - BitVec.ofNat 32 (parseHeader l.image).waitThr).toNat < 2 ^ 31)
    ∧ (∃ s : State, ∃ c : CoreIx, ∃ l : LoadBlock, Clocked s ∧ (s.core c).load = some l ∧ l.phase = .boundWait ∧ s.available c = true ∧ (parseHeader l.image).wallLimit ≠ 0 ∧ 2 ^ 31 ≤ (s.share.ctr (clusterOf c) (parseHeader l.image).waitCtr - BitVec.ofNat 32 (parseHeader l.image).waitThr).toNat)
    ∧ (∃ s : State, ∃ c : CoreIx, ∃ l : LoadBlock, ∃ bs : List W32, Clocked s ∧ (s.core c).load = some l ∧ l.phase = .checked ∧ s.available c = true ∧ readBounds s.mem s.pages l.fn l.image (parseHeader l.image).mboundCount 0 = .ok bs)
    ∧ (∃ s : State, ∃ c : CoreIx, ∃ l : LoadBlock, MayIssue s c l ∧ s.available c = true ∧ s.groupsFew c l.fn l.image = false)
    ∧ (∃ s : State, ∃ c : CoreIx, ∃ l : LoadBlock, MayIssue s c l ∧ s.available c = false)
    ∧ (∃ s : State, ∃ c : CoreIx, ∃ l : LoadBlock, Clocked s ∧ (s.core c).load = some l ∧ l.phase = .boundWait ∧ s.available c = false) :=
  ⟨⟨q1, 0, 0, false, chainAt 0x20000, by decide +kernel⟩,
    ⟨sld .chosen [], 0, ld .chosen [], imgA, by decide +kernel⟩,
    ⟨{ sld .chosen [] with mem := {} }, 0, ld .chosen [], (match State.loadChecks { sld .chosen [] with mem := {} } 0 (ld .chosen []) with | .error e => e | _ => {}), by decide +kernel⟩,
    ⟨{ sld .boundWait imgW with share := { clusterCtr := [(0, 5)] } }, 0, ld .boundWait imgW, by decide +kernel⟩,
    ⟨{ sld .boundWait imgW with share := { clusterCtr := [(0, 4)] } }, 0, ld .boundWait imgW, by decide +kernel⟩,
    ⟨sld .checked imgA, 0, ld .checked imgA, [], by decide +kernel⟩,
    ⟨rdy (sld .ready imgA), 0, ld .ready imgA, by decide +kernel⟩,
    ⟨rdy { sld .ready imgA with cores := { (sld .ready imgA).cores with unavailable := [0] } }, 0, ld .ready imgA, by decide +kernel⟩,
    ⟨{ sld .boundWait imgW with cores := { (sld .boundWait imgW).cores with unavailable := [0] } }, 0, ld .boundWait imgW, by decide +kernel⟩⟩

/-- States and operands that meet the hypotheses of Obligations.blocks_end_and_report, clause by clause. -/
theorem witness_blocks_end_and_report :
    (∃ s : State, ∃ c : CoreIx, ∃ r : RunBlock, Clocked s ∧ (s.core c).run = some r ∧ (parseHeader r.image).wallLimit ≠ 0 ∧ r.ending = none ∧ r.runsAt (s.core c).period (max s.now ((r.startAt + (parseHeader r.image).wallLimit * nsTicks) / fabTicks * fabTicks + fabTicks)) = true)
    ∧ (∃ s : State, ∃ c : CoreIx, ∃ r : RunBlock, ∃ e : Ending, Clocked s ∧ (s.core c).run = some r ∧ r.ending = some e)
    ∧ (∃ s : State, ∃ c : CoreIx, ∃ b : EndedBlock, Clocked s ∧ (s.core c).ended = [b] ∧ (s.core c).mover.descs = [] ∧ (s.core c).mover.adds = [] ∧ b.silent = false ∧ b.ending.status ≠ 0)
    ∧ (∃ s : State, ∃ c : CoreIx, ∃ b : EndedBlock, Clocked s ∧ (s.core c).ended = [b] ∧ (s.core c).mover.descs = [] ∧ (s.core c).mover.adds = [] ∧ b.ending.status = 0 ∧ b.event = false)
    ∧ (∃ s : State, ∃ c : CoreIx, Clocked s ∧ (s.core c).run = none ∧ (s.core c).load = none ∧ (s.core c).swap = none ∧ ((∀ q ∈ s.svc.requests, q.kind = 0 → q.target ≠ c.val)) ∧ (s.core c).clock.change = none ∧ (s.core c).clock.waking = none ∧ (s.core c).clock.gear ≠ 0 ∧ (s.core c).candidates s.seqs = [])
    ∧ (∃ s : State, ∃ cl : Fin 16, Clocked s ∧ s.steeps cl = false ∧ (tget {} s.clocks.spareClocks cl).change = none ∧ (tget {} s.clocks.spareClocks cl).waking = none ∧ (tget {} s.clocks.spareClocks cl).gear ≠ 0) :=
  ⟨⟨(running imgW).modRun 0 (fun r => { r with slip := some { awaits := [], chargedTo := 0 } }), 0, { block imgW with slip := some { awaits := [], chargedTo := 0 } }, by decide +kernel⟩,
    ⟨(running imgW).modRun 0 (fun r => { r with ending := some { status := 4 } }), 0, { block imgW with ending := some { status := 4 } }, { status := 4 }, by decide +kernel⟩,
    ⟨base.modCore 0 (fun k => { k with ended := [eb] }), 0, eb, by decide +kernel⟩,
    ⟨base.modCore 255 (fun k => { k with ended := [eb0] }), 255, eb0, by decide +kernel⟩,
    ⟨base.modCore 255 (fun k => { k with clock := { gear := 3 } }), 255, by decide +kernel⟩,
    ⟨{ base with clocks := { base.clocks with spareClocks := [(3, { gear := 3 })] } }, 3, by decide +kernel⟩⟩

end W03

namespace W04

set_option maxRecDepth 100000
set_option linter.unusedVariables false

def seqS (op : Nat) (ops : List Nat) : State := (running (image [] 0x20 [word op 0 ops] [])).modCore 0 (fun k => { k with sregs := [(0, 5), (1, 0xFFFFFFFF)] })
def busyL : State := (seqS 0x33 [3, 0x40]).modRun 0 (fun r => { r with ops := [loadregOp 1 0 0x40] })
def rel : State := (seqS 0x30 [255, 0x10007]).modCore 0 (fun k => { k with mover := { descs := [{ id := 0, isStore := true, block := 1, fn := 0, phys := true, grains := [{ virt := 0 }] }], nextId := 1 } })
def own : State := (seqS 0x30 [255, 7]).setCtx 0 { ctx0 with clusterCtrUnits := 0x7FFF }
def ownW : State := (seqS 0x31 [255, 7]).setCtx 0 { ctx0 with clusterCtrUnits := 0x7FFF }
def slp : State := { (seqS 0x31 [255, 1]).modRun 0 (fun r => { r with posAt := 90090, slip := some { awaits := [.counter 255 0 .flagWait], chargedTo := 1 } }) with now := 200000 }

/-- States and operands that meet the hypotheses of Obligations.register_and_flag_words, clause by clause. -/
theorem witness_register_and_flag_words :
    (∃ s s1 : State, ∃ c : CoreIx, ∃ r : RunBlock, ∃ w p : Nat, Issues s c 0x32 s1 r w p)
    ∧ (∃ s s1 : State, ∃ c : CoreIx, ∃ r : RunBlock, ∃ w p : Nat, Issues s c 0x32 s1 r w p)
    ∧ (∃ s s1 : State, ∃ c : CoreIx, ∃ r : RunBlock, ∃ w p : Nat, Issues s c 0x34 s1 r w p)
    ∧ (∃ s s1 : State, ∃ c : CoreIx, ∃ r : RunBlock, ∃ w p : Nat, Issues s c 0x34 s1 r w p)
    ∧ (∃ s s1 : State, ∃ c : CoreIx, ∃ r : RunBlock, ∃ w p : Nat, Issues s c 0x33 s1 r w p ∧ (s1.ctxOf r.fn).spadOk ((parseSlot w).spad 1) = true ∧ r.collides (loadregOp w p ((parseSlot w).spad 1)) p = false ∧ (s1.core c).mover.holds (c % 16) false [((parseSlot w).spad 1, 4)] = none ∧ s1.cores.badWord c ((parseSlot w).spad 1, 4) = none)
    ∧ (∃ s s1 : State, ∃ c : CoreIx, ∃ r : RunBlock, ∃ w p : Nat, Issues s c 0x33 s1 r w p ∧ (s1.ctxOf r.fn).spadOk ((parseSlot w).spad 1) = true ∧ r.collides (loadregOp w p ((parseSlot w).spad 1)) p = true)
    ∧ (∃ s s1 : State, ∃ c : CoreIx, ∃ r : RunBlock, ∃ w p : Nat, Issues s c 0x33 s1 r w p ∧ (s1.ctxOf r.fn).spadOk ((parseSlot w).spad 1) = false)
    ∧ (∃ s s1 : State, ∃ c : CoreIx, ∃ r : RunBlock, ∃ w p : Nat, Issues s c 0x34 s1 r w p ∧ (parseSlot w).op 2 % 4 = 0)
    ∧ (∃ s s1 : State, ∃ c : CoreIx, ∃ r : RunBlock, ∃ w p : Nat, Issues s c 0x34 s1 r w p ∧ (parseSlot w).op 2 % 4 = 1)
    ∧ (∃ s s1 : State, ∃ c : CoreIx, ∃ r : RunBlock, ∃ w p : Nat, Issues s c 0x34 s1 r w p ∧ (parseSlot w).op 2 % 4 = 2)
    ∧ (∃ s s1 : State, ∃ c : CoreIx, ∃ r : RunBlock, ∃ w p : Nat, Issues s c 0x34 s1 r w p ∧ (parseSlot w).op 2 % 4 = 3) :=
  ⟨⟨seqS 0x32 [3, 0, 9, 1], ptS (seqS 0x32 [3, 0, 9, 1]) 0 0x32, 0, ptR (seqS 0x32 [3, 0, 9, 1]) 0 0x32, ptW (seqS 0x32 [3, 0, 9, 1]) 0 0x32, 0, issues_of_point (by decide +kernel)⟩,
    ⟨seqS 0x32 [0, 3, 0xFFFFFFFE, 1], ptS (seqS 0x32 [0, 3, 0xFFFFFFFE, 1]) 0 0x32, 0, ptR (seqS 0x32 [0, 3, 0xFFFFFFFE, 1]) 0 0x32, ptW (seqS 0x32 [0, 3, 0xFFFFFFFE, 1]) 0 0x32, 0, issues_of_point (by decide +kernel)⟩,
    ⟨seqS 0x34 [3, 1, 2, 0], ptS (seqS 0x34 [3, 1, 2, 0]) 0 0x34, 0, ptR (seqS 0x34 [3, 1, 2, 0]) 0 0x34, ptW (seqS 0x34 [3, 1, 2, 0]) 0 0x34, 0, issues_of_point (by decide +kernel)⟩,
    ⟨seqS 0x34 [3, 1, 3, 0], ptS (seqS 0x34 [3, 1, 3, 0]) 0 0x34, 0, ptR (seqS 0x34 [3, 1, 3, 0]) 0 0x34, ptW (seqS 0x34 [3, 1, 3, 0]) 0 0x34, 0, issues_of_point (by decide +kernel)⟩,
    ⟨seqS 0x33 [3, 0x40], ptS (seqS 0x33 [3, 0x40]) 0 0x33, 0, ptR (seqS 0x33 [3, 0x40]) 0 0x33, ptW (seqS 0x33 [3, 0x40]) 0 0x33, 0, issues_of_point (by decide +kernel), by decide +kernel⟩,
    ⟨busyL, ptS busyL 0 0x33, 0, ptR busyL 0 0x33, ptW busyL 0 0x33, 0, issues_of_point (by decide +kernel), by decide +kernel⟩,
    ⟨(seqS 0x33 [3, 0x40]).setCtx 0 { ctx0 with spadBanks := 2 }, ptS ((seqS 0x33 [3, 0x40]).setCtx 0 { ctx0 with spadBanks := 2 }) 0 0x33, 0, ptR ((seqS 0x33 [3, 0x40]).setCtx 0 { ctx0 with spadBanks := 2 }) 0 0x33, ptW ((seqS 0x33 [3, 0x40]).setCtx 0 { ctx0 with spadBanks := 2 }) 0 0x33, 0, issues_of_point (by decide +kernel), by decide +kernel⟩,
    ⟨seqS 0x34 [3, 1, 0, 0], ptS (seqS 0x34 [3, 1, 0, 0]) 0 0x34, 0, ptR (seqS 0x34 [3, 1, 0, 0]) 0 0x34, ptW (seqS 0x34 [3, 1, 0, 0]) 0 0x34, 0, issues_of_point (by decide +kernel), by decide +kernel⟩,
    ⟨seqS 0x34 [3, 1, 1, 0], ptS (seqS 0x34 [3, 1, 1, 0]) 0 0x34, 0, ptR (seqS 0x34 [3, 1, 1, 0]) 0 0x34, ptW (seqS 0x34 [3, 1, 1, 0]) 0 0x34, 0, issues_of_point (by decide +kernel), by decide +kernel⟩,
    ⟨seqS 0x34 [3, 1, 2, 0], ptS (seqS 0x34 [3, 1, 2, 0]) 0 0x34, 0, ptR (seqS 0x34 [3, 1, 2, 0]) 0 0x34, ptW (seqS 0x34 [3, 1, 2, 0]) 0 0x34, 0, issues_of_point (by decide +kernel), by decide +kernel⟩,
    ⟨seqS 0x34 [3, 1, 3, 0], ptS (seqS 0x34 [3, 1, 3, 0]) 0 0x34, 0, ptR (seqS 0x34 [3, 1, 3, 0]) 0 0x34, ptW (seqS 0x34 [3, 1, 3, 0]) 0 0x34, 0, issues_of_point (by decide +kernel), by decide +kernel⟩⟩

/-- States and operands that meet the hypotheses of Obligations.register_and_flag_words (its part on a scalar write changes one register or flag), clause by clause. -/
theorem witness_a_scalar_write_changes_one_register_or_flag :
    (∃ k : CoreState, ∃ r : RunBlock, ∃ w : ScalarWrite, k.run = some r ∧ r.scalars = [w] ∧ twf 0 k.sregs = true)
    ∧ (∃ k : CoreState, ∃ r : RunBlock, ∃ w : ScalarWrite, k.run = some r ∧ r.scalars = [w] ∧ twf 0 k.sregs = true)
    ∧ (∃ k : CoreState, ∃ r : RunBlock, ∃ w : ScalarWrite, k.run = some r ∧ r.scalars = [w] ∧ twf 0 k.sregs = true ∧ w.isFlag = false ∧ w.index < 16)
    ∧ (∃ k : CoreState, ∃ r : RunBlock, ∃ w : ScalarWrite, k.run = some r ∧ r.scalars = [w] ∧ twf 0 k.sregs = true ∧ w.isFlag = true ∧ w.index < 4) :=
  ⟨⟨{ run := some { block [] with scalars := [⟨1, 0, false, 15, 7⟩] } }, { block [] with scalars := [⟨1, 0, false, 15, 7⟩] }, ⟨1, 0, false, 15, 7⟩, by decide +kernel⟩,
    ⟨{ run := some { block [] with scalars := [⟨1, 0, true, 3, 1⟩] } }, { block [] with scalars := [⟨1, 0, true, 3, 1⟩] }, ⟨1, 0, true, 3, 1⟩, by decide +kernel⟩,
    ⟨{ run := some { block [] with scalars := [⟨1, 0, false, 15, 7⟩] } }, { block [] with scalars := [⟨1, 0, false, 15, 7⟩] }, ⟨1, 0, false, 15, 7⟩, by decide +kernel⟩,
    ⟨{ run := some { block [] with scalars := [⟨1, 0, true, 3, 1⟩] } }, { block [] with scalars := [⟨1, 0, true, 3, 1⟩] }, ⟨1, 0, true, 3, 1⟩, by decide +kernel⟩⟩

/-- States and operands that meet the hypotheses of Obligations.register_and_flag_words (its part on sync counter words), clause by clause. -/
theorem witness_sync_counter_words :
    (∃ s s1 : State, ∃ c : CoreIx, ∃ r : RunBlock, ∃ w p : Nat, Issues s c 0x30 s1 r w p ∧ (s1.ctxOf r.fn).ownsCtr (clusterOf c) ((parseSlot w).op 0 % 2 ^ 13) = true ∧ ((bit ((parseSlot w).op 1) 16 = false ∨ (s1.core c).mover.descs = [])))
    ∧ (∃ s s1 : State, ∃ c : CoreIx, ∃ r : RunBlock, ∃ w p : Nat, Issues s c 0x30 s1 r w p ∧ (s1.ctxOf r.fn).ownsCtr (clusterOf c) ((parseSlot w).op 0 % 2 ^ 13) = true ∧ bit ((parseSlot w).op 1) 16 = true ∧ ((s1.core c).mover.descs.any (fun d => d.isStore) = true))
    ∧ (∃ s s1 : State, ∃ c : CoreIx, ∃ r : RunBlock, ∃ w p : Nat, Issues s c 0x30 s1 r w p ∧ (s1.ctxOf r.fn).ownsCtr (clusterOf c) ((parseSlot w).op 0 % 2 ^ 13) = false)
    ∧ (∃ s s1 : State, ∃ c : CoreIx, ∃ r : RunBlock, ∃ w p : Nat, Issues s c 0x31 s1 r w p ∧ (s1.ctxOf r.fn).ownsCtr (clusterOf c) ((parseSlot w).op 0 % 2 ^ 13) = true ∧ s1.share.ctrBad (clusterOf c) ((parseSlot w).op 0 % 2 ^ 13) = false ∧ bit ((parseSlot w).op 2) 2 = false)
    ∧ (∃ s s1 : State, ∃ c : CoreIx, ∃ r : RunBlock, ∃ w p : Nat, Issues s c 0x31 s1 r w p ∧ (s1.ctxOf r.fn).ownsCtr (clusterOf c) ((parseSlot w).op 0 % 2 ^ 13) = true ∧ s1.share.ctrBad (clusterOf c) ((parseSlot w).op 0 % 2 ^ 13) = false ∧ bit ((parseSlot w).op 2) 2 = false)
    ∧ (∃ s s1 : State, ∃ c : CoreIx, ∃ r : RunBlock, ∃ w p : Nat, Issues s c 0x31 s1 r w p ∧ (s1.ctxOf r.fn).ownsCtr (clusterOf c) ((parseSlot w).op 0 % 2 ^ 13) = false)
    ∧ (∃ s : State, ∃ c : CoreIx, ∃ a : ReleaseAdd, ∃ l : List ReleaseAdd, Clocked s ∧ (s.core c).mover.adds = a :: l ∧ (s.core c).mover.descs = [])
    ∧ (∃ s : State, ∃ c : CoreIx, ∃ r : RunBlock, ∃ sl : SlipNow, Clocked s ∧ ((s.settle c s.now).core c).run = some r ∧ r.slip = some sl ∧ slipCause (s.settle c s.now).share ((s.settle c s.now).core c).mover c ((s.settle c s.now).now / fabTicks) sl = none) :=
  ⟨⟨seqS 0x30 [0x1FFF, 7], ptS (seqS 0x30 [0x1FFF, 7]) 0 0x30, 0, ptR (seqS 0x30 [0x1FFF, 7]) 0 0x30, ptW (seqS 0x30 [0x1FFF, 7]) 0 0x30, 0, issues_of_point (by decide +kernel), by decide +kernel⟩,
    ⟨rel, ptS rel 0 0x30, 0, ptR rel 0 0x30, ptW rel 0 0x30, 0, issues_of_point (by decide +kernel), by decide +kernel⟩,
    ⟨own, ptS own 0 0x30, 0, ptR own 0 0x30, ptW own 0 0x30, 0, issues_of_point (by decide +kernel), by decide +kernel⟩,
    ⟨seqS 0x31 [255, 1, 2], ptS (seqS 0x31 [255, 1, 2]) 0 0x31, 0, ptR (seqS 0x31 [255, 1, 2]) 0 0x31, ptW (seqS 0x31 [255, 1, 2]) 0 0x31, 0, issues_of_point (by decide +kernel), by decide +kernel⟩,
    ⟨seqS 0x31 [255, 0, 2], ptS (seqS 0x31 [255, 0, 2]) 0 0x31, 0, ptR (seqS 0x31 [255, 0, 2]) 0 0x31, ptW (seqS 0x31 [255, 0, 2]) 0 0x31, 0, issues_of_point (by decide +kernel), by decide +kernel⟩,
    ⟨ownW, ptS ownW 0 0x31, 0, ptR ownW 0 0x31, ptW ownW 0 0x31, 0, issues_of_point (by decide +kernel), by decide +kernel⟩,
    ⟨base.modCore 5 (fun k => { k with mover := { adds := [⟨1, 4099, 5, 9⟩] } }), 5, ⟨1, 4099, 5, 9⟩, [], by decide +kernel⟩,
    ⟨slp, 0, (((slp.settle 0 slp.now).core 0).run.getD (block [])), { awaits := [.counter 255 0 .flagWait], chargedTo := 1 }, by decide +kernel⟩⟩

/-- States and operands that meet the hypotheses of Obligations.an_add_changes_one_counter, clause by clause. -/
theorem witness_an_add_changes_one_counter :
    (∃ h : ShareState, ∃ cl fld amount : Nat, twf 0 h.hubCtr = true ∧ twf 0 h.clusterCtr = true) :=
  ⟨{}, 15, 255, 1, by decide +kernel⟩

end W04

namespace W05

set_option maxRecDepth 100000
set_option linter.unusedVariables false

def vrec : List Byte := rec 64 [(0, natLe 4 0), (4, natLe 2 1 ++ natLe 2 1), (8, natLe 4 128), (12, natLe 4 128), (0x10, natLe 4 128)]
def prec : List Byte := rec 64 [(0, natLe 4 4), (4, natLe 2 1 ++ natLe 2 1 ++ natLe 2 1)]
def crec : List Byte := rec 64 [(0, natLe 4 0), (4, natLe 2 1 ++ natLe 2 1), (12, natLe 4 1), (0x18, natLe 4 4)]
def un (op : Nat) (rc : List Byte) : State := (running (image [rc] 1 [word op 0 [0, 0x40000, 0x80000, 0xC0000]] [])).modCore 0 (fun k => { k with caddy := (List.range 4).map (fun i => (i, { active := [1] })) })
def ft (s : State) (op : Nat) : Option Ending := issueFault ((ptS s 0 op).ctxOf 0) (ptR s 0 op) (((ptS s 0 op).core 0).newOp (ptR s 0 op) (ptW s 0 op) 0) 0
def bsy : State := (un 0x13 vrec).modRun 0 (fun r => { r with ops := [{ unit := .vector, word := 0, issue := 0, tile := 9, latency := 3, count := 1 }] })
def nop : State := (un 0x13 vrec).setCtx 0 { ctx0 with spadBanks := 0x2 }
def rn : State := match exec (.reduce 0) (un 0x13 vrec) with | .next t => t | _ => {}
def rnr : RunBlock := ((rn.core 0).run.getD (block []))
def rno : UnitOp := (rnr.ops[0]?).getD { unit := .vector, word := 0, issue := 0, tile := 9, latency := 3, count := 1 }
def rn2 : State := rn.issueIter 0 0 rnr 0
def rn2r : RunBlock := ((rn2.core 0).run.getD (block []))
def rn2o : UnitOp := (rn2r.ops[0]?).getD { unit := .vector, word := 0, issue := 0, tile := 9, latency := 3, count := 1 }
def rn3 : State := rn2.modRun 0 (fun r => { r with ops := r.ops.map (fun o => { o with flight := o.flight.map (fun q => { q with opened := true }) }) })
def rn3r : RunBlock := ((rn3.core 0).run.getD (block []))
def rn4 : State := (running (image [] 0 [] [])).modRun 0 (fun r => { r with stopAt := some 3 })
def rn4r : RunBlock := ((rn4.core 0).run.getD (block []))
def limg : List Byte := rec 512 [(0x14, natLe 2 2 ++ natLe 2 1), (128, [1]), (128 + 0x24, [2])]
def mo : UnitOp := { unit := .vector, word := 0x13 * 2 ^ 250, issue := 0, tile := 9, latency := 3, count := 2, bounds := [0] }
def msk : State := (running limg).modRun 0 (fun r => { r with ops := [mo] })
def vw : View := { spad := setBytes 0 [] (spadKeyOf 1) ((List.range 512).map (fun i => BitVec.ofNat 8 (i * 7 + 3))), spadKey := spadKeyOf 1, acc := [(5, 0x40400000)], accKey := 0, open_ := [] }
def pr : ProductRec := { parseProduct [] with m := 1, k64 := 2, n := 2 }
def prc : ProductRec := { pr with corr := true, rank := 8 }
def pa : ProductAt := { x := 0, w := 64, sx := 32, sw := 48, d := 5, coord := 0, zero := true, empty := false }
def xv : Vec := mkVec .fp4 ((List.range pr.k).map (fun k => (xElem .fp4 pr ((vw.row (0 + 0 * (pr.k * 4 / 8)) 4 pr.k).getD k 0)).1)) ((vw.bytes (32 + 0 * 1) 1).map (·.toNat))
def wv : Vec := mkVec .fp4 ((List.range pr.k).map (fun k => (wElem .fp4 pr ((vw.row (64 + 0 + k * 64) 4 128).getD 1 0)).1)) ((vw.bytes (48 + 1 * 1) 1).map (·.toNat))
def rr0 : ProductRec := { parseProduct [] with m := 1, k64 := 1 }
def cr : ConvRec := { parseConv [] with rows := 1, cols := 4, outScale := 0x3F800000, pitch := 16 }
def vr : VecRec := { parseVec [] with rows := 1, cols := 2, pitchA := 128, pitchB := 128, pitchD := 128 }
def va : VecAt := { a := 0, b := 64, d := 128, x := 192 }
def wr : VecRec := { vr with subop := 1, cols := 1, window := 9, inH := 1, inW := 1, channels := 1 }
def wout (q c : Nat) : Nat :=
  let tp := fun (t : Nat × Nat) => if t.1 < 1 ∧ q + t.2 < 1 then some (widen 0 ((vw.row 0 32 1).getD c 0)) else none
  let l := (((List.range 1).flatMap (fun u => (List.range 1).map (fun y => (u, y)))).filterMap tp)
  l.tail.foldl fmax (l.headD 0)
def fr : FuncRec := { parseFunc [] with rows := 1, cols := 2, inScale := 0x3F800000, pitchD := 16 }
def cd : Caddy := { parseCaddy [] with segments := 1 }
def uc (op : Nat) : UnitCtx := unitCtx [] (op * 2 ^ 250 + 0x3FF * 2 ^ 240) [] [] []

/-- States and operands that meet the hypotheses of Obligations.unit_operations_issue, clause by clause. -/
theorem witness_unit_operations_issue :
    (∃ x ∈ unitCommands, ∃ s s1 : State, ∃ c : CoreIx, ∃ r : RunBlock, ∃ w p : Nat, Issues s c x.2 s1 r w p ∧ issueFault (s1.ctxOf r.fn) r ((s1.core c).newOp r w p) p = none)
    ∧ (∃ x ∈ unitCommands, ∃ s s1 : State, ∃ c : CoreIx, ∃ r : RunBlock, ∃ w p : Nat, Issues s c x.2 s1 r w p ∧ issueFault (s1.ctxOf r.fn) r ((s1.core c).newOp r w p) p = none)
    ∧ (∃ x ∈ unitCommands, ∃ s s1 : State, ∃ c : CoreIx, ∃ r : RunBlock, ∃ w p : Nat, Issues s c x.2 s1 r w p ∧ issueFault (s1.ctxOf r.fn) r ((s1.core c).newOp r w p) p = none)
    ∧ (∃ x ∈ unitCommands, ∃ s s1 : State, ∃ c : CoreIx, ∃ r : RunBlock, ∃ w p : Nat, Issues s c x.2 s1 r w p ∧ issueFault (s1.ctxOf r.fn) r ((s1.core c).newOp r w p) p = none)
    ∧ (∃ x ∈ unitCommands, ∃ s s1 : State, ∃ c : CoreIx, ∃ r : RunBlock, ∃ w p : Nat, Issues s c x.2 s1 r w p ∧ issueFault (s1.ctxOf r.fn) r ((s1.core c).newOp r w p) p = none)
    ∧ (∃ x ∈ unitCommands, ∃ s s1 : State, ∃ c : CoreIx, ∃ r : RunBlock, ∃ w p : Nat, Issues s c x.2 s1 r w p ∧ issueFault (s1.ctxOf r.fn) r ((s1.core c).newOp r w p) p = none)
    ∧ (∃ x ∈ unitCommands, ∃ s s1 : State, ∃ c : CoreIx, ∃ r : RunBlock, ∃ w p : Nat, Issues s c x.2 s1 r w p ∧ issueFault (s1.ctxOf r.fn) r ((s1.core c).newOp r w p) p = none)
    ∧ (∃ x ∈ unitCommands, ∃ s s1 : State, ∃ c : CoreIx, ∃ r : RunBlock, ∃ w p : Nat, Issues s c x.2 s1 r w p ∧ issueFault (s1.ctxOf r.fn) r ((s1.core c).newOp r w p) p = none)
    ∧ (∃ x ∈ unitCommands, ∃ s s1 : State, ∃ c : CoreIx, ∃ r : RunBlock, ∃ w p : Nat, Issues s c x.2 s1 r w p ∧ issueFault (s1.ctxOf r.fn) r ((s1.core c).newOp r w p) p = none)
    ∧ (∃ x ∈ unitCommands, ∃ s s1 : State, ∃ c : CoreIx, ∃ r : RunBlock, ∃ w p : Nat, Issues s c x.2 s1 r w p ∧ issueFault (s1.ctxOf r.fn) r ((s1.core c).newOp r w p) p = none)
    ∧ (∃ x ∈ unitCommands, ∃ s s1 : State, ∃ c : CoreIx, ∃ r : RunBlock, ∃ w p : Nat, Issues s c x.2 s1 r w p ∧ r.busy ((s1.core c).newOp r w p) p = true)
    ∧ (∃ x ∈ unitCommands, ∃ s s1 : State, ∃ c : CoreIx, ∃ r : RunBlock, ∃ w p : Nat, ∃ e : Ending, Issues s c x.2 s1 r w p ∧ issueFault (s1.ctxOf r.fn) r ((s1.core c).newOp r w p) p = some e)
    ∧ (∃ s s1 : State, ∃ c : CoreIx, ∃ r : RunBlock, ∃ w p : Nat, Issues s c 0x22 s1 r w p ∧ r.busy ((s1.core c).newOp r w p) p = false ∧ (s1.ctxOf r.fn).caddySlots.getLsbD ((parseSlot w).op 0 % 4) = true) :=
  ⟨⟨(.product, 1), by decide, un 1 prec, ptS (un 1 prec) 0 1, 0, ptR (un 1 prec) 0 1, ptW (un 1 prec) 0 1, 0, issues_of_point (by decide +kernel), by decide +kernel⟩,
    ⟨(.rotateStore, 8), by decide, un 8 prec, ptS (un 8 prec) 0 8, 0, ptR (un 8 prec) 0 8, ptW (un 8 prec) 0 8, 0, issues_of_point (by decide +kernel), by decide +kernel⟩,
    ⟨(.convert, 16), by decide, un 16 crec, ptS (un 16 crec) 0 16, 0, ptR (un 16 crec) 0 16, ptW (un 16 crec) 0 16, 0, issues_of_point (by decide +kernel), by decide +kernel⟩,
    ⟨(.elemwise, 17), by decide, un 17 vrec, ptS (un 17 vrec) 0 17, 0, ptR (un 17 vrec) 0 17, ptW (un 17 vrec) 0 17, 0, issues_of_point (by decide +kernel), by decide +kernel⟩,
    ⟨(.format, 0x12), by decide, un 0x12 vrec, ptS (un 0x12 vrec) 0 0x12, 0, ptR (un 0x12 vrec) 0 0x12, ptW (un 0x12 vrec) 0 0x12, 0, issues_of_point (by decide +kernel), by decide +kernel⟩,
    ⟨(.reduce, 0x13), by decide, un 0x13 vrec, ptS (un 0x13 vrec) 0 0x13, 0, ptR (un 0x13 vrec) 0 0x13, ptW (un 0x13 vrec) 0 0x13, 0, issues_of_point (by decide +kernel), by decide +kernel⟩,
    ⟨(.rowstat, 0x14), by decide, un 0x14 vrec, ptS (un 0x14 vrec) 0 0x14, 0, ptR (un 0x14 vrec) 0 0x14, ptW (un 0x14 vrec) 0 0x14, 0, issues_of_point (by decide +kernel), by decide +kernel⟩,
    ⟨(.window, 0x15), by decide, un 0x15 vrec, ptS (un 0x15 vrec) 0 0x15, 0, ptR (un 0x15 vrec) 0 0x15, ptW (un 0x15 vrec) 0 0x15, 0, issues_of_point (by decide +kernel), by decide +kernel⟩,
    ⟨(.func, 0x20), by decide, un 0x20 vrec, ptS (un 0x20 vrec) 0 0x20, 0, ptR (un 0x20 vrec) 0 0x20, ptW (un 0x20 vrec) 0 0x20, 0, issues_of_point (by decide +kernel), by decide +kernel⟩,
    ⟨(.lookup, 0x21), by decide, un 0x21 vrec, ptS (un 0x21 vrec) 0 0x21, 0, ptR (un 0x21 vrec) 0 0x21, ptW (un 0x21 vrec) 0 0x21, 0, issues_of_point (by decide +kernel), by decide +kernel⟩,
    ⟨(.reduce, 0x13), by decide, bsy, ptS bsy 0 0x13, 0, ptR bsy 0 0x13, ptW bsy 0 0x13, 0, issues_of_point (by decide +kernel), by decide +kernel⟩,
    ⟨(.reduce, 0x13), by decide, nop, ptS nop 0 0x13, 0, ptR nop 0 0x13, ptW nop 0 0x13, 0, (ft nop 0x13).getD {}, issues_of_point (by decide +kernel), by decide +kernel⟩,
    ⟨un 0x22 [], ptS (un 0x22 []) 0 0x22, 0, ptR (un 0x22 []) 0 0x22, ptW (un 0x22 []) 0 0x22, 0, issues_of_point (by decide +kernel), by decide +kernel⟩⟩

/-- States and operands that meet the hypotheses of Obligations.iterations_read_compute_and_write, clause by clause. -/
theorem witness_iterations_read_compute_and_write :
    (∃ s : State, ∃ c p : Nat, ∃ r : RunBlock, ∃ op : Nat, ∃ o : UnitOp, r.ops[op]? = some o ∧ (o.ctx r.image).masked o.next = false ∧ s.readError c (o.ctx r.image) o.next = none)
    ∧ (∃ s : State, ∃ c : Nat, ∃ r : RunBlock, ∃ op pend : Nat, ∃ o : UnitOp, ∃ q : Pending, r.ops[op]? = some o ∧ o.flight[pend]? = some q ∧ (s.core c).mover.descs = [])
    ∧ (∃ s : State, ∃ c : CoreIx, ∃ r : RunBlock, ∃ p q : Nat, ∃ op pend : Nat, Clocked s ∧ (s.core c).run = some r ∧ r.slip = none ∧ r.ending = none ∧ leastDue r.dues = some (q, .commit op pend) ∧ r.nextCommit = some p ∧ r.limit p = p)
    ∧ (∃ s : State, ∃ c : CoreIx, ∃ r r1 : RunBlock, Clocked s ∧ (s.core c).run = some r ∧ r.slip = none ∧ r.ending = none ∧ r.stopAt.isSome = true ∧ r.slots = [] ∧ r.nextBundle = none ∧ ((s.advance c (max r.lastIssue r.lastResult + 1)).core c).run = some r1 ∧ r1.slip = none ∧ r1.ending = none)
    ∧ (∃ s : State, ∃ c p : Nat, ∃ r : RunBlock, ∃ op : Nat, ∃ o : UnitOp, r.ops[op]? = some o ∧ (o.ctx r.image).masked o.next = true) :=
  ⟨⟨rn, 0, 0, rnr, 0, rno, by decide +kernel⟩,
    ⟨rn2, 0, rn2r, 0, 0, rn2o, (rn2o.flight[0]?).getD { iter := 0, first := 0, last := 0, writes := [] }, by decide +kernel⟩,
    ⟨rn3, 0, rn3r, rn3r.nextCommit.getD 0, ((leastDue rn3r.dues).map (·.1)).getD 0, 0, 0, by decide +kernel⟩,
    ⟨rn4, 0, rn4r, ((((rn4.advance 0 1).core 0).run).getD rn4r), by decide +kernel⟩,
    ⟨msk, 0, 0, ((msk.core 0).run.getD (block [])), 0, mo, by decide +kernel⟩⟩

/-- States and operands that meet the hypotheses of Obligations.iterations_read_compute_and_write (its part on a result write changes only its place), clause by clause. -/
theorem witness_a_result_write_changes_only_its_place :
    (∃ x : CoresState, ∃ c a : Nat, ∃ d : List Byte, twf 0 x.spad = true)
    ∧ (∃ x : CoresState, ∃ c lane e : Nat, ∃ v : W32, twf 0 x.acc = true ∧ lane < 128 ∧ e < 2048) :=
  ⟨⟨{}, 3, 4194300, [1,2,3,4], by decide +kernel⟩,
    ⟨{}, 3, 127, 2047, 5, by decide +kernel⟩⟩

/-- States and operands that meet the hypotheses of Obligations.unit_operations_compute, clause by clause. -/
theorem witness_unit_operations_compute :
    (∃ v : View, ∃ a w n j : Nat, v.open_ = [] ∧ 0 < w ∧ j < n)
    ∧ (∃ v : View, ∃ a n j : Nat, v.open_ = [] ∧ j < n)
    ∧ (∃ p : Pair, ∃ r : ProductRec, ∃ v : View, ∃ a : ProductAt, ∃ i j nsc start : Nat, ∃ x w : Vec, (nsc = (match p.scaleLen with | some n => ceilDiv r.k n | none => 0)) ∧ (x = mkVec p ((List.range r.k).map (fun k => (xElem p r ((v.row (a.x + i * (r.k * p.xBits / 8)) p.xBits r.k).getD k 0)).1)) ((v.bytes (a.sx + i * nsc) nsc).map (·.toNat))) ∧ (w = mkVec p ((List.range r.k).map (fun k => (wElem p r ((v.row (a.w + j / 128 * (r.k * 128 * p.wBits / 8) + k * (128 * p.wBits / 8)) p.wBits 128).getD (j % 128) 0)).1)) ((v.bytes (a.sw + j * nsc) nsc).map (·.toNat))) ∧ (start = (if a.zero = true ∧ r.keep = false then 0 else v.entry (j % 128) (a.d + j / 128 * r.m + i))) ∧ a.empty = false ∧ r.inline = false ∧ i < r.m ∧ j < r.n)
    ∧ (∃ p : Pair, ∃ g n : Nat, ∃ x w : Vec, p.scaleLen = some n ∧ p ≠ .mxfp4)
    ∧ (∃ p : Pair, ∃ g : Nat, ∃ x w : Vec, p.scaleLen = none)
    ∧ (∃ r : ProductRec, ∃ v : View, ∃ i j n : Nat, (n = (if r.corrFp8 then 16 else 8)) ∧ i < r.m ∧ j < r.n)
    ∧ (∃ t : NarrowFmt, ∃ l : List FpVal, (amaxOf l).1 = 0)
    ∧ (∃ t : NarrowFmt, ∃ l : List FpVal, (amaxOf l).1 ≠ 0)
    ∧ (∃ l : List FpVal, ∃ s : Bool, ∃ m : Nat, ∃ e : Int, FpVal.fin s m e ∈ l)
    ∧ (∃ seed b i : Nat, ∃ l : List Nat, i < l.length)
    ∧ (∃ d n b i : Nat, ∃ l : List Nat, 0 < d ∧ l.length = 2 * d * n ∧ b < n ∧ i < d)
    ∧ (∃ k seed b n q i : Nat, ∃ tr : Bool, ∃ f : Fmt, ∃ codes : List Nat, k ≠ 0 ∧ codes.length = 2 ^ k * n ∧ q < n ∧ i < 2 ^ k)
    ∧ (∃ r : ProductRec, ∃ v : View, ∃ src dst sv copy coord i bits : Nat, ∃ f : Fmt, ∃ row : List Nat, f = (srcFmt? r.srcFmt).getD bf16 ∧ row = rotateRow r.rotK r.seed r.transpose coord f (v.row (src + i * (r.k * f.width / 8)) f.width r.k) ∧ (bits = (if r.pair = 4 then 8 else 4)) ∧ i < r.m)
    ∧ (∃ r : ProductRec, ∃ t : NarrowFmt, ∃ st row : List Nat, ∃ j : Nat, r.rotTarget = .narrow t ∧ j < row.length ∧ ((r.stored = true → ceilDiv row.length 128 ≤ st.length)))
    ∧ (∃ r : ProductRec, ∃ f : Fmt, ∃ st row : List Nat, r.rotTarget = .wide f)
    ∧ (∃ r : ConvRec, ∃ f : Fmt, ∃ v : View, ∃ src dst sv row col i : Nat, ∃ pad : Nat → BitVec 4, i < r.rows)
    ∧ (∃ r : ConvRec, ∃ t : NarrowFmt, ∃ v : View, ∃ src dst sv row col i nseg : Nat, ∃ ps : List FpVal, ∃ sc : List Nat, ∃ pad : Nat → BitVec 4, nseg = ceilDiv r.cols 128 ∧ (ps = (List.range r.cols).map (fun j => (f32 (v.entry (j % 128) (src + j / 128 * r.rows + i))).mul (f32 r.outScale))) ∧ (sc = (if r.stored then (v.bytes (sv + i * nseg) nseg).map (·.toNat) else (List.range nseg).map (fun q => dynamicScale t ((ps.drop (128 * q)).take 128)))) ∧ i < r.rows)
    ∧ (∃ r : VecRec, ∃ u : VecUse, ∃ v : View, ∃ at_ : VecAt, ∃ sel : Option (Nat → Nat → Bool), ∃ i : Nat, ∃ a b x : Nat → Nat, ((∀ j < r.cols, a j = widen r.fmtA ((v.row (at_.a + i * r.pitchA) (8 * vecBytes r.fmtA) r.cols).getD j 0))) ∧ ((∀ j < r.cols, b j = (match r.bMode with | 0 => widen r.fmtB ((v.row (at_.b + i * r.pitchB) (8 * vecBytes r.fmtB) r.cols).getD j 0) | 1 => widen r.fmtB ((v.row (at_.b + i * vecBytes r.fmtB) (8 * vecBytes r.fmtB) 1).getD 0 0) | 2 => widen r.fmtB ((v.row at_.b (8 * vecBytes r.fmtB) r.cols).getD j 0) | _ => r.imm))) ∧ ((∀ j < r.cols, x j = (match sel with | some f => if f i j then fone else 0 | none => if u.x then widen r.fmtX ((v.row (at_.x + i * r.pitchX) (8 * vecBytes r.fmtX) r.cols).getD j 0) else 0))) ∧ i < r.rows ∧ u.b = true)
    ∧ (∃ r : VecRec, ∃ v : View, ∃ at_ : VecAt, ∃ i : Nat, i < r.rows)
    ∧ (∃ r : VecRec, ∃ v : View, ∃ at_ : VecAt, ∃ i : Nat, ∃ l : List Nat, l = (v.row (at_.a + i * r.pitchA) (8 * vecBytes r.fmtA) r.cols).map (widen r.fmtA) ∧ i < r.rows)
    ∧ (∃ s : RowState, ∃ z : List Nat, ∃ m : Nat, m = z.foldl fmax s.max)
    ∧ (∃ s : RowState, ∃ x : List Nat, ∃ n mb d w : Nat, n = s.count + x.length ∧ mb = fdiv (treeSum x) (fofNat x.length) ∧ d = fsub mb s.mean ∧ w = fdiv (fofNat x.length) (fofNat n))
    ∧ (∃ s b : RowState, ∃ n m d w : Nat, n = s.count + b.count ∧ m = fmax s.max b.max ∧ d = fsub b.mean s.mean ∧ w = fdiv (fofNat b.count) (fofNat n) ∧ b.count ≠ 0)
    ∧ (∃ s : RowState, ∃ imm : Nat, ∃ x g : List Nat, ∃ j : Nat, j < x.length ∧ j < g.length)
    ∧ (∃ r : VecRec, ∃ v : View, ∃ at_ : VecAt, ∃ i : Nat, ∃ s b : RowState, ∃ x g : List Nat, s = parseRowState (v.bytes (at_.x + 32 * i) 32) ∧ b = parseRowState (v.bytes (at_.b + 32 * i) 32) ∧ x = (v.row (at_.a + i * r.pitchA) (8 * vecBytes r.fmtA) r.cols).map (widen r.fmtA) ∧ (g = (match r.bMode with | 0 => (v.row (at_.b + i * r.pitchB) (8 * vecBytes r.fmtB) r.cols).map (widen r.fmtB) | 1 => List.replicate r.cols (((v.row (at_.b + i * vecBytes r.fmtB) (8 * vecBytes r.fmtB) 1).map (widen r.fmtB)).headD 0) | 2 => (v.row at_.b (8 * vecBytes r.fmtB) r.cols).map (widen r.fmtB) | _ => List.replicate r.cols r.imm2)) ∧ i < r.rows)
    ∧ (∃ r : VecRec, ∃ v : View, ∃ at_ : VecAt, ∃ p : Nat, ∃ w : WinWord, ∃ tap : Nat → Nat → Nat × Nat → Option Nat, ∃ out : Nat → Nat → Nat, w = parseWin r.window ∧ ((∀ q c t, tap q c t = (if w.padT ≤ p * w.strideH + t.1 ∧ p * w.strideH + t.1 < r.inH + w.padT ∧ w.padL ≤ q * w.strideW + t.2 ∧ q * w.strideW + t.2 < r.inW + w.padL then some (widen r.fmtA ((v.row (at_.a + (p * w.strideH + t.1 - w.padT) * r.pitchA) (8 * vecBytes r.fmtA) (r.inW * r.channels)).getD ((q * w.strideW + t.2 - w.padL) * r.channels + c) 0)) else none))) ∧ ((∀ q c, q < r.cols / r.channels → c < r.channels → out q c = (if r.subop = 0 then ((List.range w.kh).flatMap (fun u => (List.range w.kw).map (fun y => (u, y)))).foldl (fun acc t => match tap q (c / 2 ^ r.group * 2 ^ r.group + r.pass) t with | some x => ffma x (((v.row at_.b (8 * vecBytes r.fmtB) (w.kh * w.kw * r.channels)).map (widen r.fmtB)).getD ((t.1 * w.kw + t.2) * r.channels + c) 0) acc | none => acc) (if w.acc = 0 then 0 else if w.acc = 1 then ((v.row (at_.d + p * r.pitchD) (8 * vecBytes r.fmtD) r.cols).map (widen r.fmtD)).getD (q * r.channels + c) 0 else ((v.row at_.x (8 * vecBytes r.fmtX) r.channels).map (widen r.fmtX)).getD c 0) else if r.subop = 1 then (((List.range w.kh).flatMap (fun u => (List.range w.kw).map (fun y => (u, y)))).filterMap (tap q c)).tail.foldl fmax ((((List.range w.kh).flatMap (fun u => (List.range w.kw).map (fun y => (u, y)))).filterMap (tap q c)).headD 0) else fdiv ((((List.range w.kh).flatMap (fun u => (List.range w.kw).map (fun y => (u, y)))).filterMap (tap q c)).foldl fadd 0) (fofNat (if w.avgDiv then w.kh * w.kw else (((List.range w.kh).flatMap (fun u => (List.range w.kw).map (fun y => (u, y)))).filterMap (tap q c)).length))))) ∧ p < r.rows ∧ r.subop ≤ 2 ∧ w.acc ≤ 2)
    ∧ (∃ r : FuncRec, ∃ f : Nat → Nat, ∃ v : View, ∃ src dst i : Nat, i < r.rows)
    ∧ (∃ t : Caddy, ∃ x : Nat, (f32 x).isNan = true)
    ∧ (∃ t : Caddy, ∃ x : Nat, t.exponent = false ∧ (f32 x).isNan = false)
    ∧ (∃ t : Caddy, ∃ x : Nat, t.exponent = true ∧ (f32 x).isNan = false)
    ∧ (∃ u : UnitCtx, ∃ v : View, ∃ t : Nat, u.w.opcode = 0x20)
    ∧ (∃ u : UnitCtx, ∃ v : View, ∃ t : Nat, u.w.opcode = 0x21)
    ∧ (∃ u : UnitCtx, ∃ v : View, ∃ t : Nat, ∃ at_ : VecAt, at_ = { a := (u.spad 0 t).toNat, b := (u.spad 1 t).toNat, d := (u.spad 2 t).toNat, x := (u.spad 3 t).toNat })
    ∧ (∃ u : UnitCtx, ∃ v : View, ∃ t : Nat, u.w.opcode = 0x08)
    ∧ (∃ u : UnitCtx, ∃ v : View, ∃ t : Nat, u.w.opcode = 0x01)
    ∧ (∃ u : UnitCtx, ∃ v : View, ∃ t : Nat, u.w.opcode = 0x10) :=
  ⟨⟨vw, 3, 2, 2, 1, by decide +kernel⟩,
    ⟨vw, 3, 5, 3, by decide +kernel⟩,
    ⟨.fp4, pr, vw, pa, 0, 1, _, _, _, _, rfl, rfl, rfl, rfl, by decide +kernel⟩,
    ⟨.fp4, 0, 128, xv, wv, by decide +kernel⟩,
    ⟨.fp8, 0, xv, wv, by decide +kernel⟩,
    ⟨prc, vw, 0, 0, _, rfl, by decide +kernel⟩,
    ⟨.fp4, [], by decide +kernel⟩,
    ⟨.fp4, [FpVal.ofInt 3 0], by decide +kernel⟩,
    ⟨[FpVal.ofInt 3 0, FpVal.ofInt (-7) 1], true, 7, 1, by decide +kernel⟩,
    ⟨5, 6, 1, [0x3F800000, 0x40000000], by decide +kernel⟩,
    ⟨1, 2, 1, 0, [0x3F800000, 0x40000000, 0x3F800000, 0], by decide +kernel⟩,
    ⟨1, 5, 0, 2, 1, 0, false, bf16, [1, 2, 3, 4], by decide +kernel⟩,
    ⟨rr0, vw, 0, 0x1000, 0x2000, 0x3000, 0, 0, _, _, _, rfl, rfl, rfl, by decide +kernel⟩,
    ⟨rr0, .fp4, [], [0x3F800000, 0x40000000], 1, by decide +kernel⟩,
    ⟨{ rr0 with pair := 4 }, e4m3, [], [0x3F800000], by decide +kernel⟩,
    ⟨cr, bf16, vw, 0, 0, 0, 0, 0, 0, (fun _ => 0), by decide +kernel⟩,
    ⟨cr, .fp4, vw, 0, 0, 0, 0, 0, 0, _, _, _, (fun _ => 0), rfl, rfl, rfl, by decide +kernel⟩,
    ⟨vr, { b := true }, vw, va, none, 0, _, _, _, fun _ _ => rfl, fun _ _ => rfl, fun _ _ => rfl, by decide +kernel⟩,
    ⟨vr, vw, va, 0, by decide +kernel⟩,
    ⟨vr, vw, va, 0, _, rfl, by decide +kernel⟩,
    ⟨{}, [0x3F800000], _, rfl⟩,
    ⟨{}, [0x3F800000], _, _, _, _, rfl, rfl, rfl, rfl⟩,
    ⟨{}, { max := 0x3F800000, count := 2 }, _, _, _, _, rfl, rfl, rfl, rfl, by decide +kernel⟩,
    ⟨{}, 0, [1], [2], 0, by decide +kernel⟩,
    ⟨vr, vw, va, 0, _, _, _, _, rfl, rfl, rfl, rfl, by decide +kernel⟩,
    ⟨wr, vw, va, 0, _, _, _, rfl, fun _ _ _ => rfl, fun _ _ _ _ => rfl, by decide +kernel⟩,
    ⟨fr, builtin 0, vw, 0, 64, 0, by decide +kernel⟩,
    ⟨cd, fnan, by decide +kernel⟩,
    ⟨cd, 0x3F800000, by decide +kernel⟩,
    ⟨{ cd with exponent := true }, 0x3F800000, by decide +kernel⟩,
    ⟨uc 0x20, vw, 0, by decide +kernel⟩,
    ⟨uc 0x21, vw, 0, by decide +kernel⟩,
    ⟨uc 0x13, vw, 0, _, rfl⟩,
    ⟨uc 0x08, vw, 0, by decide +kernel⟩,
    ⟨uc 0x01, vw, 0, by decide +kernel⟩,
    ⟨uc 0x10, vw, 0, by decide +kernel⟩⟩

/-- States and operands that meet the hypotheses of Obligations.unit_operations_issue (its part on a swap exchanges only a pending shadow), clause by clause. -/
theorem witness_a_swap_exchanges_only_a_pending_shadow :
    (∃ b : CaddySlot, b.shadowState = .pending)
    ∧ (∃ b : CaddySlot, b.shadowState ≠ .pending) :=
  ⟨⟨{ active := [1], shadow := [2], shadowState := .pending }, by decide +kernel⟩,
    ⟨{ active := [1], shadow := [2], shadowState := .stale }, by decide +kernel⟩⟩

end W05

namespace W06

set_option maxRecDepth 100000
set_option linter.unusedVariables false

def mv (store : Bool) : State := { running (image [] 1 [word (if store then 0x29 else 0x28) 0 (if store then [0, 0x1000, 0x200010000] else [0x1000, 0, 0x200010000])] []) with share := { owners := [(1, some { fn := 0, core := 0 })] } }
def mvD (store : Bool) : MDesc := { id := 0, isStore := store, block := 1, fn := 0, phys := true, issueSlot := 0, grains := [{ virt := 0x100000, phys := 0x100000, slot := some 65, floor := 16 }] }
def mfull (store : Bool) : State := (mv store).modCore 0 (fun k => { k with mover := { descs := List.replicate 64 (mvD store) } })
def mbad : State := (mv true).setCtx 0 { ctx0 with spadBanks := 2 }
def w0 := ptW (mv false) 0 0x28
def s0 := ptS (mv false) 0 0x28
def r0 := ptR (mv false) 0 0x28
def o0 := (s0.core 0).moverOp r0 w0 0
def d0 := (s0.newDesc 0 r0 (o0.ctx r0.image) (parseMover (parseSlot w0)) false 0 (moveIters (o0.ctx r0.image) (parseMover (parseSlot w0)) false 0))
def fl : State := (mapped (base.setCtx 0 ctx0) 0x100000 (List.replicate 256 7)).modCore 0 (fun k => { k with mover := { descs := [mvD false], nextId := 1 } })
def fl1 : State := ((fl.upTo (slotTime 65)).settleDest 0 0).chargeAll
def st : State := (mapped (base.setCtx 0 ctx0) 0x100000 (List.replicate 256 7)).modCore 0 (fun k => { k with mover := { descs := [mvD true], nextId := 1 } })
def st1 : State := (st.upTo (slotTime 65)).settle 0 (max st.now (slotTime 65))
def wd : MDesc := { mvD false with phys := false, grains := [{ virt := 0x100000, walking := true, floor := 16 }] }
def wk : State := (mapped (base.setCtx 0 ctx0) 0x100000 (List.replicate 256 7)).modCore 0 (fun k => { k with mover := { descs := [wd], nextId := 1 } })
def wf : State := { wk with mem := {} }
def flu : State := { fl with mem := { fl.mem with ue := [0x1000] } }
def flu1 : State := ((flu.upTo (slotTime 65)).settleDest 0 0).chargeAll
def sm (o : Nat) : MemState := { (mapped {} 0x20000 []).mem with extents := [(0, {})], seals := [(2, { valid := true, owner := BitVec.ofNat 4 o, base := 2, limit := 3 })], sealKeys := [(o, some 5)] }

/-- States and operands that meet the hypotheses of Obligations.mover_operations_issue, clause by clause. -/
theorem witness_mover_operations_issue :
    (∃ store : Bool, ∃ s s1 : State, ∃ c : CoreIx, ∃ r : RunBlock, ∃ w p : Nat, (Issues s c (if store then 0x29 else 0x28) s1 r w p))
    ∧ (∃ store : Bool, ∃ s s1 : State, ∃ c : CoreIx, ∃ r : RunBlock, ∃ w p : Nat, (Issues s c (if store then 0x29 else 0x28) s1 r w p))
    ∧ (∃ store : Bool, ∃ s s1 : State, ∃ c : CoreIx, ∃ r : RunBlock, ∃ w p : Nat, (Issues s c (if store then 0x29 else 0x28) s1 r w p))
    ∧ (∃ store : Bool, ∃ s s1 : State, ∃ c : CoreIx, ∃ r : RunBlock, ∃ w p : Nat, (Issues s c (if store then 0x29 else 0x28) s1 r w p) ∧ ((s1.core c).mover.full store = false ∧ (moverFault (s1.ctxOf r.fn) s1 c r ((s1.core c).moverOp r w p) (((s1.core c).moverOp r w p).ctx r.image) (parseMover (parseSlot w)) p (moveIters (((s1.core c).moverOp r w p).ctx r.image) (parseMover (parseSlot w)) store (((parseMover (parseSlot w)).baseReg.map (fun b => ((s1.core c).sreg b).toNat)).getD 0))).isNone = true ∧ (s1.newDesc c r (((s1.core c).moverOp r w p).ctx r.image) (parseMover (parseSlot w)) store p (moveIters (((s1.core c).moverOp r w p).ctx r.image) (parseMover (parseSlot w)) store (((parseMover (parseSlot w)).baseReg.map (fun b => ((s1.core c).sreg b).toNat)).getD 0))).2.isNone = true))
    ∧ (∃ store : Bool, ∃ s s1 : State, ∃ c : CoreIx, ∃ r : RunBlock, ∃ w p : Nat, (Issues s c (if store then 0x29 else 0x28) s1 r w p) ∧ ((s1.core c).mover.full store = false ∧ (moverFault (s1.ctxOf r.fn) s1 c r ((s1.core c).moverOp r w p) (((s1.core c).moverOp r w p).ctx r.image) (parseMover (parseSlot w)) p (moveIters (((s1.core c).moverOp r w p).ctx r.image) (parseMover (parseSlot w)) store (((parseMover (parseSlot w)).baseReg.map (fun b => ((s1.core c).sreg b).toNat)).getD 0))).isNone = true ∧ (s1.newDesc c r (((s1.core c).moverOp r w p).ctx r.image) (parseMover (parseSlot w)) store p (moveIters (((s1.core c).moverOp r w p).ctx r.image) (parseMover (parseSlot w)) store (((parseMover (parseSlot w)).baseReg.map (fun b => ((s1.core c).sreg b).toNat)).getD 0))).2.isNone = true))
    ∧ (∃ store : Bool, ∃ s s1 : State, ∃ c : CoreIx, ∃ r : RunBlock, ∃ w p : Nat, (Issues s c (if store then 0x29 else 0x28) s1 r w p) ∧ (s1.core c).mover.full store = true) :=
  ⟨⟨false, mv false, ptS (mv false) 0 0x28, 0, ptR (mv false) 0 0x28, ptW (mv false) 0 0x28, 0, issues_of_point (by decide +kernel)⟩,
    ⟨true, mv true, ptS (mv true) 0 0x29, 0, ptR (mv true) 0 0x29, ptW (mv true) 0 0x29, 0, issues_of_point (by decide +kernel)⟩,
    ⟨true, mfull true, ptS (mfull true) 0 0x29, 0, ptR (mfull true) 0 0x29, ptW (mfull true) 0 0x29, 0, issues_of_point (by decide +kernel)⟩,
    ⟨false, mv false, ptS (mv false) 0 0x28, 0, ptR (mv false) 0 0x28, ptW (mv false) 0 0x28, 0, issues_of_point (by decide +kernel), by decide +kernel⟩,
    ⟨true, mv true, ptS (mv true) 0 0x29, 0, ptR (mv true) 0 0x29, ptW (mv true) 0 0x29, 0, issues_of_point (by decide +kernel), by decide +kernel⟩,
    ⟨true, mfull true, ptS (mfull true) 0 0x29, 0, ptR (mfull true) 0 0x29, ptW (mfull true) 0 0x29, 0, issues_of_point (by decide +kernel), by decide +kernel⟩⟩

/-- States and operands that meet the hypotheses of Obligations.grains_land_and_become_visible, clause by clause. -/
theorem witness_grains_land_and_become_visible :
    (∃ s s1 s2 : State, ∃ c : CoreIx, ∃ d g : Nat, ∃ o : GrainErrors, ∃ desc : MDesc, ∃ gr : MGrain, ∃ data : List Byte, Clocked s ∧ s.desc c d = some desc ∧ desc.isStore = false ∧ desc.grains[g]? = some gr ∧ gr.kind = .plain ∧ gr.st = .waiting ∧ gr.walking = false ∧ gr.slot.isSome = true ∧ s1 = ((s.upTo (slotTime (gr.slot.getD 0))).settleDest c gr.mask).chargeAll ∧ ((s1.desc c desc.id).bind (fun e => (e.grains[g]?).map (fun x => x.st)) = some .waiting) ∧ s1.deliverGrain (s1.fetchLinks (dieOfCore c) gr.phys) gr.phys o = (s2, some data))
    ∧ (∃ s : State, ∃ links : List Nat, ∃ a : Nat, s.mem.ue.contains (a / 256) = false)
    ∧ (∃ s s1 : State, ∃ c : CoreIx, ∃ d g : Nat, ∃ desc : MDesc, ∃ gr gr1 : MGrain, Clocked s ∧ s.desc c d = some desc ∧ desc.grains[g]? = some gr ∧ gr.moves = true ∧ s1 = (s.upTo (slotTime (gr.slot.getD 0))).settle c (max s.now (slotTime (gr.slot.getD 0))) ∧ ((∃ x : MDesc, s1.desc c d = some x ∧ x.isStore = true ∧ x.grains[g]? = some gr1)) ∧ gr1.st = .read ∧ s1.svc.transit = [] ∧ s1.svc.ueHub = [])
    ∧ (∃ s s1 : State, ∃ c : CoreIx, ∃ d g phys : Nat, ∃ desc : MDesc, ∃ gr : MGrain, ((∀ a, walk s1.mem (s1.pages.asker desc.fn true desc.isStore) gr.virt ≠ .bad a)) ∧ Clocked s ∧ s1 = (s.settle c s.now).chargeAll ∧ s1.desc c d = some desc ∧ desc.grains[g]? = some gr ∧ gr.walking = true ∧ gr.st = .waiting ∧ locateXl s1.mem desc.fn desc.coded gr.virt (walk s1.mem (s1.pages.asker desc.fn true desc.isStore) gr.virt) = .at_ phys)
    ∧ (∃ s s1 : State, ∃ c : CoreIx, ∃ d g : Nat, ∃ desc : MDesc, ∃ gr : MGrain, ∃ e : Ending, ((∀ a, walk s1.mem (s1.pages.asker desc.fn true desc.isStore) gr.virt ≠ .bad a)) ∧ Clocked s ∧ s1 = (s.settle c s.now).chargeAll ∧ s1.desc c d = some desc ∧ desc.grains[g]? = some gr ∧ gr.walking = true ∧ gr.st = .waiting ∧ locateXl s1.mem desc.fn desc.coded gr.virt (walk s1.mem (s1.pages.asker desc.fn true desc.isStore) gr.virt) = .bad e)
    ∧ (∃ s s1 s2 : State, ∃ c : CoreIx, ∃ d g : Nat, ∃ o : GrainErrors, ∃ desc : MDesc, ∃ gr : MGrain, Clocked s ∧ (s.core c).run = none ∧ s.desc c d = some desc ∧ desc.isStore = false ∧ desc.grains[g]? = some gr ∧ gr.kind = .plain ∧ gr.st = .waiting ∧ gr.walking = false ∧ gr.slot.isSome = true ∧ s1 = ((s.upTo (slotTime (gr.slot.getD 0))).settleDest c gr.mask).chargeAll ∧ ((s1.desc c desc.id).bind (fun e => (e.grains[g]?).map (fun x => x.st)) = some .waiting) ∧ s1.deliverGrain (s1.fetchLinks (dieOfCore c) gr.phys) gr.phys o = (s2, none)) :=
  ⟨⟨fl, fl1, (fl1.deliverGrain (fl1.fetchLinks 0 0x100000) 0x100000 {}).1, 0, 0, 0, {}, mvD false, ((mvD false).grains[0]?).getD { virt := 0 }, ((fl1.deliverGrain (fl1.fetchLinks 0 0x100000) 0x100000 {}).2.getD []), by decide +kernel⟩,
    ⟨fl, [1], 0x100000, by decide +kernel⟩,
    ⟨st, st1, 0, 0, 0, mvD true, ((mvD true).grains[0]?).getD { virt := 0 }, (((st1.desc 0 0).bind (fun x => x.grains[0]?)).getD { virt := 0 }), by decide +kernel⟩,
    ⟨wk, (wk.settle 0 wk.now).chargeAll, 0, 0, 0, 0x100000, wd, (wd.grains[0]?).getD { virt := 0 }, ne_bad (by decide +kernel), by decide +kernel⟩,
    ⟨wf, (wf.settle 0 wf.now).chargeAll, 0, 0, 0, wd, (wd.grains[0]?).getD { virt := 0 }, memEnding stTranslation rsnNotMapped 0x100000 0, ne_bad (by decide +kernel), by decide +kernel⟩,
    ⟨flu, flu1, (flu1.deliverGrain (flu1.fetchLinks 0 0x100000) 0x100000 {}).1, 0, 0, 0, {}, mvD false, ((mvD false).grains[0]?).getD { virt := 0 }, by decide +kernel⟩⟩

/-- States and operands that meet the hypotheses of Obligations.memory_reads_what_was_written, clause by clause. -/
theorem witness_memory_reads_what_was_written :
    (∃ m : MemState, ∃ a : Nat, ∃ bs : List Byte, m.seals = [] ∧ m.ue = [] ∧ twf 0 m.cells = true)
    ∧ (∃ m : MemState, ∃ lo hi : Nat, twf 0 m.cells = true) :=
  ⟨⟨{}, 5, [1,0,3], by decide +kernel⟩,
    ⟨{ cells := [(3, 1), (5, 2)] }, 4, 6, by decide +kernel⟩⟩

/-- States and operands that meet the hypotheses of Obligations.memory_reads_what_was_written (its part on sealed memory is its owners), clause by clause. -/
theorem witness_sealed_memory_is_its_owners :
    (∃ key : BitVec 512, ∃ g : Nat, ∃ d : List Byte, d.length = 256)
    ∧ (∃ m : MemState, ∃ a : Nat, ∃ bs : List Byte, m.ue = [] ∧ twf 0 m.cells = true)
    ∧ (∃ m : MemState, ∃ g i : Nat, ∃ k : BitVec 512, ∃ d : List Byte, twf 0 m.cells = true ∧ d.length = 256 ∧ m.sealOf (256 * g) = some i ∧ tget none m.sealKeys (m.seal i).owner.toNat = some k)
    ∧ (∃ m : MemState, ∃ p : PageState, ∃ f a i : Nat, ∃ phys write : Bool, ∃ x : Nat, reach m p f phys write a = .at_ x ∧ m.sealOf x = some i)
    ∧ (∃ m : MemState, ∃ p : PageState, ∃ f a i : Nat, ∃ write : Bool, ((∃ e, placeOf a = .fast e ∧ m.live e = true) ∨ (∃ e, placeOf a = .pannier e)) ∧ m.sealOf a = some i ∧ (m.seal i).owner.toNat ≠ f)
    ∧ (∃ m : MemState, ∃ p : PageState, ∃ f a i x : Nat, ∃ w u l : Bool, ∃ write : Bool, walk m (p.asker f false write) a = .ok x w u l ∧ m.sealOf x = some i ∧ (m.seal i).owner.toNat ≠ f)
    ∧ (∃ m : MemState, ∃ p : PageState, ∃ f n : Nat, ∃ phys : Bool, ∃ a : Nat, ∃ e : Args, reach m p f phys false a = .bad e)
    ∧ (∃ m : MemState, ∃ f i x : Nat, ∃ coded : Bool, ∃ va kind : Nat, m.sealOf x = some i)
    ∧ (∃ m : MemState, ∃ f i : Nat, ∃ va : Int, ∃ x : Nat, ∃ w u l : Bool, m.sealOf x = some i ∧ (m.seal i).owner.toNat ≠ f)
    ∧ (∃ s : State, ∃ f a i : Nat, ∃ write : Bool, ∃ x : Nat, s.bar2Place f a write = .ok x ∧ s.mem.sealOf x = some i) :=
  ⟨⟨5, 3, List.replicate 256 9, by decide +kernel⟩,
    ⟨{ cells := [(3, 1), (5, 2)], seals := (sm 3).seals, sealKeys := [(3, some 5)] }, 0x20003, [1, 0, 3], by decide +kernel⟩,
    ⟨{ cells := [(3, 1)], seals := (sm 3).seals, sealKeys := [(3, some 5)] }, 0x200, 2, 5, List.replicate 256 9, by decide +kernel⟩,
    ⟨sm 3, {}, 3, 0x20000, 2, true, true, 0x20000, by decide +kernel⟩,
    ⟨sm 3, {}, 0, 0x20000, 2, false, .inl ⟨0, by decide +kernel⟩, by decide +kernel⟩,
    ⟨sm 3, {}, 0, 0x20000, 2, 0x20000, true, false, true, true, by decide +kernel⟩,
    ⟨sm 3, {}, 0, 16, true, 0x20000, { status := stSealed, detail := 0, address := 0x20000, kind := 1 }, by decide +kernel⟩,
    ⟨sm 3, 3, 2, 0x20000, false, 7, 1, by decide +kernel⟩,
    ⟨sm 3, 0, 2, 0x20000, 0x20000, true, false, true, by decide +kernel⟩,
    ⟨{ base with mem := sm 0 }, 0, 0x20000, 2, true, 0x20000, by decide +kernel⟩⟩

/-- States and operands that meet the hypotheses of Obligations.memory_reads_what_was_written (its part on uncorrectable grains are rewritten whole), clause by clause. -/
theorem witness_uncorrectable_grains_are_rewritten_whole :
    (∃ m : MemState, ∃ g : Nat, ∃ bs : List Byte, m.seals = [] ∧ m.ue = [g] ∧ twf 0 m.cells = true)
    ∧ (∃ m : MemState, ∃ g : Nat, ∃ bs : List Byte, m.seals = [] ∧ m.ue = [g] ∧ twf 0 m.cells = true) :=
  ⟨⟨{ ue := [3] }, 3, List.replicate 256 9, by decide +kernel⟩,
    ⟨{ ue := [3] }, 3, [1], by decide +kernel⟩⟩

end W06

namespace W07

set_option maxRecDepth 100000
set_option linter.unusedVariables false

def ctxReq (g : Nat) (mask : Nat) : List Byte := rec 128 [(0, natLe 4 g), (0x11, [1]), (0x20, natLe 8 1), (0x28, natLe 2 1), (0x30, natLe 4 mask), (0x70, natLe 2 1)]
def cs1 : State := asked base 0 0 0x101 (ctxReq 0 3)
def cs2 : State := asked (base.setCtx 0 ctx0) 0 0 0x101 (ctxReq 1 1)
def cs3 : State := asked (base.setCtx 15 { ctx0 with saves := 4 }) 0 0 0x102 (natLe 4 15)
def cs3b : State := asked (base.setCtx 15 { st := .running }) 0 0 0x102 (natLe 4 15)
def cs4 : State := asked ((base.setCtx 0 ctx0).modCore 0 (fun k => { k with queues := [(0, [{ image := 0x20000 }])] })) 0 0 0x102 (natLe 4 0)
def cs5 : State := { base.setCtx 3 ctx0 with cores := { spad := [(0, 1), (2^23, 2)], acc := [(0, 5)] } }
def cs5' : State := { cs5 with seqs := { cs5.seqs with destroying := [(3, some ⟨{ fn := 0, code := 0x102, tag := 7 }, 0⟩)] }, share := { hubCtr := [(5, 1)] } }
def cs5u : State := match exec (.contextDestroyDone 3) cs5' with | .next t => t | _ => {}
def ss (g w : Nat) : State := asked (running []) 0 0 0x103 (ws [0, g, w])
def sw : State := { base with share := { owners := [(64 * 15 + 63, some ⟨3, 2⟩)], waiting := [{ cluster := 15, group := 63, owner := some ⟨3, 2⟩, waits := [2] }] } }
def swr : State := { running [] with share := { owners := [(1, some ⟨0, 0⟩)], waiting := [{ cluster := 0, group := 1, owner := some ⟨0, 1⟩, waits := [0] }] } }
def pe (s : State) (code g : Nat) : State := asked s 0 0 code (natLe 4 g)
def pe1 : State := pe ((base.setCtx 3 ctx0).modCore 0 (fun k => { k with load := some { fn := 3, chain := chainAt 64 } })) 0x104 3
def pe1u : State := match preemptRow (pe1.ctl.req 0 0) pe1 with | (u, _) => u
def pg0 : State := running (image [] 0x20 [word 0x34 0 [1, 0, 0, 0]] [])
def pg1 : State := pg0.modRun 0 (fun r => { r with slip := some { awaits := [], chargedTo := 0 } })
def pg : State := { pg1.setCtx 0 { ctx0 with st := .preempting } with seqs := { (pg1.setCtx 0 { ctx0 with st := .preempting }).seqs with preempting := [(0, some ⟨{ fn := 0, code := 0x104, tag := 7 }, 0⟩)] } }
def pgu : State := pg.endAt 0 (max pg.now (100 * usTicks)) (blockFault faultPreempted)
def rsd : State := base.setCtx 3 { st := .restoring }
def bp (n : Nat) (s : State) : State := asked s 1 0 0x301 (ws [255, n, 0, 0] ++ (List.range n).flatMap (fun i => rec 96 [(0, natLe 8 (0x1000 + 64 * i))]))
def bs : State := { base.setCtx 1 { coreMask := BitVec.ofNat 256 (2^255) } with host := { base.host with vfsEnabled := 1 } }
def bc : State := asked (bs.modCore 255 (fun k => { k with queues := [(1, List.replicate 29 { image := 0 })] })) 1 0 0x302 (rec 32 [(31, [0x80])])
def cad0 : List Byte := rec 4224 [(0, natLe 4 0xCADD7AB1), (8, [1])]
def cad : List Byte := lay cad0 (4, natLe 4 906715701)
/-- CRC-32C folded with each value forced. -/
def crcForced : List Byte → Nat → Nat
  | [], c => c
  | b :: l, 0 => crcForced l (crcBits 8 (0 ^^^ b.setWidth 32)).toNat
  | b :: l, c + 1 => crcForced l (crcBits 8 (BitVec.ofNat 32 (c + 1) ^^^ b.setWidth 32)).toNat
theorem crcForced_eq (l : List Byte) : ∀ c : BitVec 32, crcForced l c.toNat = (l.foldl (fun c b => crcBits 8 (c ^^^ b.setWidth 32)) c).toNat := by
  induction l with
  | nil => intro c; rfl
  | cons b l ih =>
    intro c
    have h : crcForced (b :: l) c.toNat = crcForced l (crcBits 8 (BitVec.ofNat 32 c.toNat ^^^ b.setWidth 32)).toNat := by
      rcases c.toNat with _ | n <;> rfl
    rw [h, ih]
    simp
theorem cad_crc : crcWithout cad 4 = 906715701 := by
  have h : crcForced (patch cad 4 [0, 0, 0, 0]) (0xFFFFFFFF : BitVec 32).toNat = 906715701 ^^^ 0xFFFFFFFF := by decide +kernel
  rw [crcForced_eq] at h
  unfold crcWithout crc32c
  rw [BitVec.toNat_xor, h]
  decide +kernel
theorem cad_ok : caddyFault cad = none := by
  unfold caddyFault
  rw [cad_crc]
  decide +kernel
def cod0 : List Byte := rec 256 [(0, natLe 4 0xE7C0DE08), (0x80, [1])]
def cod : List Byte := lay cod0 (4, natLe 4 (crcWithout cod0 4))
def cl1 : State := asked (mapped (base.setCtx 0 ctx0) 0x20000 (natLe 4 0xCADD7AB1 ++ natLe 4 906715701 ++ [1])) 0 0 0x501 (ws [0x20000, 0, 3, 0] ++ rec 32 [(0, [1])])
def cll : TableLoad := { fn := 0, slot := 3, image := cad, cores := [0], addEn := false, addCtr := 0, addAmount := 0, cmd := (cl1.ctl.req 0 0).cmd }
def cl4 : State := asked (mapped (running []) 0x20000 cod) 0 0 codeForm.code (ws [0x20000, 0, 3, 0])

/-- States and operands that meet the hypotheses of Obligations.contexts_are_set_and_destroyed, clause by clause. -/
theorem witness_contexts_are_set_and_destroyed :
    (∃ s : State, ∃ f : Fn, ∃ m : Mb, ∃ g : Nat, ∃ old new : CtxRec, Admitted contextSetForm s f m ∧ g = (s.ctl.req f m).u32 0 ∧ old = s.ctxOf g ∧ new = old.with (s.ctl.req f m) ∧ firstOf (s.ctxBad g new) = none ∧ tget none s.seqs.destroying g = none ∧ ((old.st = .absent ∨ old.st = .running)) ∧ s.ctxInUse g = false)
    ∧ (∃ s : State, ∃ f : Fn, ∃ m : Mb, ∃ g a : Nat, Admitted contextSetForm s f m ∧ g = (s.ctl.req f m).u32 0 ∧ firstOf (s.ctxBad g ((s.ctxOf g).with (s.ctl.req f m))) = some a)
    ∧ (∃ s u : State, ∃ f : Fn, ∃ m : Mb, ∃ g : Nat, Admitted (fnForm 0x0102) s f m ∧ g = (s.ctl.req f m).u32 0 ∧ s.seqs.destroying = [] ∧ (((s.ctxOf g).st = .absent ∨ (s.ctxOf g).st = .saved ∨ ((s.ctxOf g).st = .running ∧ s.ctxInUse g = false))) ∧ (u = (if (s.ctxOf g).st = .saved then s.dropSaved g else s)))
    ∧ (∃ s u : State, ∃ f : Fn, ∃ m : Mb, ∃ g : Nat, Admitted (fnForm 0x0102) s f m ∧ g = (s.ctl.req f m).u32 0 ∧ s.seqs.destroying = [] ∧ (((s.ctxOf g).st = .absent ∨ (s.ctxOf g).st = .saved ∨ ((s.ctxOf g).st = .running ∧ s.ctxInUse g = false))) ∧ (u = (if (s.ctxOf g).st = .saved then s.dropSaved g else s)))
    ∧ (∃ s : State, ∃ f : Fn, ∃ m : Mb, ∃ g : Nat, Admitted (fnForm 0x0102) s f m ∧ g = (s.ctl.req f m).u32 0 ∧ (s.ctxOf g).st = .running ∧ s.ctxInUse g = true)
    ∧ (∃ s : State, ∃ f : Fn, ∃ j : CtxJob, Clocked s ∧ tget none s.seqs.destroying f = some j) :=
  ⟨⟨cs1, 0, 0, 0, {}, CtxRec.with {} (cs1.ctl.req 0 0), by decide +kernel⟩,
    ⟨cs2, 0, 0, 1, (firstOf (cs2.ctxBad 1 ((cs2.ctxOf 1).with (cs2.ctl.req 0 0)))).getD 0, by decide +kernel⟩,
    ⟨cs3, cs3, 0, 0, 15, by decide +kernel⟩,
    ⟨cs3b, cs3b, 0, 0, 15, by decide +kernel⟩,
    ⟨cs4, 0, 0, 0, by decide +kernel⟩,
    ⟨cs5', 3, ⟨{ fn := 0, code := 0x102, tag := 7 }, 0⟩, by decide +kernel⟩⟩

/-- States and operands that meet the hypotheses of Obligations.a_reset_function_leaves_nothing (its part on a scrub reaches only what was released), clause by clause. -/
theorem witness_a_scrub_reaches_only_what_was_released :
    (∃ s : State, ∃ old keep : CtxRec, ∃ k : Nat, twf 0 s.cores.spad = true ∧ twf 0 s.cores.acc = true) :=
  ⟨cs5, ctx0, {}, 0, by decide +kernel⟩

/-- States and operands that meet the hypotheses of Obligations.contexts_are_set_and_destroyed (its part on share table changes), clause by clause. -/
theorem witness_share_table_changes :
    (∃ s : State, ∃ f : Fn, ∃ m : Mb, Admitted shareSetForm s f m ∧ reservedGroup ((s.ctl.req f m).u32 4) = false ∧ ((∀ o, ownerOf ((s.ctl.req f m).u32 8) = some o → (s.ctxOf o.fn.toNat).hasCore (16 * (s.ctl.req f m).u32 0 + o.core.toNat) = true)))
    ∧ (∃ s : State, ∃ f : Fn, ∃ m : Mb, Admitted shareSetForm s f m ∧ reservedGroup ((s.ctl.req f m).u32 4) = true)
    ∧ (∃ s s1 : State, ∃ cl : ClusterIx, ∃ g : Fin 64, ∃ w : ShareChange, Clocked s ∧ (s.share.waiting.find? (fun w => w.cluster == cl.val && w.group == g.val) = some w) ∧ s.share.namesCore w = true ∧ ((∀ c ∈ w.waits, (s.core (16 * cl.val + c)).run = none)) ∧ (s1 = each (ownerCores (s.share.owner w.cluster w.group) ++ ownerCores w.owner).eraseDups (fun c s => s.settle (16 * w.cluster + c) s.now) s))
    ∧ (∃ s : State, ∃ cl : ClusterIx, ∃ g : Fin 64, ∃ w : ShareChange, Clocked s ∧ (s.share.waiting.find? (fun w => w.cluster == cl.val && w.group == g.val) = some w) ∧ s.share.namesCore w = false)
    ∧ (∃ s : State, Clocked s ∧ s.share.waiting = [])
    ∧ (∃ s : State, ∃ cl : ClusterIx, ∃ g : Fin 64, ∃ w : ShareChange, Clocked s ∧ (s.share.waiting.find? (fun w => w.cluster == cl.val && w.group == g.val) = some w) ∧ ((∃ c ∈ w.waits, (s.core (16 * cl.val + c)).run.isSome = true)))
    ∧ (∃ s : State, ∃ f : Fn, ∃ m : Mb, Presented shareSetForm s f m ∧ f.val = 0 ∧ (s.ctl.req f m).u32 0 < 16 ∧ (s.ctl.req f m).u32 4 < 64 ∧ (s.ctl.req f m).u32 8 &&& 0xCF0F = (s.ctl.req f m).u32 8 ∧ (s.ctl.req f m).u32 4 % 16 = 0 ∧ (s.ctl.req f m).u32 8 ≠ 0x8000)
    ∧ (∃ s : State, ∃ f : Fn, ∃ m : Mb, Presented shareSetForm s f m ∧ f.val = 0 ∧ (s.ctl.req f m).u32 0 < 16 ∧ (s.ctl.req f m).u32 4 < 64 ∧ (s.ctl.req f m).u32 8 &&& 0xCF0F = (s.ctl.req f m).u32 8 ∧ (s.ctl.req f m).u32 4 % 16 ≠ 0 ∧ (field ((s.ctl.req f m).u32 8) 15 14 = 2 ∨ field ((s.ctl.req f m).u32 8) 15 14 = 3))
    ∧ (∃ s : State, ∃ f : Fn, ∃ m : Mb, Presented shareSetForm s f m ∧ f.val = 0 ∧ (s.ctl.req f m).u32 0 < 16 ∧ (s.ctl.req f m).u32 4 < 64 ∧ (s.ctl.req f m).u32 8 &&& 0xCF0F = (s.ctl.req f m).u32 8 ∧ (s.ctl.req f m).u32 4 % 16 ≠ 0 ∧ (field ((s.ctl.req f m).u32 8) 15 14 = 2 ∨ field ((s.ctl.req f m).u32 8) 15 14 = 3))
    ∧ (∃ s : State, ∃ f : Fn, ∃ m : Mb, ∃ o : SlotOwner, Admitted shareSetForm s f m ∧ reservedGroup ((s.ctl.req f m).u32 4) = false ∧ ownerOf ((s.ctl.req f m).u32 8) = some o ∧ (s.ctxOf o.fn.toNat).hasCore (16 * (s.ctl.req f m).u32 0 + o.core.toNat) = false) :=
  ⟨⟨ss 1 0x4000, 0, 0, by decide +kernel⟩,
    ⟨ss 16 0x8000, 0, 0, by decide +kernel⟩,
    ⟨sw, sw, 15, 63, { cluster := 15, group := 63, owner := some ⟨3, 2⟩, waits := [2] }, by decide +kernel⟩,
    ⟨{ base with share := { waiting := [{ cluster := 15, group := 63, owner := none, waits := [] }] } }, 15, 63, { cluster := 15, group := 63, owner := none, waits := [] }, by decide +kernel⟩,
    ⟨base, by decide +kernel⟩,
    ⟨swr, 0, 1, { cluster := 0, group := 1, owner := some ⟨0, 1⟩, waits := [0] }, by decide +kernel⟩,
    ⟨ss 16 0x4000, 0, 0, by decide +kernel⟩,
    ⟨ss 1 0x8000, 0, 0, by decide +kernel⟩,
    ⟨ss 1 0xC000, 0, 0, by decide +kernel⟩,
    ⟨ss 1 0x4005, 0, 0, ⟨0, 5⟩, by decide +kernel⟩⟩

/-- States and operands that meet the hypotheses of Obligations.contexts_are_preempted_saved_and_restored, clause by clause. -/
theorem witness_contexts_are_preempted_saved_and_restored :
    (∃ s : State, ∃ f : Fn, ∃ m : Mb, ∃ g : Nat, Admitted (fnForm 0x0104) s f m ∧ g = (s.ctl.req f m).u32 0 ∧ (s.ctxOf g).st = .running)
    ∧ (∃ k : CoreState, ∃ l : LoadBlock, ∃ g : Nat, k.load = some l)
    ∧ (∃ s : State, ∃ f : Fn, ∃ m : Mb, Admitted (fnForm 0x0104) s f m ∧ (s.ctxOf ((s.ctl.req f m).u32 0)).st ≠ .running)
    ∧ (∃ s : State, ∃ f : Fn, ∃ c : CoreIx, ∃ j : CtxJob, ∃ r r1 : RunBlock, ∃ u : State, Clocked s ∧ tget none s.seqs.preempting f = some j ∧ (s.core c).run = some r ∧ (s.ctxOf f).st = .preempting ∧ r.fn = f ∧ r.ending = none ∧ u = s.endAt c (max s.now (j.since + (s.ctxOf f).grace.toNat * usTicks)) (blockFault faultPreempted) ∧ (u.core c).run = some r1 ∧ r1.ending = some (blockFault faultPreempted))
    ∧ (∃ s : State, ∃ f : Fn, Clocked s ∧ (s.ctxOf f).st = .preempting ∧ ((∀ e ∈ s.cores.cores, ∀ r, e.2.run = some r → r.fn ≠ f)))
    ∧ (∃ s : State, ∃ f : Fn, Clocked s ∧ (s.ctxOf f).st = .saving ∧ s.cores.badPartition (s.ctxOf f) = none ∧ tget none s.seqs.preempting f = none ∧ f.val ≠ 0)
    ∧ (∃ s : State, ∃ f : Fn, ∃ m : Mb, ∃ g : Nat, Admitted (fnForm 0x0105) s f m ∧ g = (s.ctl.req f m).u32 0 ∧ (s.ctxOf g).st = .saved ∧ (s.ctxOf g).damaged = false)
    ∧ (∃ s : State, ∃ f : Fn, ∃ m : Mb, Admitted (fnForm 0x0105) s f m ∧ (s.ctxOf ((s.ctl.req f m).u32 0)).st = .saved ∧ (s.ctxOf ((s.ctl.req f m).u32 0)).damaged = true)
    ∧ (∃ s u : State, ∃ f : Fn, ∃ r : CtxRec, Clocked s ∧ r = s.ctxOf f ∧ r.st = .restoring ∧ tget none s.seqs.restoring f = none ∧ f.val ≠ 0 ∧ (u = each r.coreList.zipIdx (fun x s => s.restoreCore f x.1 (s.mem.read (r.saveBase.toNat + r.saveStride * x.2) r.saveStride)) s) ∧ tget none u.seqs.restoring f = none) :=
  ⟨⟨pe1, 0, 0, 3, by decide +kernel⟩,
    ⟨{ load := some { fn := 3, chain := chainAt 64 } }, { fn := 3, chain := chainAt 64 }, 3, by decide +kernel⟩,
    ⟨pe base 0x104 3, 0, 0, by decide +kernel⟩,
    ⟨pg, 0, 0, ⟨{ fn := 0, code := 0x104, tag := 7 }, 0⟩, ((pg.core 0).run.getD (block [])), ((pgu.core 0).run.getD (block [])), pgu, by decide +kernel⟩,
    ⟨base.setCtx 3 { ctx0 with st := .preempting }, 3, by decide +kernel⟩,
    ⟨base.setCtx 3 { st := .saving }, 3, by decide +kernel⟩,
    ⟨pe (base.setCtx 3 { ctx0 with st := .saved }) 0x105 3, 0, 0, 3, by decide +kernel⟩,
    ⟨pe (base.setCtx 3 { ctx0 with st := .saved, damaged := true }) 0x105 3, 0, 0, by decide +kernel⟩,
    ⟨rsd, rsd, 3, { st := .restoring }, by decide +kernel⟩⟩

/-- States and operands that meet the hypotheses of Obligations.blocks_are_posted_and_cancelled, clause by clause. -/
theorem witness_blocks_are_posted_and_cancelled :
    (∃ s : State, ∃ f : Fn, ∃ m : Mb, ∃ es : List QEntry, Admitted blockPostForm s f m ∧ es = ((s.ctl.req f m).entries 16 96 ((s.ctl.req f m).u32 4 % 8)).map parseEntry ∧ (s.ctxOf f).hasCore ((s.ctl.req f m).u32 0) = true ∧ (s.core ((s.ctl.req f m).u32 0)).queued f + es.length ≤ 32 ∧ ((∀ e ∈ es, e.gateEn = false ∧ e.doneList = false)))
    ∧ (∃ s : State, ∃ f : Fn, ∃ m : Mb, Admitted blockPostForm s f m ∧ (s.ctxOf f).hasCore ((s.ctl.req f m).u32 0) = false)
    ∧ (∃ s : State, ∃ f : Fn, ∃ m : Mb, Admitted blockPostForm s f m ∧ (s.ctxOf f).hasCore ((s.ctl.req f m).u32 0) = true ∧ 32 < (s.core ((s.ctl.req f m).u32 0)).queued f + ((s.ctl.req f m).entries 16 96 ((s.ctl.req f m).u32 4 % 8)).length)
    ∧ (∃ s : State, ∃ f : Fn, ∃ m : Mb, ∃ c : Nat, Admitted { code := 0x0302, len := .fixed 32 } s f m ∧ bitsOf 256 (fieldAt (s.ctl.req f m).params 0 32) = [c] ∧ ((∀ e ∈ tget [] (s.core c).queues f, e.doneList = false)))
    ∧ (∃ k : CoreState, ∃ f : Nat, twf [] k.queues = true) :=
  ⟨⟨bp 4 bs, 1, 0, (((bp 4 bs).ctl.req 1 0).entries 16 96 4).map parseEntry, by decide +kernel⟩,
    ⟨bp 1 (bs.setCtx 1 {}), 1, 0, by decide +kernel⟩,
    ⟨bp 4 (bs.modCore 255 (fun k => { k with queues := [(1, List.replicate 29 { image := 0 })] })), 1, 0, by decide +kernel⟩,
    ⟨bc, 1, 0, 255, by decide +kernel⟩,
    ⟨{ queues := [(1, List.replicate 29 { image := 0 })] }, 1, by decide +kernel⟩⟩

/-- States and operands that meet the hypotheses of Obligations.tables_are_loaded, clause by clause. -/
theorem witness_tables_are_loaded :
    (∃ s : State, ∃ f : Fn, ∃ m : Mb, ∃ img : List Byte, ∃ l : TableLoad, caddyFault img = none ∧ Admitted caddyForm s f m ∧ s.cores.caddyLoads = [] ∧ s.cores.codeLoads = [] ∧ (s.ctxOf f).caddySlots.getLsbD ((s.ctl.req f m).u32 8) = true ∧ ((∀ c ∈ bitsOf 256 (fieldAt (s.ctl.req f m).params 16 32), (s.ctxOf f).hasCore c = true)) ∧ (parseLoadAdd ((s.ctl.req f m).u32 12)).permitted (s.ctxOf f) = true ∧ readVirt s.mem s.pages f ((s.ctl.req f m).u64 0) 4224 = .ok img ∧ l = { fn := f, slot := (s.ctl.req f m).u32 8, image := img, cores := bitsOf 256 (fieldAt (s.ctl.req f m).params 16 32), addEn := (parseLoadAdd ((s.ctl.req f m).u32 12)).en, addCtr := (parseLoadAdd ((s.ctl.req f m).u32 12)).ctr, addAmount := (parseLoadAdd ((s.ctl.req f m).u32 12)).amount, rejected := none, cmd := (s.ctl.req f m).cmd })
    ∧ (∃ s : State, ∃ f : Fn, ∃ l : TableLoad, Clocked s ∧ s.cores.caddyLoads = [l] ∧ l.fn = f ∧ l.cores = [] ∧ l.addEn = false)
    ∧ (∃ s : State, ∃ f : Fn, ∃ l : TableLoad, ∃ c : Nat, Clocked s ∧ s.cores.caddyLoads = [l] ∧ l.fn = f ∧ l.cores = [c])
    ∧ (∃ s : State, ∃ f : Fn, ∃ m : Mb, ∃ img : List Byte, Admitted codeForm s f m ∧ s.cores.caddyLoads = [] ∧ s.cores.codeLoads = [] ∧ (parseLoadAdd ((s.ctl.req f m).u32 12)).permitted (s.ctxOf f) = true ∧ readVirt s.mem s.pages f ((s.ctl.req f m).u64 0) 256 = .ok img ∧ codeTableFault img = none)
    ∧ (∃ s : State, ∃ f : Fn, ∃ l : TableLoad, Clocked s ∧ s.cores.codeLoads = [l] ∧ l.fn = f ∧ l.cores = [] ∧ l.addEn = false) :=
  ⟨⟨cl1, 0, 0, cad, cll, cad_ok, by decide +kernel⟩,
    ⟨{ base with cores := { caddyLoads := [{ cll with image := [1], cores := [] }] } }, 0, { cll with image := [1], cores := [] }, by decide +kernel⟩,
    ⟨{ base with cores := { caddyLoads := [{ cll with image := [1] }] } }, 0, { cll with image := [1] }, 0, by decide +kernel⟩,
    ⟨cl4, 0, 0, cod, by decide +kernel⟩,
    ⟨{ base with cores := { codeLoads := [{ cll with image := [1], cores := [] }] } }, 0, { cll with image := [1], cores := [] }, by decide +kernel⟩⟩

end W07

namespace W08

set_option maxRecDepth 100000
set_option linter.unusedVariables false

def half : List Byte := List.replicate 32 3 ++ List.replicate 32 0x13
def m1 : State := asked base 0 0 0x201 (half ++ half)
def m2 : State := asked base 0 0 0x201 (List.replicate 63 3 ++ [0] ++ half)
def ch : MapChange := ((mapRow (m1.ctl.req 0 0) m1).1.mem.mapChange.getD ⟨[], [], { fn := 0, code := 0, tag := 0 }⟩)
def m3 : State := { base with mem := { base.mem with cells := [(0x100000, 5)], mapChange := some ch } }
def m4 : State := { m3 with mem := m3.mem.setPending [0] true }.modCore 3 (fun k => { k with mover := { descs := [{ id := 0, isStore := false, block := 0, fn := 0, phys := true, grains := [{ virt := 0, slot := some 3 }] }] } })
def m5 : State := asked base 0 0 0x202 (ws [0, 63, 0, 0, 0x100, 0])
def rj : RetireJob := { tier := .fast, unit := 63, listAddr := 0x100, cmd := { fn := 0, code := 0x202, tag := 7 } }
def m6 : State := { base with mem := { base.mem with retires := [rj] } }
def m6t : State := let s := { m6 with mem := { m6.mem.retired rj with retires := [] } }; s.recordItem (fun t => { t with fastRetired := insertNat 63 t.fastRetired })
def rp : RetireJob := { tier := .pannier, unit := 63, listAddr := 0x100, cmd := { fn := 0, code := 0x202, tag := 7 } }
def m6p : State := { base with mem := { base.mem with retires := [rp] } }
def m6pt : State := let s := { m6p with mem := { m6p.mem.retired rp with retires := [] } }; s.recordItem (fun t => { t with pannierRetired := insertNat 63 t.pannierRetired })
def m7 : State := asked { base with mem := { fill := [(0, .filled), (1, .filled), (2, .filled)] } } 0 0 0x203 (ws [1, 1])
def s1 : State := asked base 0 0 0x207 (ws [5, 6])
def s3 : State := asked { base with mem := { seals := [(63, ⟨5, 6, 0, true⟩)], cells := [(5 * 65536, 1), (7 * 65536, 1)] } } 0 0 0x208 (ws [63])
def sr : SealRemoval := { entry := 63, cmd := some { fn := 0, code := 0x208, tag := 7 } }
def s4 : State := { s3 with mem := { s3.mem with removals := [sr] } }
def twoBad : List SymbolError := (List.range 9).map (fun i => { burst := 0, lane := Fin.ofNat 36 (4 * i), beats := 1 })

/-- States and operands that meet the hypotheses of Obligations.memory_maps_change, clause by clause. -/
theorem witness_memory_maps_change :
    (∃ s : State, ∃ f : Fn, ∃ m : Mb, Admitted mapForm s f m ∧ ((∀ x < 64, (s.mem.group x).retired = false)) ∧ allDomains.all (domainOk (mapGroup (s.ctl.req f m) s.mem.group) (mapExtent (s.ctl.req f m))) = true ∧ s.mem.mapChange = none ∧ s.mem.retires = [] ∧ s.pages.ftValid = false)
    ∧ (∃ s : State, ∃ f : Fn, ∃ m : Mb, Admitted mapForm s f m ∧ ((∀ x < 64, (s.mem.group x).retired = false)) ∧ allDomains.all (domainOk (mapGroup (s.ctl.req f m) s.mem.group) (mapExtent (s.ctl.req f m))) = false)
    ∧ (∃ s : State, ∃ ch : MapChange, Clocked s ∧ s.mem.mapChange = some ch ∧ s.inFlightPending = false ∧ s.pages.ftValid = false)
    ∧ (∃ s : State, Clocked s ∧ s.inFlightPending = true)
    ∧ (∃ s : State, ∃ f : Fn, ∃ m : Mb, ∃ last : Nat, Admitted retireForm s f m ∧ (s.ctl.req f m).u32 0 = 0 ∧ (s.mem.group ((s.ctl.req f m).u32 4)).valid = true ∧ (s.mem.group ((s.ctl.req f m).u32 4)).retired = false ∧ s.mem.mapChange = none ∧ s.mem.retires = [] ∧ s.pages.ftValid = false ∧ (domExtents s.mem.extent (groupDomain ((s.ctl.req f m).u32 4) (s.mem.group ((s.ctl.req f m).u32 4)))).getLast? = some last)
    ∧ (∃ s : State, ∃ r : RetireJob, ∃ rest : List RetireJob, Clocked s ∧ s.mem.retires = r :: rest ∧ s.inFlightPending = false ∧ s.mem.retireBad r = [])
    ∧ (∃ s : State, ∃ r : RetireJob, ∃ rest : List RetireJob, Clocked s ∧ s.mem.retires = r :: rest ∧ s.inFlightPending = false ∧ s.mem.retireBad r = [])
    ∧ (∃ s : State, ∃ f : Fn, ∃ m : Mb, Admitted pannierFreeForm s f m ∧ f.val = 0 ∧ s.pages.ftValid = false ∧ (s.mem.fill.any (fun e => e.2.isFilling) = false))
    ∧ (∃ s : State, ∃ r : RetireJob, ∃ rest : List RetireJob, Clocked s ∧ s.mem.retires = r :: rest ∧ s.inFlightPending = false ∧ s.mem.retireBad r = [] ∧ r.tier = .fast)
    ∧ (∃ s : State, ∃ r : RetireJob, ∃ rest : List RetireJob, Clocked s ∧ s.mem.retires = r :: rest ∧ s.inFlightPending = false ∧ s.mem.retireBad r = [] ∧ r.tier = .pannier) :=
  ⟨⟨m1, 0, 0, by decide +kernel⟩,
    ⟨m2, 0, 0, by decide +kernel⟩,
    ⟨m3, ch, by decide +kernel⟩,
    ⟨m4, by decide +kernel⟩,
    ⟨m5, 0, 0, 63, by decide +kernel⟩,
    ⟨m6, rj, [], by decide +kernel⟩,
    ⟨m6p, rp, [], by decide +kernel⟩,
    ⟨m7, 0, 0, by decide +kernel⟩,
    ⟨m6, rj, [], by decide +kernel⟩,
    ⟨m6p, rp, [], by decide +kernel⟩⟩

/-- States and operands that meet the hypotheses of Obligations.memory_maps_change (its part on seals translations and scrub), clause by clause. -/
theorem witness_seals_translations_and_scrub :
    (∃ s : State, ∃ f : Fn, ∃ m : Mb, ∃ i : Nat, Admitted sealForm s f m ∧ s.sec.lifecycle ≠ 3 ∧ s.mem.seals = [] ∧ i = 0 ∧ ((∀ k < (s.ctl.req f m).u32 4 + 1 - (s.ctl.req f m).u32 0, s.sealable f ((s.ctl.req f m).u32 0 + k) = true)))
    ∧ (∃ s : State, ∃ f : Fn, ∃ m : Mb, Admitted sealForm s f m ∧ s.sec.lifecycle = 3)
    ∧ (∃ s : State, ∃ f : Fn, ∃ m : Mb, Admitted unsealForm s f m ∧ (s.mem.seal ((s.ctl.req f m).u32 0)).valid = true ∧ ((f.val = 0 ∨ (s.mem.seal ((s.ctl.req f m).u32 0)).owner.toNat = f.val)) ∧ (s.mem.removals.any (fun r => r.entry == (s.ctl.req f m).u32 0) = false))
    ∧ (∃ s : State, ∃ e : Fin 64, ∃ r : SealRemoval, ∃ c : CmdRef, Clocked s ∧ s.mem.removals = [r] ∧ r.entry = e.val ∧ r.cmd = some c ∧ twf 0 s.mem.cells = true)
    ∧ (∃ s : State, ∃ f : Fn, ∃ m : Mb, Admitted xlateForm s f m)
    ∧ (∃ s : State, ∃ a : Nat, ∃ es : List SymbolError, Clocked s ∧ placeOf a ≠ .control ∧ placeOf a ≠ .unmapped ∧ (s.mem.readGrain (a / 256) es).outcome = .uncorrectable)
    ∧ (∃ s : State, ∃ a : Nat, Clocked s ∧ placeOf a ≠ .control ∧ placeOf a ≠ .unmapped ∧ s.mem.ue.contains (a / 256) = false)
    ∧ (∃ s : State, ∃ f : Fn, ∃ m : Mb, ∃ i : Nat, Admitted sealForm s f m ∧ s.sec.lifecycle ≠ 3 ∧ s.mem.seals = [] ∧ i = 0 ∧ ((∀ k < (s.ctl.req f m).u32 4 + 1 - (s.ctl.req f m).u32 0, s.sealable f ((s.ctl.req f m).u32 0 + k) = true)) ∧ tget none s.mem.sealKeys f = none)
    ∧ (∃ s : State, ∃ f : Fn, ∃ m : Mb, ∃ i : Nat, Admitted sealForm s f m ∧ s.sec.lifecycle ≠ 3 ∧ s.mem.seals = [] ∧ i = 0 ∧ ((∀ k < (s.ctl.req f m).u32 4 + 1 - (s.ctl.req f m).u32 0, s.sealable f ((s.ctl.req f m).u32 0 + k) = true)) ∧ tget none s.mem.sealKeys f = some 4) :=
  ⟨⟨s1, 0, 0, 0, by decide +kernel⟩,
    ⟨{ s1 with sec := { s1.sec with lifecycle := 3 } }, 0, 0, by decide +kernel⟩,
    ⟨s3, 0, 0, by decide +kernel⟩,
    ⟨s4, 63, sr, { fn := 0, code := 0x208, tag := 7 }, by decide +kernel⟩,
    ⟨asked base 0 0 0x209 (ws [0x10000, 0, 2]), 0, 0, by decide +kernel⟩,
    ⟨base, 0x10005, twoBad, by decide +kernel⟩,
    ⟨base, 0x10005, by decide +kernel⟩,
    ⟨s1, 0, 0, 0, by decide +kernel⟩,
    ⟨{ s1 with mem := { s1.mem with sealKeys := [(0, some 4)] } }, 0, 0, 0, by decide +kernel⟩⟩

end W08

namespace W09

set_option maxRecDepth 100000
set_option linter.unusedVariables false

def dsc (w count : Nat) (src dst : Nat) : List Byte := rec 32 [(0, natLe 4 w), (4, natLe 4 count), (8, natLe 8 src), (16, natLe 8 dst)]
def qd (b : List Byte) (st : Bool) : QDesc := { bytes := b, ordinal := 0, started := st }
def q1 (code n : Nat) : State := asked base 0 0 code (ws [n, 0, 0, 0] ++ (List.range n).flatMap (fun i => dsc 0 1 i i))
def chq (ch : ChannelIx) (l : List QDesc) : State := (mapped (base.setCtx 0 ctx0) 0x100000 (List.replicate 256 7)).setQueue ch 0 { descs := l }
def rs (w2 : Nat) : State := asked (base.setQueue .hostCopy 15 { descs := [qd [] false], halted := true, haltedMem := true }) 0 0 0x206 (ws [1, 15, w2])
def mvq := qd (dsc 4 2 0x1000 0x1003) true
def mvs := chq .pannier [mvq]
def bdq := qd (dsc 4 2 0x47FFFFFFF 0x100000) true
def bds := chq .pannier [bdq]
def hcq := qd (dsc 4 300 0x5000 0x100000) true
def hcs := chq .hostCopy [hcq]
def fcq := qd (dsc 1 0 0 0) true
def fcs := { chq .pannier [fcq] with mem := { (chq .pannier [fcq]).mem with fill := [(5, .filling 0)] } }
def heq := qd (dsc 2 0 0 0) true
def hes := (chq .hostCopy []).setQueue .hostCopy 0 { descs := [heq], lastHost := some 0x4000 }

/-- States and operands that meet the hypotheses of Obligations.channel_descriptors_end (its part on channel queues), clause by clause. -/
theorem witness_channel_queues :
    (∃ s : State, ∃ f : Fn, ∃ m : Mb, Admitted (postForm 0x0204 pannierMasks) s f m ∧ (s.queue .pannier f).descs.length + (s.ctl.req f m).u32 0 % 16 ≤ 256)
    ∧ (∃ s : State, ∃ f : Fn, ∃ m : Mb, Admitted (postForm 0x0204 pannierMasks) s f m ∧ 256 < (s.queue .pannier f).descs.length + (s.ctl.req f m).u32 0 % 16)
    ∧ (∃ s : State, ∃ f : Fn, ∃ m : Mb, Admitted (postForm 0x0205 hostCopyMasks) s f m ∧ (s.queue .hostCopy f).descs.length + (s.ctl.req f m).u32 0 % 16 ≤ 256)
    ∧ (∃ s : State, ∃ f : Fn, ∃ m : Mb, ∃ ch : ChannelIx, ∃ g : Nat, Admitted resumeForm s f m ∧ ch = chanOf ((s.ctl.req f m).u32 0) ∧ g = (s.ctl.req f m).u32 4 ∧ ((f.val = 0 ∨ g = f.val)) ∧ (s.queue ch g).halted = true ∧ ((f.val = 0 ∨ (s.queue ch g).haltedMem = false)))
    ∧ (∃ s : State, ∃ f : Fn, ∃ m : Mb, ∃ ch : ChannelIx, ∃ g : Nat, Admitted resumeForm s f m ∧ ch = chanOf ((s.ctl.req f m).u32 0) ∧ g = (s.ctl.req f m).u32 4 ∧ ((f.val = 0 ∨ g = f.val)) ∧ (s.queue ch g).halted = true ∧ ((f.val = 0 ∨ (s.queue ch g).haltedMem = false)))
    ∧ (∃ s : State, ∃ f : Fn, ∃ m : Mb, Presented resumeForm s f m ∧ f.val ≠ 0 ∧ (s.ctl.req f m).u32 4 % 16 ≠ f.val)
    ∧ (∃ s : State, ∃ ch : ChannelIx, ∃ f : Fn, ∃ q : QDesc, Clocked s ∧ ch ≠ .collective ∧ (s.queue ch f).startable ch = some q ∧ (s.ctxOf f).startsWork = true ∧ startRefusal ch f (s.ctxOf f) (parseDesc ch q.bytes) = none ∧ (((parseDesc ch q.bytes).startEn = false ∨ s.share.ctrBad 0 (4096 + (parseDesc ch q.bytes).startCtr) = false ∧ (s.share.ctr 0 (4096 + (parseDesc ch q.bytes).startCtr) - BitVec.ofNat 32 (parseDesc ch q.bytes).startThr).toNat < 2 ^ 31)))
    ∧ (∃ s : State, ∃ ch : ChannelIx, ∃ f : Fn, ∃ q : QDesc, ∃ st : Nat, Clocked s ∧ ch ≠ .collective ∧ (s.queue ch f).startable ch = some q ∧ (s.ctxOf f).startsWork = true ∧ startRefusal ch f (s.ctxOf f) (parseDesc ch q.bytes) = some st) :=
  ⟨⟨q1 0x204 14, 0, 0, by decide +kernel⟩,
    ⟨(q1 0x204 14).setQueue .pannier 0 { descs := List.replicate 243 (qd [] false) }, 0, 0, by decide +kernel⟩,
    ⟨q1 0x205 1, 0, 0, by decide +kernel⟩,
    ⟨rs 1, 0, 0, .hostCopy, 15, by decide +kernel⟩,
    ⟨rs 0, 0, 0, .hostCopy, 15, by decide +kernel⟩,
    ⟨asked { base with host := { base.host with vfsEnabled := 15 } } 15 0 0x206 (ws [1, 14, 0]), 15, 0, by decide +kernel⟩,
    ⟨chq .pannier [qd (dsc 4 1 0x1000 0x1001) false], .pannier, 0, qd (dsc 4 1 0x1000 0x1001) false, by decide +kernel⟩,
    ⟨chq .pannier [qd (dsc 4 0 0x1000 0x1001) false], .pannier, 0, qd (dsc 4 0 0x1000 0x1001) false, stBadField, by decide +kernel⟩⟩

/-- States and operands that meet the hypotheses of Obligations.channel_descriptors_end, clause by clause. -/
theorem witness_channel_descriptors_end :
    (∃ s : State, ∃ f : Fn, ∃ q : QDesc, Clocked s ∧ (s.queue .pannier f).running .pannier = some q ∧ s.inReach .pannier f q = true ∧ s.svc.transit = [] ∧ s.svc.ueHub = [] ∧ firstError ((List.range (parsePannier q.bytes).count).map (moveGrain s f (parsePannier q.bytes) q.early)) = none)
    ∧ (∃ s : State, ∃ f : Fn, ∃ q : QDesc, ∃ e : Args, Clocked s ∧ (s.queue .pannier f).running .pannier = some q ∧ s.inReach .pannier f q = true ∧ s.svc.transit = [] ∧ s.svc.ueHub = [] ∧ firstError ((List.range (parsePannier q.bytes).count).map (moveGrain s f (parsePannier q.bytes) q.early)) = some e)
    ∧ (∃ s : State, ∃ f : Fn, ∃ q : QDesc, Clocked s ∧ s.host.link = .l0 ∧ (s.queue .hostCopy f).running .hostCopy = some q ∧ (parseHostCopy q.bytes).flag = true ∧ s.inReach .hostCopy f q = true ∧ s.svc.transit = [] ∧ s.svc.ueHub = [] ∧ firstError ((grainPieces (parseHostCopy q.bytes).dst (parseHostCopy q.bytes).count).map (toHostPiece s f (parseHostCopy q.bytes) q.early)) = none)
    ∧ (∃ s : State, ∃ f : Fn, ∃ q : QDesc, ∃ l : List QDesc, Clocked s ∧ (s.queue .pannier f).descs = q :: l ∧ (s.queue .pannier f).halted = false ∧ q.started = true ∧ (parsePannier q.bytes).fence = true ∧ (((parsePannier q.bytes).kind ≠ 2 ∨ s.host.link = .l0)))
    ∧ (∃ s : State, ∃ f : Fn, ∃ k at_ : Nat, ∃ q : QDesc, ∃ a : W64, ∃ err : HostError, Clocked s ∧ (((s.queue .hostCopy f).descs.filter (fun q => q.started))[k]? = some q) ∧ (s.queue .hostCopy f).halted = false ∧ (parseHostCopy q.bytes).kind = 2 ∧ (s.queue .hostCopy f).lastHost = some a) :=
  ⟨⟨mvs, 0, mvq, by decide +kernel⟩,
    ⟨bds, 0, bdq, (firstError ((List.range (parsePannier bdq.bytes).count).map (moveGrain bds 0 (parsePannier bdq.bytes) bdq.early))).getD {}, by decide +kernel⟩,
    ⟨hcs, 0, hcq, by decide +kernel⟩,
    ⟨fcs, 0, fcq, [], by decide +kernel⟩,
    ⟨hes, 0, 0, 0, heq, 0x4000, .poisoned, by decide +kernel⟩⟩

/-- States and operands that meet the hypotheses of Obligations.channel_descriptors_end (its part on an ended descriptor leaves its queue), clause by clause. -/
theorem witness_an_ended_descriptor_leaves_its_queue :
    (∃ s : State, ∃ f : Fn, ∃ q : QDesc, ∃ n : Nat, ∃ e : Args, twf {} s.mem.movers = true) :=
  ⟨mvs, 0, mvq, 2, { status := stUncorrectable }, by decide +kernel⟩

end W09

namespace W10

set_option maxRecDepth 100000
set_option linter.unusedVariables false

def g1 : State := asked base 0 0 gearForm.code (rec 36 [(31, [0x80]), (32, [3])])
def ga3 : State := base.modCore 255 (fun k => { k with clock := { change := some (5, 99) } })
def gb3 : State := base.modClock 271 (fun k => { k with change := some (5, 99) })
def ga4 : State := base.modCore 255 (fun k => { k with clock := { waking := some (5, 99) } })
def gb4 : State := base.modClock 271 (fun k => { k with waking := some (5, 99) })
def adm : State := (running []).modCore 0 (fun k => { k with clock := { gear := 0, waiting := true }, run := none, load := some { fn := 0, chain := chainAt 64, image := image [] 0x20 [word 0x34 0 [1]] [], phase := .ready } })
def admS : State := { adm with clocks := { dies := [(0, { lastCluster := 0 })] } }
def admW : Nat × Nat × Nat := ((admS.waiters 0).head?).getD (0, 0, 0)
def imgT := image [] 0x20 [word 0x34 0 [1]] []
def ks : State := base
def ksu : State := match exec (.kettleSample 5 [1,2,3,4] [5,6,7,8] (List.range 20) (List.range 16)) ks with | .next t => t | _ => {}
def tr : State := { base with clocks := { dies := [(3, { powerCap := 7 })] } }
def av : State := { base with clocks := { dies := [(3, { targetMv := 740 })] } }

/-- States and operands that meet the hypotheses of Obligations.gears_and_admission, clause by clause. -/
theorem witness_gears_and_admission :
    (∃ s : State, ∃ f : Fn, ∃ m : Mb, ∃ c : Nat, Admitted gearForm s f m ∧ bitsOf 256 (leNat ((s.ctl.req f m).params.take 32)) = [c])
    ∧ (∃ s : State, ∃ f : Fn, ∃ m : Mb, Admitted envelopeForm s f m)
    ∧ (∃ s : State, ∃ f : Fn, ∃ m : Mb, Admitted envelopeForm s f m)
    ∧ (∃ s s1 : State, ∃ c : ClockIx, ∃ g t : Nat, Clocked s ∧ (s.clockOf c).change = some (g, t) ∧ (s1 = (s.upTo t).modClock c (fun k => { k with change := none })))
    ∧ (∃ s s1 : State, ∃ c : ClockIx, ∃ g t : Nat, Clocked s ∧ (s.clockOf c).change = some (g, t) ∧ (s1 = (s.upTo t).modClock c (fun k => { k with change := none })))
    ∧ (∃ s s1 : State, ∃ c : ClockIx, ∃ g t : Nat, Clocked s ∧ (s.clockOf c).waking = some (g, t) ∧ (s1 = (s.upTo t).modClock c (fun k => { k with gear := BitVec.ofNat 4 g, waking := none, idleSince := max s.now t })))
    ∧ (∃ s s1 : State, ∃ c : ClockIx, ∃ g t : Nat, Clocked s ∧ (s.clockOf c).waking = some (g, t) ∧ (s1 = (s.upTo t).modClock c (fun k => { k with gear := BitVec.ofNat 4 g, waking := none, idleSince := max s.now t })))
    ∧ (∃ s : State, ∃ d : DieIx, Clocked s ∧ ((∀ i < 4, s.waiters (4 * d.val + i) = [])))
    ∧ (∃ s s1 : State, ∃ d : DieIx, ∃ i c g n : Nat, Clocked s ∧ i = (s.clocks.die d).lastCluster ∧ i < 4 ∧ s.waiters (4 * d.val + i) = [(c, g, n)] ∧ ((∀ j < 4, j ≠ i → s.waiters (4 * d.val + j) = [])) ∧ (s.clockOf c).gear = 0 ∧ ((((s.clocks.die d).admits.filter (fun a => decide (s.now < a.1 + 100 * nsTicks))).map (fun a => a.2)).sum + n ≤ 256) ∧ (s1 = s.modClock c (fun k => { k with waiting := false, waking := some (g, s.now + 200 * nsTicks) }))) :=
  ⟨⟨g1, 0, 0, 255, by decide +kernel⟩,
    ⟨asked base 0 0 envelopeForm.code (ws [450]), 0, 0, by decide +kernel⟩,
    ⟨asked base 0 0 envelopeForm.code (ws [700]), 0, 0, by decide +kernel⟩,
    ⟨ga3, (ga3.upTo 99).modClock 255 (fun k => { k with change := none }), 255, 5, 99, by decide +kernel⟩,
    ⟨gb3, (gb3.upTo 99).modClock 271 (fun k => { k with change := none }), 271, 5, 99, by decide +kernel⟩,
    ⟨ga4, (ga4.upTo 99).modClock 255 (fun k => { k with gear := BitVec.ofNat 4 5, waking := none, idleSince := max 0 99 }), 255, 5, 99, by decide +kernel⟩,
    ⟨gb4, (gb4.upTo 99).modClock 271 (fun k => { k with gear := BitVec.ofNat 4 5, waking := none, idleSince := max 0 99 }), 271, 5, 99, by decide +kernel⟩,
    ⟨base, 3, by decide +kernel⟩,
    ⟨admS, admS.modClock 0 (fun k => { k with waiting := false, waking := some (admW.2.1, admS.now + 200 * nsTicks) }), 0, 0, admW.1, admW.2.1, admW.2.2, by decide +kernel⟩⟩

/-- States and operands that meet the hypotheses of Obligations.thermal_caps_follow_their_tables, clause by clause. -/
theorem witness_thermal_caps_follow_their_tables :
    (∃ a b : Nat, a ≤ b)
    ∧ (∃ k : ClockState, ∃ p : Nat, ∃ a b st j : List Nat, twf 0 k.stackHeld = true ∧ twf 0 k.junctionHeld = true) :=
  ⟨⟨98, 113, by decide +kernel⟩,
    ⟨{ stackHeld := [(7, 90)] }, 5, [1,2], [3], List.range 20, List.range 16, by decide +kernel⟩⟩

/-- States and operands that meet the hypotheses of Obligations.kettle_and_snapshot, clause by clause. -/
theorem witness_kettle_and_snapshot :
    (∃ s : State, ∃ p : Nat, ∃ a b st j : List Nat, Clocked s ∧ twf 0 s.clocks.stackNow = true)
    ∧ (∃ s : State, ∃ d : Fin 4, Clocked s ∧ ((∀ i < d.val, (s.clocks.die i).powerCap = 15)) ∧ (s.clocks.die d).powerCap.toNat < 15)
    ∧ (∃ s : State, ∃ d : DieIx, Clocked s)
    ∧ (∃ s : State, ∃ d : DieIx, ∃ mv : Nat, Clocked s ∧ (s.clocks.die d).targetMv = (s.clocks.die d).setpointMv)
    ∧ (∃ s u : State, ∃ d : DieIx, ∃ mv : Nat, Clocked s ∧ (s.clocks.die d).targetMv ≠ (s.clocks.die d).setpointMv ∧ u = s.upTo ((s.clocks.die d).askedAt + msTicks))
    ∧ (∃ s u : State, ∃ d : DieIx, ∃ mv : Nat, Clocked s ∧ (s.clocks.die d).targetMv ≠ (s.clocks.die d).setpointMv ∧ u = s.upTo ((s.clocks.die d).askedAt + msTicks))
    ∧ (∃ s : State, Clocked s)
    ∧ (∃ s : State, ∃ p E n : Nat, ∃ a b st j : List Nat, Clocked s ∧ twf {} s.clocks.dies = true ∧ twf 0 s.clocks.stackHeld = true ∧ twf 0 s.clocks.junctionHeld = true ∧ twf 0 s.clocks.junctionNow = true ∧ (E = (if s.clocks.brake = true ∧ s.rst.pins.gpioDriven = true then min s.clocks.envelopeW.toNat 450 else s.clocks.envelopeW.toNat)) ∧ (n = (if 100 * p < 95 * 1000 * E ∧ (∀ r < 12, ¬ 16 * railTenths.getD r 0 < 10 * b.getD r 0) then s.clocks.underCount + 1 else 0)))
    ∧ (∃ s : State, ∃ p E n : Nat, ∃ a b st j : List Nat, Clocked s ∧ twf {} s.clocks.dies = true ∧ twf 0 s.clocks.stackHeld = true ∧ twf 0 s.clocks.junctionHeld = true ∧ twf 0 s.clocks.junctionNow = true ∧ (E = (if s.clocks.brake = true ∧ s.rst.pins.gpioDriven = true then min s.clocks.envelopeW.toNat 450 else s.clocks.envelopeW.toNat)) ∧ (n = (if 100 * p < 95 * 1000 * E ∧ (∀ r < 12, ¬ 16 * railTenths.getD r 0 < 10 * b.getD r 0) then s.clocks.underCount + 1 else 0)))
    ∧ (∃ s : State, ∃ p E n : Nat, ∃ a b st j : List Nat, Clocked s ∧ twf {} s.clocks.dies = true ∧ twf 0 s.clocks.stackHeld = true ∧ twf 0 s.clocks.junctionHeld = true ∧ twf 0 s.clocks.junctionNow = true ∧ (E = (if s.clocks.brake = true ∧ s.rst.pins.gpioDriven = true then min s.clocks.envelopeW.toNat 450 else s.clocks.envelopeW.toNat)) ∧ (n = (if 100 * p < 95 * 1000 * E ∧ (∀ r < 12, ¬ 16 * railTenths.getD r 0 < 10 * b.getD r 0) then s.clocks.underCount + 1 else 0)))
    ∧ (∃ u t : State, twf {} u.clocks.dies = true ∧ (t = each (List.range 4) (fun d s => s.lowerVolts d) u.retargetAll)) :=
  ⟨⟨ks, 5, [1,2,3,4], [5,6,7,8], List.range 20, List.range 16, by decide +kernel⟩,
    ⟨tr, 3, by decide +kernel⟩,
    ⟨{ base with clocks := { dies := [(3, { powerCap := 7, targetMv := 5000 })] } }, 3, by decide +kernel⟩,
    ⟨base, 3, 700, by decide +kernel⟩,
    ⟨av, av.upTo msTicks, 3, 700, by decide +kernel⟩,
    ⟨av, av.upTo msTicks, 3, 0, by decide +kernel⟩,
    ⟨base, by decide +kernel⟩,
    ⟨base, 5, 700, 1, [1,2,3,4], [5,6,7,8], List.range 20, List.range 16, by decide +kernel⟩,
    ⟨{ tr with clocks := { tr.clocks with underCount := 63 } }, 5, 700, 64, [1,2,3,4], [5,6,7,8], List.range 20, List.range 16, by decide +kernel⟩,
    ⟨{ tr with clocks := { tr.clocks with underCount := 63 } }, 800000, 700, 0, [1,2,3,4], [5,6,7,8], List.range 20, List.range 16, by decide +kernel⟩,
    ⟨tr, each (List.range 4) (fun d s => s.lowerVolts d) tr.retargetAll, by decide +kernel⟩⟩

/-- States and operands that meet the hypotheses of Obligations.kettle_and_snapshot (its part on thermal trip stops the clocks), clause by clause. -/
theorem witness_thermal_trip_stops_the_clocks :
    (∃ s : State, ∃ st j : List Nat, ((∃ t ∈ st, 105 ≤ t) ∨ (∃ t ∈ j, 120 ≤ t)))
    ∧ (∃ s : State, ∃ st j : List Nat, ((∃ t ∈ st, 105 ≤ t) ∨ (∃ t ∈ j, 120 ≤ t)))
    ∧ (∃ s : State, ∃ st j : List Nat, ((∀ t ∈ st, t < 105)) ∧ ((∀ t ∈ j, t < 120)))
    ∧ (∃ s : State, s.clocks.thermtrip = true) :=
  ⟨⟨base, [80, 105], [], by decide +kernel⟩,
    ⟨base, [], [120], by decide +kernel⟩,
    ⟨base, [104], [119], by decide +kernel⟩,
    ⟨{ base with clocks := { thermtrip := true } }, by decide +kernel⟩⟩

end W10

namespace W11

set_option maxRecDepth 100000
set_option linter.unusedVariables false

def rk (s : State) : State := { s with rst := { s.rst with trimDefaulted := false } }
def sw1 : State := asked base 0 0 spareSwapForm.code (ws [255])
def nosp : SvcState := { spares := [(15, { spare := none })] }
def stp (b : Bool) : State := { rk base with svc := { spares := [(15, { spareReady := false, first := [7] })] }, clocks := { base.clocks with spareClocks := [(15, { gear := 8 })] } }
def imgA := image [] 0x20 [word 0x34 0 [1, 0, 0, 0]] []

/-- States and operands that meet the hypotheses of Obligations.spares_are_steeped_and_swapped, clause by clause. -/
theorem witness_spares_are_steeped_and_swapped :
    (∃ s : State, ∃ f : Fn, ∃ m : Mb, ∃ c slot : Nat, Admitted spareSwapForm s f m ∧ c = (s.ctl.req f m).u32 0 % 256 ∧ (s.svc.sparesOf (clusterOf c)).spare = some slot)
    ∧ (∃ s : State, ∃ f : Fn, ∃ m : Mb, ∃ c : Nat, Admitted spareSwapForm s f m ∧ c = (s.ctl.req f m).u32 0 % 256 ∧ (s.svc.sparesOf (clusterOf c)).spare = none)
    ∧ (∃ s : State, ∃ c : CoreIx, ∃ sp : Nat, Clocked s ∧ (s.core c).run = none ∧ (s.core c).swap = some .command ∧ (s.svc.sparesOf (clusterOf c)).spare = some sp)
    ∧ (∃ s : State, ∃ f : Fn, ∃ m : Mb, Admitted steepForm s f m ∧ (s.ctl.req f m).u32 0 % 4 = 3 ∧ (s.svc.requests.any (fun r => r.kind == 3 && r.target == (s.ctl.req f m).u32 4) = false))
    ∧ (∃ s : State, ∃ cl : ClusterIx, ∃ slot margin : Nat, Clocked s ∧ (s.svc.sparesOf cl).spare = some slot ∧ s.steeps cl = true ∧ s.steepPaused cl = false ∧ (tget {} s.clocks.spareClocks cl).gear ≠ 0 ∧ 5 ≤ margin ∧ s.svc.requests = [])
    ∧ (∃ s : State, ∃ cl : ClusterIx, ∃ slot margin : Nat, ∃ pass : Bool, Clocked s ∧ (s.svc.sparesOf cl).spare = some slot ∧ s.steeps cl = true ∧ s.steepPaused cl = false ∧ (tget {} s.clocks.spareClocks cl).gear ≠ 0 ∧ ((pass = false ∨ margin < 5)))
    ∧ (∃ s : State, ∃ cl : ClusterIx, ∃ slot margin : Nat, ∃ pass : Bool, Clocked s ∧ (s.svc.sparesOf cl).spare = some slot ∧ s.steeps cl = true ∧ s.steepPaused cl = false ∧ (tget {} s.clocks.spareClocks cl).gear ≠ 0 ∧ ((pass = false ∨ margin < 5)))
    ∧ (∃ s : State, ∃ target result : Nat, ∃ scan : List (Nat × List SymbolError), ∃ r : SteepReq, Clocked s ∧ s.svc.requests = [r] ∧ r.kind = 3 ∧ r.target = target)
    ∧ (∃ s : State, ∃ target _result : Nat, ∃ scan : List (Nat × List SymbolError), ∃ r : SteepReq, Clocked s ∧ s.svc.requests = [r] ∧ r.kind = 2 ∧ r.target = target) :=
  ⟨⟨sw1, 0, 0, 255, 16, by decide +kernel⟩,
    ⟨{ sw1 with svc := nosp }, 0, 0, 255, by decide +kernel⟩,
    ⟨base.modCore 255 (fun k => { k with swap := some .command }), 255, 16, by decide +kernel⟩,
    ⟨asked base 0 0 steepForm.code (ws [3, 19]), 0, 0, by decide +kernel⟩,
    ⟨stp true, 15, 16, 5, by decide +kernel⟩,
    ⟨stp true, 15, 16, 4, true, by decide +kernel⟩,
    ⟨stp true, 15, 16, 5, false, by decide +kernel⟩,
    ⟨{ base with svc := { requests := [{ kind := 3, target := 19, cmd := { fn := 0, code := 1, tag := 2 } }] } }, 19, 5, [], { kind := 3, target := 19, cmd := { fn := 0, code := 1, tag := 2 } }, by decide +kernel⟩,
    ⟨{ base with svc := { requests := [{ kind := 2, target := 3, cmd := { fn := 0, code := 1, tag := 2 } }] } }, 3, 5, [], { kind := 2, target := 3, cmd := { fn := 0, code := 1, tag := 2 } }, by decide +kernel⟩⟩

/-- States and operands that meet the hypotheses of Obligations.on_die_errors_are_recorded (its part on a retired slot is recorded), clause by clause. -/
theorem witness_a_retired_slot_is_recorded :
    (∃ s : State, ∃ cl slot reason : Nat, twf {} s.svc.spares = true ∧ (s.svc.sparesOf cl).retired.contains slot = false ∧ ((∀ sp : Nat, (s.svc.sparesOf cl).spare = some sp → sp ≠ slot → (s.core (16 * cl + (s.svc.sparesOf cl).map.idxOf slot)).run = none)))
    ∧ (∃ s : State, ∃ cl slot reason : Nat, twf {} s.svc.spares = true ∧ (s.svc.sparesOf cl).retired.contains slot = false ∧ ((∀ sp : Nat, (s.svc.sparesOf cl).spare = some sp → sp ≠ slot → (s.core (16 * cl + (s.svc.sparesOf cl).map.idxOf slot)).run = none))) :=
  ⟨⟨base, 15, 16, 1, by decide +kernel⟩,
    ⟨{ base with svc := nosp }, 15, 3, 1, by decide +kernel⟩⟩

/-- States and operands that meet the hypotheses of Obligations.on_die_errors_are_recorded, clause by clause. -/
theorem witness_on_die_errors_are_recorded :
    (∃ s : State, ∃ c : CoreIx, ∃ r : RunBlock, Clocked s ∧ ((s.settle c s.now).core c).run = some r)
    ∧ (∃ s : State, ∃ u : Fin 17, ∃ a : SramArray, ∃ slot : Fin 17, ∃ row addr from_ n : Nat, ∃ flips : BitVec 80, Clocked s ∧ s.svc.worn = [] ∧ wordRead addr from_ (s.wordAt u a slot addr) flips = some (s.wordAt u a slot addr, n) ∧ n ≠ 0 ∧ wears a = true)
    ∧ (∃ s : State, ∃ u : Fin 17, ∃ slot : Fin 17, ∃ row addr from_ i : Nat, ∃ flips : BitVec 80, Clocked s ∧ u.val < 16 ∧ ((s.svc.sparesOf u).map.findIdx? (fun x => x == slot.val) = some i) ∧ twf {} s.svc.errs = true ∧ wordRead addr from_ (s.wordAt u .scratchpad slot addr) flips = none)
    ∧ (∃ s : State, ∃ link : Fin 8, ∃ group : Fin 4, ∃ lane : Fin 264, ∃ j : Nat, Clocked s ∧ linkGroup link group = some j ∧ s.svc.groupsRetired.contains j = false ∧ s.rst.trimDefaulted = false ∧ tget 0 s.svc.lanesFailed j + 1 < 8)
    ∧ (∃ s : State, ∃ link : Fin 8, ∃ group : Fin 4, ∃ lane : Fin 264, ∃ j : Nat, Clocked s ∧ linkGroup link group = some j ∧ s.svc.groupsRetired.contains j = false ∧ s.rst.trimDefaulted = false ∧ tget 0 s.svc.lanesFailed j + 1 < 8)
    ∧ (∃ s : State, ∃ link : Fin 8, ∃ group : Fin 4, ∃ lane : Fin 264, ∃ j : Nat, Clocked s ∧ linkGroup link group = some j ∧ s.svc.groupsRetired.contains j = false ∧ s.rst.trimDefaulted = false ∧ 8 ≤ tget 0 s.svc.lanesFailed j) :=
  ⟨⟨running imgA, 0, (((running imgA).settle 0 0).core 0).run.getD (block []), by decide +kernel⟩,
    ⟨base, 16, .hub, 0, 5, 6, 6, 1, 1, by decide +kernel⟩,
    ⟨base, 15, 15, 5, 4194303, 4194303, 15, 7, by decide +kernel⟩,
    ⟨rk base, 3, 3, 263, 15, by decide +kernel⟩,
    ⟨rk base, 7, 1, 263, 23, by decide +kernel⟩,
    ⟨{ rk base with svc := { lanesFailed := [(23, 8)] } }, 7, 1, 263, 23, by decide +kernel⟩⟩

end W11

namespace W12

set_option maxRecDepth 100000
set_option linter.unusedVariables false

def okS (x : Paged State) : State := match x with | .ok t => t | _ => {}
def pl : State := { base with pages := { placing := some (0x1000000, { fn := 0, code := 0x401, tag := 7 }) }, mem := { cells := [(0x1000000, 3), (0x2000000000, 4)] } }
def off : State := { paging [] [] with pages := { ftBase := 0x1000000, ftValid := true } }
def su : State := asked off 0 0 0x402 (ws [0, 0, 5, 0, 0x80000, 0, 0x90000, 0, 0xA0000, 0, 64, 64, 128, 1])
def gr : State := asked (paging [] []) 0 0 0x405 (ws [0, 0, 100, 2])
def gr2 : State := asked (paging [] [(101, ⟨0, ftFree, 0, 0⟩)]) 0 0 0x405 (ws [0, 0, 100, 2])
def fs : State := asked (paging [] [(101, ⟨0, ftOrphaned, 3, 0⟩)]) 0 0 0x406 (ws [0, 101, 1])
def fs4 : State := { paging [] [(101, ⟨0, ftOrphaned, 3, 0⟩)] with pages := { (paging [] []).pages with scrubs := [⟨101, 1, { fn := 0, code := 0x406, tag := 7 }⟩] } }
def re : State := { paging [(3, ⟨5, true, false⟩)] [(5, ⟨1, ftMapped, 0, 0⟩), (6, ⟨0, ftFree, 0, 0⟩)] with seqs := { seqs := [(0, { st := .active })] } }
def re' : State := { re with pages := { re.pages with reenables := [(0, { fn := 0, code := 0x407, tag := 7 })] } }
def sp : State := let s := paging [(3, ⟨5, true, false⟩)] [(5, ⟨1, ftMapped, 0, 0⟩)]; { s with seqs := { seqs := [(0, { st := .active })] }, mem := s.mem.write 0x90000 (natLe 4 9), pages := { s.pages with recs := s.pages.recs.map (fun e => (e.1, { e.2 with highWater := 0, lowWater := 0, occupancy := 1, freePannier := 1 })) } }
def spu : State := { sp with pages := sp.pages.watch 0 }
def pm : PageMove := ⟨0, 0, 3, some (5, fastFrames + 9)⟩
def sp3b : State := { sp with mem := sp.mem.write 0x50000 [1, 2, 3] }
def sp3 : State := { sp3b with pages := { sp3b.pages with spills := [pm] }, mem := { sp3b.mem with fill := [(9, .filling pageQueue)] } }
def sp4b : State := { sp with mem := { sp.mem with ue := [0x501] } }
def sp4 : State := { sp4b with pages := { sp4b.pages with spills := [pm] } }
def pf : PageMove := ⟨0, 0, 3, some (fastFrames + 9, 7)⟩
def pf0 : State := let s := paging [(3, ⟨fastFrames + 9, false, true⟩)] [(7, ⟨0, ftMoving, 0, 0⟩)]; { s with seqs := { seqs := [(0, { st := .active })] } }
def pf1 : State := { pf0 with pages := { pf0.pages with prefetches := [pf] } }
def iv : State := { sp with pages := { sp.pages with invalidations := [⟨0, [5]⟩] } }
def cand : Spillable := match sp.pickSpill 0 (sp.spillPages 0) with | .ok (some c) => c | _ => { age := 0, seq := 0, page := 3, frame := 5 }
def sp0 : State := { sp with pages := sp.pages.setRec 0 { sp.pageRec 0 with freePannier := 0 } }
def spN : State := { sp with seqs := {} }
def spw : MemState := ((sp.mem.copyFrame 5 (fastFrames + 9)).spillFilled 9).ftPut sp.pages.ft (fastFrames + 9) ⟨1, 2, 0, (sp.pageRec 0).stepEpoch.toNat⟩
theorem write_keeps {m : MemState} {y : Nat} {bs : List Byte} (hs : m.seals = []) (hu : m.ue = []) (hw : twf 0 m.cells = true) :
    (m.write y bs).seals = [] ∧ (m.write y bs).ue = [] ∧ twf 0 (m.write y bs).cells = true ∧ (m.write y bs).extents = m.extents
    ∧ ∀ x n, x + n ≤ y ∨ y + bs.length ≤ x → (m.write y bs).read x n = m.read x n := by
  simp only [MemState.write, MemState.read, hs, hu, List.isEmpty_nil, Bool.and_self, if_true]
  exact ⟨trivial, trivial, twf_setBytes hw, trivial, fun x n h => bytesAt_setBytes_out hw h⟩
theorem leafSlot_with {s : State} {m : MemState} {f page a1 a2 x : Nat} (hu : m.ue = []) (he : m.extents = s.mem.extents)
    (h1 : m.read a1 8 = s.mem.read a1 8) (h2 : m.read a2 8 = s.mem.read a2 8) (hs : s.mem.ue = [])
    (ha : 65536 * (s.pageRec f).root.toNat + 8 * field (65536 * page) 47 42 = a1)
    (hb : (tablePage (s.mem.readLe a1 8)).map (· + 8 * field (65536 * page) 41 29) = some a2)
    (h : s.leafSlot f page = .ok (some x)) : State.leafSlot { s with mem := m } f page = .ok (some x) := by
  have ho : State.ownTable { s with mem := m } f = s.ownTable f := by
    funext p; simp only [State.ownTable, MemState.extent, he]
  have q (n a : Nat) : (m.ueIn a n = none) ∧ (s.mem.ueIn a n = none) := by
    constructor <;> simp [MemState.ueIn, hu, hs]
  subst ha
  rw [← h]
  obtain ⟨t, ht, rfl⟩ := Option.map_eq_some_iff.1 hb
  simp only [State.leafSlot, State.pgRead, ho, (q _ _).1, (q _ _).2, MemState.readLe, State.pageRec]
  simp only [MemState.readLe, State.pageRec] at ht h1 h2
  simp only [h1]
  split
  · rfl
  · simp only [ht]
    rcases Option.eq_none_or_eq_some (Option.filter (s.ownTable f) (some t)) with hn | ⟨t', ht'⟩
    · simp only [hn]
    · obtain rfl : t = t' := by simpa using (Option.filter_eq_some_iff.1 ht').1
      simp only [ht', h2]
theorem moved_keeps {m m' : MemState} {t : FtBase} {a b e : Nat} {y : FtEntry} (hs : m.seals = []) (hu : m.ue = []) (hw : twf 0 m.cells = true)
    (hm : m' = m.copyFrame a b ∨ ∃ n, m' = (m.copyFrame a b).spillFilled n) :
    (m'.ftPut t e y).ue = [] ∧ (m'.ftPut t e y).extents = m.extents
    ∧ ∀ x, x + 8 ≤ ftAddr b → x + 8 ≤ t.base + 8 * e → (m'.ftPut t e y).read x 8 = m.read x 8 := by
  obtain ⟨s1, u1, w1, e1, r1⟩ := write_keeps (y := ftAddr b) (bs := m.read (ftAddr a) 65536) hs hu hw
  have k : m'.seals = [] ∧ m'.ue = [] ∧ twf 0 m'.cells = true ∧ m'.extents = m.extents ∧ ∀ x, x + 8 ≤ ftAddr b → m'.read x 8 = m.read x 8 := by
    obtain rfl | ⟨n, rfl⟩ := hm
    · exact ⟨s1, u1, w1, e1, fun x h => r1 x 8 (.inl h)⟩
    · unfold MemState.spillFilled
      split
      · exact ⟨s1, u1, w1, e1, fun x h => r1 x 8 (.inl h)⟩
      · exact ⟨s1, u1, w1, e1, fun x h => r1 x 8 (.inl h)⟩
  obtain ⟨s2, u2, w2, e2, r2⟩ := k
  obtain ⟨_, u3, _, e3, r3⟩ := write_keeps (y := t.base + 8 * e) (bs := y.bytes) s2 u2 w2
  exact ⟨u3, e3.trans e2, fun x h h' => (r3 x 8 (.inl h')).trans (r2 x h)⟩
theorem spw_slot : State.leafSlot { sp with mem := ((sp.mem.copyFrame 5 (fastFrames + 9)).spillFilled (fastFrames + 9 - fastFrames)).ftPut sp.pages.ft (fastFrames + 9) { count := 1, st := 2, fn := 0, epoch := (sp.pageRec 0).stepEpoch.toNat } } 0 pm.page = .ok (some (0x20000 + 8 * 3)) := by
  obtain ⟨hu, he, hr⟩ := moved_keeps (m := sp.mem) (a := 5) (b := fastFrames + 9) (t := sp.pages.ft) (e := fastFrames + 9) (y := { count := 1, st := 2, fn := 0, epoch := (sp.pageRec 0).stepEpoch.toNat }) rfl rfl (by decide +kernel) (.inr ⟨fastFrames + 9 - fastFrames, rfl⟩)
  exact leafSlot_with (a1 := 0) (a2 := 0x10000) hu he (hr _ (by decide +kernel) (by decide +kernel)) (hr _ (by decide +kernel) (by decide +kernel)) rfl (by decide +kernel) (by decide +kernel) (by decide +kernel)
theorem pfw_slot : State.leafSlot { pf0 with mem := (pf0.mem.copyFrame (fastFrames + 9) 7).ftPut pf0.pages.ft 7 { count := 1, st := 2, fn := 0, epoch := (pf0.pageRec 0).stepEpoch.toNat } } 0 pf.page = .ok (some (0x20000 + 8 * 3)) := by
  obtain ⟨hu, he, hr⟩ := moved_keeps (m := pf0.mem) (a := fastFrames + 9) (b := 7) (t := pf0.pages.ft) (e := 7) (y := { count := 1, st := 2, fn := 0, epoch := (pf0.pageRec 0).stepEpoch.toNat }) rfl rfl (by decide +kernel) (.inl rfl)
  exact leafSlot_with (a1 := 0) (a2 := 0x10000) hu he (hr _ (by decide +kernel) (by decide +kernel)) (hr _ (by decide +kernel) (by decide +kernel)) rfl (by decide +kernel) (by decide +kernel) (by decide +kernel)
def pfw : MemState := ((pf0.mem.copyFrame (fastFrames + 9) 7)).ftPut pf0.pages.ft 7 ⟨1, 2, 0, (sp.pageRec 0).stepEpoch.toNat⟩
def spf : State := { sp4b with mem := ((sp4b.mem.ftMod sp4b.pages.ft 5 (fun x => { x with st := 2 })).note 0x50100 false .uncorrectable).spillFilled 9, pages := { sp4b.pages with spillSkip := [(0, 3, 0)] } }
def sp2 : State := { sp with mem := sp.mem.ftPut sp.pages.ft 5 ⟨3, 2, 0, 0⟩ }
def qr : State := let s := okS (sp.quarantine 0 5); s
def qr2 : State := let s := { sp with pages := sp.pages.setRec 0 { sp.pageRec 0 with stepEpoch := 4 } }; okS (s.quarantine 0 5)
def spl : State := { qr with seqs := { qr.seqs with lists := [(0, [({ epoch := 0, cmd := { fn := 0, code := 0x40F, tag := 7 } } : BrewList)])] } }
def fd (c : Nat) (free : Nat) : State := let s := { pf0 with mem := (pf0.mem.ftPut pf0.pages.ft (fastFrames + 9) ⟨c, 2, 0, 0⟩).write 0x80000 (natLe 4 11) }; { s with pages := { s.pages.setRec 0 { s.pageRec 0 with freeFast := BitVec.ofNat _ free } with prefetches := [{ pf with frames := none }] } }
def sh (lim : Nat) : State := asked { paging [(3, ⟨5, true, false⟩)] [(5, ⟨lim, ftMapped, 0, 0⟩)] with seqs := { seqs := [(0, { st := .active }), (4095, { st := .active, vbase := 0x100000 })] } } 0 0 0x40D (ws [0, 4095, 2, 4])
def shw : ShareWait := { source := 0, target := 4095, first := 2, last := 4, cmd := ((sh 1).ctl.req 0 0).cmd }
def okP (x : Paged (State × Nat)) : State := match x with | .ok (t, _) => t | _ => {}
def shl : State := let s := sh 1; { s with seqs := { s.seqs with seqs := [(0, { st := .active, listed := true }), (4095, { st := .active, vbase := 0x100000 })] } }
def rl : State := asked { sh 1 with ctl := {} } 0 0 0x40E (ws [0, 0, 16])
def shm : MemState := (sh 1).mem.ftMod (sh 1).pages.ft 5 (fun e => { e with count := 2 })
def rl2 : State := okS (pagedEach (State.releasePage 0) [3] (sh 1))

/-- States and operands that meet the hypotheses of Obligations.the_page_engine_is_set_up, clause by clause. -/
theorem witness_the_page_engine_is_set_up :
    (∃ s : State, ∃ f : Fn, ∃ m : Mb, Admitted placeForm s f m ∧ s.pages.ftValid = false ∧ s.pages.placing = none ∧ s.mem.inExtents 0 ((s.ctl.req f m).u64 0) ftSize = true)
    ∧ (∃ s : State, ∃ f : Fn, ∃ m : Mb, Admitted placeForm s f m ∧ s.pages.ftValid = true)
    ∧ (∃ s : State, ∃ a : Nat, ∃ c : CmdRef, Clocked s ∧ s.pages.placing = some (a, c))
    ∧ (∃ s : State, ∃ f : Fn, ∃ m : Mb, ∃ g : Nat, Admitted setupForm s f m ∧ g = (s.ctl.req f m).u32 0 ∧ s.pages.ftValid = true ∧ (s.pageRec g).enabled = false ∧ s.pages.reenables = [] ∧ s.mem.areaOk g (65536 * (s.ctl.req f m).u32 8) 65536 = true ∧ s.mem.areaOk g ((s.ctl.req f m).u64 0x10) (4 * (s.ctl.req f m).u32 0x28) = true ∧ s.mem.areaOk g ((s.ctl.req f m).u64 0x18) (4 * (s.ctl.req f m).u32 0x2C) = true ∧ s.mem.areaOk g ((s.ctl.req f m).u64 0x20) (4 * (s.ctl.req f m).u32 0x30) = true)
    ∧ (∃ s : State, ∃ f : Fn, ∃ m : Mb, Admitted geometryForm s f m ∧ s.serves f = true ∧ s.seqs.ofFn f = [])
    ∧ (∃ s : State, ∃ f : Fn, ∃ m : Mb, Admitted geometryForm s f m ∧ s.serves f = true ∧ s.seqs.ofFn f = [])
    ∧ (∃ s : State, ∃ f : Fn, ∃ m : Mb, ∃ g : Nat, Admitted waterForm s f m ∧ g = (s.ctl.req f m).u32 0 ∧ ((f.val = 0 ∨ g = f.val)) ∧ s.serves g = true)
    ∧ (∃ s : State, ∃ f : Fn, ∃ m : Mb, s.serves f = false)
    ∧ (∃ s : State, ∃ f : Fn, ∃ m : Mb, s.serves f = false)
    ∧ (∃ s : State, ∃ f : Fn, ∃ m : Mb, s.serves f = false)
    ∧ (∃ s : State, ∃ f : Fn, ∃ m : Mb, s.serves f = false ∧ Admitted geometryForm s f m)
    ∧ (∃ s : State, ∃ f : Fn, ∃ m : Mb, s.serves f = false ∧ Admitted listOpenForm s f m)
    ∧ (∃ s : State, ∃ f : Fn, ∃ m : Mb, s.serves f = false ∧ Admitted createForm s f m) :=
  ⟨⟨asked base 0 0 0x401 (ws [0x1000000, 0]), 0, 0, by decide +kernel⟩,
    ⟨asked (paging [] []) 0 0 0x401 (ws [0x1000000, 0]), 0, 0, by decide +kernel⟩,
    ⟨pl, 0x1000000, { fn := 0, code := 0x401, tag := 7 }, by decide +kernel⟩,
    ⟨su, 0, 0, 0, by decide +kernel⟩,
    ⟨asked (paging [] []) 0 0 0x403 (ws [10, 1024, 0x100000]), 0, 0, by decide +kernel⟩,
    ⟨asked (paging [] []) 0 0 0x403 (ws [4, 1, 1]), 0, 0, by decide +kernel⟩,
    ⟨asked (paging [] []) 0 0 0x404 (ws [0, 9, 9]), 0, 0, 0, by decide +kernel⟩,
    ⟨asked off 0 0 0x403 (ws [4, 1, 1]), 0, 0, by decide +kernel⟩,
    ⟨asked off 0 0 0x40F [], 0, 0, by decide +kernel⟩,
    ⟨asked off 0 0 0x408 (ws [0, 1, 0, 0, 0, 0]), 0, 0, by decide +kernel⟩,
    ⟨asked off 0 0 0x403 (ws [4, 1, 1]), 0, 0, by decide +kernel⟩,
    ⟨asked off 0 0 0x40F [], 0, 0, by decide +kernel⟩,
    ⟨asked off 0 0 0x408 (ws [0, 1, 0, 0, 0, 0]), 0, 0, by decide +kernel⟩⟩

/-- States and operands that meet the hypotheses of Obligations.the_page_engine_is_set_up (its part on frames are granted and scrubbed), clause by clause. -/
theorem witness_frames_are_granted_and_scrubbed :
    (∃ s t u : State, ∃ f : Fn, ∃ m : Mb, ∃ g : Nat, Admitted grantForm s f m ∧ g = (s.ctl.req f m).u32 0 ∧ s.serves g = true ∧ (s.ctl.req f m).u32 4 % 2 = 0 ∧ ((∀ e ∈ (s.ctl.req f m).frames 4 8 12, s.grantable g e = true ∧ s.sealFits g e = true)) ∧ ((s.ctl.req f m).frames 4 8 12).length ≤ (s.pageRec g).fastCap.toNat - (s.pageRec g).freeFast.toNat ∧ pagedEach (State.grant g) ((s.ctl.req f m).frames 4 8 12) s = .ok u ∧ u.feedPrefetch g = .ok t)
    ∧ (∃ s : State, ∃ f : Fn, ∃ m : Mb, ∃ g e : Nat, Admitted grantForm s f m ∧ g = (s.ctl.req f m).u32 0 ∧ s.serves g = true ∧ (s.ctl.req f m).u32 4 % 2 = 0 ∧ e ∈ (s.ctl.req f m).frames 4 8 12 ∧ s.grantable g e = false)
    ∧ (∃ s : State, ∃ f : Fn, ∃ m : Mb, Admitted scrubForm s f m ∧ s.pages.ftValid = true ∧ s.pages.scrubs = [] ∧ ((∀ e ∈ (s.ctl.req f m).frames 0 4 8, (s.mem.ftGet s.pages.ft e).st = ftOrphaned)))
    ∧ (∃ s : State, ∃ j : ScrubJob, ∃ rest : List ScrubJob, Clocked s ∧ s.pages.scrubs = j :: rest)
    ∧ (∃ s : State, ∃ f : Fn, ∃ m : Mb, ∃ g : Nat, Admitted reenableForm s f m ∧ g = (s.ctl.req f m).u32 0 ∧ s.pages.ftValid = true ∧ (s.pageRec g).enabled = false ∧ s.pages.reenables = [])
    ∧ (∃ s t : State, ∃ f : Fn, ∃ c : CmdRef, Clocked s ∧ s.pages.reenables = [(f.val, c)] ∧ State.rebuild { s with pages := { s.pages with reenables := [] } } f = .ok t ∧ twf {} s.pages.recs = true) :=
  ⟨⟨gr, okS (State.feedPrefetch 0 (okS (pagedEach (State.grant 0) [100, 101] gr))), okS (pagedEach (State.grant 0) [100, 101] gr), 0, 0, 0, by decide +kernel⟩,
    ⟨gr2, 0, 0, 0, 101, by decide +kernel⟩,
    ⟨fs, 0, 0, by decide +kernel⟩,
    ⟨fs4, ⟨101, 1, { fn := 0, code := 0x406, tag := 7 }⟩, [], by decide +kernel⟩,
    ⟨asked off 0 0 0x407 (ws [0]), 0, 0, 0, by decide +kernel⟩,
    ⟨re', okS (State.rebuild re 0), 0, { fn := 0, code := 0x407, tag := 7 }, by decide +kernel⟩⟩

/-- States and operands that meet the hypotheses of Obligations.pages_are_spilled_and_fetched, clause by clause. -/
theorem witness_pages_are_spilled_and_fetched :
    (∃ s u : State, ∃ f : Fn, Clocked s ∧ u = { s with pages := s.pages.watch f } ∧ u.serves f = true ∧ (u.pages.spills.any (fun m => m.fn == f.val) = false) ∧ f.val ∉ u.pages.spillStopped ∧ f.val ∈ u.pages.spilling)
    ∧ (∃ s u : State, ∃ f : Fn, Clocked s ∧ u = { s with pages := s.pages.watch f } ∧ (u.serves f = false ∨ u.pages.spills.any (fun m => m.fn == f.val) = true ∨ f.val ∈ u.pages.spillStopped ∨ f.val ∉ u.pages.spilling))
    ∧ (∃ s u : State, ∃ f : Fn, ∃ m : PageMove, ∃ a b : Nat, Clocked s ∧ (s.pages.spills.find? (fun m => m.fn == f.val) = some m) ∧ m.frames = some (a, b) ∧ s.mem.spillError a b = none ∧ u = { s with pages := { s.pages with spills := s.pages.spills.erase m } })
    ∧ (∃ s u : State, ∃ f : Fn, ∃ m : PageMove, ∃ a b : Nat, ∃ e : Args, Clocked s ∧ (s.pages.spills.find? (fun m => m.fn == f.val) = some m) ∧ m.frames = some (a, b) ∧ s.mem.spillError a b = some e ∧ u = { s with pages := { s.pages with spills := s.pages.spills.erase m } })
    ∧ (∃ s u : State, ∃ f : Fn, ∃ m : PageMove, ∃ a b : Nat, Clocked s ∧ s.pages.nextPrefetch f = some m ∧ m.frames = some (a, b) ∧ u = { s with pages := { s.pages with prefetches := s.pages.prefetches.erase m } })
    ∧ (∃ s u : State, ∃ f : Fn, ∃ v : Invalidation, Clocked s ∧ (s.pages.invalidations.find? (fun v => v.fn == f.val) = some v) ∧ u = { s with pages := { s.pages with invalidations := s.pages.invalidations.erase v } })
    ∧ (∃ s : State, ∃ f : Fn, Clocked s) :=
  ⟨⟨sp, spu, 0, by decide +kernel⟩,
    ⟨off, { off with pages := off.pages.watch 0 }, 0, by decide +kernel⟩,
    ⟨sp3, { sp3 with pages := { sp3.pages with spills := [] } }, 0, pm, 5, fastFrames + 9, by decide +kernel⟩,
    ⟨sp4, sp4b, 0, pm, 5, fastFrames + 9, accErr stUncorrectable 0 0x50100 1, by decide +kernel⟩,
    ⟨pf1, { pf1 with pages := { pf1.pages with prefetches := [] } }, 0, pf, fastFrames + 9, 7, by decide +kernel⟩,
    ⟨iv, sp, 0, ⟨0, [5]⟩, by decide +kernel⟩,
    ⟨sp, 0, by decide +kernel⟩⟩

/-- States and operands that meet the hypotheses of Obligations.pages_are_spilled_and_fetched (its part on the page engine moves pages), clause by clause. -/
theorem witness_the_page_engine_moves_pages :
    (∃ s : State, ∃ f i p : Nat, ∃ l : Leaf, s.mem.ue = [] ∧ s.leaf f p = .ok (some l))
    ∧ (∃ s : State, ∃ f : Nat, ∃ l : List (Nat × Nat), ∃ c : Spillable, s.pickSpill f l = .ok (some c))
    ∧ (∃ s : State, ∃ f : Nat, ∃ l : List (Nat × Nat), ∃ x ∈ l, s.pickSpill f l = .ok none)
    ∧ (∃ s : State, ∃ f i p : Nat, (i, p) ∈ s.spillPages f)
    ∧ (∃ s : State, ∃ f e : Nat, ∃ c : Spillable, s.mem.ue = [] ∧ twf {} s.pages.recs = true ∧ s.pickSpill f (s.spillPages f) = .ok (some c) ∧ (s.pageRec f).freePannier ≠ 0 ∧ e = fastFrames + s.mem.readLe ((s.pageRec f).pannierStack.toNat + 4 * ((s.pageRec f).freePannier.toNat - 1)) 4 % 2 ^ 25)
    ∧ (∃ s : State, ∃ f : Nat, ∃ c : Spillable, s.pickSpill f (s.spillPages f) = .ok (some c) ∧ (s.pageRec f).freePannier = 0)
    ∧ (∃ s : State, ∃ f : Nat, s.pickSpill f (s.spillPages f) = .ok none)
    ∧ (∃ s : State, ∃ f a b x : Nat, ∃ m : PageMove, ∃ w : MemState, w = ((s.mem.copyFrame a b).spillFilled (b - fastFrames)).ftPut s.pages.ft b { count := 1, st := 2, fn := f, epoch := (s.pageRec f).stepEpoch.toNat } ∧ State.leafSlot { s with mem := w } f m.page = .ok (some x) ∧ s.mem.ue = [])
    ∧ (∃ s : State, ∃ f a b x : Nat, ∃ m : PageMove, ∃ w : MemState, w = (s.mem.copyFrame a b).ftPut s.pages.ft b { count := 1, st := 2, fn := f, epoch := (s.pageRec f).stepEpoch.toNat } ∧ State.leafSlot { s with mem := w } f m.page = .ok (some x) ∧ s.mem.ue = [])
    ∧ (∃ s u : State, ∃ f a b g : Nat, ∃ m : PageMove, s.mem.ftUe s.pages.ft a = none ∧ (u = { s with mem := ((s.mem.ftMod s.pages.ft a (fun x => { x with st := 2 })).note g false .uncorrectable).spillFilled (b - fastFrames), pages := { s.pages with spillSkip := s.pages.spillSkip ++ [(f, m.page, ((s.pageRec f).stepEpoch - BitVec.ofNat 16 (min ((s.pageRec f).stepEpoch - BitVec.ofNat 16 (s.mem.ftGet s.pages.ft a).epoch).toNat ((s.pageRec f).stepEpoch - (s.seq m.seq).lastUse).toNat)).toNat)] } }))
    ∧ (∃ s u : State, ∃ f b g : Nat, ∃ m : PageMove, u = { s with mem := s.mem.note g false .uncorrectable, pages := s.pages.setRec f { s.pageRec f with occupancy := (s.pageRec f).occupancy - 1 } })
    ∧ (∃ s : State, ∃ f e : Nat, s.mem.ue = [])
    ∧ (∃ s : State, ∃ f e : Nat, s.mem.ue = [])
    ∧ (∃ s : State, ∃ f e : Nat, s.mem.ftUe s.pages.ft e = none ∧ 1 < (s.mem.ftGet s.pages.ft e).count)
    ∧ (∃ s t : State, ∃ f e : Nat, s.mem.ftUe s.pages.ft e = none ∧ (s.mem.ftGet s.pages.ft e).count ≤ 1 ∧ s.quarantine f e = .ok t)
    ∧ (∃ s : State, ∃ f e : Nat, s.mem.ue = [] ∧ e < fastFrames)
    ∧ (∃ s : State, ∃ f e : Nat, ∃ w : MemState, s.mem.ue = [] ∧ fastFrames ≤ e ∧ w = s.mem.ftPut s.pages.ft e { count := 0, st := 1, fn := f, epoch := 0 })
    ∧ (∃ s u : State, ∃ f n e : Nat, ∃ rest : List Nat, s.mem.ue = [] ∧ tget [] s.pages.ring f = e :: rest ∧ ((s.pageRec f).retiredEpoch - BitVec.ofNat 16 (s.mem.ftGet s.pages.ft e).epoch).toNat < 2 ^ 15 ∧ u = { s with pages := { s.pages with ring := tset [] s.pages.ring f rest, ringHead := tset 0 s.pages.ringHead f ((tget 0 s.pages.ringHead f + 1) % max 1 (s.pageRec f).quarCap.toNat), recs := tset {} s.pages.recs f { s.pageRec f with quarantined := (s.pageRec f).quarantined - 1 } } })
    ∧ (∃ s : State, ∃ f n e : Nat, ∃ rest : List Nat, s.mem.ue = [] ∧ tget [] s.pages.ring f = e :: rest ∧ 2 ^ 15 ≤ ((s.pageRec f).retiredEpoch - BitVec.ofNat 16 (s.mem.ftGet s.pages.ft e).epoch).toNat)
    ∧ (∃ s : State, ∃ f : Nat, tget [] s.seqs.lists f ≠ [])
    ∧ (∃ s : State, ∃ f : Nat, tget [] s.seqs.lists f = [])
    ∧ (∃ s : State, ∃ f n : Nat, ∃ m : PageMove, ∃ l : Leaf, s.mem.ue = [] ∧ s.pages.nextPrefetch f = some m ∧ m.frames = none ∧ s.leaf f m.page = .ok (some l) ∧ l.spilled = true ∧ (s.mem.ftGet s.pages.ft l.frame).st = 2 ∧ (s.mem.ftGet s.pages.ft l.frame).count = 1 ∧ (s.pageRec f).freeFast = 0)
    ∧ (∃ s : State, ∃ f n e : Nat, ∃ m : PageMove, ∃ l : Leaf, s.mem.ue = [] ∧ twf {} s.pages.recs = true ∧ s.pages.nextPrefetch f = some m ∧ m.frames = none ∧ s.leaf f m.page = .ok (some l) ∧ l.spilled = true ∧ (s.mem.ftGet s.pages.ft l.frame).st = 2 ∧ (s.mem.ftGet s.pages.ft l.frame).count = 1 ∧ (s.pageRec f).freeFast ≠ 0 ∧ e = s.mem.readLe ((s.pageRec f).fastStack.toNat + 4 * ((s.pageRec f).freeFast.toNat - 1)) 4 % 2 ^ 25)
    ∧ (∃ s : State, ∃ f n : Nat, ∃ m : PageMove, ∃ l : Leaf, s.mem.ue = [] ∧ s.pages.nextPrefetch f = some m ∧ m.frames = none ∧ s.leaf f m.page = .ok (some l) ∧ (¬ (l.spilled = true ∧ (s.mem.ftGet s.pages.ft l.frame).st = 2 ∧ (s.mem.ftGet s.pages.ft l.frame).count = 1)))
    ∧ (∃ p : PageState, ∃ f : Nat, p.spilling.Nodup)
    ∧ (∃ s : State, ∃ f page : Nat, ∃ x a : Nat, s.mem.ue = [] ∧ s.leafSlot f page = .ok (some a) ∧ x = s.mem.readLe a 8) :=
  ⟨⟨sp, 0, 0, 3, ⟨5, true, false⟩, by decide +kernel⟩,
    ⟨sp, 0, sp.spillPages 0, cand, by decide +kernel⟩,
    ⟨sp, 0, [(0, 1), (0, 2)], (0, 1), by decide, by decide +kernel⟩,
    ⟨sp, 0, 0, 3, by decide +kernel⟩,
    ⟨sp, 0, fastFrames + 9, cand, by decide +kernel⟩,
    ⟨sp0, 0, cand, by decide +kernel⟩,
    ⟨spN, 0, by decide +kernel⟩,
    ⟨sp, 0, 5, fastFrames + 9, 0x20000 + 8 * 3, pm, _, rfl, spw_slot, by decide +kernel⟩,
    ⟨pf0, 0, fastFrames + 9, 7, 0x20000 + 8 * 3, pf, _, rfl, pfw_slot, by decide +kernel⟩,
    ⟨sp4b, spf, 0, 5, fastFrames + 9, 0x50100, pm, by decide +kernel⟩,
    ⟨pf0, { pf0 with mem := pf0.mem.note 0x50100 false .uncorrectable, pages := pf0.pages.setRec 0 { pf0.pageRec 0 with occupancy := (pf0.pageRec 0).occupancy - 1 } }, 0, 7, 0x50100, pf, by decide +kernel⟩,
    ⟨sp, 0, 5, by decide +kernel⟩,
    ⟨sp, 0, fastFrames + 5, by decide +kernel⟩,
    ⟨sp2, 0, 5, by decide +kernel⟩,
    ⟨sp, okS (sp.quarantine 0 5), 0, 5, by decide +kernel⟩,
    ⟨sp, 0, 5, by decide +kernel⟩,
    ⟨sp, 0, fastFrames + 5, sp.mem.ftPut sp.pages.ft (fastFrames + 5) ⟨0, 1, 0, 0⟩, by decide +kernel⟩,
    ⟨qr, { qr with pages := { qr.pages with ring := [], ringHead := [(0, 1)], recs := tset {} qr.pages.recs 0 { qr.pageRec 0 with quarantined := 0 } } }, 0, 1, 5, [], by decide +kernel⟩,
    ⟨qr2, 0, 1, 5, [], by decide +kernel⟩,
    ⟨spl, 0, by decide +kernel⟩,
    ⟨qr2, 0, by decide +kernel⟩,
    ⟨fd 1 0, 0, 1, { pf with frames := none }, ⟨fastFrames + 9, false, true⟩, by decide +kernel⟩,
    ⟨fd 1 1, 0, 1, 11, { pf with frames := none }, ⟨fastFrames + 9, false, true⟩, by decide +kernel⟩,
    ⟨fd 2 1, 0, 1, { pf with frames := none }, ⟨fastFrames + 9, false, true⟩, by decide +kernel⟩,
    ⟨sp.pages, 0, by decide +kernel⟩,
    ⟨sp, 0, 3, 0x50005, 0x20018, by decide +kernel⟩⟩

/-- States and operands that meet the hypotheses of Obligations.pages_are_spilled_and_fetched (its part on pages are shared and released), clause by clause. -/
theorem witness_pages_are_shared_and_released :
    (∃ s t : State, ∃ f : Fn, ∃ m : Mb, ∃ w : ShareWait, ∃ st : Nat, Admitted shareForm s f m ∧ s.seqRefusal (s.ctl.req f m) w.source = none ∧ s.seqRefusal (s.ctl.req f m) w.target = none ∧ s.serves f = true ∧ w = { source := (s.ctl.req f m).u32 0, target := (s.ctl.req f m).u32 4, first := (s.ctl.req f m).u32 8, last := (s.ctl.req f m).u32 12, cmd := (s.ctl.req f m).cmd } ∧ w.last ≤ (s.pageRec f).pagesMax.toNat ∧ (s.settleShare f w).serves f = true ∧ State.doShare f w (s.settleShare f w) = .ok (t, st) ∧ (st ≠ stOk ∨ (s.settleShare f w).shareEarly w = false))
    ∧ (∃ s t : State, ∃ f : Fn, ∃ m : Mb, ∃ w : ShareWait, ∃ st : Nat, Admitted shareForm s f m ∧ s.seqRefusal (s.ctl.req f m) w.source = none ∧ s.seqRefusal (s.ctl.req f m) w.target = none ∧ s.serves f = true ∧ w = { source := (s.ctl.req f m).u32 0, target := (s.ctl.req f m).u32 4, first := (s.ctl.req f m).u32 8, last := (s.ctl.req f m).u32 12, cmd := (s.ctl.req f m).cmd } ∧ w.last ≤ (s.pageRec f).pagesMax.toNat ∧ (s.settleShare f w).serves f = true ∧ State.doShare f w (s.settleShare f w) = .ok (t, st) ∧ (st ≠ stOk ∨ (s.settleShare f w).shareEarly w = false))
    ∧ (∃ s t : State, ∃ f : Fn, ∃ m : Mb, ∃ w : ShareWait, Admitted shareForm s f m ∧ s.seqRefusal (s.ctl.req f m) w.source = none ∧ s.seqRefusal (s.ctl.req f m) w.target = none ∧ s.serves f = true ∧ w = { source := (s.ctl.req f m).u32 0, target := (s.ctl.req f m).u32 4, first := (s.ctl.req f m).u32 8, last := (s.ctl.req f m).u32 12, cmd := (s.ctl.req f m).cmd } ∧ w.last ≤ (s.pageRec f).pagesMax.toNat ∧ (s.settleShare f w).serves f = true ∧ State.doShare f w (s.settleShare f w) = .ok (t, stOk) ∧ (s.settleShare f w).shareEarly w = true)
    ∧ (∃ s u : State, ∃ f : Fn, ∃ m : Mb, ∃ i : Nat, ∃ e : SeqEntry, Admitted pageReleaseForm s f m ∧ i = (s.ctl.req f m).u32 0 ∧ e = s.seq i ∧ s.seqRefusal (s.ctl.req f m) i = none ∧ s.serves f = true ∧ e.live = true ∧ (s.ctl.req f m).u32 8 ≤ (s.pageRec f).pagesMax.toNat ∧ u = s.settleMoves f (pageIn (s.pageRec f) e.vbase.toNat ((s.ctl.req f m).u32 4) ((s.ctl.req f m).u32 8)) ∧ u.serves f = true)
    ∧ (∃ s : State, ∃ f : Fn, ∃ m : Mb, Admitted pageReleaseForm s f m ∧ s.seqRefusal (s.ctl.req f m) ((s.ctl.req f m).u32 0) = none ∧ s.serves f = true ∧ (s.seq ((s.ctl.req f m).u32 0)).live = false)
    ∧ (∃ s : State, ∃ f : Nat, ∃ x : SharePage, ∃ l : Leaf, ∃ t : Option Leaf, s.mem.ue = [] ∧ s.leaf f x.src = .ok (some l) ∧ s.leaf f x.dst = .ok t)
    ∧ (∃ s : State, ∃ f : Nat, ∃ x : SharePage, ∃ t : Option Leaf, s.leaf f x.src = .ok none ∧ s.leaf f x.dst = .ok t)
    ∧ (∃ s : State, ∃ f a b : Nat, ∃ l : List SharePage, State.shareChecks f s l = .ok (a, b))
    ∧ (∃ s : State, ∃ f : Nat, ∃ x : SharePage, ∃ l : Leaf, ∃ w : MemState, ∃ a b : Nat, s.mem.ue = [] ∧ s.leaf f x.src = .ok (some l) ∧ (w = s.mem.ftMod s.pages.ft l.frame (fun e => { e with count := e.count + 1 })) ∧ State.leafSlot { s with mem := w } f x.dst = .ok (some b) ∧ State.leafSlot { s with mem := w.write b (leafBytes (some { l with write := false })) } f x.src = .ok (some a))
    ∧ (∃ s : State, ∃ f lim occ : Nat, ∃ w : ShareWait, ∃ ps : List SharePage, ps = (seqPages (s.pageRec f) (s.seq w.source).vbase.toNat w.first w.last).zipWith SharePage.mk (seqPages (s.pageRec f) (s.seq w.target).vbase.toNat w.first w.last) ∧ (s.seq w.source).live = true ∧ (s.seq w.target).live = true ∧ State.shareChecks f s ps = .ok (lim, occ) ∧ (lim ≠ 0 ∨ occ ≠ 0))
    ∧ (∃ s t : State, ∃ f : Nat, ∃ w : ShareWait, ∃ ps : List SharePage, ps = (seqPages (s.pageRec f) (s.seq w.source).vbase.toNat w.first w.last).zipWith SharePage.mk (seqPages (s.pageRec f) (s.seq w.target).vbase.toNat w.first w.last) ∧ (s.seq w.source).live = true ∧ (s.seq w.target).live = true ∧ State.shareChecks f s ps = .ok (0, 0) ∧ pagedEach (State.sharePage f) ps s = .ok t)
    ∧ (∃ s : State, ∃ f : Nat, ∃ w : ShareWait, ((s.seq w.source).live = false ∨ (s.seq w.target).live = false))
    ∧ (∃ s : State, ∃ f page a : Nat, ∃ l : Leaf, s.mem.ue = [] ∧ s.leaf f page = .ok (some l) ∧ s.leafSlot f page = .ok (some a))
    ∧ (∃ s : State, ∃ f page : Nat, s.leaf f page = .ok none)
    ∧ (∃ s u v w : State, ∃ f : Nat, ∃ ps : List Nat, pagedEach (State.releasePage f) ps s = .ok u ∧ u.sweepIdle f = .ok v ∧ v.feedPrefetch f = .ok w) :=
  ⟨⟨sh 1, okP (State.doShare 0 shw ((sh 1).settleShare 0 shw)), 0, 0, shw, 0, by decide +kernel⟩,
    ⟨sh 65535, okP (State.doShare 0 shw ((sh 65535).settleShare 0 shw)), 0, 0, shw, stShareLimit, by decide +kernel⟩,
    ⟨shl, okP (State.doShare 0 shw (shl.settleShare 0 shw)), 0, 0, shw, by decide +kernel⟩,
    ⟨rl, rl.settleMoves 0 (pageIn (rl.pageRec 0) 0 0 16), 0, 0, 0, rl.seq 0, by decide +kernel⟩,
    ⟨asked { sh 1 with ctl := {} } 0 0 0x40E (ws [5, 0, 16]), 0, 0, by decide +kernel⟩,
    ⟨sh 65535, 0, ⟨3, 18⟩, ⟨5, true, false⟩, none, by decide +kernel⟩,
    ⟨sh 1, 0, ⟨4, 3⟩, some ⟨5, true, false⟩, by decide +kernel⟩,
    ⟨sh 65535, 0, 1, 0, [⟨2, 18⟩, ⟨3, 19⟩], by decide +kernel⟩,
    ⟨sh 1, 0, ⟨3, 19⟩, ⟨5, true, false⟩, shm, 0x20018, 0x20000 + 8 * 19, by decide +kernel⟩,
    ⟨sh 65535, 0, 1, 0, shw, (seqPages ((sh 1).pageRec 0) 0 2 4).zipWith SharePage.mk (seqPages ((sh 1).pageRec 0) 0x100000 2 4), by decide +kernel⟩,
    ⟨sh 1, okS (pagedEach (State.sharePage 0) ((seqPages ((sh 1).pageRec 0) 0 2 4).zipWith SharePage.mk (seqPages ((sh 1).pageRec 0) 0x100000 2 4)) (sh 1)), 0, shw, (seqPages ((sh 1).pageRec 0) 0 2 4).zipWith SharePage.mk (seqPages ((sh 1).pageRec 0) 0x100000 2 4), by decide +kernel⟩,
    ⟨sp, 0, shw, by decide +kernel⟩,
    ⟨sh 1, 0, 3, 0x20018, ⟨5, true, false⟩, by decide +kernel⟩,
    ⟨sh 1, 0, 4, by decide +kernel⟩,
    ⟨sh 1, rl2, okS (rl2.sweepIdle 0), okS (State.feedPrefetch 0 (okS (rl2.sweepIdle 0))), 0, [3], by decide +kernel⟩⟩

end W12

namespace W13

set_option maxRecDepth 100000
set_option linter.unusedVariables false

def okS (x : Paged State) : State := match x with | .ok t => t | _ => {}
def lv : List (Nat × Leaf) := [(3, ⟨5, true, false⟩), (4, ⟨6, true, false⟩)]
def lf : List (Nat × FtEntry) := [(5, ⟨1, ftMapped, 0, 0⟩), (6, ⟨1, ftMapped, 0, 0⟩)]
def pc : CtxRec := { st := .running, seqQuota := 2, coreMask := 1, clusterEntries := 1, tokenCap := 100, listStage := 0x30000, listLive := 0x40000 }
def pg : State := (paging lv lf).setCtx 0 pc
def wS (s : State) (e : SeqEntry) : State := { s with seqs := { s.seqs with seqs := [(0, e)] } }
def cr (s : State) : State := asked s 0 0 0x408 (ws [7, 0x10000, 5, 9, 0x200000, 0])
def rt : State := asked (wS pg { st := .active, listed := true }) 0 0 0x40C (ws [0])
def oo (code : Nat) (ps : List Nat) : State := asked (wS pg { st := .active, fn := 3 }) 0 0 code (ws ps)
def lo : State := asked (wS pg { st := .active, stepTokens := 16, append := 1 }) 0 0 0x40F []
def bl : BrewList := { epoch := 5, cmd := { fn := 0, code := 0x40F, tag := 7 } }
def wL (s : State) (l : List BrewList) : State := { s with seqs := { s.seqs with lists := [(0, l)] } }
def cw (b : Bool) : List CowCopy := [⟨3, 5, 9, b⟩, ⟨4, 6, 10, b⟩]
def ap (b : Bool) : Append := { fn := 0, seq := 0, popped := [9, 10], copies := cw b, fresh := [], writable := [], cluster := 0 }
def wA (s : State) (a : Append) : State := { s with pages := { s.pages with appends := [a] } }
def ns (s : State) : State := { s with pages := { s.pages with ftValid := false } }
def bb : State := wL (ns (wS pg { st := .active })) [bl]
def bbl : List Nat := ((bb.brew 0).lookahead 0 bl.epoch).2
def bbv : State := ((bb.brew 0).lookahead 0 bl.epoch).1
def bbb : BrewList := (bbv.seqs.building 0).getD bl
def blB : BrewList := { bl with phase := .built }
def blR : BrewList := { bl with phase := .released, closed := true }
def br : State := wL (ns (wS pg { st := .retiring, listed := true, listEpoch := 5 })) [blR]
def bs : State := wL (wS pg { st := .active }) [bl]
def bsl : List Nat := (bs.lookahead 0 bl.epoch).2
def bsv : State := (bs.lookahead 0 bl.epoch).1
def brs : State := wL (wS pg { st := .retiring, listed := true, listEpoch := 5 }) [blR]
def bru : State := State.modRec { brs with seqs := { brs.seqs with lists := [] } } 0 (fun r => { r with retiredEpoch := 5 })
def okN (x : Paged (State × Nat)) : State × Nat := match x with | .ok t => t | _ => ({}, 0)
def brv : State := (okN (bru.sweep 0)).1
def bry : State := (brv.unlist 0 5).sharesDue 0
def erN (x : Paged (State × Nat)) : Nat := match x with | .error t => t | _ => 0
def bre : State := { brs with mem := { brs.mem with ue := [0xA00] }, pages := { brs.pages with ring := [(0, [5])] } }
def breu : State := State.modRec { bre with seqs := { bre.seqs with lists := [] } } 0 (fun r => { r with retiredEpoch := 5 })

/-- States and operands that meet the hypotheses of Obligations.sequences_live_and_end, clause by clause. -/
theorem witness_sequences_live_and_end :
    (∃ s : State, ∃ f : Fn, ∃ m : Mb, ∃ i : Nat, Admitted createForm s f m ∧ s.serves f = true ∧ s.rangeFree f ((s.ctl.req f m).u64 16) = .ok true ∧ (s.seqs.ofFn f).length < (s.ctxOf f).seqQuota.toNat ∧ i < 4096 ∧ (s.seq i).st = .free ∧ ((∀ k < i, (s.seq k).st ≠ .free)))
    ∧ (∃ s : State, ∃ f : Fn, ∃ m : Mb, Admitted createForm s f m ∧ s.serves f = true ∧ s.rangeFree f ((s.ctl.req f m).u64 16) = .ok true ∧ (s.ctxOf f).seqQuota.toNat ≤ (s.seqs.ofFn f).length)
    ∧ (∃ s : State, ∃ f : Fn, ∃ m : Mb, ∃ i : Nat, Admitted setForm s f m ∧ i = (s.ctl.req f m).u32 0 ∧ s.seqRefusal (s.ctl.req f m) i = none ∧ (s.seq i).runs = true ∧ ((s.seq i).with (s.ctl.req f m)).append ≤ ((s.seq i).with (s.ctl.req f m)).stepTokens)
    ∧ (∃ s : State, ∃ f : Fn, ∃ m : Mb, ∃ i : Nat, Admitted (seqForm 0x040A) s f m ∧ i = (s.ctl.req f m).u32 0 ∧ s.seqRefusal (s.ctl.req f m) i = none ∧ (((s.seq i).st = .active ∨ (s.seq i).st = .parkedNoPage)))
    ∧ (∃ s : State, ∃ f : Fn, ∃ m : Mb, ∃ i : Nat, Admitted (seqForm 0x040B) s f m ∧ i = (s.ctl.req f m).u32 0 ∧ s.seqRefusal (s.ctl.req f m) i = none ∧ (s.seq i).st = .parkedHost ∧ (s.seq i).parkReason ≠ 3)
    ∧ (∃ s : State, ∃ f : Fn, ∃ m : Mb, ∃ i : Nat, Admitted (seqForm 0x040B) s f m ∧ i = (s.ctl.req f m).u32 0 ∧ s.seqRefusal (s.ctl.req f m) i = none ∧ (s.seq i).st ≠ .parkedHost)
    ∧ (∃ s t : State, ∃ f : Fn, ∃ m : Mb, ∃ i : Nat, ∃ all : List Nat, Admitted (seqForm 0x040C) s f m ∧ i = (s.ctl.req f m).u32 0 ∧ s.seqRefusal (s.ctl.req f m) i = none ∧ (s.seq i).st = .active ∧ all = seqPages (s.pageRec f) (s.seq i).vbase.toNat 0 (s.pageRec f).pagesMax.toNat ∧ State.releaseAll f all (s.settleMoves f all.contains) = .ok t) :=
  ⟨⟨cr (wS pg { st := .active }), 0, 0, 1, by decide +kernel⟩,
    ⟨cr ((wS pg { st := .active }).setCtx 0 { pc with seqQuota := 1 }), 0, 0, by decide +kernel⟩,
    ⟨asked (wS pg { st := .active }) 0 0 0x409 (ws [0, 15, 7, 0x10000, 0x10000, 9]), 0, 0, 0, by decide +kernel⟩,
    ⟨asked (wS pg { st := .active }) 0 0 0x40A (ws [0]), 0, 0, 0, by decide +kernel⟩,
    ⟨asked (wS pg { st := .parkedHost, parkReason := 2 }) 0 0 0x40B (ws [0]), 0, 0, 0, by decide +kernel⟩,
    ⟨asked (wS pg { st := .active }) 0 0 0x40B (ws [4095]), 0, 0, 4095, by decide +kernel⟩,
    ⟨rt, okS (State.releaseAll 0 (List.range 16) (rt.settleMoves 0 (List.range 16).contains)), 0, 0, 0, List.range 16, by decide +kernel⟩⟩

/-- States and operands that meet the hypotheses of Obligations.sequences_live_and_end (its part on sequences obey their owner), clause by clause. -/
theorem witness_sequences_obey_their_owner :
    (∃ s : State, ∃ f : Fn, ∃ m : Mb, ∃ i : Nat, ∃ alien : Prop, i = (s.ctl.req f m).u32 0 % 4096 ∧ ((alien ↔ (s.seq i).st ≠ .free ∧ (s.seq i).fn.toNat ≠ f.val)))
    ∧ (∃ s : State, ∃ f : Fn, ∃ m : Mb, ∃ i : Nat, ∃ alien : Prop, i = (s.ctl.req f m).u32 0 % 4096 ∧ ((alien ↔ (s.seq i).st ≠ .free ∧ (s.seq i).fn.toNat ≠ f.val)) ∧ Presented setForm s f m ∧ alien)
    ∧ (∃ s : State, ∃ f : Fn, ∃ m : Mb, ∃ i : Nat, ∃ alien : Prop, i = (s.ctl.req f m).u32 0 % 4096 ∧ ((alien ↔ (s.seq i).st ≠ .free ∧ (s.seq i).fn.toNat ≠ f.val)) ∧ Presented (seqForm 0x040A) s f m ∧ alien)
    ∧ (∃ s : State, ∃ f : Fn, ∃ m : Mb, ∃ i : Nat, ∃ alien : Prop, i = (s.ctl.req f m).u32 0 % 4096 ∧ ((alien ↔ (s.seq i).st ≠ .free ∧ (s.seq i).fn.toNat ≠ f.val)) ∧ Presented (seqForm 0x040B) s f m ∧ alien)
    ∧ (∃ s : State, ∃ f : Fn, ∃ m : Mb, ∃ i : Nat, ∃ alien : Prop, i = (s.ctl.req f m).u32 0 % 4096 ∧ ((alien ↔ (s.seq i).st ≠ .free ∧ (s.seq i).fn.toNat ≠ f.val)) ∧ Presented (seqForm 0x040C) s f m ∧ alien)
    ∧ (∃ s : State, ∃ f : Fn, ∃ m : Mb, ∃ i : Nat, ∃ alien : Prop, i = (s.ctl.req f m).u32 0 % 4096 ∧ ((alien ↔ (s.seq i).st ≠ .free ∧ (s.seq i).fn.toNat ≠ f.val)) ∧ Presented pageReleaseForm s f m ∧ alien) :=
  ⟨⟨asked (wS pg { st := .active, fn := 3 }) 0 0 0x409 (ws [0, 15, 7, 0x10000, 0x10000, 9]), 0, 0, 0, True, by decide +kernel⟩,
    ⟨oo 0x409 [0, 15, 7, 0x10000, 0x10000, 9], 0, 0, 0, True, by decide +kernel⟩,
    ⟨oo 0x40A [0], 0, 0, 0, True, by decide +kernel⟩,
    ⟨oo 0x40B [0], 0, 0, 0, True, by decide +kernel⟩,
    ⟨oo 0x40C [0], 0, 0, 0, True, by decide +kernel⟩,
    ⟨oo 0x40E [0, 0, 0], 0, 0, 0, True, by decide +kernel⟩⟩

/-- States and operands that meet the hypotheses of Obligations.brew_lists_live_and_retire, clause by clause. -/
theorem witness_brew_lists_live_and_retire :
    (∃ s : State, ∃ f : Fn, ∃ m : Mb, Admitted listOpenForm s f m ∧ s.serves f = true ∧ (tget [] s.seqs.lists f).length < 2 ∧ s.listBad f (s.ctxOf f).listStage.toNat (s.ctxOf f).listLen = none ∧ s.listBad f (s.ctxOf f).listLive.toNat (s.ctxOf f).listLen = none)
    ∧ (∃ s : State, ∃ f : Fn, ∃ m : Mb, Admitted listOpenForm s f m ∧ s.serves f = true ∧ 2 ≤ (tget [] s.seqs.lists f).length)
    ∧ (∃ s : State, ∃ f : Fn, ∃ a : Append, Clocked s ∧ (s.pages.appends.find? (fun a => a.fn == f.val) = some a) ∧ (s.ctxOf f).st ≠ .saved ∧ ((∀ c ∈ a.copies, c.copied = true)))
    ∧ (∃ s : State, ∃ f : Fn, ∃ a : Append, ∃ c d : CowCopy, Clocked s ∧ s.pages.appends = [a] ∧ a.fn = f ∧ a.copies = [c, d] ∧ c.copied = false ∧ d.copied = false ∧ c ≠ d ∧ s.mem.frameUe c.source = none)
    ∧ (∃ s u v : State, ∃ f : Fn, ∃ l : BrewList, ∃ look : List Nat, Clocked s ∧ u = s.brew f ∧ u.seqs.building f = some l ∧ l.todo = [] ∧ u.pages.appends = [] ∧ u.pages.invalidations = [] ∧ (u.ctxOf f).st ≠ .saved ∧ u.lookahead f l.epoch = (v, look) ∧ v.serves f = false)
    ∧ (∃ s : State, ∃ f : Fn, ∃ l : BrewList, ∃ rest : List BrewList, Clocked s ∧ tget [] s.seqs.lists f = l :: rest ∧ l.phase = .built ∧ (s.ctxOf f).st ≠ .saved)
    ∧ (∃ s : State, ∃ f : Fn, ∃ m : Mb, ∃ l : BrewList, Admitted listCloseForm s f m ∧ s.seqOpen f = true ∧ ((tget [] s.seqs.lists f).find? (fun l => l.epoch == BitVec.ofNat 16 ((s.ctl.req f m).u32 0)) = some l) ∧ l.phase ≠ .open)
    ∧ (∃ s u : State, ∃ f : Fn, ∃ l : BrewList, ∃ rest : List BrewList, Clocked s ∧ tget [] s.seqs.lists f = l :: rest ∧ l.phase = .released ∧ l.closed = true ∧ l.chains = 0 ∧ (u = { s with seqs := { s.seqs with lists := tmod [] s.seqs.lists f (fun x => x.drop 1) } }.modRec f (fun r => { r with retiredEpoch := l.epoch })) ∧ u.serves f = false)
    ∧ (∃ s : State, ∃ f : Fn, ∃ l : BrewList, ∃ rest : List BrewList, Clocked s ∧ tget [] s.seqs.lists f = l :: rest ∧ ((l.phase ≠ .released ∨ l.closed = false ∨ l.chains ≠ 0)))
    ∧ (∃ s q : State, ∃ f : Nat, ∃ cmd : CmdRef, twf {} s.seqs.seqs = true ∧ twf [] s.seqs.lists = true ∧ twf {} s.pages.recs = true ∧ q = s.openList f cmd) :=
  ⟨⟨lo, 0, 0, by decide +kernel⟩,
    ⟨wL lo [bl, { bl with epoch := 6 }], 0, 0, by decide +kernel⟩,
    ⟨wL (wA (wS pg { st := .active, stepTokens := 16, append := 1 }) (ap true)) [bl], 0, ap true, by decide +kernel⟩,
    ⟨wL (wA (wS pg { st := .active }) (ap false)) [bl], 0, ap false, ⟨3, 5, 9, false⟩, ⟨4, 6, 10, false⟩, by decide +kernel⟩,
    ⟨bb, bb.brew 0, bbv, 0, ((bb.brew 0).seqs.building 0).getD bl, bbl, by decide +kernel⟩,
    ⟨wL pg [blB], 0, blB, [], by decide +kernel⟩,
    ⟨asked (wL pg [blB]) 0 0 0x410 (ws [5]), 0, 0, blB, by decide +kernel⟩,
    ⟨br, State.modRec { br with seqs := { br.seqs with lists := [] } } 0 (fun r => { r with retiredEpoch := 5 }), 0, blR, [], by decide +kernel⟩,
    ⟨wL pg [{ blR with chains := 1 }], 0, { blR with chains := 1 }, [], by decide +kernel⟩,
    ⟨lo, lo.openList 0 { fn := 0, code := 0x40F, tag := 7 }, 0, { fn := 0, code := 0x40F, tag := 7 }, by decide +kernel⟩⟩

/-- States and operands that meet the hypotheses of Obligations.brew_list_commands_complete, clause by clause. -/
theorem witness_brew_list_commands_complete :
    (∃ s : State, ∃ f : Fn, ∃ m : Mb, Admitted listOpenForm s f m ∧ s.serves f = true ∧ (tget [] s.seqs.lists f).length < 2 ∧ ((∀ x ∈ grainPieces (s.ctxOf f).listStage.toNat (s.ctxOf f).listLen ++ grainPieces (s.ctxOf f).listLive.toNat (s.ctxOf f).listLen, (match s.listPlace f true x with | .at_ _ => true | .bad _ => false) = true)))
    ∧ (∃ s : State, ∃ f : Fn, ∃ a : Append, ∃ c : CowCopy, Clocked s ∧ (s.pages.appends.find? (fun a => a.fn == f.val) = some a) ∧ (s.ctxOf f).st ≠ .saved ∧ (a.copies.find? (fun x => !x.copied) = some c))
    ∧ (∃ s v : State, ∃ f : Fn, ∃ l : BrewList, ∃ look : List Nat, Clocked s ∧ s.serves f = true ∧ s.seqs.building f = some l ∧ l.todo = [] ∧ ((∀ a ∈ s.pages.appends, a.fn ≠ f.val)) ∧ ((∀ i ∈ s.pages.invalidations, i.fn ≠ f.val)) ∧ (s.ctxOf f).st ≠ .saved ∧ s.lookahead f l.epoch = (v, look))
    ∧ (∃ s : State, ∃ f : Fn, ∃ m : Mb, Admitted listCloseForm s f m ∧ s.seqOpen f = true ∧ ((∀ l, (tget [] s.seqs.lists f).find? (fun l => l.epoch == BitVec.ofNat 16 ((s.ctl.req f m).u32 0)) = some l → l.phase = .open)))
    ∧ (∃ s u v y t : State, ∃ f : Fn, ∃ l : BrewList, ∃ rest : List BrewList, ∃ n : Nat, Clocked s ∧ tget [] s.seqs.lists f = l :: rest ∧ l.phase = .released ∧ l.closed = true ∧ l.chains = 0 ∧ (u = { s with seqs := { s.seqs with lists := tmod [] s.seqs.lists f (fun x => x.drop 1) } }.modRec f (fun r => { r with retiredEpoch := l.epoch })) ∧ u.serves f = true ∧ u.sweep f = .ok (v, n) ∧ y = (v.unlist f l.epoch).sharesDue f ∧ State.feedPrefetch f { y with pages := { y.pages with spillStopped := y.pages.spillStopped.erase f.val } } = .ok t ∧ y.serves f = true)
    ∧ (∃ s u y : State, ∃ f : Fn, ∃ l : BrewList, ∃ rest : List BrewList, ∃ g : Nat, Clocked s ∧ tget [] s.seqs.lists f = l :: rest ∧ l.phase = .released ∧ l.closed = true ∧ l.chains = 0 ∧ (u = { s with seqs := { s.seqs with lists := tmod [] s.seqs.lists f (fun x => x.drop 1) } }.modRec f (fun r => { r with retiredEpoch := l.epoch })) ∧ u.serves f = true ∧ u.sweep f = .error g ∧ y = ((u.stopService f g).unlist f l.epoch).sharesDue f ∧ y.serves f = false)
    ∧ (∃ s : State, ∃ f i : Nat, ∃ e : BitVec 16, twf {} s.seqs.seqs = true)
    ∧ (∃ s : State, ∃ f i : Nat, ∃ e : BitVec 16, twf {} s.seqs.seqs = true) :=
  ⟨⟨lo, 0, 0, by decide +kernel⟩,
    ⟨wL (wA (wS pg { st := .active }) (ap false)) [bl], 0, ap false, ⟨3, 5, 9, false⟩, by decide +kernel⟩,
    ⟨bs, bsv, 0, bl, bsl, by decide +kernel⟩,
    ⟨asked (wL pg [bl]) 0 0 0x410 (ws [5]), 0, 0, by decide +kernel⟩,
    ⟨brs, bru, brv, bry, okS (State.feedPrefetch 0 { bry with pages := { bry.pages with spillStopped := bry.pages.spillStopped.erase 0 } }), 0, blR, [], (okN (bru.sweep 0)).2, by decide +kernel⟩,
    ⟨bre, breu, ((breu.stopService 0 (erN (breu.sweep 0))).unlist 0 5).sharesDue 0, 0, blR, [], erN (breu.sweep 0), by decide +kernel⟩,
    ⟨brs, 0, 0, 5, by decide +kernel⟩,
    ⟨brs, 0, 0, 6, by decide +kernel⟩⟩

end W13

namespace W14

set_option maxRecDepth 100000
set_option linter.unusedVariables false

def hd (seq : Nat) : FrameHdr := { FrameHdr.none with frameSeq := BitVec.ofNat 16 seq, ackSeq := 0xFFFF }
def pu : Port := { st := .up, spokesGood := 31, spare := 4, peerId := 9, peerIdValid := true }
def lu : PortLink := { active := [0, 1, 2, 3], lastValid := [(0, 5), (3, 9)] }
def fb (p : Port) (l : PortLink) : State := { base with fabric := { base.fabric with ports := [(1, p)], links := [(1, l)], deviceId := 7, idValid := true } }
def rt0 : RetryEntry := { frame := { kind := .token, hdr := hd 0, payload := .token 5 } }
def lr : PortLink := { lu with retry := [rt0] }
def tf (seq : Nat) : SeqFrame := { kind := .token, hdr := hd seq, payload := .token 5 }
def op1 (x : State) : State := x
def okN (x : Host.Outcome Sys2Proof.Machine.State Fault Refusal) : State := match x with | .next t => t | _ => {}
def es : State := okN (exec (.frameSlotSent 1 2) (fb pu lu))
def es2 : State := okN (exec (.frameSlotSent 1 2) (fb pu { lu with lastSent := [(2, 100)] }))
def fo (a : Nat) : List Byte := rec (44 + a) [(a, ws [0, 77, 5]), (a + 16, natLe 2 2 ++ natLe 2 1 ++ natLe 2 1 ++ natLe 2 0), (a + 24, ws [9 + 2 ^ 20, 9 + 2 ^ 20]), (a + 40, natLe 2 10)]
def full : Tab Slot := (List.range 64).map (fun i => (i, { valid := true }))
def withSlots (s : State) (l : Tab Slot) : State := { s with fabric := { s.fabric with slots := l } }
def sl : Slot := { valid := true, joined := true, pelotonId := 77, epoch := 4, sizeX := 2, sizeY := 1, posX := 1, nextXId := 9, nextXPort := 1, prevXId := 9, prevXPort := 1, joinLimit := 10, nextOp := 3 }
def j5 : State := asked (withSlots (fb pu lu) [(5, sl)]) 0 0 0x604 (rec 48 [(0, ws [5]), (4, fo 0)])
def jn (a : List Nat) : Joining := { slot := 5, cmd := { fn := 0, code := 0x603, tag := 7 }, since := 4, acked := a, repeatAt := 8 }
def jj (a : List Nat) : State := { withSlots (fb pu lu) [(5, { sl with joined := false })] with fabric := { (withSlots (fb pu lu) [(5, { sl with joined := false })]).fabric with joining := [jn a] } }
def cd (kind slot cap : Nat) (tmo : Nat) (src dst len : Nat) : List Byte := rec 64 [(0, ws [kind + slot * 2 ^ 8, 4]), (8, natLe 8 src), (16, natLe 8 dst), (24, ws [len, cap]), (40, ws [tmo])]
def qd (b : List Byte) (st : Bool) : QDesc := { bytes := b, ordinal := 0, started := st, startNs := 3 }
def cq (s : State) (l : List QDesc) : State := s.setQueue .collective 0 { descs := l, posted := 1 }
def bq := qd (cd 2 5 0 10 0 0 0) false
def cs : State := cq (withSlots (fb pu lu) [(5, sl)]) [bq]
def rq := qd (cd 2 6 0 10 0 0 0) false
def runq (b : List Byte) := qd b true
def opx (b : List Byte) (x : CollOp) : CollOp := { x with desc := runq b }
def op0 (b : List Byte) : CollOp := { slot := 5, fn := 0, desc := runq b, opSeq := 3, digest := 0, overflow := 0 }
def os (o : CollOp) : State := let s := cq (withSlots (fb pu lu) [(5, sl)]) [o.desc]; { s with fabric := { s.fabric with ops := [o] } }
def bar := cd 2 5 0 10 0 0 0
def bdone : CollOp := { op0 bar with tokenX := 2 }
def red := cd 0 5 2 10 0x1000 0x2000 2
def mp (s : State) : State := { s with mem := (mapped base 0x100000 (natLe 4 0x3F800000)).mem }
def rdone : CollOp := { op0 red with final := [(0, [1, 2])] }
def okS (x : Except Args State) : State := match x with | .ok t => t | _ => {}
def rop : CollOp := { op0 red with xs := [0x3F800000, 0x40000000] ++ List.replicate 510 0 }
def sbs : List Byte := natLe 4 0x3F800000 ++ List.replicate 1020 0
def racc : List W32 := ((elementsOf 4 256 sbs).zip (rop.own 0)).map (fun e => collAdd rop.d.type (BitVec.ofNat 32 e.1) e.2)

/-- States and operands that meet the hypotheses of Obligations.link_frames_act_on_their_port, clause by clause. -/
theorem witness_link_frames_act_on_their_port :
    (∃ s : State, ∃ p : PortIx, ∃ k : SpokeIx, ∃ h : FrameHdr, ∃ t : State, Clocked s ∧ (s.port p).hears k = true ∧ (t = s.modLink p (fun l => l.refresh k s.now h)))
    ∧ (∃ s : State, ∃ p : PortIx, ∃ k : SpokeIx, ∃ h : FrameHdr, Clocked s ∧ (s.port p).st = .up ∧ (s.port p).spokesGood.getLsbD k = true ∧ ((∀ o ∈ s.fabric.ops, (s.slot o.slot).ports.contains p.val = false)))
    ∧ (∃ s : State, ∃ p : PortIx, ∃ k : SpokeIx, ∃ h : FrameHdr, ∃ id : BitVec 20, ∃ v : Bool, ∃ port : PortIx, ∃ mask : BitVec 5, Clocked s ∧ (s.port p).spokesGood.getLsbD k = true ∧ (s.port p).spokesGood &&& mask = (s.port p).spokesGood ∧ twf {} s.fabric.ports = true ∧ twf {} s.fabric.links = true)
    ∧ (∃ s : State, ∃ p : PortIx, ∃ k : SpokeIx, ∃ h : FrameHdr, ∃ id : BitVec 20, ∃ v : Bool, ∃ port : PortIx, ∃ mask : BitVec 5, Clocked s ∧ (s.port p).spokesGood.getLsbD k = true ∧ (s.port p).spokesGood &&& mask = (s.port p).spokesGood ∧ twf {} s.fabric.ports = true ∧ twf {} s.fabric.links = true)
    ∧ (∃ s : State, ∃ p : PortIx, ∃ k : SpokeIx, ∃ h : FrameHdr, ∃ id : BitVec 20, ∃ v : Bool, ∃ port : PortIx, ∃ mask : BitVec 5, Clocked s ∧ (s.port p).spokesGood.getLsbD k = true ∧ (s.port p).spokesGood &&& mask = (s.port p).spokesGood ∧ twf {} s.fabric.ports = true ∧ twf {} s.fabric.links = true)
    ∧ (∃ s : State, ∃ p : PortIx, ∃ k : SpokeIx, ∃ h : FrameHdr, ∃ expected : BitVec 16, ∃ l : PortLink, ∃ i : Nat, ∃ e : RetryEntry, Clocked s ∧ (s.port p).st = .up ∧ (s.port p).spokesGood.getLsbD k = true ∧ twf {} s.fabric.links = true ∧ l = (s.link p).refresh k s.now h ∧ (l.retry.findIdx? (fun e => e.frame.hdr.frameSeq == expected) = some i) ∧ l.retry[i]? = some e ∧ e.resends < 16)
    ∧ (∃ s : State, ∃ p : PortIx, ∃ k failed sp : SpokeIx, ∃ h : FrameHdr, Clocked s ∧ (s.port p).st = .up ∧ (s.port p).spokesGood.getLsbD k = true ∧ (s.port p).spokesGood.getLsbD failed = true ∧ (s.port p).spare = BitVec.ofNat 3 sp ∧ sp ≠ failed ∧ twf {} s.fabric.ports = true ∧ twf {} s.fabric.links = true)
    ∧ (∃ s : State, ∃ p : PortIx, ∃ k : SpokeIx, ∃ n : Nat, ∃ frame : List Byte, Clocked s ∧ (s.port p).linked = true ∧ (s.port p).spokesGood.getLsbD k = true ∧ twf {} s.fabric.ports = true ∧ twf {} s.fabric.links = true)
    ∧ (∃ s : State, ∃ p : PortIx, ∃ k : SpokeIx, ∃ n : Nat, ∃ frame : List Byte, Clocked s ∧ (s.port p).linked = true ∧ (s.port p).spokesGood.getLsbD k = true ∧ twf {} s.fabric.ports = true ∧ twf {} s.fabric.links = true)
    ∧ (∃ s : State, ∃ p : PortIx, ∃ k : SpokeIx, ∃ n : Nat, ∃ frame : List Byte, Clocked s ∧ (s.port p).linked = true ∧ (s.port p).spokesGood.getLsbD k = true ∧ twf {} s.fabric.ports = true ∧ twf {} s.fabric.links = true)
    ∧ (∃ s : State, ∃ p : PortIx, ∃ g : Nat, Clocked s ∧ (s.link p).gapSince = some g)
    ∧ (∃ s : State, ∃ p : PortIx, ∃ k : SpokeIx, ∃ h : FrameHdr, ∃ id : BitVec 20, ∃ v : Bool, ∃ port : PortIx, ∃ mask : BitVec 5, Clocked s ∧ (s.port p).spokesGood.getLsbD k = true ∧ (s.port p).spokesGood &&& mask = (s.port p).spokesGood ∧ twf {} s.fabric.ports = true ∧ twf {} s.fabric.links = true ∧ (s.port p).st = .align ∧ tget none (s.link p).negSentAt k = none)
    ∧ (∃ s : State, ∃ p : PortIx, ∃ k : SpokeIx, ∃ h : FrameHdr, ∃ id : BitVec 20, ∃ v : Bool, ∃ port : PortIx, ∃ mask : BitVec 5, Clocked s ∧ (s.port p).spokesGood.getLsbD k = true ∧ (s.port p).spokesGood &&& mask = (s.port p).spokesGood ∧ twf {} s.fabric.ports = true ∧ twf {} s.fabric.links = true ∧ (s.port p).st = .align ∧ tget none (s.link p).negSentAt k = some 0 ∧ 512 * nsTicks ≤ s.now - 0)
    ∧ (∃ s : State, ∃ p : PortIx, ∃ k : SpokeIx, ∃ h : FrameHdr, ∃ id : BitVec 20, ∃ v : Bool, ∃ port : PortIx, ∃ mask : BitVec 5, Clocked s ∧ (s.port p).spokesGood.getLsbD k = true ∧ (s.port p).spokesGood &&& mask = (s.port p).spokesGood ∧ twf {} s.fabric.ports = true ∧ twf {} s.fabric.links = true ∧ (s.port p).st = .negotiate)
    ∧ (∃ s : State, ∃ p : PortIx, ∃ k : SpokeIx, ∃ n : Nat, ∃ frame : List Byte, Clocked s ∧ (s.port p).linked = true ∧ (s.port p).spokesGood.getLsbD k = true ∧ twf {} s.fabric.ports = true ∧ twf {} s.fabric.links = true ∧ n ≠ 0)
    ∧ (∃ s : State, ∃ p : PortIx, ∃ k : SpokeIx, ∃ n : Nat, ∃ frame : List Byte, Clocked s ∧ (s.port p).linked = true ∧ (s.port p).spokesGood.getLsbD k = true ∧ twf {} s.fabric.ports = true ∧ twf {} s.fabric.links = true ∧ n = 0 ∧ lineBad frame = false) :=
  ⟨⟨fb pu lu, 1, 2, hd 0, (fb pu lu).modLink 1 (fun l => l.refresh 2 (fb pu lu).now (hd 0)), by decide +kernel⟩,
    ⟨fb pu lu, 1, 2, hd 0, by decide +kernel⟩,
    ⟨fb { pu with st := .align } { txSeq := 1 }, 1, 2, hd 0, 9, true, 3, 0x1F, by decide +kernel⟩,
    ⟨{ fb { pu with st := .align } { negSentAt := [(2, some 0)] } with now := 700 * nsTicks }, 1, 2, hd 0, 9, true, 3, 0x1F, by decide +kernel⟩,
    ⟨fb { pu with st := .negotiate } { txSeq := 1 }, 1, 2, hd 0, 9, true, 3, 0x1F, by decide +kernel⟩,
    ⟨fb pu lr, 1, 2, hd 0, 0, lr.refresh 2 0 (hd 0), 0, rt0, by decide +kernel⟩,
    ⟨fb pu lu, 1, 2, 0, 4, hd 0, by decide +kernel⟩,
    ⟨fb pu lu, 1, 2, 2, [], by decide +kernel⟩,
    ⟨fb pu lu, 1, 2, 0, List.replicate 1056 1, by decide +kernel⟩,
    ⟨fb pu lu, 1, 2, 0, rec 1056 [(0x1C, natLe 4 (crcWithout (List.replicate 1056 0) 0x1C))], by decide +kernel⟩,
    ⟨fb pu { lu with gapSince := some 5 }, 1, 5, by decide +kernel⟩,
    ⟨fb { pu with st := .align } { txSeq := 1 }, 1, 2, hd 0, 9, true, 3, 0x1F, by decide +kernel⟩,
    ⟨{ fb { pu with st := .align } { negSentAt := [(2, some 0)] } with now := 700 * nsTicks }, 1, 2, hd 0, 9, true, 3, 0x1F, by decide +kernel⟩,
    ⟨fb { pu with st := .negotiate } { txSeq := 1 }, 1, 2, hd 0, 9, true, 3, 0x1F, by decide +kernel⟩,
    ⟨fb pu lu, 1, 2, 2, [], by decide +kernel⟩,
    ⟨fb pu lu, 1, 2, 0, rec 1056 [(0x1C, natLe 4 (crcWithout (List.replicate 1056 0) 0x1C))], by decide +kernel⟩⟩

/-- States and operands that meet the hypotheses of Obligations.sequenced_frames_are_taken_in_order, clause by clause. -/
theorem witness_sequenced_frames_are_taken_in_order :
    (∃ s : State, ∃ p : PortIx, ∃ k : SpokeIx, ∃ h : FrameHdr, ∃ bs : List Byte, ∃ r : ResidueOutcome, ∃ j : JoinInfo, ∃ a : AbortInfo, ∃ time : W64, Clocked s)
    ∧ (∃ s : State, ∃ p k : Nat, ∃ f : SeqFrame, ∃ l : PortLink, (s.port p).st = .up ∧ (s.port p).spokesGood.getLsbD k = true ∧ twf {} s.fabric.links = true ∧ l = (s.link p).refresh k s.now f.hdr)
    ∧ (∃ l : PortLink, ∃ now : Nat, ∃ f : SeqFrame, f.hdr.frameSeq = l.rxSeq ∧ l.roomFor f = true ∧ l.window = [])
    ∧ (∃ l : PortLink, ∃ now : Nat, ∃ f : SeqFrame, f.hdr.frameSeq = l.rxSeq ∧ l.roomFor f = true ∧ l.window = [])
    ∧ (∃ l : PortLink, ∃ now : Nat, ∃ f : SeqFrame, 0 < (f.hdr.frameSeq - l.rxSeq).toNat ∧ (f.hdr.frameSeq - l.rxSeq).toNat < 16 ∧ (l.window.any (fun g => g.hdr.frameSeq == f.hdr.frameSeq) = false))
    ∧ (∃ l : PortLink, ∃ now : Nat, ∃ f : SeqFrame, 2 ^ 15 ≤ (f.hdr.frameSeq - l.rxSeq).toNat) :=
  ⟨⟨fb pu lu, 1, 2, hd 0, [5], .ok, ⟨false,2,1,0,0,9,false,true⟩, ⟨1,2,3,4⟩, 77, by decide +kernel⟩,
    ⟨fb pu lu, 1, 2, tf 0, lu.refresh 2 0 (hd 0), by decide +kernel⟩,
    ⟨lu, 5, tf 0, by decide +kernel⟩,
    ⟨lu, 5, { tf 0 with kind := .data, payload := .data [] }, by decide +kernel⟩,
    ⟨lu, 5, tf 15, by decide +kernel⟩,
    ⟨lu, 5, tf 32768, by decide +kernel⟩⟩

/-- States and operands that meet the hypotheses of Obligations.spokes_fail_and_ports_come_up, clause by clause. -/
theorem witness_spokes_fail_and_ports_come_up :
    (∃ s : State, ∃ p : PortIx, ∃ k sp : SpokeIx, Clocked s ∧ (s.port p).st = .up ∧ (s.port p).spokesGood.getLsbD k = true ∧ (s.port p).spare = BitVec.ofNat 3 sp ∧ sp ≠ k)
    ∧ (∃ s : State, ∃ p : PortIx, ∃ k : SpokeIx, Clocked s ∧ (s.port p).st = .up ∧ (s.port p).spokesGood.getLsbD k = true ∧ (s.port p).spare = 7)
    ∧ (∃ s : State, ∃ p : PortIx, ∃ k : SpokeIx, Clocked s ∧ (s.port p).linked = true ∧ (s.port p).spokesGood.getLsbD k = true ∧ s.othersDeliver p k = true)
    ∧ (∃ s : State, ∃ p : PortIx, ∃ k : SpokeIx, ∃ symbols errors : Nat, Clocked s ∧ (s.port p).linked = true ∧ (s.port p).spokesGood.getLsbD k = true ∧ 100000 * errors ≤ symbols)
    ∧ (∃ s : State, ∃ p : PortIx, ∃ k : SpokeIx, ∃ symbols errors : Nat, Clocked s ∧ (s.port p).linked = true ∧ (s.port p).spokesGood.getLsbD k = true ∧ symbols < 100000 * errors)
    ∧ (∃ s : State, ∃ p : PortIx, ∃ k : SpokeIx, Clocked s ∧ ((∀ j : SpokeIx, j ≠ k → tget 0 (s.link p).lastValid j ≤ tget 0 (s.link p).lastValid k)))
    ∧ (∃ s u : State, ∃ p : PortIx, Clocked s ∧ (s.port p).linked = true ∧ ((∀ o ∈ s.fabric.ops, (s.slot o.slot).ports.contains p.val = false)) ∧ (u = s.upTo (((s.link p).active.map (fun k => tget 0 (s.link p).lastValid k)).foldl max 0 + 4 * usTicks)))
    ∧ (∃ s : State, ∃ p : PortIx, ∃ mask : BitVec 5, Clocked s ∧ s.rst.optics = true ∧ fourOf mask = true)
    ∧ (∃ s : State, ∃ p : PortIx, ∃ mask : BitVec 5, Clocked s ∧ s.rst.optics = true ∧ fourOf mask = true)
    ∧ (∃ s : State, ∃ p : PortIx, ∃ mask : BitVec 5, Clocked s ∧ s.rst.optics = true ∧ fourOf mask = true)
    ∧ (∃ s : State, ∃ p : PortIx, ∃ mask : BitVec 5, Clocked s ∧ s.rst.optics = true ∧ fourOf mask = true)
    ∧ (∃ s : State, ∃ p : PortIx, ∃ mask : BitVec 5, ∃ n : NegInfo, Clocked s ∧ s.rst.optics = true ∧ (s.port p).st = .negotiate ∧ (s.link p).peer = some n ∧ n.mask = (s.port p).spokesGood ∧ bitsOf 5 (s.port p).spokesGood.toNat = [0, 1, 2, 3, 4] ∧ twf {} s.fabric.ports = true ∧ twf {} s.fabric.links = true)
    ∧ (∃ s : State, ∃ p : PortIx, ∃ mask : BitVec 5, Clocked s ∧ s.rst.optics = true ∧ fourOf mask = true ∧ (s.port p).st = .dark)
    ∧ (∃ s : State, ∃ p : PortIx, ∃ mask : BitVec 5, Clocked s ∧ s.rst.optics = true ∧ fourOf mask = true ∧ (s.port p).st = .light)
    ∧ (∃ s : State, ∃ p : PortIx, ∃ mask : BitVec 5, Clocked s ∧ s.rst.optics = true ∧ fourOf mask = true ∧ (s.port p).st = .tune)
    ∧ (∃ s : State, ∃ p : PortIx, ∃ mask : BitVec 5, Clocked s ∧ s.rst.optics = true ∧ fourOf mask = true ∧ (s.port p).st = .align ∧ (s.link p).peer = some { id := 9, idValid := true, port := 2, mask := 15 } ∧ (s.port p).spokesGood ≠ 0 ∧ (s.port p).spokesGood &&& ~~~(s.link p).negAcked = 0) :=
  ⟨⟨fb pu lu, 1, 2, 4, by decide +kernel⟩,
    ⟨fb { pu with spare := 7, spokesGood := 15 } lu, 1, 2, by decide +kernel⟩,
    ⟨fb pu lu, 1, 2, by decide +kernel⟩,
    ⟨fb pu lu, 1, 2, 100000, 1, by decide +kernel⟩,
    ⟨fb pu lu, 1, 2, 99999, 1, by decide +kernel⟩,
    ⟨fb pu lu, 1, 3, by decide +kernel⟩,
    ⟨fb pu lu, (fb pu lu).upTo (9 + 4 * usTicks), 1, by decide +kernel⟩,
    ⟨fb { st := .dark } { txSeq := 1 }, 1, 15, by decide +kernel⟩,
    ⟨fb { st := .light } { txSeq := 1 }, 1, 15, by decide +kernel⟩,
    ⟨fb { st := .tune } { txSeq := 1 }, 1, 15, by decide +kernel⟩,
    ⟨fb { st := .align, spokesGood := 15 } { negAcked := 15, peer := some { id := 9, idValid := true, port := 2, mask := 15 } }, 1, 15, by decide +kernel⟩,
    ⟨fb { st := .negotiate, spokesGood := 31 } { peer := some { id := 9, idValid := true, port := 2, mask := 31 } }, 1, 31, { id := 9, idValid := true, port := 2, mask := 31 }, by decide +kernel⟩,
    ⟨fb {} {}, 1, 15, by decide +kernel⟩,
    ⟨fb { st := .light } {}, 1, 15, by decide +kernel⟩,
    ⟨fb { st := .tune } {}, 1, 15, by decide +kernel⟩,
    ⟨fb { st := .align, spokesGood := 15 } { negAcked := 15, peer := some { id := 9, idValid := true, port := 2, mask := 15 } }, 1, 15, by decide +kernel⟩⟩

/-- States and operands that meet the hypotheses of Obligations.link_frames_act_on_their_port (its part on every slot carries a frame), clause by clause. -/
theorem witness_every_slot_carries_a_frame :
    (∃ s : State, ∃ p : PortIx, ∃ k : SpokeIx, Clocked s ∧ (s.port p).hears k = true ∧ twf none s.fabric.sent = true ∧ twf {} s.fabric.links = true ∧ twf 0 (s.link p).lastSent = true)
    ∧ (∃ s : State, ∃ p : PortIx, ∃ k : SpokeIx, Clocked s ∧ (s.port p).hears k = true ∧ twf none s.fabric.sent = true ∧ twf {} s.fabric.links = true ∧ twf 0 (s.link p).lastSent = true)
    ∧ (∃ s : State, ∃ p : PortIx, ∃ k : SpokeIx, Clocked s ∧ (s.port p).hears k = true ∧ twf none s.fabric.sent = true ∧ twf {} s.fabric.links = true ∧ twf 0 (s.link p).lastSent = true ∧ s.rst.inCore = true ∧ (s.port p).linked = true)
    ∧ (∃ s : State, ∃ p : PortIx, ∃ k : SpokeIx, Clocked s ∧ (s.port p).hears k = true ∧ twf none s.fabric.sent = true ∧ twf {} s.fabric.links = true ∧ twf 0 (s.link p).lastSent = true ∧ s.rst.inCore = false ∧ (s.link p).linkFrames = [] ∧ (s.link p).resendAt = none ∧ (s.link p).sendQueue = []) :=
  ⟨⟨fb pu lu, 1, 2, by decide +kernel⟩,
    ⟨fb pu { lu with lastSent := [(2, 100)] }, 1, 2, by decide +kernel⟩,
    ⟨{ fb pu lu with rst := { base.rst with current := some { level := .core, step := 6, lastAt := 0 } } }, 1, 2, by decide +kernel⟩,
    ⟨fb pu lu, 1, 2, by decide +kernel⟩⟩

/-- States and operands that meet the hypotheses of Obligations.spokes_fail_and_ports_come_up (its part on port and device commands), clause by clause. -/
theorem witness_port_and_device_commands :
    (∃ s : State, ∃ f : Fn, ∃ m : Mb, Admitted portControlForm s f m ∧ bit ((s.ctl.req f m).u32 4) 0 = true ∧ (s.port ((s.ctl.req f m).u32 0)).st = .disabled)
    ∧ (∃ s : State, ∃ f : Fn, ∃ m : Mb, Admitted portControlForm s f m ∧ bit ((s.ctl.req f m).u32 4) 0 = true ∧ (s.port ((s.ctl.req f m).u32 0)).st ≠ .disabled)
    ∧ (∃ s u : State, ∃ f : Fn, ∃ m : Mb, ∃ p : Nat, Admitted portControlForm s f m ∧ bit ((s.ctl.req f m).u32 4) 0 = false ∧ p = (s.ctl.req f m).u32 0 ∧ ((∀ o ∈ s.fabric.ops, (s.slot o.slot).ports.contains p = false)) ∧ (u = (s.modPort p (fun x => x.dropTo .disabled)).modLink p (fun _ => {})))
    ∧ (∃ s : State, ∃ f : Fn, ∃ m : Mb, Admitted deviceIdForm s f m ∧ s.fabric.idValid = false ∧ ((∀ p : PortIx, (s.port p).st ≠ .up)))
    ∧ (∃ s : State, ∃ f : Fn, ∃ m : Mb, ∃ p : PortIx, Admitted deviceIdForm s f m ∧ s.fabric.idValid = false ∧ ((∀ p' : PortIx, (s.port p').st = .up ↔ p' = p)))
    ∧ (∃ s : State, ∃ f : Fn, ∃ m : Mb, Admitted deviceIdForm s f m ∧ s.fabric.idValid = true) :=
  ⟨⟨asked (fb { st := .disabled } {}) 0 0 0x601 (ws [1, 1]), 0, 0, by decide +kernel⟩,
    ⟨asked (fb pu {}) 0 0 0x601 (ws [1, 1]), 0, 0, by decide +kernel⟩,
    ⟨asked (fb pu {}) 0 0 0x601 (ws [1, 0]), ((asked (fb pu {}) 0 0 0x601 (ws [1, 0])).modPort 1 (fun x => x.dropTo .disabled)).modLink 1 (fun _ => {}), 0, 0, 1, by decide +kernel⟩,
    ⟨asked base 0 0 0x602 (ws [1]), 0, 0, by decide +kernel⟩,
    ⟨(let s := asked (fb pu {}) 0 0 0x602 (ws [1]); { s with fabric := { s.fabric with idValid := false } }), 0, 0, 1, by decide +kernel⟩,
    ⟨asked (fb pu {}) 0 0 0x602 (ws [1]), 0, 0, by decide +kernel⟩⟩

/-- States and operands that meet the hypotheses of Obligations.pelotons_join_and_dissolve, clause by clause. -/
theorem witness_pelotons_join_and_dissolve :
    (∃ s : State, ∃ f : Fn, ∃ m : Mb, ∃ i : Nat, Admitted formForm s f m ∧ i < 64 ∧ (s.slot i).valid = false ∧ ((∀ j < i, (s.slot j).valid = true)) ∧ s.formBad ((s.ctl.req f m).slot 0) 0 none = none)
    ∧ (∃ s : State, ∃ f : Fn, ∃ m : Mb, Admitted formForm s f m ∧ ((∀ i < 64, (s.slot i).valid = true)))
    ∧ (∃ s : State, ∃ f : Fn, ∃ m : Mb, ∃ i : Nat, ∃ x : Slot, Admitted reformForm s f m ∧ i = (s.ctl.req f m).u32 0 ∧ (s.fabric.joining.any (fun j => j.slot == i) = false) ∧ (s.slot i).epoch ≠ 0xFFFFFFFF ∧ x = { (s.ctl.req f m).slot 4 with pelotonId := (s.slot i).pelotonId } ∧ x.epoch = (s.slot i).epoch + 1 ∧ s.formBad x 4 (some i) = none)
    ∧ (∃ s : State, ∃ f : Fn, ∃ m : Mb, Presented reformForm s f m ∧ s.ownsSlot f ((s.ctl.req f m).u32 0 % 64) = false)
    ∧ (∃ s : State, ∃ f : Fn, ∃ m : Mb, ∃ i : Nat, Admitted dissolveForm s f m ∧ i = (s.ctl.req f m).u32 0 ∧ (s.fabric.joining.any (fun j => j.slot == i) = false) ∧ s.opOn i = none ∧ s.heldOn i = [])
    ∧ (∃ s : State, ∃ slot : Fin 64, ∃ j : Joining, Clocked s ∧ s.fabric.joining = [j] ∧ j.slot = slot ∧ ((∀ d ∈ (s.slot slot).dirs, j.acked.contains d = true)))
    ∧ (∃ s u : State, ∃ slot : Fin 64, ∃ j : Joining, Clocked s ∧ (s.fabric.joining.find? (fun j => j.slot == slot.val) = some j) ∧ (u = (s.upTo j.repeatAt).modJoining slot (fun j => { j with repeatAt := j.repeatAt + 10 * usTicks })))
    ∧ (∃ s : State, ∃ slot : Fin 64, Clocked s ∧ (s.fabric.joining.find? (fun j => j.slot == slot.val) = none))
    ∧ (∃ s : State, ∃ slot : Fin 64, ∃ j : Joining, ∃ d : Nat, Clocked s ∧ s.fabric.joining = [j] ∧ j.slot = slot ∧ ((s.slot slot).dirs.find? (fun d => !j.acked.contains d) = some d)) :=
  ⟨⟨asked (fb pu lu) 0 0 0x603 (fo 0), 0, 0, 0, by decide +kernel⟩,
    ⟨asked (withSlots (fb pu lu) full) 0 0 0x603 (fo 0), 0, 0, by decide +kernel⟩,
    ⟨j5, 0, 0, 5, { (j5.ctl.req 0 0).slot 4 with pelotonId := 77 }, by decide +kernel⟩,
    ⟨asked (withSlots (fb pu lu) [(5, sl)]) 3 0 0x604 (rec 48 [(0, ws [5]), (4, fo 0)]), 3, 0, by decide +kernel⟩,
    ⟨asked (withSlots (fb pu lu) [(5, sl)]) 0 0 0x605 (ws [5]), 0, 0, 5, by decide +kernel⟩,
    ⟨jj [0, 1], 5, jn [0, 1], by decide +kernel⟩,
    ⟨jj [0], ((jj [0]).upTo 8).modJoining 5 (fun j => { j with repeatAt := 8 + 10 * usTicks }), 5, jn [0], by decide +kernel⟩,
    ⟨jj [0], 6, by decide +kernel⟩,
    ⟨jj [0], 5, jn [0], 1, by decide +kernel⟩⟩

/-- States and operands that meet the hypotheses of Obligations.collectives_start_and_complete, clause by clause. -/
theorem witness_collectives_start_and_complete :
    (∃ s : State, ∃ f : Fn, ∃ m : Mb, Admitted collPostForm s f m ∧ (s.queue .collective f).descs.length + (s.ctl.req f m).u32 0 % 8 ≤ 128)
    ∧ (∃ s : State, ∃ f : Fn, ∃ m : Mb, Admitted collPostForm s f m ∧ 128 < (s.queue .collective f).descs.length + (s.ctl.req f m).u32 0 % 8)
    ∧ (∃ s : State, ∃ f : Fn, ∃ q : QDesc, ∃ d : CollDesc, Clocked s ∧ (s.queue .collective f).halted = false ∧ s.collResumes f = none ∧ ((s.queue .collective f).descs.find? (fun q => !q.started) = some q) ∧ s.mayStart f q = true ∧ d = parseColl q.bytes ∧ s.collCheck f d = none ∧ d.kind = 2 ∧ d.epoch = (s.slot d.slot).epoch.toNat ∧ (s.slot d.slot).broken = false ∧ (s.slot d.slot).joined = true ∧ (s.slot d.slot).posX ≠ 0 ∧ twf {} s.fabric.slots = true)
    ∧ (∃ s : State, ∃ f : Fn, ∃ q : QDesc, Clocked s ∧ (s.queue .collective f).halted = false ∧ s.collResumes f = none ∧ ((s.queue .collective f).descs.find? (fun q => !q.started) = some q))
    ∧ (∃ s : State, ∃ f : Fn, ∃ q : QDesc, Clocked s ∧ (s.queue .collective f).halted = false ∧ s.collResumes f = none ∧ ((s.queue .collective f).descs.find? (fun q => !q.started) = some q))
    ∧ (∃ s u : State, ∃ slot : Fin 64, ∃ o : CollOp, Clocked s ∧ s.opOn slot = some o ∧ s.opDone o = true ∧ ((o.d.kind = 2 → u = s)) ∧ ((o.d.kind ≠ 2 → s.writeVirt o.fn o.d.dst o.result = .ok u)) ∧ o.d.event = false)
    ∧ (∃ s u : State, ∃ slot : Fin 64, ∃ o : CollOp, Clocked s ∧ s.opOn slot = some o ∧ s.opDone o = true ∧ ((o.d.kind = 2 → u = s)) ∧ ((o.d.kind ≠ 2 → s.writeVirt o.fn o.d.dst o.result = .ok u)) ∧ o.d.event = false)
    ∧ (∃ s : State, ∃ slot : Fin 64, ∃ o : CollOp, Clocked s ∧ s.opOn slot = some o ∧ s.opDone o = false)
    ∧ (∃ s : State, ∃ slot : Fin 64, ∃ o : CollOp, Clocked s ∧ s.opOn slot = some o ∧ o.d.timeout ≠ 0)
    ∧ (∃ s : State, ∃ slot : Fin 64, ∃ f : Nat, ∃ q : QDesc, Clocked s ∧ s.opOn slot = none ∧ (s.heldOn slot).head? = some (f, q) ∧ (parseColl q.bytes).timeout ≠ 0)
    ∧ (∃ s : State, ∃ f : Fn, ∃ q : QDesc, Clocked s ∧ (s.queue .collective f).halted = false ∧ s.collResumes f = none ∧ ((s.queue .collective f).descs.find? (fun q => !q.started) = some q) ∧ s.mayStart f q = false)
    ∧ (∃ s : State, ∃ f : Fn, ∃ q : QDesc, Clocked s ∧ (s.queue .collective f).halted = false ∧ s.collResumes f = none ∧ ((s.queue .collective f).descs.find? (fun q => !q.started) = some q) ∧ s.mayStart f q = true ∧ s.collCheck f (parseColl q.bytes) = some stNotPermitted)
    ∧ (∃ s : State, ∃ f : Fn, ∃ q : QDesc, Clocked s ∧ (s.queue .collective f).halted = false ∧ s.collResumes f = none ∧ ((s.queue .collective f).descs.find? (fun q => !q.started) = some q) ∧ s.mayStart f q = true ∧ s.collCheck f (parseColl q.bytes) = none ∧ (parseColl q.bytes).kind < 3 ∧ (parseColl q.bytes).epoch < (s.slot (parseColl q.bytes).slot).epoch.toNat)
    ∧ (∃ s : State, ∃ f : Fn, ∃ q : QDesc, Clocked s ∧ (s.queue .collective f).halted = false ∧ s.collResumes f = none ∧ ((s.queue .collective f).descs.find? (fun q => !q.started) = some q) ∧ s.mayStart f q = true ∧ s.collCheck f (parseColl q.bytes) = none ∧ (parseColl q.bytes).kind < 3 ∧ (s.slot (parseColl q.bytes).slot).epoch.toNat < (parseColl q.bytes).epoch) :=
  ⟨⟨asked base 0 0 0x606 (ws [1, 0, 0, 0] ++ cd 2 5 0 10 0 0 0), 0, 0, by decide +kernel⟩,
    ⟨asked (cq base (List.replicate 128 (qd [] false))) 0 0 0x606 (ws [1, 0, 0, 0] ++ cd 2 5 0 10 0 0 0), 0, 0, by decide +kernel⟩,
    ⟨cs, 0, bq, parseColl bq.bytes, by decide +kernel⟩,
    ⟨cq (withSlots (fb pu lu) [(5, sl)]) [rq], 0, rq, by decide +kernel⟩,
    ⟨cq (withSlots (fb pu lu) [(5, { sl with epoch := 9 })]) [bq], 0, bq, by decide +kernel⟩,
    ⟨os bdone, os bdone, 5, bdone, by decide +kernel⟩,
    ⟨mp (os rdone), okS ((mp (os rdone)).writeVirt 0 0x200000 rdone.result), 5, rdone, by decide +kernel⟩,
    ⟨os (op0 red), 5, op0 red, by decide +kernel⟩,
    ⟨os (op0 red), 5, op0 red, by decide +kernel⟩,
    ⟨cq (withSlots (fb pu lu) [(5, { sl with joined := false })]) [runq bar], 5, 0, runq bar, by decide +kernel⟩,
    ⟨{ cq (withSlots (fb pu lu) [(5, sl)]) [bq] with fabric := { (cq (withSlots (fb pu lu) [(5, sl)]) [bq]).fabric with ops := [{ op0 bar with fn := 1 }] } }, 0, bq, by decide +kernel⟩,
    ⟨cq (withSlots (fb pu lu) [(5, sl)]) [rq], 0, rq, by decide +kernel⟩,
    ⟨cq (withSlots (fb pu lu) [(5, { sl with epoch := 9 })]) [bq], 0, bq, by decide +kernel⟩,
    ⟨cq (withSlots (fb pu lu) [(5, { sl with epoch := 3 })]) [bq], 0, bq, by decide +kernel⟩⟩

/-- States and operands that meet the hypotheses of Obligations.collectives_start_and_complete (its part on a sum frame adds this members operand), clause by clause. -/
theorem witness_a_sum_frame_adds_this_members_operand :
    (∃ s : State, ∃ o : CollOp, ∃ f : Nat, ∃ bs : List Byte, ∃ acc : List W32, (o.placeX (s.slot o.slot) f).owner ≠ (s.slot o.slot).posX.toNat ∧ (acc = ((elementsOf 4 256 bs).zip (o.own f)).map (fun e => collAdd o.d.type (BitVec.ofNat 32 e.1) e.2))) :=
  ⟨os rop, rop, 0, sbs, racc, by decide +kernel⟩

end W14

namespace W15

set_option maxRecDepth 100000
set_option linter.unusedVariables false

def okN (x : Host.Outcome Sys2Proof.Machine.State Fault Refusal) : State := match x with | .next t => t | _ => {}
def es : List Byte := rec 72 [(4, natLe 2 128 ++ natLe 2 128), (8, ws [256, 256 * 128]), (0x18, ws [16 * 2 ^ 20]), (0x40, natLe 2 30 ++ natLe 2 1)]
def cd (e : Nat) (x : CodecEngine) : State := { mapped base 0x100000 (List.replicate 256 7) with codecs := [(e, x)] }
def oq : CodecEngine := { quota := [(0, 2)], ctx := [(0, { st := .open })] }
def os : State := asked (cd 4 oq) 0 0 0x702 (ws [4] ++ es)
def cz : CodecEngine := { ctx := [(1, { st := .closing, closeCmd := some { fn := 0, code := 0x703, tag := 7 } })] }
def fd (l : Nat) : List Byte := rec 64 [(8, natLe 8 0x100000), (0x10, natLe 8 0x200000), (0x18, ws [l])]
def ec : CodecCtx := { openedCtx 0 es 0 with queue := [fd 256] }
def oc : State := (cd 4 { ctx := [(3, ec)] })
def ol : State := cd 4 { ctx := [(3, ec)], loaded := some (3, [9]) }
def qu (s : State) : State := (s.modCtx 4 3 (fun x => { x with queue := x.queue.drop 1 })).modCodec 4 (fun y => { y with lastServed := 3 })
def er : List Byte := lay (lay es (0, natLe 4 0x400)) (4, natLe 2 4 ++ natLe 2 2)
def rn : State := { mapped base 0x100000 (List.replicate 256 7) with codecs := [(4, { ctx := [(3, { openedCtx 0 er 0 with queue := [] })], running := some (3, fd 256) })] }
def rnu : State := rn.modCodec 4 (fun y => { y with running := none })
def okB (x : Except (Nat × Args) (List Byte)) : List Byte := match x with | .ok t => t | _ => []
def rbs : List Byte := okB (engineRead rn.mem rn.pages 0 (inputRows (parseCodec er) 0x100000))
def df (a l : Nat) : List Byte := rec 64 [(8, natLe 8 a), (0x10, ws [l])]
def ds : List Byte := rec 72 [(4, natLe 2 64 ++ natLe 2 64), (8, ws [256, 256 * 64]), (0x1C, [4]), (0x20, natLe 8 0x300000), (0x28, ws [0x10000])]
def dr (a : Nat) : State := { mapped base 0x100000 (List.replicate 256 7) with codecs := [(1, { ctx := [(3, { openedCtx 0 ds 0 with queue := [] })], running := some (3, df a 300) })] }
def du (a : Nat) : State := (dr a).modCodec 1 (fun y => { y with running := none })
def erB (x : Except (Nat × Args) (List Byte)) : Nat × Args := match x with | .error t => t | _ => (0, {})
def okU (x : Except (Nat × Args) UnitRead) : UnitRead := match x with | .ok t => t | _ => { state := [], work := [], bytes := [], head := Config.unitHead 0 [] [] [] }
theorem okU_eq {x : Except (Nat × Args) UnitRead} (h : x.isOk = true) : x = .ok (okU x) := by cases x <;> simp_all [okU, Except.isOk, Except.toBool]
def dz : State := { base with codecs := [(1, { ctx := [(3, { openedCtx 0 ds 0 with queue := [] })], running := some (3, df 0 0) })] }
def st (e : StemEngine) : State := { (mapped base 0x100000 (List.replicate 256 7)).setCtx 0 { ctx0 with coreMask := BitVec.ofNat 256 (2 ^ 130) } with stems := [(2, e)] }
def sd (w rows tmo : Nat) : List Byte := rec 128 [(0, ws [1 + w, 0x1111]), (8, natLe 2 2 ++ natLe 2 2 ++ natLe 4 1), (0x12, natLe 2 2), (0x16, natLe 2 rows), (0x18, natLe 8 0x100000), (0x20, ws [256, 0]),
  (0x28, natLe 8 0x200000), (0x30, ws [256, 0]), (0x58, ws [1, 1, 1]), (0x6C, ws [tmo])]
def sqq (b : List Byte) : State := st { queues := [(0, [b])] }
def sr (b : List Byte) : StemRun := { fn := 0, desc := b, startAt := 5 }
def srs (b : List Byte) : State := st { running := some (sr b) }
def wd := sd (2 ^ 16) 2 0
def r5 : StemRun := { sr (sd 0 2 0) with rowsRead := 1 }
def s5 : State := st { running := some r5 }
def okR (x : Except (Nat × Args) (List (Nat × List Byte) × Nat)) : List (Nat × List Byte) × Nat := match x with | .ok t => t | _ => ([], 0)
def row5 := okR (stemRowPieces s5 r5 0)
def sb : List Byte := lay (sd 0 2 0) (0x18, natLe 8 0x40000000)
def r6 : StemRun := { sr sb with rowsRead := 1 }
def erR (x : Except (Nat × Args) (List (Nat × List Byte) × Nat)) : Nat × Args := match x with | .error t => t | _ => (0, {})
def r7 : StemRun := { sr (sd (2 ^ 15) 2 0) with rowsRead := 2, rowsDone := 2 }
def dd (w : Nat) : List Byte := rec 128 [(0, ws [3 + w])]

/-- States and operands that meet the hypotheses of Obligations.codec_contexts_open_and_close, clause by clause. -/
theorem witness_codec_contexts_open_and_close :
    (∃ s : State, ∃ f : Fn, ∃ m : Mb, ∃ e g n : Nat, Admitted codecQuotaForm s f m ∧ e = (s.ctl.req f m).u32 0 ∧ g = (s.ctl.req f m).u32 4 ∧ n = (s.ctl.req f m).u32 8 ∧ (((tset 0 (s.codec e).quota g n).map (fun x => x.2)).sum ≤ 64) ∧ (s.codec e).held g ≤ n)
    ∧ (∃ s : State, ∃ f : Fn, ∃ m : Mb, Admitted codecQuotaForm s f m ∧ (64 < ((tset 0 (s.codec ((s.ctl.req f m).u32 0)).quota ((s.ctl.req f m).u32 4) ((s.ctl.req f m).u32 8)).map (fun x => x.2)).sum))
    ∧ (∃ s : State, ∃ f : Fn, ∃ m : Mb, ∃ e : Nat, ∃ x : CodecSet, ∃ b : List Byte, Admitted codecOpenForm s f m ∧ e = (s.ctl.req f m).u32 0 ∧ b = sliceAt (s.ctl.req f m).params 4 72 ∧ x = parseCodec b ∧ 4 ≤ e ∧ (s.codec e).held f < tget 0 (s.codec e).quota f ∧ ((∃ c < 64, (s.codecCtx e c).st = .free)) ∧ x.need true ≤ fieldAt b 0x18 4 ∧ rangeFails s f x.workBase (x.need true) = none)
    ∧ (∃ s : State, ∃ f : Fn, ∃ m : Mb, ∃ e : Nat, Admitted codecOpenForm s f m ∧ e = (s.ctl.req f m).u32 0 ∧ tget 0 (s.codec e).quota f ≤ (s.codec e).held f)
    ∧ (∃ s : State, ∃ f : Fn, ∃ m : Mb, ∃ e c : Nat, Admitted codecCloseForm s f m ∧ e = (s.ctl.req f m).u32 0 ∧ c = (s.ctl.req f m).u32 4 ∧ (s.codecCtx e c).fn.toNat = f ∧ (((s.codecCtx e c).st = .open ∨ (s.codecCtx e c).st = .halted)) ∧ (s.codecCtx e c).queue = [])
    ∧ (∃ s : State, ∃ f : Fn, ∃ m : Mb, Admitted codecCloseForm s f m ∧ (s.codecCtx ((s.ctl.req f m).u32 0) ((s.ctl.req f m).u32 4)).st = .free)
    ∧ (∃ s : State, ∃ f : Fn, ∃ m : Mb, ∃ e c : Nat, e = (s.ctl.req f m).u32 0 ∧ c = (s.ctl.req f m).u32 4 ∧ (s.codecCtx e c).st = .closing)
    ∧ (∃ s : State, ∃ f : Fn, ∃ m : Mb, ∃ e c : Nat, e = (s.ctl.req f m).u32 0 ∧ c = (s.ctl.req f m).u32 4 ∧ (s.codecCtx e c).st = .closing)
    ∧ (∃ s : State, ∃ e : CodecIx, ∃ c : Fin 64, ∃ t : State, Clocked s ∧ (s.codecCtx e c).st = .closing ∧ (s.codec e).runs c = false ∧ (t = (s.modCtx e c CodecCtx.freed).modCodec e (fun y => { y with loaded := y.loaded.filter (fun l => decide (l.1 ≠ c.val)) })))
    ∧ (∃ s : State, ∃ f : Fn, ∃ m : Mb, ∃ e c n : Nat, Admitted codecPostForm s f m ∧ e = (s.ctl.req f m).u32 0 ∧ c = (s.ctl.req f m).u32 4 ∧ n = (s.ctl.req f m).u32 8 % 8 ∧ (s.codecCtx e c).st = .open ∧ (s.codecCtx e c).fn.toNat = f ∧ (s.codecCtx e c).queue.length + n ≤ 32)
    ∧ (∃ s : State, ∃ f : Fn, ∃ m : Mb, ∃ e c : Nat, Presented codecPostForm s f m ∧ e = (s.ctl.req f m).u32 0 % 8 ∧ c = (s.ctl.req f m).u32 4 % 64 ∧ (s.codecCtx e c).st ≠ .free ∧ (s.codecCtx e c).fn.toNat ≠ f)
    ∧ (∃ s : State, ∃ f : Fn, ∃ m : Mb, ∃ e c i : Nat, Admitted surfaceForm s f m ∧ e = (s.ctl.req f m).u32 0 ∧ c = (s.ctl.req f m).u32 4 ∧ i = (s.ctl.req f m).u32 8 ∧ (s.codecCtx e c).st = .open ∧ (tget {} (s.codecCtx e c).pool i).out = true)
    ∧ (∃ s : State, ∃ f : Fn, ∃ m : Mb, ∃ e c : Nat, e = (s.ctl.req f m).u32 0 ∧ c = (s.ctl.req f m).u32 4 ∧ (s.codecCtx e c).st = .closing ∧ Admitted codecCloseForm s f m)
    ∧ (∃ s : State, ∃ f : Fn, ∃ m : Mb, ∃ e c : Nat, e = (s.ctl.req f m).u32 0 ∧ c = (s.ctl.req f m).u32 4 ∧ (s.codecCtx e c).st = .closing ∧ Admitted surfaceForm s f m) :=
  ⟨⟨asked base 0 0 0x701 (ws [4, 3, 64]), 0, 0, 4, 3, 64, by decide +kernel⟩,
    ⟨asked { base with codecs := [(4, { quota := [(0, 1)] })] } 0 0 0x701 (ws [4, 3, 64]), 0, 0, by decide +kernel⟩,
    ⟨os, 0, 0, 4, parseCodec es, es, by decide +kernel⟩,
    ⟨asked (cd 4 {}) 0 0 0x702 (ws [4] ++ es), 0, 0, 4, by decide +kernel⟩,
    ⟨asked (cd 4 oq) 0 0 0x703 (ws [4, 0]), 0, 0, 4, 0, by decide +kernel⟩,
    ⟨asked (cd 4 oq) 0 0 0x703 (ws [4, 1]), 0, 0, by decide +kernel⟩,
    ⟨asked (cd 4 cz) 0 0 0x703 (ws [4, 1]), 0, 0, 4, 1, by decide +kernel⟩,
    ⟨asked (cd 4 cz) 0 0 0x705 (ws [4, 1, 0]), 0, 0, 4, 1, by decide +kernel⟩,
    ⟨cd 4 { cz with loaded := some (1, [3]) }, 4, 1, ((cd 4 { cz with loaded := some (1, [3]) }).modCtx 4 1 CodecCtx.freed).modCodec 4 (fun y => { y with loaded := none }), by decide +kernel⟩,
    ⟨asked (cd 4 oq) 0 0 0x704 (ws [4, 0, 1, 0] ++ List.replicate 64 1), 0, 0, 4, 0, 1, by decide +kernel⟩,
    ⟨asked (cd 4 { ctx := [(0, { st := .open, fn := 3 })] }) 0 0 0x704 (ws [4, 0, 1, 0] ++ List.replicate 64 1), 0, 0, 4, 0, by decide +kernel⟩,
    ⟨asked (cd 1 { ctx := [(0, { st := .open, pool := [(2, { out := true })] })] }) 0 0 0x705 (ws [1, 0, 2]), 0, 0, 1, 0, 2, by decide +kernel⟩,
    ⟨asked (cd 4 cz) 0 0 0x703 (ws [4, 1]), 0, 0, 4, 1, by decide +kernel⟩,
    ⟨asked (cd 4 cz) 0 0 0x705 (ws [4, 1, 0]), 0, 0, 4, 1, by decide +kernel⟩⟩

/-- States and operands that meet the hypotheses of Obligations.codec_frames_start_and_end, clause by clause. -/
theorem witness_codec_frames_start_and_end :
    (∃ s u : State, ∃ e : CodecIx, ∃ c : Nat, ∃ b st : List Byte, Clocked s ∧ (s.codec e).running = none ∧ s.rst.inCore = false ∧ s.rst.past 12 false = true ∧ s.nextFrame e = some (c, b) ∧ frameRefusal (decide (4 ≤ e.val)) (parseCodec (s.codecCtx e c).settings) (s.ctxOf (s.codecCtx e c).fn.toNat) b = none ∧ (s.codec e).loaded = some (c, st) ∧ twf {} s.codecs = true ∧ (u = (s.modCtx e c (fun x => { x with queue := x.queue.drop 1 })).modCodec e (fun y => { y with lastServed := c })))
    ∧ (∃ s u v : State, ∃ e : CodecIx, ∃ c : Nat, ∃ b : List Byte, Clocked s ∧ (s.codec e).running = none ∧ s.rst.inCore = false ∧ s.rst.past 12 false = true ∧ s.nextFrame e = some (c, b) ∧ frameRefusal (decide (4 ≤ e.val)) (parseCodec (s.codecCtx e c).settings) (s.ctxOf (s.codecCtx e c).fn.toNat) b = none ∧ (u = (s.modCtx e c (fun x => { x with queue := x.queue.drop 1 })).modCodec e (fun y => { y with lastServed := c })) ∧ v = u.saveEngine e c)
    ∧ (∃ s : State, ∃ e : CodecIx, ∃ c st : Nat, ∃ b : List Byte, Clocked s ∧ (s.codec e).running = none ∧ s.rst.inCore = false ∧ s.rst.past 12 false = true ∧ s.nextFrame e = some (c, b) ∧ frameRefusal (decide (4 ≤ e.val)) (parseCodec (s.codecCtx e c).settings) (s.ctxOf (s.codecCtx e c).fn.toNat) b = some st)
    ∧ (∃ s : State, ∃ e : CodecIx, Clocked s ∧ (s.codec e).running = none)
    ∧ (∃ s u : State, ∃ e : CodecIx, ∃ c : Nat, ∃ b bs : List Byte, ∃ d : FrameDesc, ∃ x : CodecCtx, ∃ cs : CodecSet, Clocked s ∧ (s.codec e).running = some (c, b) ∧ 4 ≤ e.val ∧ d = parseFrame true b ∧ (u = s.modCodec e (fun y => { y with running := none })) ∧ x = (u.codecCtx e c).rates d ∧ cs = parseCodec x.settings ∧ cs.random = true ∧ d.last = false ∧ engineRead s.mem s.pages x.fn.toNat (inputRows cs d.src) = .ok bs ∧ x.group.length < 7)
    ∧ (∃ s u : State, ∃ e : CodecIx, ∃ c : Nat, ∃ b : List Byte, ∃ d : FrameDesc, ∃ x : Nat × Args, Clocked s ∧ (s.codec e).running = some (c, b) ∧ e.val < 4 ∧ d = parseFrame false b ∧ (u = s.modCodec e (fun y => { y with running := none })) ∧ d.length ≠ 0 ∧ engineRead s.mem s.pages (u.codecCtx e c).fn.toNat (grainPieces d.src d.length) = .error x)
    ∧ (∃ s u : State, ∃ e : CodecIx, ∃ c : Nat, ∃ b : List Byte, ∃ d : FrameDesc, ∃ r : UnitRead, u.unitRead e c d = .ok r ∧ Clocked s ∧ (s.codec e).running = some (c, b) ∧ e.val < 4 ∧ d = parseFrame false b ∧ (u = s.modCodec e (fun y => { y with running := none })) ∧ d.length ≠ 0)
    ∧ (∃ s u : State, ∃ e c : Nat, ∃ d : FrameDesc, ∃ r : CodecEnd, twf {} s.codecs = true ∧ twf {} (s.codec e).ctx = true ∧ u = s.frameHalts e c d r)
    ∧ (∃ s : State, ∃ e : CodecIx, ∃ c : Nat, ∃ b : List Byte, Clocked s ∧ (s.codec e).running = some (c, b) ∧ e.val < 4 ∧ (parseFrame false b).length = 0) :=
  ⟨⟨ol, qu ol, 4, 3, fd 256, [9], by decide +kernel⟩,
    ⟨oc, qu oc, (qu oc).saveEngine 4 3, 4, 3, fd 256, by decide +kernel⟩,
    ⟨(cd 4 { ctx := [(3, { ec with queue := [fd 255] })] }), 4, 3, stBadField, fd 255, by decide +kernel⟩,
    ⟨oc, 4, by decide +kernel⟩,
    ⟨rn, rnu, 4, 3, fd 256, rbs, parseFrame true (fd 256), (rnu.codecCtx 4 3).rates (parseFrame true (fd 256)), parseCodec er, by decide +kernel⟩,
    ⟨dr 0x20000000, du 0x20000000, 1, 3, df 0x20000000 300, parseFrame false (df 0x20000000 300), erB (engineRead (dr 0).mem (dr 0).pages 0 (grainPieces 0x20000000 300)), by decide +kernel⟩,
    ⟨dr 0x100000, du 0x100000, 1, 3, df 0x100000 300, parseFrame false (df 0x100000 300), okU ((du 0x100000).unitRead 1 3 (parseFrame false (df 0x100000 300))), okU_eq (by decide +kernel), by decide +kernel⟩,
    ⟨rn, rn.frameHalts 4 3 (parseFrame true (fd 256)) { status := stCodecStream, reason := 2, user := 9 }, 4, 3, parseFrame true (fd 256), { status := stCodecStream, reason := 2, user := 9 }, by decide +kernel⟩,
    ⟨dz, 1, 3, df 0 0, by decide +kernel⟩⟩

/-- States and operands that meet the hypotheses of Obligations.stem_descriptors_run_row_by_row (its part on stem queues), clause by clause. -/
theorem witness_stem_queues :
    (∃ s : State, ∃ f : Fn, ∃ m : Mb, ∃ e n : Nat, Admitted stemPostForm s f m ∧ e = (s.ctl.req f m).u32 0 ∧ n = (s.ctl.req f m).u32 4 % 4 ∧ (s.ctxOf f).coreMask.toNat / 2 ^ (64 * e) % 2 ^ 64 ≠ 0 ∧ ((s.stem e).queue f).length + n ≤ 64)
    ∧ (∃ s : State, ∃ f : Fn, ∃ m : Mb, Admitted stemPostForm s f m ∧ (s.ctxOf f).coreMask.toNat / 2 ^ (64 * (s.ctl.req f m).u32 0) % 2 ^ 64 = 0)
    ∧ (∃ s : State, ∃ f : Fn, ∃ m : Mb, ∃ e : Nat, Admitted stemResumeForm s f m ∧ e = (s.ctl.req f m).u32 0 ∧ (s.stem e).halted.contains f.val = true)
    ∧ (∃ s : State, ∃ f : Fn, ∃ m : Mb, Admitted stemResumeForm s f m ∧ (s.stem ((s.ctl.req f m).u32 0)).halted.contains f.val = false) :=
  ⟨⟨asked (st {}) 0 0 0x303 (ws [2, 1, 0, 0] ++ List.replicate 128 1), 0, 0, 2, 1, by decide +kernel⟩,
    ⟨asked (st {}) 0 0 0x303 (ws [1, 1, 0, 0] ++ List.replicate 128 1), 0, 0, by decide +kernel⟩,
    ⟨asked (st { halted := [0], queues := [(0, [[1]])] }) 0 0 0x304 (ws [2, 1]), 0, 0, 2, by decide +kernel⟩,
    ⟨asked (st {}) 0 0 0x304 (ws [2, 1]), 0, 0, by decide +kernel⟩⟩

/-- States and operands that meet the hypotheses of Obligations.stem_descriptors_run_row_by_row, clause by clause. -/
theorem witness_stem_descriptors_run_row_by_row :
    (∃ s : State, ∃ e : StemIx, ∃ f : Nat, ∃ b : List Byte, Clocked s ∧ (s.stem e).running = none ∧ s.rst.past 11 true = true ∧ (s.stem e).next = some (f, b) ∧ stemRefusal (s.ctxOf f) e f b = none)
    ∧ (∃ s : State, ∃ e : StemIx, ∃ f st : Nat, ∃ b : List Byte, Clocked s ∧ (s.stem e).running = none ∧ s.rst.past 11 true = true ∧ (s.stem e).next = some (f, b) ∧ stemRefusal (s.ctxOf f) e f b = some st)
    ∧ (∃ s : State, ∃ e : StemIx, ∃ r : StemRun, ∃ x : Nat, ∃ bs : List Byte, Clocked s ∧ (s.stem e).running = some r ∧ stemKind r.desc ≠ 3 ∧ r.awaited = [x] ∧ s.gatesMet (parseStem r.desc) x = true ∧ twf {} s.stems = true ∧ stemLine s.mem s.pages r.fn (parseStem r.desc) x = .ok bs)
    ∧ (∃ s : State, ∃ e : StemIx, ∃ r : StemRun, ∃ x : Nat, ∃ l : List Nat, Clocked s ∧ (s.stem e).running = some r ∧ stemKind r.desc ≠ 3 ∧ r.awaited = x :: l ∧ s.gatesMet (parseStem r.desc) x = false)
    ∧ (∃ s u : State, ∃ e : StemIx, ∃ r : StemRun, ∃ row : List (Nat × List Byte) × Nat, Clocked s ∧ (s.stem e).running = some r ∧ stemKind r.desc ≠ 3 ∧ r.rowsDone < (parseStem r.desc).rows ∧ r.awaited = [] ∧ stemRowPieces s r ((parseStem r.desc).y0 + r.rowsDone) = .ok row ∧ firstBad (engineWrites s.mem s.pages r.fn row.1) = none ∧ (u = (if (parseStem r.desc).rowEn then (s.engineWrite r.fn row.1).1.addCtr (fieldCluster (parseStem r.desc).rowCtr) (parseStem r.desc).rowCtr 1 else (s.engineWrite r.fn row.1).1)))
    ∧ (∃ s : State, ∃ e : StemIx, ∃ r : StemRun, ∃ b : Nat × Args, Clocked s ∧ (s.stem e).running = some r ∧ stemKind r.desc ≠ 3 ∧ r.rowsDone < (parseStem r.desc).rows ∧ r.awaited = [] ∧ stemRowPieces s r ((parseStem r.desc).y0 + r.rowsDone) = .error b)
    ∧ (∃ s : State, ∃ e : StemIx, ∃ r : StemRun, Clocked s ∧ (s.stem e).running = some r ∧ stemKind r.desc ≠ 3 ∧ (parseStem r.desc).rows ≤ r.rowsDone)
    ∧ (∃ s : State, ∃ e : StemIx, ∃ r : StemRun, Clocked s ∧ (s.stem e).running = some r ∧ stemTimeoutUs r.desc ≠ 0)
    ∧ (∃ s : State, ∃ e : StemIx, ∃ r : StemRun, Clocked s ∧ (s.stem e).running = some r ∧ stemKind r.desc = 3 ∧ r.count = none ∧ (parseDet r.desc).countAddr = 0 ∧ (((parseDet r.desc).waitEn = false ∨ s.share.ctrBad (fieldCluster (parseDet r.desc).waitCtr) (parseDet r.desc).waitCtr = false ∧ meets (s.share.ctr (fieldCluster (parseDet r.desc).waitCtr) (parseDet r.desc).waitCtr) (BitVec.ofNat 32 (parseDet r.desc).waitThr) = true)))
    ∧ (∃ s : State, ∃ e : StemIx, ∃ r : StemRun, Clocked s ∧ (s.stem e).running = some r ∧ stemKind r.desc = 3 ∧ r.count = none ∧ (parseDet r.desc).waitEn = true ∧ meets (s.share.ctr (fieldCluster (parseDet r.desc).waitCtr) (parseDet r.desc).waitCtr) (BitVec.ofNat 32 (parseDet r.desc).waitThr) = false)
    ∧ (∃ s u : State, ∃ e : Nat, ∃ r : StemRun, ∃ st rs a : Nat, twf {} s.stems = true ∧ u = s.stemFails e r st rs a) :=
  ⟨⟨sqq (sd 0 2 0), 2, 0, sd 0 2 0, by decide +kernel⟩,
    ⟨sqq (sd 0 0 0), 2, 0, stBadField, sd 0 0 0, by decide +kernel⟩,
    ⟨srs (sd 0 2 0), 2, sr (sd 0 2 0), 0, (match stemLine (srs []).mem (srs []).pages 0 (parseStem (sd 0 2 0)) 0 with | .ok b => b | .error _ => []), by decide +kernel⟩,
    ⟨srs wd, 2, sr wd, 0, [], by decide +kernel⟩,
    ⟨s5, (s5.engineWrite 0 row5.1).1, 2, r5, row5, by decide +kernel⟩,
    ⟨st { running := some r6 }, 2, r6, erR (stemRowPieces (st { running := some r6 }) r6 0), by decide +kernel⟩,
    ⟨st { running := some r7 }, 2, r7, by decide +kernel⟩,
    ⟨srs (sd 0 2 10), 2, sr (sd 0 2 10), by decide +kernel⟩,
    ⟨srs (dd 0), 2, sr (dd 0), by decide +kernel⟩,
    ⟨srs (lay (dd 64) (0x58, ws [1])), 2, sr (lay (dd 64) (0x58, ws [1])), by decide +kernel⟩,
    ⟨st { running := some r7 }, (st { running := some r7 }).stemFails 2 r7 stSlipLimit 1 0, 2, r7, stSlipLimit, 1, 0, by decide +kernel⟩⟩

end W15

namespace W16

set_option maxRecDepth 100000
set_option linter.unusedVariables false

def okN (x : Host.Outcome Sys2Proof.Machine.State Fault Refusal) : State := match x with | .next t => t | _ => {}
def hv (n : Nat) : State := { base with host := { base.host with vfsEnabled := BitVec.ofNat 4 n } }
def wf (s : State) (f : Nat) : State := { s with host := s.host.setFn f { s.host.fn f with flr := some { since := 3 } } }
def fb : State := let s := running (image [] 0 [] []); { s with codecs := [(0, { ctx := [(0, { st := .open, fn := 0 })] })] }
def fA : State := State.flrNamed { fb with host := fb.host.setFn 0 { fb.host.fn 0 with flr := some { since := fb.now } } } 0
def fB : State := State.unrouse { fA with ctl := fA.ctl.flr 0, seqs := fA.seqs.flr 0, pages := fA.pages.flr 0, cores := fA.cores.flr 0 } fA
def fC : State := (fB.queueCut .pannier 0).queueCut .hostCopy 0
def fD : State := State.flrFabric { fC with mem := fC.mem.filled 0 } 0
def ip : InProgress := { cmd := { fn := 0, code := 0x402, tag := 7 }, names := 2 }
def sqF : SeqState := { seqs := [(0, { st := .active, fn := 2 }), (4, { st := .retiring, fn := 2 }), (9, { st := .active, fn := 3 })], lists := [(2, [{ epoch := 0, cmd := { fn := 0, code := 0x40F, tag := 7 } }])], lookahead := [(2, [4])] }
def mq : QDesc := { bytes := List.replicate 64 0, ordinal := 0, started := true }
def fs : State := { base with fabric := { slots := [(3, { valid := true, fn := 2 })] } }
def fop : CollOp := { fn := 2, slot := 3, opSeq := 1, desc := { bytes := List.replicate 64 0, ordinal := 0 }, digest := 0, overflow := 0 }
def st1 : StemRun := { fn := 2, desc := List.replicate 64 0, startAt := 0 }
def stS : State := fs.modStem 1 (fun x => { x with running := some st1 })
def up : State := { base with rst := { base.rst with pins := { base.rst.pins with vaoUp := true } } }
def ic : State := { up with rst := { up.rst with current := some { level := .core, step := 6, lastAt := 0 } } }
def sy : State := { up with rst := { up.rst with current := some { level := .system, step := 6, lastAt := 0 } } }
def sc : ResetNow := { level := .system, step := 6, lastAt := 0 }
def rr (l : ResetLevel) (st : Nat) : State := { up with rst := { up.rst with ready := false, current := some { level := l, step := st, lastAt := 0 } } }
def vf : State := { up with rst := { up.rst with ready := false }, sec := { up.sec with attKey := some { draw := 0 } } }
def rl (s : State) (l : List Nat) : State := { s with rst := { s.rst with pins := { s.rst.pins with railsLow := l } } }

/-- States and operands that meet the hypotheses of Obligations.a_function_is_reset, clause by clause. -/
theorem witness_a_function_is_reset :
    (∃ s : State, ∃ f : Fn, Clocked s ∧ s.host.configures f = true ∧ f.val ≠ 0 ∧ s.wake.host.resetting f = false)
    ∧ (∃ s : State, ∃ f : Fn, Clocked s ∧ s.host.configures f = false ∧ s.host.link ≠ .l0 ∧ s.host.link ≠ .l1)
    ∧ (∃ s : State, ∃ f : Fn, Clocked s ∧ ((s.host.link = .l0 ∨ s.host.link = .l1)) ∧ s.host.configReady = false)
    ∧ (∃ s : State, ∃ f : Fn, Clocked s ∧ s.host.configures f = true ∧ s.wake.host.resetting f = true)
    ∧ (∃ s : State, ∃ f : Fn, ∃ c : CoreIx, ∃ j : FlrJob, ∃ r : RunBlock, Clocked s ∧ (s.host.fn f).flr = some j ∧ (s.core c).run = some r ∧ r.fn = f ∧ r.ending = none)
    ∧ (∃ s : State, ∃ f : Fn, Clocked s ∧ (s.host.fn f).flr.isSome = true ∧ s.flrReady f = true)
    ∧ (∃ s : State, ∃ f : Fn, Clocked s ∧ s.flrReady f = false)
    ∧ (∃ s : State, ∃ num : Fin 16, Clocked s ∧ s.host.configures 0 = true ∧ num.val ≠ 0 ∧ s.wake.host.vfsEnabled = 0)
    ∧ (∃ s : State, Clocked s ∧ s.host.configures 0 = true ∧ s.wake.host.vfsEnabled = 0) :=
  ⟨⟨hv 3, 2, by decide +kernel⟩,
    ⟨{ hv 3 with host := { (hv 3).host with link := .down } }, 4, by decide +kernel⟩,
    ⟨{ hv 3 with host := { (hv 3).host with configReady := false } }, 2, by decide +kernel⟩,
    ⟨wf (hv 3) 2, 2, by decide +kernel⟩,
    ⟨wf (running (image [] 0 [] [])) 0, 0, 0, { since := 3 }, block (image [] 0 [] []), by decide +kernel⟩,
    ⟨wf (hv 3) 2, 2, by decide +kernel⟩,
    ⟨wf (running (image [] 0 [] [])) 0, 0, by decide +kernel⟩,
    ⟨hv 0, 3, by decide +kernel⟩,
    ⟨hv 0, by decide +kernel⟩⟩

/-- States and operands that meet the hypotheses of Obligations.a_function_is_reset (its part on what a reset function asked for goes), clause by clause. -/
theorem witness_what_a_reset_function_asked_for_goes :
    (∃ s a b c d : State, ∃ f : Nat, (s.host.fn f).flr = none ∧ a = State.flrNamed { s with host := s.host.setFn f { s.host.fn f with flr := some { since := s.now } } } f ∧ b = State.unrouse { a with ctl := a.ctl.flr f, seqs := a.seqs.flr f, pages := a.pages.flr f, cores := a.cores.flr f } a ∧ c = (b.queueCut .pannier f).queueCut .hostCopy f ∧ d = State.flrFabric { c with mem := c.mem.filled f } f)
    ∧ (∃ s : State, ∃ f : Nat, (s.host.fn f).flr.isSome = true)
    ∧ (∃ s : State, ∃ f : Nat, ∃ p : InProgress, s.ctl.inProgress = [p])
    ∧ (∃ c : CtlState, ∃ f : Nat, twf {} c.rings = true)
    ∧ (∃ q : SeqState, ∃ f i : Nat, twf {} q.seqs = true)
    ∧ (∃ q : SeqState, ∃ f i : Nat, twf {} q.seqs = true)
    ∧ (∃ q : SeqState, ∃ f i : Nat, twf {} q.seqs = true)
    ∧ (∃ q : SeqState, ∃ f g : Nat, twf [] q.lists = true ∧ twf [] q.lookahead = true ∧ twf none q.destroying = true ∧ twf none q.preempting = true ∧ twf none q.restoring = true)
    ∧ (∃ p : PageState, ∃ f g : Nat, twf {} p.recs = true)
    ∧ (∃ x : CoresState, ∃ f c : Nat, twf {} x.cores = true)
    ∧ (∃ k : CoreState, ∃ f g : Nat, twf [] k.queues = true ∧ twf none k.successors = true)
    ∧ (∃ s : State, ∃ f : Nat, ((∀ q ∈ (s.queue .pannier f).descs, q.started = false ∨ (parseDesc .pannier q.bytes).fence = true)))
    ∧ (∃ s : State, ∃ f : Nat, ((∀ q ∈ (s.queue .hostCopy f).descs, q.started = false ∨ (parseDesc .hostCopy q.bytes).fence = true)))
    ∧ (∃ s : State, ∃ f : Nat, ∃ q : QDesc, ∃ d : RDesc, q.started = true ∧ (parseDesc .pannier q.bytes).fence = false ∧ d = parsePannier q.bytes)
    ∧ (∃ s : State, ∃ f : Nat, ∃ mine : List Nat, ((∀ o ∈ s.fabric.ops, o.fn ≠ f)) ∧ (mine = (List.range 64).filter (fun i => (s.slot i).valid && (s.slot i).fn.toNat == f)))
    ∧ (∃ x : FabricState, ∃ i j : Nat, twf {} x.slots = true)
    ∧ (∃ s : State, ∃ f e : Nat, ((∀ r, (s.stem e).running = some r → r.fn ≠ f)))
    ∧ (∃ s u : State, ∃ f e : Nat, ∃ r : StemRun, (s.stem e).running = some r ∧ r.fn = f ∧ (u = s.modStem e (fun x => { x with queues := tset [] x.queues f [], halted := x.halted.filter (· != f) }))) :=
  ⟨⟨fb, fA, fB, fC, fD, 0, by decide +kernel⟩,
    ⟨wf base 0, 0, by decide +kernel⟩,
    ⟨{ base with ctl := { base.ctl with inProgress := [ip] } }, 2, ip, by decide +kernel⟩,
    ⟨(asked base 2 0 1 []).ctl, 2, by decide +kernel⟩,
    ⟨sqF, 2, 0, by decide +kernel⟩,
    ⟨sqF, 2, 4, by decide +kernel⟩,
    ⟨sqF, 2, 9, by decide +kernel⟩,
    ⟨sqF, 2, 2, by decide +kernel⟩,
    ⟨{ recs := [(2, { enabled := true })] }, 2, 2, by decide +kernel⟩,
    ⟨fb.cores, 0, 0, by decide +kernel⟩,
    ⟨{ queues := [(2, [{ image := 0 }])] }, 2, 2, by decide +kernel⟩,
    ⟨fb, 0, by decide +kernel⟩,
    ⟨fb, 0, by decide +kernel⟩,
    ⟨base, 0, mq, parsePannier mq.bytes, by decide +kernel⟩,
    ⟨fs, 2, [3], by decide +kernel⟩,
    ⟨fs.fabric, 3, 3, by decide +kernel⟩,
    ⟨fs, 2, 1, by decide +kernel⟩,
    ⟨stS, stS, 2, 1, st1, by decide +kernel⟩⟩

/-- States and operands that meet the hypotheses of Obligations.a_reset_function_leaves_nothing, clause by clause. -/
theorem witness_a_reset_function_leaves_nothing :
    (∃ s : State, ∃ f : Nat, twf {} s.seqs.ctx = true) :=
  ⟨{ base.setCtx 0 ctx0 with cores := { spad := [(5, 1)], acc := [(7, 1)], codeTables := [(3, {})] } }, 0, by decide +kernel⟩

/-- States and operands that meet the hypotheses of Obligations.reset_sources_take_their_levels, clause by clause. -/
theorem witness_reset_sources_take_their_levels :
    (∃ s : State, s.rst.current = none ∧ s.sec.transitionResetAt = none)
    ∧ (∃ s : State, ∃ t : Nat, s.rst.current = none ∧ s.sec.transitionResetAt = some t)
    ∧ (∃ s : State, s.rst.current = none)
    ∧ (∃ s : State, ∃ c : ResetNow, s.rst.current = some c)
    ∧ (∃ s : State, ∃ t : Nat, ∃ rest : List (ResetLevel × Nat), Clocked s ∧ s.rst.software = (.system, t) :: rest ∧ s.rst.current = none ∧ s.rst.pins.vaoUp = true)
    ∧ (∃ s : State, s.rst.pins.perstAsserted = false ∧ s.rst.pins.vaoUp = true ∧ s.rst.current = none)
    ∧ (∃ s : State, ((s.sec.lifecycle = 0 ∨ s.sec.lifecycle = 1 ∨ (s.sec.lifecycle = 3 ∧ s.sec.debugOpen = true))) ∧ s.rst.pins.vaoUp = true ∧ s.rst.current = none)
    ∧ (∃ s : State, ∃ b : Bool, ((s.sec.lifecycle = 2 ∨ s.sec.lifecycle = 4 ∨ (s.sec.lifecycle = 3 ∧ s.sec.debugOpen = false))))
    ∧ (∃ s : State, ∃ rail : Fin 12, rail.val ≠ 10 ∧ s.rst.pins.vaoUp = true ∧ s.rst.current = none)
    ∧ (∃ s : State, s.rst.pins.vaoUp = true ∧ s.rst.current = none)
    ∧ (∃ s : State, s.rst.pins.vaoUp = true)
    ∧ (∃ s : State, Clocked s ∧ s.rst.past 5 true = true ∧ s.now < s.rst.watchdogUntil ∧ s.rst.pins.vaoUp = true ∧ s.rst.current = none)
    ∧ (∃ s : State, Clocked s ∧ s.rst.past 5 true = true ∧ s.rst.watchdogUntil ≤ s.now ∧ s.rst.pins.vaoUp = true ∧ s.rst.current = none)
    ∧ (∃ s : State, ∃ t : Nat, ∃ rest : List (ResetLevel × Nat), Clocked s ∧ s.rst.software = (.core, t) :: rest ∧ s.rst.current = none ∧ s.rst.pins.vaoUp = true)
    ∧ (∃ s : State, ∃ c : ResetNow, s.rst.current = some c ∧ c.level ≠ .core ∧ s.rst.pins.vaoUp = true)
    ∧ (∃ s : State, ∃ c : ResetNow, ∃ b : Bool, s.rst.current = some c ∧ c.level ≠ .core ∧ s.rst.pins.vaoUp = true ∧ ((s.sec.lifecycle = 0 ∨ s.sec.lifecycle = 1 ∨ (s.sec.lifecycle = 3 ∧ s.sec.debugOpen = true))))
    ∧ (∃ s : State, ∃ c : ResetNow, ∃ l : ResetLevel, ∃ t : Nat, ∃ rest : List (ResetLevel × Nat), Clocked s ∧ s.rst.current = some c ∧ s.rst.software = (l, t) :: rest ∧ s.rst.pins.vaoUp = true ∧ levelRank l ≤ levelRank c.level)
    ∧ (∃ s : State, ∃ c : ResetNow, ∃ l : ResetLevel, ∃ t : Nat, ∃ rest : List (ResetLevel × Nat), Clocked s ∧ s.rst.current = some c ∧ s.rst.software = (l, t) :: rest ∧ s.rst.pins.vaoUp = true ∧ levelRank l ≤ levelRank c.level)
    ∧ (∃ s : State, ∃ c : ResetNow, s.rst.current = some c ∧ c.level = .core ∧ s.rst.pins.vaoUp = true) :=
  ⟨⟨up, by decide +kernel⟩,
    ⟨{ up with sec := { up.sec with transitionResetAt := some 9 } }, 9, by decide +kernel⟩,
    ⟨up, by decide +kernel⟩,
    ⟨ic, { level := .core, step := 6, lastAt := 0 }, by decide +kernel⟩,
    ⟨{ up with rst := { up.rst with software := [(.system, 8)] } }, 8, [], by decide +kernel⟩,
    ⟨up, by decide +kernel⟩,
    ⟨up, by decide +kernel⟩,
    ⟨{ up with sec := { up.sec with lifecycle := 2 } }, true, by decide +kernel⟩,
    ⟨up, 3, by decide +kernel⟩,
    ⟨up, by decide +kernel⟩,
    ⟨up, by decide +kernel⟩,
    ⟨{ up with rst := { up.rst with watchdogUntil := 5 } }, by decide +kernel⟩,
    ⟨up, by decide +kernel⟩,
    ⟨{ up with rst := { up.rst with software := [(.core, 8)] } }, 8, [], by decide +kernel⟩,
    ⟨sy, sc, by decide +kernel⟩,
    ⟨sy, sc, true, by decide +kernel⟩,
    ⟨{ sy with rst := { sy.rst with software := [(.core, 8)] } }, sc, .core, 8, [], by decide +kernel⟩,
    ⟨{ sy with rst := { sy.rst with software := [(.system, 8)] } }, sc, .system, 8, [], by decide +kernel⟩,
    ⟨{ ic with rst := { ic.rst with software := [(.system, 8)] } }, { level := .core, step := 6, lastAt := 0 }, by decide +kernel⟩⟩

/-- States and operands that meet the hypotheses of Obligations.a_reset_is_released_in_order, clause by clause. -/
theorem witness_a_reset_is_released_in_order :
    (∃ s : State, ∃ c : ResetNow, Clocked s ∧ s.rst.current = some c ∧ (s.rst.pins.railsLow = [] ∨ c.step = 1) ∧ s.rst.stepOk c.step = false)
    ∧ (∃ s : State, ∃ c : ResetNow, Clocked s ∧ s.rst.current = some c ∧ s.rst.pins.railsLow = [] ∧ c.level ≠ .core ∧ ((c.step = 11 ∨ c.step = 12 ∨ c.step = 13)))
    ∧ (∃ s : State, ∃ c : ResetNow, Clocked s ∧ s.rst.current = some c ∧ s.rst.pins.railsLow = [] ∧ c.level ≠ .core ∧ ((c.step = 11 ∨ c.step = 12 ∨ c.step = 13)))
    ∧ (∃ s : State, ∃ c : ResetNow, Clocked s ∧ s.rst.current = some c ∧ s.rst.pins.railsLow = [] ∧ c.level ≠ .core ∧ ((c.step = 11 ∨ c.step = 12 ∨ c.step = 13)))
    ∧ (∃ s : State, ∃ c : ResetNow, Clocked s ∧ s.rst.current = some c ∧ s.rst.pins.railsLow = [] ∧ c.level ≠ .core ∧ c.step = 2 ∧ s.rst.pins.perstAsserted = false)
    ∧ (∃ s : State, ∃ c : ResetNow, Clocked s ∧ s.rst.current = some c ∧ s.rst.pins.railsLow = [] ∧ c.level ≠ .core ∧ c.step = 14 ∧ s.rst.pins.perstAsserted = false)
    ∧ (∃ s : State, ∃ c : ResetNow, Clocked s ∧ s.rst.current = some c ∧ s.rst.pins.railsLow = [] ∧ c.level = .core ∧ c.step = 11)
    ∧ (∃ s : State, ∃ c : ResetNow, Clocked s ∧ s.rst.current = some c ∧ s.rst.pins.railsLow = [] ∧ c.level = .core ∧ c.step = 6)
    ∧ (∃ s : State, ∃ c : ResetNow, Clocked s ∧ s.rst.current = some c ∧ s.rst.pins.railsLow = [] ∧ c.step = 9 ∧ c.cluster < 15)
    ∧ (∃ s : State, ∃ c : ResetNow, Clocked s ∧ s.rst.current = some c ∧ s.rst.pins.railsLow = [] ∧ c.step = 9 ∧ c.cluster < 15)
    ∧ (∃ s : State, ∃ n : Nat, Clocked s ∧ s.rst.past 7 false = true)
    ∧ (∃ s : State, ∃ n : Nat, Clocked s ∧ s.rst.past 7 false = true)
    ∧ (∃ s : State, Clocked s ∧ s.rst.ready = false ∧ s.sec.recovery = false ∧ s.sec.lifecycle ≠ 4 ∧ s.rst.tandemRead = true ∧ s.rst.current = none ∧ s.rst.fastFilled = true ∧ s.sec.attKey.isSome = true)
    ∧ (∃ s : State, Clocked s ∧ s.rst.ready = false ∧ s.sec.recovery = false ∧ s.sec.lifecycle ≠ 4 ∧ s.rst.past 5 true = true ∧ s.rst.tandemRead = true ∧ s.bootSlot = none)
    ∧ (∃ s : State, Clocked s ∧ s.sec.lifecycle = 4)
    ∧ (∃ s : State, ∃ c : ResetNow, Clocked s ∧ s.rst.current = some c ∧ c.step ≠ 1 ∧ s.rst.pins.railsLow ≠ [])
    ∧ (∃ p : Pins, p.railsLow ≠ [] ∧ ((∀ x ∈ p.railsLow, x < 12 ∧ x ≠ 10)))
    ∧ (∃ p : Pins, p.railsLow ≠ [] ∧ ((∀ x ∈ p.railsLow, x < 12 ∧ x ≠ 10)))
    ∧ (∃ p : Pins, ∃ a b : Nat, ∃ i j : Nat, a ∈ railSteps.getD i [] ∧ b ∈ railSteps.getD j [] ∧ i < j ∧ a ∈ p.railsLow ∧ b ∈ p.railsLow)
    ∧ (∃ s : State, ∃ n : Nat, Clocked s ∧ s.rst.past 7 false = true ∧ s.rst.fastFilled = true)
    ∧ (∃ s : State, ∃ n : Nat, Clocked s ∧ s.rst.past 7 false = true ∧ s.rst.fastFilled = false) :=
  ⟨⟨{ rr .system 7 with rst := { (rr .system 7).rst with tandemRead := false } }, { level := .system, step := 7, lastAt := 0 }, by decide +kernel⟩,
    ⟨rr .system 11, { level := .system, step := 11, lastAt := 0 }, by decide +kernel⟩,
    ⟨rr .powerOn 12, { level := .powerOn, step := 12, lastAt := 0 }, by decide +kernel⟩,
    ⟨rr .system 13, { level := .system, step := 13, lastAt := 0 }, by decide +kernel⟩,
    ⟨rr .system 2, { level := .system, step := 2, lastAt := 0 }, by decide +kernel⟩,
    ⟨rr .system 14, { level := .system, step := 14, lastAt := 0 }, by decide +kernel⟩,
    ⟨rr .core 11, { level := .core, step := 11, lastAt := 0 }, by decide +kernel⟩,
    ⟨rr .core 6, { level := .core, step := 6, lastAt := 0 }, by decide +kernel⟩,
    ⟨rr .system 9, { level := .system, step := 9, lastAt := 0 }, by decide +kernel⟩,
    ⟨rr .core 9, { level := .core, step := 9, lastAt := 0 }, by decide +kernel⟩,
    ⟨up, 77, by decide +kernel⟩,
    ⟨{ up with rst := { up.rst with fastFilled := false } }, 77, by decide +kernel⟩,
    ⟨{ vf with rst := { vf.rst with nor := setBytes 0xFF [] (slotBase 1) (List.replicate 16 0) } }, by decide +kernel⟩,
    ⟨{ vf with rst := { vf.rst with nor := setBytes 0xFF [] (slotBase 1) (List.replicate 16 0) } }, by decide +kernel⟩,
    ⟨{ vf with sec := { vf.sec with lifecycle := 4 } }, by decide +kernel⟩,
    ⟨rl (rr .system 2) [0, 4], { level := .system, step := 2, lastAt := 0 }, by decide +kernel⟩,
    ⟨(rl up [0, 4]).rst.pins, by decide +kernel⟩,
    ⟨(rl up [11]).rst.pins, by decide +kernel⟩,
    ⟨(rl up ((railSteps.getD 0 []) ++ (railSteps.getD 1 []))).rst.pins, (railSteps.getD 0 []).headD 0, (railSteps.getD 1 []).headD 0, 0, 1, by decide +kernel⟩,
    ⟨up, 77, by decide +kernel⟩,
    ⟨{ up with rst := { up.rst with fastFilled := false } }, 77, by decide +kernel⟩⟩

/-- States and operands that meet the hypotheses of Obligations.a_core_reset_stops_the_cores, clause by clause. -/
theorem witness_a_core_reset_stops_the_cores :
    (∃ s : State, ∃ lockup : Bool, twf {} s.cores.cores = true ∧ (s.core 0).run.isSome = true)
    ∧ (∃ s : State, ∃ lockup : Bool, twf {} s.seqs.seqs = true ∧ (s.seq 3).st = .active) :=
  ⟨⟨running (image [] 0 [] []), false, by decide +kernel⟩,
    ⟨{ base with seqs := { base.seqs with seqs := [(3, { st := .active })] } }, false, by decide +kernel⟩⟩

end W16

namespace W17

set_option maxRecDepth 100000
set_option linter.unusedVariables false

def sc (f : SecState → SecState) : State := { base with sec := f base.sec }
def ms : State := asked (sc (fun c => { c with log := [List.replicate 64 3] })) 0 0 0x901 (ws [0])
def ak : AttKey := { draw := 5, nextIndex := 3, certificate := some [1] }
def ks : State := sc (fun c => { c with lifecycle := 2, attKey := some ak })
def qs : State := asked ks 0 0 0x902 (List.replicate 32 1 ++ ws [0x100000, 0, 2628, 0])
def kc (j : ServiceJob) : State := { mapped ks 0x100000 [] with ctl := { ks.ctl with services := [({ fn := 0, code := 0x902, tag := 7 }, j)] } }
def okS (x : Except Args State) : State := match x with | .ok t => t | _ => {}
def a0 : State := sc (fun c => { c with lifecycle := 1 })
def okN (x : Host.Outcome Sys2Proof.Machine.State Fault Refusal) : State := match x with | .next t => t | _ => {}
def rdB (x : Except Args (List Byte)) : List Byte := match x with | .ok t => t | _ => []
def ad : State := asked (mapped base 0x100000 []) 0 0 0x904 (ws [1, 0, 0x100000, 0, 2948, 0])
def tr (n : BitVec 3) : State := sc (fun c => { c with transition := some (n, { fn := 0, code := 0x904, tag := 7 }) })
def trU (n : Nat) : State := let s := (tr (BitVec.ofNat 3 n)).transitionActions n; { s with sec := { s.sec with transition := none, transitionResetAt := some (10 * usTicks) } }
def up : Update := { slot := 1, image := [0], activate := false, cmd := some { fn := 0, code := 0xA03, tag := 7 } }
def fw : Firmware := { slot := 1, major := 1, minor := 1, sv := 1, svnAt := some 6 }
def rs (f : ResetState → ResetState) : State := { base with rst := f base.rst }
def tw : TandemWrite := { bankB := true, config := {}, sequence := 5 }
def hdr (n : Nat) : List Byte := natLe 4 0x444E4154 ++ natLe 4 1 ++ natLe 4 n ++ natLe 4 0
def bnk (n : Nat) : List Byte := let h := hdr n ++ List.replicate 48 0; lay h (16, bankCheck h [])
def rb : ResetState := { nor := setBytes 0xFF (setBytes 0xFF [] (bankBase false) (bnk 5)) (bankBase true) (bnk 6) }
def rb1 : ResetState := ResetState.written {} tw

/-- States and operands that meet the hypotheses of Obligations.attestation_commands, clause by clause. -/
theorem witness_attestation_commands :
    (∃ s : State, ∃ f : Fn, ∃ m : Mb, ∃ r : List Byte, Admitted measurementForm s f m ∧ s.sec.log[(s.ctl.req f m).u32 0]? = some r)
    ∧ (∃ s : State, ∃ f : Fn, ∃ m : Mb, Admitted measurementForm s f m ∧ s.sec.log.length ≤ (s.ctl.req f m).u32 0)
    ∧ (∃ s : State, ∃ f : Fn, ∃ m : Mb, ∃ k : AttKey, ∃ p : List Byte, Admitted quoteForm s f m ∧ s.sec.lifecycle ≠ 0 ∧ 2628 ≤ (s.ctl.req f m).u64 0x28 ∧ s.sec.attKey = some k ∧ k.usable = true ∧ s.ctl.services = [] ∧ p = (s.ctl.req f m).params)
    ∧ (∃ s : State, ∃ f : Fn, ∃ m : Mb, Admitted quoteForm s f m ∧ s.sec.lifecycle ≠ 0 ∧ 2628 ≤ (s.ctl.req f m).u64 0x28 ∧ s.sec.attKey = none)
    ∧ (∃ s : State, ∃ f : Fn, ∃ c : CmdRef, ∃ k : AttKey, ∃ nonce : List Byte, ∃ buffer ix : Nat, Clocked s ∧ s.ctl.services = [(c, .quote nonce buffer (some ix))] ∧ c.fn = f ∧ s.sec.attKey = some k)
    ∧ (∃ s : State, ∃ f : Fn, ∃ m : Mb, ∃ x : List Byte, Admitted certificateForm s f m ∧ s.sec.lifecycle ≠ 0 ∧ s.sec.certificate = some x)
    ∧ (∃ s : State, ∃ f : Fn, ∃ m : Mb, Admitted certificateForm s f m ∧ s.sec.lifecycle = 0)
    ∧ (∃ s : State, ∃ f : Fn, ∃ c : CmdRef, ∃ x : List Byte, ∃ buffer : Nat, Clocked s ∧ s.ctl.services = [(c, .certificate buffer)] ∧ c.fn = f ∧ s.sec.certificate = some x)
    ∧ (∃ s : State, ∃ f : Fn, ∃ m : Mb, Admitted logForm s f m ∧ (s.ctl.req f m).u64 16 ≠ 0)
    ∧ (∃ s u : State, ∃ f : Fn, ∃ c : CmdRef, ∃ offset buffer size : Nat, Clocked s ∧ s.ctl.services = [(c, .logRead offset buffer size)] ∧ c.fn = f ∧ State.writeVirt { s with ctl := { s.ctl with services := [] } } c.fn buffer (s.rst.norRead (norLog + offset) size) = .ok u)
    ∧ (∃ s : State, Clocked s ∧ s.rst.past 5 false = true ∧ s.rst.tandemRead = true ∧ s.sec.attKey = none ∧ ((s.sec.lifecycle = 1 ∨ s.sec.lifecycle = 2 ∨ s.sec.lifecycle = 3)) ∧ s.highWater < 2 ^ 20) :=
  ⟨⟨ms, 0, 0, List.replicate 64 3, by decide +kernel⟩,
    ⟨asked base 0 0 0x901 (ws [0]), 0, 0, by decide +kernel⟩,
    ⟨qs, 0, 0, ak, (qs.ctl.req 0 0).params, by decide +kernel⟩,
    ⟨asked (sc (fun c => { c with lifecycle := 2 })) 0 0 0x902 (List.replicate 32 1 ++ ws [0x100000, 0, 2628, 0]), 0, 0, by decide +kernel⟩,
    ⟨kc (.quote (List.replicate 32 1) 0x100000 (some 2)), 0, { fn := 0, code := 0x902, tag := 7 }, ak, List.replicate 32 1, 0x100000, 2, by decide +kernel⟩,
    ⟨asked ks 0 0 0x903 (ws [0x100000, 0, 100000, 0]), 0, 0, [1], by decide +kernel⟩,
    ⟨asked base 0 0 0x903 (ws [0x100000, 0, 100000, 0]), 0, 0, by decide +kernel⟩,
    ⟨kc (.certificate 0x100000), 0, { fn := 0, code := 0x902, tag := 7 }, [1], 0x100000, by decide +kernel⟩,
    ⟨asked base 0 0 0xA04 (ws [0, 0, 0x100000, 0, 5, 0]), 0, 0, by decide +kernel⟩,
    ⟨kc (.logRead 0 0x100000 5), okS (State.writeVirt (mapped ks 0x100000 []) 0 0x100000 (List.replicate 5 0xFF)), 0, { fn := 0, code := 0x902, tag := 7 }, 0, 0x100000, 5, by decide +kernel⟩,
    ⟨a0, by decide +kernel⟩⟩

/-- States and operands that meet the hypotheses of Obligations.attestation_commands (its part on vendor messages are answered), clause by clause. -/
theorem witness_vendor_messages_are_answered :
    (∃ s : State, ∃ p : MgmtPath, ∃ i : W32, Clocked s ∧ s.hears p false = true)
    ∧ (∃ s : State, ∃ p : MgmtPath, ∃ i : W32, Clocked s ∧ s.hears p false = true)
    ∧ (∃ s : State, ∃ p : MgmtPath, ∃ nonce : List Byte, Clocked s ∧ s.hears p false = true ∧ s.sec.lifecycle ≠ 0)
    ∧ (∃ s : State, ∃ p : MgmtPath, ∃ nonce : List Byte, Clocked s ∧ s.hears p false = true ∧ s.sec.lifecycle ≠ 0)
    ∧ (∃ s : State, ∃ p : MgmtPath, Clocked s ∧ s.hears p false = true ∧ s.sec.lifecycle ≠ 0)
    ∧ (∃ s : State, ∃ p : MgmtPath, ∃ nonce : List Byte, Clocked s ∧ s.hears p false = true ∧ s.sec.lifecycle = 0)
    ∧ (∃ s : State, ∃ p : MgmtPath, ∃ i : W32, ∃ nonce : List Byte, Clocked s ∧ s.hears p false = false)
    ∧ (∃ s : State, ∃ p : MgmtPath, ∃ i : W32, Clocked s ∧ s.hears p false = true ∧ s.sec.log[i.toNat]? = some [3])
    ∧ (∃ s : State, ∃ p : MgmtPath, ∃ i : W32, Clocked s ∧ s.hears p false = true ∧ s.sec.log.length ≤ i.toNat)
    ∧ (∃ s : State, ∃ p : MgmtPath, ∃ nonce : List Byte, Clocked s ∧ s.hears p false = true ∧ s.sec.lifecycle ≠ 0 ∧ s.sec.attKey = some ak ∧ ak.usable = true)
    ∧ (∃ s : State, ∃ p : MgmtPath, ∃ nonce : List Byte, Clocked s ∧ s.hears p false = true ∧ s.sec.lifecycle ≠ 0 ∧ s.sec.attKey = none) :=
  ⟨⟨sc (fun c => { c with lifecycle := 2, log := [[3]] }), .i3c, 0, by decide +kernel⟩,
    ⟨sc (fun c => { c with lifecycle := 2, log := [[3]] }), .i3c, 1, by decide +kernel⟩,
    ⟨ks, .i3c, [4], by decide +kernel⟩,
    ⟨{ ks with sec := { ks.sec with attKey := none } }, .vdm ⟨0, 64⟩, [4], by decide +kernel⟩,
    ⟨ks, .vdm ⟨0, 64⟩, by decide +kernel⟩,
    ⟨sc (fun c => { c with lifecycle := 0 }), .i3c, [4], by decide +kernel⟩,
    ⟨{ ks with rst := { ks.rst with ready := false } }, .vdm ⟨0, 64⟩, 5, [], by decide +kernel⟩,
    ⟨sc (fun c => { c with lifecycle := 2, log := [[3]] }), .i3c, 0, by decide +kernel⟩,
    ⟨sc (fun c => { c with lifecycle := 2, log := [[3]] }), .i3c, 1, by decide +kernel⟩,
    ⟨ks, .i3c, [4], by decide +kernel⟩,
    ⟨{ ks with sec := { ks.sec with attKey := none } }, .vdm ⟨0, 64⟩, [4], by decide +kernel⟩⟩

/-- States and operands that meet the hypotheses of Obligations.the_life_cycle_advances, clause by clause. -/
theorem witness_the_life_cycle_advances :
    (∃ s : State, ∃ f : Fn, ∃ m : Mb, Admitted advanceForm s f m ∧ transition s.sec.lifecycle.toNat ((s.ctl.req f m).u32 0) = none)
    ∧ (∃ s : State, ∃ f : Fn, ∃ m : Mb, Admitted advanceForm s f m ∧ (s.ctl.req f m).u32 0 = 4 ∧ s.sec.lifecycle.toNat < 4 ∧ s.sec.transition = none ∧ s.sec.transitionResetAt = none ∧ (s.ctl.req f m).u64 16 = 0)
    ∧ (∃ s : State, ∃ f : Fn, ∃ m : Mb, ∃ a : List Byte, Admitted advanceForm s f m ∧ transition s.sec.lifecycle.toNat ((s.ctl.req f m).u32 0) = some true ∧ s.sec.transition = none ∧ s.sec.transitionResetAt = none ∧ (s.ctl.req f m).u64 16 = 2948 ∧ readVirt s.mem s.pages f ((s.ctl.req f m).u64 8) 2948 = .ok a)
    ∧ (∃ s : State, ∃ to_ : BitVec 3, ∃ c : CmdRef, Clocked s ∧ s.sec.transition = some (to_, c))
    ∧ (∃ s : State, ∃ to_ : BitVec 3, ∃ c : CmdRef, Clocked s ∧ s.sec.transition = some (to_, c))
    ∧ (∃ s : State, ∃ to_ : BitVec 3, ∃ c : CmdRef, Clocked s ∧ s.sec.transition = some (to_, c))
    ∧ (∃ s : State, ∃ to_ : BitVec 3, ∃ c : CmdRef, Clocked s ∧ s.sec.transition = some (to_, c))
    ∧ (∃ s : State, ∃ a : List Byte, Clocked s ∧ s.sec.lifecycle = 3 ∧ s.sec.ownerSeed = BitVec.allOnes 256 ∧ s.rst.fastFilled = true ∧ s.rst.pannierFilled = pannierFrames)
    ∧ (∃ s : State, ∃ a : List Byte, ((s.sec.lifecycle ≠ 3 ∨ authorises a 3 3 s.sec.challenge = false))) :=
  ⟨⟨asked base 0 0 0x904 (ws [2, 0, 0, 0, 0, 0]), 0, 0, by decide +kernel⟩,
    ⟨asked base 0 0 0x904 (ws [4, 0, 0, 0, 0, 0]), 0, 0, by decide +kernel⟩,
    ⟨ad, 0, 0, List.replicate 2948 0, by decide +kernel⟩,
    ⟨tr 1, 1, { fn := 0, code := 0x904, tag := 7 }, by decide +kernel⟩,
    ⟨tr 2, 2, { fn := 0, code := 0x904, tag := 7 }, by decide +kernel⟩,
    ⟨tr 3, 3, { fn := 0, code := 0x904, tag := 7 }, by decide +kernel⟩,
    ⟨tr 4, 4, { fn := 0, code := 0x904, tag := 7 }, by decide +kernel⟩,
    ⟨sc (fun c => { c with lifecycle := 3, ownerSeed := BitVec.allOnes 256 }), [5], by decide +kernel⟩,
    ⟨base, [5], by decide +kernel⟩⟩

/-- States and operands that meet the hypotheses of Obligations.trim_and_tandem_store (its part on firmware is updated), clause by clause. -/
theorem witness_firmware_is_updated :
    (∃ s : State, ∃ f : Fn, ∃ m : Mb, Admitted updateForm s f m ∧ ((s.sec.update.isSome = true ∨ s.sec.runs ((s.ctl.req f m).u32 16 % 2) = true)))
    ∧ (∃ s : State, ∃ f : Fn, ∃ m : Mb, ∃ image : List Byte, Admitted updateForm s f m ∧ s.sec.update = none ∧ s.sec.runs ((s.ctl.req f m).u32 16 % 2) = false ∧ (s.ctl.req f m).u64 8 ≠ 0 ∧ readVirt s.mem s.pages f ((s.ctl.req f m).u64 0) ((s.ctl.req f m).u64 8) = .ok image)
    ∧ (∃ s : State, ∃ f : Fn, ∃ m : Mb, ∃ image : List Byte, Admitted updateForm s f m ∧ s.sec.update = none ∧ s.sec.runs ((s.ctl.req f m).u32 16 % 2) = false ∧ (s.ctl.req f m).u64 8 ≠ 0 ∧ readVirt s.mem s.pages f ((s.ctl.req f m).u64 0) ((s.ctl.req f m).u64 8) = .ok image ∧ fwSigned image = false)
    ∧ (∃ s : State, ∃ u : Update, ∃ c : CmdRef, ∃ k : SecState, Clocked s ∧ s.sec.update = some u ∧ u.cmd = some c ∧ u.markerOnly = false ∧ u.activate = false ∧ s.sec.recovery = false ∧ k = { s.sec with update := none })
    ∧ (∃ s : State, ∃ p : MgmtPath, ∃ image : List Byte, ∃ f : Firmware, Clocked s ∧ s.hears p true = true ∧ s.sec.update = none ∧ s.sec.recovery = false ∧ s.sec.firmware = some f)
    ∧ (∃ s : State, ∃ f : Firmware, ∃ t : Nat, Clocked s ∧ s.sec.firmware = some f ∧ f.svnAt = some t)
    ∧ (∃ c : SecState, ∃ ns kind slot major minor sv : Nat, ∃ d : List Byte, c.log.length ≤ 256) :=
  ⟨⟨asked (sc (fun c => { c with firmware := some { slot := 1, major := 1, minor := 1, sv := 1 } })) 0 0 0xA03 (ws [0x100000, 0, 5, 0, 1, 0]), 0, 0, by decide +kernel⟩,
    ⟨asked (mapped base 0x100000 []) 0 0 0xA03 (ws [0x100000, 0, 5, 0, 1, 0]), 0, 0, [0, 0, 0, 0, 0], by decide +kernel⟩,
    ⟨asked (mapped base 0x100000 []) 0 0 0xA03 (ws [0x100000, 0, 5, 0, 1, 0]), 0, 0, [0, 0, 0, 0, 0], by decide +kernel⟩,
    ⟨sc (fun c => { c with update := some up }), up, { fn := 0, code := 0xA03, tag := 7 }, base.sec, by decide +kernel⟩,
    ⟨sc (fun c => { c with firmware := some fw }), .i3c, [0], fw, by decide +kernel⟩,
    ⟨sc (fun c => { c with firmware := some fw }), fw, 6, by decide +kernel⟩,
    ⟨{}, 5, 1, 2, 3, 4, 5, [6], by decide +kernel⟩⟩

/-- States and operands that meet the hypotheses of Obligations.trim_and_tandem_store, clause by clause. -/
theorem witness_trim_and_tandem_store :
    (∃ s : State, Clocked s ∧ s.rst.standsAfter 2 = true ∧ s.rst.shadowValid = false)
    ∧ (∃ s : State, Clocked s ∧ s.rst.reading = true)
    ∧ (∃ s : State, Clocked s ∧ s.rst.ready = true ∧ s.rst.gathered = true ∧ s.rst.write = none)
    ∧ (∃ s : State, ∃ w : TandemWrite, Clocked s ∧ s.rst.write = some w)
    ∧ (∃ s : State, ∃ w : TandemWrite, Clocked s ∧ s.rst.write = some w ∧ w.retried = false) :=
  ⟨⟨rs (fun r => { r with current := some { level := .system, step := 3, lastAt := 0 }, shadowValid := false }), by decide +kernel⟩,
    ⟨rs (fun r => { r with current := some { level := .system, step := 4, lastAt := 0 }, tandemRead := false }), by decide +kernel⟩,
    ⟨rs (fun r => { r with gathered := true }), by decide +kernel⟩,
    ⟨rs (fun r => { r with write := some tw }), tw, by decide +kernel⟩,
    ⟨rs (fun r => { r with write := some tw }), tw, by decide +kernel⟩⟩

/-- States and operands that meet the hypotheses of Obligations.trim_and_tandem_store, clause by clause. -/
theorem witness_trim_and_tandem_store_2 :
    (∃ s : State, ∃ w : TandemWrite, Clocked s ∧ s.rst.write = some w ∧ w.retried = true)
    ∧ (∃ r : ResetState, ∃ a b : Bank, r.readBank false = some a ∧ r.readBank true = some b)
    ∧ (∃ r : ResetState, r.bank = some false)
    ∧ (∃ r : ResetState, ∃ b : Bool, ∃ x : Bank, r.takenBank = some (b, x))
    ∧ (∃ r : ResetState, r.takenBank = none) :=
  ⟨⟨rs (fun r => { r with write := some { tw with retried := true } }), { tw with retried := true }, by decide +kernel⟩,
    ⟨rb, { sequence := 5, body := [], parts := [] }, { sequence := 6, body := [], parts := [] }, by decide +kernel⟩,
    ⟨{ bank := some false }, by decide +kernel⟩,
    ⟨rb, true, { sequence := 6, body := [], parts := [] }, by decide +kernel⟩,
    ⟨{}, by decide +kernel⟩⟩

/-- States and operands that meet the hypotheses of Obligations.trim_and_tandem_store, clause by clause. -/
theorem witness_trim_and_tandem_store_3 :
    (∃ r : ResetState, ∃ b : Bool, ∃ x : Bank, r.readBank b = some x ∧ r.readBank (!b) = none)
    ∧ (∃ r : ResetState, r.readBank false = none ∧ r.readBank true = none)
    ∧ (∃ a b : Nat, a < 2 ^ 32 ∧ b < 2 ^ 32)
    ∧ (∃ r : ResetState, ∃ w : TandemWrite, ∃ a : Nat, twf 0xFF r.nor = true ∧ w.config.body.length ≤ 1048512 ∧ ((a < bankBase w.bankB ∨ bankBase w.bankB + 0x100000 ≤ a)))
    ∧ (∃ r : ResetState, ∃ w : TandemWrite, twf 0xFF r.nor = true ∧ w.config.body.length ≤ 1048512) :=
  ⟨⟨rb1, tw.bankB, (rb1.readBank tw.bankB).getD { sequence := 0, body := [], parts := [] }, by decide +kernel⟩,
    ⟨{}, by decide +kernel⟩,
    ⟨5, 6, by decide +kernel⟩,
    ⟨{}, tw, 5, by decide +kernel⟩,
    ⟨{}, tw, by decide +kernel⟩⟩

/-- States and operands that meet the hypotheses of Obligations.trim_and_tandem_store, clause by clause. -/
theorem witness_trim_and_tandem_store_4 :
    (∃ r : ResetState, r.bank = none)
    ∧ (∃ r : ResetState, r.bank = some true) :=
  ⟨⟨{}, by decide +kernel⟩,
    ⟨{ bank := some true, sequence := 0xFFFFFFFF }, by decide +kernel⟩⟩

end W17

namespace W18

set_option maxRecDepth 100000
set_option linter.unusedVariables false

def bad : Instr := .getQuote .i3c []
def tl : State := { base with host := base.host.setFn 0 { base.host.fn 0 with timeLatch := some 7 } }
def hv (n : Nat) : State := { base with host := { base.host with vfsEnabled := BitVec.ofNat 4 n } }
def wf (s : State) (f : Nat) : State := { s with host := s.host.setFn f { s.host.fn f with flr := some { since := 3 } } }

def wq (s : State) (l : List Nat) : State := { s with host := { s.host with flrWaiting := l } }
def w1 : State := { running [] with pending := [.getQuote .i3c (List.replicate 32 1)] }
def w1t : State := nextOf (step w1)

/-- States and operands that meet the hypotheses of Obligations.step_runs_the_front_command, clause by clause. -/
theorem witness_step_runs_the_front_command :
    (∃ c : Instr, ∃ rest : List Instr, ∃ s : State, c.wellFormed = true)
    ∧ (∃ c : Instr, ∃ rest : List Instr, ∃ s : State, c.wellFormed = false)
    ∧ (∃ s : State, s.pending = []) :=
  ⟨⟨.powerOn, [.vaoLoss], base, by decide +kernel⟩,
    ⟨bad, [.vaoLoss], base, by decide +kernel⟩,
    ⟨base, by decide +kernel⟩⟩

/-- States and operands that meet the hypotheses of Obligations.device_time_reads_are_consistent, clause by clause. -/
theorem witness_device_time_reads_are_consistent :
    (∃ s : State, ∃ e : BitVec 8, Clocked s ∧ s.host.serves 0 = true)
    ∧ (∃ s : State, ∃ e : BitVec 8, ∃ x : W32, Clocked s ∧ s.host.serves 0 = true ∧ (s.wake.host.fn 0).timeLatch = some x)
    ∧ (∃ s : State, ∃ e : BitVec 8, Clocked s ∧ s.host.serves 0 = true ∧ (s.wake.host.fn 0).timeLatch = none)
    ∧ (∃ s : State, ∃ e : BitVec 8, Clocked s ∧ s.host.serves 0 = true) :=
  ⟨⟨tl, 0x0F, by decide +kernel⟩,
    ⟨tl, 0x05, 7, by decide +kernel⟩,
    ⟨base, 0x0F, by decide +kernel⟩,
    ⟨base, 0xFF, by decide +kernel⟩⟩

/-- States and operands that meet the hypotheses of Obligations.an_flr_of_pf0_resets_the_vfs_first, clause by clause. -/
theorem witness_an_flr_of_pf0_resets_the_vfs_first :
    (∃ s u : State, Clocked s ∧ s.host.configures 0 = true ∧ s.wake.host.resetting 0 = false ∧ (u = { s.wake with host := { s.wake.host with vfsEnabled := 0, flrWaiting := ((List.range s.wake.host.vfsEnabled.toNat).map (fun i => i + 1)).filter (fun g => (s.wake.host.fn g).flr.isNone) ++ [0] } }))
    ∧ (∃ s : State, ∃ f : Nat, ∃ rest : List Nat, s.host.flrWaiting = f :: rest ∧ ((∀ i < 15, (s.host.fn (i + 1)).flr = none)))
    ∧ (∃ s : State, ∃ i : Nat, i < 15 ∧ (s.host.fn (i + 1)).flr.isSome = true)
    ∧ (∃ s : State, ∃ f : Fn, Clocked s ∧ (s.host.fn f).flr.isSome = true ∧ s.flrReady f = true)
    ∧ (∃ s : State, ∃ f : Fn, Clocked s ∧ s.host.configures f = true ∧ s.wake.host.resetting f = true)
    ∧ (∃ s : State, ∃ f : Nat, (s.host.fn f).flr.isSome = true) :=
  ⟨⟨hv 2, { (hv 2).wake with host := { (hv 2).wake.host with vfsEnabled := 0, flrWaiting := [1, 2, 0] } }, by decide +kernel⟩,
    ⟨wq (hv 3) [2, 0], 2, [0], by decide +kernel⟩,
    ⟨wf (hv 3) 2, 1, by decide +kernel⟩,
    ⟨wq (wf (hv 3) 2) [0], 2, by decide +kernel⟩,
    ⟨wq (hv 3) [2, 0], 2, by decide +kernel⟩,
    ⟨wf (hv 3) 2, 2, by decide +kernel⟩⟩

/-- States and operands that meet the hypotheses of Obligations.no_command_changes_the_queue, clause by clause. -/
theorem witness_no_command_changes_the_queue :
    (∃ c : Instr, ∃ s t : State, exec c s = .next t) :=
  ⟨.powerOn, base, nextOf (exec .powerOn base), nextOf_eq (by decide +kernel)⟩

/-- States and operands that meet the hypotheses of Obligations.fuses_only_burn, clause by clause. -/
theorem witness_fuses_only_burn :
    (∃ s t : State, step s = .next t) :=
  ⟨w1, w1t, nextOf_eq (by decide +kernel)⟩

/-- States and operands that meet the hypotheses of Obligations.every_step_keeps_the_security_invariant, clause by clause. -/
theorem witness_every_step_keeps_the_security_invariant :
    (∃ s t : State, step s = .next t ∧ SecurityInv s) :=
  ⟨w1, w1t, nextOf_eq (by decide +kernel), by decide +kernel⟩

/-- States and operands that meet the hypotheses of Obligations.every_step_keeps_the_memories_canonical, clause by clause. -/
theorem witness_every_step_keeps_the_memories_canonical :
    (∃ s t : State, step s = .next t ∧ MemoriesCanonical s) :=
  ⟨w1, w1t, nextOf_eq (by decide +kernel), by decide +kernel⟩

/-- States and operands that meet the hypotheses of Obligations.every_step_keeps_the_tables_canonical, clause by clause. -/
theorem witness_every_step_keeps_the_tables_canonical :
    (∃ s t : State, step s = .next t ∧ TablesCanonical s) :=
  ⟨w1, w1t, nextOf_eq (by decide +kernel), by decide +kernel⟩

/-- States and operands that meet the hypotheses of Obligations.step_runs_the_front_command (its part on every command completes), clause by clause. -/
theorem witness_every_command_completes :
    (∃ c : Instr, ∃ rest : List Instr, ∃ s : State, s.pending = c :: rest ∧ c.wellFormed = true) :=
  ⟨.powerOn, [.vaoLoss], { base with pending := [.powerOn, .vaoLoss] }, by decide +kernel⟩

end W18

end Sys2Proof.Tests
end

section
/-! PROOFS. FP4 codes as operands (R28, Table 2.2): the value of a code in a format without special codes, and the sixteen codes of FP4. -/

namespace Sys2Proof.Machine

/-- The sign bit of a code of `n + 1` bits tells its upper half. -/
theorem bit_top_eq_decide {x n : Nat} (hx : x < 2 ^ (n + 1)) : bit x n = decide (2 ^ n ≤ x) := by
  unfold bit
  by_cases hn : 2 ^ n ≤ x
  · rw [Nat.testBit_of_two_pow_le_and_two_pow_add_one_gt hn hx, decide_eq_true hn]
  · rw [Nat.testBit_lt_two_pow (Nat.lt_of_not_le hn), decide_eq_false hn]

/-- Without special codes every code is finite: its sign bit, and the grid's magnitude of its other bits (Table 2.1). -/
theorem Fmt.decode_of_no_specials {f : Fmt} (hf : f.specials = .none) (x : Nat) :
    f.decode x = .fin (bit x (f.ebits + f.mbits))
      (f.gridValue (x % 2 ^ (f.ebits + f.mbits))).1 (f.gridValue (x % 2 ^ (f.ebits + f.mbits))).2 := by
  by_cases hex : x % 2 ^ (f.ebits + f.mbits) / 2 ^ f.mbits = 0
  · have hlt : x % 2 ^ (f.ebits + f.mbits) < 2 ^ f.mbits :=
      (Nat.div_eq_zero_iff_lt (Nat.two_pow_pos _)).mp hex
    simp [Fmt.decode, Fmt.gridValue, hf, hex, Nat.mod_eq_of_lt hlt]
  · simp [Fmt.decode, Fmt.gridValue, hf, hex]

/-- An FP4 code: bit 3 is the sign, bits [2:0] name the magnitude (R28). -/
theorem fp4_decode (c : Fin 16) :
    fp4.decode c = .fin (decide (8 ≤ c.val)) (fp4.gridValue (c.val % 8)).1 (fp4.gridValue (c.val % 8)).2 := by
  have hsign : bit c.val 3 = decide (8 ≤ c.val) := bit_top_eq_decide (n := 3) c.isLt
  rw [← hsign]
  exact Fmt.decode_of_no_specials (f := fp4) rfl c.val

/-- The eight FP4 magnitudes of Table 2.2, in half steps; none is finer than a half step. -/
theorem fp4_gridValue_halfSteps : ∀ k : Fin 8, -1 ≤ (fp4.gridValue k).2
    ∧ ((fp4.gridValue k).1 : Int) * 2 ^ ((fp4.gridValue k).2 + 1).toNat = [0, 1, 2, 3, 4, 6, 8, 12].getD k.val 0 := by
  decide

/-- An FP4 activation enters the lane as its value and counts nothing (R28). -/
@[simp] theorem xElem_fp4 (r : ProductRec) (c : Nat) : xElem .fp4 r c = (fp4.decode c, []) := rfl

/-- An FP4 weight enters the lane as its value and counts nothing (R28). -/
@[simp] theorem wElem_fp4 (r : ProductRec) (c : Nat) : wElem .fp4 r c = (fp4.decode c, []) := rfl

/-- Settles O54: a code is its sign and one of the eight magnitudes, and the lanes read it without an event. -/
theorem fp4CodesDecodeAsTheTableSays : Obligations.fp4_codes_decode_as_the_table_says := by
  unfold Obligations.fp4_codes_decode_as_the_table_says
  intro c
  obtain ⟨hstep, hvalue⟩ := fp4_gridValue_halfSteps ⟨c.val % 8, Nat.mod_lt _ (by decide)⟩
  exact ⟨_, _, fp4_decode c, hstep, hvalue, fun r => ⟨xElem_fp4 r c, wElem_fp4 r c⟩⟩

end Sys2Proof.Machine
end

section
/-! PROOFS. The host's reads of BAR0 and of DEVICE_TIME (R346, R349): what an aligned read of one or two words answers, and the two words of the time. -/

namespace Sys2Proof.Machine

section
variable {s : State} {f : Nat} {o : Nat} {e : BitVec 8}

/-- A request that is served acts on the woken device (R356, R357). -/
theorem State.request_of_serves (hf : s.host.serves f = true) (act : State → State) : s.request f act = act s.wake :=
  if_pos hf

/-- A served read of BAR0 while the clocks run is the register read of the woken device. -/
theorem exec_deviceTimeRead_bar0 {g : Fn} (hc : s.clocks.thermtrip = false) (hf : s.host.serves g = true) (o : Nat) (wide : Bool) (e : BitVec 8) :
    exec (.deviceTimeRead g (.bar0 o) wide e) s = .next (s.wake.registerRead g o wide e) :=
  congrArg Host.Outcome.next ((clocked_runs hc _).trans (State.request_of_serves hf _))

/-- An aligned 4-byte read inside BAR0 answers the enabled bytes of its word (R346). -/
theorem State.registerRead_dword (ho : o % 4 = 0) (hsize : o + 4 ≤ barSize f) :
    s.registerRead f o false e = { (s.readWord f false o).1 with host := { (s.readWord f false o).1.host with
      reply := .data (enabledBytes e 0 (s.readWord f false o).2) } } := by
  simp [State.registerRead, ho, Nat.not_lt.mpr hsize]

/-- An 8-byte read reads its first word without effect (R349). -/
theorem State.readWord_wide : s.readWord f true o = (s, s.barWord f o) := by
  simp [State.readWord]

/-- An aligned 8-byte read inside BAR0 answers the enabled bytes of both words, of one state (R346, R349). -/
theorem State.registerRead_qword (ho : o % 8 = 0) (hsize : o + 8 ≤ barSize f) :
    s.registerRead f o true e = { s with host := { s.host with
      reply := .data (enabledBytes e 0 (s.barWord f o) ++ enabledBytes e 4 (s.barWord f (o + 4))) } } := by
  simp [State.registerRead, ho, Nat.not_lt.mpr hsize, State.readWord_wide]

/-- A 4-byte read of DEVICE_TIME's lower word latches the upper (R349). -/
theorem State.readWord_deviceTime_lower :
    s.readWord 0 false 0x018 = ({ s with host := s.host.setFn 0 { s.host.fn 0 with timeLatch := some (BitVec.ofNat 32 (s.ns / 2 ^ 32)) } },
      s.ns % 2 ^ 32) := rfl

/-- A 4-byte read of DEVICE_TIME's upper word takes the latched one, or else the current one, and leaves no latch (R349). -/
theorem State.readWord_deviceTime_upper :
    s.readWord 0 false 0x01C = ({ s with host := s.host.setFn 0 { s.host.fn 0 with timeLatch := none } },
      ((s.host.fn 0).timeLatch.map (·.toNat)).getD (s.ns / 2 ^ 32 % 2 ^ 32)) := rfl

/-- DEVICE_TIME's lower word is the low half of the time in ns (Table 16.2). -/
theorem State.barWord_deviceTime_lower : s.barWord 0 0x018 = s.ns % 2 ^ 32 := rfl

/-- DEVICE_TIME's upper word is the high half of the time in ns (Table 16.2). -/
theorem State.barWord_deviceTime_upper : s.barWord 0 0x01C = s.ns / 2 ^ 32 % 2 ^ 32 := rfl

end

/-- A read that enables every byte carries the whole word. -/
theorem enabledBytes_all (v : Nat) : enabledBytes 0xFF 0 v = natLe 4 v := by
  simp [enabledBytes, natLe]

/-- A read that enables no byte carries none. -/
theorem enabledBytes_none (first v : Nat) : enabledBytes 0x00 first v = [] := by
  simp [enabledBytes]

/-- Settles O52: each read is the register read of its word or words, and the latch stands between the two 4-byte reads. -/
theorem deviceTimeReadsAreConsistent : Obligations.device_time_reads_are_consistent := by
  unfold Obligations.device_time_reads_are_consistent
  refine ⟨fun s e hc hf => ?lower, fun s e x hc hf hx => ?latched, fun s e hc hf hx => ?unlatched, fun s e hc hf => ?both,
    fun v => ⟨enabledBytes_all v, enabledBytes_none 0 v⟩⟩
  case lower =>
    rw [exec_deviceTimeRead_bar0 hc hf, Fin.val_zero, State.registerRead_dword (by decide) (by decide), State.readWord_deviceTime_lower]
    rfl
  case latched | unlatched =>
    rw [exec_deviceTimeRead_bar0 hc hf, Fin.val_zero, State.registerRead_dword (by decide) (by decide), State.readWord_deviceTime_upper, hx]
    rfl
  case both =>
    rw [exec_deviceTimeRead_bar0 hc hf, Fin.val_zero, State.registerRead_qword (by decide) (by decide), State.barWord_deviceTime_lower,
      State.barWord_deviceTime_upper]
    rfl

end Sys2Proof.Machine
end

section
/-! PROOFS. Held temperatures and the caps they set (R371, R372): a cap in closed form, the hold of 2 °C, and a sample over all sensors, each by its own reading. -/

namespace Sys2Proof.Machine

section
variable {α : Type} [DecidableEq α] {d : α} {f : Nat → α → α}

/-- Changing the entries of a list of indexes leaves every other entry alone. -/
theorem tget_each_tmod_notMem {j : Nat} : ∀ {l : List Nat} {t : Tab α}, twf d t = true → j ∉ l →
    tget d (each l (fun i t => tmod d t i (f i)) t) j = tget d t j := by
  intro l
  induction l with
  | nil => intros; rfl
  | cons i l ih =>
    intro t h hj
    obtain ⟨hne, hl⟩ := not_or.mp (mt List.mem_cons.mpr hj)
    exact (ih (twf_tmod h) hl).trans (tget_tmod_ne h hne)

/-- Changing the entries of a list of distinct indexes changes each of them once, by its own function. -/
theorem tget_each_tmod_mem {j : Nat} : ∀ {l : List Nat} {t : Tab α}, twf d t = true → l.Nodup → j ∈ l →
    tget d (each l (fun i t => tmod d t i (f i)) t) j = f j (tget d t j) := by
  intro l
  induction l with
  | nil => intro t _ _ hj; cases hj
  | cons i l ih =>
    intro t h hl hj
    obtain ⟨hi, hl⟩ := List.nodup_cons.mp hl
    rcases List.mem_cons.mp hj with rfl | hj
    · exact (tget_each_tmod_notMem (twf_tmod h) hi).trans (tget_tmod_same h)
    · have hne : j ≠ i := fun he => hi (he ▸ hj)
      exact (ih (twf_tmod h) hl hj).trans (congrArg (f j) (tget_tmod_ne h hne))

/-- A change of the entries below `n` reaches each of them once. -/
theorem tget_each_range_tmod {t : Tab α} {j n : Nat} (h : twf d t = true) (hj : j < n) :
    tget d (each (List.range n) (fun i t => tmod d t i (f i)) t) j = f j (tget d t j) :=
  tget_each_tmod_mem h List.nodup_range (List.mem_range.mpr hj)

end

/-- The memory cap is 99 less the held temperature, kept between G1 and G15 (R371). -/
theorem memCapOf_eq_clamp (t : Nat) : memCapOf t = max 1 (min 15 (99 - t)) := by
  unfold memCapOf
  split
  · omega
  · split <;> omega

/-- The junction cap is 114 less the held temperature, kept between G1 and G15 (R372). -/
theorem junctionCapOf_eq_clamp (t : Nat) : junctionCapOf t = max 1 (min 15 (114 - t)) := by
  unfold junctionCapOf
  split
  · omega
  · split <;> omega

/-- A hotter sensor never raises the memory cap (R371). -/
theorem memCapOf_antitone {a b : Nat} (h : a ≤ b) : memCapOf b ≤ memCapOf a := by
  rw [memCapOf_eq_clamp, memCapOf_eq_clamp]
  omega

/-- A hotter sensor never raises the junction cap (R372). -/
theorem junctionCapOf_antitone {a b : Nat} (h : a ≤ b) : junctionCapOf b ≤ junctionCapOf a := by
  rw [junctionCapOf_eq_clamp, junctionCapOf_eq_clamp]
  omega

/-- A held temperature follows a rise at once (R371). -/
theorem holdTemp_of_rise {held now : Nat} (h : held < now) : holdTemp held now = now := if_pos h

/-- A held temperature follows a fall of 2 °C or more (R371). -/
theorem holdTemp_of_fall {held now : Nat} (h : now + 2 ≤ held) : holdTemp held now = now := by
  have hrise : ¬ held < now := by omega
  exact (if_neg hrise).trans (if_pos h)

/-- A held temperature stands while the reading is within 2 °C below it (R371). -/
theorem holdTemp_of_near {held now : Nat} (hle : now ≤ held) (hlt : held < now + 2) : holdTemp held now = held :=
  (if_neg (Nat.not_lt.mpr hle)).trans (if_neg (Nat.not_le.mpr hlt))

section
variable {k : ClockState} {i : Nat} (p : Nat) (dieMw rails16 stackC junctionC : List Nat)

/-- A sample changes the stacks' held temperatures one by one. -/
theorem ClockState.sampleTemps_stackHeld :
    (k.sampleTemps p dieMw rails16 stackC junctionC).stackHeld
      = each (List.range 20) (fun i t => tmod 0 t i (fun held => holdTemp held (stackC.getD i 0))) k.stackHeld := by
  rw [ClockState.sampleTemps]

/-- A sample changes the clusters' held temperatures one by one. -/
theorem ClockState.sampleTemps_junctionHeld :
    (k.sampleTemps p dieMw rails16 stackC junctionC).junctionHeld
      = each (List.range 16) (fun i t => tmod 0 t i (fun held => holdTemp held (junctionC.getD i 0))) k.junctionHeld := by
  rw [ClockState.sampleTemps]

/-- A sample holds each stack's temperature by that stack's own reading (R371). -/
theorem ClockState.tget_sampleTemps_stackHeld (h : twf 0 k.stackHeld = true) (hi : i < 20) :
    tget 0 (k.sampleTemps p dieMw rails16 stackC junctionC).stackHeld i = holdTemp (tget 0 k.stackHeld i) (stackC.getD i 0) := by
  rw [ClockState.sampleTemps_stackHeld, tget_each_range_tmod h hi]

/-- A sample holds each cluster's junction temperature by that cluster's own reading (R372). -/
theorem ClockState.tget_sampleTemps_junctionHeld (h : twf 0 k.junctionHeld = true) (hi : i < 16) :
    tget 0 (k.sampleTemps p dieMw rails16 stackC junctionC).junctionHeld i = holdTemp (tget 0 k.junctionHeld i) (junctionC.getD i 0) := by
  rw [ClockState.sampleTemps_junctionHeld, tget_each_range_tmod h hi]

end

/-- Settles O27: each cap is a clamped difference, and a sample holds every sensor by its own reading. -/
theorem thermalCapsFollowTheirTables : Obligations.thermal_caps_follow_their_tables := by
  unfold Obligations.thermal_caps_follow_their_tables
  refine ⟨fun t => ?memory, fun t => ?junction, fun a b h => ⟨memCapOf_antitone h, junctionCapOf_antitone h⟩,
    fun held now => ⟨holdTemp_of_rise, holdTemp_of_fall, holdTemp_of_near⟩, fun k d cl => ⟨rfl, rfl⟩,
    fun k p a b st j hstack hjunction => ⟨fun i hi => k.tget_sampleTemps_stackHeld p a b st j hstack hi,
      fun i hi => k.tget_sampleTemps_junctionHeld p a b st j hjunction hi⟩⟩
  case memory =>
    rw [memCapOf_eq_clamp]
    omega
  case junction =>
    rw [junctionCapOf_eq_clamp]
    omega

end Sys2Proof.Machine
end

section
/-! PROOFS. What no command undoes (O55 to O59): the relation `Keeps` between a state and a later one, component by component, and its rules for tables and records. -/

namespace Sys2Proof.Machine

/-- The table `u` is in canonical form if `t` is. -/
def TabKeeps {α : Type} [DecidableEq α] (d : α) (t u : Tab α) : Prop := twf d t = true → twf d u = true

section
variable {α β γ : Type} [DecidableEq α] {d : α} {t u : Tab α}

theorem TabKeeps.refl : TabKeeps d t t := id
theorem TabKeeps.tset {i : Nat} {x : α} (h : TabKeeps d t u) : TabKeeps d t (tset d u i x) := fun w => twf_tset (h w)
theorem TabKeeps.filter {p : Nat × α → Bool} (h : TabKeeps d t u) : TabKeeps d t (u.filter p) := fun w => twf_filter (h w)
theorem TabKeeps.tclear {lo hi : Nat} (h : TabKeeps d t u) : TabKeeps d t (tclear u lo hi) := h.filter

/-- Changing every entry keeps the form if no change gives the default. -/
theorem twfFrom_mapVal {f : Nat × α → α} (hf : ∀ e, e.2 ≠ d → f e ≠ d) {lo : Nat} (h : twfFrom d lo t = true) :
    twfFrom d lo (t.map fun e => (e.1, f e)) = true := by
  induction t generalizing lo with
  | nil => rfl
  | cons e t ih =>
    simp only [List.map_cons, twfFrom, Bool.and_eq_true, decide_eq_true_eq, Bool.not_eq_true', decide_eq_false_iff_not] at h ⊢
    exact ⟨⟨h.1.1, hf e h.1.2⟩, ih h.2⟩

theorem TabKeeps.mapVal {f : Nat × α → α} (h : TabKeeps d t u) (hf : ∀ e, e.2 ≠ d → f e ≠ d) : TabKeeps d t (u.map fun e => (e.1, f e)) :=
  fun w => twfFrom_mapVal hf (h w)

theorem TabKeeps.nil : TabKeeps d t [] := fun _ => rfl

theorem TabKeeps.setBytes {d : Byte} {t u : List Host.Cell} {a : Nat} {bs : List Byte} (h : TabKeeps d t u) : TabKeeps d t (setBytes d u a bs) :=
  fun w => twf_setBytes (h w)

/-- What each of a list of updates keeps, all of them together keep. -/
theorem each_induct {P : β → Prop} {f : γ → β → β} (hf : ∀ a b, P b → P (f a b)) {l : List γ} {b : β} (h : P b) : P (each l f b) :=
  List.foldlRecOn l _ h fun b hb a _ => hf a b hb

theorem TabKeeps.each {l : List γ} {f : γ → Tab α → Tab α} (h : TabKeeps d t u) (hf : ∀ a u, TabKeeps d t u → TabKeeps d t (f a u)) :
    TabKeeps d t (each l f u) := each_induct hf h

end

/-- Device memory and the queues of its movers keep their form. -/
def MemKeeps (m n : MemState) : Prop := TabKeeps 0 m.cells n.cells ∧ TabKeeps {} m.movers n.movers ∧ TabKeeps {} m.hostq n.hostq

/-- The sync counters keep their form. -/
def ShareKeeps (m n : ShareState) : Prop := TabKeeps 0 m.clusterCtr n.clusterCtr ∧ TabKeeps 0 m.hubCtr n.hubCtr

/-- The cores' table and the on-die memories keep their form. -/
def CoresKeeps (m n : CoresState) : Prop := TabKeeps {} m.cores n.cores ∧ TabKeeps 0 m.spad n.spad ∧ TabKeeps 0 m.acc n.acc

/-- The page records keep their form. -/
def PageKeeps (m n : PageState) : Prop := TabKeeps {} m.recs n.recs

/-- The tables of sequences, lists and contexts keep their form. -/
def SeqKeeps (m n : SeqState) : Prop :=
  TabKeeps {} m.seqs n.seqs ∧ TabKeeps [] m.lists n.lists ∧ TabKeeps [] m.lookahead n.lookahead ∧ TabKeeps {} m.ctx n.ctx
    ∧ TabKeeps none m.destroying n.destroying ∧ TabKeeps none m.preempting n.preempting ∧ TabKeeps none m.restoring n.restoring

/-- The tables of ports, links, slots and queues keep their form. -/
def FabricKeeps (m n : FabricState) : Prop :=
  TabKeeps {} m.ports n.ports ∧ TabKeeps {} m.links n.links ∧ TabKeeps {} m.slots n.slots ∧ TabKeeps {} m.queues n.queues ∧ TabKeeps none m.sent n.sent

/-- The mailboxes and the rings keep their form. -/
def CtlKeeps (m n : CtlState) : Prop := TabKeeps 0 m.mailbox n.mailbox ∧ TabKeeps {} m.rings n.rings

/-- The host's memory and the functions' table keep their form. -/
def HostKeeps (m n : HostState) : Prop := TabKeeps 0 m.memory n.memory ∧ TabKeeps {} m.fns n.fns

/-- The dies' clocks and the temperatures keep their form. -/
def ClockKeeps (m n : ClockState) : Prop :=
  TabKeeps {} m.dies n.dies ∧ TabKeeps 0 m.stackNow n.stackNow ∧ TabKeeps 0 m.stackHeld n.stackHeld
    ∧ TabKeeps 0 m.junctionNow n.junctionNow ∧ TabKeeps 0 m.junctionHeld n.junctionHeld

/-- The NOR store keeps its form. -/
def ResetKeeps (m n : ResetState) : Prop := TabKeeps 0xFF m.nor n.nor

/-- The tables of error records and spares keep their form. -/
def SvcKeeps (m n : SvcState) : Prop := TabKeeps {} m.errs n.errs ∧ TabKeeps {} m.spares n.spares

/-- Bits that are burned in `x` are burned in `y` (R392). -/
def Burns {w : Nat} (x y : BitVec w) : Prop := x &&& y = x

/-- No attestation key has signed more often than its leaves allow (R403). -/
def KeyOk (k : Option AttKey) : Prop := ∀ x ∈ k, x.nextIndex ≤ 1024

/-- Fuses only burn, and LIFECYCLE, the log and the attestation key stay in their bounds (R392, R393, R403, R405). -/
def SecKeeps (m n : SecState) : Prop :=
  Burns m.lcFuses n.lcFuses ∧ m.svn ≤ n.svn ∧ Burns m.identitySeed n.identitySeed ∧ Burns m.identityRoot n.identityRoot ∧ Burns m.ownerSeed n.ownerSeed
    ∧ (m.lifecycle.toNat ≤ 4 → n.lifecycle.toNat ≤ 4) ∧ (m.log.length ≤ 256 → n.log.length ≤ 256) ∧ (KeyOk m.attKey → KeyOk n.attKey)

/-- The state `t` may follow `s`: the queue is as it was, what is burned stays burned, and whatever is in canonical form or within its bounds remains so. -/
def Keeps (s t : State) : Prop :=
  t.pending = s.pending ∧ MemKeeps s.mem t.mem ∧ ShareKeeps s.share t.share ∧ CoresKeeps s.cores t.cores ∧ PageKeeps s.pages t.pages
    ∧ SeqKeeps s.seqs t.seqs ∧ FabricKeeps s.fabric t.fabric ∧ TabKeeps {} s.codecs t.codecs ∧ TabKeeps {} s.stems t.stems ∧ CtlKeeps s.ctl t.ctl
    ∧ HostKeeps s.host t.host ∧ ClockKeeps s.clocks t.clocks ∧ ResetKeeps s.rst t.rst ∧ SecKeeps s.sec t.sec ∧ SvcKeeps s.svc t.svc

section
variable {m n : MemState}

theorem MemKeeps.cells (h : MemKeeps m n) : TabKeeps 0 m.cells n.cells := h.1
theorem MemKeeps.movers (h : MemKeeps m n) : TabKeeps {} m.movers n.movers := h.2.1
theorem MemKeeps.hostq (h : MemKeeps m n) : TabKeeps {} m.hostq n.hostq := h.2.2
theorem MemKeeps.refl : MemKeeps m m := ⟨.refl, .refl, .refl⟩

end

section
variable {m n : ShareState}

theorem ShareKeeps.clusterCtr (h : ShareKeeps m n) : TabKeeps 0 m.clusterCtr n.clusterCtr := h.1
theorem ShareKeeps.hubCtr (h : ShareKeeps m n) : TabKeeps 0 m.hubCtr n.hubCtr := h.2
theorem ShareKeeps.refl : ShareKeeps m m := ⟨.refl, .refl⟩

end

section
variable {m n : CoresState}

theorem CoresKeeps.cores (h : CoresKeeps m n) : TabKeeps {} m.cores n.cores := h.1
theorem CoresKeeps.spad (h : CoresKeeps m n) : TabKeeps 0 m.spad n.spad := h.2.1
theorem CoresKeeps.acc (h : CoresKeeps m n) : TabKeeps 0 m.acc n.acc := h.2.2
theorem CoresKeeps.refl : CoresKeeps m m := ⟨.refl, .refl, .refl⟩

end

section
variable {m n : PageState}

theorem PageKeeps.recs (h : PageKeeps m n) : TabKeeps {} m.recs n.recs := h
theorem PageKeeps.refl : PageKeeps m m := TabKeeps.refl

end

section
variable {m n : SeqState}

theorem SeqKeeps.seqs (h : SeqKeeps m n) : TabKeeps {} m.seqs n.seqs := h.1
theorem SeqKeeps.lists (h : SeqKeeps m n) : TabKeeps [] m.lists n.lists := h.2.1
theorem SeqKeeps.lookahead (h : SeqKeeps m n) : TabKeeps [] m.lookahead n.lookahead := h.2.2.1
theorem SeqKeeps.ctx (h : SeqKeeps m n) : TabKeeps {} m.ctx n.ctx := h.2.2.2.1
theorem SeqKeeps.destroying (h : SeqKeeps m n) : TabKeeps none m.destroying n.destroying := h.2.2.2.2.1
theorem SeqKeeps.preempting (h : SeqKeeps m n) : TabKeeps none m.preempting n.preempting := h.2.2.2.2.2.1
theorem SeqKeeps.restoring (h : SeqKeeps m n) : TabKeeps none m.restoring n.restoring := h.2.2.2.2.2.2
theorem SeqKeeps.refl : SeqKeeps m m := ⟨.refl, .refl, .refl, .refl, .refl, .refl, .refl⟩

end

section
variable {m n : FabricState}

theorem FabricKeeps.ports (h : FabricKeeps m n) : TabKeeps {} m.ports n.ports := h.1
theorem FabricKeeps.links (h : FabricKeeps m n) : TabKeeps {} m.links n.links := h.2.1
theorem FabricKeeps.slots (h : FabricKeeps m n) : TabKeeps {} m.slots n.slots := h.2.2.1
theorem FabricKeeps.queues (h : FabricKeeps m n) : TabKeeps {} m.queues n.queues := h.2.2.2.1
theorem FabricKeeps.sent (h : FabricKeeps m n) : TabKeeps none m.sent n.sent := h.2.2.2.2
theorem FabricKeeps.refl : FabricKeeps m m := ⟨.refl, .refl, .refl, .refl, .refl⟩

end

section
variable {m n : CtlState}

theorem CtlKeeps.mailbox (h : CtlKeeps m n) : TabKeeps 0 m.mailbox n.mailbox := h.1
theorem CtlKeeps.rings (h : CtlKeeps m n) : TabKeeps {} m.rings n.rings := h.2
theorem CtlKeeps.refl : CtlKeeps m m := ⟨.refl, .refl⟩

end

section
variable {m n : HostState}

theorem HostKeeps.memory (h : HostKeeps m n) : TabKeeps 0 m.memory n.memory := h.1
theorem HostKeeps.fns (h : HostKeeps m n) : TabKeeps {} m.fns n.fns := h.2
theorem HostKeeps.refl : HostKeeps m m := ⟨.refl, .refl⟩

end

section
variable {m n : ClockState}

theorem ClockKeeps.dies (h : ClockKeeps m n) : TabKeeps {} m.dies n.dies := h.1
theorem ClockKeeps.stackNow (h : ClockKeeps m n) : TabKeeps 0 m.stackNow n.stackNow := h.2.1
theorem ClockKeeps.stackHeld (h : ClockKeeps m n) : TabKeeps 0 m.stackHeld n.stackHeld := h.2.2.1
theorem ClockKeeps.junctionNow (h : ClockKeeps m n) : TabKeeps 0 m.junctionNow n.junctionNow := h.2.2.2.1
theorem ClockKeeps.junctionHeld (h : ClockKeeps m n) : TabKeeps 0 m.junctionHeld n.junctionHeld := h.2.2.2.2
theorem ClockKeeps.refl : ClockKeeps m m := ⟨.refl, .refl, .refl, .refl, .refl⟩

end

section
variable {m n : ResetState}

theorem ResetKeeps.nor (h : ResetKeeps m n) : TabKeeps 0xFF m.nor n.nor := h
theorem ResetKeeps.refl : ResetKeeps m m := TabKeeps.refl

end

section
variable {m n : SvcState}

theorem SvcKeeps.errs (h : SvcKeeps m n) : TabKeeps {} m.errs n.errs := h.1
theorem SvcKeeps.spares (h : SvcKeeps m n) : TabKeeps {} m.spares n.spares := h.2
theorem SvcKeeps.refl : SvcKeeps m m := ⟨.refl, .refl⟩

end

section
variable {w : Nat} {x y : BitVec w}

theorem Burns.refl : Burns x x := BitVec.and_self
/-- Burning more bits leaves none unburned. -/
theorem Burns.or (h : Burns x y) (z : BitVec w) : Burns x (y ||| z) := by
  unfold Burns at h ⊢
  ext i hi
  have hxy := congrArg (fun b : BitVec w => b.getLsbD i) h
  simp only [BitVec.getLsbD_and] at hxy
  simp only [BitVec.getElem_and, BitVec.getElem_or]
  rw [BitVec.getLsbD_eq_getElem hi, BitVec.getLsbD_eq_getElem hi] at hxy
  revert hxy
  cases x[i] <;> cases y[i] <;> simp
theorem Burns.allOnes : Burns x (BitVec.allOnes w) := BitVec.and_allOnes

end

section
variable {m n : SecState}

theorem SecKeeps.lcFuses (h : SecKeeps m n) : Burns m.lcFuses n.lcFuses := h.1
theorem SecKeeps.svn (h : SecKeeps m n) : m.svn ≤ n.svn := h.2.1
theorem SecKeeps.identitySeed (h : SecKeeps m n) : Burns m.identitySeed n.identitySeed := h.2.2.1
theorem SecKeeps.identityRoot (h : SecKeeps m n) : Burns m.identityRoot n.identityRoot := h.2.2.2.1
theorem SecKeeps.ownerSeed (h : SecKeeps m n) : Burns m.ownerSeed n.ownerSeed := h.2.2.2.2.1
theorem SecKeeps.lifecycle (h : SecKeeps m n) : m.lifecycle.toNat ≤ 4 → n.lifecycle.toNat ≤ 4 := h.2.2.2.2.2.1
theorem SecKeeps.log (h : SecKeeps m n) : m.log.length ≤ 256 → n.log.length ≤ 256 := h.2.2.2.2.2.2.1
theorem SecKeeps.attKey (h : SecKeeps m n) : KeyOk m.attKey → KeyOk n.attKey := h.2.2.2.2.2.2.2
theorem SecKeeps.refl : SecKeeps m m := ⟨.refl, BitVec.le_refl _, .refl, .refl, .refl, id, id, id⟩

end

section
variable {s t : State}

theorem Keeps.pending (h : Keeps s t) : t.pending = s.pending := h.1
theorem Keeps.mem (h : Keeps s t) : MemKeeps s.mem t.mem := h.2.1
theorem Keeps.share (h : Keeps s t) : ShareKeeps s.share t.share := h.2.2.1
theorem Keeps.cores (h : Keeps s t) : CoresKeeps s.cores t.cores := h.2.2.2.1
theorem Keeps.pages (h : Keeps s t) : PageKeeps s.pages t.pages := h.2.2.2.2.1
theorem Keeps.seqs (h : Keeps s t) : SeqKeeps s.seqs t.seqs := h.2.2.2.2.2.1
theorem Keeps.fabric (h : Keeps s t) : FabricKeeps s.fabric t.fabric := h.2.2.2.2.2.2.1
theorem Keeps.codecs (h : Keeps s t) : TabKeeps {} s.codecs t.codecs := h.2.2.2.2.2.2.2.1
theorem Keeps.stems (h : Keeps s t) : TabKeeps {} s.stems t.stems := h.2.2.2.2.2.2.2.2.1
theorem Keeps.ctl (h : Keeps s t) : CtlKeeps s.ctl t.ctl := h.2.2.2.2.2.2.2.2.2.1
theorem Keeps.host (h : Keeps s t) : HostKeeps s.host t.host := h.2.2.2.2.2.2.2.2.2.2.1
theorem Keeps.clocks (h : Keeps s t) : ClockKeeps s.clocks t.clocks := h.2.2.2.2.2.2.2.2.2.2.2.1
theorem Keeps.rst (h : Keeps s t) : ResetKeeps s.rst t.rst := h.2.2.2.2.2.2.2.2.2.2.2.2.1
theorem Keeps.sec (h : Keeps s t) : SecKeeps s.sec t.sec := h.2.2.2.2.2.2.2.2.2.2.2.2.2.1
theorem Keeps.svc (h : Keeps s t) : SvcKeeps s.svc t.svc := h.2.2.2.2.2.2.2.2.2.2.2.2.2.2
theorem Keeps.refl : Keeps s s :=
  ⟨rfl, .refl, .refl, .refl, .refl, .refl, .refl, .refl, .refl, .refl, .refl, .refl, .refl, .refl, .refl⟩

theorem Keeps.withMem {x : MemState} (h : Keeps s t) (hx : MemKeeps s.mem x) : Keeps s { t with mem := x } :=
  ⟨h.pending, hx, h.share, h.cores, h.pages, h.seqs, h.fabric, h.codecs, h.stems, h.ctl, h.host, h.clocks, h.rst, h.sec, h.svc⟩
theorem Keeps.withShare {x : ShareState} (h : Keeps s t) (hx : ShareKeeps s.share x) : Keeps s { t with share := x } :=
  ⟨h.pending, h.mem, hx, h.cores, h.pages, h.seqs, h.fabric, h.codecs, h.stems, h.ctl, h.host, h.clocks, h.rst, h.sec, h.svc⟩
theorem Keeps.withCores {x : CoresState} (h : Keeps s t) (hx : CoresKeeps s.cores x) : Keeps s { t with cores := x } :=
  ⟨h.pending, h.mem, h.share, hx, h.pages, h.seqs, h.fabric, h.codecs, h.stems, h.ctl, h.host, h.clocks, h.rst, h.sec, h.svc⟩
theorem Keeps.withPages {x : PageState} (h : Keeps s t) (hx : PageKeeps s.pages x) : Keeps s { t with pages := x } :=
  ⟨h.pending, h.mem, h.share, h.cores, hx, h.seqs, h.fabric, h.codecs, h.stems, h.ctl, h.host, h.clocks, h.rst, h.sec, h.svc⟩
theorem Keeps.withSeqs {x : SeqState} (h : Keeps s t) (hx : SeqKeeps s.seqs x) : Keeps s { t with seqs := x } :=
  ⟨h.pending, h.mem, h.share, h.cores, h.pages, hx, h.fabric, h.codecs, h.stems, h.ctl, h.host, h.clocks, h.rst, h.sec, h.svc⟩
theorem Keeps.withFabric {x : FabricState} (h : Keeps s t) (hx : FabricKeeps s.fabric x) : Keeps s { t with fabric := x } :=
  ⟨h.pending, h.mem, h.share, h.cores, h.pages, h.seqs, hx, h.codecs, h.stems, h.ctl, h.host, h.clocks, h.rst, h.sec, h.svc⟩
theorem Keeps.withCodecs {x : Tab CodecEngine} (h : Keeps s t) (hx : TabKeeps {} s.codecs x) : Keeps s { t with codecs := x } :=
  ⟨h.pending, h.mem, h.share, h.cores, h.pages, h.seqs, h.fabric, hx, h.stems, h.ctl, h.host, h.clocks, h.rst, h.sec, h.svc⟩
theorem Keeps.withStems {x : Tab StemEngine} (h : Keeps s t) (hx : TabKeeps {} s.stems x) : Keeps s { t with stems := x } :=
  ⟨h.pending, h.mem, h.share, h.cores, h.pages, h.seqs, h.fabric, h.codecs, hx, h.ctl, h.host, h.clocks, h.rst, h.sec, h.svc⟩
theorem Keeps.withCtl {x : CtlState} (h : Keeps s t) (hx : CtlKeeps s.ctl x) : Keeps s { t with ctl := x } :=
  ⟨h.pending, h.mem, h.share, h.cores, h.pages, h.seqs, h.fabric, h.codecs, h.stems, hx, h.host, h.clocks, h.rst, h.sec, h.svc⟩
theorem Keeps.withHost {x : HostState} (h : Keeps s t) (hx : HostKeeps s.host x) : Keeps s { t with host := x } :=
  ⟨h.pending, h.mem, h.share, h.cores, h.pages, h.seqs, h.fabric, h.codecs, h.stems, h.ctl, hx, h.clocks, h.rst, h.sec, h.svc⟩
theorem Keeps.withClocks {x : ClockState} (h : Keeps s t) (hx : ClockKeeps s.clocks x) : Keeps s { t with clocks := x } :=
  ⟨h.pending, h.mem, h.share, h.cores, h.pages, h.seqs, h.fabric, h.codecs, h.stems, h.ctl, h.host, hx, h.rst, h.sec, h.svc⟩
theorem Keeps.withRst {x : ResetState} (h : Keeps s t) (hx : ResetKeeps s.rst x) : Keeps s { t with rst := x } :=
  ⟨h.pending, h.mem, h.share, h.cores, h.pages, h.seqs, h.fabric, h.codecs, h.stems, h.ctl, h.host, h.clocks, hx, h.sec, h.svc⟩
theorem Keeps.withSec {x : SecState} (h : Keeps s t) (hx : SecKeeps s.sec x) : Keeps s { t with sec := x } :=
  ⟨h.pending, h.mem, h.share, h.cores, h.pages, h.seqs, h.fabric, h.codecs, h.stems, h.ctl, h.host, h.clocks, h.rst, hx, h.svc⟩
theorem Keeps.withSvc {x : SvcState} (h : Keeps s t) (hx : SvcKeeps s.svc x) : Keeps s { t with svc := x } :=
  ⟨h.pending, h.mem, h.share, h.cores, h.pages, h.seqs, h.fabric, h.codecs, h.stems, h.ctl, h.host, h.clocks, h.rst, h.sec, hx⟩
theorem Keeps.withNow {n : Nat} (h : Keeps s t) : Keeps s { t with now := n } := h
theorem Keeps.withFreeCtr {n : Nat} (h : Keeps s t) : Keeps s { t with freeCtr := n } := h

/-- What each of a list of updates keeps, all of them together keep. -/
theorem Keeps.each {α : Type} {l : List α} {f : α → State → State} (h : Keeps s t) (hf : ∀ a t, Keeps s t → Keeps s (f a t)) : Keeps s (each l f t) :=
  each_induct hf h

theorem Keeps.foldl {α : Type} {l : List α} {f : State → α → State} (h : Keeps s t) (hf : ∀ t a, Keeps s t → Keeps s (f t a)) : Keeps s (l.foldl f t) :=
  List.foldlRecOn l f h fun t ht a _ => hf t a ht

/-- An effect that needs a clock. -/
theorem Keeps.clocked {f : State → State} (h : Keeps s t) (hf : ∀ t, Keeps s t → Keeps s (f t)) : Keeps s (t.clocked f) := by
  unfold State.clocked
  split
  · exact h
  · exact hf t h

/-- The state of a pair that a function answers. -/
theorem Keeps.of_eq {α : Type} {r : State × α} {x : α} (h : Keeps s r.1) (e : r = (t, x)) : Keeps s t := by
  rw [e] at h
  exact h

end

section
variable {α : Type} {l : List α}

theorem MemKeeps.each {m n : MemState} {f : α → MemState → MemState} (h : MemKeeps m n) (hf : ∀ a n, MemKeeps m n → MemKeeps m (f a n)) :
    MemKeeps m (each l f n) := each_induct hf h

theorem MemKeeps.foldl {m n : MemState} {f : MemState → α → MemState} (h : MemKeeps m n) (hf : ∀ n a, MemKeeps m n → MemKeeps m (f n a)) :
    MemKeeps m (l.foldl f n) := each_induct (fun a n => hf n a) h

theorem CoresKeeps.each {m n : CoresState} {f : α → CoresState → CoresState} (h : CoresKeeps m n) (hf : ∀ a n, CoresKeeps m n → CoresKeeps m (f a n)) :
    CoresKeeps m (each l f n) := each_induct hf h

theorem ClockKeeps.each {m n : ClockState} {f : α → ClockState → ClockState} (h : ClockKeeps m n) (hf : ∀ a n, ClockKeeps m n → ClockKeeps m (f a n)) :
    ClockKeeps m (each l f n) := each_induct hf h

theorem SeqKeeps.each {m n : SeqState} {f : α → SeqState → SeqState} (h : SeqKeeps m n) (hf : ∀ a n, SeqKeeps m n → SeqKeeps m (f a n)) :
    SeqKeeps m (each l f n) := each_induct hf h

theorem FabricKeeps.each {m n : FabricState} {f : α → FabricState → FabricState} (h : FabricKeeps m n)
    (hf : ∀ a n, FabricKeeps m n → FabricKeeps m (f a n)) : FabricKeeps m (each l f n) := each_induct hf h

end

/-- A state that is answered, and not an error, may follow `s`. -/
def KeepsOk {ε : Type} (s : State) (r : Except ε State) : Prop := ∀ t, r = .ok t → Keeps s t

/-- A state that is answered with a value, and not an error, may follow `s`. -/
def KeepsOkFst {ε α : Type} (s : State) (r : Except ε (State × α)) : Prop := ∀ p, r = .ok p → Keeps s p.1

section
variable {ε α : Type} {s t : State}

theorem KeepsOk.error {g : ε} : KeepsOk s (.error g) := fun _ e => nomatch e
theorem KeepsOk.ok (h : Keeps s t) : KeepsOk s (.ok t : Except ε State) := fun _ e => Except.ok.inj e ▸ h
theorem KeepsOkFst.error {g : ε} : KeepsOkFst s (.error g : Except ε (State × α)) := fun _ e => nomatch e
theorem KeepsOkFst.ok {p : State × α} (h : Keeps s p.1) : KeepsOkFst s (.ok p : Except ε (State × α)) := fun _ e => Except.ok.inj e ▸ h

end

/-- A new attestation key has signed nothing. -/
theorem KeyOk.new {d : Nat} {c : Option (List Byte)} : KeyOk (some { draw := d, certificate := c }) := fun x hx => by
  cases hx
  exact Nat.zero_le _

theorem SecKeeps.newKey {m n : SecState} {d mark : Nat} {pool : Option (Nat × Nat)} {c : Option (List Byte)} (h : SecKeeps m n) :
    SecKeeps m { n with attKey := some { draw := d, certificate := c }, ringMark := mark, pool := pool } :=
  ⟨h.lcFuses, h.svn, h.identitySeed, h.identityRoot, h.ownerSeed, h.lifecycle, h.log, fun _ => .new⟩

end Sys2Proof.Machine
end

section
/-! PROOFS. What no command undoes (O55 to O59): every operation on the state keeps it. -/

namespace Sys2Proof.Machine

section
variable {s₀ s : State}

theorem Keeps.upTo {t : ℕ} (h : Keeps s₀ s) : Keeps s₀ (s.upTo t) :=
  h.withNow

theorem CtlKeeps.setRing {m₀ m : CtlState} {f : ℕ} {r : RingState} (h : CtlKeeps m₀ m) : CtlKeeps m₀ (m.setRing f r) :=
  ⟨h.mailbox, h.rings.tset⟩

theorem HostKeeps.setFn {m₀ m : HostState} {f : ℕ} {x : HostFn} (h : HostKeeps m₀ m) : HostKeeps m₀ (m.setFn f x) :=
  ⟨h.memory, h.fns.tset⟩

theorem HostKeeps.signal {m₀ m : HostState} {f v : ℕ} (h : HostKeeps m₀ m) : HostKeeps m₀ (m.signal f v) := by
  unfold HostState.signal
  dsimp only
  split
  · exact h.setFn
  · exact h

theorem HostKeeps.flushPending {m₀ m : HostState} {f : ℕ} (h : HostKeeps m₀ m) : HostKeeps m₀ (m.flushPending f) := by
  unfold HostState.flushPending
  extract_lets
  split
  · exact h
  · exact HostKeeps.setFn h

theorem HostKeeps.moderate {m₀ m : HostState} {now f : ℕ} {r : RingState} (h : HostKeeps m₀ m) : HostKeeps m₀ (moderate now f r m).2 := by
  unfold Machine.moderate
  split
  · exact h.signal
  · exact h

theorem HostKeeps.writeEntry {m₀ m : HostState} {now f : ℕ} {e : Entry} {r : RingState} (h : HostKeeps m₀ m) : HostKeeps m₀ (writeEntry now f e r m).2 :=
  HostKeeps.moderate ⟨h.memory.setBytes, h.fns⟩

theorem HostKeeps.drainRing {m₀ m : HostState} {now f n : ℕ} {r : RingState} (h : HostKeeps m₀ m) : HostKeeps m₀ (drainRing now f n r m).2 := by
  induction n generalizing r m with
  | zero => exact h
  | succ n ih =>
    unfold Machine.drainRing
    split
    · exact h
    · split
      · exact ih h.writeEntry
      · exact ih h.writeEntry
      · exact h

theorem CtlKeeps.postEntry {m₀ m : CtlState} {now f : ℕ} {e : Entry} {x : HostState} (h : CtlKeeps m₀ m) : CtlKeeps m₀ (postEntry now f e m x).1 := by
  unfold Machine.postEntry
  extract_lets
  split
  · exact h.setRing
  · split
    · exact h.setRing
    · exact h.setRing

theorem HostKeeps.postEntry {m₀ m : HostState} {now f : ℕ} {e : Entry} {c : CtlState} (h : HostKeeps m₀ m) : HostKeeps m₀ (postEntry now f e c m).2 := by
  unfold Machine.postEntry
  extract_lets
  split
  · exact h.writeEntry
  · split
    · exact h
    · exact h

theorem Keeps.post {ring : ℕ} {e : Entry} (h : Keeps s₀ s) : Keeps s₀ (s.post ring e) :=
  (h.withCtl h.ctl.postEntry).withHost h.host.postEntry

theorem Keeps.event {ring origin source code : ℕ} {a : Args} (h : Keeps s₀ s) : Keeps s₀ (s.event ring origin source code a) :=
  h.post

theorem Keeps.commandEntry {cmd : CmdRef} {a : Args} (h : Keeps s₀ s) : Keeps s₀ (s.commandEntry cmd a) :=
  h.post

theorem Keeps.complete {cmd : CmdRef} {a : Args} (h : Keeps s₀ s) : Keeps s₀ (s.complete cmd a) := by
  unfold State.complete
  dsimp only
  split
  · exact .commandEntry h
  · exact h

theorem MemKeeps.note {m₀ m : MemState} {a : ℕ} {scrub : Bool} {o : GrainOutcome} (h : MemKeeps m₀ m) : MemKeeps m₀ (m.note a scrub o) :=
  h

theorem MemKeeps.putGrain {m₀ m : MemState} {g : ℕ} {d : List Byte} (h : MemKeeps m₀ m) : MemKeeps m₀ (m.putGrain g d) :=
  ⟨h.cells.setBytes, h.movers, h.hostq⟩

theorem MemKeeps.write {m₀ m : MemState} {a : ℕ} {bs : List Byte} (h : MemKeeps m₀ m) : MemKeeps m₀ (m.write a bs) := by
  unfold MemState.write
  dsimp only
  split
  · exact ⟨h.cells.setBytes, h.movers, h.hostq⟩
  · refine h.foldl fun a1 a2 h1 => ?_
    split
    · exact h1.putGrain
    · split
      · exact h1
      · exact h1.putGrain

theorem MemKeeps.zero {m₀ m : MemState} {lo hi : ℕ} (h : MemKeeps m₀ m) : MemKeeps m₀ (m.zero lo hi) :=
  ⟨h.cells.tclear, h.movers, h.hostq⟩

theorem MemKeeps.ftPut {m₀ m : MemState} {t : FtBase} {e : ℕ} {x : FtEntry} (h : MemKeeps m₀ m) : MemKeeps m₀ (m.ftPut t e x) :=
  h.write

theorem MemKeeps.ftMod {m₀ m : MemState} {t : FtBase} {e : ℕ} {f : FtEntry → FtEntry} (h : MemKeeps m₀ m) : MemKeeps m₀ (m.ftMod t e f) :=
  h.ftPut

theorem PageKeeps.setRec {m₀ m : PageState} {f : ℕ} {r : PageRec} (h : PageKeeps m₀ m) : PageKeeps m₀ (m.setRec f r) :=
  h.recs.tset

theorem PageKeeps.remember {m₀ m : PageState} {cl : ℕ} {e : TlbEntry} (h : PageKeeps m₀ m) : PageKeeps m₀ (m.remember cl e) :=
  h

theorem PageKeeps.invalidate {m₀ m : PageState} {f : ℕ} {which : ℕ → Bool} (h : PageKeeps m₀ m) : PageKeeps m₀ (m.invalidate f which) :=
  h

theorem Keeps.hostAccess {kind fn : ℕ} {e : Args} (h : Keeps s₀ s) : Keeps s₀ (s.hostAccess kind fn e) :=
  h.event

theorem Keeps.writePhys {f a : ℕ} {bs : List Byte} (h : Keeps s₀ s) : Keeps s₀ (s.writePhys f a bs) := by
  unfold State.writePhys
  split
  · exact (h.withMem h.mem.note.write).hostAccess
  · exact h.withMem h.mem.write

theorem Keeps.writePiecesAt {f : ℕ} {l : List (ℕ × ℕ)} {bs : List Byte} (h : Keeps s₀ s) : Keeps s₀ (State.writePiecesAt f l bs s) := by
  induction l generalizing bs s with
  | nil => exact h
  | cons x l ih => exact ih h.writePhys

theorem Keeps.writeVirt {f va : ℕ} {bs : List Byte} (h : Keeps s₀ s) : KeepsOk s₀ (s.writeVirt f va bs) := by
  unfold State.writeVirt
  split
  · exact .error
  · exact KeepsOk.ok h.writePiecesAt

theorem Keeps.noteBad {e : Args} (h : Keeps s₀ s) : Keeps s₀ (s.noteBad e) := by
  unfold State.noteBad
  split
  · exact h.withMem h.mem.note
  · exact h

theorem CoresKeeps.setCore {m₀ m : CoresState} {c : ℕ} {k : CoreState} (h : CoresKeeps m₀ m) : CoresKeeps m₀ (m.setCore c k) :=
  ⟨h.cores.tset, h.spad, h.acc⟩

theorem Keeps.setCore {c : ℕ} {k : CoreState} (h : Keeps s₀ s) : Keeps s₀ (s.setCore c k) :=
  h.withCores h.cores.setCore

theorem Keeps.modCore {c : ℕ} {f : CoreState → CoreState} (h : Keeps s₀ s) : Keeps s₀ (s.modCore c f) :=
  h.setCore

theorem Keeps.modRun {c : ℕ} {f : RunBlock → RunBlock} (h : Keeps s₀ s) : Keeps s₀ (s.modRun c f) :=
  h.modCore

theorem Keeps.setCtx {f : ℕ} {r : CtxRec} (h : Keeps s₀ s) : Keeps s₀ (s.setCtx f r) :=
  .withSeqs h ⟨h.seqs.seqs, h.seqs.lists, h.seqs.lookahead, h.seqs.ctx.tset, h.seqs.destroying, h.seqs.preempting, h.seqs.restoring⟩

theorem ShareKeeps.addCtr {m₀ m : ShareState} {cl fld amount : ℕ} (h : ShareKeeps m₀ m) : ShareKeeps m₀ (m.addCtr cl fld amount) := by
  unfold ShareState.addCtr
  split
  · exact h
  · split
    · exact ⟨h.clusterCtr, h.hubCtr.tset⟩
    · exact ⟨h.clusterCtr.tset, h.hubCtr⟩

theorem CoresKeeps.putSpad {m₀ m : CoresState} {c a : ℕ} {bs : List Byte} (h : CoresKeeps m₀ m) : CoresKeeps m₀ (m.putSpad c a bs) :=
  ⟨h.cores, h.spad.setBytes, h.acc⟩

theorem CoresKeeps.putAcc {m₀ m : CoresState} {c lane e : ℕ} {v : W32} (h : CoresKeeps m₀ m) : CoresKeeps m₀ (m.putAcc c lane e v) :=
  ⟨h.cores, h.spad, h.acc.tset⟩

theorem CoresKeeps.putWrite {m₀ m : CoresState} {c : ℕ} {a : CoreWrite} (h : CoresKeeps m₀ m) : CoresKeeps m₀ (m.putWrite c a) := by
  unfold CoresState.putWrite
  split
  · exact h.putSpad
  · exact h.putAcc

theorem CoresKeeps.zeroWrite {m₀ m : CoresState} {c : ℕ} {a : CoreWrite} (h : CoresKeeps m₀ m) : CoresKeeps m₀ (m.zeroWrite c a) := by
  unfold CoresState.zeroWrite
  split
  · exact h.putSpad
  · exact h.putAcc

theorem Keeps.meetsWord {c : ℕ} {a : SramArray} (h : Keeps s₀ s) : Keeps s₀ (s.meetsWord c a) := by
  unfold State.meetsWord
  split
  · exact h.modCore
  · exact h

theorem Keeps.chargeCore {c t : ℕ} (h : Keeps s₀ s) : Keeps s₀ (s.chargeCore c t) :=
  h.modCore

theorem CoreState.chargeTo_run_isSome {k : CoreState} {x : ShareState} {c t : ℕ} (hk : k.run.isSome) : (k.chargeTo x c t).run.isSome := by
  unfold CoreState.chargeTo
  split
  · exact hk
  · split
    · exact hk
    · split
      · rfl
      · rfl

/-- Charging changes a core that runs a block, which then still does, or no core at all. -/
theorem CoreState.charge_ne_default {k : CoreState} (hk : k ≠ {}) {x : ShareState} {c t : ℕ} : k.charge x c t ≠ {} := by
  unfold CoreState.charge
  split
  · exact hk
  · next sl hsl =>
    have hrun : k.run.isSome := by
      cases hr : k.run with
      | none => simp [hr] at hsl
      | some r => rfl
    have key {y : CoreState} (hy : y.run.isSome) : y ≠ {} := by
      rintro rfl
      cases hy
    extract_lets b
    split
    · exact key (chargeTo_run_isSome (chargeTo_run_isSome hrun))
    · exact key (chargeTo_run_isSome hrun)

theorem Keeps.chargeAll (h : Keeps s₀ s) : Keeps s₀ s.chargeAll :=
  h.withCores ⟨h.cores.cores.mapVal fun _ hk => CoreState.charge_ne_default hk, h.cores.spad, h.cores.acc⟩

theorem ShareKeeps.addAt {m₀ m : ShareState} {t cl fld amount : ℕ} (h : ShareKeeps m₀ m) : ShareKeeps m₀ (m.addAt t cl fld amount) := by
  unfold ShareState.addAt
  dsimp only
  split
  · exact h
  · exact ⟨h.addCtr.clusterCtr, h.addCtr.hubCtr⟩

theorem Keeps.addCtr {cl fld amount : ℕ} (h : Keeps s₀ s) : Keeps s₀ (s.addCtr cl fld amount) :=
  h.chargeAll.withShare h.chargeAll.share.addAt

theorem Keeps.addHub {ix amount : ℕ} (h : Keeps s₀ s) : Keeps s₀ (s.addHub ix amount) :=
  h.addCtr

theorem Keeps.modDesc {c id : ℕ} {f : MDesc → MDesc} (h : Keeps s₀ s) : Keeps s₀ (s.modDesc c id f) :=
  h.modCore

theorem Keeps.rememberPage {c fn : ℕ} {va : ℤ} {x : Xl} (h : Keeps s₀ s) : Keeps s₀ (s.rememberPage c fn va x) := by
  unfold State.rememberPage
  split
  · exact h.withPages h.pages.remember
  · exact h

theorem Keeps.touchPages {c fn : ℕ} {gs : List MGrain} (h : Keeps s₀ s) : Keeps s₀ (s.touchPages c fn gs) := by
  unfold State.touchPages
  refine h.each fun a t h1 => ?_
  split
  · exact h1.withPages h1.pages.remember
  · exact h1

theorem Keeps.fresh (h : Keeps s₀ s) : Keeps s₀ s.fresh :=
  h.withFreeCtr

theorem Keeps.countDropped {c block n : ℕ} (h : Keeps s₀ s) : Keeps s₀ (s.countDropped c block n) :=
  h.modCore

theorem Keeps.readGrain {c : ℕ} {d : MDesc} {i : ℕ} (h : Keeps s₀ s) : Keeps s₀ (s.readGrain c d i).1 := by
  unfold State.readGrain
  dsimp only
  split
  · exact h
  · split
    · dsimp only
      exact h.meetsWord.modDesc.countDropped
    · dsimp only
      exact h.modDesc

theorem Keeps.codeBlock {c : ℕ} {d : MDesc} {i k : ℕ} (h : Keeps s₀ s) : Keeps s₀ (s.codeBlock c d i k).1 := by
  unfold State.codeBlock
  dsimp only
  split
  · exact h
  · split
    · dsimp only
      exact h.modCore.meetsWord.modDesc
    · dsimp only
      refine Keeps.countDropped ?_
      refine Keeps.modDesc ?_
      split
      · exact h.modCore
      · exact h.modCore.touchPages

theorem Keeps.catchEnding {c : ℕ} {d : MDesc} {e : Option Ending} (h : Keeps s₀ s) : Keeps s₀ (s.catchEnding c d e) := by
  unfold State.catchEnding
  split
  · exact h
  · exact h.modDesc.modCore

theorem Keeps.captureLoop {c t n : ℕ} (h : Keeps s₀ s) : Keeps s₀ (State.captureLoop c t n s) := by
  induction n generalizing s with
  | zero => exact h
  | succ n ih =>
    unfold State.captureLoop
    split
    · exact ih h.readGrain.catchEnding
    · split
      · exact ih h.codeBlock.catchEnding
      · exact h.modCore

theorem Keeps.capture {c t : ℕ} (h : Keeps s₀ s) : Keeps s₀ (s.capture c t) :=
  h.captureLoop

theorem Keeps.writeDest {c mask a t : ℕ} {bs : List Byte} (h : Keeps s₀ s) : Keeps s₀ (s.writeDest c mask a t bs) :=
  h.each fun _ _ h1 => h1.capture.withCores h1.capture.cores.putSpad

theorem Keeps.discardFetch {c t : ℕ} {d : MDesc} (h : Keeps s₀ s) : Keeps s₀ (s.discardFetch c t d) :=
  ((h.each fun _ _ h1 => h1.writeDest).each fun _ _ h1 => h1.writeDest).modDesc

theorem Keeps.dropMover {c t block : ℕ} (h : Keeps s₀ s) : Keeps s₀ (s.dropMover c t block) :=
  (((h.each fun _ _ h1 => h1.discardFetch).each fun _ _ h1 => h1.modDesc).modRun).modCore

theorem Keeps.finishDescs {c : ℕ} (h : Keeps s₀ s) : Keeps s₀ (s.finishDescs c) := by
  unfold State.finishDescs
  dsimp only
  split
  · exact h
  · refine h.chargeAll.modCore.each fun a t h1 => ?_
    split
    · exact h1.addCtr
    · exact h1

theorem Keeps.noteEnding {e : Ending} (h : Keeps s₀ s) : Keeps s₀ (s.noteEnding e) := by
  unfold State.noteEnding
  split
  · exact h.withMem h.mem.note
  · exact h

theorem Keeps.writeCode {c : ℕ} {d : MDesc} {i k size : ℕ} {write : Bool} (h : Keeps s₀ s) : Keeps s₀ (s.writeCode c d i k size write) := by
  unfold State.writeCode
  dsimp only
  split
  · exact h.modDesc
  · split
    · exact h.modDesc.writePhys
    · exact h.modDesc.noteEnding.catchEnding
    · exact h.modDesc

theorem Keeps.writeCodes {c id i n : ℕ} (h : Keeps s₀ s) : Keeps s₀ (State.writeCodes c id i n s) := by
  induction n generalizing s with
  | zero => exact h
  | succ n ih =>
    unfold State.writeCodes
    split
    · exact h
    · split
      · exact h
      · split
        · split
          · exact h
          · exact ih h.writeCode
        · exact h

theorem Keeps.settleCodes {c : ℕ} (h : Keeps s₀ s) : Keeps s₀ (s.settleCodes c) :=
  h.each fun _ _ h1 => h1.each fun _ _ h2 => h2.writeCodes

theorem Keeps.endBlock {c t : ℕ} {e : Ending} (h : Keeps s₀ s) : Keeps s₀ (s.endBlock c t e) := by
  unfold State.endBlock
  dsimp only
  split
  · exact h
  · split
    · split
      · exact h.modRun
      · exact h
    · exact (((((h.chargeCore.capture.withCores (h.chargeCore.capture.cores.each fun a a1 h1 => h1.zeroWrite)).dropMover).modCore).modRun).settleCodes).finishDescs

theorem SeqKeeps.chainDone {m₀ m : SeqState} {f : ℕ} {e : QEntry} (h : SeqKeeps m₀ m) : SeqKeeps m₀ (m.chainDone f e) := by
  unfold SeqState.chainDone
  split
  · exact ⟨h.seqs, h.lists.tset, h.lookahead, h.ctx, h.destroying, h.preempting, h.restoring⟩
  · exact h

theorem Keeps.dropChain {c f id : ℕ} (h : Keeps s₀ s) : Keeps s₀ (s.dropChain c f id) := by
  unfold State.dropChain
  split
  · exact (h.withSeqs h.seqs.chainDone).modCore
  · exact h

theorem Keeps.zeroGrain {c t : ℕ} {d : MDesc} {g : MGrain} (h : Keeps s₀ s) : Keeps s₀ (s.zeroGrain c t d g) := by
  unfold State.zeroGrain
  dsimp only
  split
  · exact h.writeDest
  · split
    · exact h
    · split
      · exact h.writeDest
      · exact h
  · split
    · exact h
    · split
      · exact h
      · split
        · exact h.writeDest
        · exact h

theorem Keeps.walkLost {c t : ℕ} {d : MDesc} (h : Keeps s₀ s) : Keeps s₀ (s.walkLost c t d) := by
  unfold State.walkLost
  split
  · exact h.countDropped
  · exact h.each fun a t1 h1 => h1.zeroGrain

theorem Keeps.lateEnding {c block : ℕ} {e : Ending} (h : Keeps s₀ s) : Keeps s₀ (s.lateEnding c block e) := by
  unfold State.lateEnding
  dsimp only
  split
  · exact h
  · split
    · exact h.modCore
    · exact h.modCore.dropChain

theorem Keeps.moverEnding {c t block : ℕ} {e : Ending} (h : Keeps s₀ s) : Keeps s₀ (s.moverEnding c t block e) := by
  unfold State.moverEnding
  split
  · split
    · exact h.endBlock
    · exact h.lateEnding
  · exact h.lateEnding

theorem Keeps.settleCaught {c t : ℕ} (h : Keeps s₀ s) : Keeps s₀ (s.settleCaught c t) := by
  unfold State.settleCaught
  split
  · exact h
  · exact h.modCore.moverEnding

theorem Keeps.commit {c : ℕ} {r : RunBlock} {op pend : ℕ} (h : Keeps s₀ s) : Keeps s₀ (s.commit c r op pend) := by
  unfold State.commit
  dsimp only
  split
  · exact h
  · exact ((h.capture.withCores (h.capture.cores.each fun a a1 h1 => h1.putWrite)).modCore).modRun

theorem Keeps.slipAt {c p : ℕ} {awaits : List SlipWait} (h : Keeps s₀ s) : Keeps s₀ (s.slipAt c p awaits) :=
  h.modCore

theorem Keeps.issueIter {c p : ℕ} {r : RunBlock} {op : ℕ} (h : Keeps s₀ s) : Keeps s₀ (s.issueIter c p r op) := by
  unfold State.issueIter
  dsimp only
  split
  · exact h
  · split
    · exact h.modRun
    · split
      · exact h.meetsWord.endBlock
      · exact h.modCore.modRun

theorem Keeps.runDue {c p : ℕ} {r : RunBlock} {a : Due} (h : Keeps s₀ s) : Keeps s₀ (s.runDue c p r a) := by
  unfold State.runDue
  dsimp only
  split
  · exact h.commit
  · exact h.modCore
  · split
    · exact h.modRun
    · exact h.slipAt
  · split
    · exact h.issueIter
    · exact h.slipAt

theorem Keeps.advanceLoop {c p n : ℕ} (h : Keeps s₀ s) : Keeps s₀ (State.advanceLoop c p n s) := by
  induction n generalizing s with
  | zero => exact h
  | succ n ih =>
    unfold State.advanceLoop
    split
    · exact h
    · split
      · exact h
      · split
        · exact h
        · split
          · exact ih h.runDue
          · exact h

theorem Keeps.advance {c p : ℕ} (h : Keeps s₀ s) : Keeps s₀ (s.advance c p) := by
  unfold State.advance
  dsimp only
  split
  · exact h.settleCaught.advanceLoop
  · exact h.settleCaught

theorem Keeps.settle {c t : ℕ} (h : Keeps s₀ s) : Keeps s₀ (s.settle c t) := by
  unfold State.settle
  refine Keeps.settleCaught ?_
  refine Keeps.capture ?_
  split
  · exact h.advance
  · exact h

theorem Keeps.issueWord {c opcode : ℕ} {act : State → RunBlock → ℕ → ℕ → State} (h : Keeps s₀ s)
    (hact : ∀ t r w p, Keeps s₀ t → Keeps s₀ (act t r w p)) : Keeps s₀ (s.issueWord c opcode act) := by
  unfold State.issueWord
  split
  · exact h
  · split
    · exact h
    · extract_lets p t
      have ht : Keeps s₀ t := h.advance
      split
      · exact ht
      · split
        · exact ht
        · split
          · exact ht
          · exact hact _ _ _ _ ht.upTo.modRun

theorem Keeps.regopAct {c : ℕ} {x : RunBlock} {word p : ℕ} (h : Keeps s₀ s) : Keeps s₀ (regopAct c s x word p) :=
  h.modRun

theorem Keeps.setflagAct {c : ℕ} {x : RunBlock} {word p : ℕ} (h : Keeps s₀ s) : Keeps s₀ (setflagAct c s x word p) :=
  h.modRun

theorem Keeps.holdWord {c word p : ℕ} {await : SlipWait} (h : Keeps s₀ s) : Keeps s₀ (s.holdWord c word p await) :=
  h.modRun.slipAt

theorem Keeps.loadregAct {c : ℕ} {r : RunBlock} {word p : ℕ} (h : Keeps s₀ s) : Keeps s₀ (loadregAct c s r word p) := by
  unfold Machine.loadregAct
  dsimp only
  split
  · exact h.endBlock
  · split
    · exact h.endBlock
    · split
      · exact h.holdWord
      · split
        · exact h.meetsWord.endBlock
        · exact h.modRun

theorem Keeps.addAct {c : ℕ} {r : RunBlock} {word p : ℕ} (h : Keeps s₀ s) : Keeps s₀ (addAct c s r word p) := by
  unfold Machine.addAct
  dsimp only
  split
  · exact h.endBlock
  · split
    · exact h.modCore
    · exact h.addCtr

theorem Keeps.waitGeAct {c : ℕ} {r : RunBlock} {word p : ℕ} (h : Keeps s₀ s) : Keeps s₀ (waitGeAct c s r word p) := by
  unfold Machine.waitGeAct
  dsimp only
  split
  · exact h.endBlock
  · split
    · exact h.endBlock
    · split
      · split
        · exact h
        · exact h.slipAt
      · split
        · exact h
        · exact h.slipAt

theorem Keeps.releaseAdd {c : ℕ} (h : Keeps s₀ s) : Keeps s₀ (s.releaseAdd c) := by
  unfold State.releaseAdd
  dsimp only
  split
  · exact h
  · exact h.modCore.addCtr

theorem Keeps.addsShow {c : ℕ} {sl : SlipNow} (h : Keeps s₀ s) : Keeps s₀ (s.addsShow c sl) := by
  unfold State.addsShow
  dsimp only
  split
  · exact h.upTo
  · exact h

theorem Keeps.slipResume {c : ℕ} (h : Keeps s₀ s) : Keeps s₀ (s.slipResume c) := by
  unfold State.slipResume
  dsimp only
  split
  · split
    · exact h.settle.addsShow
    · exact h.settle
  · split
    · split
      · exact h.settle.addsShow
      · exact h.settle
    · split
      · split
        · exact h.settle.addsShow
        · exact h.settle.addsShow.upTo.modRun
      · split
        · exact h.settle
        · exact h.settle.upTo.modRun

theorem Keeps.unitAct {c : ℕ} {r : RunBlock} {word p : ℕ} (h : Keeps s₀ s) : Keeps s₀ (unitAct c s r word p) := by
  unfold Machine.unitAct
  dsimp only
  split
  · exact h.endBlock
  · exact h.modRun

theorem Keeps.swapAct {c : ℕ} {r : RunBlock} {word p : ℕ} (h : Keeps s₀ s) : Keeps s₀ (swapAct c s r word p) := by
  unfold Machine.swapAct
  dsimp only
  split
  · exact h.endBlock
  · split
    · exact h.endBlock
    · exact h.modCore.modRun

theorem Keeps.resultWritten {c : ℕ} (h : Keeps s₀ s) : Keeps s₀ (s.resultWritten c) := by
  unfold State.resultWritten
  dsimp only
  split
  · exact h
  · split
    · exact h
    · split
      · split
        · exact h.advance
        · exact h
      · split
        · split
          · exact h.advance
          · exact h
        · split
          · refine Keeps.advance ?_
            refine Keeps.upTo ?_
            split
            · exact h.advance
            · exact h
          · split
            · exact h.advance
            · exact h

theorem Keeps.clipStop {c : ℕ} (h : Keeps s₀ s) : Keeps s₀ (s.clipStop c) := by
  unfold State.clipStop
  dsimp only
  split
  · exact h
  · split
    · exact h
    · split
      · exact h.advance
      · split
        · exact h.advance
        · exact h.advance.upTo.modRun

theorem TabKeeps.answeredBytes {t u : List Host.Cell} {f b : ℕ} {a : Answer} (h : TabKeeps 0 t u) : TabKeeps 0 t (answeredBytes u f b a) :=
  h.setBytes.setBytes.setBytes.setBytes

theorem Keeps.answer {f b : ℕ} {q : Req} {a : Answer} (h : Keeps s₀ s) : Keeps s₀ (s.answer f b q a) := by
  have hc : CtlKeeps s₀.ctl (s.answer f b q a).ctl := ⟨h.ctl.mailbox.answeredBytes, h.ctl.rings⟩
  refine (h.withCtl hc).withHost ?_
  split
  · exact h.host.signal
  · exact h.host

/-- What a served row keeps, the command keeps. -/
theorem Keeps.serve {f : Fn} {b : Mb} {form : CmdForm} {row : Req → State → State × Answer} (h : Keeps s₀ s)
    (hrow : ∀ q t, Keeps s₀ t → Keeps s₀ (row q t).1) : Keeps s₀ (s.serve f b form row) := by
  unfold State.serve
  extract_lets q r
  split
  · split
    · exact h.answer
    · split
      · exact h.answer
      · split
        · exact (hrow q s h).answer
        · exact h.answer
  · exact h

theorem ClockKeeps.modDie {m₀ m : ClockState} {d : ℕ} {f : DieClock → DieClock} (h : ClockKeeps m₀ m) : ClockKeeps m₀ (m.modDie d f) :=
  ⟨h.dies.tset, h.stackNow, h.stackHeld, h.junctionNow, h.junctionHeld⟩

theorem Keeps.modClock {c : ℕ} {f : CoreClock → CoreClock} (h : Keeps s₀ s) : Keeps s₀ (s.modClock c f) := by
  unfold State.modClock
  dsimp only
  split
  · exact h.modCore
  · exact h

theorem Keeps.stopCore {c : ℕ} (h : Keeps s₀ s) : Keeps s₀ (s.stopCore c) := by
  unfold State.stopCore
  split
  · exact h.settle.chargeCore.modCore
  · exact h

theorem Keeps.startChange {c g : ℕ} (h : Keeps s₀ s) : Keeps s₀ (s.startChange c g) :=
  h.stopCore.modClock

theorem Keeps.retarget {c : ℕ} (h : Keeps s₀ s) : Keeps s₀ (s.retarget c) := by
  unfold State.retarget
  dsimp only
  split
  · exact h
  · split
    · exact h.modClock
    · split
      · exact h.startChange
      · exact h.modClock

theorem Keeps.retargetAll (h : Keeps s₀ s) : Keeps s₀ s.retargetAll :=
  h.each fun _ _ h1 => h1.retarget

theorem Keeps.rouse (h : Keeps s₀ s) : Keeps s₀ s.rouse := by
  unfold State.rouse
  refine h.each fun a t h1 => ?_
  split
  · exact h1.retarget
  · exact h1

theorem Keeps.unrouse {old : State} (h : Keeps s₀ s) : Keeps s₀ (s.unrouse old) := by
  refine h.each fun c t ht => ?_
  refine Keeps.retarget ?_
  split
  · exact ht
  · exact ht.modClock

theorem Keeps.swapClocks {c : ℕ} (h : Keeps s₀ s) : Keeps s₀ (s.swapClocks c) :=
  h.modClock.modClock.retarget.retarget

theorem Keeps.moveCore {c : ℕ} (h : Keeps s₀ s) : Keeps s₀ (s.moveCore c) :=
  h.modCore.withFreeCtr.swapClocks

theorem Keeps.lowerVolts {d : ℕ} (h : Keeps s₀ s) : Keeps s₀ (s.lowerVolts d) := by
  unfold State.lowerVolts
  dsimp only
  split
  · exact h.withClocks h.clocks.modDie
  · exact h

theorem Keeps.changeDone {c : ℕ} (h : Keeps s₀ s) : Keeps s₀ (s.changeDone c) := by
  unfold State.changeDone
  dsimp only
  split
  · exact h
  · refine Keeps.lowerVolts ?_
    refine Keeps.retarget ?_
    split
    · exact h.upTo.modClock.modCore
    · exact h.upTo.modClock

theorem Keeps.wakeDone {c : ℕ} (h : Keeps s₀ s) : Keeps s₀ (s.wakeDone c) := by
  unfold State.wakeDone
  dsimp only
  split
  · exact h
  · refine Keeps.retarget ?_
    split
    · exact h.upTo.modClock.modCore
    · exact h.upTo.modClock

theorem Keeps.freewheel {c : ℕ} (h : Keeps s₀ s) : Keeps s₀ (s.freewheel c) := by
  unfold State.freewheel
  dsimp only
  split
  · exact h
  · exact h.upTo.modClock

theorem Keeps.admitCore {c g : ℕ} (h : Keeps s₀ s) : Keeps s₀ (s.admitCore c g) := by
  unfold State.admitCore
  split
  · exact h.modClock
  · exact h.startChange

theorem Keeps.admitSteps {d : ℕ} {l : List ℕ} (h : Keeps s₀ s) : Keeps s₀ (State.admitSteps d l s) := by
  induction l generalizing s with
  | nil => exact h
  | cons i l ih =>
    unfold State.admitSteps
    extract_lets w steps t
    have ht : Keeps s₀ t := h.each fun _ _ h => h.admitCore
    split
    · exact ih (ht.withClocks ht.clocks.modDie)
    · exact ih h

theorem Keeps.admitPass {d : ℕ} (h : Keeps s₀ s) : Keeps s₀ (s.admitPass d) :=
  h.admitSteps

theorem Keeps.admission {d n : ℕ} (h : Keeps s₀ s) : Keeps s₀ (State.admission d n s) := by
  induction n generalizing s with
  | zero => exact h
  | succ n ih =>
    unfold State.admission
    extract_lets t
    split
    · exact h.admitPass
    · split
      · exact h
      · exact ih h.upTo

theorem Keeps.admissionWindow {d : ℕ} (h : Keeps s₀ s) : Keeps s₀ (s.admissionWindow d) :=
  h.admission

theorem Keeps.gearRow {q : Req} (h : Keeps s₀ s) : Keeps s₀ (gearRow q s).1 := by
  unfold Machine.gearRow
  dsimp only
  exact h.each fun a t h1 => h1.modClock.retarget

theorem Keeps.envelopeRow {q : Req} (h : Keeps s₀ s) : Keeps s₀ (envelopeRow q s).1 := by
  unfold Machine.envelopeRow
  dsimp only
  exact h

theorem Keeps.thermal {trigger ix arg1 cap : ℕ} {fall : Bool} (h : Keeps s₀ s) : Keeps s₀ (s.thermal trigger ix arg1 cap fall) :=
  h.event

theorem ClockKeeps.sampleCaps {m₀ m : ClockState} {envelopeW packageMw : ℕ} {rails16 : List ℕ} (h : ClockKeeps m₀ m) : ClockKeeps m₀ (m.sampleCaps envelopeW packageMw rails16) :=
  ⟨h.dies.each fun _ _ h1 => h1.tset, h.stackNow, h.stackHeld, h.junctionNow, h.junctionHeld⟩

theorem ClockKeeps.sampleTemps {m₀ m : ClockState} {packageMw : ℕ} {dieMw rails16 stackC junctionC : List ℕ} (h : ClockKeeps m₀ m) :
    ClockKeeps m₀ (m.sampleTemps packageMw dieMw rails16 stackC junctionC) := by
  unfold ClockState.sampleTemps
  refine ⟨h.dies, ?_, ?_, ?_, ?_⟩ <;> dsimp only
  · refine TabKeeps.each h.stackNow ?_
    intro _ _ h
    exact h.tset
  · refine TabKeeps.each h.stackHeld fun _ _ h => ?_
    exact h.tset
  · refine TabKeeps.each h.junctionNow fun _ _ h => ?_
    exact h.tset
  · refine TabKeeps.each h.junctionHeld fun _ _ h => ?_
    exact h.tset

theorem Keeps.thermalCrossings {old : ClockState} (h : Keeps s₀ s) : Keeps s₀ (s.thermalCrossings old) := by
  unfold State.thermalCrossings
  refine Keeps.each ?_ fun a t h1 => ?_
  · refine h.each fun a t h1 => ?_
    refine h1.each fun a1 t1 h2 => ?_
    split
    · exact h2.thermal
    · exact h2
  · split
    · exact h1.thermal
    · exact h1

theorem Keeps.kettle {packageMw : ℕ} {dieMw rails16 stackC junctionC : List ℕ} (h : Keeps s₀ s) :
    Keeps s₀ (s.kettle packageMw dieMw rails16 stackC junctionC) := by
  unfold State.kettle
  extract_lets t old k k' _ _ _ u
  have ht : Keeps s₀ t := h.upTo
  clear_value t
  have hk : ClockKeeps s₀.clocks k := ClockKeeps.sampleTemps (ClockKeeps.sampleCaps ht.clocks)
  clear_value k
  have hk' : ClockKeeps s₀.clocks k' := ClockKeeps.each hk fun _ _ h => h.modDie
  clear_value k'
  have hm : MemKeeps s₀.mem u.mem := ⟨ht.mem.cells, ht.mem.movers, ht.mem.hostq⟩
  have hu : Keeps s₀ u := ((ht.withClocks hk').withMem hm).withRst ht.rst.nor
  clear_value u
  exact hu.thermalCrossings.retargetAll.each fun _ _ h => h.lowerVolts

theorem Keeps.capReminder (h : Keeps s₀ s) : Keeps s₀ s.capReminder := by
  unfold State.capReminder
  dsimp only
  split
  · exact h
  · exact .thermal (.withClocks h.upTo ⟨h.upTo.clocks.dies, h.upTo.clocks.stackNow, h.upTo.clocks.stackHeld, h.upTo.clocks.junctionNow, h.upTo.clocks.junctionHeld⟩)

theorem Keeps.trip {stackC junctionC : List ℕ} (h : Keeps s₀ s) : Keeps s₀ (s.trip stackC junctionC) := by
  unfold State.trip
  dsimp only
  split
  · exact h
  · exact h

theorem Keeps.setpointReached {d : ℕ} (h : Keeps s₀ s) : Keeps s₀ (s.setpointReached d) :=
  (h.withClocks h.clocks.modDie).each fun _ _ h1 => h1.retarget

theorem Keeps.avsRetry {d mv : ℕ} (h : Keeps s₀ s) : Keeps s₀ (s.avsRetry d mv) := by
  unfold State.avsRetry
  dsimp only
  split
  · exact h
  · exact (h.upTo.withClocks h.upTo.clocks.modDie).each fun a t h1 => h1.retarget

theorem Keeps.snapshot (h : Keeps s₀ s) : Keeps s₀ s.snapshot := by
  unfold State.snapshot
  extract_lets t
  have ht : Keeps s₀ t := h.upTo
  clear_value t
  exact ⟨ht.pending, ht.mem, ht.share, ht.cores, ht.pages, ht.seqs, ht.fabric, ht.codecs, ht.stems, ht.ctl, ⟨ht.host.memory, ht.host.fns⟩, ⟨ht.clocks.dies, ht.clocks.stackNow, ht.clocks.stackHeld, ht.clocks.junctionNow, ht.clocks.junctionHeld⟩, ht.rst, ht.sec, ht.svc⟩

theorem SvcKeeps.modErr {m₀ m : SvcState} {u : ℕ} {f : ErrRec → ErrRec} (h : SvcKeeps m₀ m) : SvcKeeps m₀ (m.modErr u f) :=
  ⟨h.errs.tset, h.spares⟩

theorem SvcKeeps.modSpares {m₀ m : SvcState} {cl : ℕ} {f : Spares → Spares} (h : SvcKeeps m₀ m) : SvcKeeps m₀ (m.modSpares cl f) :=
  ⟨h.errs, h.spares.tset⟩

theorem Keeps.alert (h : Keeps s₀ s) : Keeps s₀ s.alert :=
  h

theorem Keeps.spareOut {kind ix : ℕ} {lost : Bool} (h : Keeps s₀ s) : Keeps s₀ (s.spareOut kind ix lost) :=
  .event (.alert h)

theorem Keeps.recordItem {f : TandemConfig → TandemConfig} (h : Keeps s₀ s) : Keeps s₀ (s.recordItem f) :=
  h

theorem Keeps.loseCore {c : ℕ} (h : Keeps s₀ s) : Keeps s₀ (s.loseCore c) :=
  h

theorem Keeps.spareIdle {cl : ℕ} (h : Keeps s₀ s) : Keeps s₀ (s.spareIdle cl) :=
  h.modClock.retarget

theorem Keeps.endRequests {cl : ℕ} (h : Keeps s₀ s) : Keeps s₀ (s.endRequests cl) :=
  .each h fun _ _ h1 => h1.commandEntry

theorem Keeps.retireSlot {cl slot reason : ℕ} (h : Keeps s₀ s) : Keeps s₀ (s.retireSlot cl slot reason) := by
  unfold State.retireSlot
  dsimp only
  split
  · exact h
  · split
    · refine Keeps.endRequests ?_
      refine Keeps.spareOut ?_
      split
      · exact (h.recordItem.withSvc h.recordItem.svc.modErr.modSpares.modSpares).spareIdle
      · exact (h.recordItem.withSvc h.recordItem.svc.modErr.modSpares.modSpares).moveCore
    · split
      · exact ((h.recordItem.withSvc h.recordItem.svc.modErr.modSpares).loseCore).spareOut
      · exact h.recordItem.withSvc h.recordItem.svc.modErr.modSpares

theorem Keeps.applySwap {c : ℕ} (h : Keeps s₀ s) : Keeps s₀ (s.applySwap c) := by
  unfold State.applySwap
  dsimp only
  split
  · exact h
  · split
    · exact h
    · split
      · exact h.modCore.retireSlot
      · split
        · exact (h.modCore.withSvc h.modCore.svc.modSpares).moveCore
        · exact h.modCore.retarget
      · split
        · exact (h.modCore.withSvc h.modCore.svc.modSpares).moveCore
        · exact h.modCore.retarget

theorem Keeps.startRequest {c : ℕ} (h : Keeps s₀ s) : Keeps s₀ (s.startRequest c) :=
  h

theorem Keeps.coreCheck {c : ℕ} (h : Keeps s₀ s) : Keeps s₀ (s.coreCheck c) := by
  unfold State.coreCheck
  dsimp only
  split
  · exact h.settle
  · exact ((h.settle.withSvc h.settle.svc.modErr).endBlock).modCore

theorem Keeps.endSlotRequests {cl slot : ℕ} (h : Keeps s₀ s) : Keeps s₀ (s.endSlotRequests cl slot) :=
  .each h fun _ _ h1 => h1.commandEntry

theorem Keeps.steepingDone {cl : ℕ} {patterns : Bool} {margin : ℕ} (h : Keeps s₀ s) : Keeps s₀ (s.steepingDone cl patterns margin) := by
  unfold State.steepingDone
  dsimp only
  split
  · exact h
  · split
    · exact h
    · split
      · exact ((((h.withSvc h.svc.modErr.modSpares).spareIdle).endSlotRequests).modCore).retarget
      · exact (h.withSvc h.svc.modErr).retireSlot

theorem Keeps.spareSwapRow {q : Req} (h : Keeps s₀ s) : Keeps s₀ (spareSwapRow q s).1 := by
  unfold Machine.spareSwapRow
  dsimp only
  split
  · exact h
  · dsimp only
    exact h.modCore.retarget

theorem FabricKeeps.modPort {m₀ m : FabricState} {p : ℕ} {f : Port → Port} (h : FabricKeeps m₀ m) : FabricKeeps m₀ (m.modPort p f) :=
  ⟨h.ports.tset, h.links, h.slots, h.queues, h.sent⟩

theorem Keeps.steepRow {q : Req} (h : Keeps s₀ s) : Keeps s₀ (steepRow q s).1 := by
  unfold Machine.steepRow
  dsimp only
  split
  · exact h
  · split
    · exact h
    · dsimp only
      split
      · exact .retarget (.withSvc h (.modSpares h.svc))
      · exact h

theorem Keeps.modStack {k : ℕ} {f : StackRec → StackRec} (h : Keeps s₀ s) : Keeps s₀ (s.modStack k f) :=
  h

theorem Keeps.stackOut {kind k : ℕ} (h : Keeps s₀ s) : Keeps s₀ (s.stackOut kind k) :=
  h.modStack.spareOut

theorem Keeps.noSpare {kind k : ℕ} (h : Keeps s₀ s) : Keeps s₀ (s.noSpare kind k) := by
  unfold State.noSpare
  split
  · exact h
  · exact h.stackOut

theorem Keeps.remapLane {k pseudo lane : ℕ} (h : Keeps s₀ s) : Keeps s₀ (s.remapLane k pseudo lane) := by
  unfold State.remapLane
  split
  · exact h.noSpare
  · exact h.modStack.recordItem.stackOut

theorem Keeps.repairRow {k pseudo row : ℕ} (h : Keeps s₀ s) : Keeps s₀ (s.repairRow k pseudo row) := by
  unfold State.repairRow
  dsimp only
  split
  · split
    · exact h.modStack.recordItem.stackOut
    · exact h.modStack.recordItem
  · exact h.noSpare

theorem Keeps.noteRow {a symbols : ℕ} (h : Keeps s₀ s) : Keeps s₀ (s.noteRow a symbols) := by
  unfold State.noteRow
  dsimp only
  split
  · exact h
  · exact .repairRow h

theorem Keeps.noteLanes {a : ℕ} {places : List ℕ} (h : Keeps s₀ s) : Keeps s₀ (s.noteLanes a places) :=
  .each h fun _ _ h1 => h1.remapLane

theorem Keeps.noteGrain {a : ℕ} {scrub : Bool} {r : GrainRead} (h : Keeps s₀ s) : Keeps s₀ (s.noteGrain a scrub r) := by
  unfold State.noteGrain
  dsimp only
  split
  · exact (h.withMem h.mem.note).noteLanes
  · exact ((h.withMem h.mem.note).noteLanes).noteRow

theorem Keeps.noteLinks {a : ℕ} {t : LinkTrip} (h : Keeps s₀ s) : Keeps s₀ (s.noteLinks a t) :=
  h.withSvc h.svc.modErr

theorem Keeps.deliverGrain {links : List ℕ} {a : ℕ} {o : GrainErrors} (h : Keeps s₀ s) : Keeps s₀ (s.deliverGrain links a o).1 := by
  unfold State.deliverGrain
  dsimp only
  split
  · dsimp only
    exact h.noteGrain
  · dsimp only
    exact h.noteGrain.noteLinks

theorem Keeps.crossLinks {links : List ℕ} {hub : Bool} {a : ℕ} {data : List Byte} (h : Keeps s₀ s) : Keeps s₀ (s.crossLinks links hub a data).1 := by
  unfold State.crossLinks
  split
  · exact h
  · extract_lets t lost u
    have hu : Keeps s₀ u := h.noteLinks
    exact .withSvc hu hu.svc

theorem Keeps.requestDone {kind target result : ℕ} {scan : List (ℕ × List SymbolError)} (h : Keeps s₀ s) : Keeps s₀ (s.requestDone kind target result scan) := by
  unfold State.requestDone
  dsimp only
  split
  · exact h
  · split
    · exact h
    · split
      · refine Keeps.commandEntry ?_
        split
        · exact h
        · exact .remapLane h
      · refine Keeps.commandEntry ?_
        split
        · exact h
        · exact .spareOut (h.withFabric h.fabric.modPort)
      · exact .commandEntry h

theorem Keeps.replaceRow {unit : ℕ} {a : SramArray} (h : Keeps s₀ s) : Keeps s₀ (s.replaceRow unit a) := by
  unfold State.replaceRow
  dsimp only
  split
  · split
    · exact .spareOut h
    · exact h
  · exact h

theorem Keeps.boundaryRepairs {c : ℕ} (h : Keeps s₀ s) : Keeps s₀ (s.boundaryRepairs c) :=
  .each h fun _ _ h1 => h1.replaceRow

theorem Keeps.correctedWord {unit : ℕ} {a : SramArray} {slot row : ℕ} (h : Keeps s₀ s) : Keeps s₀ (s.correctedWord unit a slot row) := by
  unfold State.correctedWord
  extract_lets t same _ u
  have ht : Keeps s₀ t := h.withSvc h.svc.modErr
  have hu : Keeps s₀ u := .withSvc ht ht.svc
  split
  · exact ht
  · split
    · split
      · split
        · split
          · exact Keeps.boundaryRepairs (.withSvc hu hu.svc)
          · exact .withSvc hu hu.svc
        · exact hu.replaceRow
      · split
        · split
          · exact Keeps.boundaryRepairs (.withSvc hu hu.svc)
          · exact .withSvc hu hu.svc
        · exact hu.replaceRow
      · exact hu.replaceRow
    · exact .withSvc ht ht.svc

theorem Keeps.ctrReaders {w : ℕ} (h : Keeps s₀ s) : Keeps s₀ (s.ctrReaders w) := by
  unfold State.ctrReaders
  refine h.each fun a t h1 => ?_
  split
  · exact h1
  · split
    · exact h1.endBlock
    · exact h1

theorem PageKeeps.modTlb {m₀ m : PageState} {unit addr : ℕ} {f : TlbEntry → TlbEntry} (h : PageKeeps m₀ m) : PageKeeps m₀ (m.modTlb unit addr f) :=
  h

theorem Keeps.badOnDieWord {unit : ℕ} {a : SramArray} {slot addr : ℕ} (h : Keeps s₀ s) : Keeps s₀ (s.badOnDieWord unit a slot addr) := by
  unfold State.badOnDieWord
  extract_lets t
  have ht : Keeps s₀ t := h.withSvc h.svc.modErr
  split
  · exact .withCores ht ht.cores
  · exact .withCores ht ht.cores
  · exact .ctrReaders (.withShare ht ht.share)
  · exact ht.withPages ht.pages.modTlb
  · exact .withSvc ht ht.svc
  · exact ht

theorem ShareKeeps.setCtr {m₀ m : ShareState} {unit fld : ℕ} {v : W32} (h : ShareKeeps m₀ m) : ShareKeeps m₀ (m.setCtr unit fld v) := by
  unfold ShareState.setCtr
  split
  · exact ⟨h.clusterCtr.tset, h.hubCtr⟩
  · exact ⟨h.clusterCtr, h.hubCtr.tset⟩

theorem Keeps.putWord {unit : ℕ} {a : SramArray} {slot addr data : ℕ} (h : Keeps s₀ s) : Keeps s₀ (s.putWord unit a slot addr data) := by
  unfold State.putWord
  dsimp only
  split
  · exact .withCores h ⟨h.cores.cores, h.cores.spad.setBytes, h.cores.acc⟩
  · exact .withCores h ⟨h.cores.cores, h.cores.spad, h.cores.acc.tset.tset⟩
  · exact h.chargeAll.withShare h.chargeAll.share.setCtr.setCtr
  · exact h.withPages h.pages.modTlb
  · exact h

theorem SvcKeeps.linkMet {m₀ m : SvcState} {addr : ℕ} {flips : BitVec 80} (h : SvcKeeps m₀ m) : SvcKeeps m₀ (m.linkMet addr flips) := by
  unfold SvcState.linkMet
  dsimp only
  split
  · exact h
  · exact h

theorem Keeps.onDieWord {unit : ℕ} {a : SramArray} {slot row addr from_ : ℕ} {flips : BitVec 80} (h : Keeps s₀ s) : Keeps s₀ (s.onDieWord unit a slot row addr from_ flips) := by
  unfold State.onDieWord
  dsimp only
  split
  · exact h.withSvc h.svc.linkMet
  · split
    · exact h.badOnDieWord
    · split
      · split
        · exact h
        · exact h.putWord
      · refine Keeps.correctedWord ?_
        split
        · exact h
        · exact h.putWord

theorem Keeps.retireGroup {link group j : ℕ} (h : Keeps s₀ s) : Keeps s₀ (s.retireGroup link group j) := by
  unfold State.retireGroup
  extract_lets t _ u
  have ht : Keeps s₀ t := h.recordItem.spareOut
  have hu : Keeps s₀ u := .withSvc ht ht.svc
  split
  · exact hu.each fun _ _ h => h.loseCore
  · exact hu

theorem Keeps.laneFail {link group lane : ℕ} (h : Keeps s₀ s) : Keeps s₀ (s.laneFail link group lane) := by
  unfold State.laneFail
  dsimp only
  split
  · exact h
  · split
    · exact h
    · split
      · split
        · exact .retireGroup (.recordItem h)
        · split
          · exact .spareOut (.recordItem h)
          · exact .recordItem h
      · split
        · exact .retireGroup (.recordItem h)
        · split
          · exact .spareOut (.recordItem h)
          · exact .recordItem h

theorem Keeps.moverAct {c : ℕ} {store : Bool} {r : RunBlock} {word p : ℕ} (h : Keeps s₀ s) : Keeps s₀ (moverAct c store s r word p) := by
  unfold Machine.moverAct
  dsimp only
  split
  · exact h.holdWord
  · split
    · exact h.endBlock
    · split
      · exact h.endBlock
      · refine Keeps.finishDescs ?_
        refine Keeps.modCore ?_
        refine Keeps.modRun ?_
        split
        · split
          · exact h
          · exact h.touchPages
        · split
          · exact h
          · exact h.touchPages

theorem Keeps.settleDest {c mask : ℕ} (h : Keeps s₀ s) : Keeps s₀ (s.settleDest c mask) :=
  h.settle.each fun _ _ h1 => h1.settle

theorem Keeps.blockPassed {c id i : ℕ} (h : Keeps s₀ s) : Keeps s₀ (s.blockPassed c id i) :=
  h.modDesc

theorem Keeps.expandTime {c : ℕ} {d : MDesc} {mask : ℕ} (h : Keeps s₀ s) : Keeps s₀ (s.expandTime c d mask) :=
  h.upTo.settleDest.chargeAll.modCore

theorem Keeps.blockDamaged {c : ℕ} {d : MDesc} {i : ℕ} {e : Ending} (h : Keeps s₀ s) : Keeps s₀ (s.blockDamaged c d i e) := by
  unfold State.blockDamaged
  split
  · exact h.blockPassed.modDesc.lateEnding
  · exact h.endBlock

theorem Keeps.decodeBlocks {c id i n : ℕ} (h : Keeps s₀ s) : Keeps s₀ (State.decodeBlocks c id i n s) := by
  induction n generalizing s with
  | zero => exact h
  | succ n ih =>
    unfold State.decodeBlocks
    split
    · exact h
    · split
      · exact h
      · split
        · exact h
        · split
          · exact h
          · exact ih h.blockPassed
          · extract_lets t
            have ht : Keeps s₀ t := h.expandTime
            split
            · exact ht
            · split
              · exact ih ht.writeDest.blockPassed
              · exact ih ht.blockDamaged

theorem Keeps.settleStores {c : ℕ} (h : Keeps s₀ s) : Keeps s₀ (s.settleStores c) :=
  h.settleCodes.settleCaught.finishDescs

theorem Keeps.grainEnding {c : ℕ} {d : MDesc} {g : ℕ} {walkFailed : Bool} {e : Ending} (h : Keeps s₀ s) : Keeps s₀ (s.grainEnding c d g walkFailed e) := by
  unfold State.grainEnding
  refine Keeps.settleStores ?_
  dsimp only
  split
  · refine Keeps.each ?_ fun a t h1 => h1.decodeBlocks
    refine Keeps.modCore ?_
    refine Keeps.lateEnding ?_
    refine Keeps.modDesc ?_
    split
    · exact h.walkLost
    · exact h
  · exact h.endBlock

theorem Keeps.walkDone {c d g : ℕ} (h : Keeps s₀ s) : Keeps s₀ (s.walkDone c d g) := by
  unfold State.walkDone
  dsimp only
  split
  · exact h.settle.chargeAll
  · split
    · exact h.settle.chargeAll
    · split
      · exact h.settle.chargeAll
      · split
        · split
          · split
            · exact h.settle.chargeAll.withMem h.settle.chargeAll.mem.note
            · exact h.settle.chargeAll
          · refine Keeps.modDesc ?_
            refine Keeps.rememberPage ?_
            split
            · exact h.settle.chargeAll.withMem h.settle.chargeAll.mem.note
            · exact h.settle.chargeAll
        · refine Keeps.grainEnding ?_
          split
          · exact h.settle.chargeAll.withMem h.settle.chargeAll.mem.note
          · exact h.settle.chargeAll
        · split
          · exact h.settle.chargeAll.withMem h.settle.chargeAll.mem.note
          · exact h.settle.chargeAll

theorem Keeps.sizeIter {c : ℕ} {d : MDesc} {i : ℕ} (h : Keeps s₀ s) : Keeps s₀ (s.sizeIter c d i).1 := by
  unfold State.sizeIter
  dsimp only
  split
  · exact h
  · dsimp only
    refine Keeps.modDesc ?_
    split
    · exact h
    · exact h.touchPages

theorem Keeps.codedLanded {c id i : ℕ} (h : Keeps s₀ s) : Keeps s₀ (s.codedLanded c id i) := by
  unfold State.codedLanded
  dsimp only
  split
  · exact h
  · split
    · exact h
    · refine Keeps.decodeBlocks ?_
      split
      · refine Keeps.moverEnding ?_
        refine Keeps.modDesc ?_
        split
        · exact h.sizeIter
        · exact h
      · split
        · exact h.sizeIter
        · exact h

theorem Keeps.land {c : ℕ} {desc : MDesc} {g : ℕ} {gr : MGrain} {o : GrainErrors} (h : Keeps s₀ s) : Keeps s₀ (s.land c desc g gr o).1 := by
  unfold State.land
  dsimp only
  split
  · split
    · dsimp only
      exact h.upTo.settleDest.chargeAll
    · split
      · dsimp only
        exact h.upTo.settleDest.chargeAll.deliverGrain
      · split
        · dsimp only
          exact h.upTo.settleDest.chargeAll.deliverGrain.writeDest.modDesc
        · dsimp only
          exact h.upTo.settleDest.chargeAll.deliverGrain.modDesc.codedLanded
  · split
    · dsimp only
      exact h.upTo.settleDest.chargeAll
    · split
      · dsimp only
        exact h.upTo.settleDest.chargeAll.deliverGrain
      · split
        · dsimp only
          exact h.upTo.settleDest.chargeAll.deliverGrain.writeDest.modDesc
        · dsimp only
          exact h.upTo.settleDest.chargeAll.deliverGrain.modDesc.codedLanded

theorem Keeps.fetchLanded {c d g : ℕ} {o : GrainErrors} (h : Keeps s₀ s) : Keeps s₀ (s.fetchLanded c d g o) := by
  unfold State.fetchLanded
  dsimp only
  split
  · exact h
  · split
    · exact h
    · split
      · exact h
      · split
        · split
          · exact h.deliverGrain.endBlock
          · exact h.deliverGrain
        · split
          · exact h
          · split
            · exact h.land.grainEnding
            · exact h.land.settleStores

theorem Keeps.lateGrain {c d g : ℕ} {o : GrainErrors} (h : Keeps s₀ s) : Keeps s₀ (s.lateGrain c d g o) := by
  unfold State.lateGrain
  dsimp only
  split
  · exact h
  · split
    · exact h
    · split
      · exact h
      · split
        · exact h.walkDone
        · split
          · exact h
          · split
            · exact h.land.grainEnding
            · split
              · exact h
              · exact h.land.settleStores

theorem Keeps.storeVisible {c d g : ℕ} (h : Keeps s₀ s) : Keeps s₀ (s.storeVisible c d g) := by
  unfold State.storeVisible
  dsimp only
  split
  · exact h
  · split
    · exact h
    · split
      · exact h.upTo.settle
      · split
        · exact h.upTo.settle
        · split
          · exact ((h.upTo.settle.chargeAll.crossLinks.withMem h.upTo.settle.chargeAll.crossLinks.mem.write).modDesc).settleStores
          · exact h.upTo.settle.chargeAll.crossLinks.modDesc.countDropped.grainEnding

theorem Keeps.failChain {c : ℕ} {l : LoadBlock} {e : Ending} (h : Keeps s₀ s) : Keeps s₀ (s.failChain c l e) :=
  (h.withSeqs h.seqs.chainDone).modCore

theorem Keeps.failLoad {c : ℕ} {l : LoadBlock} {e : Ending} (h : Keeps s₀ s) : Keeps s₀ (s.failLoad c l e) :=
  h.noteEnding.modCore.failChain.retarget

theorem Keeps.blockLoad {c : ℕ} (h : Keeps s₀ s) : Keeps s₀ (s.blockLoad c) := by
  unfold State.blockLoad
  dsimp only
  split
  · split
    · exact h
    · split
      · exact h.failLoad
      · exact h.modCore
  · split
    · exact h
    · split
      · exact h
      · exact h.modCore

theorem Keeps.blockReady {c : ℕ} (h : Keeps s₀ s) : Keeps s₀ (s.blockReady c) := by
  unfold State.blockReady
  split
  · exact h
  · split
    · exact h.failLoad
    · split
      · exact h
      · split
        · exact h.failLoad
        · exact h.modCore.retarget

theorem Keeps.boundMet {c : ℕ} (h : Keeps s₀ s) : Keeps s₀ (s.boundMet c) := by
  unfold State.boundMet
  dsimp only
  split
  · exact h
  · split
    · exact h.failLoad
    · split
      · exact h.failLoad
      · split
        · exact h.modCore
        · exact h

theorem Keeps.boundTimeout {c : ℕ} (h : Keeps s₀ s) : Keeps s₀ (s.boundTimeout c) := by
  unfold State.boundTimeout
  dsimp only
  split
  · exact h
  · split
    · exact h.failLoad
    · split
      · exact h.upTo.failLoad
      · exact h

theorem Keeps.blockIssue {c : ℕ} (h : Keeps s₀ s) : Keeps s₀ (s.blockIssue c) := by
  unfold State.blockIssue
  dsimp only
  split
  · exact h
  · split
    · exact h
    · split
      · exact h.failLoad
      · split
        · exact h.failLoad
        · exact h.upTo.modCore

theorem Keeps.endAt {c t : ℕ} {e : Ending} (h : Keeps s₀ s) : Keeps s₀ (s.endAt c t e) := by
  unfold State.endAt
  dsimp only
  split
  · exact h.upTo.settle
  · split
    · exact h.upTo.settle.endBlock
    · exact h.upTo.settle

theorem Keeps.wallExpired {c : ℕ} (h : Keeps s₀ s) : Keeps s₀ (s.wallExpired c) := by
  unfold State.wallExpired
  dsimp only
  split
  · exact h
  · split
    · exact h
    · exact h.endAt

theorem Keeps.passBoundary {c : ℕ} (h : Keeps s₀ s) : Keeps s₀ (s.passBoundary c) :=
  h

theorem Keeps.boundaryAt {c t : ℕ} {r : RunBlock} (h : Keeps s₀ s) : Keeps s₀ (s.boundaryAt c t r) := by
  unfold State.boundaryAt
  refine Keeps.finishDescs ?_
  refine Keeps.retarget ?_
  refine Keeps.boundaryRepairs ?_
  refine Keeps.passBoundary ?_
  refine Keeps.modCore ?_
  refine Keeps.modCore ?_
  refine h.upTo.withSeqs ?_
  split
  · exact h.upTo.seqs
  · exact h.upTo.seqs.chainDone

theorem Keeps.blockBoundary {c : ℕ} (h : Keeps s₀ s) : Keeps s₀ (s.blockBoundary c) := by
  unfold State.blockBoundary
  dsimp only
  split
  · exact h
  · split
    · exact h.boundaryAt
    · split
      · exact h
      · split
        · exact h.advance
        · split
          · exact h.advance
          · exact h.advance.boundaryAt

theorem Keeps.completionEntry {c : ℕ} (h : Keeps s₀ s) : Keeps s₀ (s.completionEntry c) := by
  unfold State.completionEntry
  dsimp only
  split
  · exact h.settleCaught
  · split
    · exact h.settleCaught.modCore.post
    · exact h.settleCaught.modCore

theorem Keeps.modRec {f : ℕ} {g : PageRec → PageRec} (h : Keeps s₀ s) : Keeps s₀ (s.modRec f g) :=
  h.withPages h.pages.setRec

theorem Keeps.pgWrite {a : ℕ} {bs : List Byte} (h : Keeps s₀ s) : KeepsOk s₀ (s.pgWrite a bs) := by
  unfold State.pgWrite
  split
  · exact .error
  · exact KeepsOk.ok (h.withMem h.mem.write)

theorem Keeps.ftWrite {e : ℕ} {x : FtEntry} (h : Keeps s₀ s) : KeepsOk s₀ (s.ftWrite e x) :=
  h.pgWrite

theorem Keeps.pushFrame {f e : ℕ} (h : Keeps s₀ s) : KeepsOk s₀ (s.pushFrame f e) := by
  unfold State.pushFrame
  dsimp only
  split
  · split
    · exact .error
    · next x t e1 =>
        have h1 := h.pgWrite _ e1
        exact KeepsOk.ok h1.modRec
  · split
    · exact .error
    · next x t e1 =>
        have h1 := h.pgWrite _ e1
        exact KeepsOk.ok h1.modRec

theorem Keeps.popFrame {f : ℕ} {fast : Bool} (h : Keeps s₀ s) : KeepsOkFst s₀ (s.popFrame f fast) := by
  unfold State.popFrame
  dsimp only
  split
  · split
    · exact .error
    · refine KeepsOkFst.ok ?_
      dsimp only
      exact h.modRec
  · split
    · exact .error
    · refine KeepsOkFst.ok ?_
      dsimp only
      exact h.modRec

theorem Keeps.popFrames {f n : ℕ} (h : Keeps s₀ s) : KeepsOkFst s₀ (State.popFrames f n s) := by
  induction n generalizing s with
  | zero => exact .ok h
  | succ n ih =>
    unfold State.popFrames
    split
    · exact .error
    · next t _ e =>
      have ht : Keeps s₀ t := h.popFrame _ e
      split
      · exact .error
      · next u l e => exact .ok (ih ht (u, l) e)

theorem Keeps.pagedEach {α : Type} {op : α → State → Paged State} {l : List α} (h : Keeps s₀ s) (hop : ∀ a t, Keeps s₀ t → KeepsOk s₀ (op a t)) :
    KeepsOk s₀ (pagedEach op l s) := by
  induction l generalizing s with
  | nil => exact .ok h
  | cons a l ih =>
    unfold Machine.pagedEach
    split
    · exact .error
    · next t e => exact ih (hop a s h t e)

theorem Keeps.quarantine {f e : ℕ} (h : Keeps s₀ s) : KeepsOk s₀ (s.quarantine f e) := by
  unfold State.quarantine
  dsimp only
  split
  · exact .error
  · next x t e1 =>
      have h1 := h.ftWrite _ e1
      split
      · exact .error
      · next x1 t1 e2 =>
          have h2 := h1.pgWrite _ e2
          exact KeepsOk.ok (.modRec (.withPages h2 h2.pages.recs))

theorem Keeps.unref {f e : ℕ} (h : Keeps s₀ s) : KeepsOk s₀ (State.unref f e s) := by
  unfold State.unref
  split
  · exact .error
  · split
    · exact h.ftWrite
    · split
      · exact .error
      · next x t e1 =>
          have h1 := h.quarantine _ e1
          exact KeepsOk.ok h1.modRec

theorem Keeps.freeFrame {f e : ℕ} (h : Keeps s₀ s) : KeepsOk s₀ (State.freeFrame f e s) := by
  unfold State.freeFrame
  dsimp only
  split
  · exact .error
  · next x t e1 =>
      have h1 := h.ftWrite _ e1
      refine Keeps.pushFrame ?_
      split
      · exact h1
      · exact .withMem h1 ⟨h1.mem.cells, h1.mem.movers, h1.mem.hostq⟩

theorem Keeps.sweepRing {f n : ℕ} (h : Keeps s₀ s) : KeepsOkFst s₀ (State.sweepRing f n s) := by
  induction n generalizing s with
  | zero => exact .ok h
  | succ n ih =>
    unfold State.sweepRing
    split
    · exact .ok h
    · split
      · exact .error
      · exact .error
      · split
        · extract_lets _ t
          have ht : Keeps s₀ t := .withPages h h.pages
          split
          · exact .error
          · next u e =>
            have hu := ht.modRec.freeFrame u e
            split
            · exact .error
            · next v n e => exact .ok (ih hu (v, n) e)
        · exact .ok h

theorem Keeps.sweep {f : ℕ} (h : Keeps s₀ s) : KeepsOkFst s₀ (s.sweep f) := by
  unfold State.sweep
  dsimp only
  split
  · exact .error
  · next x t x1 e =>
      have h1 : Keeps s₀ t := h.sweepRing _ e
      split
      · exact .error
      · split
        · exact .error
        · next x2 t1 e1 =>
            refine .ok (h1.pagedEach (fun a u h => ?_) _ e1)
            split
            · exact .error
            · exact h.ftWrite


theorem Keeps.sweepIdle {f : ℕ} (h : Keeps s₀ s) : KeepsOk s₀ (s.sweepIdle f) := by
  unfold State.sweepIdle
  split
  · split
    · exact .error
    · next x t x1 e =>
        have h1 : Keeps s₀ t := h.modRec.sweep _ e
        exact KeepsOk.ok h1
  · exact KeepsOk.ok h

theorem Keeps.setLeaf {f page : ℕ} {l : Option Leaf} (h : Keeps s₀ s) : KeepsOk s₀ (s.setLeaf f page l) := by
  unfold State.setLeaf
  dsimp only
  split
  · exact .error
  · split
    · exact KeepsOk.ok (h.withPages h.pages.invalidate)
    · exact (h.withPages h.pages.invalidate).pgWrite

theorem Keeps.releasePage {f page : ℕ} (h : Keeps s₀ s) : KeepsOk s₀ (State.releasePage f page s) := by
  unfold State.releasePage
  split
  · exact .error
  · exact KeepsOk.ok h
  · split
    · exact .error
    · next x t e =>
        have h1 := h.setLeaf _ e
        exact h1.unref

theorem Keeps.pageEvent {f kind status seq need : ℕ} {address : Option ℕ} (h : Keeps s₀ s) : Keeps s₀ (s.pageEvent f kind status seq need address) :=
  h.event

theorem PageKeeps.stop {m₀ m : PageState} {f : ℕ} (h : PageKeeps m₀ m) : PageKeeps m₀ (m.stop f) :=
  h

theorem Keeps.stopService {f g : ℕ} (h : Keeps s₀ s) : Keeps s₀ (s.stopService f g) := by
  unfold State.stopService
  dsimp only
  split
  · exact (((h.withMem h.mem.note).withPages h.pages.stop).modRec).event
  · exact ((((h.withMem h.mem.note).withPages h.pages.stop).modRec).event).event

theorem Keeps.paged {f : ℕ} {op : State → Paged State} (h : Keeps s₀ s) (hop : ∀ t, Keeps s₀ t → KeepsOk s₀ (op t)) : Keeps s₀ (s.paged f op) := by
  unfold State.paged
  split
  · next t e => exact hop s h t e
  · exact h.stopService

theorem MemKeeps.setPending {m₀ m : MemState} {es : List ℕ} {v : Bool} (h : MemKeeps m₀ m) : MemKeeps m₀ (m.setPending es v) :=
  h

theorem Keeps.mapRow {q : Req} (h : Keeps s₀ s) : Keeps s₀ (mapRow q s).1 := by
  unfold Machine.mapRow
  extract_lets m group extent
  split
  · exact h
  · split
    · exact h
    · split
      · exact h
      · split
        · exact h
        · exact .withMem h (h.mem.setPending (es := touchedExtents m group extent) (v := true))

theorem MemKeeps.remap {m₀ m : MemState} {c : MapChange} (h : MemKeeps m₀ m) : MemKeeps m₀ (m.remap c) :=
  ⟨fun w => MemState.wf_remap (h.cells w), h.movers, h.hostq⟩

theorem MemKeeps.refunction {m₀ m : MemState} {t : FtBase} (h : MemKeeps m₀ m) : MemKeeps m₀ (m.refunction t) := by
  unfold MemState.refunction
  dsimp only
  split
  · refine h.foldl fun a a1 h1 => ?_
    split
    · exact h1.ftPut
    · exact h1
  · exact h

theorem Keeps.tableBad {g : ℕ} (h : Keeps s₀ s) : Keeps s₀ (s.tableBad g) :=
  h.noteBad.event

theorem Keeps.mapDone (h : Keeps s₀ s) : Keeps s₀ s.mapDone := by
  unfold State.mapDone
  dsimp only
  split
  · exact h
  · split
    · exact h
    · split
      · exact ((h.withMem h.mem.remap.refunction).tableBad).complete
      · exact (h.withMem h.mem.remap.refunction).complete

theorem Keeps.retireFastRow {q : Req} (h : Keeps s₀ s) : Keeps s₀ (retireFastRow q s).1 := by
  unfold Machine.retireFastRow
  extract_lets x g es
  split
  · exact h
  · split
    · exact h
    · split
      · exact h
      · split
        · exact h
        · exact .withMem h (h.mem.setPending (es := es) (v := true))

theorem Keeps.dropFromStack {f : ℕ} {gone : ℕ → Bool} (h : Keeps s₀ s) : Keeps s₀ (s.dropFromStack f gone) := by
  unfold State.dropFromStack
  dsimp only
  split
  · exact h
  · exact (h.withMem h.mem.write).modRec

theorem Keeps.giveUp {c u : ℕ} (h : Keeps s₀ s) : Keeps s₀ (s.giveUp c u) := by
  unfold State.giveUp
  dsimp only
  split
  · exact (h.each fun a t h1 => h1.dropFromStack).each fun a t h1 => h1.withMem h1.mem.ftMod
  · exact h

theorem Keeps.retirePannierRow {q : Req} (h : Keeps s₀ s) : Keeps s₀ (retirePannierRow q s).1 := by
  unfold Machine.retirePannierRow
  dsimp only
  split
  · exact h
  · split
    · exact h
    · dsimp only
      exact .withMem h.giveUp ⟨h.giveUp.mem.cells, h.giveUp.mem.movers, h.giveUp.mem.hostq⟩

theorem Keeps.retireRow {q : Req} (h : Keeps s₀ s) : Keeps s₀ (retireRow q s).1 := by
  unfold Machine.retireRow
  split
  · exact h.retirePannierRow
  · exact h.retireFastRow

theorem MemKeeps.zeroGrains {m₀ m : MemState} {gs : List ℕ} (h : MemKeeps m₀ m) : MemKeeps m₀ (m.zeroGrains gs) :=
  h.foldl fun _ _ h1 => h1.zero

theorem MemKeeps.retired {m₀ m : MemState} {r : RetireJob} (h : MemKeeps m₀ m) : MemKeeps m₀ (m.retired r) := by
  unfold MemState.retired
  split
  · extract_lets es last n
    exact MemKeeps.zero (MemKeeps.setPending h)
  · exact ⟨h.cells.filter, h.movers, h.hostq⟩

theorem Keeps.retireDone (h : Keeps s₀ s) : Keeps s₀ s.retireDone := by
  unfold State.retireDone
  split
  · exact h
  · split
    · exact h
    · extract_lets bad t m u v list w
      have ht : Keeps s₀ t := h.each fun _ _ h => h.noteBad
      have hm : MemKeeps s₀.mem m := ht.mem.zeroGrains.retired
      have hu : Keeps s₀ u := .withMem ht hm
      have hw : Keeps s₀ w := hu.recordItem.spareOut
      split
      · next x e => exact (hw.writeVirt x e).complete
      · exact hw.complete

theorem Keeps.pannierFreeRow {q : Req} (h : Keeps s₀ s) : Keeps s₀ (pannierFreeRow q s).1 := by
  unfold Machine.pannierFreeRow
  dsimp only
  split
  · exact h
  · split
    · exact h
    · dsimp only
      exact h

theorem Keeps.deriveKey {f : ℕ} (h : Keeps s₀ s) : Keeps s₀ (s.deriveKey f) := by
  unfold State.deriveKey
  dsimp only
  split
  · exact h
  · exact .withFreeCtr h

theorem Keeps.sealRow {q : Req} (h : Keeps s₀ s) : Keeps s₀ (sealRow q s).1 := by
  unfold Machine.sealRow
  dsimp only
  split
  · exact h
  · split
    · exact h
    · split
      · exact h
      · split
        · exact h
        · dsimp only
          exact .withMem h.deriveKey ⟨h.deriveKey.mem.cells, h.deriveKey.mem.movers, h.deriveKey.mem.hostq⟩

theorem Keeps.unsealRow {q : Req} (h : Keeps s₀ s) : Keeps s₀ (unsealRow q s).1 := by
  unfold Machine.unsealRow
  dsimp only
  split
  · exact h
  · split
    · exact h
    · dsimp only
      exact h

theorem MemKeeps.unseal {m₀ m : MemState} {i : ℕ} (h : MemKeeps m₀ m) : MemKeeps m₀ (m.unseal i) :=
  MemKeeps.zero h

theorem Keeps.sealRemoved {i : ℕ} (h : Keeps s₀ s) : Keeps s₀ (s.sealRemoved i) := by
  unfold State.sealRemoved
  dsimp only
  split
  · exact h
  · split
    · exact (h.withMem h.mem.unseal).complete
    · exact h.withMem h.mem.unseal

theorem Keeps.xlateRow {q : Req} (h : Keeps s₀ s) : Keeps s₀ (xlateRow q s).1 := by
  unfold Machine.xlateRow
  dsimp only
  exact h.withPages h.pages.invalidate

theorem MemKeeps.scrubBack {m₀ m : MemState} {g : ℕ} {raw : List Byte} (h : MemKeeps m₀ m) : MemKeeps m₀ (m.scrubBack g raw) := by
  unfold MemState.scrubBack
  split
  · exact h
  · exact ⟨h.cells.setBytes, h.movers, h.hostq⟩

theorem Keeps.scrub {a : ℕ} {es : List SymbolError} (h : Keeps s₀ s) : Keeps s₀ (s.scrub a es) := by
  unfold State.scrub
  dsimp only
  split
  · exact h
  · exact h
  · refine Keeps.noteGrain ?_
    refine h.withMem ?_
    split
    · split
      · exact h.mem
      · exact h.mem.scrubBack
    · split
      · exact h.mem
      · exact h.mem.scrubBack

theorem Keeps.setQueue {ch : ChannelIx} {f : ℕ} {q : ChanQueue} (h : Keeps s₀ s) : Keeps s₀ (s.setQueue ch f q) := by
  unfold State.setQueue
  dsimp only
  split
  · exact .withMem h ⟨h.mem.cells, h.mem.movers.tset, h.mem.hostq⟩
  · exact .withMem h ⟨h.mem.cells, h.mem.movers, h.mem.hostq.tset⟩
  · exact .withFabric h ⟨h.fabric.ports, h.fabric.links, h.fabric.slots, h.fabric.queues.tset, h.fabric.sent⟩

theorem Keeps.postRow {ch : ChannelIx} {q : Req} (h : Keeps s₀ s) : Keeps s₀ (postRow ch q s).1 := by
  unfold Machine.postRow
  dsimp only
  split
  · exact h
  · dsimp only
    exact h.setQueue

theorem Keeps.resumeRow {q : Req} (h : Keeps s₀ s) : Keeps s₀ (resumeRow q s).1 := by
  unfold Machine.resumeRow
  dsimp only
  split
  · exact h
  · split
    · exact h
    · dsimp only
      exact h.setQueue

theorem Keeps.moverEntry {ch : ChannelIx} {f : ℕ} {q : QDesc} {written : ℕ} {e : Args} (h : Keeps s₀ s) : Keeps s₀ (s.moverEntry ch f q written e) :=
  h.event

theorem Keeps.descFails {ch : ChannelIx} {f : ℕ} {q : QDesc} {written : ℕ} {e : Args} (h : Keeps s₀ s) : Keeps s₀ (s.descFails ch f q written e) :=
  h.setQueue.noteBad.moverEntry

theorem Keeps.descDone {ch : ChannelIx} {f : ℕ} {q : QDesc} {written : ℕ} (h : Keeps s₀ s) : Keeps s₀ (s.descDone ch f q written) := by
  unfold State.descDone
  dsimp only
  split
  · refine Keeps.moverEntry ?_
    split
    · exact h.setQueue.addHub
    · exact h.setQueue
  · split
    · exact h.setQueue.addHub
    · exact h.setQueue

theorem Keeps.descBegins {ch : ChannelIx} {f : ℕ} {q : QDesc} (h : Keeps s₀ s) : Keeps s₀ (s.descBegins ch f q) :=
  h.withFreeCtr.setQueue

theorem Keeps.descStart {ch : ChannelIx} {f : ℕ} (h : Keeps s₀ s) : Keeps s₀ (s.descStart ch f) := by
  unfold State.descStart
  dsimp only
  split
  · exact h
  · split
    · exact h
    · split
      · exact h.descFails
      · split
        · exact h.descFails
        · split
          · exact h
          · exact h.descBegins

theorem MemKeeps.moverStore {m₀ m : MemState} {f filled : ℕ} {t : Transfer} (h : MemKeeps m₀ m) : MemKeeps m₀ (m.moverStore f filled t) := by
  unfold MemState.moverStore
  dsimp only
  split
  · split
    · exact h.putGrain
    · exact h
  · exact h.putGrain

theorem Keeps.firstCrosses {l : List (Except Args Transfer)} (h : Keeps s₀ s) : Keeps s₀ (s.firstCrosses l).1 := by
  unfold State.firstCrosses
  dsimp only
  split
  · dsimp only
    exact h.crossLinks
  · exact h

theorem Keeps.finish {ch : ChannelIx} {f : ℕ} {q : QDesc} {l : List (Except Args Transfer)} {put : List Transfer → State → State} (h : Keeps s₀ s)
    (hput : ∀ w t, Keeps s₀ t → Keeps s₀ (put w t)) : Keeps s₀ (s.finish ch f q l put) := by
  unfold State.finish
  extract_lets x t l' bad w u
  have hu : Keeps s₀ u := hput _ _ h.firstCrosses.withFreeCtr
  clear_value u w bad
  cases bad with
  | none => exact hu.descDone
  | some e => exact hu.descFails

theorem Keeps.moveDone {f : ℕ} {q : QDesc} (h : Keeps s₀ s) : Keeps s₀ (s.moveDone f q) :=
  h.finish fun _ _ h => h.withMem (h.mem.foldl fun _ _ h => h.moverStore)

theorem Keeps.toHost {f : ℕ} {w : List Transfer} (h : Keeps s₀ s) : Keeps s₀ (State.toHost f w s) := by
  unfold State.toHost
  refine Keeps.setQueue (h.withHost ⟨?_, h.host.fns⟩)
  exact List.foldlRecOn w _ h.host.memory fun _ hb _ _ => hb.setBytes

theorem Keeps.hostCopyDone {f : ℕ} {q : QDesc} (h : Keeps s₀ s) : Keeps s₀ (s.hostCopyDone f q) := by
  unfold State.hostCopyDone
  dsimp only
  split
  · exact h.finish fun _ _ h => h.toHost
  · exact h.finish fun _ _ h => h.foldl fun _ _ h => h.writePhys

theorem Keeps.descEnds {ch : ChannelIx} {f : ℕ} (h : Keeps s₀ s) : Keeps s₀ (s.descEnds ch f) := by
  unfold State.descEnds
  split
  · exact h
  · split
    · exact h
    · split
      · exact h.moveDone
      · split
        · exact h.hostCopyDone
        · exact h
      · exact h

theorem Keeps.collEntry {f : ℕ} {c : CollEnd} (h : Keeps s₀ s) : Keeps s₀ (s.collEntry f c) :=
  h.post

theorem MemKeeps.filled {m₀ m : MemState} {f : ℕ} (h : MemKeeps m₀ m) : MemKeeps m₀ (m.filled f) :=
  h

theorem Keeps.fenceDone {ch : ChannelIx} {f : ℕ} (h : Keeps s₀ s) : Keeps s₀ (s.fenceDone ch f) := by
  unfold State.fenceDone
  dsimp only
  split
  · exact h
  · split
    · exact h
    · split
      · exact (h.withMem h.mem.filled).descDone
      · exact h.descDone
      · split
        · refine Keeps.collEntry ?_
          split
          · exact h.setQueue.addHub
          · exact h.setQueue
        · split
          · exact h.setQueue.addHub
          · exact h.setQueue

theorem Keeps.beforeError {f : ℕ} {q : QDesc} (h : Keeps s₀ s) : Keeps s₀ (s.beforeError f q).1 := by
  unfold State.beforeError
  dsimp only
  split
  · exact h
  · split
    · dsimp only
      exact h.withFreeCtr.toHost
    · dsimp only
      exact h.withFreeCtr.foldl fun t a h1 => h1.writePhys

theorem Keeps.hostError {f k at_ : ℕ} {err : HostError} (h : Keeps s₀ s) : Keeps s₀ (s.hostError f k at_ err) := by
  unfold State.hostError
  dsimp only
  split
  · exact h
  · split
    · exact h
    · exact h.beforeError.descFails

theorem Keeps.modCodec {e : ℕ} {f : CodecEngine → CodecEngine} (h : Keeps s₀ s) : Keeps s₀ (s.modCodec e f) :=
  h.withCodecs h.codecs.tset

theorem Keeps.modCtx {e c : ℕ} {f : CodecCtx → CodecCtx} (h : Keeps s₀ s) : Keeps s₀ (s.modCtx e c f) :=
  h.modCodec

theorem Keeps.codecQuotaRow {q : Req} (h : Keeps s₀ s) : Keeps s₀ (codecQuotaRow q s).1 := by
  unfold Machine.codecQuotaRow
  dsimp only
  split
  · exact h
  · split
    · exact h
    · dsimp only
      exact h.modCodec

theorem Keeps.codecOpenRow {q : Req} (h : Keeps s₀ s) : Keeps s₀ (codecOpenRow q s).1 := by
  unfold Machine.codecOpenRow
  dsimp only
  split
  · exact h
  · split
    · exact h
    · split
      · exact h
      · dsimp only
        exact h.withFreeCtr.modCtx

theorem Keeps.codecEntry {e c : ℕ} {x : CodecEnd} (h : Keeps s₀ s) : Keeps s₀ (s.codecEntry e c x) := by
  unfold State.codecEntry
  dsimp only
  split
  · exact h
  · exact h.post

theorem Keeps.counted {e c : ℕ} {r : CodecEnd} (h : Keeps s₀ s) : Keeps s₀ (s.counted e c r) :=
  h.modCtx

theorem Keeps.frameFails {e c : ℕ} {r : CodecEnd} (h : Keeps s₀ s) : Keeps s₀ (s.frameFails e c r) :=
  h.counted.codecEntry

theorem Keeps.endQueued {e c : ℕ} {l : List (List Byte)} (h : Keeps s₀ s) : Keeps s₀ (State.endQueued e c l s) := by
  induction l generalizing s with
  | nil => exact h
  | cons b l ih => exact ih h.frameFails

theorem Keeps.codecCloseRow {q : Req} (h : Keeps s₀ s) : Keeps s₀ (codecCloseRow q s).1 := by
  unfold Machine.codecCloseRow
  dsimp only
  split
  · exact h
  · split
    · exact h
    · dsimp only
      exact h.modCtx.endQueued

theorem Keeps.codecFreed {e c : ℕ} (h : Keeps s₀ s) : Keeps s₀ (s.codecFreed e c) := by
  unfold State.codecFreed
  dsimp only
  split
  · exact h
  · split
    · exact h.modCtx.modCodec.complete
    · exact h.modCtx.modCodec

theorem Keeps.codecPostRow {q : Req} (h : Keeps s₀ s) : Keeps s₀ (codecPostRow q s).1 := by
  unfold Machine.codecPostRow
  dsimp only
  split
  · exact h
  · split
    · exact h
    · dsimp only
      exact h.modCtx

theorem Keeps.surfaceRow {q : Req} (h : Keeps s₀ s) : Keeps s₀ (surfaceRow q s).1 := by
  unfold Machine.surfaceRow
  dsimp only
  split
  · exact h
  · split
    · exact h
    · split
      · exact h
      · dsimp only
        exact h.modCtx

theorem Keeps.engineWrite {f : ℕ} {l : List (ℕ × List Byte)} (h : Keeps s₀ s) : Keeps s₀ (s.engineWrite f l).1 := by
  unfold State.engineWrite
  dsimp only
  exact h.withFreeCtr.foldl fun t a h1 => h1.writePhys

theorem Keeps.frameAdd {d : FrameDesc} {apply : Bool} (h : Keeps s₀ s) : Keeps s₀ (s.frameAdd d apply) := by
  unfold State.frameAdd
  split
  · exact h.addHub
  · exact h

theorem Keeps.frameHalts {e c : ℕ} {d : FrameDesc} {r : CodecEnd} (h : Keeps s₀ s) : Keeps s₀ (s.frameHalts e c d r) :=
  h.withFreeCtr.modCtx.frameAdd.frameFails

theorem Keeps.frameBadAccess {e c : ℕ} {d : FrameDesc} {b : ℕ × Args} (h : Keeps s₀ s) : Keeps s₀ (s.frameBadAccess e c d b) :=
  h.noteBad.frameHalts

theorem Keeps.saveEngine {e c : ℕ} (h : Keeps s₀ s) : Keeps s₀ (s.saveEngine e c) := by
  unfold State.saveEngine
  split
  · exact h
  · split
    · exact h
    · exact h.engineWrite

theorem Keeps.turnTo {e c : ℕ} {b : List Byte} (h : Keeps s₀ s) : Keeps s₀ (s.turnTo e c b) := by
  unfold State.turnTo
  dsimp only
  split
  · exact h.saveEngine.modCodec.frameBadAccess
  · exact h.saveEngine.modCodec.modCtx

theorem Keeps.frameStart {e : ℕ} (h : Keeps s₀ s) : Keeps s₀ (s.frameStart e) := by
  unfold State.frameStart
  dsimp only
  split
  · exact h
  · split
    · exact h
    · split
      · exact h.modCtx.modCodec.frameFails
      · exact h.modCtx.modCodec.turnTo

theorem Keeps.frameEnds {e c : ℕ} {d : FrameDesc} {r : CodecEnd} (h : Keeps s₀ s) : Keeps s₀ (s.frameEnds e c d r) := by
  unfold State.frameEnds
  dsimp only
  split
  · exact h.counted.codecEntry
  · exact h.counted

theorem Keeps.report {e c n : ℕ} (h : Keeps s₀ s) : Keeps s₀ (s.report e c n) := by
  unfold State.report
  dsimp only
  split
  · exact h.modCtx.codecEntry
  · exact h

theorem Keeps.outputs {e c : ℕ} {now : List ℕ} {last : Bool} (h : Keeps s₀ s) : Keeps s₀ (s.outputs e c now last) := by
  unfold State.outputs
  dsimp only
  split
  · exact (h.foldl fun t a h1 => h1.report).foldl fun t a h1 => h1.report
  · exact h.foldl fun t a h1 => h1.report

theorem Keeps.settleHolds {e c : ℕ} {d : FrameDesc} (h : Keeps s₀ s) : Keeps s₀ (s.settleHolds e c d) :=
  h.modCtx.frameAdd

theorem Keeps.flushDone {e c : ℕ} {d : FrameDesc} (h : Keeps s₀ s) : Keeps s₀ (s.flushDone e c d) :=
  h.outputs.settleHolds.frameEnds

theorem Keeps.unitDone {e c : ℕ} {d : FrameDesc} {u : DecodedUnit} (h : Keeps s₀ s) : Keeps s₀ (s.unitDone e c d u) := by
  unfold State.unitDone
  dsimp only
  split
  · exact h.withFreeCtr.engineWrite.frameBadAccess
  · exact h.withFreeCtr.engineWrite.modCtx.modCodec.outputs.settleHolds.frameEnds

theorem Keeps.decodeDone {e c : ℕ} {d : FrameDesc} (h : Keeps s₀ s) : Keeps s₀ (s.decodeDone e c d) := by
  unfold State.decodeDone
  split
  · exact h.flushDone
  · split
    · exact h.frameBadAccess
    · split
      · exact h.frameHalts
      · split
        · exact h.frameBadAccess
        · exact h.unitDone

theorem Keeps.emit {e c : ℕ} {d : FrameDesc} {y : CodecCtx} {key : Bool} {group : List (EncodePlan × Picture)} {refs : List RefPic} (h : Keeps s₀ s) : Keeps s₀ (s.emit e c d y key group refs) := by
  unfold State.emit
  dsimp only
  split
  · exact h.withFreeCtr.frameAdd.frameEnds
  · split
    · exact h.engineWrite.frameBadAccess
    · exact h.engineWrite.modCtx.modCodec.frameAdd.frameEnds

theorem Keeps.encodeDone {e c : ℕ} {d : FrameDesc} (h : Keeps s₀ s) : Keeps s₀ (s.encodeDone e c d) := by
  unfold State.encodeDone
  dsimp only
  split
  · exact h.frameBadAccess
  · split
    · exact h.withFreeCtr.modCtx.frameAdd.frameEnds
    · split
      · exact h.frameBadAccess
      · exact h.emit

theorem Keeps.frameDone {e : ℕ} (h : Keeps s₀ s) : Keeps s₀ (s.frameDone e) := by
  unfold State.frameDone
  dsimp only
  split
  · exact h
  · split
    · exact h.modCodec.encodeDone
    · exact h.modCodec.decodeDone

theorem FabricKeeps.modLink {m₀ m : FabricState} {p : ℕ} {f : PortLink → PortLink} (h : FabricKeeps m₀ m) : FabricKeeps m₀ (m.modLink p f) :=
  ⟨h.ports, h.links.tset, h.slots, h.queues, h.sent⟩

theorem Keeps.modPort {p : ℕ} {f : Port → Port} (h : Keeps s₀ s) : Keeps s₀ (s.modPort p f) :=
  h.withFabric h.fabric.modPort

theorem Keeps.modLink {p : ℕ} {f : PortLink → PortLink} (h : Keeps s₀ s) : Keeps s₀ (s.modLink p f) :=
  h.withFabric h.fabric.modLink

theorem Keeps.heard {p k : ℕ} {h1 : FrameHdr} {hold : Bool} (h : Keeps s₀ s) : Keeps s₀ (s.heard p k h1 hold) := by
  unfold State.heard
  dsimp only
  split
  · exact h.modLink.modPort
  · exact h.modLink

theorem Keeps.takeSeq {p k : ℕ} {f : SeqFrame} (h : Keeps s₀ s) : Keeps s₀ (s.takeSeq p k f) := by
  unfold State.takeSeq
  split
  · exact h.heard.modLink
  · exact h

theorem Keeps.failSpoke {p k : ℕ} {tell : Bool} (h : Keeps s₀ s) : Keeps s₀ (s.failSpoke p k tell) := by
  unfold State.failSpoke
  dsimp only
  split
  · exact h
  · split
    · exact h.modPort.modLink.spareOut
    · split
      · exact h.modPort.modLink.spareOut
      · exact h.modPort.modLink.spareOut

theorem Keeps.swapFrame {p k failed : ℕ} {h1 : FrameHdr} (h : Keeps s₀ s) : Keeps s₀ (s.swapFrame p k failed h1) := by
  unfold State.swapFrame
  split
  · exact h.heard.failSpoke
  · exact h

theorem Keeps.retryFrame {p k : ℕ} {h1 : FrameHdr} {expected : BitVec 16} (h : Keeps s₀ s) : Keeps s₀ (s.retryFrame p k h1 expected) := by
  unfold State.retryFrame
  dsimp only
  split
  · exact h
  · split
    · exact h.heard
    · split
      · split
        · exact h.heard.modLink.modLink.failSpoke
        · exact h.heard.modLink
      · exact h.heard.modLink

theorem Keeps.discardFrame {p k codewords : ℕ} {frame : List Byte} (h : Keeps s₀ s) : Keeps s₀ (s.discardFrame p k codewords frame) := by
  unfold State.discardFrame
  dsimp only
  split
  · exact h
  · split
    · exact h
    · split
      · split
        · exact h.modPort.modLink
        · exact h.modPort
      · split
        · exact h.modPort.modLink
        · exact h.modPort

theorem Keeps.gapTimeout {p : ℕ} (h : Keeps s₀ s) : Keeps s₀ (s.gapTimeout p) := by
  unfold State.gapTimeout
  dsimp only
  split
  · exact h
  · exact h.upTo.modLink

theorem Keeps.silentSpoke {p k : ℕ} (h : Keeps s₀ s) : Keeps s₀ (s.silentSpoke p k) := by
  unfold State.silentSpoke
  split
  · exact h.upTo.failSpoke
  · exact h

theorem Keeps.errorWindow {p k symbols errors : ℕ} (h : Keeps s₀ s) : Keeps s₀ (s.errorWindow p k symbols errors) := by
  unfold State.errorWindow
  dsimp only
  split
  · exact h
  · split
    · exact h.modPort.failSpoke
    · exact h.modPort

theorem Keeps.tuned {p : ℕ} {mask : BitVec 5} (h : Keeps s₀ s) : Keeps s₀ (s.tuned p mask) :=
  h.modPort.modLink

theorem Keeps.negotiate {p : ℕ} (h : Keeps s₀ s) : Keeps s₀ (s.negotiate p) := by
  unfold State.negotiate
  dsimp only
  split
  · exact h
  · split
    · exact h.modPort
    · exact h

theorem Keeps.portUp {p : ℕ} (h : Keeps s₀ s) : Keeps s₀ (s.portUp p) := by
  unfold State.portUp
  dsimp only
  split
  · exact h
  · split
    · exact h.modPort.modLink.spareOut
    · exact h.modPort.modLink

theorem Keeps.bringUp {p : ℕ} {b : BringUp} {mask : BitVec 5} (h : Keeps s₀ s) : Keeps s₀ (s.bringUp p b mask) := by
  unfold State.bringUp
  split
  · exact h.modPort
  · split
    · exact h.modPort
    · exact h
  · split
    · exact h.modPort
    · exact h
  · split
    · exact h.tuned
    · exact h
  · exact h.negotiate
  · exact h.portUp
  · exact h

theorem Keeps.narrow {p : ℕ} {mask : BitVec 5} (h : Keeps s₀ s) : Keeps s₀ (s.narrow p mask) := by
  unfold State.narrow
  dsimp only
  split
  · exact h
  · exact h.modPort.modLink

theorem Keeps.negFrame {p k : ℕ} {h1 : FrameHdr} {n : NegInfo} (h : Keeps s₀ s) : Keeps s₀ (s.negFrame p k h1 n) := by
  unfold State.negFrame
  dsimp only
  split
  · exact h
  · refine Keeps.narrow ?_
    refine Keeps.modLink ?_
    split
    · split
      · exact h.heard
      · exact h.heard.modPort
    · split
      · exact h.modLink
      · exact h.modLink.modPort

theorem Keeps.frameSlot {p k : ℕ} (h : Keeps s₀ s) : Keeps s₀ (s.frameSlot p k) := by
  unfold State.frameSlot
  split
  · exact h
  · extract_lets last t r _ u
    have ht : Keeps s₀ t := by
      unfold t
      split
      · exact h
      · exact h.upTo
    have hu : Keeps s₀ u := ht.modPort.modLink
    exact hu.withFabric ⟨hu.fabric.ports, hu.fabric.links, hu.fabric.slots, hu.fabric.queues, hu.fabric.sent.tset⟩

theorem Keeps.deviceIdRow {q : Req} (h : Keeps s₀ s) : Keeps s₀ (deviceIdRow q s).1 := by
  unfold Machine.deviceIdRow
  dsimp only
  split
  · exact h
  · dsimp only
    exact .withFabric h (.each h.fabric fun a a1 h1 => h1.modLink)

theorem Keeps.modSlot {i : ℕ} {f : Slot → Slot} (h : Keeps s₀ s) : Keeps s₀ (s.modSlot i f) :=
  .withFabric h ⟨h.fabric.ports, h.fabric.links, h.fabric.slots.tset, h.fabric.queues, h.fabric.sent⟩

theorem Keeps.send {p : ℕ} {f : SeqFrame} (h : Keeps s₀ s) : Keeps s₀ (s.send p f) :=
  h.modLink

theorem Keeps.sendAborts {x : Slot} {opSeq digest : W32} {a : AbortInfo} {skip : Option ℕ} (h : Keeps s₀ s) : Keeps s₀ (s.sendAborts x opSeq digest a skip) :=
  h.each fun _ _ h1 => h1.send

theorem Keeps.modOp {slot : ℕ} {f : CollOp → CollOp} (h : Keeps s₀ s) : Keeps s₀ (s.modOp slot f) :=
  h

theorem Keeps.dropOp {slot : ℕ} (h : Keeps s₀ s) : Keeps s₀ (s.dropOp slot) :=
  h

theorem Keeps.leaveFrame {o : CollOp} {ctr f : ℕ} (h : Keeps s₀ s) : Keeps s₀ (State.leaveFrame o ctr f s) := by
  unfold State.leaveFrame
  refine h.each fun a t h1 => ?_
  dsimp only
  split
  · split
    · exact h1
    · exact h1.writePiecesAt
  · split
    · exact h1
    · split
      · next x t1 e =>
          have h2 := h1.writeVirt _ e
          exact h2
      · exact h1

theorem Keeps.collLeaves {f : ℕ} {q : QDesc} {halt : Bool} (h : Keeps s₀ s) : Keeps s₀ (s.collLeaves f q halt) :=
  h.setQueue

theorem Keeps.collFailed {f : ℕ} {q : QDesc} {slot : ℕ} {opSeq : W32} {st reason : ℕ} {a : AbortInfo} {err : Args} {retries : ℕ} (h : Keeps s₀ s) : Keeps s₀ (s.collFailed f q slot opSeq st reason a err retries) :=
  h.withFreeCtr.collEntry

theorem Keeps.endOp {o : CollOp} {st reason : ℕ} {a : AbortInfo} {err : Args} {abort : Bool} {skip : Option ℕ} {silent : Bool} (h : Keeps s₀ s) : Keeps s₀ (s.endOp o st reason a err abort skip silent) := by
  unfold State.endOp
  dsimp only
  split
  · split
    · exact ((((((h.dropOp.each fun a1 t h1 => h1.leaveFrame).withFreeCtr).collLeaves).noteBad).modSlot).each fun a1 t h1 => h1.modLink).sendAborts
    · exact (((((h.dropOp.each fun a1 t h1 => h1.leaveFrame).withFreeCtr).collLeaves).noteBad).modSlot).each fun a1 t h1 => h1.modLink
  · refine Keeps.collFailed ?_
    split
    · exact ((((((h.dropOp.each fun a1 t h1 => h1.leaveFrame).withFreeCtr).collLeaves).noteBad).modSlot).each fun a1 t h1 => h1.modLink).sendAborts
    · exact (((((h.dropOp.each fun a1 t h1 => h1.leaveFrame).withFreeCtr).collLeaves).noteBad).modSlot).each fun a1 t h1 => h1.modLink

theorem Keeps.opError {o : CollOp} {e : Args} (h : Keeps s₀ s) : Keeps s₀ (s.opError o e) :=
  h.endOp

theorem Keeps.sendData {o : CollOp} {phase : ℕ} {ringY back : Bool} {offset : ℕ} {half : Bool} {bs : List Byte} (h : Keeps s₀ s) : Keeps s₀ (s.sendData o phase ringY back offset half bs) :=
  h.send

theorem Keeps.gather {slot : ℕ} {ringY : Bool} {f : ℕ} (h : Keeps s₀ s) : Keeps s₀ (s.gather slot ringY f) := by
  unfold State.gather
  dsimp only
  split
  · exact h
  · split
    · split
      · exact h.sendData
      · exact h
    · split
      · exact h.sendData
      · exact h

theorem Keeps.final {slot f : ℕ} {codes : List W32} {ownY : Bool} (h : Keeps s₀ s) : Keeps s₀ (s.final slot f codes ownY) := by
  unfold State.final
  dsimp only
  split
  · exact h
  · split
    · exact h
    · split
      · refine Keeps.gather ?_
        split
        · exact h.modOp.gather
        · exact h.modOp
      · split
        · exact h.modOp.gather
        · exact h.modOp

theorem Keeps.rowDone {slot f : ℕ} {acc : List W32} (h : Keeps s₀ s) : Keeps s₀ (s.rowDone slot f acc) := by
  unfold State.rowDone
  dsimp only
  split
  · exact h
  · split
    · exact h.final
    · split
      · exact h.sendData
      · exact h.modOp

theorem Keeps.openOp {o : CollOp} (h : Keeps s₀ s) : Keeps s₀ (s.openOp o) := by
  unfold State.openOp
  dsimp only
  split
  · refine h.each fun a t h1 => ?_
    split
    · exact h1.sendData
    · exact h1
  · split
    · exact h.each fun a t h1 => h1.sendData
    · split
      · exact h.send
      · exact h

theorem Keeps.reduce {o : CollOp} {ringY : Bool} {f : ℕ} {bs : List Byte} (h : Keeps s₀ s) : Keeps s₀ (s.reduce o ringY f bs) := by
  unfold State.reduce
  dsimp only
  split
  · split
    · exact h.modOp.sendData
    · exact h.modOp.final
  · split
    · exact h.modOp.sendData
    · exact h.modOp.rowDone

theorem Keeps.gathered {o : CollOp} {ringY : Bool} {f : ℕ} {bs : List Byte} (h : Keeps s₀ s) : Keeps s₀ (s.gathered o ringY f bs) := by
  unfold State.gathered
  refine Keeps.each ?_ fun a t h1 => h1.final
  split
  · split
    · exact h
    · exact h.sendData
  · split
    · exact h
    · exact h.sendData

theorem Keeps.align {slot p : ℕ} {ringY : Bool} {time : W64} {arrived : ℕ} (h : Keeps s₀ s) : Keeps s₀ (s.align slot p ringY time arrived) := by
  unfold State.align
  dsimp only
  split
  · split
    · exact h
    · exact h
  · split
    · exact h
    · exact h

theorem Keeps.token {o : CollOp} {p : ℕ} {ringY : Bool} {time : W64} {arrived : ℕ} (h : Keeps s₀ s) : Keeps s₀ (s.token o p ringY time arrived) := by
  unfold State.token
  dsimp only
  split
  · split
    · refine Keeps.send ?_
      split
      · refine Keeps.modOp ?_
        split
        · exact h.align
        · exact h
      · refine Keeps.send ?_
        refine Keeps.modOp ?_
        split
        · exact h.align
        · exact h
    · split
      · refine Keeps.modOp ?_
        split
        · exact h.align
        · exact h
      · refine Keeps.send ?_
        refine Keeps.modOp ?_
        split
        · exact h.align
        · exact h
  · split
    · refine Keeps.send ?_
      split
      · refine Keeps.modOp ?_
        split
        · exact h.align
        · exact h
      · refine Keeps.send ?_
        refine Keeps.modOp ?_
        split
        · exact h.align
        · exact h
    · split
      · refine Keeps.modOp ?_
        split
        · exact h.align
        · exact h
      · refine Keeps.send ?_
        refine Keeps.modOp ?_
        split
        · exact h.align
        · exact h

theorem Keeps.joinEnds {slot st : ℕ} {id : BitVec 20} (h : Keeps s₀ s) : Keeps s₀ (s.joinEnds slot st id) := by
  unfold State.joinEnds
  dsimp only
  split
  · exact h
  · exact .complete h

theorem Keeps.sendJoin {slot d : ℕ} (h : Keeps s₀ s) : Keeps s₀ (s.sendJoin slot d) :=
  h.send

theorem Keeps.maybeJoined {slot : ℕ} (h : Keeps s₀ s) : Keeps s₀ (s.maybeJoined slot) := by
  unfold State.maybeJoined
  dsimp only
  split
  · exact h
  · split
    · exact h.modSlot.joinEnds
    · exact h

theorem Keeps.modJoining {slot : ℕ} {f : Joining → Joining} (h : Keeps s₀ s) : Keeps s₀ (s.modJoining slot f) :=
  h

theorem Keeps.takeJoin {p slot : ℕ} {j : JoinInfo} (h : Keeps s₀ s) : Keeps s₀ (s.takeJoin p slot j) := by
  unfold State.takeJoin
  dsimp only
  split
  · exact h.send.modJoining.maybeJoined
  · exact h.send.joinEnds

theorem Keeps.takeFrame {p : ℕ} {f : SeqFrame} {o : CollOp} (h : Keeps s₀ s) : Keeps s₀ (s.takeFrame p f o) := by
  unfold State.takeFrame
  dsimp only
  split
  · exact h.endOp
  · split
    · exact h.endOp
    · exact h
    · exact h.token
    · split
      · exact h.modOp
      · split
        · exact h.gathered
        · split
          · exact h.endOp
          · exact h.modOp.reduce
          · exact h.reduce

theorem Keeps.consume {p : ℕ} {f : SeqFrame} (h : Keeps s₀ s) : Keeps s₀ (s.consume p f) := by
  unfold State.consume
  dsimp only
  split
  · split
    · exact h.modLink.takeJoin
    · exact h.modLink
  · split
    · exact h.modLink.modJoining.maybeJoined
    · exact h.modLink
  · split
    · exact h.modLink.joinEnds
    · split
      · exact h.modLink.takeFrame
      · exact h.modLink
  · split
    · exact h.modLink.takeFrame
    · exact h.modLink

theorem Keeps.drain {n : ℕ} (h : Keeps s₀ s) : Keeps s₀ (State.drain n s) := by
  induction n generalizing s with
  | zero => exact h
  | succ n ih =>
    unfold State.drain
    split
    · exact h
    · exact ih h.consume

theorem Keeps.drainAll (h : Keeps s₀ s) : Keeps s₀ s.drainAll :=
  h.drain

theorem Keeps.seqArrives {p k : ℕ} {f : SeqFrame} (h : Keeps s₀ s) : Keeps s₀ (s.seqArrives p k f) :=
  h.takeSeq.drainAll

theorem Keeps.portEnds {p reason : ℕ} (h : Keeps s₀ s) : Keeps s₀ (s.portEnds p reason) :=
  (h.each fun _ _ h1 => h1.endOp).drainAll

theorem Keeps.holdFrame {p k : ℕ} {h1 : FrameHdr} (h : Keeps s₀ s) : Keeps s₀ (s.holdFrame p k h1) := by
  unfold State.holdFrame
  dsimp only
  split
  · exact h
  · split
    · exact h.heard
    · exact h.heard.modPort.portEnds

theorem Keeps.portLost {p : ℕ} {st : PortSt} (h : Keeps s₀ s) : Keeps s₀ (s.portLost p st) := by
  unfold State.portLost
  dsimp only
  split
  · exact h.modPort.modLink.portEnds
  · exact h.modPort.modLink

theorem Keeps.portDown {p : ℕ} (h : Keeps s₀ s) : Keeps s₀ (s.portDown p) := by
  unfold State.portDown
  dsimp only
  split
  · exact h.upTo.portLost
  · exact h

theorem Keeps.portControlRow {q : Req} (h : Keeps s₀ s) : Keeps s₀ (portControlRow q s).1 := by
  unfold Machine.portControlRow
  dsimp only
  split
  · split
    · dsimp only
      exact h.modPort
    · exact h
  · dsimp only
    exact h.portLost

theorem Keeps.startJoin {slot : ℕ} {x : Slot} {cmd : CmdRef} (h : Keeps s₀ s) : Keeps s₀ (s.startJoin slot x cmd) := by
  unfold State.startJoin
  extract_lets t _ u
  have ht : Keeps s₀ t := h.modSlot
  have hu : Keeps s₀ u := .withFabric ht ht.fabric
  exact hu.each fun _ _ h => h.sendJoin

theorem Keeps.formRow {q : Req} (h : Keeps s₀ s) : Keeps s₀ (formRow q s).1 := by
  unfold Machine.formRow
  dsimp only
  split
  · exact h
  · split
    · exact h
    · dsimp only
      exact h.startJoin

theorem Keeps.groupChanged {slot : ℕ} (h : Keeps s₀ s) : Keeps s₀ (s.groupChanged slot) := by
  unfold State.groupChanged
  split
  · exact h
  · exact h.endOp

theorem Keeps.reformRow {q : Req} (h : Keeps s₀ s) : Keeps s₀ (reformRow q s).1 := by
  unfold Machine.reformRow
  dsimp only
  split
  · exact h
  · split
    · exact h
    · split
      · exact h
      · split
        · exact h
        · dsimp only
          exact h.groupChanged.startJoin

theorem Keeps.collRefused {f : ℕ} {q : QDesc} {st reason : ℕ} {a : AbortInfo} (h : Keeps s₀ s) : Keeps s₀ (s.collRefused f q st reason a) := by
  unfold State.collRefused
  refine Keeps.collFailed ?_
  split
  · exact h.collLeaves.modSlot
  · exact h.collLeaves

theorem FabricKeeps.freeSlot {m₀ m : FabricState} {i : ℕ} (h : FabricKeeps m₀ m) : FabricKeeps m₀ (m.freeSlot i) :=
  ⟨h.ports, h.links, h.slots.tset, h.queues, h.sent⟩

theorem Keeps.dissolve {i : ℕ} (h : Keeps s₀ s) : Keeps s₀ (s.dissolve i) :=
  (h.groupChanged.each fun _ _ h1 => h1.collRefused).withFabric (((h.groupChanged.each fun _ _ h1 => h1.collRefused).fabric).freeSlot)

theorem Keeps.dissolveRow {q : Req} (h : Keeps s₀ s) : Keeps s₀ (dissolveRow q s).1 := by
  unfold Machine.dissolveRow
  dsimp only
  split
  · exact h
  · dsimp only
    exact h.dissolve

theorem Keeps.collPostRow {q : Req} (h : Keeps s₀ s) : Keeps s₀ (collPostRow q s).1 := by
  unfold Machine.collPostRow
  dsimp only
  split
  · exact h
  · dsimp only
    exact h.setQueue

theorem Keeps.beginOp {f : ℕ} {q : QDesc} (h : Keeps s₀ s) : Keeps s₀ (s.beginOp f q) := by
  unfold State.beginOp
  extract_lets d x t q' o
  have ht : Keeps s₀ t := h.setQueue.modSlot
  split
  · exact Keeps.drainAll (.opError (.withFabric ht ht.fabric))
  · exact Keeps.drainAll (.openOp (.withFabric ht ht.fabric))

theorem Keeps.collStarts {f : ℕ} {q : QDesc} (h : Keeps s₀ s) : Keeps s₀ (s.collStarts f q) := by
  unfold State.collStarts
  dsimp only
  split
  · exact h.setQueue
  · split
    · exact h.collRefused
    · split
      · exact h.setQueue
      · split
        · exact h.collRefused
        · exact h.beginOp

theorem Keeps.collStart {f : ℕ} (h : Keeps s₀ s) : Keeps s₀ (s.collStart f) := by
  unfold State.collStart
  split
  · exact h
  · split
    · exact h.collStarts
    · exact h
    · split
      · exact h.collRefused
      · exact h.collStarts

theorem Keeps.collComplete {slot : ℕ} (h : Keeps s₀ s) : Keeps s₀ (s.collComplete slot) := by
  unfold State.collComplete
  split
  · exact h
  · split
    · exact h
    · extract_lets d
      split
      · exact h.opError.drainAll
      · next t e =>
        have ht : Keeps s₀ t := by
          revert e
          split
          · intro e
            cases e
            exact h
          · intro e
            exact h.writeVirt t e
        extract_lets u v
        have hv : Keeps s₀ v := by
          unfold v
          split
          · exact ht.dropOp.collLeaves.addHub
          · exact ht.dropOp.collLeaves
        refine Keeps.drainAll ?_
        split
        · exact hv.collEntry
        · exact hv

theorem Keeps.collTimeout {slot : ℕ} (h : Keeps s₀ s) : Keeps s₀ (s.collTimeout slot) := by
  unfold State.collTimeout
  dsimp only
  split
  · split
    · exact h
    · exact h.upTo.endOp.drainAll
  · split
    · exact h
    · split
      · exact h
      · exact h.upTo.collRefused.sendAborts

theorem Keeps.joinRepeat {slot : ℕ} (h : Keeps s₀ s) : Keeps s₀ (s.joinRepeat slot) := by
  unfold State.joinRepeat
  dsimp only
  split
  · exact h
  · exact h.upTo.modJoining.each fun a t h1 => h1.sendJoin

theorem Keeps.joinLimit {slot : ℕ} (h : Keeps s₀ s) : Keeps s₀ (s.joinLimit slot) := by
  unfold State.joinLimit
  dsimp only
  split
  · exact h
  · exact h.upTo.joinEnds

theorem Keeps.flrFabric {f : ℕ} (h : Keeps s₀ s) : Keeps s₀ (s.flrFabric f) :=
  .drainAll (.withFabric (h.each fun _ _ h1 => h1.endOp) (.each ⟨((h.each fun _ _ h1 => h1.endOp).fabric).ports, ((h.each fun _ _ h1 => h1.endOp).fabric).links, ((h.each fun _ _ h1 => h1.endOp).fabric).slots, (((h.each fun _ _ h1 => h1.endOp).fabric).queues).tset, ((h.each fun _ _ h1 => h1.endOp).fabric).sent⟩ fun _ _ h1 => h1.freeSlot))

theorem FabricKeeps.coreReset {m₀ m : FabricState} (h : FabricKeeps m₀ m) : FabricKeeps m₀ m.coreReset := by
  unfold FabricState.coreReset
  extract_lets x y
  have hx : FabricKeeps m₀ x := h.each fun p x hx => by
    split
    · exact hx.modLink
    · exact hx
  have hy : FabricKeeps m₀ y := hx.each fun _ _ h => h.freeSlot
  clear_value y
  exact ⟨hy.ports, hy.links, .nil, .nil, hy.sent⟩

theorem CoresKeeps.scrub {m₀ m : CoresState} {old keep : CtxRec} (h : CoresKeeps m₀ m) : CoresKeeps m₀ (m.scrub old keep) :=
  ⟨h.cores, h.spad.filter, h.acc.filter⟩

theorem ShareKeeps.scrub {m₀ m : ShareState} {old keep : CtxRec} (h : ShareKeeps m₀ m) : ShareKeeps m₀ (m.scrub old keep) :=
  ⟨h.clusterCtr.filter, h.hubCtr.filter⟩

theorem CoresKeeps.emptySlots {m₀ m : CoresState} {r : CtxRec} (h : CoresKeeps m₀ m) : CoresKeeps m₀ (m.emptySlots r) :=
  h.each fun _ _ h1 => h1.setCore

theorem Keeps.scrubAllot {old keep : CtxRec} (h : Keeps s₀ s) : Keeps s₀ (s.scrubAllot old keep) :=
  (h.withShare h.share.scrub).withCores h.cores.scrub

theorem Keeps.contextSetRow {q : Req} (h : Keeps s₀ s) : Keeps s₀ (contextSetRow q s).1 := by
  unfold Machine.contextSetRow
  dsimp only
  split
  · exact h
  · split
    · exact h
    · split
      · exact h
      · dsimp only
        exact h.scrubAllot.setCtx

theorem Keeps.ctxJob {q : Req} {put : SeqState → Tab (Option CtxJob) → SeqState} {get : SeqState → Tab (Option CtxJob)} {g : CtxRec → CtxRec}
    (h : Keeps s₀ s) (hput : ∀ n x, SeqKeeps s₀.seqs n → SeqKeeps s₀.seqs (put n (tset none (get n) (q.u32 0) x))) : Keeps s₀ (s.ctxJob q put get g).1 :=
  h.setCtx.withSeqs (hput _ _ h.setCtx.seqs)

theorem CoresKeeps.mapCores {m₀ m : CoresState} {g : ℕ → CoreState → CoreState} (h : CoresKeeps m₀ m) : CoresKeeps m₀ (m.mapCores g) :=
  h.each fun _ _ h1 => h1.setCore

theorem Keeps.dropSaved {f : ℕ} (h : Keeps s₀ s) : Keeps s₀ (s.dropSaved f) :=
  (h.withCores h.cores.mapCores).withSeqs (h.seqs.each fun _ _ h => h.chainDone)

theorem Keeps.contextDestroyRow {q : Req} (h : Keeps s₀ s) : Keeps s₀ (contextDestroyRow q s).1 := by
  unfold Machine.contextDestroyRow
  extract_lets f r
  split
  · exact h
  · split
    · exact h
    · refine Keeps.ctxJob ?_ fun n x hn => ⟨hn.seqs, hn.lists, hn.lookahead, hn.ctx, hn.destroying.tset, hn.preempting, hn.restoring⟩
      split
      · exact h.dropSaved
      · exact h

theorem Keeps.release {f : ℕ} (h : Keeps s₀ s) : Keeps s₀ (s.release f) :=
  (h.scrubAllot.withCores h.scrubAllot.cores.emptySlots).setCtx

theorem Keeps.destroyDone {f : ℕ} (h : Keeps s₀ s) : Keeps s₀ (s.destroyDone f) := by
  unfold State.destroyDone
  dsimp only
  split
  · exact h
  · exact .complete (.withSeqs h.release ⟨h.release.seqs.seqs, h.release.seqs.lists, h.release.seqs.lookahead, h.release.seqs.ctx, h.release.seqs.destroying.tset, h.release.seqs.preempting, h.release.seqs.restoring⟩)

theorem Keeps.destroyIdle (h : Keeps s₀ s) : Keeps s₀ s.destroyIdle :=
  h.each fun _ _ h1 => h1.destroyDone

theorem Keeps.shareSetRow {q : Req} (h : Keeps s₀ s) : Keeps s₀ (shareSetRow q s).1 := by
  unfold Machine.shareSetRow
  dsimp only
  split
  · exact h
  · split
    · exact h
    · dsimp only
      exact h

theorem ShareKeeps.apply {m₀ m : ShareState} {t : ℕ} {w : ShareChange} (h : ShareKeeps m₀ m) : ShareKeeps m₀ (m.apply t w) :=
  h

theorem Keeps.regroup {cl : ℕ} {o : Option SlotOwner} (h : Keeps s₀ s) : Keeps s₀ (s.regroup cl o) := by
  unfold State.regroup
  dsimp only
  split
  · exact h
  · exact h.modCore

theorem Keeps.shareChange {w : ShareChange} (h : Keeps s₀ s) : Keeps s₀ (s.shareChange w) :=
  (((h.each fun _ _ h1 => h1.settle).chargeAll).withShare (((h.each fun _ _ h1 => h1.settle).share).apply)).regroup

theorem Keeps.shareApplied {cl g : ℕ} (h : Keeps s₀ s) : Keeps s₀ (s.shareApplied cl g) := by
  unfold State.shareApplied
  split
  · exact h
  · split
    · exact h.shareChange
    · exact h

theorem Keeps.preemptRow {q : Req} (h : Keeps s₀ s) : Keeps s₀ (preemptRow q s).1 := by
  unfold Machine.preemptRow
  extract_lets f t
  split
  · exact h
  · refine Keeps.unrouse ?_
    exact (h.withCores h.cores.mapCores).ctxJob fun _ _ hx => ⟨hx.seqs, hx.lists, hx.lookahead, hx.ctx, hx.destroying, hx.preempting.tset, hx.restoring⟩

theorem Keeps.graceExpired {f c : ℕ} (h : Keeps s₀ s) : Keeps s₀ (s.graceExpired f c) := by
  unfold State.graceExpired
  dsimp only
  split
  · split
    · split
      · exact h.endAt.setCtx
      · exact h.endAt
    · exact h
  · exact h

theorem Keeps.saveStart {f : ℕ} (h : Keeps s₀ s) : Keeps s₀ (s.saveStart f) := by
  unfold State.saveStart
  dsimp only
  split
  · exact h.setCtx
  · exact h

theorem Keeps.writeSave {f : ℕ} (h : Keeps s₀ s) : Keeps s₀ (s.writeSave f) :=
  ((h.withMem (h.mem.foldl fun _ _ h1 => h1.write)).withCores (h.cores.each fun _ _ h1 => h1.setCore)).withFreeCtr

theorem Keeps.saveDone {f : ℕ} (h : Keeps s₀ s) : Keeps s₀ (s.saveDone f) := by
  unfold State.saveDone
  split
  · exact h
  · extract_lets bad t u a _ v w
    have hv : Keeps s₀ v := h.writeSave.setCtx.event
    have hw : Keeps s₀ w := by
      unfold w
      split
      · exact hv
      · exact hv.event
    split
    · exact hw
    · refine Keeps.complete (hw.withSeqs ?_)
      exact ⟨hw.seqs.seqs, hw.seqs.lists, hw.seqs.lookahead, hw.seqs.ctx, hw.seqs.destroying, hw.seqs.preempting.tset, hw.seqs.restoring⟩

theorem Keeps.restoreRow {q : Req} (h : Keeps s₀ s) : Keeps s₀ (restoreRow q s).1 := by
  unfold Machine.restoreRow
  extract_lets r
  split
  · exact h
  · split
    · exact h
    · exact h.ctxJob fun n x hn => ⟨hn.seqs, hn.lists, hn.lookahead, hn.ctx, hn.destroying, hn.preempting, hn.restoring.tset⟩

theorem CoresKeeps.putUnit {m₀ m : CoresState} {c u : ℕ} {b : List Byte} (h : CoresKeeps m₀ m) : CoresKeeps m₀ (m.putUnit c u b) :=
  h.each fun _ _ h1 => h1.putAcc

theorem CoresKeeps.putRecord {m₀ m : CoresState} {r : CtxRec} {c : ℕ} {b : List Byte} (h : CoresKeeps m₀ m) : CoresKeeps m₀ (m.putRecord r c b) :=
  (h.each fun _ _ h1 => h1.putSpad).each fun _ _ h1 => h1.putUnit

theorem Keeps.refuseChains {c f : ℕ} {es : List QEntry} (h : Keeps s₀ s) : Keeps s₀ (s.refuseChains c f es) :=
  h.each fun _ _ h1 => h1.modCore.failChain

theorem Keeps.restoreCore {f c : ℕ} {b : List Byte} (h : Keeps s₀ s) : Keeps s₀ (s.restoreCore f c b) := by
  unfold State.restoreCore
  dsimp only
  split
  · exact (h.modCore.withCores h.modCore.cores.putRecord).modCore
  · exact h.modCore.modCore.refuseChains

theorem Keeps.restoreDone {f : ℕ} (h : Keeps s₀ s) : Keeps s₀ (s.restoreDone f) := by
  unfold State.restoreDone
  split
  · exact h
  · extract_lets r t _ v v' w
    have ht : Keeps s₀ t := h.each fun _ _ h => h.restoreCore
    have hv : Keeps s₀ v' := Keeps.event ht.setCtx.rouse
    have hw : Keeps s₀ w := by
      unfold w
      split
      · exact hv
      · exact hv.event
    clear_value w
    split
    · exact hw
    · refine Keeps.complete (hw.withSeqs ?_)
      exact ⟨hw.seqs.seqs, hw.seqs.lists, hw.seqs.lookahead, hw.seqs.ctx, hw.seqs.destroying, hw.seqs.preempting, hw.seqs.restoring.tset⟩

theorem SeqKeeps.chainPosted {m₀ m : SeqState} {f : ℕ} {e : QEntry} (h : SeqKeeps m₀ m) : SeqKeeps m₀ (m.chainPosted f e) := by
  unfold SeqState.chainPosted
  split
  · exact ⟨h.seqs, h.lists.tset, h.lookahead, h.ctx, h.destroying, h.preempting, h.restoring⟩
  · exact h

theorem Keeps.blockPostRow {q : Req} (h : Keeps s₀ s) : Keeps s₀ (blockPostRow q s).1 := by
  unfold Machine.blockPostRow
  extract_lets c es
  split
  · exact h
  · split
    · exact h
    · split
      · exact h
      · exact (h.withSeqs (h.seqs.each fun _ _ h => h.chainPosted)).modCore.rouse

theorem Keeps.blockCancelRow {q : Req} (h : Keeps s₀ s) : Keeps s₀ (blockCancelRow q s).1 := by
  unfold Machine.blockCancelRow
  extract_lets cs es
  exact Keeps.unrouse ((h.withSeqs (h.seqs.each fun _ _ h => h.chainDone)).withCores (h.cores.each fun _ _ h => h.setCore))

theorem Keeps.recordReadRow {q : Req} (h : Keeps s₀ s) : Keeps s₀ (recordReadRow q s).1 := by
  unfold Machine.recordReadRow
  split
  · exact h
  · split
    · exact h
    · dsimp only
      exact h.chargeAll

theorem Keeps.telClear {obj i : ℕ} (h : Keeps s₀ s) : Keeps s₀ (State.telClear obj s i) := by
  unfold State.telClear
  dsimp only
  split
  · exact h.modCore
  · exact h.modCore
  · exact h
  · exact h.modPort
  · exact h

theorem Keeps.recordClearRow {q : Req} (h : Keeps s₀ s) : Keeps s₀ (recordClearRow q s).1 := by
  unfold Machine.recordClearRow
  split
  · exact h
  · split
    · exact h
    · split
      · exact h
      · dsimp only
        exact h.foldl fun t a h1 => h1.telClear

theorem Keeps.identifyRow {q : Req} (h : Keeps s₀ s) : Keeps s₀ (identifyRow q s).1 :=
  h

theorem Keeps.ringRow {q : Req} (h : Keeps s₀ s) : Keeps s₀ (ringRow q s).1 := by
  unfold Machine.ringRow
  dsimp only
  exact h.withCtl h.ctl.setRing

theorem Keeps.resetRow {q : Req} (h : Keeps s₀ s) : Keeps s₀ (resetRow q s).1 := by
  unfold Machine.resetRow
  dsimp only
  exact h

theorem Keeps.drainEvents {f : ℕ} (h : Keeps s₀ s) : Keeps s₀ (s.drainEvents f) :=
  (h.withCtl h.ctl.setRing).withHost h.host.drainRing

theorem Keeps.moderationTimer {f : ℕ} (h : Keeps s₀ s) : Keeps s₀ (s.moderationTimer f) := by
  unfold State.moderationTimer
  dsimp only
  split
  · exact h
  · exact (h.upTo.withCtl h.upTo.ctl.setRing).withHost h.upTo.host.signal

theorem Keeps.wake (h : Keeps s₀ s) : Keeps s₀ s.wake := by
  unfold State.wake
  dsimp only
  split
  · exact .foldl h fun t a h1 => h1.drainEvents.withHost h1.drainEvents.host.flushPending
  · exact h

theorem Keeps.request {f : ℕ} {act : State → State} (h : Keeps s₀ s) (hact : ∀ t, Keeps s₀ t → Keeps s₀ (act t)) : Keeps s₀ (s.request f act) := by
  unfold State.request
  split
  · exact hact _ h.wake
  · split
    · exact .withHost h.wake h.wake.host
    · exact h

theorem Keeps.configure {f : ℕ} {act : State → State} (h : Keeps s₀ s) (hact : ∀ t, Keeps s₀ t → Keeps s₀ (act t)) : Keeps s₀ (s.configure f act) := by
  unfold State.configure
  split
  · exact hact _ h.wake
  · split
    · exact .withHost h.wake h.wake.host
    · exact h

theorem Keeps.violation {f : ℕ} (h : Keeps s₀ s) : Keeps s₀ (s.violation f) :=
  h.withCtl h.ctl.setRing

theorem Keeps.headWrite {f : ℕ} {head : BitVec 16} (h : Keeps s₀ s) : Keeps s₀ (s.headWrite f head) := by
  unfold State.headWrite
  dsimp only
  split
  · exact h.violation
  · exact h.withCtl h.ctl.setRing

theorem Keeps.postMailbox {f m1 : ℕ} {irq : Bool} (h : Keeps s₀ s) : Keeps s₀ (s.postMailbox f m1 irq) := by
  unfold State.postMailbox
  dsimp only
  split
  · exact h.violation
  · exact .withCtl h ⟨h.ctl.mailbox.setBytes, h.ctl.rings⟩

theorem Keeps.causeClear {v : ℕ} (h : Keeps s₀ s) : Keeps s₀ (s.causeClear v) :=
  h

theorem Keeps.mailboxWrite {f m1 o v : ℕ} (h : Keeps s₀ s) : Keeps s₀ (s.mailboxWrite f m1 o v) := by
  unfold State.mailboxWrite
  dsimp only
  split
  · exact h.violation
  · split
    · split
      · exact h.postMailbox
      · exact h
    · exact .withCtl h ⟨h.ctl.mailbox.setBytes, h.ctl.rings⟩

theorem HostKeeps.setMask {m₀ m : HostState} {f v : ℕ} {masked : Bool} (h : HostKeeps m₀ m) : HostKeeps m₀ (m.setMask f v masked) :=
  h.setFn.flushPending

theorem Keeps.vectorWrite {f v word x : ℕ} (h : Keeps s₀ s) : Keeps s₀ (s.vectorWrite f v word x) := by
  unfold State.vectorWrite
  dsimp only
  split
  · exact h
  · split
    · exact h.withHost h.host.setMask
    · exact h.withHost h.host.setFn

theorem Keeps.wordWrite {f o v : ℕ} (h : Keeps s₀ s) : Keeps s₀ (s.wordWrite f o v) := by
  unfold State.wordWrite
  split
  · exact h.causeClear
  · split
    · exact h.withHost h.host.setFn
    · split
      · exact h.mailboxWrite
      · split
        · exact h.headWrite
        · split
          · exact h.vectorWrite
          · exact h

theorem HostKeeps.maskFunction {m₀ m : HostState} {f : ℕ} {masked : Bool} (h : HostKeeps m₀ m) : HostKeeps m₀ (m.maskFunction f masked) :=
  h.setFn.flushPending

theorem Keeps.unmask {f : ℕ} {a : Option (Fin 2048)} (h : Keeps s₀ s) : Keeps s₀ (s.unmask f a) := by
  unfold State.unmask
  split
  · split
    · exact h
    · exact h.withHost h.host.setMask
  · exact h.withHost h.host.maskFunction

theorem Keeps.bar2Piece {f : ℕ} {x : ℕ × ℕ} {o : GrainErrors} (h : Keeps s₀ s) : Keeps s₀ (s.bar2Piece f x o).1 := by
  unfold State.bar2Piece
  dsimp only
  split
  · dsimp only
    exact h.deliverGrain
  · exact h

theorem Keeps.bar2Pieces {f : ℕ} {a : List (ℕ × ℕ)} {a1 : List GrainErrors} (h : Keeps s₀ s) : Keeps s₀ (State.bar2Pieces f a a1 s).1 := by
  induction a generalizing a1 s with
  | nil => exact h
  | cons x l ih => exact ih h.bar2Piece

theorem Keeps.bar2Read {f offset len : ℕ} {errors : List GrainErrors} (h : Keeps s₀ s) : Keeps s₀ (s.bar2Read f offset len errors) := by
  unfold State.bar2Read
  extract_lets x a ps r t
  have ht : Keeps s₀ t := by
    have hr : Keeps s₀ r.1 := h.bar2Pieces
    show Keeps s₀ (match s.bar2Bad f false ps with
      | some b => r.1.hostAccess 2 f b
      | none => r.1)
    split
    · exact hr.hostAccess
    · exact hr
  split
  · exact h
  · split
    · exact ht.withHost ht.host
    · exact ht.withHost ht.host.setFn

theorem Keeps.bar2Put {f : ℕ} {a : List (ℕ × List Byte)} (h : Keeps s₀ s) : Keeps s₀ (State.bar2Put f a s) := by
  induction a generalizing s with
  | nil => exact h
  | cons x l ih =>
    rw [State.bar2Put]
    split
    · exact ih h.writePhys
    · exact ih h

theorem Keeps.bar2Write {f offset : ℕ} {data : List Byte} {poisoned : Bool} (h : Keeps s₀ s) : Keeps s₀ (s.bar2Write f offset data poisoned) := by
  unfold State.bar2Write
  dsimp only
  split
  · exact h
  · split
    · exact (h.withHost h.host.setFn).hostAccess
    · refine Keeps.bar2Put ?_
      split
      · exact h.hostAccess
      · exact h

theorem Keeps.power {f : ℕ} {d3 : Bool} (h : Keeps s₀ s) : Keeps s₀ (s.power f d3) := by
  refine h.configure fun t h => ?_
  extract_lets _ u v
  have hu : Keeps s₀ u := h.withHost h.host.setFn
  have hv : Keeps s₀ v := hu.drainEvents
  split
  · exact hu
  · exact hv.withHost hv.host.flushPending

theorem Keeps.sleep (h : Keeps s₀ s) : Keeps s₀ s.sleep := by
  unfold State.sleep
  dsimp only
  split
  · exact h
  · exact h

theorem Keeps.trained (h : Keeps s₀ s) : Keeps s₀ s.trained := by
  unfold State.trained
  dsimp only
  split
  · exact h
  · exact h

theorem Keeps.configured (h : Keeps s₀ s) : Keeps s₀ s.configured := by
  unfold State.configured
  dsimp only
  split
  · exact h
  · exact h

theorem Keeps.mctp {v : Vdm} {f : State → State} {answer : List Byte} (h : Keeps s₀ s) (hf : ∀ t, Keeps s₀ t → Keeps s₀ (f t)) :
    Keeps s₀ (s.mctp v f answer) := by
  unfold State.mctp
  split
  · exact .withHost (hf _ h.wake) (hf _ h.wake).host
  · exact h

theorem ResetKeeps.norWrite {m₀ m : ResetState} {a : ℕ} {bs : List Byte} (h : ResetKeeps m₀ m) : ResetKeeps m₀ (m.norWrite a bs) :=
  h.nor.setBytes

theorem ResetKeeps.norErase {m₀ m : ResetState} {lo n : ℕ} (h : ResetKeeps m₀ m) : ResetKeeps m₀ (m.norErase lo n) :=
  h.nor.tclear

theorem SecKeeps.measure {m₀ m : SecState} {ns kind slot major minor sv : ℕ} {digest : List Byte} (h : SecKeeps m₀ m) :
    SecKeeps m₀ (m.measure ns kind slot major minor sv digest) := by
  unfold SecState.measure
  extract_lets b
  refine ⟨h.lcFuses, h.svn, h.identitySeed, h.identityRoot, h.ownerSeed, h.lifecycle, fun hl => ?_, h.attKey⟩
  have := h.log hl
  dsimp only
  split
  · rw [List.length_append]
    exact ‹_›
  · exact this

theorem ResetKeeps.mark {m₀ m : ResetState} {k : ℕ} (h : ResetKeeps m₀ m) : ResetKeeps m₀ (m.mark k) :=
  h.norWrite

theorem Keeps.measurementRow {q : Req} (h : Keeps s₀ s) : Keeps s₀ (measurementRow q s).1 := by
  unfold Machine.measurementRow
  split
  · exact h
  · exact h

theorem SecKeeps.takeIndex {m₀ m : SecState} {k : AttKey} (h : SecKeeps m₀ m) (hk : m.attKey = some k) (hlt : k.nextIndex < 1024) :
    SecKeeps m₀ m.takeIndex := by
  refine ⟨h.lcFuses, h.svn, h.identitySeed, h.identityRoot, h.ownerSeed, h.lifecycle, h.log, fun _ x hx => ?_⟩
  simp only [SecState.takeIndex, hk, Option.map_some, Option.mem_some_iff] at hx
  subst hx
  exact hlt

theorem Keeps.addService {q : Req} {j : ServiceJob} (h : Keeps s₀ s) : Keeps s₀ (s.addService q j) :=
  h

theorem Keeps.quoteExhausted {p : CmdRef × ServiceJob} (h : Keeps s₀ s) : Keeps s₀ (State.quoteExhausted p s) :=
  .complete h

theorem Keeps.nextQuote (h : Keeps s₀ s) : Keeps s₀ s.nextQuote := by
  unfold State.nextQuote
  split
  · next hk =>
    split
    · exact .withCtl (h.withSec (h.sec.takeIndex hk ‹_›)) h.ctl
    · exact h.each fun _ _ h => h.quoteExhausted
  · exact h

theorem Keeps.quoteRow {q : Req} (h : Keeps s₀ s) : Keeps s₀ (quoteRow q s).1 := by
  unfold Machine.quoteRow
  split
  · exact h
  · split
    · exact h
    · split
      · exact h
      · dsimp only
        exact h.addService.nextQuote

theorem Keeps.deliver {c : CmdRef} {buffer : ℕ} {bs : List Byte} (h : Keeps s₀ s) : Keeps s₀ (s.deliver c buffer bs) := by
  unfold State.deliver
  split
  · next x t e =>
      have h1 := h.writeVirt _ e
      exact h1.complete
  · exact h.noteBad.complete

theorem Keeps.quoteSigned {f : ℕ} (h : Keeps s₀ s) : Keeps s₀ (s.quoteSigned f) := by
  unfold State.quoteSigned
  dsimp only
  split
  · split
    · exact .nextQuote (.deliver h)
    · exact h
  · exact h

theorem Keeps.certificateRow {q : Req} (h : Keeps s₀ s) : Keeps s₀ (certificateRow q s).1 := by
  unfold Machine.certificateRow
  split
  · exact h
  · split
    · exact h
    · split
      · exact h
      · dsimp only
        exact h.addService

theorem Keeps.certificateWritten {f : ℕ} (h : Keeps s₀ s) : Keeps s₀ (s.certificateWritten f) := by
  unfold State.certificateWritten
  dsimp only
  split
  · exact .deliver h
  · exact h

theorem Keeps.logRow {q : Req} (h : Keeps s₀ s) : Keeps s₀ (logRow q s).1 := by
  unfold Machine.logRow
  split
  · exact h
  · dsimp only
    exact h.addService

theorem Keeps.logDone {f : ℕ} (h : Keeps s₀ s) : Keeps s₀ (s.logDone f) := by
  unfold State.logDone
  dsimp only
  split
  · exact .deliver h
  · exact h

theorem Keeps.arrives {p : MgmtPath} (h : Keeps s₀ s) : Keeps s₀ (s.arrives p) := by
  unfold State.arrives
  split
  · exact h
  · exact h.wake

theorem Keeps.replies {r : Reply} (h : Keeps s₀ s) : Keeps s₀ (s.replies r) :=
  h

theorem Keeps.vendor {p : MgmtPath} {act : State → State} (h : Keeps s₀ s) (hact : ∀ t, Keeps s₀ t → Keeps s₀ (act t)) : Keeps s₀ (s.vendor p act) := by
  unfold State.vendor
  split
  · exact hact _ h.arrives
  · exact h

theorem Keeps.getMeasurement {p : MgmtPath} {index : ℕ} (h : Keeps s₀ s) : Keeps s₀ (s.getMeasurement p index) :=
  h.replies

theorem AttKey.nextIndex_lt_of_usable {k : AttKey} (h : k.usable = true) : k.nextIndex < 1024 := by
  simp only [AttKey.usable, Bool.and_eq_true, decide_eq_true_eq] at h
  exact h.2

theorem Keeps.getQuote {p : MgmtPath} {nonce : List Byte} (h : Keeps s₀ s) : Keeps s₀ (s.getQuote p nonce) := by
  unfold State.getQuote
  split
  · exact h.replies
  · split
    · next k hk =>
      split
      · exact (h.withSec (h.sec.takeIndex hk (AttKey.nextIndex_lt_of_usable ‹_›))).replies
      · exact h.replies
    · exact h.replies

theorem Keeps.getCertificate {p : MgmtPath} (h : Keeps s₀ s) : Keeps s₀ (s.getCertificate p) := by
  unfold State.getCertificate
  split
  · exact h.replies
  · exact h.replies

theorem Keeps.advanceRow {q : Req} (h : Keeps s₀ s) : Keeps s₀ (advanceRow q s).1 := by
  unfold Machine.advanceRow
  dsimp only
  split
  · exact h
  · split
    · exact h
    · split
      · split
        · exact h
        · split
          · dsimp only
            exact h
          · split
            · dsimp only
              exact h.noteBad
            · split
              · dsimp only
                exact h
              · exact h
      · split
        · exact h
        · split
          · dsimp only
            exact h
          · split
            · dsimp only
              exact h.noteBad
            · split
              · dsimp only
                exact h
              · exact h

theorem SecKeeps.burn {m₀ m : SecState} {g : ℕ} (h : SecKeeps m₀ m) : SecKeeps m₀ (m.burn g) :=
  ⟨h.lcFuses.or _, h.svn, h.identitySeed, h.identityRoot, h.ownerSeed, h.lifecycle, h.log, h.attKey⟩

theorem Keeps.drawIdentity (h : Keeps s₀ s) : Keeps s₀ s.drawIdentity := by
  unfold State.drawIdentity
  split
  · exact .withSec h ⟨h.sec.lcFuses, h.sec.svn, h.sec.identitySeed.or _, h.sec.identityRoot, h.sec.ownerSeed, h.sec.lifecycle, h.sec.log, h.sec.attKey⟩
  · exact h

theorem Keeps.burnRoot (h : Keeps s₀ s) : Keeps s₀ s.burnRoot :=
  h.withSec ⟨h.sec.lcFuses, h.sec.svn, h.sec.identitySeed, h.sec.identityRoot.or _, h.sec.ownerSeed, h.sec.lifecycle, h.sec.log, h.sec.attKey⟩

theorem Keeps.storeTraversal (h : Keeps s₀ s) : Keeps s₀ s.storeTraversal :=
  h.withRst h.rst.norWrite

theorem Keeps.drawOwner (h : Keeps s₀ s) : Keeps s₀ s.drawOwner :=
  .withSec h ⟨h.sec.lcFuses, h.sec.svn, h.sec.identitySeed, h.sec.identityRoot, h.sec.ownerSeed.or _, h.sec.lifecycle, h.sec.log, h.sec.attKey⟩

theorem Keeps.burnGroup {g : ℕ} (h : Keeps s₀ s) : Keeps s₀ (s.burnGroup g) :=
  h.withSec h.sec.burn

theorem Keeps.destroyOwner (h : Keeps s₀ s) : Keeps s₀ s.destroyOwner := by
  have hsec : SecKeeps s₀.sec s.destroyOwner.sec :=
    ⟨h.sec.lcFuses, h.sec.svn, h.sec.identitySeed, h.sec.identityRoot, .allOnes, h.sec.lifecycle, h.sec.log, h.sec.attKey⟩
  exact (h.withSec hsec).withMem h.mem

theorem Keeps.destroyIdentity (h : Keeps s₀ s) : Keeps s₀ s.destroyIdentity :=
  h.withSec ⟨h.sec.lcFuses, h.sec.svn, .allOnes, h.sec.identityRoot, h.sec.ownerSeed, h.sec.lifecycle, h.sec.log, h.sec.attKey⟩

theorem Keeps.eraseLog (h : Keeps s₀ s) : Keeps s₀ s.eraseLog :=
  h.withRst h.rst.norErase

theorem Keeps.eraseXmss (h : Keeps s₀ s) : Keeps s₀ s.eraseXmss :=
  h.withRst h.rst.norErase

theorem Keeps.eraseTandem (h : Keeps s₀ s) : Keeps s₀ s.eraseTandem :=
  h.withRst h.rst.norErase

theorem Keeps.enterReturn (h : Keeps s₀ s) : Keeps s₀ s.enterReturn :=
  h.destroyOwner.eraseLog

theorem Keeps.burnGroups (h : Keeps s₀ s) : Keeps s₀ s.burnGroups :=
  h.withSec ⟨Burns.allOnes (w := 16), h.sec.svn, h.sec.identitySeed, h.sec.identityRoot, h.sec.ownerSeed, h.sec.lifecycle, h.sec.log, h.sec.attKey⟩

theorem Keeps.enterRetired (h : Keeps s₀ s) : Keeps s₀ s.enterRetired :=
  h.burnGroups.destroyIdentity.destroyOwner.eraseXmss.eraseTandem.eraseLog

/-- Every step of a transition only burns and erases (Table 19.3). -/
theorem Keeps.transitionStep {n : ℕ} {a : State → State} (ha : a ∈ transitionSteps n) (h : Keeps s₀ s) : Keeps s₀ (a s) := by
  unfold transitionSteps at ha
  split at ha
  · simp only [List.mem_cons, List.not_mem_nil, or_false] at ha
    obtain rfl | rfl | rfl | rfl := ha
    · exact h.drawIdentity
    · exact h.burnRoot
    · exact h.storeTraversal
    · exact h.burnGroup
  · simp only [List.mem_cons, List.not_mem_nil, or_false] at ha
    obtain rfl | rfl := ha
    · exact h.drawOwner
    · exact h.burnGroup
  · simp only [List.mem_cons, List.not_mem_nil, or_false] at ha
    obtain rfl | rfl | rfl := ha
    · exact h.burnGroup
    · exact h.destroyOwner
    · exact h.eraseLog
  · simp only [List.mem_cons, List.not_mem_nil, or_false] at ha
    obtain rfl | rfl | rfl | rfl | rfl | rfl := ha
    · exact h.burnGroups
    · exact h.destroyIdentity
    · exact h.destroyOwner
    · exact h.eraseXmss
    · exact h.eraseTandem
    · exact h.eraseLog

theorem Keeps.transitionActions {n : ℕ} (h : Keeps s₀ s) : Keeps s₀ (s.transitionActions n) :=
  List.foldlRecOn _ _ h fun _ ht _ ha => ht.transitionStep ha

theorem Keeps.cutTransition (h : Keeps s₀ s) : Keeps s₀ s.cutTransition := by
  unfold State.cutTransition
  split
  · exact h
  · extract_lets l
    exact List.foldlRecOn _ _ (Keeps.withSec h h.sec) fun _ ht _ ha => ht.transitionStep (List.mem_of_mem_take ha)

theorem Keeps.transitionDone (h : Keeps s₀ s) : Keeps s₀ s.transitionDone := by
  unfold State.transitionDone
  dsimp only
  split
  · exact h
  · exact .complete h.transitionActions

theorem Keeps.debugUnlock {a : List Byte} (h : Keeps s₀ s) : Keeps s₀ (s.debugUnlock a) := by
  unfold State.debugUnlock
  dsimp only
  split
  · exact h
  · exact h

theorem Keeps.startUpdate {u : Update} (h : Keeps s₀ s) : Keeps s₀ (s.startUpdate u) := by
  unfold State.startUpdate
  refine h.withRst ?_
  split
  · exact h.rst
  · exact h.rst.norErase

theorem Keeps.updateRow {q : Req} (h : Keeps s₀ s) : Keeps s₀ (updateRow q s).1 := by
  unfold Machine.updateRow
  dsimp only
  split
  · exact h
  · split
    · split
      · dsimp only
        exact h.startUpdate
      · exact h
    · split
      · dsimp only
        exact h.noteBad
      · split
        · dsimp only
          exact h.startUpdate
        · exact h

theorem ResetKeeps.program {m₀ m : ResetState} {u : Update} (h : ResetKeeps m₀ m) : ResetKeeps m₀ (m.program u) :=
  h.norWrite

theorem Keeps.updateDone (h : Keeps s₀ s) : Keeps s₀ s.updateDone := by
  unfold State.updateDone
  split
  · exact h
  · next u _ =>
    extract_lets st fh rst _ sec t _ v
    have hrst : ResetKeeps s₀.rst rst := by
      unfold rst
      split
      · exact h.rst
      · exact h.rst.program
    have hsec : SecKeeps s₀.sec sec := h.sec
    have hmark : ResetKeeps s₀.rst t.rst := by
      show ResetKeeps s₀.rst (if _ then _ else _)
      split
      · exact hrst.mark
      · exact hrst
    have hmeasure : SecKeeps s₀.sec t.sec := by
      show SecKeeps s₀.sec (if _ then _ else _)
      split
      · exact hsec.measure
      · exact hsec
    have ht : Keeps s₀ t := (h.withRst hmark).withSec hmeasure
    have hv : Keeps s₀ v := by
      unfold v
      split
      · exact .withSec ht ht.sec
      · exact ht
    clear_value v
    split
    · exact hv.complete
    · exact hv

theorem Keeps.pldmUpdate {image : List Byte} (h : Keeps s₀ s) : Keeps s₀ (s.pldmUpdate image) := by
  unfold State.pldmUpdate
  dsimp only
  split
  · exact h.replies
  · split
    · exact h.replies
    · exact h.startUpdate.replies

theorem Keeps.svnRaise (h : Keeps s₀ s) : Keeps s₀ s.svnRaise := by
  unfold State.svnRaise
  split
  · exact h
  · next f _ =>
    split
    · exact h
    · extract_lets t
      have hsvn : s₀.sec.svn ≤ if t.sec.svn < f.sv then f.sv else t.sec.svn := by
        split
        · exact BitVec.le_trans h.sec.svn (BitVec.le_of_lt ‹_›)
        · exact h.sec.svn
      exact .withSec h.upTo ⟨h.sec.lcFuses, hsvn, h.sec.identitySeed, h.sec.identityRoot, h.sec.ownerSeed, h.sec.lifecycle, h.sec.log, h.sec.attKey⟩

theorem Keeps.attest (h : Keeps s₀ s) : Keeps s₀ s.attest := by
  unfold State.attest
  extract_lets w d t
  have ht : Keeps s₀ t := h.withFreeCtr
  split
  · exact ht.withSec ht.sec.newKey
  · exact Keeps.recordItem (ht.withSec ht.sec.newKey)

theorem Keeps.modSeq {i : ℕ} {f : SeqEntry → SeqEntry} (h : Keeps s₀ s) : Keeps s₀ (s.modSeq i f) :=
  .withSeqs h ⟨h.seqs.seqs.tset, h.seqs.lists, h.seqs.lookahead, h.seqs.ctx, h.seqs.destroying, h.seqs.preempting, h.seqs.restoring⟩

theorem Keeps.pagedRow {f : ℕ} {r : Paged (State × Answer)} (h : Keeps s₀ s) (hr : KeepsOkFst s₀ r) : Keeps s₀ (pagedRow f s r).1 := by
  unfold Machine.pagedRow
  split
  · next r => exact hr r rfl
  · exact h.stopService

theorem Keeps.placeRow {q : Req} (h : Keeps s₀ s) : Keeps s₀ (placeRow q s).1 := by
  unfold Machine.placeRow
  dsimp only
  split
  · exact h
  · split
    · exact h
    · dsimp only
      exact h

theorem MemKeeps.placeTable {m₀ m : MemState} {a : ℕ} (h : MemKeeps m₀ m) : MemKeeps m₀ (m.placeTable a) := by
  unfold MemState.placeTable
  refine MemKeeps.foldl ?_ fun a1 a2 h1 => ?_
  · split
    · exact h.zero
    · exact h.write
  · dsimp only
    split
    · split
      · exact h1
      · exact h1.write
    · split
      · exact h1
      · exact h1.write

theorem Keeps.tablePlaced (h : Keeps s₀ s) : Keeps s₀ s.tablePlaced := by
  unfold State.tablePlaced
  dsimp only
  split
  · exact h
  · exact .complete (h.withMem h.mem.placeTable)

theorem Keeps.setupRow {q : Req} (h : Keeps s₀ s) : Keeps s₀ (setupRow q s).1 := by
  unfold Machine.setupRow
  dsimp only
  split
  · exact h
  · split
    · exact h
    · split
      · exact h
      · split
        · exact h
        · split
          · exact h
          · split
            · exact h
            · dsimp only
              exact h.modRec

theorem Keeps.geometryRow {q : Req} (h : Keeps s₀ s) : Keeps s₀ (geometryRow q s).1 := by
  unfold Machine.geometryRow
  split
  · exact h
  · split
    · exact h
    · dsimp only
      exact h.modRec

theorem Keeps.waterRow {q : Req} (h : Keeps s₀ s) : Keeps s₀ (waterRow q s).1 := by
  unfold Machine.waterRow
  dsimp only
  split
  · exact h
  · dsimp only
    exact h.modRec

theorem Keeps.grant {f e : ℕ} (h : Keeps s₀ s) : KeepsOk s₀ (State.grant f e s) := by
  unfold State.grant
  split
  · exact .error
  · next x t e1 =>
      have h1 := h.ftWrite _ e1
      exact h1.pushFrame

theorem Keeps.dropPrefetch {m1 : PageMove} (h : Keeps s₀ s) : Keeps s₀ (s.dropPrefetch m1) :=
  h

theorem Keeps.feed {f n : ℕ} (h : Keeps s₀ s) : KeepsOk s₀ (State.feed f n s) := by
  induction n generalizing s with
  | zero => exact .ok h
  | succ n ih =>
    unfold State.feed
    split
    · exact .ok h
    · split
      · exact .ok h
      · split
        · exact .error
        · exact ih h.dropPrefetch
        · split
          · exact .error
          · split
            · exact ih h.dropPrefetch
            · split
              · exact .ok h
              · split
                · exact .error
                · next t _ e =>
                  have ht : Keeps s₀ t := h.popFrame _ e
                  split
                  · exact .error
                  · next u e =>
                    have hu := ht.ftWrite u e
                    exact .ok (.modRec (.withPages hu hu.pages))

theorem Keeps.feedPrefetch {f : ℕ} (h : Keeps s₀ s) : KeepsOk s₀ (State.feedPrefetch f s) :=
  h.feed

/-- Frames granted one after another, then given to the prefetches that wait. -/
theorem Keeps.granted {f : ℕ} {es : List ℕ} (h : Keeps s₀ s) :
    KeepsOkFst s₀ (match Machine.pagedEach (State.grant f) es s with
      | .error g => .error g
      | .ok s => (match s.feedPrefetch f with
        | .error g => .error g
        | .ok s => .ok (s, ({} : Answer)))) := by
  split
  · exact .error
  · next t e =>
    have ht := h.pagedEach (fun _ _ h => h.grant) t e
    split
    · exact .error
    · next u e => exact .ok (ht.feedPrefetch u e)

theorem Keeps.grantRow {q : Req} (h : Keeps s₀ s) : Keeps s₀ (grantRow q s).1 := by
  unfold Machine.grantRow
  dsimp only
  split
  · exact h
  · split
    · exact h
    · split
      · exact h.pagedRow .error
      · split
        · exact h
        · split
          · exact h
          · split
            · split
              · exact h
              · exact h.pagedRow h.granted
            · split
              · exact h
              · exact h.pagedRow h.granted

theorem Keeps.scrubRow {q : Req} (h : Keeps s₀ s) : Keeps s₀ (scrubRow q s).1 := by
  unfold Machine.scrubRow
  dsimp only
  split
  · exact h
  · split
    · split
      · exact h
      · split
        · dsimp only
          exact h.tableBad
        · split
          · exact h
          · dsimp only
            exact h
    · split
      · exact h
      · split
        · dsimp only
          exact h.tableBad
        · split
          · exact h
          · dsimp only
            exact h

theorem MemKeeps.scrubFrame {m₀ m : MemState} {t : FtBase} {e : ℕ} (h : MemKeeps m₀ m) : MemKeeps m₀ (m.scrubFrame t e) := by
  unfold MemState.scrubFrame
  dsimp only
  split
  · exact h.zero.ftPut
  · exact ⟨h.zero.ftPut.cells, h.zero.ftPut.movers, h.zero.ftPut.hostq⟩

theorem Keeps.tableMet {g : Option ℕ} (h : Keeps s₀ s) : Keeps s₀ (s.tableMet g) := by
  unfold State.tableMet
  split
  · exact h.tableBad
  · exact h

theorem Keeps.orphansLeft {f : ℕ} (h : Keeps s₀ s) : Keeps s₀ (State.orphansLeft f s) := by
  unfold State.orphansLeft
  dsimp only
  split
  · exact h.withHost h.host.setFn
  · exact h

theorem Keeps.scrubbed (h : Keeps s₀ s) : Keeps s₀ s.scrubbed := by
  unfold State.scrubbed
  dsimp only
  split
  · exact h
  · exact .complete (.tableMet (.each (h.withMem (h.mem.foldl fun a a1 h1 => h1.scrubFrame)) fun a t h1 => h1.orphansLeft))

theorem Keeps.reenableRow {q : Req} (h : Keeps s₀ s) : Keeps s₀ (reenableRow q s).1 := by
  unfold Machine.reenableRow
  dsimp only
  split
  · exact h
  · split
    · exact h
    · dsimp only
      exact h

theorem Keeps.rebuild {f : ℕ} (h : Keeps s₀ s) : KeepsOk s₀ (s.rebuild f) := by
  unfold State.rebuild
  split
  · exact .error
  · exact .error
  · extract_lets named e _ t
    have ht : Keeps s₀ t := .modRec (.withPages h h.pages)
    split
    · exact .error
    · next u eu =>
      have hu := ht.pagedEach (fun _ _ h => h.ftWrite) u eu
      split
      · exact .error
      · next v ev =>
        have hv := hu.pagedEach (fun _ _ h => h.freeFrame) v ev
        exact .ok (.modRec (.withPages hv hv.pages))

theorem Keeps.reenabled {f : ℕ} (h : Keeps s₀ s) : Keeps s₀ (s.reenabled f) := by
  unfold State.reenabled
  split
  · exact h
  · extract_lets _ t
    have ht : Keeps s₀ t := .withPages h h.pages
    split
    · next u e => exact (ht.rebuild u e).complete
    · exact ht.stopService.complete

theorem MemKeeps.copyFrame {m₀ m : MemState} {a b : ℕ} (h : MemKeeps m₀ m) : MemKeeps m₀ (m.copyFrame a b) :=
  h.write

theorem Keeps.await {f : ℕ} {release : List ℕ} (h : Keeps s₀ s) : Keeps s₀ (s.await f release) :=
  h

theorem Keeps.acked {f : ℕ} (h : Keeps s₀ s) : Keeps s₀ (s.acked f) := by
  unfold State.acked
  dsimp only
  split
  · exact h
  · next v _ =>
    refine Keeps.paged (h.withPages h.pages) fun t ht => ?_
    split
    · exact .error
    · next u e =>
      have hu := ht.pagedEach (fun _ _ h => h.unref) u e
      split
      · exact .error
      · next w e => exact (hu.sweepIdle w e).feedPrefetch

theorem PageKeeps.watch {m₀ m : PageState} {f : ℕ} (h : PageKeeps m₀ m) : PageKeeps m₀ (m.watch f) :=
  h

theorem MemKeeps.spillFill {m₀ m : MemState} {x : ℕ} (h : MemKeeps m₀ m) : MemKeeps m₀ (m.spillFill x) := by
  unfold MemState.spillFill
  split
  · exact h
  · exact h

theorem MemKeeps.spillFilled {m₀ m : MemState} {x : ℕ} (h : MemKeeps m₀ m) : MemKeeps m₀ (m.spillFilled x) := by
  unfold MemState.spillFilled
  split
  · exact h
  · exact h

theorem Keeps.beginSpill {f : ℕ} (h : Keeps s₀ s) : KeepsOk s₀ (s.beginSpill f) := by
  unfold State.beginSpill
  dsimp only
  split
  · exact .error
  · exact KeepsOk.ok h
  · split
    · exact KeepsOk.ok (.pageEvent h)
    · split
      · exact .error
      · next x t x1 e =>
          have h1 : Keeps s₀ t := h.popFrame _ e
          split
          · exact .error
          · next x2 t1 e1 =>
              have h2 := h1.ftWrite _ e1
              split
              · exact .error
              · split
                · exact .error
                · next x3 t2 e2 =>
                    have h3 := h2.ftWrite _ e2
                    exact KeepsOk.ok (.withPages (h3.withMem h3.mem.spillFill) h3.pages.recs)

theorem Keeps.spillStart {f : ℕ} (h : Keeps s₀ s) : Keeps s₀ (s.spillStart f) := by
  unfold State.spillStart
  dsimp only
  split
  · exact h.withPages h.pages.watch
  · exact (h.withPages h.pages.watch).paged fun _ h => h.beginSpill

theorem Keeps.spillFailed {f : ℕ} {m : PageMove} {a b : ℕ} {e : Args} (h : Keeps s₀ s) : KeepsOk s₀ (State.spillFailed f m a b e s) := by
  unfold State.spillFailed
  split
  · exact .error
  · split
    · exact .error
    · next t et =>
      have ht : Keeps s₀ t := h.ftWrite t et
      extract_lets step age u v w
      have hw : Keeps s₀ w := ht.noteBad.withPages ht.pages.recs
      clear_value w
      split
      · exact .error
      · next v ev => exact .ok (Keeps.quarantine (hw.withMem hw.mem.spillFilled) v ev).pageEvent

theorem Keeps.spillMoved {f : ℕ} {m1 : PageMove} {a b : ℕ} (h : Keeps s₀ s) : KeepsOk s₀ (State.spillMoved f m1 a b s) := by
  unfold State.spillMoved
  dsimp only
  split
  · exact .error
  · next x t e =>
      have h1 := ((h.withMem h.mem.copyFrame.spillFilled).ftWrite) _ e
      split
      · exact .error
      · next x1 t1 e1 =>
          have h2 := h1.setLeaf _ e1
          exact KeepsOk.ok h2.modRec.await

theorem Keeps.spillDone {f : ℕ} (h : Keeps s₀ s) : Keeps s₀ (s.spillDone f) := by
  unfold State.spillDone
  dsimp only
  split
  · exact h
  · split
    · exact h
    · refine Keeps.paged (h.withPages h.pages) fun t ht => ?_
      split
      · exact ht.spillFailed
      · exact ht.spillMoved

theorem Keeps.prefetchFailed {f : ℕ} {m1 : PageMove} {b g : ℕ} (h : Keeps s₀ s) : KeepsOk s₀ (State.prefetchFailed f m1 b g s) := by
  unfold State.prefetchFailed
  split
  · exact .error
  · next x t e =>
      have h1 := (((h.withMem h.mem.note).modRec).freeFrame) _ e
      exact KeepsOk.ok h1.pageEvent

theorem Keeps.prefetchMoved {f : ℕ} {m1 : PageMove} {a b : ℕ} (h : Keeps s₀ s) : KeepsOk s₀ (State.prefetchMoved f m1 a b s) := by
  unfold State.prefetchMoved
  split
  · exact .error
  · next x t e =>
      have h1 := ((h.withMem h.mem.copyFrame).ftWrite) _ e
      split
      · exact .error
      · next x1 t1 e1 =>
          have h2 := h1.setLeaf _ e1
          exact KeepsOk.ok h2.modRec.await

theorem Keeps.prefetchDone {f : ℕ} (h : Keeps s₀ s) : Keeps s₀ (s.prefetchDone f) := by
  unfold State.prefetchDone
  split
  · exact h
  · next m _ =>
    split
    · exact h
    · next a b _ =>
      refine h.dropPrefetch.paged fun t ht => ?_
      have hm : KeepsOk s₀ (match t.mem.frameUe a with
          | some g => State.prefetchFailed f m b g t
          | none => State.prefetchMoved f m a b t) := by
        split
        · exact ht.prefetchFailed
        · exact ht.prefetchMoved
      split
      · exact .error
      · next u e => exact (hm u e).feedPrefetch

theorem Keeps.ackAll {f n : ℕ} (h : Keeps s₀ s) : Keeps s₀ (State.ackAll f n s) := by
  induction n generalizing s with
  | zero => exact h
  | succ n ih => exact ih h.acked

theorem Keeps.settleMoves {f : ℕ} {named : ℕ → Bool} (h : Keeps s₀ s) : Keeps s₀ (s.settleMoves f named) := by
  unfold State.settleMoves
  refine Keeps.ackAll ?_
  split
  · split
    · exact h.spillDone.prefetchDone
    · exact h.spillDone
  · split
    · exact h.prefetchDone
    · exact h

theorem Keeps.releaseAll {f : ℕ} {ps : List ℕ} (h : Keeps s₀ s) : KeepsOk s₀ (State.releaseAll f ps s) := by
  unfold State.releaseAll
  split
  · exact .error
  · next x t e =>
      have h1 := h.pagedEach (fun _ _ h => h.releasePage) _ e
      split
      · exact .error
      · next x1 t1 e1 =>
          have h2 := h1.sweepIdle _ e1
          exact h2.feedPrefetch

theorem Keeps.pageReleaseRow {q : Req} (h : Keeps s₀ s) : Keeps s₀ (pageReleaseRow q s).1 := by
  unfold Machine.pageReleaseRow
  dsimp only
  split
  · exact h
  · split
    · exact h
    · split
      · exact h
      · split
        · exact h
        · split
          · dsimp only
            exact h.settleMoves
          · refine h.settleMoves.pagedRow ?_
            split
            · exact .error
            · next t e => exact .ok (h.settleMoves.releaseAll t e)

theorem Keeps.sharePage {f : ℕ} {x : SharePage} (h : Keeps s₀ s) : KeepsOk s₀ (State.sharePage f x s) := by
  unfold State.sharePage
  split
  · exact .error
  · exact KeepsOk.ok h
  · split
    · exact .error
    · split
      · exact .error
      · next x1 t e =>
          have h1 := h.ftWrite _ e
          split
          · exact .error
          · next x2 t1 e1 =>
              have h2 := h1.setLeaf _ e1
              exact h2.setLeaf

theorem Keeps.doShare {f : ℕ} {w : ShareWait} (h : Keeps s₀ s) : KeepsOkFst s₀ (State.doShare f w s) := by
  unfold State.doShare
  dsimp only
  split
  · exact KeepsOkFst.ok h
  · split
    · exact .error
    · split
      · exact KeepsOkFst.ok h
      · split
        · exact KeepsOkFst.ok h
        · split
          · exact .error
          · next x t e =>
              have h1 := h.pagedEach (fun _ _ h => h.sharePage) _ e
              exact KeepsOkFst.ok h1

theorem Keeps.settleShare {f : ℕ} {w : ShareWait} (h : Keeps s₀ s) : Keeps s₀ (s.settleShare f w) := by
  unfold State.settleShare
  exact h.settleMoves

theorem Keeps.shareRow {q : Req} (h : Keeps s₀ s) : Keeps s₀ (shareRow q s).1 := by
  unfold Machine.shareRow
  dsimp only
  split
  · exact h
  · exact h
  · split
    · exact h
    · split
      · exact h
      · split
        · dsimp only
          exact h.settleShare
        · refine h.settleShare.pagedRow ?_
          split
          · exact .error
          · next t st e =>
            split
            · exact .ok (.withPages h.settleShare h.settleShare.pages)
            · exact .ok (h.settleShare.doShare (t, st) e)

theorem Keeps.shareLate {w : ShareWait} (h : Keeps s₀ s) : Keeps s₀ (s.shareLate w) := by
  unfold State.shareLate
  extract_lets f _ t
  split
  · exact .complete (.withPages h h.pages)
  · have ht : Keeps s₀ t := .settleShare (.withPages h h.pages)
    split
    · exact ht.complete
    · split
      · next u _ e =>
        have hu : Keeps s₀ u := ht.doShare _ e
        exact hu.complete
      · exact ht.stopService.complete

theorem Keeps.sharesDue {f : ℕ} (h : Keeps s₀ s) : Keeps s₀ (s.sharesDue f) :=
  h.each fun _ _ h1 => h1.shareLate

theorem Keeps.createAt {q : Req} (h : Keeps s₀ s) : Keeps s₀ (createAt q s).1 := by
  unfold Machine.createAt
  extract_lets f
  split
  · exact h
  · split
    · exact h
    · exact h.modSeq

theorem Keeps.createRow {q : Req} (h : Keeps s₀ s) : Keeps s₀ (createRow q s).1 := by
  unfold Machine.createRow
  dsimp only
  split
  · exact h
  · refine h.pagedRow ?_
    split
    · exact .error
    · refine .ok ?_
      split
      · exact h.createAt
      · exact h

theorem Keeps.seqRow {ok : SeqEntry → Bool} {act : ℕ → Req → State → State × Answer} {q : Req} (h : Keeps s₀ s)
    (hact : ∀ i q t, Keeps s₀ t → Keeps s₀ (act i q t).1) : Keeps s₀ (seqRow ok act q s).1 := by
  unfold Machine.seqRow
  extract_lets i
  split
  · exact h
  · split
    · exact hact _ _ _ h
    · exact h

theorem Keeps.setAct {i : ℕ} {q : Req} (h : Keeps s₀ s) : Keeps s₀ (setAct i q s).1 := by
  unfold Machine.setAct
  dsimp only
  split
  · exact h
  · dsimp only
    exact h.modSeq

theorem Keeps.freeSeq {i : ℕ} (h : Keeps s₀ s) : Keeps s₀ (s.freeSeq i) := by
  unfold State.freeSeq
  split
  · exact h.modSeq
  · exact h

theorem Keeps.dropAppend {i : ℕ} (h : Keeps s₀ s) : Keeps s₀ (s.dropAppend i) :=
  h

theorem Keeps.forget {f i : ℕ} (h : Keeps s₀ s) : Keeps s₀ (s.forget f i) :=
  .withSeqs h ⟨h.seqs.seqs, h.seqs.lists.tset, h.seqs.lookahead, h.seqs.ctx, h.seqs.destroying, h.seqs.preempting, h.seqs.restoring⟩

theorem Keeps.retireSeqAct {i : ℕ} {q : Req} (h : Keeps s₀ s) : Keeps s₀ (retireSeqAct i q s).1 := by
  unfold Machine.retireSeqAct
  extract_lets e r all gone t
  have ht : Keeps s₀ t := by
    unfold t
    split
    · exact h
    · exact h.settleMoves
  have hr : KeepsOk s₀ (if gone then .ok t else State.releaseAll q.fn all t) := by
    split
    · exact .ok ht
    · exact ht.releaseAll
  split
  · exact ht
  · refine ht.pagedRow ?_
    split
    · exact .error
    · next u e => exact .ok (hr u e).dropAppend.forget.modSeq.freeSeq

theorem SeqKeeps.modList {m₀ m : SeqState} {f : ℕ} {epoch : BitVec 16} {g : BrewList → BrewList} (h : SeqKeeps m₀ m) : SeqKeeps m₀ (m.modList f epoch g) :=
  ⟨h.seqs, h.lists.tset, h.lookahead, h.ctx, h.destroying, h.preempting, h.restoring⟩

theorem Keeps.modList {f : ℕ} {epoch : BitVec 16} {g : BrewList → BrewList} (h : Keeps s₀ s) : Keeps s₀ (s.modList f epoch g) :=
  h.withSeqs h.seqs.modList

theorem Keeps.commitFresh {f : ℕ} {x : ℕ × ℕ} (h : Keeps s₀ s) : KeepsOk s₀ (State.commitFresh f x s) := by
  unfold State.commitFresh
  split
  · exact .error
  · exact h.pushFrame
  · split
    · exact .error
    · next x1 t e =>
        have h1 := h.ftWrite _ e
        split
        · exact .error
        · next x2 t1 e1 =>
            have h2 := h1.setLeaf _ e1
            exact KeepsOk.ok h2.modRec

theorem Keeps.returnMoving {f e : ℕ} (h : Keeps s₀ s) : KeepsOk s₀ (State.returnMoving f e s) :=
  h.modRec.freeFrame

theorem Keeps.commitCopy {f : ℕ} {c : CowCopy} (h : Keeps s₀ s) : KeepsOk s₀ (State.commitCopy f c s) := by
  unfold State.commitCopy
  split
  · exact .error
  · split
    · exact h.returnMoving
    · split
      · exact .error
      · split
        · exact .error
        · next x t e =>
            have h1 := h.ftWrite _ e
            split
            · exact .error
            · next x1 t1 e1 =>
                have h2 := h1.setLeaf _ e1
                exact KeepsOk.ok h2.modRec.await

theorem Keeps.commitWrite {f p : ℕ} (h : Keeps s₀ s) : KeepsOk s₀ (State.commitWrite f p s) := by
  unfold State.commitWrite
  split
  · exact .error
  · exact KeepsOk.ok h
  · split
    · exact .error
    · split
      · exact h.setLeaf
      · exact KeepsOk.ok h

theorem Keeps.commitAppend {a : Append} (h : Keeps s₀ s) : KeepsOk s₀ (State.commitAppend a s) := by
  unfold State.commitAppend
  split
  · exact .error
  · next x t e =>
      have h1 := h.pagedEach (fun _ _ h => h.commitFresh) _ e
      split
      · exact .error
      · next x1 t1 e1 =>
          have h2 := h1.pagedEach (fun _ _ h => h.commitCopy) _ e1
          exact h2.pagedEach fun _ _ h => h.commitWrite

theorem Keeps.undoAppend {a : Append} (h : Keeps s₀ s) : KeepsOk s₀ (State.undoAppend a s) := by
  refine h.pagedEach fun e t h => ?_
  split
  · exact h.returnMoving
  · exact h.pushFrame

theorem Keeps.place {f i c : ℕ} (h : Keeps s₀ s) : Keeps s₀ (s.place f i c) := by
  unfold State.place
  dsimp only
  split
  · exact h
  · exact h.modList.modSeq

theorem Keeps.prepare {f i c : ℕ} (h : Keeps s₀ s) : KeepsOk s₀ (State.prepare f i c s) := by
  unfold State.prepare
  dsimp only
  split
  · exact .error
  · split
    · refine KeepsOk.ok ?_
      split
      · exact h.modRec.pageEvent.modSeq.modList
      · exact h.modRec.pageEvent.modSeq
    · split
      · exact .error
      · next x t x1 e =>
          have h1 : Keeps s₀ t := h.popFrames _ e
          split
          · split
            · exact .error
            · next x2 t1 e1 =>
                have h2 := h1.commitAppend _ e1
                exact KeepsOk.ok h2.place
          · split
            · exact .error
            · next x2 t1 e1 =>
                have h2 := h1.pagedEach (fun _ _ h => h.ftWrite) _ e1
                exact KeepsOk.ok (.modRec (.withPages h2 h2.pages.recs))

theorem Keeps.consider {f i : ℕ} {l : BrewList} (h : Keeps s₀ s) : KeepsOk s₀ (State.consider f i l s) := by
  unfold State.consider
  dsimp only
  split
  · exact KeepsOk.ok h
  · split
    · exact .error
    · exact KeepsOk.ok h.modList
    · split
      · exact .error
      · split
        · exact KeepsOk.ok h.modList
        · split
          · exact .error
          · next x t e =>
              have h1 := h.prepare _ e
              exact h1.feedPrefetch

theorem Keeps.stopList {f g : ℕ} (h : Keeps s₀ s) : Keeps s₀ (s.stopList f g) := by
  unfold State.stopList
  refine Keeps.stopService ?_
  split
  · exact h.modList
  · exact h

theorem Keeps.beginList {f : ℕ} {e : BitVec 16} (h : Keeps s₀ s) : Keeps s₀ (s.beginList f e) :=
  h.modList

theorem Keeps.brewLoop {f n : ℕ} (h : Keeps s₀ s) : Keeps s₀ (State.brewLoop f n s) := by
  induction n generalizing s with
  | zero => exact h
  | succ n ih =>
    unfold State.brewLoop
    split
    · exact h
    · split
      · exact h.modList
      · split
        · exact h
        · split
          · exact ih h.beginList
          · split
            · exact h
            · extract_lets t
              have ht : Keeps s₀ t := h.modList
              split
              · next u e => exact ih (ht.consider u e)
              · exact ht.stopList

theorem Keeps.brew {f : ℕ} (h : Keeps s₀ s) : Keeps s₀ (s.brew f) :=
  h.brewLoop

theorem Keeps.openList {f : ℕ} {cmd : CmdRef} (h : Keeps s₀ s) : Keeps s₀ (s.openList f cmd) :=
  .withSeqs ((h.modRec.each fun _ _ h1 => h1.modSeq).each fun _ _ h1 => h1.modSeq) ⟨(((h.modRec.each fun _ _ h1 => h1.modSeq).each fun _ _ h1 => h1.modSeq).seqs).seqs, ((((h.modRec.each fun _ _ h1 => h1.modSeq).each fun _ _ h1 => h1.modSeq).seqs).lists).tset, (((h.modRec.each fun _ _ h1 => h1.modSeq).each fun _ _ h1 => h1.modSeq).seqs).lookahead, (((h.modRec.each fun _ _ h1 => h1.modSeq).each fun _ _ h1 => h1.modSeq).seqs).ctx, (((h.modRec.each fun _ _ h1 => h1.modSeq).each fun _ _ h1 => h1.modSeq).seqs).destroying, (((h.modRec.each fun _ _ h1 => h1.modSeq).each fun _ _ h1 => h1.modSeq).seqs).preempting, (((h.modRec.each fun _ _ h1 => h1.modSeq).each fun _ _ h1 => h1.modSeq).seqs).restoring⟩

theorem Keeps.listOpenRow {q : Req} (h : Keeps s₀ s) : Keeps s₀ (listOpenRow q s).1 := by
  unfold Machine.listOpenRow
  dsimp only
  split
  · exact h
  · split
    · exact h
    · split
      · exact h
      · dsimp only
        exact h.openList.brew

theorem Keeps.endAppend {a : Append} (h : Keeps s₀ s) : KeepsOk s₀ (State.endAppend a s) := by
  have h1 : KeepsOk s₀ (if a.failed.isNone && !a.dropped then State.commitAppend a s else State.undoAppend a s) := by
    split
    · exact h.commitAppend
    · exact h.undoAppend
  unfold State.endAppend
  split
  · exact .error
  · next t e => exact (h1 t e).feedPrefetch

theorem Keeps.appendEnds {a : Append} (h : Keeps s₀ s) : Keeps s₀ (s.appendEnds a) := by
  unfold State.appendEnds
  extract_lets _ t
  have ht : Keeps s₀ t := .withPages h h.pages
  split
  · exact ht.stopList
  · next u e =>
    have hu := ht.endAppend u e
    split
    · exact hu
    · split
      · exact hu.place
      · extract_lets v
        have hv : Keeps s₀ v := hu.pageEvent
        refine Keeps.sharesDue ?_
        split
        · exact hv.modSeq
        · exact hv

theorem Keeps.copyDone {f : ℕ} (h : Keeps s₀ s) : Keeps s₀ (s.copyDone f) := by
  unfold State.copyDone
  dsimp only
  split
  · exact h
  · split
    · split
      · exact h
      · exact h.appendEnds.brew
    · split
      · split
        · exact .brew (.appendEnds (h.withMem h.mem.note))
        · exact h.withMem h.mem.note
      · split
        · exact .brew (.appendEnds (h.withMem h.mem.copyFrame))
        · exact h.withMem h.mem.copyFrame

theorem Keeps.lookahead {f : ℕ} {e : BitVec 16} (h : Keeps s₀ s) : Keeps s₀ (s.lookahead f e).1 := by
  unfold State.lookahead
  split
  · exact h
  · dsimp only
    exact h.stopList

theorem Keeps.listWrite {f : ℕ} {l : List (ℕ × ℕ)} {bs : List Byte} (h : Keeps s₀ s) : Keeps s₀ (State.listWrite f l bs s).1 := by
  induction l generalizing bs s with
  | nil => exact h
  | cons x l ih =>
    unfold State.listWrite
    split
    · exact ih h.writePhys
    · exact ih h

theorem Keeps.prefetchFor {f : ℕ} {look : List ℕ} (h : Keeps s₀ s) : KeepsOk s₀ (State.prefetchFor f look s) := by
  unfold State.prefetchFor
  dsimp only
  split
  · exact .error
  · exact Keeps.feedPrefetch h

theorem Keeps.listBuilt {f : ℕ} (h : Keeps s₀ s) : Keeps s₀ (s.listBuilt f) := by
  unfold State.listBuilt
  extract_lets t
  have ht : Keeps s₀ t := h.brew
  clear_value t
  split
  · exact ht
  · split
    · exact ht
    · extract_lets y u look l w _ b v x
      have hw : Keeps s₀ w.1 := ht.lookahead.listWrite
      have hb : SeqKeeps s₀.seqs b := hw.seqs.modList
      have hv : Keeps s₀ v :=
        hw.withSeqs ⟨hb.seqs, hb.lists, hw.seqs.lookahead.tset, hb.ctx, hb.destroying, hb.preempting, hb.restoring⟩
      have hx : Keeps s₀ x := hv.complete
      clear_value x
      split
      · exact hx.paged fun _ h => h.prefetchFor
      · exact hx

theorem Keeps.listCopy {f src dst : ℕ} {l : List (ℕ × ℕ)} (h : Keeps s₀ s) : Keeps s₀ (State.listCopy f src dst l s).1 := by
  induction l generalizing s with
  | nil => exact h
  | cons x l ih =>
    unfold State.listCopy
    split
    · exact ih h
    · split
      · exact ih (h.withMem h.mem.note)
      · exact ih h.listWrite

theorem Keeps.listEvent {f kind : ℕ} {epoch : BitVec 16} {freed : ℕ} {e : Args} (h : Keeps s₀ s) : Keeps s₀ (s.listEvent f kind epoch freed e) :=
  h.event

theorem Keeps.listReleased {f : ℕ} (h : Keeps s₀ s) : Keeps s₀ (s.listReleased f) := by
  unfold State.listReleased
  dsimp only
  split
  · exact h
  · split
    · exact h
    · exact h.listCopy.modList.rouse.addHub.listEvent

theorem Keeps.listCloseRow {q : Req} (h : Keeps s₀ s) : Keeps s₀ (listCloseRow q s).1 := by
  unfold Machine.listCloseRow
  dsimp only
  split
  · exact h
  · split
    · exact h
    · split
      · exact h
      · dsimp only
        exact h.modList

theorem Keeps.unlist {f : ℕ} {e : BitVec 16} (h : Keeps s₀ s) : Keeps s₀ (s.unlist f e) :=
  h.each fun _ _ h1 => h1.modSeq.freeSeq

theorem Keeps.listRetired {f : ℕ} (h : Keeps s₀ s) : Keeps s₀ (s.listRetired f) := by
  unfold State.listRetired
  split
  · exact h
  · split
    · exact h
    · extract_lets _ t w u freed v _ x y
      have ht : Keeps s₀ t :=
        .modRec (h.withSeqs ⟨h.seqs.seqs, h.seqs.lists.tset, h.seqs.lookahead, h.seqs.ctx, h.seqs.destroying, h.seqs.preempting, h.seqs.restoring⟩)
      have hw : KeepsOkFst s₀ w := by
        unfold w
        split
        · exact ht.sweep
        · exact .ok ht
      have hu : Keeps s₀ u := by
        unfold u
        clear_value w
        split
        · exact hw _ rfl
        · exact ht.stopService
      have hv : Keeps s₀ v := hu.unlist.sharesDue
      have hx : Keeps s₀ x := .withPages hv hv.pages
      have hy : Keeps s₀ y := by
        unfold y
        split
        · exact hx.paged fun _ h => h.feedPrefetch
        · exact hx
      exact hy.listEvent

theorem Keeps.loadAdd {l : TableLoad} (h : Keeps s₀ s) : Keeps s₀ (s.loadAdd l) := by
  unfold State.loadAdd
  split
  · exact h.addCtr
  · exact h

theorem Keeps.loadRow {bytes : ℕ} {q : Req} {enter : List Byte → State → State} (h : Keeps s₀ s)
    (henter : ∀ x t, Keeps s₀ t → Keeps s₀ (enter x t)) : Keeps s₀ (loadRow bytes q s enter).1 := by
  unfold Machine.loadRow
  split
  · exact h.noteBad
  · exact henter _ _ h

theorem Keeps.rejectLoad {l : TableLoad} (h : Keeps s₀ s) : Keeps s₀ (s.rejectLoad l) := by
  unfold State.rejectLoad
  split
  · exact h
  · exact h.complete

theorem Keeps.rejectLoads (h : Keeps s₀ s) : Keeps s₀ s.rejectLoads :=
  .each h fun _ _ h1 => h1.rejectLoad

theorem CoresKeeps.shadow {m₀ m : CoresState} {l : TableLoad} {g : CaddySlot → CaddySlot} (h : CoresKeeps m₀ m) : CoresKeeps m₀ (m.shadow l g) :=
  h.each fun _ _ h1 => h1.setCore

theorem CoresKeeps.startLoad {m₀ m : CoresState} {f slot : ℕ} (h : CoresKeeps m₀ m) : CoresKeeps m₀ (m.startLoad f slot) := by
  unfold CoresState.startLoad
  split
  · exact h
  · exact h.shadow

theorem Keeps.caddyRow {q : Req} (h : Keeps s₀ s) : Keeps s₀ (caddyRow q s).1 :=
  h.loadRow fun _ _ h => .withCores h (.startLoad h.cores)

theorem Keeps.shadowPending {f : ℕ} (h : Keeps s₀ s) : Keeps s₀ (s.shadowPending f) := by
  unfold State.shadowPending
  dsimp only
  split
  · exact h
  · exact .withCores (.complete (.loadAdd (.withCores h ⟨h.cores.shadow.cores, h.cores.shadow.spad, h.cores.shadow.acc⟩))) (.startLoad (Keeps.cores (.complete (.loadAdd (.withCores h ⟨h.cores.shadow.cores, h.cores.shadow.spad, h.cores.shadow.acc⟩)))))

theorem Keeps.codeRow {q : Req} (h : Keeps s₀ s) : Keeps s₀ (codeRow q s).1 :=
  h.loadRow fun _ _ h => .withCores h h.cores

theorem Keeps.codeInForce {f : ℕ} (h : Keeps s₀ s) : Keeps s₀ (s.codeInForce f) := by
  unfold State.codeInForce
  dsimp only
  split
  · exact h
  · split
    · exact .complete (.loadAdd h)
    · exact h

theorem ShareKeeps.newFrame {m₀ m : ShareState} {n t : ℕ} {hot : ℕ → Bool} (h : ShareKeeps m₀ m) : ShareKeeps m₀ (m.newFrame n t hot) :=
  each_induct (P := ShareKeeps m₀) (fun _ _ h => h.apply) h

theorem Keeps.cadence (h : Keeps s₀ s) : Keeps s₀ s.cadence :=
  h.upTo.withShare h.upTo.share.newFrame

theorem Keeps.modStem {e : ℕ} {f : StemEngine → StemEngine} (h : Keeps s₀ s) : Keeps s₀ (s.modStem e f) :=
  h.withStems h.stems.tset

theorem Keeps.modStemRun {e : ℕ} {f : StemRun → StemRun} (h : Keeps s₀ s) : Keeps s₀ (s.modStemRun e f) :=
  h.modStem

theorem Keeps.stemPostRow {q : Req} (h : Keeps s₀ s) : Keeps s₀ (stemPostRow q s).1 := by
  unfold Machine.stemPostRow
  dsimp only
  split
  · exact h
  · split
    · exact h
    · dsimp only
      exact h.modStem

theorem Keeps.stemResumeRow {q : Req} (h : Keeps s₀ s) : Keeps s₀ (stemResumeRow q s).1 := by
  unfold Machine.stemResumeRow
  dsimp only
  split
  · exact h
  · dsimp only
    exact h.modStem

theorem Keeps.stemEntry {e f : ℕ} {x : StemEnd} (h : Keeps s₀ s) : Keeps s₀ (s.stemEntry e f x) :=
  h.post

theorem Keeps.someWritten {f : ℕ} {l : List (ℕ × List Byte)} (h : Keeps s₀ s) : Keeps s₀ (s.someWritten f l) :=
  h.withFreeCtr.foldl fun _ _ h1 => h1.writePhys

theorem Keeps.stemFails {e : ℕ} {r : StemRun} {status reason address : ℕ} (h : Keeps s₀ s) : Keeps s₀ (s.stemFails e r status reason address) :=
  h.someWritten.modStem.stemEntry

theorem Keeps.stemBad {e : ℕ} {r : StemRun} {b : ℕ × Args} (h : Keeps s₀ s) : Keeps s₀ (s.stemBad e r b) :=
  h.noteBad.stemFails

theorem Keeps.readRows {e : ℕ} {l : List ℕ} (h : Keeps s₀ s) : Keeps s₀ (State.readRows e l s) := by
  induction l generalizing s with
  | nil => exact h.modStemRun
  | cons x l ih =>
    unfold State.readRows
    split
    · exact h
    · split
      · split
        · exact h.stemBad
        · exact ih h.modStemRun
      · exact h.modStemRun

theorem Keeps.readCount {e : ℕ} {r : StemRun} (h : Keeps s₀ s) : Keeps s₀ (s.readCount e r) := by
  unfold State.readCount
  dsimp only
  split
  · exact h.modStemRun
  · split
    · exact h.stemBad
    · exact h.modStemRun

theorem Keeps.detGo {e : ℕ} {r : StemRun} (h : Keeps s₀ s) : Keeps s₀ (s.detGo e r) := by
  unfold State.detGo
  dsimp only
  split
  · exact h.modStemRun
  · exact h.readCount

theorem Keeps.stemBegin {e : ℕ} {r : StemRun} (h : Keeps s₀ s) : Keeps s₀ (s.stemBegin e r) := by
  unfold State.stemBegin
  dsimp only
  split
  · exact h.modStem.detGo
  · split
    · split
      · exact h.modStem.stemBad
      · exact h.modStem.modStemRun.readRows
    · exact h.modStem.readRows

theorem Keeps.stemStart {e : ℕ} (h : Keeps s₀ s) : Keeps s₀ (s.stemStart e) := by
  unfold State.stemStart
  dsimp only
  split
  · exact h
  · split
    · exact h
    · split
      · exact h.modStem.stemEntry
      · exact h.modStem.stemBegin

theorem Keeps.rowWaitMet {e : ℕ} (h : Keeps s₀ s) : Keeps s₀ (s.rowWaitMet e) := by
  unfold State.rowWaitMet
  split
  · exact h
  · split
    · exact h
    · exact h.readRows

theorem Keeps.stemRowDone {e : ℕ} (h : Keeps s₀ s) : Keeps s₀ (s.stemRowDone e) := by
  unfold State.stemRowDone
  dsimp only
  split
  · exact h
  · split
    · exact h
    · split
      · exact h.stemBad
      · split
        · exact h.stemBad
        · refine Keeps.rowWaitMet ?_
          refine Keeps.modStemRun ?_
          split
          · exact h.engineWrite.addCtr
          · exact h.engineWrite

theorem Keeps.stemEnds {e : ℕ} {r : StemRun} {x : StemEnd} (h : Keeps s₀ s) : Keeps s₀ (s.stemEnds e r x) := by
  unfold State.stemEnds
  dsimp only
  split
  · exact h.modStem.stemEntry
  · exact h.modStem

theorem Keeps.stemDone {e : ℕ} (h : Keeps s₀ s) : Keeps s₀ (s.stemDone e) := by
  unfold State.stemDone
  dsimp only
  split
  · exact h
  · split
    · split
      · exact h
      · split
        · exact h.stemBad
        · split
          · exact h.stemBad
          · refine Keeps.stemEnds ?_
            split
            · exact h.engineWrite.addCtr
            · exact h.engineWrite
    · split
      · exact h.stemEnds
      · exact h

theorem Keeps.stemTimedOut {e : ℕ} (h : Keeps s₀ s) : Keeps s₀ (s.stemTimedOut e) := by
  unfold State.stemTimedOut
  dsimp only
  split
  · exact h
  · split
    · exact h
    · exact h.upTo.stemFails

theorem Keeps.stemFlr {f e : ℕ} (h : Keeps s₀ s) : Keeps s₀ (State.stemFlr f s e) := by
  unfold State.stemFlr
  dsimp only
  split
  · exact h.modStem
  · split
    · exact h.modStem.someWritten.modStem
    · exact h.modStem

theorem CtlKeeps.flr {m₀ m : CtlState} {f : ℕ} (h : CtlKeeps m₀ m) : CtlKeeps m₀ (m.flr f) :=
  ⟨h.mailbox.filter, h.rings.tset⟩

theorem Keeps.flrNamed {f : ℕ} (h : Keeps s₀ s) : Keeps s₀ (s.flrNamed f) := by
  unfold State.flrNamed
  split
  · exact h
  · exact h.each fun a t h1 => h1.complete

theorem SeqKeeps.flr {m₀ m : SeqState} {f : ℕ} (h : SeqKeeps m₀ m) : SeqKeeps m₀ (m.flr f) :=
  ⟨h.seqs.each fun _ _ h1 => h1.tset, h.lists.tset, h.lookahead.tset, h.ctx, h.destroying.tset, h.preempting.tset, h.restoring.tset⟩

theorem PageKeeps.flr {m₀ m : PageState} {f : ℕ} (h : PageKeeps m₀ m) : PageKeeps m₀ (m.flr f) :=
  h.recs.tset

theorem CoresKeeps.flr {m₀ m : CoresState} {f : ℕ} (h : CoresKeeps m₀ m) : CoresKeeps m₀ (m.flr f) :=
  ⟨h.mapCores.cores, h.mapCores.spad, h.mapCores.acc⟩

theorem Keeps.descCut {ch : ChannelIx} {f : ℕ} {q : QDesc} (h : Keeps s₀ s) : Keeps s₀ (s.descCut ch f q) := by
  unfold State.descCut
  dsimp only
  split
  · exact h
  · split
    · exact (h.withMem (h.mem.foldl fun a a1 h1 => h1.moverStore)).withFreeCtr
    · split
      · exact h.withFreeCtr.toHost
      · exact h.withFreeCtr.foldl fun t a h1 => h1.writePhys
    · exact h

theorem Keeps.queueCut {ch : ChannelIx} {f : ℕ} (h : Keeps s₀ s) : Keeps s₀ (s.queueCut ch f) :=
  (h.each fun _ _ h1 => h1.descCut).setQueue

theorem Keeps.flrBegin {f : ℕ} (h : Keeps s₀ s) : Keeps s₀ (State.flrBegin f s) := by
  unfold State.flrBegin
  split
  · exact h
  · extract_lets _ t u v w x y
    have hu : Keeps s₀ u := (h.withHost h.host.setFn).flrNamed
    have hv : Keeps s₀ v := ((((hu.withCtl hu.ctl.flr).withSeqs hu.seqs.flr).withPages hu.pages.flr).withCores hu.cores.flr).unrouse
    have hw : Keeps s₀ w := hv.queueCut.queueCut
    have hx : Keeps s₀ x := (hw.withMem hw.mem.filled).flrFabric
    have hy : Keeps s₀ y := hx.withCodecs (hx.codecs.each fun _ _ h => h.tset)
    exact Keeps.nextQuote (hy.each fun _ _ h => h.stemFlr)

theorem Keeps.vfsClear (h : Keeps s₀ s) : Keeps s₀ s.vfsClear :=
  .withHost (h.each fun _ _ h1 => h1.flrBegin) ⟨((h.each fun _ _ h1 => h1.flrBegin).host).memory, ((h.each fun _ _ h1 => h1.flrBegin).host).fns⟩

theorem Keeps.flrNext (h : Keeps s₀ s) : Keeps s₀ s.flrNext := by
  unfold State.flrNext
  dsimp only
  split
  · exact h
  · split
    · exact h
    · exact .flrBegin h

theorem Keeps.flrStart {f : ℕ} (h : Keeps s₀ s) : Keeps s₀ (s.flrStart f) := by
  unfold State.flrStart
  dsimp only
  split
  · exact h
  · split
    · exact .flrNext h
    · exact h.flrBegin

theorem Keeps.flrLimit {f c : ℕ} (h : Keeps s₀ s) : Keeps s₀ (s.flrLimit f c) := by
  unfold State.flrLimit
  split
  · split
    · exact h.endAt.modRun
    · exact h
  · exact h

theorem Keeps.orphan {f : ℕ} (h : Keeps s₀ s) : Keeps s₀ (s.orphan f) := by
  unfold State.orphan
  dsimp only
  split
  · exact h
  · refine Keeps.tableMet ?_
    refine (h.withMem (h.mem.each fun a a1 h1 => h1.ftMod)).withHost ?_
    split
    · exact h.host
    · exact h.host.setFn

theorem PageKeeps.empty {m₀ m : PageState} {f : ℕ} (h : PageKeeps m₀ m) : PageKeeps m₀ (m.empty f) :=
  h.recs.tset

theorem Keeps.unsealAll {f : ℕ} (h : Keeps s₀ s) : Keeps s₀ (s.unsealAll f) := by
  unfold State.unsealAll
  extract_lets mine t
  have ht : Keeps s₀ t := h.each fun i t ht => by
    split
    · exact ht.sealRemoved
    · exact ht.withMem ht.mem.unseal
  exact .withMem ht ht.mem

theorem Keeps.flrEnd {f : ℕ} (h : Keeps s₀ s) : Keeps s₀ (s.flrEnd f) := by
  unfold State.flrEnd
  extract_lets r t cores u v w x
  have ht : Keeps s₀ t := h.setCtx.scrubAllot
  have hc : CoresKeeps s₀.cores cores := ht.cores.emptySlots
  have hu : Keeps s₀ u := .withCores ht hc
  have hv : Keeps s₀ v := (hu.withPages hu.pages.empty).orphan
  have hw : Keeps s₀ w := hv.unsealAll
  have hx : Keeps s₀ x := hw.withCtl hw.ctl.setRing
  have hh : HostKeeps s₀.host (x.host.setFn f (x.host.fn f).afterFlr) := hx.host.setFn
  exact Keeps.flrNext (.withHost hx hh)

theorem Keeps.vfEnable {num : ℕ} (h : Keeps s₀ s) : Keeps s₀ (s.vfEnable num) := by
  refine h.configure fun t h => ?_
  split
  · exact h.vfsClear
  · split
    · exact .withHost h h.host
    · exact h

theorem ResetKeeps.loadTrim {m₀ m : ResetState} (h : ResetKeeps m₀ m) : ResetKeeps m₀ m.loadTrim := by
  unfold ResetState.loadTrim
  split
  · exact h
  · exact h

theorem ResetKeeps.takeBank {m₀ m : ResetState} (h : ResetKeeps m₀ m) : ResetKeeps m₀ m.takeBank := by
  unfold ResetState.takeBank
  split
  · exact h
  · exact h

theorem ResetKeeps.startWrite {m₀ m : ResetState} (h : ResetKeeps m₀ m) : ResetKeeps m₀ m.startWrite :=
  h.norErase.nor

theorem ResetKeeps.written {m₀ m : ResetState} {w : TandemWrite} (h : ResetKeeps m₀ m) : ResetKeeps m₀ (m.written w) := by
  have hn : ResetKeeps m₀ (m.norWrite (bankBase w.bankB) (bankBytes w.sequence.toNat w.config.body)) := h.norWrite
  unfold ResetState.written
  generalize m.norWrite (bankBase w.bankB) (bankBytes w.sequence.toNat w.config.body) = n at hn ⊢
  exact hn

theorem Keeps.writeDone {good : Bool} (h : Keeps s₀ s) : Keeps s₀ (s.writeDone good) := by
  unfold State.writeDone
  dsimp only
  split
  · exact h
  · split
    · exact h.withRst h.rst.written
    · split
      · exact h
      · exact .spareOut h

theorem SecKeeps.restart {m₀ m : SecState} (h : SecKeeps m₀ m) : SecKeeps m₀ m.restart :=
  ⟨h.lcFuses, h.svn, h.identitySeed, h.identityRoot, h.ownerSeed, h.lifecycle, fun _ => Nat.zero_le _, fun _ _ hx => nomatch hx⟩

theorem ResetKeeps.restart {m₀ m : ResetState} {now : ℕ} (h : ResetKeeps m₀ m) : ResetKeeps m₀ (m.restart now) :=
  h

theorem MemKeeps.empty {m₀ : MemState} : MemKeeps m₀ {} := ⟨.nil, .nil, .nil⟩

theorem Keeps.systemReset (h : Keeps s₀ s) : Keeps s₀ s.systemReset := by
  unfold State.systemReset
  extract_lets t
  have ht : Keeps s₀ t := h.cutTransition
  have hm : MemKeeps s₀.mem (if t.clocks.thermtrip then { selfRefresh := true, cells := t.mem.cells, ue := t.mem.ue } else {}) := by
    split
    · exact ⟨ht.mem.cells, .nil, .nil⟩
    · exact .empty
  exact ⟨ht.pending, hm, ⟨.nil, .nil⟩, ⟨.nil, .nil, .nil⟩, TabKeeps.nil, ⟨.nil, .nil, .nil, .nil, .nil, .nil, .nil⟩, ⟨.nil, .nil, .nil, .nil, .nil⟩,
    .nil, .nil, ⟨.nil, .nil⟩, ⟨ht.host.memory, .nil⟩, ⟨.nil, ht.clocks.stackNow, .nil, ht.clocks.junctionNow, .nil⟩, ht.rst.restart, ht.sec.restart, ⟨.nil, .nil⟩⟩

theorem Keeps.powerOnReset (h : Keeps s₀ s) : Keeps s₀ s.powerOnReset := by
  unfold State.powerOnReset
  extract_lets t
  have ht : Keeps s₀ t := h.systemReset
  have hclk : ClockKeeps s₀.clocks t.clocks := ht.clocks
  have hrst : ResetKeeps s₀.rst t.rst := ht.rst
  exact .withSvc (.withRst (.withClocks (.withMem ht .empty) hclk) hrst) ⟨.nil, .nil⟩

theorem CtlKeeps.coreReset {m₀ m : CtlState} {now : ℕ} (h : CtlKeeps m₀ m) : CtlKeeps m₀ (CtlState.coreReset now m) :=
  ⟨h.mailbox, h.rings.each fun _ _ h1 => h1.tset⟩

theorem SeqKeeps.coreReset {m₀ m : SeqState} (h : SeqKeeps m₀ m) : SeqKeeps m₀ m.coreReset :=
  ⟨h.seqs.each fun _ _ h1 => h1.tset, .nil, .nil, h.ctx.each fun _ _ h1 => h1.tset, .nil, .nil, .nil⟩

theorem PageKeeps.coreReset {m₀ m : PageState} (h : PageKeeps m₀ m) : PageKeeps m₀ m.coreReset :=
  h.recs.each fun _ _ h1 => h1.tset

theorem ShareKeeps.coreReset {m₀ m : ShareState} {now : ℕ} (_ : ShareKeeps m₀ m) : ShareKeeps m₀ (m.coreReset now) :=
  ⟨.nil, .nil⟩

theorem CoresKeeps.coreReset {m₀ m : CoresState} {kept : ℕ → Bool} (h : CoresKeeps m₀ m) : CoresKeeps m₀ (m.coreReset kept) :=
  ⟨h.cores.each fun _ _ h1 => h1.tset, .nil, .nil⟩

theorem Keeps.queueReset {ch : ChannelIx} {f : ℕ} (h : Keeps s₀ s) : Keeps s₀ (s.queueReset ch f) := by
  unfold State.queueReset
  dsimp only
  split
  · exact (h.each fun a t h1 => h1.descCut).setQueue
  · exact h

theorem Keeps.stemReset {e : ℕ} (h : Keeps s₀ s) : Keeps s₀ (State.stemReset e s) := by
  unfold State.stemReset
  refine Keeps.modStem ?_
  split
  · exact h.someWritten
  · exact h

theorem Keeps.coreResetNow {lockup : Bool} (h : Keeps s₀ s) : Keeps s₀ (s.coreResetNow lockup) := by
  unfold State.coreResetNow
  extract_lets t u
  have ht : Keeps s₀ t := h.each fun _ _ h => h.queueReset.queueReset
  have hu : Keeps s₀ u := ht.each fun _ _ h => h.stemReset
  clear_value u
  refine ⟨hu.pending, hu.mem, hu.share.coreReset, hu.cores.coreReset, hu.pages.coreReset, hu.seqs.coreReset, hu.fabric.coreReset, hu.codecs, hu.stems,
    hu.ctl.coreReset, hu.host, hu.clocks, hu.rst, hu.sec, hu.svc.errs, ?_⟩
  exact hu.svc.spares.each fun _ _ h => h.tset

theorem Keeps.take {level : ResetLevel} {fault lockup : Bool} (h : Keeps s₀ s) : Keeps s₀ (s.take level fault lockup) := by
  unfold State.take
  split
  · exact h
  · extract_lets t
    have ht : Keeps s₀ t := by
      unfold t
      split
      · exact h.coreResetNow
      · exact h.systemReset
      · exact h.powerOnReset
    split
    · exact .withRst ht ht.rst
    · exact ht

theorem Keeps.source {level : ResetLevel} {cause : ℕ} {fault lockup : Bool} (h : Keeps s₀ s) : Keeps s₀ (s.source level cause fault lockup) := by
  unfold State.source
  dsimp only
  split
  · exact .take h
  · exact h

theorem Keeps.softwareReset (h : Keeps s₀ s) : Keeps s₀ s.softwareReset := by
  unfold State.softwareReset
  dsimp only
  split
  · exact h
  · exact .source (.upTo h)

theorem Keeps.vaoLost (h : Keeps s₀ s) : Keeps s₀ s.vaoLost :=
  .withRst (.withClocks h.powerOnReset ⟨h.powerOnReset.clocks.dies, h.powerOnReset.clocks.stackNow, h.powerOnReset.clocks.stackHeld, h.powerOnReset.clocks.junctionNow, h.powerOnReset.clocks.junctionHeld⟩) h.powerOnReset.rst.nor

theorem MemKeeps.railLost {m₀ m : MemState} {r : ℕ} (h : MemKeeps m₀ m) : MemKeeps m₀ (m.railLost r) := by
  unfold MemState.railLost
  split
  · exact ⟨.nil, h.movers, h.hostq⟩
  · exact h

theorem Keeps.lockup (h : Keeps s₀ s) : Keeps s₀ s.lockup := by
  unfold State.lockup
  split
  · exact h
  · split
    · exact h.source
    · exact h.source

theorem MemKeeps.retireStored {m₀ m : MemState} {t : TandemConfig} (h : MemKeeps m₀ m) : MemKeeps m₀ (m.retireStored t) :=
  h

theorem SvcKeeps.linkStored {m₀ m : SvcState} {t : TandemConfig} {defaulted : Bool} (h : SvcKeeps m₀ m) : SvcKeeps m₀ (m.linkStored t defaulted) := by
  refine each_induct (P := SvcKeeps m₀) (fun e v hv => ?_) h
  split
  · exact hv
  · extract_lets w
    have hw : SvcKeeps m₀ w := by
      unfold w
      split
      · exact hv
      · exact hv
    split
    · exact hw
    · exact hw

theorem Keeps.releaseCores {core : Bool} {cl : ℕ} (h : Keeps s₀ s) : Keeps s₀ (s.releaseCores core cl) := by
  unfold State.releaseCores
  dsimp only
  split
  · exact h.retarget
  · exact .retarget (.withSvc h h.svc.modSpares)

theorem Keeps.startTime (h : Keeps s₀ s) : Keeps s₀ s.startTime :=
  .withNow h

theorem Keeps.bootDestroys (h : Keeps s₀ s) : Keeps s₀ s.bootDestroys := by
  unfold State.bootDestroys
  split
  · exact h.enterReturn
  · split
    · exact h.enterRetired
    · exact h

theorem lcState_le (fuses : ℕ) : lcState fuses ≤ 4 := by
  unfold lcState
  extract_lets g n
  split
  · exact (List.takeWhile_sublist _).length_le.trans (by simp [g])
  · exact Nat.le_refl _

theorem Keeps.stepAct {core : Bool} {n : ℕ} (h : Keeps s₀ s) : Keeps s₀ (s.stepAct core n) := by
  unfold State.stepAct
  split
  · have hl : (BitVec.ofNat 3 (lcState s.sec.lcFuses.toNat)).toNat ≤ 4 := (Nat.mod_le _ _).trans (lcState_le _)
    have hsec : SecKeeps s₀.sec (s.stepAct core 2).sec :=
      ⟨h.sec.lcFuses, h.sec.svn, h.sec.identitySeed, h.sec.identityRoot, h.sec.ownerSeed, fun _ => hl, h.sec.log, h.sec.attKey⟩
    exact .withRst (h.withSec hsec) h.rst
  · exact h.startTime
  · exact .withSec h h.sec
  · split
    · exact .withRst h h.rst
    · exact h.bootDestroys
  · exact h.withMem h.mem.retireStored
  · exact h.withSvc h.svc.linkStored
  · exact .withHost h h.host
  · exact h

theorem Keeps.coreReleased (h : Keeps s₀ s) : Keeps s₀ s.coreReleased :=
  h

theorem Keeps.stepCores {core : Bool} {c : ResetNow} (h : Keeps s₀ s) : Keeps s₀ (s.stepCores core c) := by
  unfold State.stepCores
  split
  · exact h.releaseCores
  · split
    · exact h.releaseCores
    · exact h

theorem Keeps.releaseStep (h : Keeps s₀ s) : Keeps s₀ s.releaseStep := by
  unfold State.releaseStep
  split
  · exact h
  · split
    · exact .withRst h h.rst
    · split
      · exact h
      · extract_lets core t _ u v _ w
        have ht : Keeps s₀ t := h.upTo
        have hu : Keeps s₀ u := .withRst ht ht.rst
        have hv : Keeps s₀ v := hu.stepAct.stepCores
        have hw : Keeps s₀ w := .withRst hv hv.rst
        split
        · exact hw.coreReleased
        · exact hw

theorem Keeps.filledTier {t : FillDone} (h : Keeps s₀ s) : Keeps s₀ (s.filledTier t) := by
  unfold State.filledTier
  dsimp only
  split
  · exact h
  · split
    · exact h
    · split
      · exact h
      · exact h

theorem Keeps.measureBoot (h : Keeps s₀ s) : Keeps s₀ s.measureBoot := by
  unfold State.measureBoot
  split
  · exact h
  · extract_lets m trim
    have hm {c : SecState} {kind : ℕ} {d : List Byte} (hc : SecKeeps s₀.sec c) : SecKeeps s₀.sec (m kind d c) := hc.measure
    exact .withSec h (hm (hm (hm (hm h.sec))))

theorem Keeps.answerStale (h : Keeps s₀ s) : Keeps s₀ s.answerStale :=
  .withCtl (h.each fun _ _ h1 => h1.answer) ⟨((h.each fun _ _ h1 => h1.answer).ctl).mailbox, ((h.each fun _ _ h1 => h1.answer).ctl).rings⟩

theorem Keeps.resetDone (h : Keeps s₀ s) : Keeps s₀ s.resetDone :=
  h.each fun _ _ h1 => h1.event

theorem Keeps.runFirmware {k : ℕ} (h : Keeps s₀ s) : Keeps s₀ (s.runFirmware k) :=
  .answerStale (.withSec (.withRst h.measureBoot h.measureBoot.rst.nor) h.measureBoot.sec.measure)

theorem Keeps.recover (h : Keeps s₀ s) : Keeps s₀ s.recover :=
  h.measureBoot

theorem Keeps.bootVerified (h : Keeps s₀ s) : Keeps s₀ s.bootVerified := by
  unfold State.bootVerified
  split
  · exact h
  · split
    · exact h.recover
    · split
      · split
        · exact h.runFirmware.resetDone
        · exact h.runFirmware
      · exact h

theorem Keeps.sendHeld {f : ℕ} (h : Keeps s₀ s) : Keeps s₀ (s.sendHeld f) :=
  h.drainEvents.withHost h.drainEvents.host.flushPending

theorem Keeps.configWrite {f v : ℕ} {r : ConfigReg} (h : Keeps s₀ s) : Keeps s₀ (s.configWrite f v r) := by
  unfold State.configWrite
  split
  · extract_lets x
    split
    · exact h
    · split
      · exact h.withHost h.host.setFn
      · exact h.withHost h.host.setFn
  · split
    · exact h
    · split
      · exact .withHost h ⟨h.host.memory, h.host.fns⟩
      · exact .withHost h ⟨h.host.memory, h.host.fns⟩
  · exact (h.withHost h.host.setFn).sendHeld
  · split
    · exact .withHost h ⟨h.host.memory, h.host.fns⟩
    · exact h
  · exact h.withHost h.host.setFn
  · exact h.withHost h.host.setFn
  · exact h.withHost h.host.setFn
  · exact h.withHost h.host.setFn
  · exact h.withHost h.host.setFn
  · split
    · exact .withHost h ⟨h.host.memory, h.host.fns⟩
    · exact h
  · exact h.withHost h.host.setFn
  · exact h.withHost h.host.setFn
  · exact h.withHost h.host.setFn.flushPending
  · exact h.withHost h.host.setFn
  · split
    · split
      · exact h.withHost h.host.setFn
      · exact h
    · exact h
  · split
    · split
      · exact h.withHost (each_induct (P := HostKeeps s₀.host) (fun _ _ h => h.setFn) h.host)
      · exact h
    · exact h
  all_goals exact h

theorem Keeps.readWord {f : ℕ} {wide : Bool} {o : ℕ} (h : Keeps s₀ s) : Keeps s₀ (s.readWord f wide o).1 := by
  unfold State.readWord
  dsimp only
  split
  · dsimp only
    exact h.withHost h.host.setFn
  · split
    · dsimp only
      exact h.withHost h.host.setFn
    · exact h

theorem Keeps.registerRead {f offset : ℕ} {wide : Bool} {enables : BitVec 8} (h : Keeps s₀ s) : Keeps s₀ (s.registerRead f offset wide enables) := by
  unfold State.registerRead
  dsimp only
  split
  · split
    · exact h
    · exact .withHost h.readWord ⟨h.readWord.host.memory, h.readWord.host.fns⟩
  · split
    · exact h
    · exact .withHost h.readWord ⟨h.readWord.host.memory, h.readWord.host.fns⟩

theorem Keeps.configRead {f : ℕ} {r : ConfigReg} {enables : BitVec 8} (h : Keeps s₀ s) : Keeps s₀ (s.configRead f r enables) :=
  h

theorem Keeps.registerWrite {f offset : ℕ} {enables : BitVec 8} {data : List Byte} (h : Keeps s₀ s) : Keeps s₀ (s.registerWrite f offset enables data) := by
  unfold State.registerWrite
  split
  · exact h
  · refine h.foldl fun t a h1 => ?_
    split
    · exact h1.wordWrite
    · split
      · exact h1.violation
      · exact h1

theorem Keeps.idle (h : Keeps s₀ s) : Keeps s₀ (idle s) :=
  h.withNow

theorem Keeps.withFetchWord {nbits w : ℕ} (h : Keeps s₀ s) : Keeps s₀ (s.withFetchWord nbits w) :=
  h


end

end Sys2Proof.Machine
end

section
/-! PROOFS. What no command undoes (O55 to O59): every command keeps it, and the obligations. -/

namespace Sys2Proof.Machine

section
variable {s₀ s t : State}

theorem Keeps.ite {p : Prop} [Decidable p] (hs : Keeps s₀ s) (ht : Keeps s₀ t) : Keeps s₀ (if p then s else t) := by
  split
  · exact hs
  · exact ht

/-- A read at the place a request names. -/
theorem Keeps.readAt {place : RegPlace} {f : Nat} {wide : Bool} {enables : BitVec 8} (h : Keeps s₀ s) :
    Keeps s₀ (match place with
      | .bar0 o => s.request f (fun s => s.registerRead f o wide enables)
      | .config r => s.configure f (fun s => s.configRead f r enables)) := by
  split
  · exact h.request fun _ h => h.registerRead
  · exact h.configure fun _ h => h.configRead

/-- A write at the place a request names. -/
theorem Keeps.writeAt {place : RegPlace} {f : Nat} {enables : BitVec 8} {data : List Byte} (h : Keeps s₀ s) :
    Keeps s₀ (match place with
      | .bar0 o => s.request f (fun s => s.registerWrite f o enables data)
      | .config r => s.configure f (fun s => s.configWrite f (mergedWord enables data (s.configWord f r)) r)) := by
  split
  · exact h.request fun _ h => h.registerWrite
  · exact h.configure fun _ h => h.configWrite

theorem Keeps.startQueue {ch : ChannelIx} {f : Nat} (h : Keeps s₀ s) :
    Keeps s₀ (match ch with
      | .collective => s
      | _ => s.descStart ch f) := by
  split
  · exact h
  · exact h.descStart

theorem Keeps.detectWait {e : Nat} (h : Keeps s₀ s) :
    Keeps s₀ (match (s.stem e).running with
      | none => s
      | some r => if stemKind r.desc = 3 && r.count.isNone then s.detGo e r else s) := by
  split
  · exact h
  · exact h.detGo.ite h

/-- The moment at which the reset of a transition of the life cycle is due. -/
theorem Keeps.dueReset (h : Keeps s₀ s) : Keeps s₀ ((s.sec.transitionResetAt.map s.upTo).getD s) := by
  cases s.sec.transitionResetAt with
  | none => exact h
  | some n => exact h.upTo

/-- Every command answers a next state, and keeps what `Keeps` says. -/
theorem exec_next (c : Instr) (h : Keeps s₀ s) : ∃ t, exec c s = .next t ∧ Keeps s₀ t := by
  cases c with
  | identify _ _ => exact ⟨_, rfl, h.serve fun _ _ h => h.identifyRow⟩
  | eventRingSet _ _ => exact ⟨_, rfl, h.serve fun _ _ h => h.ringRow⟩
  | gearRequest _ _ => exact ⟨_, rfl, h.serve fun _ _ h => h.gearRow⟩
  | envelopeSet _ _ => exact ⟨_, rfl, h.serve fun _ _ h => h.envelopeRow⟩
  | resetRequest _ _ => exact ⟨_, rfl, h.serve fun _ _ h => h.resetRow⟩
  | softwareResetStart => exact ⟨_, rfl, h.clocked fun _ h => h.softwareReset⟩
  | contextSet _ _ => exact ⟨_, rfl, h.serve fun _ _ h => h.contextSetRow⟩
  | contextDestroy _ _ => exact ⟨_, rfl, Keeps.destroyIdle (h.serve fun _ _ h => h.contextDestroyRow)⟩
  | contextDestroyDone _ => exact ⟨_, rfl, h.clocked fun _ h => h.destroyDone⟩
  | shareSet _ _ => exact ⟨_, rfl, h.serve fun _ _ h => h.shareSetRow⟩
  | shareChangeApplied _ _ => exact ⟨_, rfl, h.clocked fun _ h => h.shareApplied⟩
  | preempt _ _ => exact ⟨_, rfl, h.serve fun _ _ h => h.preemptRow⟩
  | preemptGraceExpired _ _ => exact ⟨_, rfl, h.clocked fun _ h => h.graceExpired⟩
  | saveStart _ => exact ⟨_, rfl, h.clocked fun _ h => h.saveStart⟩
  | saveDone _ => exact ⟨_, rfl, h.clocked fun _ h => h.saveDone⟩
  | restore _ _ => exact ⟨_, rfl, h.serve fun _ _ h => h.restoreRow⟩
  | restoreDone _ => exact ⟨_, rfl, h.clocked fun _ h => h.restoreDone⟩
  | mapSet _ _ => exact ⟨_, rfl, h.serve fun _ _ h => h.mapRow⟩
  | mapChangeComplete => exact ⟨_, rfl, h.clocked fun _ h => h.mapDone⟩
  | retire _ _ => exact ⟨_, rfl, h.serve fun _ _ h => h.retireRow⟩
  | retireComplete => exact ⟨_, rfl, h.clocked fun _ h => h.retireDone⟩
  | pannierFree _ _ => exact ⟨_, rfl, h.serve fun _ _ h => h.pannierFreeRow⟩
  | moverPost _ _ => exact ⟨_, rfl, h.serve fun _ _ h => h.postRow⟩
  | hostCopyPost _ _ => exact ⟨_, rfl, h.serve fun _ _ h => h.postRow⟩
  | queueResume _ _ => exact ⟨_, rfl, h.serve fun _ _ h => h.resumeRow⟩
  | sealCreate _ _ => exact ⟨_, rfl, h.serve fun _ _ h => h.sealRow⟩
  | sealRemove _ _ => exact ⟨_, rfl, h.serve fun _ _ h => h.unsealRow⟩
  | sealRemoveComplete _ => exact ⟨_, rfl, h.clocked fun _ h => h.sealRemoved⟩
  | xlateInvalidate _ _ => exact ⟨_, rfl, h.serve fun _ _ h => h.xlateRow⟩
  | blockPost _ _ => exact ⟨_, rfl, h.serve fun _ _ h => h.blockPostRow⟩
  | blockCancel _ _ => exact ⟨_, rfl, h.serve fun _ _ h => h.blockCancelRow⟩
  | stemPost _ _ => exact ⟨_, rfl, h.serve fun _ _ h => h.stemPostRow⟩
  | stemResume _ _ => exact ⟨_, rfl, h.serve fun _ _ h => h.stemResumeRow⟩
  | frameTablePlace _ _ => exact ⟨_, rfl, h.serve fun _ _ h => h.placeRow⟩
  | pageSetup _ _ => exact ⟨_, rfl, h.serve fun _ _ h => h.setupRow⟩
  | geometrySet _ _ => exact ⟨_, rfl, h.serve fun _ _ h => h.geometryRow⟩
  | waterSet _ _ => exact ⟨_, rfl, h.serve fun _ _ h => h.waterRow⟩
  | frameGrant _ _ => exact ⟨_, rfl, h.serve fun _ _ h => h.grantRow⟩
  | frameScrub _ _ => exact ⟨_, rfl, h.serve fun _ _ h => h.scrubRow⟩
  | frameScrubDone => exact ⟨_, rfl, h.clocked fun _ h => h.scrubbed⟩
  | pageReenable _ _ => exact ⟨_, rfl, h.serve fun _ _ h => h.reenableRow⟩
  | pageReenableDone _ => exact ⟨_, rfl, h.clocked fun _ h => h.reenabled⟩
  | seqCreate _ _ => exact ⟨_, rfl, h.serve fun _ _ h => h.createRow⟩
  | seqSet _ _ => exact ⟨_, rfl, h.serve fun _ _ h => h.seqRow fun _ _ _ h => h.setAct⟩
  | seqPark _ _ => exact ⟨_, rfl, h.serve fun _ _ h => h.seqRow fun _ _ _ h => h.modSeq⟩
  | seqResume _ _ => exact ⟨_, rfl, h.serve fun _ _ h => h.seqRow fun _ _ _ h => h.modSeq⟩
  | seqRetire _ _ => exact ⟨_, rfl, h.serve fun _ _ h => h.seqRow fun _ _ _ h => h.retireSeqAct⟩
  | pageShare _ _ => exact ⟨_, rfl, h.serve fun _ _ h => h.shareRow⟩
  | pageRelease _ _ => exact ⟨_, rfl, h.serve fun _ _ h => h.pageReleaseRow⟩
  | listOpen _ _ => exact ⟨_, rfl, h.serve fun _ _ h => h.listOpenRow⟩
  | listBuilt _ => exact ⟨_, rfl, h.clocked fun _ h => h.listBuilt⟩
  | listReleased _ => exact ⟨_, rfl, h.clocked fun _ h => h.listReleased⟩
  | listClose _ _ => exact ⟨_, rfl, h.serve fun _ _ h => h.listCloseRow⟩
  | listRetired _ => exact ⟨_, rfl, h.clocked fun _ h => h.listRetired⟩
  | cowCopyDone _ => exact ⟨_, rfl, h.clocked fun _ h => h.copyDone⟩
  | spillStart _ => exact ⟨_, rfl, h.clocked fun _ h => h.spillStart⟩
  | spillCopyDone _ => exact ⟨_, rfl, h.clocked fun _ h => h.spillDone⟩
  | prefetchCopyDone _ => exact ⟨_, rfl, h.clocked fun _ h => h.prefetchDone⟩
  | invalidationAcked _ => exact ⟨_, rfl, h.clocked fun _ h => h.acked⟩
  | caddyLoad _ _ => exact ⟨_, rfl, Keeps.rejectLoads (h.serve fun _ _ h => h.caddyRow)⟩
  | caddyShadowPending _ => exact ⟨_, rfl, h.clocked fun _ h => h.shadowPending⟩
  | codeTableLoad _ _ => exact ⟨_, rfl, Keeps.rejectLoads (h.serve fun _ _ h => h.codeRow)⟩
  | codeTableInForce _ => exact ⟨_, rfl, h.clocked fun _ h => h.codeInForce⟩
  | portControl _ _ => exact ⟨_, rfl, h.serve fun _ _ h => h.portControlRow⟩
  | deviceIdSet _ _ => exact ⟨_, rfl, h.serve fun _ _ h => h.deviceIdRow⟩
  | pelotonForm _ _ => exact ⟨_, rfl, Keeps.drainAll (h.serve fun _ _ h => h.formRow)⟩
  | pelotonReform _ _ => exact ⟨_, rfl, Keeps.drainAll (h.serve fun _ _ h => h.reformRow)⟩
  | pelotonDissolve _ _ => exact ⟨_, rfl, Keeps.drainAll (h.serve fun _ _ h => h.dissolveRow)⟩
  | collPost _ _ => exact ⟨_, rfl, h.serve fun _ _ h => h.collPostRow⟩
  | codecQuota _ _ => exact ⟨_, rfl, h.serve fun _ _ h => h.codecQuotaRow⟩
  | codecOpen _ _ => exact ⟨_, rfl, h.serve fun _ _ h => h.codecOpenRow⟩
  | codecClose _ _ => exact ⟨_, rfl, h.serve fun _ _ h => h.codecCloseRow⟩
  | codecContextFreed _ _ => exact ⟨_, rfl, h.clocked fun _ h => h.codecFreed⟩
  | codecPost _ _ => exact ⟨_, rfl, h.serve fun _ _ h => h.codecPostRow⟩
  | surfaceRelease _ _ => exact ⟨_, rfl, h.serve fun _ _ h => h.surfaceRow⟩
  | recordRead _ _ => exact ⟨_, rfl, h.serve fun _ _ h => h.recordReadRow⟩
  | recordClear _ _ => exact ⟨_, rfl, h.serve fun _ _ h => h.recordClearRow⟩
  | measurementRead _ _ => exact ⟨_, rfl, h.serve fun _ _ h => h.measurementRow⟩
  | quote _ _ => exact ⟨_, rfl, h.serve fun _ _ h => h.quoteRow⟩
  | certificateRead _ _ => exact ⟨_, rfl, h.serve fun _ _ h => h.certificateRow⟩
  | lifecycleAdvance _ _ => exact ⟨_, rfl, h.serve fun _ _ h => h.advanceRow⟩
  | steepRequest _ _ => exact ⟨_, rfl, h.serve fun _ _ h => h.steepRow⟩
  | spareSwap _ _ => exact ⟨_, rfl, h.serve fun _ _ h => h.spareSwapRow⟩
  | firmwareUpdate _ _ => exact ⟨_, rfl, h.serve fun _ _ h => h.updateRow⟩
  | logRead _ _ => exact ⟨_, rfl, h.serve fun _ _ h => h.logRow⟩
  | unlistedCommand _ _ => exact ⟨_, rfl, h.answer.ite h⟩
  | evqHeadWrite _ _ => exact ⟨_, rfl, h.clocked fun _ h => h.request fun _ h => h.headWrite⟩
  | eventBacklogDrain _ => exact ⟨_, rfl, h.clocked fun _ h => h.drainEvents.ite h⟩
  | eventModerationTimer _ => exact ⟨_, rfl, h.clocked fun _ h => h.moderationTimer⟩
  | msixMaskClear _ _ => exact ⟨_, rfl, h.clocked fun _ h => (h.request fun _ h => h.unmask).ite (h.configure fun _ h => h.unmask)⟩
  | deviceTimeRead _ _ _ _ => exact ⟨_, rfl, h.clocked fun _ h => h.readAt⟩
  | resetCauseClear _ => exact ⟨_, rfl, h.clocked fun _ h => h.request fun _ h => h.causeClear⟩
  | registerWrite _ _ _ _ => exact ⟨_, rfl, h.clocked fun _ h => h.writeAt⟩
  | bar2Read _ _ _ _ => exact ⟨_, rfl, h.clocked fun _ h => h.request fun _ h => h.bar2Read⟩
  | bar2Write _ _ _ _ => exact ⟨_, rfl, h.clocked fun _ h => h.request fun _ h => h.bar2Write⟩
  | flr _ => exact ⟨_, rfl, h.clocked fun _ h => h.configure fun _ h => h.flrStart⟩
  | flrBlockLimit _ _ => exact ⟨_, rfl, h.clocked fun _ h => h.flrLimit⟩
  | flrComplete _ => exact ⟨_, rfl, h.clocked fun _ h => h.flrEnd.ite h⟩
  | d3hotEnter _ => exact ⟨_, rfl, h.clocked fun _ h => h.power⟩
  | d0Return _ => exact ⟨_, rfl, h.clocked fun _ h => h.power⟩
  | l1Exit => exact ⟨_, rfl, h.clocked fun _ h => h.wake⟩
  | hostCompletionError _ _ _ _ => exact ⟨_, rfl, h.clocked fun _ h => h.hostError⟩
  | perstNAssert => exact ⟨_, rfl, h.ite (Keeps.source (.withRst h h.rst))⟩
  | perstNDeassert => exact ⟨_, rfl, .withRst h h.rst⟩
  | mctpSetEndpointId _ _ => exact ⟨_, rfl, h.clocked fun _ h => h.mctp fun _ h => .withHost h h.host⟩
  | mctpGetEndpointId _ => exact ⟨_, rfl, h.clocked fun _ h => h.mctp fun _ h => h⟩
  | mctpGetVersionSupport _ => exact ⟨_, rfl, h.clocked fun _ h => h.mctp fun _ h => h⟩
  | mctpGetMessageTypeSupport _ => exact ⟨_, rfl, h.clocked fun _ h => h.mctp fun _ h => h⟩
  | pldmMonitoring _ _ => exact ⟨_, rfl, h.clocked fun _ h => h.mctp fun _ h => h⟩
  | pldmFirmwareUpdate _ _ => exact ⟨_, rfl, h.clocked fun _ h => h.arrives.pldmUpdate.ite h⟩
  | getMeasurement _ _ => exact ⟨_, rfl, h.clocked fun _ h => h.vendor fun _ h => h.getMeasurement⟩
  | getQuote _ _ => exact ⟨_, rfl, h.clocked fun _ h => h.vendor fun _ h => h.getQuote⟩
  | getCertificate _ => exact ⟨_, rfl, h.clocked fun _ h => h.vendor fun _ h => h.getCertificate⟩
  | debugResetRequest _ => exact ⟨_, rfl, h.source.ite h⟩
  | debugUnlock _ => exact ⟨_, rfl, h.clocked fun _ h => h.debugUnlock⟩
  | blockChosen _ => exact ⟨_, rfl, h.clocked fun _ h => h.modCore⟩
  | blockLoad _ => exact ⟨_, rfl, h.clocked fun _ h => h.blockLoad⟩
  | blockReady _ => exact ⟨_, rfl, h.clocked fun _ h => h.blockReady⟩
  | boundWaitMet _ => exact ⟨_, rfl, h.clocked fun _ h => h.boundMet⟩
  | boundWaitTimeout _ => exact ⟨_, rfl, h.clocked fun _ h => h.boundTimeout⟩
  | blockIssue _ => exact ⟨_, rfl, h.clocked fun _ h => h.blockIssue⟩
  | product _ => exact ⟨_, rfl, h.clocked fun _ h => h.issueWord fun _ _ _ _ h => h.unitAct⟩
  | rotateStore _ => exact ⟨_, rfl, h.clocked fun _ h => h.issueWord fun _ _ _ _ h => h.unitAct⟩
  | convert _ => exact ⟨_, rfl, h.clocked fun _ h => h.issueWord fun _ _ _ _ h => h.unitAct⟩
  | elemwise _ => exact ⟨_, rfl, h.clocked fun _ h => h.issueWord fun _ _ _ _ h => h.unitAct⟩
  | format _ => exact ⟨_, rfl, h.clocked fun _ h => h.issueWord fun _ _ _ _ h => h.unitAct⟩
  | reduce _ => exact ⟨_, rfl, h.clocked fun _ h => h.issueWord fun _ _ _ _ h => h.unitAct⟩
  | rowstat _ => exact ⟨_, rfl, h.clocked fun _ h => h.issueWord fun _ _ _ _ h => h.unitAct⟩
  | window _ => exact ⟨_, rfl, h.clocked fun _ h => h.issueWord fun _ _ _ _ h => h.unitAct⟩
  | func _ => exact ⟨_, rfl, h.clocked fun _ h => h.issueWord fun _ _ _ _ h => h.unitAct⟩
  | lookup _ => exact ⟨_, rfl, h.clocked fun _ h => h.issueWord fun _ _ _ _ h => h.unitAct⟩
  | swap _ => exact ⟨_, rfl, h.clocked fun _ h => h.issueWord fun _ _ _ _ h => h.swapAct⟩
  | fetch _ => exact ⟨_, rfl, h.clocked fun _ h => h.issueWord fun _ _ _ _ h => h.moverAct⟩
  | store _ => exact ⟨_, rfl, h.clocked fun _ h => h.issueWord fun _ _ _ _ h => h.moverAct⟩
  | add _ => exact ⟨_, rfl, h.clocked fun _ h => h.issueWord fun _ _ _ _ h => h.addAct⟩
  | waitGe _ => exact ⟨_, rfl, h.clocked fun _ h => h.issueWord fun _ _ _ _ h => h.waitGeAct⟩
  | regop _ => exact ⟨_, rfl, h.clocked fun _ h => h.issueWord fun _ _ _ _ h => h.regopAct⟩
  | loadreg _ => exact ⟨_, rfl, h.clocked fun _ h => h.issueWord fun _ _ _ _ h => h.loadregAct⟩
  | setflag _ => exact ⟨_, rfl, h.clocked fun _ h => h.issueWord fun _ _ _ _ h => h.setflagAct⟩
  | operationResultWritten _ => exact ⟨_, rfl, h.clocked fun _ h => h.resultWritten⟩
  | quantClipStopEnd _ => exact ⟨_, rfl, h.clocked fun _ h => h.clipStop⟩
  | translationWalkDone _ _ _ => exact ⟨_, rfl, h.clocked fun _ h => h.walkDone⟩
  | fetchGrainLanded _ _ _ _ => exact ⟨_, rfl, h.clocked fun _ h => h.fetchLanded⟩
  | storeGrainVisible _ _ _ => exact ⟨_, rfl, h.clocked fun _ h => h.storeVisible⟩
  | releaseAddApplied _ => exact ⟨_, rfl, h.clocked fun _ h => h.releaseAdd⟩
  | slipResume _ => exact ⟨_, rfl, h.clocked fun _ h => h.slipResume⟩
  | wallLimitExpired _ => exact ⟨_, rfl, h.clocked fun _ h => h.wallExpired⟩
  | blockBoundary _ => exact ⟨_, rfl, h.clocked fun _ h => h.blockBoundary⟩
  | lateGrainFault _ _ _ _ => exact ⟨_, rfl, h.clocked fun _ h => h.lateGrain⟩
  | blockCompletionEntry _ => exact ⟨_, rfl, h.clocked fun _ h => h.completionEntry⟩
  | spareSwapApplied _ => exact ⟨_, rfl, h.clocked fun _ h => h.applySwap.startRequest.retarget.ite h.applySwap⟩
  | gearChangeDone _ => exact ⟨_, rfl, h.clocked fun _ h => h.changeDone⟩
  | freewheelEnter _ => exact ⟨_, rfl, h.clocked fun _ h => h.freewheel⟩
  | admissionWindow _ => exact ⟨_, rfl, h.clocked fun _ h => h.admissionWindow⟩
  | coreWakeDone _ => exact ⟨_, rfl, h.clocked fun _ h => h.wakeDone⟩
  | kettleSample _ _ _ _ _ => exact ⟨_, rfl, h.clocked fun _ h => h.kettle⟩
  | thermalCapReminder => exact ⟨_, rfl, h.clocked fun _ h => h.capReminder⟩
  | thermtrip _ _ => exact ⟨_, rfl, h.trip⟩
  | brakeNInput _ => exact ⟨_, rfl, .withClocks h h.clocks⟩
  | avsSetpointReached _ => exact ⟨_, rfl, h.clocked fun _ h => h.setpointReached⟩
  | avsRetry _ _ => exact ⟨_, rfl, h.clocked fun _ h => h.avsRetry⟩
  | snapshotRefresh => exact ⟨_, rfl, h.clocked fun _ h => h.snapshot⟩
  | cadenceFrame => exact ⟨_, rfl, h.clocked fun _ h => h.cadence⟩
  | scrubGrain _ _ => exact ⟨_, rfl, h.clocked fun _ h => h.scrub⟩
  | sramRowRepair _ _ _ _ _ _ _ => exact ⟨_, rfl, h.clocked fun _ h => h.onDieWord⟩
  | dieLinkLaneFail _ _ _ => exact ⟨_, rfl, h.clocked fun _ h => h.laneFail⟩
  | moverDescriptorStart _ _ => exact ⟨_, rfl, h.clocked fun _ h => h.startQueue⟩
  | moverDescriptorDone _ _ => exact ⟨_, rfl, h.clocked fun _ h => h.descEnds⟩
  | fenceComplete _ _ => exact ⟨_, rfl, h.clocked fun _ h => h.fenceDone⟩
  | collectiveStart _ => exact ⟨_, rfl, h.clocked fun _ h => h.collStart⟩
  | collectiveComplete _ => exact ⟨_, rfl, h.clocked fun _ h => h.collComplete⟩
  | collectiveTimeout _ => exact ⟨_, rfl, h.clocked fun _ h => h.collTimeout⟩
  | idleFrame _ _ _ => exact ⟨_, rfl, h.clocked fun _ h => h.heard.ite h⟩
  | dataFrame _ _ _ _ _ => exact ⟨_, rfl, h.clocked fun _ h => h.seqArrives⟩
  | holdFrame _ _ _ => exact ⟨_, rfl, h.clocked fun _ h => h.holdFrame⟩
  | negFrame _ _ _ _ _ _ _ => exact ⟨_, rfl, h.clocked fun _ h => h.negFrame⟩
  | retryFrame _ _ _ _ => exact ⟨_, rfl, h.clocked fun _ h => h.retryFrame⟩
  | swapFrame _ _ _ _ _ => exact ⟨_, rfl, h.clocked fun _ h => h.swapFrame⟩
  | joinFrame _ _ _ _ => exact ⟨_, rfl, h.clocked fun _ h => h.seqArrives⟩
  | joinAckFrame _ _ _ _ => exact ⟨_, rfl, h.clocked fun _ h => h.seqArrives⟩
  | abortFrame _ _ _ _ => exact ⟨_, rfl, h.clocked fun _ h => h.seqArrives⟩
  | tokenFrame _ _ _ _ => exact ⟨_, rfl, h.clocked fun _ h => h.seqArrives⟩
  | frameDiscarded _ _ _ _ => exact ⟨_, rfl, h.clocked fun _ h => h.discardFrame⟩
  | reorderGapTimeout _ => exact ⟨_, rfl, h.clocked fun _ h => h.gapTimeout⟩
  | joinRepeat _ => exact ⟨_, rfl, h.clocked fun _ h => h.joinRepeat⟩
  | joinLimitExpired _ => exact ⟨_, rfl, h.clocked fun _ h => h.joinLimit⟩
  | spokeLossOfLight _ _ => exact ⟨_, rfl, h.clocked fun _ h => h.failSpoke⟩
  | spokeSilentTimeout _ _ => exact ⟨_, rfl, h.clocked fun _ h => h.silentSpoke⟩
  | spokeErrorWindow _ _ _ _ => exact ⟨_, rfl, h.clocked fun _ h => h.errorWindow⟩
  | portDown _ => exact ⟨_, rfl, h.clocked fun _ h => h.portDown⟩
  | portBringupAdvance _ _ _ => exact ⟨_, rfl, h.clocked fun _ h => h.bringUp.ite h⟩
  | codecFrameStart _ => exact ⟨_, rfl, h.clocked fun _ h => h.frameStart⟩
  | codecFrameDone _ => exact ⟨_, rfl, h.clocked fun _ h => h.frameDone⟩
  | stemDescriptorStart _ => exact ⟨_, rfl, h.clocked fun _ h => h.stemStart⟩
  | stemRowWaitMet _ => exact ⟨_, rfl, h.clocked fun _ h => h.rowWaitMet⟩
  | stemRowDone _ => exact ⟨_, rfl, h.clocked fun _ h => h.stemRowDone⟩
  | stemDescriptorDone _ => exact ⟨_, rfl, h.clocked fun _ h => h.stemDone⟩
  | stemTimeout _ => exact ⟨_, rfl, h.clocked fun _ h => h.stemTimedOut⟩
  | steepingDone _ _ _ => exact ⟨_, rfl, h.clocked fun _ h => h.steepingDone⟩
  | requestedSteepingDone _ _ _ _ => exact ⟨_, rfl, h.clocked fun _ h => h.requestDone⟩
  | tandemWriteStart => exact ⟨_, rfl, h.clocked fun _ h => (h.withRst h.rst.startWrite).ite h⟩
  | tandemWriteDone _ => exact ⟨_, rfl, h.clocked fun _ h => h.writeDone⟩
  | powerOn => exact ⟨_, rfl, h.powerOnReset⟩
  | vaoLoss => exact ⟨_, rfl, h.vaoLost⟩
  | brownOut _ => exact ⟨_, rfl, h.ite (Keeps.source (.withRst (h.withMem h.mem.railLost) h.rst))⟩
  | clockFailure => exact ⟨_, rfl, Keeps.source (.withRst h h.rst)⟩
  | clk32kLoss => exact ⟨_, rfl, .ite (.withClocks h h.clocks) h⟩
  | controllerLockup => exact ⟨_, rfl, h.clocked fun _ h => h.lockup⟩
  | systemReset => exact ⟨_, rfl, h.dueReset.take⟩
  | coreReset => exact ⟨_, rfl, h.take⟩
  | resetReleaseStep => exact ⟨_, rfl, h.clocked fun _ h => h.releaseStep⟩
  | trimLoadDone => exact ⟨_, rfl, h.clocked fun _ h => (h.withRst h.rst.loadTrim).ite h⟩
  | tandemReadDone => exact ⟨_, rfl, h.clocked fun _ h => (h.withRst h.rst.takeBank).ite h⟩
  | zeroFillDone _ => exact ⟨_, rfl, h.clocked fun _ h => h.filledTier⟩
  | bootFirmwareVerified => exact ⟨_, rfl, h.clocked fun _ h => h.bootVerified⟩
  | attestationSetup => exact ⟨_, rfl, h.clocked fun _ h => h.attest.ite h⟩
  | svnRaise => exact ⟨_, rfl, h.clocked fun _ h => h.svnRaise⟩
  | mailboxPost _ _ _ => exact ⟨_, rfl, h.clocked fun _ h => h.request fun _ h => h.postMailbox⟩
  | aspmL1Entry => exact ⟨_, rfl, h.clocked fun _ h => h.sleep⟩
  | pcieLinkUp => exact ⟨_, rfl, h.clocked fun _ h => h.trained⟩
  | configurationReady => exact ⟨_, rfl, h.clocked fun _ h => h.configured⟩
  | vfEnable _ => exact ⟨_, rfl, h.clocked fun _ h => h.vfEnable⟩
  | coreCheckFault _ => exact ⟨_, rfl, h.clocked fun _ h => h.coreCheck⟩
  | frameTablePlaced => exact ⟨_, rfl, h.clocked fun _ h => h.tablePlaced⟩
  | lifecycleTransitionDone => exact ⟨_, rfl, h.clocked fun _ h => h.transitionDone⟩
  | firmwareUpdateDone => exact ⟨_, rfl, h.clocked fun _ h => h.updateDone⟩
  | quoteSigned _ => exact ⟨_, rfl, h.clocked fun _ h => h.quoteSigned⟩
  | certificateWritten _ => exact ⟨_, rfl, h.clocked fun _ h => h.certificateWritten⟩
  | logReadDone _ => exact ⟨_, rfl, h.clocked fun _ h => h.logDone⟩
  | detectWaitMet _ => exact ⟨_, rfl, h.clocked fun _ h => h.detectWait⟩
  | frameSlotSent _ _ => exact ⟨_, rfl, h.clocked fun _ h => h.frameSlot⟩

end

theorem keeps_of_exec {c : Instr} {s t : State} (e : exec c s = .next t) : Keeps s t := by
  obtain ⟨u, eu, h⟩ := exec_next (s := s) c .refl
  rw [e] at eu
  cases eu
  exact h

theorem step_eq_exec {c : Instr} {rest : List Instr} {s : State} (hp : s.pending = c :: rest) (hc : c.wellFormed = true) :
    step s = exec c { s with pending := rest } := by
  unfold step
  split
  · next h =>
    rw [hp] at h
    cases h
  · next d l h =>
    rw [hp] at h
    cases h
    exact if_pos hc

/-- A step keeps it too, but takes the front command off the queue. -/
theorem keeps_of_step {s t : State} (e : step s = .next t) : ∃ rest, Keeps { s with pending := rest } t := by
  unfold step at e
  split at e
  · cases e
    exact ⟨s.pending, .withNow .refl⟩
  · next c rest _ =>
    split at e
    · exact ⟨rest, keeps_of_exec e⟩
    · cases e

/-- Settles O1: `exec_next` gives each command its next state. -/
theorem stepRunsTheFrontCommand : Obligations.step_runs_the_front_command := by
  unfold Obligations.step_runs_the_front_command
  refine ⟨⟨fun c rest s hc => step_eq_exec rfl hc, fun c rest s hc => ?illFormed, fun s hs => ?empty⟩, fun c s => ?exec, fun c rest s hs hc => ?front⟩
  case illFormed => simp [step, hc]
  case empty =>
    unfold step
    split
    · rfl
    · next h =>
      rw [hs] at h
      cases h
  case exec =>
    obtain ⟨t, e, _⟩ := exec_next (s := s) c .refl
    exact ⟨t, e⟩
  case front =>
    obtain ⟨t, e, _⟩ := exec_next (s := { s with pending := rest }) c .refl
    exact ⟨t, (step_eq_exec hs hc).trans e⟩

/-- Settles O55. -/
theorem noCommandChangesTheQueue : Obligations.no_command_changes_the_queue :=
  fun _ _ _ e => (keeps_of_exec e).pending

/-- Settles O56. -/
theorem fusesOnlyBurn : Obligations.fuses_only_burn := by
  intro s t e
  obtain ⟨_, h⟩ := keeps_of_step e
  exact ⟨h.sec.lcFuses, h.sec.svn, h.sec.identitySeed, h.sec.identityRoot, h.sec.ownerSeed⟩

/-- Settles O57. -/
theorem everyStepKeepsTheSecurityInvariant : Obligations.every_step_keeps_the_security_invariant := by
  intro s t ⟨hlife, hlog, hkey⟩ e
  obtain ⟨_, h⟩ := keeps_of_step e
  exact ⟨h.sec.lifecycle hlife, h.sec.log hlog, h.sec.attKey hkey⟩

/-- Settles O58. -/
theorem everyStepKeepsTheMemoriesCanonical : Obligations.every_step_keeps_the_memories_canonical := by
  intro s t ⟨hcells, hhost, hmailbox, hspad, hacc, hcluster, hhub, hnor⟩ e
  obtain ⟨_, h⟩ := keeps_of_step e
  exact ⟨h.mem.cells hcells, h.host.memory hhost, h.ctl.mailbox hmailbox, h.cores.spad hspad, h.cores.acc hacc, h.share.clusterCtr hcluster,
    h.share.hubCtr hhub, h.rst.nor hnor⟩

/-- Settles O59. -/
theorem everyStepKeepsTheTablesCanonical : Obligations.every_step_keeps_the_tables_canonical := by
  intro s t ⟨hcores, hrings, hfns, hmovers, hhostq, hrecs, hseqs, hlists, hlookahead, hctx, hdestroying, hpreempting, hrestoring, hports, hlinks, hslots,
    hqueues, hsent, hcodecs, hstems, herrs, hspares, hdies, hstackNow, hstackHeld, hjunctionNow, hjunctionHeld⟩ e
  obtain ⟨_, h⟩ := keeps_of_step e
  exact ⟨h.cores.cores hcores, h.ctl.rings hrings, h.host.fns hfns, h.mem.movers hmovers, h.mem.hostq hhostq, h.pages.recs hrecs, h.seqs.seqs hseqs,
    h.seqs.lists hlists, h.seqs.lookahead hlookahead, h.seqs.ctx hctx, h.seqs.destroying hdestroying, h.seqs.preempting hpreempting,
    h.seqs.restoring hrestoring, h.fabric.ports hports, h.fabric.links hlinks, h.fabric.slots hslots, h.fabric.queues hqueues, h.fabric.sent hsent,
    h.codecs hcodecs, h.stems hstems, h.svc.errs herrs, h.svc.spares hspares, h.clocks.dies hdies, h.clocks.stackNow hstackNow,
    h.clocks.stackHeld hstackHeld, h.clocks.junctionNow hjunctionNow, h.clocks.junctionHeld hjunctionHeld⟩

end Sys2Proof.Machine
end

section
/-! PROOFS. The mailbox (O2, O3, O4): how an admitted command ends, what an answer leaves, and the controller's own commands. -/

namespace Sys2Proof.Machine

open Sys2Proof.Safety

section
variable {s u : State} {f : Fn} {m : Mb} {form : CmdForm} {row : Req → State → State × Answer} {a : Answer}

/-- An admitted command whose row answers OK. -/
theorem serve_of_admitted (h : Admitted form s f m) (hrow : row (s.ctl.req f m) s = (u, a)) (ha : a.status = stOk) :
    s.serve f m form row = u.answer f m (s.ctl.req f m) a :=
  serve_ok h.1 h.2.1 h.2.2 hrow ha

/-- An admitted command whose row answers ACCEPTED. -/
theorem serve_accepted_of_admitted (h : Admitted form s f m) (hf : form.accepts = true) (hrow : row (s.ctl.req f m) s = (u, a))
    (ha : a.status = stAccepted) : s.serve f m form row = u.answer f m (s.ctl.req f m) a :=
  serve_accepted h.1 h.2.1 h.2.2 hf hrow ha

/-- An admitted command whose row refuses. -/
theorem serve_refused_of_admitted (h : Admitted form s f m) (hrow : row (s.ctl.req f m) s = (u, a))
    (ha : a.status ≠ stOk ∧ a.status ≠ stAccepted ∧ a.status ≠ stSelftestDeferred ∧ a.status ≠ stUncorrectable) :
    s.serve f m form row = s.answer f m (s.ctl.req f m) a :=
  serve_row_refused h.1 h.2.1 h.2.2 hrow ha

end

/-- A little-endian field inside a list of bytes. -/
theorem fieldAt_natLe {l r : List Byte} {n x i : Nat} (hi : l.length = i) : fieldAt (l ++ (natLe n x ++ r)) i n = x % 256 ^ n := by
  subst hi
  rw [fieldAt, List.drop_left, List.take_left' natLe_length, leNat_natLe]

theorem execIdentify_admitted {s : State} {f : Fn} {m : Mb} (h : Admitted identifyForm s f m) :
    exec (.identify f m) s = .next (s.answer f m (s.ctl.req f m) (identifyRow (s.ctl.req f m) s).2) :=
  congrArg Host.Outcome.next (serve_of_admitted h rfl rfl)

/-- Settles O2. -/
theorem controllerCommandsAreAppliedAndAnswered : Obligations.controller_commands_are_applied_and_answered := by
  unfold Obligations.controller_commands_are_applied_and_answered
  refine ⟨fun s f m h => ?identify, fun s f m h => ?ring, fun s f m h => ?reset, fun s f m ht hc => ?unlisted⟩
  case identify =>
    refine ⟨_, execIdentify_admitted h, by simp [fillTo, sliceAt, partNumber], ?_, ?_, ?_, ?_⟩
    · simp only [List.append_assoc]
      exact List.take_left' rfl
    · simp only [List.append_assoc]
      exact fieldAt_natLe rfl
    · have hf : f.val % 256 ^ 4 = f.val := Nat.mod_eq_of_lt (by omega)
      refine .trans ?_ hf
      rw [List.append_assoc]
      exact fieldAt_natLe (by simp [fillTo, sliceAt, partNumber])
    · have hv : s.host.vfsEnabled.toNat % 256 ^ 4 = s.host.vfsEnabled.toNat := Nat.mod_eq_of_lt (by omega)
      refine .trans ?_ hv
      rw [← List.append_nil (natLe 4 s.host.vfsEnabled.toNat)]
      exact fieldAt_natLe (by simp [fillTo, sliceAt, partNumber])
  case ring => exact ⟨_, congrArg Host.Outcome.next (serve_of_admitted h rfl rfl), rfl⟩
  case reset => exact congrArg Host.Outcome.next (serve_of_admitted h rfl rfl)
  case unlisted =>
    have hu : (s.takes f m && !codeListed (s.ctl.req f m).code) = true := by rw [ht, hc]; rfl
    exact congrArg Host.Outcome.next (if_pos hu)

section
variable {form : CmdForm} {q : Req} {s : State} {a : Answer}

theorem refusal_of_length (h : q.length ≠ form.len.expect q) :
    form.refusal q s = some { status := stBadLength, detail := form.len.expect q % 65536 } := if_pos h

theorem refusal_of_not_permitted (hl : q.length = form.len.expect q) (h : ((form.pf0 && q.fn != 0) || !form.owns q s) = true) :
    form.refusal q s = some { status := stNotPermitted } := by
  unfold CmdForm.refusal
  rw [if_neg (not_not.mpr hl), if_pos h]

/-- What checks 4 and 5 refuse, once the length and the right to command are there. -/
theorem refusal_cases (hl : q.length = form.len.expect q) (hp : ((form.pf0 && q.fn != 0) || !form.owns q s) = false) (h : form.refusal q s = some a) :
    (∃ k, firstOf (reservedBad form.masks 0 q ++ form.range q) = some k ∧ a = { status := stBadField, detail := 0x10 + k })
      ∨ (firstOf (reservedBad form.masks 0 q ++ form.range q) = none ∧ form.accepts = true ∧ 32 ≤ s.ctl.inFlight q.fn
        ∧ a = { status := stBusy, detail := 2 }) := by
  unfold CmdForm.refusal at h
  rw [if_neg (not_not.mpr hl), if_neg (by simp [hp])] at h
  split at h
  · next k hk => exact .inl ⟨k, hk, (Option.some.inj h).symm⟩
  · next hk =>
    split at h
    · next hb =>
      rw [Bool.and_eq_true, decide_eq_true_eq] at hb
      exact .inr ⟨hk, hb.1, hb.2, (Option.some.inj h).symm⟩
    · cases h

/-- A refusal has one of four statuses. -/
theorem refusal_status (h : form.refusal q s = some a) :
    a.status = stBadLength ∨ a.status = stNotPermitted ∨ a.status = stBadField ∨ a.status = stBusy := by
  by_cases hl : q.length = form.len.expect q
  · cases hp : ((form.pf0 && q.fn != 0) || !form.owns q s)
    case true =>
      rw [refusal_of_not_permitted hl hp] at h
      cases h
      exact .inr (.inl rfl)
    case false =>
      obtain ⟨_, _, rfl⟩ | ⟨_, _, _, rfl⟩ := refusal_cases hl hp h
      · exact .inr (.inr (.inl rfl))
      · exact .inr (.inr (.inr rfl))
  · rw [refusal_of_length hl] at h
    cases h
    exact .inl rfl

end

/-- Settles O4. -/
theorem aRefusedCommandChangesNothingButItsMailbox : Obligations.a_refused_command_changes_nothing_but_its_mailbox := by
  intro s f m form row a ht hc hr
  have unique {b : Answer} (h : form.refusal (s.ctl.req f m) s = some b) : a = b := Option.some.inj (hr.symm.trans h)
  refine ⟨serve_refused ht hc hr, refusal_status hr, fun hl => unique (refusal_of_length hl), fun hl hp hf => ?pf0, fun hl ho => ?owner,
    fun hl hp ho => refusal_cases hl ?permitted hr⟩
  case pf0 =>
    have hne : ((s.ctl.req f m).fn != 0) = true := bne_iff_ne.mpr hf
    exact unique (refusal_of_not_permitted hl (by rw [hp, hne]; rfl))
  case owner => exact unique (refusal_of_not_permitted hl (by rw [ho]; simp))
  case permitted =>
    rw [ho]
    cases h0 : form.pf0
    · rfl
    · have he : (s.ctl.req f m).fn = 0 := hp h0
      rw [he]
      rfl

theorem setBytes_append {d : Byte} {xs ys : List Byte} {m : List Host.Cell} {a : Nat} :
    setBytes d m a (xs ++ ys) = setBytes d (setBytes d m a xs) (a + xs.length) ys := by
  induction xs generalizing m a with
  | nil => rfl
  | cons x xs ih => simp only [List.cons_append, setBytes, ih, List.length_cons, Nat.add_assoc, Nat.add_comm 1]

section
variable {mb : List Host.Cell} {f m : Nat} {a : Answer}

/-- The five fields an answer writes, one after another (R328). -/
theorem answeredBytes_eq : answeredBytes mb f m a =
    setBytes 0 (setBytes 0 (setBytes 0 (setBytes 0 (setBytes 0 mb (mbKey f m 0x0C) (natLe 2 a.status)) (mbKey f m 0x0E) (natLe 2 a.detail))
      (mbKey f m 0x10) a.reply) (mbKey f m 0x1F0) (natLe 2 a.reply.length)) (mbKey f m 0x1FC) [0, 0, 0, 0] := by
  unfold answeredBytes
  rw [setBytes_append]
  rfl

/-- An answer of 480 bytes or fewer writes only from 0x0C on in its own mailbox. -/
theorem tget_answeredBytes_out (hmb : twf 0 mb = true) (ha : a.reply.length ≤ 480) {k : Nat} (hk : k < mbKey f m 0x0C ∨ mbKey f m 0x200 ≤ k) :
    tget 0 (answeredBytes mb f m a) k = tget 0 mb k := by
  unfold mbKey at hk
  rw [answeredBytes_eq]
  have h1 := twf_setBytes (a := mbKey f m 0x0C) (bs := natLe 2 a.status) hmb
  have h2 := twf_setBytes (a := mbKey f m 0x0E) (bs := natLe 2 a.detail) h1
  have h3 := twf_setBytes (a := mbKey f m 0x10) (bs := a.reply) h2
  have h4 := twf_setBytes (a := mbKey f m 0x1F0) (bs := natLe 2 a.reply.length) h3
  rw [tget_setBytes_out h4, tget_setBytes_out h3, tget_setBytes_out h2, tget_setBytes_out h1, tget_setBytes_out hmb]
  all_goals simp only [mbKey, natLe_length, List.length_cons, List.length_nil]; omega

end

/-- Settles O3: the five fields do not overlap. -/
theorem anAnswerReadsBackAndTouchesNoOtherMailbox : Obligations.an_answer_reads_back_and_touches_no_other_mailbox := by
  intro s f m q a hmb ha
  have h1 := twf_setBytes (a := mbKey f m 0x0C) (bs := natLe 2 a.status) hmb
  have h2 := twf_setBytes (a := mbKey f m 0x0E) (bs := natLe 2 a.detail) h1
  have h3 := twf_setBytes (a := mbKey f m 0x10) (bs := a.reply) h2
  have h4 := twf_setBytes (a := mbKey f m 0x1F0) (bs := natLe 2 a.reply.length) h3
  have hbox : (s.answer f m q a).ctl.mailbox = answeredBytes s.ctl.mailbox f m a := rfl
  have status := bytesAt_setBytes (bs := natLe 2 a.status) (a := mbKey f m 0x0C) hmb
  have detail := bytesAt_setBytes (bs := natLe 2 a.detail) (a := mbKey f m 0x0E) h1
  have reply := bytesAt_setBytes (bs := a.reply) (a := mbKey f m 0x10) h2
  have len := bytesAt_setBytes (bs := natLe 2 a.reply.length) (a := mbKey f m 0x1F0) h3
  have owner := bytesAt_setBytes (bs := [0, 0, 0, 0]) (a := mbKey f m 0x1FC) h4
  simp only [natLe_length] at status detail len
  refine ⟨?_, ?_, ?_, ?_, ?_, fun g n b hne => ?_, fun b hb => ?_⟩
  · rw [CtlState.mb, hbox, answeredBytes_eq, bytesAt_setBytes_out h4, bytesAt_setBytes_out h3, bytesAt_setBytes_out h2, bytesAt_setBytes_out h1, status]
    all_goals simp only [mbKey, natLe_length, List.length_cons, List.length_nil]; omega
  · rw [CtlState.mb, hbox, answeredBytes_eq, bytesAt_setBytes_out h4, bytesAt_setBytes_out h3, bytesAt_setBytes_out h2, detail]
    all_goals simp only [mbKey, natLe_length, List.length_cons, List.length_nil]; omega
  · rw [CtlState.mb, hbox, answeredBytes_eq, bytesAt_setBytes_out h4, bytesAt_setBytes_out h3, reply]
    all_goals simp only [mbKey, natLe_length, List.length_cons, List.length_nil]; omega
  · rw [CtlState.mb, hbox, answeredBytes_eq, bytesAt_setBytes_out h4, len]
    simp only [mbKey]
    omega
  · rw [CtlState.owned, CtlState.mb, hbox, answeredBytes_eq]
    exact (congrArg (fun l => bit (fieldAt l 0 4) 31) owner).trans rfl
  · rw [hbox]
    refine tget_answeredBytes_out hmb ha ?_
    have hgn : g.val ≠ f.val ∨ n.val ≠ m.val := by
      by_contra hc
      push Not at hc
      exact hne (Prod.ext (Fin.ext hc.1) (Fin.ext hc.2))
    simp only [mbKey]
    omega
  · rw [hbox]
    refine tget_answeredBytes_out hmb ha (.inl ?_)
    simp only [mbKey]
    omega

end Sys2Proof.Machine
end

section
/-! PROOFS. The host's writes to BAR0 (O5): what a served request does once the clocks run, and what a whole or a partial word does. -/

namespace Sys2Proof.Machine

open Sys2Proof.Safety

section
variable {s t : State} {f : Nat}

/-- An effect that needs a clock, while no thermal trip stands. -/
theorem next_clocked {g : State → State} (hc : Clocked s) (h : g s = t) : (.next (s.clocked g) : Host.Outcome State Fault Refusal) = .next t :=
  congrArg Host.Outcome.next ((clocked_runs hc g).trans h)

/-- A request of a served function acts on the woken device. -/
theorem next_request {act : State → State} (hc : Clocked s) (hf : s.host.serves f = true) (h : act s.wake = t) :
    (.next (s.clocked fun s => s.request f act) : Host.Outcome State Fault Refusal) = .next t :=
  next_clocked hc ((State.request_of_serves hf act).trans h)

/-- A configuration request of a function that is there acts on the woken device. -/
theorem next_configure {act : State → State} (hc : Clocked s) (hf : s.host.configures f = true) (h : act s.wake = t) :
    (.next (s.clocked fun s => s.configure f act) : Host.Outcome State Fault Refusal) = .next t :=
  next_clocked hc ((if_pos hf).trans h)

theorem packBits_owner (irq : Bool) : packBits 4 [(31, 1), (30, b2n irq)] = natLe 4 (2 ^ 31 + (if irq then 2 ^ 30 else 0)) := by
  cases irq <;> rfl

theorem State.postMailbox_of_owned {m : Nat} {irq : Bool} (h : s.ctl.owned f m = true) : s.postMailbox f m irq = s.violation f := if_pos h

theorem State.postMailbox_of_free {m : Nat} {irq : Bool} (h : s.ctl.owned f m = false) :
    s.postMailbox f m irq = { s with ctl := { s.ctl with
      mailbox := setBytes 0 s.ctl.mailbox (mbKey f m 0x1FC) (natLe 4 (2 ^ 31 + (if irq then 2 ^ 30 else 0))), posted := s.ctl.posted ++ [(f, m)] } } := by
  rw [← packBits_owner]
  exact if_neg (by rw [h]; decide)

/-- The bits of RESET_CAUSE that hold FAULT_N down are 1, 3, 6 and 7 (R377). -/
theorem cause_holds_faultN : ∀ c : BitVec 8, (c &&& 0xCA = 0 ↔ (c.getLsbD 1 || c.getLsbD 3 || c.getLsbD 6 || c.getLsbD 7) = false) := by decide

theorem getLsbD_clear (c : BitVec 8) (v : BitVec 32) (i : Fin 8) : (c &&& ~~~ BitVec.ofNat 8 v.toNat).getLsbD i = (c.getLsbD i && !v.getLsbD i) := by
  simp only [BitVec.getLsbD_and, BitVec.getLsbD_not, BitVec.getLsbD_ofNat, i.isLt, decide_true, Bool.true_and, BitVec.testBit_toNat]

theorem faultN_causeClear (v : Nat) : (s.causeClear v).rst.pins.faultN = true ↔
    (s.rst.pins.faultN = true ∨ (((s.causeClear v).rst.cause.getLsbD 1 || (s.causeClear v).rst.cause.getLsbD 3 || (s.causeClear v).rst.cause.getLsbD 6
      || (s.causeClear v).rst.cause.getLsbD 7) = false ∧ s.clocks.thermtrip = false)) := by
  rw [← cause_holds_faultN]
  unfold State.causeClear
  dsimp only
  split
  · next h => exact iff_of_true rfl (.inr h)
  · next h => exact (or_iff_left h).symm

theorem State.causeClear_eq (v : Nat) : s.causeClear v =
    { s with rst := { s.rst with cause := (s.causeClear v).rst.cause, pins := { s.rst.pins with faultN := (s.causeClear v).rst.pins.faultN } } } := by
  unfold State.causeClear
  dsimp only
  split <;> rfl

/-- An aligned write of four bytes is one word. -/
theorem requestWords_dword {o : Nat} {e : BitVec 8} {data : List Byte} (ho : o % 4 = 0) (hd : data.length = 4) :
    requestWords o e data = [(o, [e.getLsbD 0, e.getLsbD 1, e.getLsbD 2, e.getLsbD 3], leNat data)] := by
  obtain ⟨k, rfl⟩ : ∃ k, o = 4 * k := ⟨o / 4, by omega⟩
  have hk : 4 * k / 4 = k := by omega
  have hn : (4 * k + 4 + 3) / 4 - k = 1 := by omega
  have h4 : (List.range 4) = [0, 1, 2, 3] := rfl
  have hf : fieldAt data 0 4 = leNat data := by rw [fieldAt, List.drop_zero, List.take_of_length_le (by omega)]
  unfold requestWords
  simp only [hk, hn, h4, List.range_one, List.map_cons, List.map_nil, Nat.mul_zero, Nat.add_zero, hd]
  rw [Nat.mul_comm k 4]
  simp [hf]

end

/-- Settles O5. -/
theorem hostRegisterWritesTakeEffect : Obligations.host_register_writes_take_effect := by
  unfold Obligations.host_register_writes_take_effect
  refine ⟨fun s f m irq hc hf ho => ?post, fun s f m irq hc hf ho => ?posted, fun s f head hc hf h1 h2 => ?head, fun s f head hc hf h => ?headPast,
    fun s v hc hf => ?cause, fun s f r e data hc hf => ?config, fun s f o e data hc hf h => ?past, fun s f o e data hc hf ho hd hb => ?dword⟩
  case post =>
    refine ⟨_, next_request hc hf (State.postMailbox_of_free ho), rfl, rfl, rfl⟩
  case posted => exact next_request hc hf (State.postMailbox_of_owned ho)
  case head =>
    refine next_request hc hf (if_neg ?_)
    omega
  case headPast => exact next_request hc hf (if_pos h)
  case cause =>
    exact ⟨_, next_request hc hf rfl, fun i => getLsbD_clear _ v i, faultN_causeClear _, State.causeClear_eq _⟩
  case config => exact next_configure hc hf rfl
  case past => exact next_request hc hf (if_pos h)
  case dword =>
    refine next_request hc hf ?_
    have hin : ¬ ((data.length = 8 ∧ o % 8 ≠ 0) ∨ barSize f < o + data.length) := by
      rw [hd]
      unfold barSize
      omega
    refine (if_neg hin).trans ?_
    rw [requestWords_dword ho hd]
    simp only [List.foldl_cons, List.foldl_nil, List.all_cons, List.all_nil, List.any_cons, List.any_nil, id, Bool.and_true, Bool.or_false, Bool.and_assoc,
      Bool.or_assoc]
    rfl

end Sys2Proof.Machine
end

section
/-! PROOFS. Event rings, vectors and register reads (O6): one entry written, and a whole backlog drained. -/

namespace Sys2Proof.Machine

open Sys2Proof.Safety

/-- An entry that is not the default is found where it was put, whatever the table. -/
theorem tget_tset_of_ne {α : Type} [DecidableEq α] {d x : α} (hx : x ≠ d) {t : Tab α} {i : Nat} : tget d (tset d t i x) i = x := by
  induction t with
  | nil => simp [tset, tcons, hx, tget]
  | cons e t ih =>
    simp only [tset]
    split
    · simp [tcons, hx, tget]
    · split
      · simp [tcons, hx, tget]
      · next h1 h2 => simp [tget, h1, h2, ih]

theorem tset_ne_nil {α : Type} [DecidableEq α] {d x : α} (hx : x ≠ d) {t : Tab α} {i : Nat} : tset d t i x ≠ [] := by
  cases t with
  | nil => simp [tset, tcons, hx]
  | cons e t =>
    simp only [tset]
    split
    · simp [tcons, hx]
    · split
      · simp [tcons, hx]
      · simp

section
variable {h : HostState} {f v : Nat}

theorem HostState.fn_setFn {x : HostFn} (hx : x ≠ {}) : (h.setFn f x).fn f = x := tget_tset_of_ne hx

theorem HostState.signal_memory : (h.signal f v).memory = h.memory := by
  unfold HostState.signal
  dsimp only
  split <;> rfl

theorem HostState.signal_sends : (h.signal f v).sends f = h.sends f := by
  unfold HostState.signal
  dsimp only
  split
  · have hv : { tget {} (h.fn f).vectors v with pending := true } ≠ ({} : MsixVector) := fun e =>
      absurd (congrArg MsixVector.pending e : true = false) Bool.noConfusion
    have hne : { h.fn f with vectors := tset {} (h.fn f).vectors v { tget {} (h.fn f).vectors v with pending := true } } ≠ ({} : HostFn) := fun e =>
      tset_ne_nil hv (congrArg HostFn.vectors e : tset {} (h.fn f).vectors v _ = [])
    unfold HostState.sends
    rw [HostState.fn_setFn hne]
    rfl
  · rfl

theorem HostState.signal_sent (hm : (tget {} (h.fn f).vectors v).masked = false) (hf : (h.fn f).functionMask = false) (he : (h.fn f).msixEnable = true)
    (hs : h.sends f = true) : h.signal f v = { h with messages :=
      { fn := f, vector := v, address := (tget {} (h.fn f).vectors v).address, data := (tget {} (h.fn f).vectors v).data } :: h.messages } := by
  refine if_neg ?_
  rw [HostFn.held, hm, hf, he, hs]
  decide

end

section
variable {now f n : Nat} {e : Entry} {r : RingState} {h : HostState} {x : Nat × Nat}

/-- An entry written moves the ring on as `advance` says, and may send the vector (R335). -/
theorem writeEntry_cases : writeEntry now f e r h =
    (if r.modCount.toNat ≤ r.unsignalled + 1 then
      ({ r.advance with unsignalled := 0 }, { h with memory := setBytes 0 h.memory (r.base.toNat + 64 * r.tail.toNat) (e.bytes r.phase) }.signal f r.vector.toNat)
    else ({ r.advance with unsignalled := r.unsignalled + 1, firstUnsignalled := if r.unsignalled = 0 then now else r.firstUnsignalled },
      { h with memory := setBytes 0 h.memory (r.base.toNat + 64 * r.tail.toNat) (e.bytes r.phase) })) := by
  unfold writeEntry moderate RingState.advance
  split <;> rfl

theorem writeEntry_memory : (writeEntry now f e r h).2.memory = setBytes 0 h.memory (r.base.toNat + 64 * r.tail.toNat) (e.bytes r.phase) := by
  rw [writeEntry_cases]
  split
  · exact HostState.signal_memory
  · rfl

theorem writeEntry_sends : (writeEntry now f e r h).2.sends f = h.sends f := by
  rw [writeEntry_cases]
  split
  · exact HostState.signal_sends
  · rfl

/-- What an entry written leaves of the ring but TAIL, PHASE and the moderation. -/
theorem writeEntry_ring : (writeEntry now f e r h).1 = { r with
    tail := (writeEntry now f e r h).1.tail, phase := (writeEntry now f e r h).1.phase, unsignalled := (writeEntry now f e r h).1.unsignalled
    firstUnsignalled := (writeEntry now f e r h).1.firstUnsignalled } := by
  rw [writeEntry_cases]
  unfold RingState.advance
  split <;> split <;> rfl

/-- What waits has no part in an entry written. -/
theorem writeEntry_withBacklog (l : List Entry) : writeEntry now f e { r with backlog := l } h =
    ({ (writeEntry now f e r h).1 with backlog := l }, (writeEntry now f e r h).2) := by
  rw [writeEntry_cases, writeEntry_cases]
  unfold RingState.advance
  dsimp only
  split <;> split <;> rfl

theorem writeEntry_tail : (writeEntry now f e r h).1.tail.toNat = (if r.tail.toNat + 1 = 2 ^ r.log2Size.toNat then 0 else (r.tail.toNat + 1) % 2 ^ 16) := by
  rw [writeEntry_cases]
  unfold RingState.advance
  split <;> split <;> simp [*]

theorem writeEntry_phase : (writeEntry now f e r h).1.phase = (if r.tail.toNat + 1 = 2 ^ r.log2Size.toNat then !r.phase else r.phase) := by
  rw [writeEntry_cases]
  unfold RingState.advance
  split <;> split <;> rfl

theorem writeEntry_messages : (writeEntry now f e r h).2.messages =
    (if r.modCount.toNat ≤ r.unsignalled + 1 then (h.signal f r.vector.toNat).messages else h.messages) := by
  rw [writeEntry_cases]
  split
  · unfold HostState.signal
    dsimp only
    split <;> split <;> simp_all [HostState.setFn, HostState.sends, HostState.fn]
  · rfl

/-- TAIL after an entry written into a ring that has room for it (R334). -/
theorem writeEntry_used (hh : r.head.toNat < 2 ^ r.log2Size.toNat) (ht : r.tail.toNat < 2 ^ r.log2Size.toNat) (hL : r.log2Size.toNat ≤ 16)
    (hr : r.used < 2 ^ r.log2Size.toNat - 1) :
    (writeEntry now f e r h).1.used = r.used + 1 ∧ (writeEntry now f e r h).1.tail.toNat < 2 ^ r.log2Size.toNat := by
  have hN : 2 ^ r.log2Size.toNat ≤ 2 ^ 16 := Nat.pow_le_pow_right (by decide) hL
  have hlog : (writeEntry now f e r h).1.log2Size = r.log2Size := by rw [writeEntry_ring]
  have hhead : (writeEntry now f e r h).1.head = r.head := by rw [writeEntry_ring]
  have htail := writeEntry_tail (now := now) (f := f) (e := e) (r := r) (h := h)
  unfold RingState.used at hr ⊢
  rw [hlog, hhead, htail]
  generalize 2 ^ r.log2Size.toNat = N at *
  generalize r.tail.toNat = t at *
  generalize r.head.toNat = d at *
  split
  · next he =>
    refine ⟨?_, by omega⟩
    obtain rfl : t = N - 1 := by omega
    by_cases hd : d = 0
    · subst hd
      rw [Nat.sub_zero, Nat.mod_eq_sub_mod (by omega), Nat.mod_eq_of_lt (by omega)] at hr
      omega
    · rw [Nat.mod_eq_of_lt (by omega), Nat.mod_eq_sub_mod (by omega), Nat.mod_eq_of_lt (by omega)]
      omega
  · next he =>
    have ht1 : (t + 1) % 2 ^ 16 = t + 1 := Nat.mod_eq_of_lt (by omega)
    rw [ht1]
    refine ⟨?_, by omega⟩
    by_cases hd : d ≤ t
    · rw [Nat.mod_eq_sub_mod (by omega), Nat.mod_eq_of_lt (by omega)] at hr ⊢
      rw [Nat.mod_eq_sub_mod (by omega), Nat.mod_eq_of_lt (by omega)]
      omega
    · rw [Nat.mod_eq_of_lt (by omega)] at hr
      rw [Nat.mod_eq_of_lt (by omega), Nat.mod_eq_of_lt (by omega)]
      omega

theorem drainRing_stops (hr : r.valid = false ∨ h.sends f = false ∨ 2 ^ r.log2Size.toNat - 1 ≤ r.used) : drainRing now f n r h = (r, h) := by
  cases n with
  | zero => rfl
  | succ n =>
    refine if_pos ?_
    unfold RingState.room
    obtain hv | hs | hu := hr
    · simp [hv]
    · simp [hs]
    · simp [Nat.not_lt.mpr hu]

theorem drainRing_lost (hr : r.room = true) (hs : h.sends f = true) (ho : r.owed = some x) :
    drainRing now f (n + 1) r h =
      drainRing now f n (writeEntry now f (eventsLost f x) { r with owed := none } h).1 (writeEntry now f (eventsLost f x) { r with owed := none } h).2 := by
  simp [drainRing, hr, hs, ho]

theorem drainRing_entry {rest : List Entry} (hr : r.room = true) (hs : h.sends f = true) (ho : r.owed = none) (hb : r.backlog = e :: rest) :
    drainRing now f (n + 1) r h =
      drainRing now f n (writeEntry now f e ({ r with backlog := rest }.owe now) h).1 (writeEntry now f e ({ r with backlog := rest }.owe now) h).2 := by
  simp [drainRing, hr, hs, ho, hb]

/-- A ring with no loss pending writes as many of its entries as it has room for, in order (R334). -/
theorem drainRing_eq_foldl (ho : r.owed = none) (hl : r.lostSince = 0) (hv : r.valid = true) (hs : h.sends f = true) (hn : r.backlog.length < n)
    (hh : r.head.toNat < 2 ^ r.log2Size.toNat) (ht : r.tail.toNat < 2 ^ r.log2Size.toNat) (hL : r.log2Size.toNat ≤ 16) :
    drainRing now f n r h =
      (r.backlog.take (2 ^ r.log2Size.toNat - 1 - r.used)).foldl (fun w e => writeEntry now f e w.1 w.2)
        ({ r with backlog := r.backlog.drop (2 ^ r.log2Size.toNat - 1 - r.used) }, h) := by
  generalize hb : r.backlog = l at hn ⊢
  induction l generalizing n r h with
  | nil =>
    have hnil : ({ r with backlog := [] } : RingState) = r := by rw [← hb]
    rw [List.take_nil, List.drop_nil, List.foldl_nil, hnil]
    cases n with
    | zero => rfl
    | succ n => simp [drainRing, ho, hb]
  | cons e rest ih =>
    obtain ⟨n, rfl⟩ : ∃ k, n = k + 1 := ⟨n - 1, by omega⟩
    by_cases hu : r.used < 2 ^ r.log2Size.toNat - 1
    case neg =>
      have h0 : 2 ^ r.log2Size.toNat - 1 - r.used = 0 := by omega
      rw [drainRing_stops (.inr (.inr (by omega))), h0, List.take_zero, List.drop_zero, List.foldl_nil, ← hb]
    case pos =>
      have hroom : r.room = true := by simp [RingState.room, hv, hu]
      have howe : ({ r with backlog := rest }.owe now) = { r with backlog := rest } := by simp [RingState.owe, hl]
      obtain ⟨k, hk⟩ : ∃ k, 2 ^ r.log2Size.toNat - 1 - r.used = k + 1 := ⟨2 ^ r.log2Size.toNat - 1 - r.used - 1, by omega⟩
      have hw : writeEntry now f e { r with backlog := rest } h = ({ (writeEntry now f e r h).1 with backlog := rest }, (writeEntry now f e r h).2) :=
        writeEntry_withBacklog rest
      have hw' : writeEntry now f e { r with backlog := rest.drop k } h =
        ({ (writeEntry now f e r h).1 with backlog := rest.drop k }, (writeEntry now f e r h).2) := writeEntry_withBacklog _
      obtain ⟨hused, htail⟩ := writeEntry_used (now := now) (f := f) (e := e) (h := h) hh ht hL hu
      have hring := writeEntry_ring (now := now) (f := f) (e := e) (r := r) (h := h)
      have hlog : (writeEntry now f e r h).1.log2Size = r.log2Size := by rw [hring]
      have hrest := ih (n := n) (r := { (writeEntry now f e r h).1 with backlog := rest }) (h := (writeEntry now f e r h).2)
        (by rw [hring]; exact ho) (by rw [hring]; exact hl) (by rw [hring]; exact hv) (writeEntry_sends.trans hs)
        (by rw [hring]; exact hh) (by rw [hlog]; exact htail) (by rw [hlog]; exact hL) rfl (Nat.lt_of_succ_lt_succ hn)
      have hk' : 2 ^ (writeEntry now f e r h).1.log2Size.toNat - 1 - RingState.used { (writeEntry now f e r h).1 with backlog := rest } = k := by
        have : RingState.used { (writeEntry now f e r h).1 with backlog := rest } = (writeEntry now f e r h).1.used := rfl
        rw [this, hlog, hused]
        omega
      rw [drainRing_entry hroom hs ho hb, howe, hw, hrest, hk, List.take_succ_cons, List.drop_succ_cons, List.foldl_cons, hw', hk']

end

/-- Settles O6. -/
theorem ringsVectorsAndDeviceTime : Obligations.rings_vectors_and_device_time := by
  unfold Obligations.rings_vectors_and_device_time
  refine ⟨fun s f hc hp hf => ?drain, fun s f hc hu => ?moderation, fun s f v hc hf hv => ?unmask, fun s f hc hf => ?unmaskAll,
    fun h f v hm hf he hs => HostState.signal_sent hm hf he hs, fun s f o wide e hc hf ho hb hne hw => ?read, fun s f r wide e hc hf => ?config,
    fun now f n r h ho hl hv hs hn hh ht hL => drainRing_eq_foldl ho hl hv hs hn hh ht hL, fun now f n r h hr => drainRing_stops hr,
    fun now f n r h x hr hs ho => drainRing_lost hr hs ho, fun now f n r h e hr hs ho hb hl => ?lastEntry, fun now f e r h => ?written⟩
  case drain =>
    refine next_clocked hc ((if_pos ?_).trans rfl)
    rw [hp, hf]
    rfl
  case moderation => exact next_clocked hc (if_neg hu)
  case unmask => exact next_clocked hc ((if_pos rfl).trans ((State.request_of_serves hf _).trans (if_neg (Nat.not_le.mpr hv))))
  case unmaskAll => exact next_clocked hc (if_pos hf)
  case read =>
    subst hw
    have hword : s.wake.readWord f false o = (s.wake, s.wake.barWord f o) := by
      unfold State.readWord
      dsimp only
      rw [if_neg, if_neg] <;> simp <;> omega
    rw [exec_deviceTimeRead_bar0 hc hf, State.registerRead_dword ho hb, hword]
  case config => exact next_configure hc hf rfl
  case lastEntry =>
    have howe : ({ r with backlog := [] }.owe now) = { r with backlog := [], owed := some (r.lostSince, now / nsTicks), lostSince := 0 } := by
      simp [RingState.owe, hl, ho]
    rw [drainRing_entry hr hs ho hb, howe]
  case written =>
    have hring := writeEntry_ring (now := now) (f := f) (e := e) (r := r) (h := h)
    exact ⟨writeEntry_memory, writeEntry_tail, writeEntry_phase, by rw [hring], by rw [hring], by rw [hring], writeEntry_messages⟩

end Sys2Proof.Machine
end

section
/-! PROOFS. The device-memory window, link and power states (O7), and MCTP control messages (O8). -/

namespace Sys2Proof.Machine

open Sys2Proof.Safety

/-- The state `t` differs from `s` only in what reads leave behind: the stacks' records, the bursts and errors of their lanes, and the service records. -/
def AfterReads (s t : State) : Prop :=
  ∃ recs bursts errs sv, t = { s with mem := { s.mem with stackRecs := recs, laneBursts := bursts, laneErrors := errs }, svc := sv }

theorem AfterReads.refl (s : State) : AfterReads s s := ⟨_, _, _, _, rfl⟩

theorem AfterReads.trans {s t u : State} (hst : AfterReads s t) (htu : AfterReads t u) : AfterReads s u := by
  obtain ⟨_, _, _, _, rfl⟩ := hst
  obtain ⟨_, _, _, _, rfl⟩ := htu
  exact ⟨_, _, _, _, rfl⟩

section
variable {s t : State} {f : Nat}

theorem linkTrip_nil (d : List Byte) : linkTrip d [] = { data := d } := rfl

/-- A grain read without an error on its way, and correctable, is delivered as it stands (R168). -/
theorem State.deliverGrain_clean {links : List Nat} {a : Nat} (hu : s.mem.ue.contains (a / 256) = false) :
    s.deliverGrain links a {} = ((s.noteGrain a false { outcome := .clean, data := s.mem.grain (a / 256) }).noteLinks a { data := s.mem.grain (a / 256) },
      some (s.mem.grain (a / 256))) := by
  have hread : s.mem.readGrain (a / 256) [] = { outcome := .clean, data := s.mem.grain (a / 256) } := by
    unfold MemState.readGrain
    rw [hu]
    rfl
  unfold State.deliverGrain
  rw [hread, if_neg (fun h => nomatch h)]
  simp only [ite_self, linkTrip_nil, if_pos]

theorem AfterReads.noteGrain {a : Nat} {d : List Byte} {x : LinkTrip} : AfterReads s ((s.noteGrain a false { outcome := .clean, data := d }).noteLinks a x) :=
  ⟨_, _, _, _, rfl⟩

/-- An uncorrectable grain is not delivered. -/
theorem State.deliverGrain_ue {links : List Nat} {a : Nat} {o : GrainErrors} (hu : s.mem.ue.contains (a / 256) = true) :
    s.deliverGrain links a o = (s.noteGrain a false { outcome := .uncorrectable, data := s.mem.grain (a / 256) }, none) := by
  have hread : s.mem.readGrain (a / 256) o.symbols = { outcome := .uncorrectable, data := s.mem.grain (a / 256) } := by
    unfold MemState.readGrain
    rw [hu]
    rfl
  unfold State.deliverGrain
  rw [hread, if_pos rfl]

theorem AfterReads.bar2Place (h : AfterReads s t) (a : Nat) (write : Bool) : t.bar2Place f a write = s.bar2Place f a write := by
  obtain ⟨_, _, _, _, rfl⟩ := h
  rfl

/-- Pieces that are all accessible and correctable are read as they stand. -/
theorem State.bar2Pieces_clean {ps : List (Nat × Nat)} (hps : ∀ x ∈ ps, s.bar2Place f x.1 false = .ok x.1 ∧ s.mem.ue.contains (x.1 / 256) = false) :
    ∃ t, State.bar2Pieces f ps [] s = (t, some (ps.flatMap fun x => sliceAt (s.mem.grain (x.1 / 256)) (x.1 % 256) x.2)) ∧ AfterReads s t := by
  induction ps generalizing s with
  | nil => exact ⟨s, rfl, .refl s⟩
  | cons x ps ih =>
    obtain ⟨hx, hu⟩ := hps x List.mem_cons_self
    obtain ⟨t, ht, hst⟩ : ∃ t, s.deliverGrain ((s.hubLinks x.1).getD []) x.1 {} = (t, some (s.mem.grain (x.1 / 256))) ∧ AfterReads s t :=
      ⟨_, State.deliverGrain_clean hu, .noteGrain⟩
    have hpiece : s.bar2Piece f x {} = (t, some (sliceAt (s.mem.grain (x.1 / 256)) (x.1 % 256) x.2)) := by
      unfold State.bar2Piece
      rw [hx]
      simp only [ht, Option.map_some]
    have htail : ∀ y ∈ ps, t.bar2Place f y.1 false = .ok y.1 ∧ t.mem.ue.contains (y.1 / 256) = false := fun y hy => by
      rw [hst.bar2Place]
      obtain ⟨_, _, _, _, rfl⟩ := hst
      exact hps y (List.mem_cons_of_mem x hy)
    obtain ⟨u, hu, htu⟩ := ih htail
    have hgrain : ∀ g, t.mem.grain g = s.mem.grain g := fun g => by
      obtain ⟨_, _, _, _, rfl⟩ := hst
      rfl
    refine ⟨u, ?_, hst.trans htu⟩
    simp only [hgrain] at hu
    unfold State.bar2Pieces
    simp only [List.headD_nil, List.tail_nil, hpiece, hu, List.flatMap_cons, Option.bind_some, Option.map_some]

theorem State.bar2Bad_none {ps : List (Nat × Nat)} {write : Bool} (hps : ∀ x ∈ ps, s.bar2Place f x.1 write = .ok x.1) : s.bar2Bad f write ps = none := by
  rw [State.bar2Bad, List.findSome?_eq_none_iff]
  intro x hx
  rw [hps x hx]

/-- A read inside the window whose pieces are all delivered answers their bytes. -/
theorem State.bar2Read_data {offset len : Nat} {errors : List GrainErrors} {d : List Byte} (hlen : len ≠ 0) (hin : offset + len ≤ 2 ^ (s.host.fn f).bar2Log2)
    (hb : s.bar2Bad f false (grainPieces ((s.host.fn f).bar2Base.toNat + offset) len) = none)
    (hr : State.bar2Pieces f (grainPieces ((s.host.fn f).bar2Base.toNat + offset) len) errors s = (t, some d)) :
    s.bar2Read f offset len errors = t.replies (.data d) := by
  refine (if_neg (by omega)).trans ?_
  simp only [hb, hr]
  rfl

/-- A read inside the window with a piece that is not delivered answers Completer Abort. -/
theorem State.bar2Read_abort {offset len : Nat} {errors : List GrainErrors} (hlen : len ≠ 0) (hin : offset + len ≤ 2 ^ (s.host.fn f).bar2Log2)
    (hb : s.bar2Bad f false (grainPieces ((s.host.fn f).bar2Base.toNat + offset) len) = none)
    (hr : State.bar2Pieces f (grainPieces ((s.host.fn f).bar2Base.toNat + offset) len) errors s = (t, none)) :
    s.bar2Read f offset len errors
      = State.replies { t with host := t.host.setFn f ((t.host.fn f).logError aerCompleterAbort) } .completerAbort := by
  refine (if_neg (by omega)).trans ?_
  simp only [hb, hr]
  rfl

theorem State.writePhys_plain {a : Nat} {bs : List Byte} (hs : s.mem.seals = []) (hu : s.mem.ue = []) :
    s.writePhys f a bs = { s with mem := { s.mem with cells := setBytes 0 s.mem.cells a bs } } := by
  have hfind : (grainPieces a bs.length).find? (fun x => decide (x.2 < 256) && s.mem.ue.contains (x.1 / 256)) = none := by
    rw [List.find?_eq_none]
    simp [hu]
  have hwrite : s.mem.write a bs = { s.mem with cells := setBytes 0 s.mem.cells a bs } := if_pos (by rw [hs, hu]; rfl)
  unfold State.writePhys
  rw [hfind]
  dsimp only
  rw [hwrite]

end

section
variable {now f n : Nat} {r : RingState} {h : HostState}

theorem HostState.signal_link {v : Nat} : (h.signal f v).link = h.link := by
  unfold HostState.signal
  dsimp only
  split <;> rfl

theorem HostState.flushPending_link : (h.flushPending f).link = h.link := by
  unfold HostState.flushPending
  dsimp only
  split <;> rfl

theorem writeEntry_link {e : Entry} : (writeEntry now f e r h).2.link = h.link := by
  rw [writeEntry_cases]
  split
  · exact HostState.signal_link
  · rfl

theorem drainRing_link : (drainRing now f n r h).2.link = h.link := by
  induction n generalizing r h with
  | zero => rfl
  | succ n ih =>
    unfold drainRing
    split
    · rfl
    · split
      · exact ih.trans writeEntry_link
      · exact ih.trans writeEntry_link
      · rfl

/-- Waking ends L1 and changes neither memory nor the reset block nor the time (R356). -/
theorem State.wake_of_l1 {s : State} (hl : s.host.link = .l1) :
    s.wake.host.link = .l0 ∧ s.wake.mem = s.mem ∧ s.wake.rst = s.rst ∧ s.wake.now = s.now := by
  unfold State.wake
  rw [if_pos hl]
  refine List.foldlRecOn (motive := fun t : State => t.host.link = .l0 ∧ t.mem = s.mem ∧ t.rst = s.rst ∧ t.now = s.now) _ _ ⟨rfl, rfl, rfl, rfl⟩ ?_
  intro t ⟨hlink, hmem, hrst, hnow⟩ f _
  exact ⟨HostState.flushPending_link.trans (drainRing_link.trans hlink), hmem, hrst, hnow⟩

end

/-- Settles O7. -/
theorem deviceMemoryWindow : Obligations.device_memory_window := by
  unfold Obligations.device_memory_window
  refine ⟨⟨fun s f offset len hc hf hlen hin hps => ?read, fun s f offset len a errors hc hf hlen hin hp ha hu => ?readUe,
      fun s f offset data hc hf hd hin hb => ?write, fun s f a bs ha hs hu => ?put, fun s f offset data hc hf hd hin => ?poisoned⟩,
    fun s hc hl ha => ?sleep, fun s hc hl => ?exit, fun s hc hl => ?up, fun s hc hl => ?ready, fun s f hc hf => ?d3, fun s f hc hf => ?d0,
    fun s f hc hl hr => ?retry, fun s f head hc hf hl => ?unserved⟩
  case read =>
    obtain ⟨t, ht, recs, bursts, errs, sv, rfl⟩ := State.bar2Pieces_clean hps
    exact ⟨_, next_request hc hf (State.bar2Read_data hlen hin (State.bar2Bad_none fun x hx => (hps x hx).1) ht), rfl, rfl, rfl, rfl, rfl, rfl⟩
  case readUe =>
    have hbad : s.wake.bar2Bad f false [(a, len)] = none := State.bar2Bad_none fun x hx => by
      rw [List.mem_singleton] at hx
      rw [hx, ha]
    have hread : State.bar2Pieces f [(a, len)] errors s.wake =
        (s.wake.noteGrain a false { outcome := .uncorrectable, data := s.wake.mem.grain (a / 256) }, none) := by
      unfold State.bar2Pieces State.bar2Pieces State.bar2Piece
      rw [ha]
      simp only [State.deliverGrain_ue hu, Option.map_none, Option.bind_none]
    rw [← hp] at hbad hread
    exact ⟨_, next_request hc hf (State.bar2Read_abort hlen hin hbad hread), rfl, rfl, rfl⟩
  case write =>
    have hlen : data.length ≠ 0 := fun h => hd (List.eq_nil_of_length_eq_zero h)
    refine next_request hc hf ((if_neg (by omega)).trans ((if_neg Bool.false_ne_true).trans ?_))
    simp only [hb]
  case put =>
    unfold State.bar2Put State.bar2Put
    rw [ha]
    exact State.writePhys_plain hs hu
  case poisoned =>
    have hlen : data.length ≠ 0 := fun h => hd (List.eq_nil_of_length_eq_zero h)
    exact ⟨_, next_request hc hf ((if_neg (by omega)).trans (if_pos rfl)), by simp [State.hostAccess], by simp [State.hostAccess], by simp [State.hostAccess]⟩
  case sleep => exact next_clocked hc (if_pos ⟨hl, ha⟩)
  case exit => exact ⟨_, next_clocked hc rfl, State.wake_of_l1 hl⟩
  case up => exact next_clocked hc (if_pos hl)
  case ready => exact next_clocked hc (if_pos hl)
  case d3 => exact next_configure hc hf rfl
  case d0 => exact ⟨_, rfl, next_configure hc hf rfl⟩
  case retry =>
    have hn : ¬ s.host.configures f = true := by simp [HostState.configures, hr]
    refine next_clocked hc ((if_neg hn).trans ((if_pos hl).trans ?_))
    rw [hr]
    rfl
  case unserved =>
    have hn : ¬ s.host.serves f = true := by rw [hf]; decide
    exact next_clocked hc ((if_neg hn).trans (if_pos hl))

section
variable {n k : Nat} {b : List Byte}

theorem cutPackets_flatten (hn : 0 < n) (hk : b.length ≤ k) : (cutPackets n k b).flatMap id = b := by
  induction k generalizing b with
  | zero => rw [List.eq_nil_of_length_eq_zero (Nat.le_zero.mp hk)]; rfl
  | succ k ih =>
    unfold cutPackets
    split
    · next he => rw [List.isEmpty_iff.mp he]; rfl
    · have hd : (b.drop n).length ≤ k := by rw [List.length_drop]; omega
      rw [List.flatMap_cons, ih hd]
      exact List.take_append_drop n b

theorem length_le_of_mem_cutPackets {p : List Byte} (hp : p ∈ cutPackets n k b) : p.length ≤ n := by
  induction k generalizing b with
  | zero => cases hp
  | succ k ih =>
    unfold cutPackets at hp
    split at hp
    · cases hp
    · obtain rfl | hp := List.mem_cons.mp hp
      · exact List.length_take_le n b
      · exact ih hp

end

section
variable {s t : State} {v : Vdm} {f : State → State} {answer : List Byte}

theorem next_mctp (hc : Clocked s) (ho : s.mctpOpen v = true) :
    (.next (s.clocked fun s => s.mctp v f answer) : Host.Outcome State Fault Refusal)
      = .next { f s.wake with host := { (f s.wake).host with reply := .mctp (vdmPackets v answer) } } :=
  next_clocked hc (if_pos ho)

/-- A closed endpoint is silent, whether the clocks run or not. -/
theorem next_mctp_closed {f : State → State → State} {answer : State → List Byte} (ho : s.mctpOpen v = false) :
    (.next (s.clocked fun s => s.mctp v (f s) (answer s)) : Host.Outcome State Fault Refusal) = .next s := by
  unfold State.clocked
  split
  · rfl
  · exact congrArg Host.Outcome.next (if_neg (by rw [ho]; decide))

end

/-- Settles O8. -/
theorem mctpControlMessages : Obligations.mctp_control_messages := by
  unfold Obligations.mctp_control_messages
  refine ⟨fun s v eid hc ho => next_mctp hc ho, fun s v hc ho => next_mctp hc ho, fun s v hc ho => next_mctp hc ho, fun s v hc ho => next_mctp hc ho,
    fun s v msg hc ho => next_mctp hc ho, fun v b => ⟨?whole, ?size⟩, fun s v hv => ?routed, fun s v eid ho => ?closed⟩
  case whole => exact cutPackets_flatten (by omega) (Nat.le_refl _)
  case size =>
    intro p hp
    have := length_le_of_mem_cutPackets hp
    omega
  case routed =>
    have hv' : (v.to_ == 0) = false := beq_false_of_ne hv
    simp [State.mctpOpen, HostState.takesVdm, hv']
  case closed => exact ⟨next_mctp_closed ho, next_mctp_closed ho, next_mctp_closed ho, next_mctp_closed ho⟩

end Sys2Proof.Machine
end

section
/-! PROOFS. Telemetry records (O9), and a block's way to its first bundle (O10). -/

namespace Sys2Proof.Machine

open Sys2Proof.Safety

section
variable {q : Req} {s : State} {o : TelObj} {n : Nat}

/-- One record of 64 bytes of an object with 256 of them. -/
theorem telRange_one (ha : q.u32 4 < 256) (hn : q.u32 8 = 1) {pf0 clears : Bool} : telRange ⟨64, 256, pf0, clears⟩ q = none := by
  unfold telRange
  dsimp only
  rw [if_neg (by omega), if_neg (by omega)]

theorem recordReadRow_of_range (ho : telObj (q.u32 0) = some o) (hr : telRange o q = none) : recordReadRow q s =
    (s.chargeAll, { reply := ((List.range (q.u32 8)).map (q.u32 4 + ·)).flatMap (s.chargeAll.telRecord (q.u32 0)) }) := by
  unfold recordReadRow
  simp only [ho, hr]

theorem recordClearRow_one (ho : telObj n = some o) (hq : q.u32 0 = n) (hr : telRange o q = none) (hc : o.clears = true) (hn : q.u32 8 = 1) :
    recordClearRow q s = (State.telClear n s (q.u32 4), {}) := by
  unfold recordClearRow
  simp [hq, ho, hr, hc, hn]

theorem recordClearRow_not_cleared (ho : telObj (q.u32 0) = some o) (hr : telRange o q = none) (hc : o.clears = false) :
    recordClearRow q s = (s, badField 0) := by
  unfold recordClearRow
  simp [ho, hr, hc]

/-- A function other than PF0 may not read an object of PF0's (Table 15.16). -/
theorem mayRead_pf0 (ho : telObj (q.u32 0 % 256) = some o) (hf : q.fn ≠ 0) (hp : o.pf0 = true) : s.mayRead q = false := by
  unfold State.mayRead
  simp [ho, hf, hp]

end

/-- Settles O9. -/
theorem telemetryRecords : Obligations.telemetry_records := by
  unfold Obligations.telemetry_records
  refine ⟨fun s f m o h ho hr hf => ?read, fun s f m o h ho hf hp => ?pf0, fun s f m h hq ha hn => ?fmt, fun s f m h hq ha hn => ?clip, fun s f m h hq hr => ?slip⟩
  case read => exact congrArg Host.Outcome.next (serve_of_admitted h (recordReadRow_of_range ho hr) rfl)
  case pf0 =>
    obtain ⟨ht, hc, hl⟩ := h
    have hown : (telForm 0x0801 false).owns (s.ctl.req f m) s = false := mayRead_pf0 ho hf hp
    exact congrArg Host.Outcome.next (serve_refused ht hc (refusal_of_not_permitted hl (by rw [hown]; simp)))
  case fmt => exact congrArg Host.Outcome.next (serve_of_admitted h (recordClearRow_one rfl hq (telRange_one ha hn) rfl hn) rfl)
  case clip => exact congrArg Host.Outcome.next (serve_of_admitted h (recordClearRow_one rfl hq (telRange_one ha hn) rfl hn) rfl)
  case slip =>
    exact congrArg Host.Outcome.next (serve_refused_of_admitted h (recordClearRow_not_cleared (by rw [hq]; rfl) hr rfl) (by decide))

theorem tget_each_range_tset {α : Type} [DecidableEq α] {d : α} {x : Nat → α} {t : Tab α} {j n : Nat} (h : twf d t = true) (hj : j < n) :
    tget d (each (List.range n) (fun i t => tset d t i (x i)) t) j = x j :=
  tget_each_range_tmod (f := fun i _ => x i) h hj

section
variable {s : State} {c : Nat} {k : CoreState} {l : LoadBlock}

/-- An idle core with nothing kept takes the candidate its functions' shares pick (R243). -/
theorem CoreState.choose_idle {q : SeqState} {now f : Nat} {succ : Bool} {ch : Chain} (hl : k.load = none) (hs : k.swap = none) (hr : k.run = none)
    (hk : k.kept = []) (hp : (k.raise (k.candidates q) none).pick q = some f) (hc : (k.raise (k.candidates q) none).candidate q f = some (succ, ch)) :
    k.choose q now = { ((k.raise (k.candidates q) none).take f succ ch).1 with
      load := some { fn := f, chain := ((k.raise (k.candidates q) none).take f succ ch).2, headAt := now }, kept := [] } := by
  have hrun : (k.raise (k.candidates q) none).run = none := hr
  have hkept : (k.raise (k.candidates q) none).kept = [] := hk
  unfold CoreState.choose
  simp only [hl, hs, hr, Option.isSome_none, Option.isNone_none, Bool.or_self, Bool.false_eq_true, if_false, if_true, hp, hc, hrun, hkept, List.find?_nil,
    Option.getD_none, List.filter_nil]

theorem State.blockLoad_ok {img : List Byte} (hl : (s.core c).load = some l) (hp : l.phase = .chosen) (hi : s.loadChecks c l = .ok img) :
    s.blockLoad c = s.modCore c (fun k => { k with load := some (l.loaded img) }) := by
  unfold State.blockLoad
  simp only [hl, hp, hi, ne_eq, not_true_eq_false, false_and, if_false]

theorem State.blockLoad_error {e : Ending} (hl : (s.core c).load = some l) (hp : l.phase = .chosen) (hi : s.loadChecks c l = .error e) :
    s.blockLoad c = s.failLoad c l e := by
  unfold State.blockLoad
  simp only [hl, hp, hi, ne_eq, not_true_eq_false, false_and, if_false]

theorem State.boundMet_met (hl : (s.core c).load = some l) (hp : l.phase = .boundWait) (ha : s.available c = true)
    (hb : s.share.ctrBad (clusterOf c) (parseHeader l.image).waitCtr = false)
    (hm : (s.share.ctr (clusterOf c) (parseHeader l.image).waitCtr - BitVec.ofNat 32 (parseHeader l.image).waitThr).toNat < 2 ^ 31) :
    s.boundMet c = s.modCore c (fun k => { k with load := some { l with phase := .checked } }) := by
  have hmeets : meets (s.share.ctr (clusterOf c) (parseHeader l.image).waitCtr) (BitVec.ofNat 32 (parseHeader l.image).waitThr) = true :=
    decide_eq_true hm
  unfold State.boundMet
  simp [hl, hp, ha, hb, hmeets]

theorem State.boundMet_unavailable (hl : (s.core c).load = some l) (ha : s.available c = false) :
    s.boundMet c = s.failLoad c l (blockFault faultCoreUnavailable) := by
  unfold State.boundMet
  simp [hl, ha]

theorem State.boundTimeout_unavailable (hl : (s.core c).load = some l) (ha : s.available c = false) :
    s.boundTimeout c = s.failLoad c l (blockFault faultCoreUnavailable) := by
  unfold State.boundTimeout
  simp [hl, ha]

theorem State.boundTimeout_late (hl : (s.core c).load = some l) (hp : l.phase = .boundWait) (ha : s.available c = true)
    (hw : (parseHeader l.image).wallLimit ≠ 0)
    (hm : 2 ^ 31 ≤ (s.share.ctr (clusterOf c) (parseHeader l.image).waitCtr - BitVec.ofNat 32 (parseHeader l.image).waitThr).toNat) :
    s.boundTimeout c = (s.upTo (l.headAt + (parseHeader l.image).wallLimit * nsTicks + fabTicks)).failLoad c l { status := BitVec.ofNat 16 stSlipLimit } := by
  have hmeets : meets (s.share.ctr (clusterOf c) (parseHeader l.image).waitCtr) (BitVec.ofNat 32 (parseHeader l.image).waitThr) = false :=
    decide_eq_false (Nat.not_lt.mpr hm)
  unfold State.boundTimeout
  simp [hl, hp, ha, hw, hmeets]

theorem State.blockReady_ok {bs : List W32} (hl : (s.core c).load = some l) (hp : l.phase = .checked) (ha : s.available c = true)
    (hb : readBounds s.mem s.pages l.fn l.image (parseHeader l.image).mboundCount 0 = .ok bs) :
    s.blockReady c = (s.modCore c (fun k => { k with load := some { l with phase := .ready, bounds := bs, readyAt := s.now } })).retarget c := by
  unfold State.blockReady
  simp [hl, hp, ha, hb]

/-- A block that may be issued is, on a core still available with enough groups. -/
theorem State.blockIssue_cases (h : MayIssue s c l) : s.blockIssue c =
    (if !s.available c then s.failLoad c l (blockFault faultCoreUnavailable)
    else if s.groupsFew c l.fn l.image then s.failLoad c l (blockFault faultGroups)
    else (s.upTo ((s.core c).issueTime l)).modCore c (fun k => k.begin l (s.share.ownGroups c l.fn))) := by
  obtain ⟨_, hl, hp, hr, hs, hch, hw, hwait, hg, hd⟩ := h
  unfold State.blockIssue
  simp [hl, hp, hr, hs, hch, hw, hwait, hg, hd]

end

/-- Settles O10. -/
theorem blocksAreChosenLoadedAndIssued : Obligations.blocks_are_chosen_loaded_and_issued := by
  unfold Obligations.blocks_are_chosen_loaded_and_issued
  refine ⟨⟨fun s c f succ ch hc hl hs hr hk hp hcand => ?chosen, fun s c l img hc hl hp hi => ?load, fun s c l e hc hl hp hi => ?loadError,
    fun s c l hc hl hp ha hb hm => ?met, fun s c l hc hl hp ha hw hm => ?timeout, fun s c l bs hc hl hp ha hb => ?ready,
    fun s c l h ha hg => ?issue, fun s c l h ha => ?unavailable, fun s c l hc hl hp ha => ⟨?metUnavailable, ?timeoutUnavailable⟩⟩, fun k l gs i => ?first⟩
  case chosen => exact next_clocked hc (congrArg (s.setCore c) (CoreState.choose_idle hl hs hr hk hp hcand))
  case load => exact next_clocked hc (State.blockLoad_ok hl hp hi)
  case loadError => exact next_clocked hc (State.blockLoad_error hl hp hi)
  case met => exact next_clocked hc (State.boundMet_met hl hp ha hb hm)
  case timeout => exact next_clocked hc (State.boundTimeout_late hl hp ha hw hm)
  case ready => exact next_clocked hc (State.blockReady_ok hl hp ha hb)
  case issue =>
    refine next_clocked h.1 ((State.blockIssue_cases h).trans ?_)
    rw [ha, hg]
    rfl
  case unavailable =>
    refine next_clocked h.1 ((State.blockIssue_cases h).trans ?_)
    rw [ha]
    rfl
  case metUnavailable => exact next_clocked hc (State.boundMet_unavailable hl ha)
  case timeoutUnavailable => exact next_clocked hc (State.boundTimeout_unavailable hl ha)
  case first =>
    refine ⟨?_, rfl, rfl, rfl, _, rfl, rfl, rfl, rfl, rfl, rfl, rfl, rfl, rfl, rfl, rfl, rfl, rfl, rfl⟩
    unfold CoreState.sreg CoreState.begin
    dsimp only
    rw [Nat.mod_eq_of_lt i.isLt, tget_each_range_tset twf_nil i.isLt]

end Sys2Proof.Machine
end

section
/-! PROOFS. The end of a block (O11). -/

namespace Sys2Proof.Machine

/-- A block that ended OK, with nothing to report. -/
def quietBlock : EndedBlock :=
  { fn := 0, ordinal := 1, chain := 1, ending := {}, event := false, clipFlag := false, slipOver := false, branched := false, chainEnd := true, dropped := 0
    wallNs := 0, clipCount := 0, maxMag := 0, slips := {} }

/-- Core 0 has ended `quietBlock` and caught an error of that block's mover, which it has not reported yet. -/
def caughtState : State := State.reset.setCore 0 { ended := [quietBlock], caught := some (1, { status := BitVec.ofNat 16 stTranslation }) }

/-- Whether a step leaves core 0 with a mover's error still to be reported. -/
def stillCaught : Host.Outcome State Fault Refusal → Bool
  | .next t => (t.core 0).caught.isSome
  | _ => false

/-- Refutes O11: the completion of a block first takes the mover's error its core has caught, so in `caughtState` more changes than that the block has left the core. -/
theorem not_blocksEndAndReport : ¬ Obligations.blocks_end_and_report := by
  intro ⟨⟨_, _, _, hquiet, _⟩, _⟩
  have h := congrArg stillCaught (hquiet caughtState 0 quietBlock rfl rfl rfl rfl rfl rfl)
  revert h
  decide

end Sys2Proof.Machine
end

section
/-! PROOFS. The sequencer's own words (O12), and what an ADD does to the counters (O13). -/

namespace Sys2Proof.Machine

open Sys2Proof.Safety

section
variable {s s1 : State} {c : CoreIx} {r : RunBlock} {w p : Nat} {t : State}

/-- A word that issues does what its act does. -/
theorem next_issues {opcode : Nat} {act : State → RunBlock → Nat → Nat → State} (h : Issues s c opcode s1 r w p) (ht : act s1 r w p = t) :
    (.next (s.clocked fun s => s.issueWord c opcode act) : Host.Outcome State Fault Refusal) = .next t :=
  congrArg Host.Outcome.next ((issueWord_of_issues h act).trans ht)

theorem regopValue_eq (mode : Nat) (old imm src : W32) : regopValue mode old imm src =
    (match mode with
      | 0 => imm
      | 1 => src
      | 2 => old + imm
      | 3 => if imm.toInt < old.toInt then imm else old
      | _ => if old.toInt < imm.toInt then imm else old) := by
  rcases mode with _ | _ | _ | _ | _
  · rfl
  · rfl
  · rfl
  · exact if_congr BitVec.slt_iff_toInt_lt rfl rfl
  · exact if_congr BitVec.slt_iff_toInt_lt rfl rfl

/-- The value a SETFLAG writes is 1 where its comparison holds (Table 4.9). -/
theorem flagCompare_value {P : Prop} [Decidable P] {b : Bool} (hb : b = decide P) : (if b = true then (1 : W32) else 0) = 1 ↔ P := by
  rw [hb]
  by_cases hP : P <;> simp [hP]

theorem loadregAct_ok (hs : (s1.ctxOf r.fn).spadOk ((parseSlot w).spad 1) = true) (hc : r.collides (loadregOp w p ((parseSlot w).spad 1)) p = false)
    (hm : (s1.core c).mover.holds (c % 16) false [((parseSlot w).spad 1, 4)] = none) (hb : s1.cores.badWord c ((parseSlot w).spad 1, 4) = none) :
    loadregAct c s1 r w p = s1.modRun c (fun r => RunBlock.write { r with ops := r.liveOps p ++ [loadregOp w p ((parseSlot w).spad 1)] } p 4 false
      ((parseSlot w).op 0 % 16) (BitVec.ofNat 32 (leNat ((s1.viewAt c p).bytes ((parseSlot w).spad 1) 4)))) := by
  unfold loadregAct
  simp only [hs, hc, hm, hb, Bool.not_true, Bool.false_eq_true, if_false, Option.isSome_none]

theorem loadregAct_collides (hs : (s1.ctxOf r.fn).spadOk ((parseSlot w).spad 1) = true) (hc : r.collides (loadregOp w p ((parseSlot w).spad 1)) p = true) :
    loadregAct c s1 r w p = s1.endBlock c (r.timeAt (s1.core c).period p) (blockFault faultBank) := by
  unfold loadregAct
  simp only [hs, hc, Bool.not_true, Bool.false_eq_true, if_false, if_true]

theorem loadregAct_partition (hs : (s1.ctxOf r.fn).spadOk ((parseSlot w).spad 1) = false) :
    loadregAct c s1 r w p = s1.endBlock c (r.timeAt (s1.core c).period p) (blockFault faultPartition 0x10 ((parseSlot w).spad 1) 2) := by
  unfold loadregAct
  simp only [hs, Bool.not_false, if_true]

theorem addAct_now (ho : (s1.ctxOf r.fn).ownsCtr (clusterOf c) ((parseSlot w).op 0 % 2 ^ 13) = true)
    (hr : bit ((parseSlot w).op 1) 16 = false ∨ (s1.core c).mover.descs = []) :
    addAct c s1 r w p = s1.addCtr (clusterOf c) ((parseSlot w).op 0 % 2 ^ 13) ((parseSlot w).op 1 % 65536) := by
  have hb : (bit ((parseSlot w).op 1) 16 && (s1.core c).mover.descs.any (fun d => d.isStore)) = false := by
    obtain h | h := hr <;> simp [h]
  unfold addAct
  simp only [ho, hb, Bool.not_true, Bool.false_eq_true, if_false]

theorem addAct_release (ho : (s1.ctxOf r.fn).ownsCtr (clusterOf c) ((parseSlot w).op 0 % 2 ^ 13) = true)
    (hr : bit ((parseSlot w).op 1) 16 = true) (hd : (s1.core c).mover.descs.any (fun d => d.isStore) = true) :
    addAct c s1 r w p = s1.modCore c (fun k => { k with mover := { k.mover with
      adds := k.mover.adds ++ [{ block := r.ordinal, ctr := (parseSlot w).op 0 % 2 ^ 13, amount := (parseSlot w).op 1 % 65536, before := k.mover.nextId }] } }) := by
  unfold addAct
  simp only [ho, hr, hd, Bool.not_true, Bool.false_eq_true, if_false, Bool.and_self, if_true]

theorem addAct_foreign (ho : (s1.ctxOf r.fn).ownsCtr (clusterOf c) ((parseSlot w).op 0 % 2 ^ 13) = false) :
    addAct c s1 r w p = s1.endBlock c (r.timeAt (s1.core c).period p) (blockFault faultCounterOwner) := by
  unfold addAct
  simp only [ho, Bool.not_false, if_true]

theorem waitGeAct_foreign (ho : (s1.ctxOf r.fn).ownsCtr (clusterOf c) ((parseSlot w).op 0 % 2 ^ 13) = false) :
    waitGeAct c s1 r w p = s1.endBlock c (r.timeAt (s1.core c).period p) (blockFault faultCounterOwner) := by
  unfold waitGeAct
  simp only [ho, Bool.not_false, if_true]

theorem waitGeAct_immediate (ho : (s1.ctxOf r.fn).ownsCtr (clusterOf c) ((parseSlot w).op 0 % 2 ^ 13) = true)
    (hb : s1.share.ctrBad (clusterOf c) ((parseSlot w).op 0 % 2 ^ 13) = false) (hi : bit ((parseSlot w).op 2) 2 = false) :
    waitGeAct c s1 r w p =
      (if (s1.share.seen (s1.now / fabTicks) (clusterOf c) ((parseSlot w).op 0 % 2 ^ 13) - BitVec.ofNat 32 ((parseSlot w).op 1)).toNat < 2 ^ 31 then s1
      else s1.slipAt c p [.counter ((parseSlot w).op 0 % 2 ^ 13) (BitVec.ofNat 32 ((parseSlot w).op 1)).toNat (classCause ((parseSlot w).op 2 % 4))]) := by
  unfold waitGeAct meets
  simp only [ho, hb, hi, Bool.not_true, Bool.false_eq_true, if_false, decide_eq_true_eq, add_zero]

end

section
variable {k : CoreState} {r : RunBlock} {w : ScalarWrite}

/-- The one write due becomes visible. -/
theorem CoreState.scalarWrite_one (hr : k.run = some r) (hs : r.scalars = [w]) : k.scalarWrite =
    (if w.isFlag then { k with run := some { r with scalars := [] }, userFlags := BitVec.ofNat 4 (if w.value = 0 then k.userFlags.toNat &&& (15 - 2 ^ w.index)
        else k.userFlags.toNat ||| 2 ^ w.index) }
      else { k with run := some { r with scalars := [] }, sregs := tset 0 k.sregs w.index w.value }) := by
  unfold CoreState.scalarWrite
  rw [hr]
  simp only [hs, firstScalar, List.erase_cons_head]

theorem flag_cleared : ∀ (u : BitVec 4) (i j : Fin 4), (BitVec.ofNat 4 (u.toNat &&& (15 - 2 ^ j.val))).getLsbD i = if i.val = j.val then false else u.getLsbD i := by
  decide

theorem flag_set : ∀ (u : BitVec 4) (i j : Fin 4), (BitVec.ofNat 4 (u.toNat ||| 2 ^ j.val)).getLsbD i = if i.val = j.val then true else u.getLsbD i := by
  decide

end

/-- A core's clock always has a period. -/
theorem CoreState.period_pos (k : CoreState) : 0 < k.period := by
  have hg := k.clock.gear.isLt
  exact Nat.div_pos (by omega) (Nat.succ_pos _)

/-- The next core cycle after a slip that has no cause left. -/
def RunBlock.resumesAt (r : RunBlock) (now period : Nat) : Nat := r.posAt + ((now - r.posAt) / period + 1) * period

theorem RunBlock.lt_resumesAt {r : RunBlock} {now period : Nat} (hp : 0 < period) : now < r.resumesAt now period := by
  have h := Nat.lt_div_mul_add (a := now - r.posAt) hp
  rw [RunBlock.resumesAt, Nat.add_one_mul]
  omega

theorem RunBlock.resumesAt_le {r : RunBlock} {now period : Nat} (hn : r.posAt ≤ now) : r.resumesAt now period ≤ now + period := by
  have h := Nat.div_mul_le_self (now - r.posAt) period
  rw [RunBlock.resumesAt, Nat.add_one_mul]
  omega

/-- A slip that has no cause left ends at the next core cycle. -/
theorem State.slipResume_ends {s u : State} {c : Nat} {r : RunBlock} {sl : SlipNow} (hu : s.settle c s.now = u) (hr : (u.core c).run = some r)
    (hs : r.slip = some sl) (hc : slipCause u.share (u.core c).mover c (u.now / fabTicks) sl = none) :
    s.slipResume c = (u.upTo (r.resumesAt u.now (u.core c).period)).modRun c (fun x => { x with
      slip := none, posAt := r.resumesAt u.now (u.core c).period, chargedTo := max x.chargedTo sl.chargedTo, chargedAs := sl.chargedAs }) := by
  have hshow : u.addsShow c sl = u := by
    unfold State.addsShow
    simp only [hc, Option.isSome_none, Bool.false_and, Bool.false_eq_true, if_false]
  unfold State.slipResume
  simp only [hu, hr, hs, Option.bind_some, hshow, hc, Option.isSome_none, Bool.false_eq_true, if_false]
  rfl

/-- Settles O12. -/
theorem registerAndFlagWords : Obligations.register_and_flag_words := by
  unfold Obligations.register_and_flag_words
  refine ⟨⟨⟨fun s s1 c r w p h => ?regop, fun s s1 c r w p h => ?setflag, fun s s1 c r w p h hs hc hm hb => next_issues h (loadregAct_ok hs hc hm hb),
      fun s s1 c r w p h hs hc => next_issues h (loadregAct_collides hs hc), fun s s1 c r w p h hs => next_issues h (loadregAct_partition hs)⟩,
      fun k r w hr hs hk => ?scalar⟩,
    fun s s1 c r w p h ho hr => next_issues h (addAct_now ho hr), fun s s1 c r w p h ho hr hd => next_issues h (addAct_release ho hr hd),
    fun s s1 c r w p h ho => next_issues h (addAct_foreign ho), fun s s1 c r w p h ho hb hi => next_issues h (waitGeAct_immediate ho hb hi),
    fun s s1 c r w p h ho => next_issues h (waitGeAct_foreign ho), fun s c a l hc ha hd => ?released, fun s c r sl hc hr hs hn => ?resume⟩
  case regop =>
    refine next_issues h ?_
    unfold regopAct
    simp only [regopValue_eq] <;> rfl
  case setflag =>
    refine ⟨_, next_issues h rfl, ?_, ?_, ?_, ?_, ?_⟩
    · split
      · exact .inr rfl
      · exact .inl rfl
    · intro h0
      exact flagCompare_value (by rw [h0]; simp [flagCompare, beq_eq_decide])
    · intro h0
      exact flagCompare_value (by rw [h0]; simp [flagCompare, bne, beq_eq_decide])
    · intro h0
      exact flagCompare_value (by rw [h0]; simp [flagCompare, BitVec.slt_eq_decide])
    · intro h0
      exact flagCompare_value (by rw [h0]; simp [flagCompare, BitVec.slt_eq_decide, ← decide_not])
  case scalar =>
    rw [CoreState.scalarWrite_one hr hs]
    refine ⟨fun hf hi => ?_, fun hf hi => ?_, ?_, ?_, ?_⟩
    · rw [hf]
      refine ⟨fun i => ?_, rfl⟩
      simp only [Bool.false_eq_true, if_false, CoreState.sreg, Nat.mod_eq_of_lt i.isLt]
      split
      · next he => rw [he, tget_tset_same hk]
      · next hne => rw [tget_tset_ne hk hne]
    · rw [hf]
      refine ⟨fun i => ?_, rfl⟩
      by_cases hv : w.value = 0
      · rw [if_pos rfl, if_pos hv, decide_eq_false (not_not.mpr hv)]
        exact flag_cleared k.userFlags i ⟨w.index, hi⟩
      · rw [if_pos rfl, if_neg hv, decide_eq_true hv]
        exact flag_set k.userFlags i ⟨w.index, hi⟩
    all_goals split <;> rfl
  case released =>
    refine next_clocked hc ?_
    have he : (a :: l).erase a = l := List.erase_cons_head a l
    unfold State.releaseAdd State.modCore
    simp only [ha, hd, he, List.all_nil, List.find?_cons_of_pos]
  case resume =>
    have hper := ((s.settle c s.now).core c).period_pos
    exact ⟨_, next_clocked hc (State.slipResume_ends rfl hr hs hn), RunBlock.lt_resumesAt hper, RunBlock.resumesAt_le, _, rfl⟩

section
variable {h : ShareState} {cl fld fld' amount t n : Nat}

/-- An ADD to a correctable counter, by the table that holds it (R101). -/
theorem ShareState.addCtr_hub (hb : h.ctrBad cl fld = false) (hf : bit fld 12 = true) :
    h.addCtr cl fld amount = { h with hubCtr := tmod 0 h.hubCtr (fld % 4096) (· + BitVec.ofNat 32 amount) } := by
  simp [ShareState.addCtr, hb, hf]

theorem ShareState.addCtr_cluster (hb : h.ctrBad cl fld = false) (hf : bit fld 12 = false) :
    h.addCtr cl fld amount = { h with clusterCtr := tmod 0 h.clusterCtr (256 * cl + fld % 256) (· + BitVec.ofNat 32 amount) } := by
  simp [ShareState.addCtr, hb, hf]

theorem ShareState.addCtr_bad (hb : h.ctrBad cl fld = true) : h.addCtr cl fld amount = h := if_pos hb

theorem ShareState.addCtr_ctr_same (hhub : twf 0 h.hubCtr = true) (hcluster : twf 0 h.clusterCtr = true) (hb : h.ctrBad cl fld = false) :
    (h.addCtr cl fld amount).ctr cl fld = h.ctr cl fld + BitVec.ofNat 32 amount := by
  cases hf : bit fld 12
  · rw [ShareState.addCtr_cluster hb hf]
    simp only [ShareState.ctr, hf, Bool.false_eq_true, if_false, tget_tmod_same hcluster]
  · rw [ShareState.addCtr_hub hb hf]
    simp only [ShareState.ctr, hf, if_true, tget_tmod_same hhub]

theorem ShareState.addCtr_ctr_other {cl' : Nat} (hhub : twf 0 h.hubCtr = true) (hcluster : twf 0 h.clusterCtr = true)
    (hne : bit fld 12 ≠ bit fld' 12 ∨ (bit fld 12 = true ∧ bit fld' 12 = true ∧ fld % 4096 ≠ fld' % 4096)
      ∨ (bit fld 12 = false ∧ bit fld' 12 = false ∧ (cl, fld % 256) ≠ (cl', fld' % 256))) :
    (h.addCtr cl fld amount).ctr cl' fld' = h.ctr cl' fld' := by
  cases hb : h.ctrBad cl fld
  case true => rw [ShareState.addCtr_bad hb]
  case false =>
    obtain hne | ⟨hf, hf', hne⟩ | ⟨hf, hf', hne⟩ := hne
    · cases hf : bit fld 12
      · have hf' : bit fld' 12 = true := by rw [hf] at hne; exact Bool.not_eq_false _ |>.mp (Ne.symm hne)
        rw [ShareState.addCtr_cluster hb hf]
        simp only [ShareState.ctr, hf', if_true]
      · have hf' : bit fld' 12 = false := by rw [hf] at hne; exact Bool.not_eq_true _ |>.mp (Ne.symm hne)
        rw [ShareState.addCtr_hub hb hf]
        simp only [ShareState.ctr, hf', Bool.false_eq_true, if_false]
    · rw [ShareState.addCtr_hub hb hf]
      simp only [ShareState.ctr, hf', if_true, tget_tmod_ne hhub (Ne.symm hne)]
    · rw [ShareState.addCtr_cluster hb hf]
      have hkey : 256 * cl' + fld' % 256 ≠ 256 * cl + fld % 256 := fun e => hne (Prod.ext (by dsimp only; omega) (by dsimp only; omega))
      simp only [ShareState.ctr, hf', Bool.false_eq_true, if_false, tget_tmod_ne hcluster hkey]

/-- What is taken off a counter for this cycle's ADDs can be taken off in any order. -/
theorem foldl_sub_add {l : List (Nat × Nat × Nat)} {p : Nat × Nat × Nat → Bool} {v x : W32} :
    l.foldl (fun v a => if p a then v - BitVec.ofNat 32 a.2.2 else v) (v + x) = l.foldl (fun v a => if p a then v - BitVec.ofNat 32 a.2.2 else v) v + x := by
  induction l generalizing v with
  | nil => rfl
  | cons a l ih =>
    simp only [List.foldl_cons]
    split
    · rw [add_sub_right_comm]
      exact ih
    · exact ih

/-- Two fields that name one counter. -/
def SameField (fld fld' : Nat) : Prop :=
  bit fld 12 = true ∧ bit fld' 12 = true ∧ fld % 4096 = fld' % 4096 ∨ bit fld 12 = false ∧ bit fld' 12 = false ∧ fld % 256 = fld' % 256

theorem SameField.ctr (hs : SameField fld fld') : h.ctr cl fld' = h.ctr cl fld := by
  obtain ⟨hf, hf', he⟩ | ⟨hf, hf', he⟩ := hs <;> simp [ShareState.ctr, hf, hf', he]

theorem SameField.sameCtr (hs : SameField fld fld') : sameCtr cl fld' cl fld = true := by
  obtain ⟨hf, hf', he⟩ | ⟨hf, hf', he⟩ := hs <;> simp [Machine.sameCtr, hf, hf', he]

/-- In the fabric cycle of an ADD nobody sees it (R102). -/
theorem ShareState.addAt_seen_now (hhub : twf 0 h.hubCtr = true) (hcluster : twf 0 h.clusterCtr = true) (hs : SameField fld fld') :
    (h.addAt t cl fld amount).seen (t / fabTicks) cl fld' = h.seen (t / fabTicks) cl fld' := by
  cases hb : h.ctrBad cl fld
  case true => rw [ShareState.addAt, if_pos hb]
  case false =>
    have hctr : (h.addCtr cl fld amount).ctr cl fld' = h.ctr cl fld' + BitVec.ofNat 32 amount := by
      rw [hs.ctr, hs.ctr, ShareState.addCtr_ctr_same hhub hcluster hb]
    have hctr' : ∀ l m, ShareState.ctr { h.addCtr cl fld amount with added := l, addedIn := m } cl fld' = h.ctr cl fld' + BitVec.ofNat 32 amount :=
      fun _ _ => hctr
    unfold ShareState.addAt ShareState.seen
    simp only [hb, Bool.false_eq_true, if_false, if_true, hctr']
    split
    · rw [List.foldl_append, foldl_sub_add]
      simp only [List.foldl_cons, List.foldl_nil, hs.sameCtr, if_true, add_sub_cancel_right]
    · simp only [List.nil_append, List.foldl_cons, List.foldl_nil, hs.sameCtr, if_true, add_sub_cancel_right]

/-- From the next fabric cycle on everybody does (R102). -/
theorem ShareState.addAt_seen_later (hhub : twf 0 h.hubCtr = true) (hcluster : twf 0 h.clusterCtr = true) (hs : SameField fld fld')
    (hb : h.ctrBad cl fld = false) (hn : t / fabTicks < n) : (h.addAt t cl fld amount).seen n cl fld' = h.ctr cl fld' + BitVec.ofNat 32 amount := by
  have hctr : (h.addCtr cl fld amount).ctr cl fld' = h.ctr cl fld' + BitVec.ofNat 32 amount := by
    rw [hs.ctr, hs.ctr, ShareState.addCtr_ctr_same hhub hcluster hb]
  unfold ShareState.addAt ShareState.seen
  simp only [hb, Bool.false_eq_true, if_false]
  rw [if_neg (Nat.ne_of_lt hn)]
  exact hctr

end

/-- Settles O13. -/
theorem anAddChangesOneCounter : Obligations.an_add_changes_one_counter := by
  intro h cl fld amount hhub hcluster
  refine ⟨ShareState.addCtr_ctr_same hhub hcluster, ShareState.addCtr_bad, fun cl' fld' _ _ hne => ShareState.addCtr_ctr_other hhub hcluster hne, ?owners,
    fun fld' hs => ⟨fun t => ShareState.addAt_seen_now hhub hcluster hs, fun t n hb hn => ShareState.addAt_seen_later hhub hcluster hs hb hn⟩⟩
  case owners =>
    unfold ShareState.addCtr
    split
    · rfl
    · split <;> rfl

end Sys2Proof.Machine
end

section
/-! PROOFS. Running a block to a cycle issues nothing: its last issue and its last result stay (R101). -/
namespace Sys2Proof.Machine

/-- The last issue and the last result of a core's block. -/
def CoreState.marks (k : CoreState) : Option (Nat × Nat) := k.run.map (fun r => (r.lastIssue, r.lastResult))

theorem CoreState.ne_default_of_marks {k : CoreState} {m : Nat × Nat} (h : k.marks = some m) : k ≠ {} := by
  rintro rfl
  cases h

/-- An entry that is found stays found when another is set, whatever the table's form. -/
theorem tget_tset_of_found {α : Type} [DecidableEq α] {d x : α} {i j : Nat} (hne : j ≠ i) {t : Tab α} (h : tget d t j ≠ d) :
    tget d (tset d t i x) j = tget d t j := by
  induction t with
  | nil => exact (h rfl).elim
  | cons e t ih => grind [tget, tset, tcons]

theorem CoreState.charge_marks {k : CoreState} {x : ShareState} {c t : Nat} : (k.charge x c t).marks = k.marks := by
  have one {k : CoreState} {t : Nat} : (k.chargeTo x c t).marks = k.marks := by
    unfold CoreState.chargeTo
    split
    · rfl
    · next r hr =>
      split
      · rfl
      · split <;> simp [CoreState.marks, hr]
  unfold CoreState.charge
  split
  · rfl
  · extract_lets b
    split
    · exact one.trans one
    · exact one

/-- The block of core `c` has the marks `m`. -/
def State.HasMarks (c : Nat) (m : Nat × Nat) (s : State) : Prop := (s.core c).marks = some m

namespace State.HasMarks
variable {s t : State} {c b : Nat} {m : Nat × Nat}

theorem of_cores (h : s.HasMarks c m) (hc : t.cores.cores = s.cores.cores := by rfl) : t.HasMarks c m := by
  unfold HasMarks State.core CoresState.core at *
  rwa [hc]

theorem each {α : Type} {l : List α} {f : α → State → State} (h : s.HasMarks c m) (hf : ∀ a t, t.HasMarks c m → (f a t).HasMarks c m) :
    (Sys2Proof.Machine.each l f s).HasMarks c m := each_induct hf h

theorem modCore {f : CoreState → CoreState} (h : s.HasMarks c m) (hf : ∀ k, (f k).marks = k.marks := by exact fun _ => rfl) : (s.modCore b f).HasMarks c m := by
  unfold HasMarks at *
  by_cases hb : c = b
  · subst hb
    have hk : (f (s.core c)).marks = some m := (hf _).trans h
    exact (congrArg CoreState.marks (tget_tset_of_ne (CoreState.ne_default_of_marks hk))).trans hk
  · exact (congrArg CoreState.marks (tget_tset_of_found hb (CoreState.ne_default_of_marks h))).trans h

theorem modRun {f : RunBlock → RunBlock} (h : s.HasMarks c m) (hf : ∀ r, ((f r).lastIssue, (f r).lastResult) = (r.lastIssue, r.lastResult) := by exact fun _ => rfl) :
    (s.modRun b f).HasMarks c m :=
  h.modCore fun k => by
    cases hk : k.run with
    | none => simp [CoreState.marks, hk]
    | some r =>
      simp only [CoreState.marks, hk, Option.map_some]
      exact congrArg some (hf r)

theorem modDesc {id : Nat} {f : MDesc → MDesc} (h : s.HasMarks c m) : (s.modDesc b id f).HasMarks c m := h.modCore

theorem meetsWord {a : SramArray} (h : s.HasMarks c m) : (s.meetsWord b a).HasMarks c m := by
  unfold State.meetsWord
  split
  · exact h.modCore
  · exact h

theorem chargeAll (h : s.HasMarks c m) : s.chargeAll.HasMarks c m := by
  have key (g : Nat → CoreState → CoreState) : ∀ t : Tab CoreState, (∀ i k, (g i k).marks = k.marks) → (tget {} t c).marks = some m →
      (tget {} (t.map (fun e => (e.1, g e.1 e.2))) c).marks = some m := by
    intro t hg ht
    induction t with
    | nil => cases ht
    | cons e t ih => grind [tget]
  exact key (fun i k => k.charge s.share i s.now) _ (fun _ _ => CoreState.charge_marks) h

theorem addCtr {cl fld amount : Nat} (h : s.HasMarks c m) : (s.addCtr cl fld amount).HasMarks c m := h.chargeAll.of_cores

theorem countDropped {block n : Nat} (h : s.HasMarks c m) : (s.countDropped b block n).HasMarks c m :=
  h.modCore fun k => by
    cases hk : k.run with
    | none => simp [CoreState.marks, hk]
    | some r =>
      simp only [CoreState.marks, hk, Option.map_some]
      split <;> rfl

theorem touchPages {fn : Nat} {gs : List MGrain} (h : s.HasMarks c m) : (s.touchPages b fn gs).HasMarks c m :=
  h.each fun a t ht => by
    split
    · exact ht.of_cores
    · exact ht

theorem catchEnding {d : MDesc} {e : Option Ending} (h : s.HasMarks c m) : (s.catchEnding b d e).HasMarks c m := by
  unfold State.catchEnding
  split
  · exact h
  · exact h.modDesc.modCore

theorem readGrain {d : MDesc} {i : Nat} (h : s.HasMarks c m) : (s.readGrain b d i).1.HasMarks c m := by
  unfold State.readGrain
  dsimp only
  split
  · exact h
  · split
    · exact h.meetsWord.modDesc.countDropped
    · exact h.modDesc

theorem codeBlock {d : MDesc} {i k : Nat} (h : s.HasMarks c m) : (s.codeBlock b d i k).1.HasMarks c m := by
  unfold State.codeBlock
  dsimp only
  split
  · exact h
  · have h1 (x : Nat) : (s.modCore b (fun k => { k with mover := { k.mover with codeFree := x } })).HasMarks c m := h.modCore
    split
    · exact (h1 _).meetsWord.modDesc
    · refine countDropped (modDesc ?_)
      split
      · exact h1 _
      · exact (h1 _).touchPages

theorem capture {t : Nat} (h : s.HasMarks c m) : (s.capture b t).HasMarks c m := by
  suffices ∀ n s, HasMarks c m s → (State.captureLoop b t n s).HasMarks c m from this _ _ h
  intro n
  induction n with
  | zero => exact fun _ h => h
  | succ n ih =>
    intro s h
    unfold State.captureLoop
    split
    · exact ih _ h.readGrain.catchEnding
    · split
      · exact ih _ h.codeBlock.catchEnding
      · exact h.modCore

theorem writeDest {mask a t : Nat} {bs : List Byte} (h : s.HasMarks c m) : (s.writeDest b mask a t bs).HasMarks c m :=
  h.each fun _ _ h1 => h1.capture.of_cores

theorem discardFetch {t : Nat} {d : MDesc} (h : s.HasMarks c m) : (s.discardFetch b t d).HasMarks c m :=
  ((h.each fun _ _ h1 => h1.writeDest).each fun _ _ h1 => h1.writeDest).modDesc

theorem dropMover {t block : Nat} (h : s.HasMarks c m) : (s.dropMover b t block).HasMarks c m :=
  (((h.each fun _ _ h1 => h1.discardFetch).each fun _ _ h1 => h1.modDesc).modRun).modCore

theorem finishDescs (h : s.HasMarks c m) : (s.finishDescs b).HasMarks c m := by
  unfold State.finishDescs
  dsimp only
  split
  · exact h
  · refine (h.chargeAll.modCore).each fun a t ht => ?_
    split
    · exact ht.addCtr
    · exact ht

theorem noteEnding {e : Ending} (h : s.HasMarks c m) : (s.noteEnding e).HasMarks c m := by
  unfold State.noteEnding
  split
  · exact h.of_cores
  · exact h

theorem writePhys {f a : Nat} {bs : List Byte} (h : s.HasMarks c m) : (s.writePhys f a bs).HasMarks c m := by
  unfold State.writePhys
  split
  · exact h.of_cores (by simp [State.hostAccess])
  · exact h.of_cores

theorem writeCode {d : MDesc} {i k size : Nat} {write : Bool} (h : s.HasMarks c m) : (s.writeCode b d i k size write).HasMarks c m := by
  unfold State.writeCode
  dsimp only
  split
  · exact h.modDesc
  · split
    · exact h.modDesc.writePhys
    · exact h.modDesc.noteEnding.catchEnding
    · exact h.modDesc

theorem writeCodes {id i n : Nat} (h : s.HasMarks c m) : (State.writeCodes b id i n s).HasMarks c m := by
  induction n generalizing s with
  | zero => exact h
  | succ n ih =>
    unfold State.writeCodes
    split
    · exact h
    · split
      · exact h
      · split
        · split
          · exact h
          · exact ih h.writeCode
        · exact h

theorem putWrites {put : CoreWrite → CoresState → CoresState} (h : s.HasMarks c m) (hput : ∀ w x, (put w x).cores = x.cores) {l : List CoreWrite} :
    HasMarks c m { s with cores := Sys2Proof.Machine.each l put s.cores } :=
  h.of_cores (each_induct (P := fun y : CoresState => y.cores = s.cores.cores) (fun w y hy => (hput w y).trans hy) rfl)

theorem endBlock {t : Nat} {e : Ending} (h : s.HasMarks c m) : (s.endBlock b t e).HasMarks c m := by
  unfold State.endBlock
  dsimp only
  split
  · exact h
  · split
    · split
      · exact h.modRun
      · exact h
    · have hcharge : (s.chargeCore b t).HasMarks c m := h.modCore fun _ => CoreState.charge_marks
      have hzero (w : CoreWrite) (x : CoresState) : (x.zeroWrite b w).cores = x.cores := by cases w <;> rfl
      refine finishDescs (each ?_ fun _ _ h1 => h1.each fun _ _ h2 => h2.writeCodes)
      exact (((hcharge.capture.putWrites hzero).dropMover).modCore).modRun

theorem dropChain {f id : Nat} (h : s.HasMarks c m) : (s.dropChain b f id).HasMarks c m := by
  unfold State.dropChain
  split
  · exact HasMarks.modCore h.of_cores
  · exact h

theorem lateEnding {block : Nat} {e : Ending} (h : s.HasMarks c m) : (s.lateEnding b block e).HasMarks c m := by
  unfold State.lateEnding
  dsimp only
  split
  · exact h
  · split
    · exact h.modCore
    · exact h.modCore.dropChain

theorem settleCaught {t : Nat} (h : s.HasMarks c m) : (s.settleCaught b t).HasMarks c m := by
  unfold State.settleCaught
  split
  · exact h
  · have h1 : (s.modCore b (fun k => { k with caught := none })).HasMarks c m := h.modCore
    unfold State.moverEnding
    split
    · split
      · exact h1.endBlock
      · exact h1.lateEnding
    · exact h1.lateEnding

theorem commit {r : RunBlock} {op pend : Nat} (h : s.HasMarks c m) : (s.commit b r op pend).HasMarks c m := by
  unfold State.commit
  dsimp only
  split
  · exact h
  · next q hq =>
    have hput (w : CoreWrite) (x : CoresState) : (x.putWrite b w).cores = x.cores := by cases w <;> rfl
    have hwatch (k : CoreState) : (k.watch q).marks = k.marks := by
      unfold CoreState.watch
      cases hk : k.run with
      | none => rfl
      | some r =>
        dsimp only
        split
        · rfl
        · split
          · simp [CoreState.marks, hk]
          · split
            · simp [CoreState.marks, hk]
            · split <;> simp [CoreState.marks, hk]
            · simp [CoreState.marks, hk]
    exact ((h.capture.putWrites hput).modCore hwatch).modRun

theorem runDue {p : Nat} {r : RunBlock} {a : Due} (h : s.HasMarks c m) : (s.runDue b p r a).HasMarks c m := by
  have hslip (l : List SlipWait) : (s.slipAt b p l).HasMarks c m :=
    h.modCore fun k => by cases hk : k.run <;> simp [CoreState.marks, hk]
  have hscalar (k : CoreState) : k.scalarWrite.marks = k.marks := by
    unfold CoreState.scalarWrite
    split
    · rfl
    · next hr =>
      split
      · rfl
      · dsimp only
        split <;> simp [CoreState.marks, hr]
  unfold State.runDue
  dsimp only
  split
  · exact h.commit
  · exact h.modCore hscalar
  · split
    · exact h.modRun
    · exact hslip _
  · split
    · unfold State.issueIter
      dsimp only
      split
      · exact h
      · split
        · exact h.modRun
        · split
          · exact h.meetsWord.endBlock
          · exact (h.modCore).modRun
    · exact hslip _

theorem advance {p : Nat} (h : s.HasMarks c m) : (s.advance b p).HasMarks c m := by
  have loop : ∀ n s, HasMarks c m s → (State.advanceLoop b p n s).HasMarks c m := by
    intro n
    induction n with
    | zero => exact fun _ h => h
    | succ n ih =>
      intro s h
      unfold State.advanceLoop
      split
      · exact h
      · split
        · exact h
        · split
          · exact h
          · split
            · exact ih _ h.runDue
            · exact h
  unfold State.advance
  dsimp only
  split
  · exact loop _ _ h.settleCaught
  · exact h.settleCaught

end State.HasMarks

/-- The block of a core at a later cycle has the last issue and the last result it had. -/
theorem State.marks_advance {s : State} {c p : Nat} {r r1 : RunBlock} (hr : (s.core c).run = some r) (hr1 : ((s.advance c p).core c).run = some r1) :
    r1.lastIssue = r.lastIssue ∧ r1.lastResult = r.lastResult := by
  have h : s.HasMarks c (r.lastIssue, r.lastResult) := by simp [HasMarks, CoreState.marks, hr]
  have h1 : ((s.advance c p).core c).marks = some (r.lastIssue, r.lastResult) := h.advance
  simpa [CoreState.marks, hr1] using h1

theorem State.modRun_congr {s : State} {c : Nat} {r : RunBlock} {f g : RunBlock → RunBlock} (hr : (s.core c).run = some r) (h : f r = g r) :
    s.modRun c f = s.modRun c g := by
  simp only [State.modRun, State.modCore, hr, Option.map_some, h]

end Sys2Proof.Machine
end

section
/-! PROOFS. A unit's operation at its issue (O14), and what its iterations read and write (O15). -/

namespace Sys2Proof.Machine

open Sys2Proof.Safety

section
variable {s s1 : State} {c : CoreIx} {r : RunBlock} {w p : Nat}

/-- Every unit's command issues its word as `unitAct` says. -/
theorem exec_unitCommand {x : (CoreIx → Instr) × Nat} (hx : x ∈ unitCommands) :
    exec (x.1 c) s = .next (s.clocked fun s => s.issueWord c x.2 (unitAct c)) := by
  simp only [unitCommands, List.mem_cons, List.not_mem_nil, or_false] at hx
  obtain rfl | rfl | rfl | rfl | rfl | rfl | rfl | rfl | rfl | rfl := hx <;> rfl

theorem unitAct_starts (h : issueFault (s1.ctxOf r.fn) r ((s1.core c).newOp r w p) p = none) :
    unitAct c s1 r w p = s1.modRun c (fun b => b.start ((s1.core c).newOp r w p) p) := by
  unfold unitAct
  simp only [h]

theorem unitAct_faults {e : Ending} (h : issueFault (s1.ctxOf r.fn) r ((s1.core c).newOp r w p) p = some e) :
    unitAct c s1 r w p = s1.endBlock c (r.timeAt (s1.core c).period p) e := by
  unfold unitAct
  simp only [h]

theorem swapAct_swaps (hb : r.busy ((s1.core c).newOp r w p) p = false) (hs : (s1.ctxOf r.fn).caddySlots.getLsbD ((parseSlot w).op 0 % 4) = true) :
    swapAct c s1 r w p = (s1.modCore c (fun k => { k with caddy := tmod {} k.caddy ((parseSlot w).op 0 % 4) CaddySlot.swap })).modRun c
      (fun b => b.start { (s1.core c).newOp r w p with next := ((s1.core c).newOp r w p).count } p) := by
  unfold swapAct
  simp only [hb, hs, Bool.false_eq_true, Bool.true_eq_false, if_false]

end

section
variable {x : CtxRec} {r : RunBlock} {o : UnitOp} {p : Nat} {u : UnitCtx} {e : Ending}

theorem blockFault_status {code detail address kind : Nat} : (blockFault code detail address kind).status = BitVec.ofNat 16 stBlockFault := rfl

theorem lookupFault_status (h : lookupFault x u = some e) : e.status = BitVec.ofNat 16 stBlockFault := by
  unfold lookupFault at h
  split at h
  · cases h
    rfl
  · cases h

theorem partitionFault_status (h : partitionFault x u = some e) : e.status = BitVec.ofNat 16 stBlockFault := by
  obtain ⟨_, t, _, _, ht, _⟩ := List.findSome?_eq_some_iff.mp h
  dsimp only at ht
  split at ht
  · cases ht
    rfl
  · obtain ⟨a, _, rfl⟩ := Option.map_eq_some_iff.mp ht
    rfl

/-- A busy unit is the first of the checks at issue (R81). -/
theorem issueFault_of_busy (h : r.busy o p = true) : issueFault x r o p = some (blockFault faultUnitBusy) := if_pos h

/-- Every check at issue ends the block with BLOCK_FAULT. -/
theorem issueFault_status (h : issueFault x r o p = some e) : e.status = BitVec.ofNat 16 stBlockFault := by
  unfold issueFault at h
  dsimp only at h
  split at h
  · cases h
    rfl
  · split at h
    · cases h
      rfl
    · split at h
      · next hl =>
        cases h
        exact lookupFault_status hl
      · split at h
        · next hp =>
          cases h
          exact partitionFault_status hp
        · split at h
          · cases h
            rfl
          · split at h
            · cases h
              rfl
            · cases h

/-- What passes the checks finds its unit free and its banks its own. -/
theorem of_issueFault_none (h : issueFault x r o p = none) : r.busy o p = false ∧ r.collides o p = false := by
  unfold issueFault at h
  dsimp only at h
  split at h
  · cases h
  · next hb =>
    split at h
    · cases h
    · split at h
      · cases h
      · split at h
        · cases h
        · split at h
          · cases h
          · next hc => exact ⟨Bool.eq_false_iff.mpr hb, Bool.eq_false_iff.mpr hc⟩

theorem CaddySlot.swap_of_pending {b : CaddySlot} (h : b.shadowState = .pending) :
    b.swap = { active := b.shadow, shadow := b.active, shadowState := .stale } := if_pos h

theorem CaddySlot.swap_of_not_pending {b : CaddySlot} (h : b.shadowState ≠ .pending) : b.swap = b := if_neg h

end

/-- Settles O14. -/
theorem unitOperationsIssue : Obligations.unit_operations_issue := by
  unfold Obligations.unit_operations_issue
  refine ⟨⟨fun x hx s s1 c r w p h hf => ⟨?starts, of_issueFault_none hf⟩, fun x hx s s1 c r w p h hb => ?busy, fun x hx s s1 c r w p e h he => ⟨?faults, ?status⟩,
    fun s s1 c r w p h hb hs => next_issues h (swapAct_swaps hb hs)⟩, fun b => ⟨fun hp => ?pending, CaddySlot.swap_of_not_pending, ?twice⟩⟩
  case starts => exact (exec_unitCommand hx).trans (next_issues h (unitAct_starts hf))
  case busy => exact (exec_unitCommand hx).trans (next_issues h (unitAct_faults (issueFault_of_busy hb)))
  case faults => exact (exec_unitCommand hx).trans (next_issues h (unitAct_faults he))
  case status => exact issueFault_status he
  case pending =>
    rw [CaddySlot.swap_of_pending hp]
    exact ⟨rfl, rfl, rfl⟩
  case twice =>
    by_cases hp : b.shadowState = .pending
    · rw [CaddySlot.swap_of_pending hp]
      rfl
    · rw [CaddySlot.swap_of_not_pending hp, CaddySlot.swap_of_not_pending hp]

section
variable {s : State} {c p t : Nat} {r : RunBlock} {op pend : Nat} {o : UnitOp} {q : Pending}

theorem State.issueIter_masked (ho : r.ops[op]? = some o) (hm : (o.ctx r.image).masked o.next = true) :
    s.issueIter c p r op = s.modRun c (fun r => { r with ops := modAt r.ops op (fun o => { o with next := o.next + 1 }) }) := by
  unfold State.issueIter
  simp only [ho, hm, if_true]

/-- What an iteration computes, as an operation in flight (R55, R82). -/
def UnitOp.pendingOf (o : UnitOp) (p : Nat) (x : IterOut) : Pending :=
  { iter := o.next, first := p + o.latency, last := p + o.latency + o.tile - 1, writes := x.writes, clips := x.watch.clips, maxMag := x.watch.maxMag
    watched := x.watched }

theorem State.issueIter_runs (ho : r.ops[op]? = some o) (hm : (o.ctx r.image).masked o.next = false) (he : s.readError c (o.ctx r.image) o.next = none)
    {x : IterOut} (hx : x = runTile (o.ctx r.image) (if (o.ctx r.image).w.opcode = 0x01 then s.productView c p r else s.viewAt c p) o.next) :
    s.issueIter c p r op = (s.modCore c (fun k => { k with fmtRec := each x.events (fun e y => y.count e.2 e.1) k.fmtRec })).modRun c
      (fun r => { r with ops := modAt r.ops op (fun o' => { o' with next := o'.next + 1, flight := o'.flight ++ [o.pendingOf p x] }) }) := by
  subst hx
  unfold State.issueIter
  simp only [ho, hm, he, Bool.false_eq_true, if_false]
  rfl

/-- With no descriptor in its mover a core has nothing to capture. -/
theorem State.capture_idle (h : (s.core c).mover.descs = []) :
    s.capture c t = s.modCore c (fun k => { k with mover := { k.mover with descs := k.mover.descs.map (fun d => d.readCoded t) } }) := by
  have hdue : (s.core c).mover.dueBlock t = none := by simp [MoverState.dueBlock, h]
  unfold State.capture State.captureLoop
  simp only [h, List.findSome?_nil, hdue]

/-- What results write to the memories depends on those alone. -/
theorem each_putWrite_congr {l : List CoreWrite} {x y : CoresState} (hs : x.spad = y.spad) (ha : x.acc = y.acc) :
    (each l (fun w x => x.putWrite c w) x).spad = (each l (fun w x => x.putWrite c w) y).spad
      ∧ (each l (fun w x => x.putWrite c w) x).acc = (each l (fun w x => x.putWrite c w) y).acc := by
  induction l generalizing x y with
  | nil => exact ⟨hs, ha⟩
  | cons w l ih =>
    refine ih ?_ ?_ <;> cases w <;> simp [CoresState.putWrite, CoresState.putSpad, CoresState.putAcc, hs, ha]

/-- A result written changes the memories by its writes, and nothing of device memory or of the counters. -/
theorem State.commit_memories (ho : r.ops[op]? = some o) (hq : o.flight[pend]? = some q) (hd : (s.core c).mover.descs = []) :
    (s.commit c r op pend).cores.spad = (each q.toWrite (fun w x => x.putWrite c w) s.cores).spad
      ∧ (s.commit c r op pend).cores.acc = (each q.toWrite (fun w x => x.putWrite c w) s.cores).acc
      ∧ (s.commit c r op pend).mem = s.mem ∧ (s.commit c r op pend).share = s.share := by
  unfold State.commit
  simp only [ho, Option.bind_some, hq]
  rw [State.capture_idle hd]
  obtain ⟨hspad, hacc⟩ := each_putWrite_congr (c := c) (l := q.toWrite) (y := s.cores)
    (x := (s.modCore c (fun k => { k with mover := { k.mover with
      descs := k.mover.descs.map (fun d => d.readCoded (r.timeAt (s.core c).period (q.last + 1))) } })).cores) rfl rfl
  exact ⟨hspad, hacc, rfl, rfl⟩

theorem State.resultWritten_due {k : Nat} (hr : (s.core c).run = some r) (hs : r.slip = none) (he : r.ending = none)
    (hd : leastDue r.dues = some (k, .commit op pend)) (hn : r.nextCommit = some p) (hl : r.limit p = p) :
    s.resultWritten c = (s.upTo (r.timeAt (s.core c).period p)).advance c p := by
  unfold State.resultWritten
  simp only [hr, hs, he, hd, hn, hl, Option.isSome_none, Bool.or_self, Bool.false_eq_true, if_false, if_true]

theorem State.clipStop_ends {r1 : RunBlock} (hr : (s.core c).run = some r) (hs : r.slip = none) (he : r.ending = none) (ht : r.stopAt.isSome = true)
    (hw : r.slots = []) (hb : r.nextBundle = none) (hr1 : ((s.advance c (max r.lastIssue r.lastResult + 1)).core c).run = some r1)
    (hs1 : r1.slip = none) (he1 : r1.ending = none) :
    s.clipStop c = ((s.advance c (max r.lastIssue r.lastResult + 1)).upTo
        (r1.timeAt ((s.advance c (max r.lastIssue r.lastResult + 1)).core c).period (max r.lastIssue r.lastResult + 1))).modRun c (fun r' => { r' with
      ending := some { status := BitVec.ofNat 16 stQuantClip }
      endedAt := r1.timeAt ((s.advance c (max r.lastIssue r.lastResult + 1)).core c).period (max r.lastIssue r.lastResult + 1)
      ops := [], scalars := [] }) := by
  have hstop : r.stopAt.isNone = false := by rw [← Option.not_isSome, ht]; rfl
  unfold State.clipStop
  simp only [hr, hs, he, hstop, hw, hb, hr1, hs1, he1, Option.isSome_none, List.isEmpty_nil, Bool.not_true, Bool.or_self, Bool.false_eq_true, if_false]

theorem Pending.mem_toWrite_acc {l e : Nat} {v : W32} {sums : List W32} (h : CoreWrite.acc l e v sums ∈ q.writes) :
    CoreWrite.acc l e v sums ∈ q.toWrite ↔ (l, e) ∉ q.later := by
  simp [Pending.toWrite, h, CoreWrite.entry?]

theorem Pending.toWrite_of_later_nil (h : q.later = []) : q.toWrite = q.writes := by
  unfold Pending.toWrite
  rw [List.filter_eq_self]
  intro w _
  cases w <;> simp [CoreWrite.entry?, h]

end

section
variable {x : CoresState} {c a : Nat} {d : List Byte}

theorem CoresState.getSpad_putSpad (hx : twf 0 x.spad = true) : (x.putSpad c a d).getSpad c a d.length = d := bytesAt_setBytes hx

theorem CoresState.getSpad_putSpad_out {c' b : Nat} (hx : twf 0 x.spad = true) (hb : b < 2 ^ 22) (ha : a + d.length ≤ 2 ^ 22)
    (hne : c' ≠ c ∨ b < a ∨ a + d.length ≤ b) : (x.putSpad c a d).getSpad c' b 1 = x.getSpad c' b 1 := by
  refine bytesAt_setBytes_out hx ?_
  unfold spadKeyOf
  omega

theorem CoresState.tget_putAcc {lane e : Nat} {v : W32} (hx : twf 0 x.acc = true) :
    tget 0 (x.putAcc c lane e v).acc (accKeyOf c + 2 ^ 11 * lane + e) = v := tget_tset_same hx

theorem CoresState.tget_putAcc_out {lane e c' l' e' : Nat} {v : W32} (hx : twf 0 x.acc = true) (hl : lane < 128) (he : e < 2048) (hl' : l' < 128) (he' : e' < 2048)
    (hne : (c', l', e') ≠ (c, lane, e)) :
    tget 0 (x.putAcc c lane e v).acc (accKeyOf c' + 2 ^ 11 * l' + e') = tget 0 x.acc (accKeyOf c' + 2 ^ 11 * l' + e') := by
  refine tget_tset_ne hx fun h => hne ?_
  unfold accKeyOf at h
  obtain ⟨rfl, rfl, rfl⟩ : c' = c ∧ l' = lane ∧ e' = e := by omega
  rfl

end

/-- Settles O15. -/
theorem iterationsReadComputeAndWrite : Obligations.iterations_read_compute_and_write := by
  unfold Obligations.iterations_read_compute_and_write
  refine ⟨⟨fun s c p r op o ho hm he => ⟨_, o.pendingOf p _, rfl, State.issueIter_runs ho hm he rfl, rfl, rfl, rfl, rfl⟩,
      fun s c p r op o ho hm => State.issueIter_masked ho hm, fun s c r op pend o q ho hq hd => State.commit_memories ho hq hd,
      fun q => ⟨fun w hw => (List.mem_filter.mp hw).1, Pending.toWrite_of_later_nil, fun l e v sums h => Pending.mem_toWrite_acc h⟩,
      fun s c r p q op pend hc hr hs he hd hn hl => next_clocked hc (State.resultWritten_due hr hs he hd hn hl),
      fun s c r r1 hc hr hs he ht hw hb hr1 hs1 he1 => ?clip⟩,
    fun x c a d hx => ⟨CoresState.getSpad_putSpad hx, fun c' b hb ha hne => CoresState.getSpad_putSpad_out hx hb ha hne, rfl, rfl⟩,
    fun x c lane e v hx hl he => ⟨CoresState.tget_putAcc hx, fun c' l' e' hl' he' hne => CoresState.tget_putAcc_out hx hl he hl' he' hne, rfl, rfl⟩⟩
  case clip =>
    obtain ⟨hi, hl⟩ := State.marks_advance hr hr1
    refine next_clocked hc ((State.clipStop_ends hr hs he ht hw hb hr1 hs1 he1).trans (State.modRun_congr hr1 ?_))
    simp only [hi, hl]

end Sys2Proof.Machine
end

section
/-! PROOFS. The state after reset, and what a core reset and the end of a function-level reset leave (R357, R382). -/
namespace Sys2Proof.Machine

/-- Settles O60. -/
theorem theStateAfterReset : Obligations.the_state_after_reset := by
  unfold Obligations.the_state_after_reset
  refine ⟨rfl, ?memories, ?tables, ?sec, fun _ => rfl, fun cl fld => ?ctr, fun _ _ => rfl, fun _ => rfl, fun _ => rfl, fun _ => ⟨rfl, rfl⟩, fun _ => ⟨rfl, rfl⟩,
    rfl, rfl, rfl, rfl, rfl, rfl, rfl, rfl⟩
  case ctr =>
    show (if bit fld 12 then (0 : W32) else 0) = 0
    exact ite_self _
  case memories =>
    unfold Safety.MemoriesCanonical
    decide
  case tables =>
    unfold Safety.TablesCanonical
    decide
  case sec =>
    unfold Safety.SecurityInv
    decide

section
variable {α : Type} [DecidableEq α] {d : α} {f : α → α}

theorem tget_each_tmod {l : List Nat} (hl : l.Nodup) {t : Tab α} (h : twf d t = true) {j : Nat} :
    tget d (each l (fun i t => tmod d t i f) t) j = if j ∈ l then f (tget d t j) else tget d t j := by
  induction l generalizing t with
  | nil => rfl
  | cons i l ih =>
    obtain ⟨hi, hl⟩ := List.nodup_cons.mp hl
    refine (ih hl (twf_tmod h)).trans ?_
    by_cases hj : j = i
    · subst hj
      simp [hi, tget_tmod_same h]
    · simp [hj, tget_tmod_ne h hj]

omit [DecidableEq α] in
theorem tget_of_not_mem_keys {t : Tab α} {j : Nat} (h : j ∉ t.map (·.1)) : tget d t j = d := by
  induction t with
  | nil => rfl
  | cons e t ih => grind [tget]

theorem twfFrom_keys {lo : Nat} {t : Tab α} (h : twfFrom d lo t = true) : (∀ k ∈ t.map (·.1), lo ≤ k) ∧ (t.map (·.1)).Nodup := by
  induction t generalizing lo with
  | nil => simp
  | cons e t ih =>
    simp only [twfFrom, Bool.and_eq_true, decide_eq_true_eq] at h
    obtain ⟨⟨hlo, _⟩, ht⟩ := h
    obtain ⟨hge, hnd⟩ := ih ht
    refine ⟨fun k hk => ?_, List.nodup_cons.mpr ⟨fun hk => ?_, hnd⟩⟩
    · rcases List.mem_cons.mp hk with rfl | hk
      · exact hlo
      · exact hlo.trans ((Nat.le_succ _).trans (hge k hk))
    · exact absurd (hge _ hk) (Nat.not_succ_le_self _)

/-- A change of every entry of a table in canonical form. -/
theorem tget_each_keys_tmod {t : Tab α} (h : twf d t = true) {j : Nat} :
    tget d (each (t.map (·.1)) (fun i t => tmod d t i f) t) j = if j ∈ t.map (·.1) then f (tget d t j) else d := by
  rw [tget_each_tmod (twfFrom_keys h).2 h]
  split
  · rfl
  · next hj => exact tget_of_not_mem_keys hj

end

/-- A write changes the bytes of memory and the record of its uncorrectable grains. -/
theorem MemState.putGrain_frame {m : MemState} {g : Nat} {d : List Byte} : ∃ (c : List Host.Cell) (u : List Nat), m.putGrain g d = { m with cells := c, ue := u } := ⟨_, _, rfl⟩

theorem MemState.write_frame {m : MemState} {a : Nat} {bs : List Byte} : ∃ (c : List Host.Cell) (u : List Nat), m.write a bs = { m with cells := c, ue := u } := by
  unfold MemState.write
  split
  · exact ⟨_, _, rfl⟩
  · refine List.foldlRecOn (motive := fun x => ∃ (c : List Host.Cell) (u : List Nat), x = { m with cells := c, ue := u }) _ _ ⟨m.cells, m.ue, rfl⟩ ?_
    rintro _ ⟨c, u, rfl⟩ g _
    extract_lets lo hi piece
    split
    · exact ⟨_, _, rfl⟩
    · split
      · exact ⟨_, _, rfl⟩
      · exact ⟨_, _, rfl⟩

/-- What the traffic that a core reset cuts leaves alone: the cores, the sequences, the fabric, the mailboxes and the maps of memory. -/
structure CutFrame (s t : State) : Prop where
  cores : t.cores = s.cores
  seqs : t.seqs = s.seqs
  fabric : t.fabric = s.fabric
  mailbox : t.ctl.mailbox = s.ctl.mailbox
  groups : t.mem.groups = s.mem.groups
  extents : t.mem.extents = s.mem.extents

namespace CutFrame
variable {s t : State} {f : Nat}

theorem refl : CutFrame s s := ⟨rfl, rfl, rfl, rfl, rfl, rfl⟩

theorem withFreeCtr {n : Nat} (h : CutFrame s t) : CutFrame s { t with freeCtr := n } := ⟨h.cores, h.seqs, h.fabric, h.mailbox, h.groups, h.extents⟩

theorem withMem {m : MemState} (h : CutFrame s t) (hg : m.groups = t.mem.groups) (he : m.extents = t.mem.extents) : CutFrame s { t with mem := m } :=
  ⟨h.cores, h.seqs, h.fabric, h.mailbox, hg.trans h.groups, he.trans h.extents⟩

theorem write {a : Nat} {bs : List Byte} (h : CutFrame s t) : CutFrame s { t with mem := t.mem.write a bs } := by
  obtain ⟨c, u, hw⟩ := MemState.write_frame (m := t.mem) (a := a) (bs := bs)
  exact h.withMem (by rw [hw]) (by rw [hw])

theorem postEntry_mailbox {now : Nat} {e : Entry} {c : CtlState} {h : HostState} : (postEntry now f e c h).1.mailbox = c.mailbox := by
  unfold postEntry
  dsimp only
  split
  · rfl
  · split <;> rfl

theorem writePhys {a : Nat} {bs : List Byte} (h : CutFrame s t) : CutFrame s (t.writePhys f a bs) := by
  unfold State.writePhys
  split
  · next x _ =>
    obtain ⟨hc, hs, hf, hm, hg, he⟩ := (h.withMem (m := t.mem.note x.1 false .uncorrectable) rfl rfl).write (a := a) (bs := bs)
    exact ⟨hc, hs, hf, postEntry_mailbox.trans hm, hg, he⟩
  · exact h.write

theorem foldl {α : Type} {l : List α} {g : State → α → State} (h : CutFrame s t) (hg : ∀ t a, CutFrame s t → CutFrame s (g t a)) : CutFrame s (l.foldl g t) :=
  List.foldlRecOn l g h fun t ht a _ => hg t a ht

theorem each {α : Type} {l : List α} {g : α → State → State} (h : CutFrame s t) (hg : ∀ a t, CutFrame s t → CutFrame s (g a t)) :
    CutFrame s (Sys2Proof.Machine.each l g t) := each_induct hg h

theorem setQueue {ch : ChannelIx} {q : ChanQueue} (hch : ch ≠ .collective) (h : CutFrame s t) : CutFrame s (t.setQueue ch f q) := by
  cases ch with
  | pannier => exact h.withMem rfl rfl
  | hostCopy => exact h.withMem rfl rfl
  | collective => exact absurd rfl hch

theorem moverStores {filled : Nat} {l : List Transfer} (m : MemState) :
    (l.foldl (fun m t => m.moverStore f filled t) m).groups = m.groups ∧ (l.foldl (fun m t => m.moverStore f filled t) m).extents = m.extents := by
  refine List.foldlRecOn (motive := fun x : MemState => x.groups = m.groups ∧ x.extents = m.extents) l _ ⟨rfl, rfl⟩ fun x hx a _ => ?_
  unfold MemState.moverStore
  split
  · dsimp only
    split
    · exact hx
    · exact hx
  · exact hx

theorem descCut {ch : ChannelIx} {q : QDesc} (h : CutFrame s t) : CutFrame s (t.descCut ch f q) := by
  unfold State.descCut
  split
  · exact h
  · cases ch with
    | pannier =>
      dsimp only
      exact CutFrame.withMem (h.withFreeCtr (n := t.freeCtr + 1)) (moverStores _).1 (moverStores _).2
    | hostCopy =>
      dsimp only
      split
      · exact CutFrame.setQueue (ch := .hostCopy) (by simp) ⟨h.cores, h.seqs, h.fabric, h.mailbox, h.groups, h.extents⟩
      · exact h.withFreeCtr.foldl fun _ _ ht => ht.writePhys
    | collective => exact h

theorem queueReset {ch : ChannelIx} (hch : ch ≠ .collective) (h : CutFrame s t) : CutFrame s (t.queueReset ch f) := by
  unfold State.queueReset
  dsimp only
  split
  · exact (h.each fun _ _ ht => ht.descCut).setQueue hch
  · exact h

theorem stemReset {e : Nat} (h : CutFrame s t) : CutFrame s (State.stemReset e t) := by
  have stems {u : State} {x : Tab StemEngine} (hu : CutFrame s u) : CutFrame s { u with stems := x } := ⟨hu.cores, hu.seqs, hu.fabric, hu.mailbox, hu.groups, hu.extents⟩
  unfold State.stemReset
  dsimp only
  split
  · exact stems (h.withFreeCtr.foldl fun _ _ ht => ht.writePhys)
  · exact stems h

end CutFrame

/-- The state whose parts a core reset clears: what was started in the channels and the stem is cut. -/
def State.trafficCut (s : State) : State :=
  each (List.range 4) State.stemReset (each (List.range 16) (fun f s => (s.queueReset .pannier f).queueReset .hostCopy f) s)

theorem State.trafficCut_frame (s : State) : CutFrame s s.trafficCut :=
  .each (.each .refl fun _ _ h => (h.queueReset (by simp)).queueReset (by simp)) fun _ _ h => h.stemReset

theorem FabricState.each_freeSlot_ports {x : FabricState} {l : List Nat} : (each l (fun i x => x.freeSlot i) x).ports = x.ports :=
  each_induct (P := fun y : FabricState => y.ports = x.ports) (f := fun i x => FabricState.freeSlot x i) (fun _ _ hy => hy) rfl

theorem FabricState.quiet_ports {x : FabricState} {l : List Nat} :
    (each l (fun p x => if (x.port p).linked then x.modLink p PortLink.quiet else x) x).ports = x.ports := by
  refine each_induct (P := fun y : FabricState => y.ports = x.ports) (fun p y hy => ?_) rfl
  split
  · exact hy
  · exact hy

theorem FabricState.coreReset_ports {x : FabricState} : x.coreReset.ports = x.ports := by
  unfold FabricState.coreReset
  dsimp only
  rw [FabricState.each_freeSlot_ports, FabricState.quiet_ports]

theorem CoresState.coreReset_core {x : CoresState} {kept : Nat → Bool} {c : Nat} (h : twf {} x.cores = true) :
    (x.coreReset kept).core c = (x.core c).coreReset kept ∨ ((x.coreReset kept).core c = {} ∧ x.core c = {}) := by
  have key : (x.coreReset kept).core c = if c ∈ x.cores.map (·.1) then (x.core c).coreReset kept else {} := tget_each_keys_tmod h
  rw [key]
  split
  · exact .inl rfl
  · next hc => exact .inr ⟨rfl, tget_of_not_mem_keys hc⟩

theorem SeqState.coreReset_seq {q : SeqState} {i : Nat} (h : twf {} q.seqs = true) (hi : q.seq i ≠ {}) : q.coreReset.seq i = (q.seq i).coreReset := by
  refine (tget_each_keys_tmod h).trans (if_pos ?_)
  by_contra hm
  exact hi (tget_of_not_mem_keys hm)

section
variable {s : State} {lockup : Bool}

theorem State.coreResetNow_cores :
    (s.coreResetNow lockup).cores = s.trafficCut.cores.coreReset (fun f => (s.trafficCut.ctxOf f).st == .saved) := rfl
theorem State.coreResetNow_seqs : (s.coreResetNow lockup).seqs = s.trafficCut.seqs.coreReset := rfl
theorem State.coreResetNow_fabric : (s.coreResetNow lockup).fabric = s.trafficCut.fabric.coreReset := rfl
theorem State.coreResetNow_share : (s.coreResetNow lockup).share = s.trafficCut.share.coreReset s.trafficCut.now := rfl
theorem State.coreResetNow_ctl : (s.coreResetNow lockup).ctl = s.trafficCut.ctl.coreReset s.trafficCut.now := rfl
theorem State.coreResetNow_mem : (s.coreResetNow lockup).mem = s.trafficCut.mem := by
  unfold State.coreResetNow State.trafficCut
  dsimp only
theorem State.coreResetNow_ready : (s.coreResetNow lockup).rst.ready = false := rfl
theorem State.coreResetNow_coreReset : (s.coreResetNow lockup).rst.coreReset = true := rfl

end

/-- Settles O47. -/
theorem aCoreResetStopsTheCores : Obligations.a_core_reset_stops_the_cores := by
  unfold Obligations.a_core_reset_stops_the_cores
  intro s lockup
  obtain ⟨hcores, hseqs, hfabric, hmailbox, hgroups, hextents⟩ := s.trafficCut_frame
  unfold State.core State.seq
  rw [State.coreResetNow_cores, State.coreResetNow_seqs, State.coreResetNow_fabric, State.coreResetNow_share, State.coreResetNow_ctl, State.coreResetNow_mem,
    State.coreResetNow_ready, State.coreResetNow_coreReset, hcores, hseqs, hfabric, hgroups, hextents]
  generalize s.trafficCut = u at hmailbox ⊢
  refine ⟨rfl, rfl, rfl, rfl, rfl, rfl, FabricState.coreReset_ports, rfl, hmailbox, rfl, rfl, rfl, rfl, fun hw c => ?cores, fun hw i hi => ?seqs⟩
  case cores =>
    obtain hk | ⟨hk, he⟩ := CoresState.coreReset_core (kept := fun f => (u.ctxOf f).st == .saved) (c := c) hw
    · rw [hk]
      exact ⟨rfl, rfl, rfl⟩
    · rw [hk, he]
      exact ⟨rfl, rfl, rfl⟩
  case seqs =>
    rw [SeqState.coreReset_seq hw (by intro h; rw [h] at hi; cases hi)]
    unfold SeqEntry.coreReset
    rw [hi]
    exact ⟨rfl, rfl, rfl⟩

end Sys2Proof.Machine
end

section
/-! PROOFS. The end of a function-level reset leaves nothing of the function; scrubbing (R78, R240, R357). -/
namespace Sys2Proof.Machine

section
variable {s t : State} {f : Nat}

/-- Same cores and sequences. -/
structure SameCores (s t : State) : Prop where
  cores : t.cores = s.cores
  seqs : t.seqs = s.seqs

theorem SameCores.complete {c : CmdRef} {a : Args} (h : SameCores s t) : SameCores s (t.complete c a) := by
  obtain ⟨k, x, hc⟩ := State.complete_frame (s := t) c a
  rw [hc]
  exact ⟨h.cores, h.seqs⟩

theorem SameCores.orphan (h : SameCores s t) : SameCores s (t.orphan f) := by
  have bad {u : State} {g : Option Nat} (hu : SameCores s u) : SameCores s (u.tableMet g) := by
    unfold State.tableMet
    split
    · exact ⟨hu.cores, hu.seqs⟩
    · exact hu
  unfold State.orphan
  split
  · exact h
  · exact bad ⟨h.cores, h.seqs⟩

theorem SameCores.unsealAll (h : SameCores s t) : SameCores s (t.unsealAll f) := by
  have all : SameCores s (each ((List.range 64).filter (fun i => (t.mem.seal i).valid && (t.mem.seal i).owner.toNat == f))
      (fun i s => if s.mem.removals.any (fun r => r.entry == i) then s.sealRemoved i else { s with mem := s.mem.unseal i }) t) := by
    refine each_induct (P := SameCores s) (fun i u hu => ?_) h
    split
    · unfold State.sealRemoved
      split
      · exact hu
      · dsimp only
        split
        · exact SameCores.complete ⟨hu.cores, hu.seqs⟩
        · exact ⟨hu.cores, hu.seqs⟩
    · exact ⟨hu.cores, hu.seqs⟩
  exact ⟨all.cores, all.seqs⟩

end

theorem CoresState.emptySlots_frame {x : CoresState} {r : CtxRec} :
    (x.emptySlots r).spad = x.spad ∧ (x.emptySlots r).acc = x.acc ∧ (x.emptySlots r).codeTables = x.codeTables :=
  each_induct (P := fun y : CoresState => y.spad = x.spad ∧ y.acc = x.acc ∧ y.codeTables = x.codeTables)
    (f := fun c x => x.setCore c { x.core c with caddy := (x.core c).caddy.filter (fun e => !r.caddySlots.getLsbD e.1) }) (fun _ _ hy => hy) ⟨rfl, rfl, rfl⟩

/-- The entries named go. -/
theorem tget_filter_not {α : Type} [DecidableEq α] {d : α} {p : Nat → Bool} {t : Tab α} (h : twf d t = true) {j : Nat} :
    tget d (t.filter (fun e => !p e.1)) j = if p j then d else tget d t j := by
  suffices ∀ lo, twfFrom d lo t = true → tget d (t.filter (fun e => !p e.1)) j = if p j then d else tget d t j from this 0 h
  clear h
  induction t with
  | nil => intro _ _; simp [tget]
  | cons e t ih =>
    intro lo h
    simp only [twfFrom, Bool.and_eq_true, decide_eq_true_eq] at h
    obtain ⟨_, ht⟩ := h
    have hbelow : j < e.1 + 1 → tget d (t.filter (fun e => !p e.1)) j = d := tget_below (twfFrom_filter ht)
    have ih := ih _ ht
    by_cases hp : p e.1 = true
    · rw [List.filter_cons_of_neg (by simp [hp])]
      grind [tget]
    · rw [List.filter_cons_of_pos (by simp [hp])]
      grind [tget]

/-- What scrubbing clears reads zero, and nothing else changes. -/
theorem State.tget_scrubAllot {s : State} {old keep : CtxRec} {k : Nat} (hs : twf 0 s.cores.spad = true) (ha : twf 0 s.cores.acc = true) :
    tget 0 (s.scrubAllot old keep).cores.spad k
      = (if old.hasBank (k / 2 ^ 22) (k % 2 ^ 22 / 2 ^ 18) && !keep.hasBank (k / 2 ^ 22) (k % 2 ^ 22 / 2 ^ 18) then 0 else tget 0 s.cores.spad k)
    ∧ tget 0 (s.scrubAllot old keep).cores.acc k
      = (if old.hasUnit (k / 2 ^ 18) (k % 2 ^ 11 / 128) && !keep.hasUnit (k / 2 ^ 18) (k % 2 ^ 11 / 128) then 0 else tget 0 s.cores.acc k) := by
  exact ⟨tget_filter_not (p := fun k => old.hasBank (k / 2 ^ 22) (k % 2 ^ 22 / 2 ^ 18) && !keep.hasBank (k / 2 ^ 22) (k % 2 ^ 22 / 2 ^ 18)) hs,
    tget_filter_not (p := fun k => old.hasUnit (k / 2 ^ 18) (k % 2 ^ 11 / 128) && !keep.hasUnit (k / 2 ^ 18) (k % 2 ^ 11 / 128)) ha⟩

/-- The record that allots nothing. -/
theorem CtxRec.empty_allots_nothing {c b : Nat} : ({} : CtxRec).hasBank c b = false ∧ ({} : CtxRec).hasUnit c b = false := by
  constructor <;> simp [CtxRec.hasBank, CtxRec.hasUnit, CtxRec.hasCore]

theorem CoresState.of_mem_scrub_empty {x : CoresState} {r : CtxRec} :
    (∀ e ∈ (x.scrub r {}).spad, r.hasBank (e.1 / 2 ^ 22) (e.1 % 2 ^ 22 / 2 ^ 18) = false)
    ∧ (∀ e ∈ (x.scrub r {}).acc, r.hasUnit (e.1 / 2 ^ 18) (e.1 % 2 ^ 11 / 128) = false) := by
  constructor
  · intro e he
    have hkept := (List.mem_filter.mp he).2
    dsimp only at hkept
    rw [CtxRec.empty_allots_nothing.1] at hkept
    simpa using hkept
  · intro e he
    have hkept := (List.mem_filter.mp he).2
    dsimp only at hkept
    rw [CtxRec.empty_allots_nothing.2] at hkept
    simpa using hkept

/-- The state at the end of a function's reset, before the next of a PF0 reset begins. -/
def State.flrCleared (s : State) (f : Nat) : State :=
  let r := s.ctxOf f
  let s := (s.setCtx f { r with st := .absent }).scrubAllot r {}
  let cores := s.cores.emptySlots r
  let s := { s with cores := { cores with codeTables := tclear cores.codeTables (16 * f) (16 * f + 16) } }
  let s := ({ s with pages := s.pages.empty f }.orphan f).unsealAll f
  let s := { s with ctl := s.ctl.setRing f (s.ctl.ring f).cleared }
  { s with host := { s.host.setFn f (s.host.fn f).afterFlr with vfMemory := s.host.vfMemory && f != 0 } }

theorem State.flrEnd_eq {s : State} {f : Nat} : s.flrEnd f = (s.flrCleared f).flrNext := rfl

theorem State.flrCleared_same {s : State} {f : Nat} :
    (s.flrCleared f).cores = { ((s.cores.scrub (s.ctxOf f) {}).emptySlots (s.ctxOf f)) with
      codeTables := tclear ((s.cores.scrub (s.ctxOf f) {}).emptySlots (s.ctxOf f)).codeTables (16 * f) (16 * f + 16) }
    ∧ (s.flrCleared f).seqs = (s.setCtx f { s.ctxOf f with st := .absent }).seqs := by
  unfold State.flrCleared
  extract_lets r t cores u v w
  have h : SameCores u v := SameCores.unsealAll (SameCores.orphan ⟨rfl, rfl⟩)
  exact ⟨h.cores, h.seqs⟩

/-- Settles O45. -/
theorem aResetFunctionLeavesNothing : Obligations.a_reset_function_leaves_nothing := by
  unfold Obligations.a_reset_function_leaves_nothing
  refine ⟨fun s f hctx => ⟨s.flrCleared f, State.flrEnd_eq, ?bank, ?unit, ?tables, ?ctx⟩, fun s old keep k hs ha => ?scrub⟩
  case scrub =>
    obtain ⟨hspad, hacc⟩ := State.tget_scrubAllot (old := old) (keep := keep) (k := k) hs ha
    exact ⟨hspad, hacc, rfl, rfl⟩
  all_goals obtain ⟨hcores, hseqs⟩ := State.flrCleared_same (s := s) (f := f)
  case bank =>
    rw [hcores]
    dsimp only
    rw [CoresState.emptySlots_frame.1]
    exact CoresState.of_mem_scrub_empty.1
  case unit =>
    rw [hcores]
    dsimp only
    rw [CoresState.emptySlots_frame.2.1]
    exact CoresState.of_mem_scrub_empty.2
  case tables =>
    rw [hcores]
    intro e he
    have hkept := (List.mem_filter.mp he).2
    simp only [Bool.or_eq_true, decide_eq_true_eq] at hkept
    exact hkept
  case ctx =>
    unfold State.ctxOf SeqState.ctxOf
    rw [hseqs]
    exact tget_tset_same hctx

end Sys2Proof.Machine
end

section
/-! PROOFS. Device memory, under seals and without (R157, R159, R165, R172, R183, R184). -/
namespace Sys2Proof.Machine

theorem GoodKeys.decrypt {ks : List (List Nat)} (hk : GoodKeys ks) {b : List Nat} (hb : Block16 b) : Block16 (aesDecrypt ks b) := by
  have hmid : Block16 (((ks.drop 1).take 13).reverse.foldl (fun x k => (aesShift 3 (aesMix [14, 11, 13, 9] (xorList x k))).map aesSubInv)
      ((aesShift 3 (xorList b (ks.getD 14 []))).map aesSubInv)) := by
    refine List.foldlRecOn (motive := Block16) _ _ (((hb.xor (hk.at (by omega))).shift 3).map aesSubInv_lt) fun x hx k hm => ?_
    have hkey : Block16 k := hk.2 k (List.mem_of_mem_drop (List.mem_of_mem_take (List.mem_reverse.mp hm)))
    exact (((hx.xor hkey).mix _).shift 3).map aesSubInv_lt
  exact hmid.xor (hk.at (by omega))

theorem xtsBlocks_length {f : List Nat → List Nat} (hf : ∀ b, Block16 b → Block16 (f b)) {n : Nat} {t d : List Nat} (ht : Block16 t) (hd : d.length = 16 * n)
    (hb : ∀ x ∈ d, x < 256) : (xtsBlocks f n t d).length = 16 * n := by
  induction n generalizing t d with
  | zero => rfl
  | succ n ih =>
    have hblock : Block16 (d.take 16) := ⟨by rw [List.length_take]; omega, fun x hx => hb x (List.mem_of_mem_take hx)⟩
    have hfirst := ((hf _ (hblock.xor ht)).xor ht).1
    have hrest := ih (block16_natLe _) (t := xtsNext t) (d := d.drop 16) (by rw [List.length_drop]; omega) fun x hx => hb x (List.mem_of_mem_drop hx)
    rw [xtsBlocks, List.length_append, hfirst, hrest]
    omega

/-- A grain deciphered is a grain. -/
theorem xtsGrain_false_length {key : BitVec 512} {g : Nat} {d : List Byte} (h : d.length = 256) : (xtsGrain false key g d).length = 256 := by
  have bytes (l : List Byte) : ∀ x ∈ l.map (·.toNat), x < 256 := fun x hx => by
    obtain ⟨y, -, rfl⟩ := List.mem_map.mp hx
    exact y.isLt
  have hkey : ((natLe 64 key.toNat).map (·.toNat)).length = 64 := by simp
  have good {l : List Nat} (hl : l.length = 32) (hm : ∀ x ∈ l, x ∈ (natLe 64 key.toNat).map (·.toNat)) : GoodKeys (aesKeys l) :=
    aesKeys_good hl fun x hx => bytes _ x (hm x hx)
  have k1 := good (l := ((natLe 64 key.toNat).map (·.toNat)).take 32) (by rw [List.length_take, hkey]; rfl) fun x hx => List.mem_of_mem_take hx
  have k2 := good (l := ((natLe 64 key.toNat).map (·.toNat)).drop 32) (by rw [List.length_drop, hkey]) fun x hx => List.mem_of_mem_drop hx
  have hlen := xtsBlocks_length (fun b hb => k1.decrypt hb) (n := 16) (aes_round_trip k2 (block16_natLe g)).1 (d := d.map (·.toNat)) (by simp [h]) (bytes d)
  simpa [xtsGrain] using hlen

theorem bytesAt_eq_map {d : Byte} {m : List Host.Cell} {a n : Nat} : bytesAt d m a n = (List.range n).map (fun i => tget d m (a + i)) := by
  induction n generalizing a with
  | zero => rfl
  | succ n ih =>
    rw [bytesAt, ih, List.range_succ_eq_map, List.map_cons, List.map_map]
    refine congrArg₂ _ rfl (List.map_congr_left fun i _ => ?_)
    exact congrArg (tget d m) (by omega)

theorem sliceAt_map_range {f : Nat → Byte} {a n k : Nat} (h : a + n ≤ k) : sliceAt ((List.range k).map f) a n = (List.range n).map (fun i => f (a + i)) := by
  have hlen : ((((List.range k).map f).drop a).take n).length = n := by simp; omega
  unfold sliceAt
  dsimp only
  rw [hlen, Nat.sub_self, List.replicate_zero, List.append_nil]
  refine List.ext_getElem (by simp; omega) fun i h1 h2 => ?_
  simp

theorem patch_length {bs xs : List Byte} {a : Nat} (h : a + xs.length ≤ bs.length) : (patch bs a xs).length = bs.length := by
  simp only [patch, List.length_take, List.length_append, List.length_drop]
  omega

theorem getD_patch {bs xs : List Byte} {a j : Nat} (h : a + xs.length ≤ bs.length) (hj : j < bs.length) :
    (patch bs a xs).getD j 0 = if a ≤ j ∧ j < a + xs.length then xs.getD (j - a) 0 else bs.getD j 0 := by
  simp only [patch, List.getD_eq_getElem?_getD, List.getElem?_take, if_pos hj, List.getElem?_append, List.length_append, List.length_take, List.getElem?_drop]
  grind

namespace MemState
variable {m : MemState} {a g : Nat} {bs d : List Byte}

/-- The byte at a place, as a read gives it. -/
def byteAt (m : MemState) (x : Nat) : Byte := (m.grain (x / 256)).getD (x % 256) 0

theorem raw_length : (m.raw g).length = 256 := bytesAt_length

theorem grain_length : (m.grain g).length = 256 := by
  unfold grain plain
  split
  · exact xtsGrain_false_length raw_length
  · exact raw_length

theorem grain_eq_map : m.grain g = (List.range 256).map (fun i => m.byteAt (256 * g + i)) := by
  refine List.ext_getElem (by simp [grain_length]) fun i h1 h2 => ?_
  have hi : i < 256 := by simpa [grain_length] using h1
  have hq : (256 * g + i) / 256 = g := by omega
  have hr : (256 * g + i) % 256 = i := by omega
  simp only [List.getElem_map, List.getElem_range, byteAt, hq, hr]
  exact (List.getD_eq_getElem _ _ h1).symm

theorem grains_eq_map {q k : Nat} : (List.range k).flatMap (fun i => m.grain (q + i)) = (List.range (256 * k)).map (fun j => m.byteAt (256 * q + j)) := by
  induction k with
  | zero => rfl
  | succ k ih =>
    rw [List.range_succ, List.flatMap_append, ih, Nat.mul_succ, List.range_add, List.map_append, List.map_map]
    refine congrArg₂ _ rfl ?_
    rw [List.flatMap_cons, List.flatMap_nil, List.append_nil, grain_eq_map]
    refine List.map_congr_left fun i _ => congrArg m.byteAt ?_
    simp only
    omega

theorem keyAt_unsealed (h : m.seals = []) : m.keyAt a = none := by
  simp [keyAt, sealOf, h]

theorem byteAt_unsealed (h : m.seals = []) {x : Nat} : m.byteAt x = tget 0 m.cells x := by
  have hraw : m.grain (x / 256) = m.raw (x / 256) := by simp [grain, plain, keyAt_unsealed h]
  have hx : 256 * (x / 256) + x % 256 = x := Nat.div_add_mod x 256
  rw [byteAt, hraw, raw, bytesAt_eq_map, List.getD_eq_getElem _ _ (by simp; omega)]
  simp [hx]

/-- A read gives the bytes at its places, sealed or not. -/
theorem read_eq_map {n : Nat} : m.read a n = (List.range n).map (fun i => m.byteAt (a + i)) := by
  unfold read
  split
  · next hs =>
    rw [bytesAt_eq_map]
    exact List.map_congr_left fun i _ => (byteAt_unsealed (List.isEmpty_iff.mp hs)).symm
  · rcases Nat.eq_zero_or_pos n with rfl | hn
    · simp [grainsOf, sliceAt]
    · rw [grainsOf, if_neg (by omega), List.flatMap_map, grains_eq_map, sliceAt_map_range (by omega)]
      refine List.map_congr_left fun i _ => congrArg m.byteAt ?_
      omega

theorem read_one {x : Nat} : m.read x 1 = [m.byteAt x] := read_eq_map

theorem keyAt_putGrain {b : Nat} : (m.putGrain g d).keyAt b = m.keyAt b := rfl

/-- What the stack holds for a grain: its ciphertext under a key, or itself. -/
def stored (m : MemState) (g : Nat) (d : List Byte) : List Byte :=
  match m.keyAt (256 * g) with
  | some k => xtsGrain true k g d
  | none => d

theorem stored_length (hd : d.length = 256) : (m.stored g d).length = 256 := by
  unfold stored
  split
  · next k _ => exact (xtsGrain_round_trip k g d hd).2
  · exact hd

theorem putGrain_cells : (m.putGrain g d).cells = setBytes 0 m.cells (256 * g) (m.stored g d) := rfl

theorem raw_putGrain (hw : twf 0 m.cells = true) (hd : d.length = 256) : (m.putGrain g d).raw g = m.stored g d := by
  have hback := bytesAt_setBytes (bs := m.stored g d) (a := 256 * g) hw
  rw [raw, putGrain_cells]
  rwa [stored_length hd] at hback

/-- A grain written reads back, enciphered or not. -/
theorem grain_putGrain (hw : twf 0 m.cells = true) (hd : d.length = 256) : (m.putGrain g d).grain g = d := by
  rw [grain, raw_putGrain hw hd, plain, keyAt_putGrain, stored]
  cases m.keyAt (256 * g) with
  | none => rfl
  | some k => exact (xtsGrain_round_trip k g d hd).1

theorem grain_putGrain_ne (hw : twf 0 m.cells = true) (hd : d.length = 256) {q : Nat} (hq : q ≠ g) : (m.putGrain g d).grain q = m.grain q := by
  have hraw : (m.putGrain g d).raw q = m.raw q := by
    rw [raw, putGrain_cells]
    refine bytesAt_setBytes_out hw ?_
    rw [stored_length hd]
    omega
  rw [grain, hraw]
  rfl

theorem byteAt_putGrain (hw : twf 0 m.cells = true) (hd : d.length = 256) {x : Nat} :
    (m.putGrain g d).byteAt x = if x / 256 = g then d.getD (x % 256) 0 else m.byteAt x := by
  unfold byteAt
  split
  · next hx => rw [hx, grain_putGrain hw hd]
  · next hx => rw [grain_putGrain_ne hw hd hx]

/-- What a write of `bs` at `a` does to the grain `g` it touches. -/
def writeGrain (a : Nat) (bs : List Byte) (m : MemState) (g : Nat) : MemState :=
  let lo := max a (256 * g)
  let hi := min (a + bs.length) (256 * g + 256)
  let piece := (bs.drop (lo - a)).take (hi - lo)
  if hi - lo = 256 then m.putGrain g piece
  else if m.ue.contains g then m
  else m.putGrain g (patch (m.grain g) (lo - 256 * g) piece)

theorem write_eq_foldl (h : (m.seals.isEmpty && m.ue.isEmpty) = false) : m.write a bs = (grainsOf a bs.length).foldl (writeGrain a bs) m := by
  unfold write
  rw [h]
  rfl

/-- The byte a write of `bs` at `a` leaves where `old` was. -/
def written (a : Nat) (bs : List Byte) (x : Nat) (old : Byte) : Byte := if a ≤ x ∧ x < a + bs.length then bs.getD (x - a) 0 else old

theorem byteAt_writeGrain (hw : twf 0 m.cells = true) (hu : m.ue = []) (hg : a < 256 * g + 256 ∧ 256 * g < a + bs.length) {x : Nat} :
    (writeGrain a bs m g).byteAt x = if x / 256 = g then MemState.written a bs x (m.byteAt x) else m.byteAt x := by
  unfold writeGrain MemState.written
  extract_lets lo hi piece
  have hx := Nat.div_add_mod x 256
  have hr := Nat.mod_lt x (show 256 > 0 by omega)
  split
  · next hfull =>
    have hlen : piece.length = 256 := by simp only [piece, List.length_take, List.length_drop]; omega
    rw [byteAt_putGrain hw hlen]
    by_cases hq : x / 256 = g
    · have hin : a ≤ x ∧ x < a + bs.length := by omega
      have hplace : lo - a + x % 256 = x - a := by omega
      rw [if_pos hq, if_pos hq, if_pos hin]
      simp only [piece, List.getD_eq_getElem?_getD, List.getElem?_take, List.getElem?_drop, hplace]
      rw [if_pos (by omega)]
    · rw [if_neg hq, if_neg hq]
  · next hpart =>
    have hold := grain_length (m := m) (g := g)
    have hlen : piece.length = hi - lo := by simp only [piece, List.length_take, List.length_drop]; omega
    have hfits : lo - 256 * g + piece.length ≤ (m.grain g).length := by omega
    simp only [hu, List.contains_nil, Bool.false_eq_true, if_false]
    rw [byteAt_putGrain hw ((patch_length hfits).trans hold)]
    by_cases hq : x / 256 = g
    · have hplace : lo - a + (x % 256 - (lo - 256 * g)) = x - a ∨ ¬(a ≤ x) := by omega
      rw [if_pos hq, if_pos hq, getD_patch hfits (by omega)]
      by_cases hin : a ≤ x ∧ x < a + bs.length
      · rw [if_pos hin, if_pos (by omega)]
        simp only [piece, List.getD_eq_getElem?_getD, List.getElem?_take, List.getElem?_drop]
        rw [if_pos (by omega), hplace.resolve_right (by omega)]
      · rw [if_neg hin, if_neg (by omega), byteAt, hq]
    · rw [if_neg hq, if_neg hq]

theorem writeGrain_frame (hw : twf 0 m.cells = true) (hu : m.ue = []) :
    twf 0 (writeGrain a bs m g).cells = true ∧ (writeGrain a bs m g).ue = [] := by
  have put (e : List Byte) : twf 0 (m.putGrain g e).cells = true ∧ (m.putGrain g e).ue = [] := ⟨twf_setBytes hw, by simp [putGrain, hu]⟩
  unfold writeGrain
  dsimp only
  split
  · exact put _
  · split
    · exact ⟨hw, hu⟩
    · exact put _

theorem byteAt_writeGrains {l : List Nat} (hl : ∀ g ∈ l, a < 256 * g + 256 ∧ 256 * g < a + bs.length) (hw : twf 0 m.cells = true) (hu : m.ue = []) {x : Nat} :
    (l.foldl (writeGrain a bs) m).byteAt x = if x / 256 ∈ l then MemState.written a bs x (m.byteAt x) else m.byteAt x := by
  induction l generalizing m with
  | nil => rfl
  | cons g l ih =>
    obtain ⟨hw', hu'⟩ := writeGrain_frame (g := g) (a := a) (bs := bs) hw hu
    rw [List.foldl_cons, ih (fun q hq => hl q (List.mem_cons_of_mem g hq)) hw' hu', byteAt_writeGrain hw hu (hl g List.mem_cons_self)]
    simp only [List.mem_cons, written]
    grind

/-- A write leaves its bytes where it wrote and every other byte as it was, sealed or not. -/
theorem byteAt_write (hw : twf 0 m.cells = true) (hu : m.ue = []) {x : Nat} : (m.write a bs).byteAt x = MemState.written a bs x (m.byteAt x) := by
  by_cases hs : m.seals = []
  · have hwrite : m.write a bs = { m with cells := setBytes 0 m.cells a bs } := by simp [write, hs, hu]
    rw [hwrite, byteAt_unsealed (m := m) hs, byteAt_unsealed (m := { m with cells := setBytes 0 m.cells a bs }) hs, MemState.written]
    split
    · next hin =>
      have hback := bytesAt_setBytes (bs := bs) (a := a) hw
      rw [bytesAt_eq_map] at hback
      have hget := congrArg (fun l : List Byte => l.getD (x - a) 0) hback
      have hplace : a + (x - a) = x := by omega
      simpa [List.getD_eq_getElem?_getD, show x - a < bs.length by omega, hplace] using hget
    · exact tget_setBytes_out hw (by omega)
  · rw [write_eq_foldl (by simp [hs])]
    have hmem (g : Nat) : g ∈ grainsOf a bs.length ↔ 0 < bs.length ∧ a < 256 * g + 256 ∧ 256 * g < a + bs.length := by
      unfold grainsOf
      split
      · next hz => simp [hz]
      · simp only [List.mem_map, List.mem_range]
        exact ⟨fun ⟨i, hi, hg⟩ => by omega, fun h => ⟨g - a / 256, by omega, by omega⟩⟩
    rw [byteAt_writeGrains (fun g hg => ((hmem g).mp hg).2) hw hu]
    split
    · rfl
    · next hout =>
      rw [hmem] at hout
      rw [MemState.written, if_neg (by omega)]

theorem read_write (hw : twf 0 m.cells = true) (hu : m.ue = []) : (m.write a bs).read a bs.length = bs := by
  rw [read_eq_map]
  refine List.ext_getElem (by simp) fun i h1 h2 => ?_
  have hi : i < bs.length := h2
  simp [byteAt_write hw hu, MemState.written, hi]

theorem read_write_out (hw : twf 0 m.cells = true) (hu : m.ue = []) {x : Nat} (hx : x < a ∨ a + bs.length ≤ x) : (m.write a bs).read x 1 = m.read x 1 := by
  rw [read_one, read_one, byteAt_write hw hu, MemState.written, if_neg (by omega)]

theorem foreignSeal_of_foreign {f i : Nat} (hs : m.sealOf a = some i) (hf : (m.seal i).owner.toNat ≠ f) : foreignSeal m f a = true := by
  simp [foreignSeal, hs, hf]

theorem owner_of_not_foreignSeal {f i : Nat} (hs : m.sealOf a = some i) (hf : foreignSeal m f a = false) : (m.seal i).owner.toNat = f := by
  by_contra hne
  rw [foreignSeal_of_foreign hs hne] at hf
  cases hf

/-- What a function reaches is not behind another function's seal. -/
theorem not_foreignSeal_of_reach {p : PageState} {f x : Nat} {phys w : Bool} (h : reach m p f phys w a = .at_ x) : foreignSeal m f x = false := by
  unfold reach at h
  split at h
  · split at h
    · split at h
      · split at h
        · cases h
        · next hn =>
          cases h
          exact Bool.eq_false_iff.mpr hn
      · cases h
    · split at h
      · cases h
      · next hn =>
        cases h
        exact Bool.eq_false_iff.mpr hn
    · cases h
  · split at h
    · split at h
      · cases h
      · next hn =>
        cases h
        exact Bool.eq_false_iff.mpr hn
    · cases h
    · cases h

theorem reach_phys_foreign {p : PageState} {f : Nat} {w : Bool} (hp : (∃ e, placeOf a = .fast e ∧ m.live e = true) ∨ (∃ e, placeOf a = .pannier e))
    (hf : foreignSeal m f a = true) : reach m p f true w a = .bad (accErr stSealed 0 a 1) := by
  unfold reach
  obtain ⟨e, he, hl⟩ | ⟨e, he⟩ := hp
  · simp only [he, hl, hf, if_true]
  · simp only [he, hf, if_true]

theorem reach_virt_foreign {p : PageState} {f x : Nat} {b w u l : Bool} (hx : walk m (p.asker f false b) a = .ok x w u l) (hf : foreignSeal m f x = true) :
    reach m p f false b a = .bad (accErr stSealed 0 a 0) := by
  unfold reach
  simp only [hx, hf, Bool.false_eq_true, if_false, if_true]

theorem readPiece_bad {p : PageState} {f n : Nat} {phys : Bool} {e : Args} (h : reach m p f phys false a = .bad e) : readPiece m p f phys (a, n) = .error e := by
  unfold readPiece
  simp only [h]

theorem sealCheck_sealed {f i x va kind : Nat} {coded : Bool} (hs : m.sealOf x = some i) :
    sealCheck m f coded x va kind = if coded then .bad (blockFault faultSealedCoded 0 va kind)
      else if (m.seal i).owner.toNat = f then .at_ x else .bad (blockFault faultSealedAccess 0 va kind) := by
  unfold sealCheck
  simp only [hs]

end MemState

theorem State.not_foreignSeal_of_bar2Place {s : State} {f a x : Nat} {w : Bool} (h : s.bar2Place f a w = .ok x) : foreignSeal s.mem f x = false := by
  unfold State.bar2Place at h
  extract_lets own at h
  split at h
  · split at h
    · split at h
      · cases h
      · next hn =>
        cases h
        exact Bool.eq_false_iff.mpr hn
    · cases h
  · split at h
    · cases h
    · split at h
      · cases h
      · split at h
        · cases h
        · next hn =>
          cases h
          exact Bool.eq_false_iff.mpr hn
  · cases h

theorem grainsOf_within {g o n : Nat} (hn : 0 < n) (h : o + n ≤ 256) : grainsOf (256 * g + o) n = [g] := by
  have hone : (256 * g + o + n - 1) / 256 - (256 * g + o) / 256 + 1 = 1 := by omega
  have hg : (256 * g + o) / 256 = g := by omega
  rw [grainsOf, if_neg (by omega), hone, hg]
  rfl

section
variable {m : MemState} {g : Nat} {bs : List Byte}

/-- A whole grain written is correctable from then on. -/
theorem MemState.write_whole_ue (hu : m.ue = [g]) (hl : bs.length = 256) : m.write (256 * g) bs = m.putGrain g bs := by
  have hg := grainsOf_within (g := g) (o := 0) (n := 256) (by omega) (by omega)
  rw [MemState.write_eq_foldl (by simp [hu]), hl]
  rw [Nat.add_zero] at hg
  rw [hg, List.foldl_cons, List.foldl_nil, writeGrain]
  simp [hl, List.take_of_length_le hl.le]

theorem MemState.write_part_ue {o : Nat} (hu : m.ue = [g]) (h0 : 0 < bs.length) (ho : o + bs.length ≤ 256) (hl : bs.length < 256) :
    m.write (256 * g + o) bs = m := by
  rw [MemState.write_eq_foldl (by simp [hu]), grainsOf_within h0 ho, List.foldl_cons, List.foldl_nil, writeGrain]
  have hpart : min (256 * g + o + bs.length) (256 * g + 256) - max (256 * g + o) (256 * g) ≠ 256 := by omega
  rw [if_neg hpart, hu, if_pos (by simp)]

end

theorem MemState.tget_zero {m : MemState} {lo hi x : Nat} (hw : twf 0 m.cells = true) :
    tget 0 (m.zero lo hi).cells x = if lo ≤ x ∧ x < hi then 0 else tget 0 m.cells x := by
  have hcells : (m.zero lo hi).cells = m.cells.filter (fun e => !(decide (lo ≤ e.1) && decide (e.1 < hi))) :=
    List.filter_congr fun e _ => by simp [← decide_not]
  rw [hcells]
  exact (tget_filter_not (p := fun k => decide (lo ≤ k) && decide (k < hi)) hw).trans (by simp)

/-- Settles O19. -/
theorem memoryReadsWhatWasWritten : Obligations.memory_reads_what_was_written := by
  unfold Obligations.memory_reads_what_was_written
  refine ⟨⟨⟨fun m a bs hs hu hw => ?plain, fun m lo hi hw => ⟨fun x hl hh => ?zeroed, fun x hx => ?kept⟩⟩, fun m g bs hs hu hw =>
      ⟨fun hl => ?whole, fun o h0 ho hl => MemState.write_part_ue hu h0 ho hl⟩⟩, fun key g d hd => xtsGrain_round_trip key g d hd,
    fun m a bs hu hw => ⟨MemState.read_write hw hu, fun x hx => MemState.read_write_out hw hu hx, ?seals⟩,
    fun m g i k d hw hd hi hk => ?stored, fun m p f a i phys w x hr hi => MemState.owner_of_not_foreignSeal hi (MemState.not_foreignSeal_of_reach hr),
    fun m p f a i w hp hi hf => MemState.reach_phys_foreign hp (MemState.foreignSeal_of_foreign hi hf),
    fun m p f a i x w u l b hx hi hf => MemState.reach_virt_foreign hx (MemState.foreignSeal_of_foreign hi hf),
    fun m p f n phys a e hr => MemState.readPiece_bad hr, fun m f i x coded va kind hi => ?check, fun m f i va x w u l hi hf => ?xl,
    fun s f a i w x hr hi => MemState.owner_of_not_foreignSeal hi (State.not_foreignSeal_of_bar2Place hr)⟩
  case plain =>
    have hwrite : m.write a bs = { m with cells := setBytes 0 m.cells a bs } := by simp [MemState.write, hs, hu]
    refine ⟨MemState.read_write hw hu, fun x hx => MemState.read_write_out hw hu hx, ?_⟩
    rw [hwrite]
    exact ⟨hu, rfl, rfl, rfl⟩
  case zeroed => rw [MemState.tget_zero hw, if_pos ⟨hl, hh⟩]
  case kept => rw [MemState.tget_zero hw, if_neg (by omega)]
  case whole =>
    rw [MemState.write_whole_ue hu hl]
    refine ⟨by simp [MemState.putGrain, hu], ?_⟩
    have hback := MemState.raw_putGrain (g := g) hw hl
    rw [MemState.stored, MemState.keyAt_unsealed hs] at hback
    have hempty : (m.putGrain g bs).seals.isEmpty = true := List.isEmpty_iff.mpr hs
    rw [MemState.read, if_pos hempty]
    exact hback
  case seals =>
    obtain ⟨c, u, hf⟩ := MemState.write_frame (m := m) (a := a) (bs := bs)
    rw [hf]
    exact ⟨rfl, rfl⟩
  case stored =>
    have hkey : m.keyAt (256 * g) = some k := by simp only [MemState.keyAt, hi, hk]
    refine ⟨?_, MemState.grain_putGrain hw hd⟩
    rw [MemState.raw_putGrain hw hd, MemState.stored, hkey]
  case check =>
    rw [MemState.sealCheck_sealed hi]
    exact ⟨fun h => if_pos h, fun h hf => by rw [h, if_pos hf]; rfl, fun h hf => by rw [h, if_neg hf]; rfl⟩
  case xl =>
    rw [locateXl, MemState.sealCheck_sealed hi, if_neg hf]
    rfl

end Sys2Proof.Machine
end

section
/-! PROOFS. A list that has not begun (O35). -/

namespace Sys2Proof.Machine

/-- A list of function 0 that is open and has not begun: what is left to consider is not known yet. -/
def openedList : BrewList := { epoch := 1, cmd := { fn := 0, code := 0x40F, tag := 7 } }

/-- Function 0 is served, its one list has not begun, and it has no sequence. -/
def unbegunState : State :=
  { State.reset with
    pages := { ftValid := true, recs := [(0, { enabled := true })] }
    seqs := { lists := [(0, [openedList])] } }

/-- Whether a step leaves a list of function 0 that has begun. -/
def leavesBegun : Host.Outcome State Fault Refusal → Bool
  | .next t => (tget [] t.seqs.lists 0).any (fun l => l.begun)
  | _ => false

/-- A command that is not in progress is not completed. -/
theorem State.complete_of_not_found {s : State} {c : CmdRef} {a : Args} (h : s.ctl.inProgress.find? (fun p => p.cmd == c) = none) : s.complete c a = s := by
  unfold State.complete
  rw [h]

/-- Refutes O35: an open list that has not begun has nothing left to consider, yet its end first begins it (`unbegunState`), which the statement leaves out. -/
theorem not_brewListCommandsComplete : ¬ Obligations.brew_list_commands_complete := by
  intro ⟨_, _, hbuilt, _⟩
  obtain ⟨w, b, a, rfl, rfl, hx⟩ := hbuilt unbegunState _ 0 openedList _ rfl (by decide) (by decide) rfl (by simp [unbegunState]) (by simp [unbegunState]) (by decide)
    (Prod.mk.eta (p := unbegunState.lookahead 0 openedList.epoch)).symm
  have h := congrArg leavesBegun (hx _ (State.complete_of_not_found (by decide)).symm)
  revert h
  decide

end Sys2Proof.Machine
end

section
/-! PROOFS. Rows, tiles and segments of what a unit operation reads and writes (R32, R36, R42 to R45, R48, R49, R117 to R119). -/
namespace Sys2Proof.Machine

section
variable {α : Type}

theorem getD_map_range {f : Nat → α} {d : α} {n j : Nat} (h : j < n) : ((List.range n).map f).getD j d = f j := by
  simp [List.getD_eq_getElem?_getD, h]

theorem mem_map_range {f : Nat → α} {n i : Nat} (h : i < n) : f i ∈ (List.range n).map f := List.mem_map_of_mem (List.mem_range.mpr h)

theorem zip_map_range {f : Nat → α} {n : Nat} : ((List.range n).map f).zip (List.range n) = (List.range n).map (fun i => (f i, i)) :=
  List.ext_getElem (by simp) fun i h1 h2 => by simp

theorem map_range_getD {l : List α} {d : α} {n : Nat} (h : l.length = n) : (List.range n).map (fun i => l.getD i d) = l := by
  subst h
  exact List.ext_getElem (by simp) fun i h1 h2 => by simp at h1; simp [h1]

/-- A row of `n` in tiles of `k`. -/
theorem flatMap_tiles {g : Nat → Nat → α} {k n : Nat} (hk : 0 < k) :
    (List.range (ceilDiv n k)).flatMap (fun t => (List.range (min k (n - k * t))).map (fun j => g t (k * t + j))) = (List.range n).map (fun j => g (j / k) j) := by
  have step (N : Nat) : (List.range N).flatMap (fun t => (List.range (min k (n - k * t))).map (fun j => g t (k * t + j)))
      = (List.range (min n (k * N))).map (fun j => g (j / k) j) := by
    induction N with
    | zero => simp
    | succ N ih =>
      have hlen : min n (k * (N + 1)) = min n (k * N) + min k (n - k * N) := by rw [Nat.mul_succ]; omega
      rw [List.range_succ, List.flatMap_append, ih, hlen, List.range_add, List.map_append, List.map_map, List.flatMap_cons, List.flatMap_nil, List.append_nil]
      refine congrArg₂ _ rfl (List.map_congr_left fun j hj => ?_)
      have hj := List.mem_range.mp hj
      have hfull : min n (k * N) = k * N := by omega
      simp only [Function.comp, hfull]
      rw [Nat.mul_add_div hk, Nat.div_eq_of_lt (by omega), Nat.add_zero]
  have hcover : n ≤ k * ceilDiv n k := by
    have := Nat.div_add_mod (n + k - 1) k
    have := Nat.mod_lt (n + k - 1) hk
    unfold ceilDiv
    omega
  rw [step, Nat.min_eq_left hcover]

/-- A list cut in pieces of `n`. -/
theorem pieces_eq_map {n f : Nat} {l : List α} (hn : 0 < n) (hf : l.length ≤ f) :
    pieces n f l = (List.range (ceilDiv l.length n)).map (fun q => (l.drop (n * q)).take n) := by
  induction f generalizing l with
  | zero =>
    have hl : l = [] := List.eq_nil_of_length_eq_zero (by omega)
    have hz : ceilDiv 0 n = 0 := Nat.div_eq_of_lt (by omega)
    simp [hl, pieces, hz]
  | succ f ih =>
    unfold pieces
    split
    · next he =>
      have hz : ceilDiv 0 n = 0 := Nat.div_eq_of_lt (by omega)
      rw [List.isEmpty_iff.mp he]
      simp [hz]
    · next he =>
      have hpos : 0 < l.length := List.length_pos_iff.mpr fun h => he (by simp [h])
      have hceil : ceilDiv l.length n = ceilDiv (l.drop n).length n + 1 := by
        unfold ceilDiv
        rw [List.length_drop]
        rcases Nat.le_total l.length n with h | h
        · rw [Nat.sub_eq_zero_of_le h, Nat.div_eq_of_lt (show 0 + n - 1 < n by omega)]
          exact Nat.div_eq_of_lt_le (by omega) (by omega)
        · have : l.length + n - 1 = (l.length - n + n - 1) + n := by omega
          rw [this, Nat.add_div_right _ hn]
      rw [hceil, List.range_succ_eq_map, List.map_cons, List.map_map, ih (by rw [List.length_drop]; omega)]
      refine congrArg₂ _ (by simp) (List.map_congr_left fun q _ => ?_)
      simp only [Function.comp, List.drop_drop, Nat.mul_succ]
      rw [Nat.add_comm]

end

section
variable {v : View} {a n j : Nat}

theorem wideCodes_eq_map {k : Nat} {bs : List Byte} : wideCodes k n bs = (List.range n).map (fun j => leNat ((bs.drop (j * k)).take k)) := by
  induction n generalizing bs with
  | zero => rfl
  | succ n ih =>
    rw [wideCodes, ih, List.range_succ_eq_map, List.map_cons, List.map_map]
    refine congrArg₂ _ (by simp) (List.map_congr_left fun j _ => ?_)
    simp only [Function.comp, List.drop_drop, Nat.succ_mul]
    rw [Nat.add_comm]

theorem View.bytes_eq (h : v.open_ = []) : v.bytes a n = bytesAt 0 v.spad (v.spadKey + a) n := by
  simp [View.bytes, h]

theorem bytesAt_slice {d : Byte} {m : List Host.Cell} {x i k N : Nat} (h : i + k ≤ N) : ((bytesAt d m x N).drop i).take k = bytesAt d m (x + i) k := by
  rw [bytesAt_eq_map, bytesAt_eq_map]
  refine List.ext_getElem (by simp; omega) fun q h1 h2 => ?_
  simp [Nat.add_assoc]

/-- An element of a row of whole bytes (R157). -/
theorem View.row_wide {w : Nat} (hv : v.open_ = []) (hw : 0 < w) (hj : j < n) :
    (v.row a (8 * w) n).getD j 0 = leNat (bytesAt 0 v.spad (v.spadKey + a + j * w) w) := by
  have hdiv : 8 * w / 8 = w := by omega
  have hlen : packedLen (8 * w) n = n * w := by
    unfold packedLen ceilDiv
    rw [Nat.mul_assoc, Nat.mul_comm w n]
    omega
  have hfit : j * w + w ≤ n * w := by
    rw [← Nat.succ_mul]
    exact Nat.mul_le_mul_right w hj
  rw [View.row, unpack, if_neg (by omega), hdiv, wideCodes_eq_map, getD_map_range hj, View.bytes_eq hv, hlen, bytesAt_slice hfit]

theorem flatMap_const_length {f : Byte → List Nat} {k : Nat} (hf : ∀ x, (f x).length = k) {l : List Byte} : (l.flatMap f).length = l.length * k := by
  induction l with
  | nil => simp
  | cons x l ih => rw [List.flatMap_cons, List.length_append, hf, ih, List.length_cons, Nat.succ_mul, Nat.add_comm]

theorem getD_flatMap_const {f : Byte → List Nat} {k : Nat} (hk : 0 < k) (hf : ∀ x, (f x).length = k) {l : List Byte} {i : Nat} (hi : i < l.length * k) :
    (l.flatMap f).getD i 0 = (f (l.getD (i / k) 0)).getD (i % k) 0 := by
  induction l generalizing i with
  | nil => simp at hi
  | cons x l ih =>
    rw [List.flatMap_cons]
    rcases Nat.lt_or_ge i k with h | h
    · rw [List.getD_append _ _ _ _ (by rw [hf]; exact h), Nat.div_eq_of_lt h, Nat.mod_eq_of_lt h]
      rfl
    · have hlen : (x :: l).length * k = l.length * k + k := by rw [List.length_cons, Nat.succ_mul]
      rw [List.getD_append_right _ _ _ _ (by rw [hf]; exact h), hf, ih (by omega), ← Nat.mod_eq_sub_mod h]
      have hq : i / k = (i - k) / k + 1 := by rw [Nat.div_eq_sub_div hk h]
      rw [hq]
      rfl

/-- An element of a row of half bytes. -/
theorem View.row_four (hv : v.open_ = []) (hj : j < n) :
    (v.row a 4 n).getD j 0 = (tget 0 v.spad (v.spadKey + a + j / 2)).toNat / 16 ^ (j % 2) % 16 := by
  have hlen : packedLen 4 n = (4 * n + 7) / 8 := rfl
  have hsub (x : Byte) : (subCodes 4 x).length = 2 := by simp [subCodes]
  have hfit : j < (v.bytes a (packedLen 4 n)).length * 2 := by
    rw [View.bytes_eq hv, bytesAt_length, hlen]
    omega
  rw [View.row, unpack, if_pos (by omega), List.getD_eq_getElem?_getD, List.getElem?_take, if_pos hj, ← List.getD_eq_getElem?_getD,
    getD_flatMap_const (by omega) hsub hfit, View.bytes_eq hv, bytesAt_eq_map, getD_map_range (by rw [hlen]; omega)]
  unfold subCodes
  rw [getD_map_range (by omega), Nat.pow_mul]
  rfl

theorem View.bytes_length : (v.bytes a n).length = n := by
  unfold View.bytes
  split
  · exact bytesAt_length
  · simp

/-- A row has its `n` codes, in 2, 4 or any number of whole bytes' bits. -/
theorem View.row_length {b : Nat} (h : 8 ≤ b ∨ b = 4 ∨ b = 2) : (v.row a b n).length = n := by
  unfold View.row unpack
  split
  · have hsub (x : Byte) : (subCodes b x).length = 8 / b := by simp [subCodes]
    rw [List.length_take, flatMap_const_length hsub, View.bytes_length]
    unfold packedLen ceilDiv
    rcases h with h | rfl | rfl
    · omega
    · omega
    · omega
  · rw [wideCodes_eq_map]
    simp

theorem View.vec_length {fmt : Nat} : (v.vec a fmt n).length = n := by
  have hb : 8 ≤ 8 * vecBytes fmt := by
    unfold vecBytes
    split <;> omega
  rw [View.vec, List.length_map, View.row_length (.inl hb)]

end

end Sys2Proof.Machine
end

section
/-! PROOFS. Products, quantisers and rotations, element by element (R36, R42 to R45, R48, R49, R56, R58, R61, R65). -/
namespace Sys2Proof.Machine

section
variable {p : Pair} {r : ProductRec} {v : View} {a : ProductAt} {x w : Vec}

theorem accumulate_getLastD {gs : List Nat} {start : Nat} :
    (accumulate p x w gs start).getLastD start = gs.foldl (fun acc g => to32 ((f32 acc).add (chunkValue p g x w))) start := by
  induction gs generalizing start with
  | nil => rfl
  | cons g gs ih =>
    rw [accumulate, List.getLastD_cons, List.foldl_cons]
    exact ih

/-- The number of scales of a vector of a pair. -/
def scalesOf (p : Pair) (k : Nat) : Nat :=
  match p.scaleLen with
  | some n => ceilDiv k n
  | none => 0

/-- Row `i` of the activations, and column `j` of the weights. -/
def activationRow (p : Pair) (r : ProductRec) (v : View) (a : ProductAt) (i : Nat) : Vec :=
  mkVec p (((v.row (a.x + i * (r.k * p.xBits / 8)) p.xBits r.k).map (xElem p r)).map (·.1)) ((v.bytes (a.sx + i * scalesOf p r.k) (scalesOf p r.k)).map (·.toNat))

def weightColumnAt (p : Pair) (r : ProductRec) (v : View) (a : ProductAt) (j : Nat) : Vec × List (FmtEvent × Nat) :=
  weightColumn p r v a (weightTile p r v a (j / 128)) j

theorem activations_rows (h : r.inline = false) : (activations p r v a).1 = (List.range r.m).map (activationRow p r v a) := by
  unfold activations
  rw [h]
  dsimp only
  rw [if_neg Bool.false_ne_true, List.map_map]
  rfl

theorem weight_columns :
    (List.range (ceilDiv r.n 128)).flatMap (fun t => (List.range (min 128 (r.n - 128 * t))).map (fun jj => weightColumn p r v a (weightTile p r v a t) (128 * t + jj)))
      = (List.range r.n).map (weightColumnAt p r v a) :=
  flatMap_tiles (g := fun t j => weightColumn p r v a (weightTile p r v a t) j) (by omega)

/-- The entry of row `i` and column `j` is written (R36, R42). -/
theorem product_writes {i j : Nat} (he : a.empty = false) (hi : r.inline = false) (him : i < r.m) (hjn : j < r.n) :
    (let start := if a.zero && !r.keep then 0 else v.entry (j % 128) (a.d + j / 128 * r.m + i)
     let sums := accumulate p (activationRow p r v a i) (weightColumnAt p r v a j).1 (List.range (activationRow p r v a i).chunks.length) start
     accWrite (j % 128) (a.d + j / 128 * r.m + i) start
      (if r.corr then sums ++ [fadd (sums.getLastD start) (((correction r v).terms.getD i []).getD j 0)] else sums)) ∈ (product p r v a).writes := by
  unfold product
  rw [he]
  dsimp only
  rw [if_neg Bool.false_ne_true]
  dsimp only
  rw [activations_rows hi, weight_columns, zip_map_range, zip_map_range]
  refine List.mem_flatMap.mpr ⟨_, mem_map_range hjn, List.mem_map.mpr ⟨_, mem_map_range him, ?_⟩⟩
  dsimp only
  congr 1
  split
  · rfl
  · rfl

theorem Pair.xBits_cases : 8 ≤ p.xBits ∨ p.xBits = 4 ∨ p.xBits = 2 := by
  cases p <;> decide

theorem activationRow_eq {i : Nat} : activationRow p r v a i = mkVec p
    ((List.range r.k).map (fun k => (xElem p r ((v.row (a.x + i * (r.k * p.xBits / 8)) p.xBits r.k).getD k 0)).1))
    ((v.bytes (a.sx + i * scalesOf p r.k) (scalesOf p r.k)).map (·.toNat)) := by
  have hrow := map_range_getD (d := 0) (View.row_length (v := v) (a := a.x + i * (r.k * p.xBits / 8)) (n := r.k) p.xBits_cases)
  unfold activationRow
  rw [← hrow, List.map_map, List.map_map]
  refine congrArg (fun l => mkVec p l _) (List.map_congr_left fun k hk => ?_)
  simp only [Function.comp]
  rw [getD_map_range (List.mem_range.mp hk)]

theorem weightColumnAt_eq {j : Nat} : (weightColumnAt p r v a j).1 = mkVec p
    ((List.range r.k).map (fun k => (wElem p r ((v.row (a.w + j / 128 * (r.k * 128 * p.wBits / 8) + k * (128 * p.wBits / 8)) p.wBits 128).getD (j % 128) 0)).1))
    ((v.bytes (a.sw + j * scalesOf p r.k) (scalesOf p r.k)).map (·.toNat)) := by
  unfold weightColumnAt weightColumn weightTile wTileBytes
  dsimp only
  rw [List.map_map, List.map_map]
  rfl

end

theorem chunkValue_scaled {p : Pair} {g n : Nat} {x w : Vec} (h : p.scaleLen = some n) (hp : p ≠ .mxfp4) : chunkValue p g x w =
    exactSum [((dot (x.chunks.getD g []) (w.chunks.getD g [])).mul (e5m3Val (x.scales.getD (g * p.chunk / n) 0))).mul (e5m3Val (w.scales.getD (g * p.chunk / n) 0))] := by
  cases p with
  | mxfp4 => exact absurd rfl hp
  | fp4 | int4 | ternary =>
    cases h
    rfl
  | fp8 | bf16 | fp16 => cases h

theorem chunkValue_unscaled {p : Pair} {g : Nat} {x w : Vec} (h : p.scaleLen = none) : chunkValue p g x w = dot (x.chunks.getD g []) (w.chunks.getD g []) := by
  cases p with
  | fp4 | int4 | ternary | mxfp4 => cases h
  | fp8 | bf16 | fp16 => rfl

/-- A value that is the integer `z`, with either sign of a zero. -/
def FpVal.IsInt (v : FpVal) (z : Int) : Prop := ∃ s m, v = .fin s m 0 ∧ z = if s then -(m : Int) else m

theorem FpVal.IsInt.add {u v : FpVal} {y z : Int} (hu : u.IsInt y) (hv : v.IsInt z) : (u.add v).IsInt (y + z) := by
  obtain ⟨s, m, rfl, rfl⟩ := hu
  obtain ⟨t, n, rfl, rfl⟩ := hv
  unfold FpVal.add
  dsimp only
  split
  · next h =>
    obtain ⟨rfl, rfl⟩ := h
    exact ⟨_, _, rfl, by simp⟩
  · refine ⟨_, _, rfl, ?_⟩
    simp only [FpVal.atExp, min_self, sub_self, Int.toNat_zero, pow_zero, mul_one, decide_eq_true_eq]
    split <;> omega

theorem FpVal.isInt_mul_ofInt {y z : Int} : ((FpVal.ofInt y 0).mul (FpVal.ofInt z 0)).IsInt (y * z) := by
  refine ⟨_, _, rfl, ?_⟩
  have habs : ((y.natAbs * z.natAbs : Nat) : Int) = |y * z| := by rw [← Int.natAbs_mul, Int.natCast_natAbs]
  rw [habs]
  rcases lt_or_ge y 0 with hy | hy <;> rcases lt_or_ge z 0 with hz | hz
  · simp [hy, hz, abs_of_pos (mul_pos_of_neg_of_neg hy hz)]
  · simp [hy, not_lt.mpr hz, abs_of_nonpos (mul_nonpos_of_nonpos_of_nonneg hy.le hz)]
  · simp [hz, not_lt.mpr hy, abs_of_nonpos (mul_nonpos_of_nonneg_of_nonpos hy hz.le)]
  · simp [not_lt.mpr hy, not_lt.mpr hz, abs_of_nonneg (mul_nonneg hy hz)]

theorem FpVal.IsInt.foldl_add {l : List (Int × Int)} {u : FpVal} {z : Int} (hu : u.IsInt z) :
    ((l.map (fun x => (FpVal.ofInt x.1 0).mul (FpVal.ofInt x.2 0))).foldl FpVal.add u).IsInt (z + (l.map (fun x => x.1 * x.2)).sum) := by
  induction l generalizing u z with
  | nil => simpa using hu
  | cons x l ih =>
    have := ih (hu.add (FpVal.isInt_mul_ofInt (y := x.1) (z := x.2)))
    rwa [add_assoc] at this

/-- A dot product of integers is exact (R36). -/
theorem dot_ofInt {l : List (Int × Int)} :
    dot (l.map (fun x => FpVal.ofInt x.1 0)) (l.map (fun x => FpVal.ofInt x.2 0)) = .ofInt ((l.map (fun x => x.1 * x.2)).sum) 0 := by
  obtain ⟨s, m, hv, hz⟩ := FpVal.IsInt.foldl_add (l := l) (u := .fin false 0 0) (z := 0) ⟨false, 0, rfl, rfl⟩
  rw [zero_add] at hz
  rw [dot, exactSum, List.zipWith_map, List.zipWith_self, hv, hz]
  cases m with
  | zero => cases s <;> rfl
  | succ m =>
    cases s with
    | false => simp [FpVal.ofInt]; omega
    | true => simp [FpVal.ofInt]; omega

theorem correction_term {r : ProductRec} {v : View} {i j : Nat} (hi : i < r.m) (hj : j < r.n) :
    ((correction r v).terms.getD i []).getD j 0 = chunkedDot (corrChunk r)
      ((List.range r.rank).map (fun q => bf16.decode (convertTo bf16 .rne true false (f32 (chunkedDot (corrChunk r)
        ((v.row (r.corrX + i * (r.k * (corrFmt r 0).width / 8)) (corrFmt r 0).width r.k).map (fun c => (wideVal (corrFmt r 0) c).1))
        ((v.row (r.corrA + q * (r.k * (corrFmt r 1).width / 8)) (corrFmt r 1).width r.k).map (fun c => (wideVal (corrFmt r 1) c).1))))).code))
      ((v.row (r.corrB + j * (r.rank * (corrFmt r 2).width / 8)) (corrFmt r 2).width r.rank).map (fun c => (wideVal (corrFmt r 2) c).1)) := by
  unfold correction corrRows
  simp only [List.map_map]
  rw [getD_map_range hi]
  simp only [Function.comp, List.map_map]
  rw [getD_map_range hj]
  simp only [List.map_map, Function.comp_def]

end Sys2Proof.Machine
end

section
/-! PROOFS. Scales, rotations, quantised rows and converted tiles (R43, R49, R56, R58, R61, R117 to R119). -/
namespace Sys2Proof.Machine

theorem scaleFrom_spec {q a : Nat} {e : Int} {fuel c : Nat} (hfuel : c + fuel = 256) (hbelow : ∀ x < c, dyLe a e ((e5m3 x).1 * q) (e5m3 x).2 = false) :
    (∀ x < scaleFrom q a e c fuel, dyLe a e ((e5m3 x).1 * q) (e5m3 x).2 = false)
    ∧ (scaleFrom q a e c fuel = 255 ∨ dyLe a e ((e5m3 (scaleFrom q a e c fuel)).1 * q) (e5m3 (scaleFrom q a e c fuel)).2 = true) := by
  induction fuel generalizing c with
  | zero => exact ⟨fun x hx => hbelow x (Nat.lt_trans hx (show 255 < c by omega)), .inl rfl⟩
  | succ fuel ih =>
    unfold scaleFrom
    split
    · next h => exact ⟨hbelow, .inr h⟩
    · next h =>
      refine ih (by omega) fun x hx => ?_
      rcases Nat.lt_succ_iff_lt_or_eq.mp hx with hx | rfl
      · exact hbelow x hx
      · exact Bool.eq_false_iff.mpr h

/-- The order of scaled magnitudes does not depend on the exponent they are brought to. -/
theorem dyLe_iff {a b : Nat} {e g k : Int} (he : k ≤ e) (hg : k ≤ g) : dyLe a e b g = true ↔ a * 2 ^ (e - k).toNat ≤ b * 2 ^ (g - k).toNat := by
  have split {x : Int} (hx : min e g ≤ x) : (x - k).toNat = (x - min e g).toNat + (min e g - k).toNat := by omega
  rw [dyLe, decide_eq_true_eq, split (min_le_left e g), split (min_le_right e g), pow_add, pow_add, ← mul_assoc, ← mul_assoc]
  exact (Nat.mul_le_mul_right_iff (Nat.two_pow_pos _)).symm

theorem dyLe_trans {a b c : Nat} {e g i : Int} (h1 : dyLe a e b g = true) (h2 : dyLe b g c i = true) : dyLe a e c i = true := by
  have he : min e (min g i) ≤ e := min_le_left _ _
  have hg : min e (min g i) ≤ g := (min_le_right _ _).trans (min_le_left _ _)
  have hi : min e (min g i) ≤ i := (min_le_right _ _).trans (min_le_right _ _)
  rw [dyLe_iff he hg] at h1
  rw [dyLe_iff hg hi] at h2
  rw [dyLe_iff he hi]
  exact h1.trans h2

theorem dyLe_refl {a : Nat} {e : Int} : dyLe a e a e = true := by simp [dyLe]

theorem dyLe_of_dyLt {a b : Nat} {e g : Int} (h : dyLt a e b g = true) : dyLe a e b g = true := by
  rw [dyLt, Bool.not_eq_true', Bool.eq_false_iff, Ne, dyLe_iff (min_le_right e g) (min_le_left e g)] at h
  rw [dyLe_iff (min_le_left e g) (min_le_right e g)]
  omega

/-- The larger of a magnitude so far and a value's. -/
def amaxStep (s : Nat × Int) (v : FpVal) : Nat × Int :=
  match v.mag? with
  | some (m, e) => if dyLt s.1 s.2 m e then (m, e) else s
  | none => s

theorem amaxStep_ge {s : Nat × Int} {v : FpVal} : dyLe s.1 s.2 (amaxStep s v).1 (amaxStep s v).2 = true := by
  unfold amaxStep
  split
  · split
    · next h => exact dyLe_of_dyLt h
    · exact dyLe_refl
  · exact dyLe_refl

theorem foldl_amaxStep_ge {l : List FpVal} {s : Nat × Int} : dyLe s.1 s.2 (l.foldl amaxStep s).1 (l.foldl amaxStep s).2 = true := by
  induction l generalizing s with
  | nil => exact dyLe_refl
  | cons v l ih => exact dyLe_trans amaxStep_ge ih

/-- No value of a list exceeds its largest magnitude. -/
theorem dyLe_amaxOf {l : List FpVal} {s : Bool} {m : Nat} {e : Int} (h : FpVal.fin s m e ∈ l) : dyLe m e (amaxOf l).1 (amaxOf l).2 = true := by
  suffices ∀ s0, dyLe m e (l.foldl amaxStep s0).1 (l.foldl amaxStep s0).2 = true from this (0, 0)
  induction l with
  | nil => cases h
  | cons v l ih =>
    intro s0
    rcases List.mem_cons.mp h with rfl | h
    · refine dyLe_trans (b := (amaxStep s0 (.fin s m e)).1) (g := (amaxStep s0 (.fin s m e)).2) ?_ foldl_amaxStep_ge
      unfold amaxStep FpVal.mag?
      dsimp only
      split
      · exact dyLe_refl
      · next hlt => simpa [dyLt] using hlt
    · exact ih h _

theorem getD_signs {seed b i : Nat} {l : List Nat} (h : i < l.length) :
    (signs seed b l).getD i 0 = if (splitmix64 (BitVec.ofNat 64 (seed + (b + i)))).getLsbD 63 then fneg (l.getD i 0) else l.getD i 0 := by
  induction l generalizing b i with
  | nil => cases h
  | cons x l ih =>
    cases i with
    | zero => rw [signs, List.getD_cons_zero, List.getD_cons_zero, signAt, Nat.add_zero]
    | succ i =>
      have hplace : b + 1 + i = b + (i + 1) := by omega
      rw [signs, List.getD_cons_succ, List.getD_cons_succ, ih (Nat.lt_of_succ_lt_succ h), hplace]

theorem signs_length {seed b : Nat} {l : List Nat} : (signs seed b l).length = l.length := by
  induction l generalizing b with
  | nil => rfl
  | cons x l ih => simp [signs, ih]

/-- A list of whole blocks starts with one. -/
theorem butterfly_cons {d fuel n : Nat} {l : List Nat} (hd : 0 < d) (hl : l.length = 2 * d * (n + 1)) : butterfly d (fuel + 1) l =
    (List.zipWith fadd (l.take d) ((l.drop d).take d) ++ List.zipWith fsub (l.take d) ((l.drop d).take d)) ++ butterfly d fuel (l.drop (2 * d)) := by
  have hpos : 0 < l.length := by rw [hl]; positivity
  rw [butterfly, if_neg (by simp [List.isEmpty_iff, List.length_pos_iff.mp hpos])]

theorem butterfly_length {d fuel n : Nat} {l : List Nat} (hd : 0 < d) (hl : l.length = 2 * d * n) (hf : n ≤ fuel) : (butterfly d fuel l).length = l.length := by
  induction fuel generalizing l n with
  | zero =>
    have : n = 0 := by omega
    subst this
    rfl
  | succ fuel ih =>
    cases n with
    | zero =>
      have : l = [] := List.eq_nil_of_length_eq_zero (by simpa using hl)
      subst this
      rfl
    | succ n =>
      have hrest : (l.drop (2 * d)).length = 2 * d * n := by rw [List.length_drop, hl, Nat.mul_succ]; omega
      rw [butterfly_cons hd hl, List.length_append, ih hrest (by omega), hrest]
      simp only [List.length_append, List.length_zipWith, List.length_take, List.length_drop, hl, Nat.mul_succ]
      omega

/-- A butterfly's sums and differences, in each block (R56). -/
theorem getD_butterfly {d fuel n b i : Nat} {l : List Nat} (hd : 0 < d) (hl : l.length = 2 * d * n) (hf : n ≤ fuel) (hb : b < n) (hi : i < d) :
    (butterfly d fuel l).getD (2 * d * b + i) 0 = fadd (l.getD (2 * d * b + i) 0) (l.getD (2 * d * b + d + i) 0)
    ∧ (butterfly d fuel l).getD (2 * d * b + d + i) 0 = fsub (l.getD (2 * d * b + i) 0) (l.getD (2 * d * b + d + i) 0) := by
  induction fuel generalizing l n b with
  | zero => omega
  | succ fuel ih =>
    cases n with
    | zero => omega
    | succ n =>
      have hrest : (l.drop (2 * d)).length = 2 * d * n := by rw [List.length_drop, hl, Nat.mul_succ]; omega
      have htwo : 2 * d ≤ l.length := by rw [hl]; exact Nat.le_mul_of_pos_right _ (Nat.succ_pos n)
      have hblock : (List.zipWith fadd (l.take d) ((l.drop d).take d) ++ List.zipWith fsub (l.take d) ((l.drop d).take d)).length = 2 * d := by
        simp only [List.length_append, List.length_zipWith, List.length_take, List.length_drop]
        omega
      rw [butterfly_cons hd hl]
      cases b with
      | zero =>
        simp only [Nat.mul_zero, Nat.zero_add]
        constructor
        · rw [List.getD_append _ _ _ _ (by omega), List.getD_append _ _ _ _ (by simp; omega)]
          simp [List.getD_eq_getElem?_getD, List.getElem?_zipWith, hi, show i < l.length by omega, show d + i < l.length by omega]
        · rw [List.getD_append _ _ _ _ (by omega), List.getD_append_right _ _ _ _ (by simp)]
          have : d + i - (List.zipWith fadd (l.take d) ((l.drop d).take d)).length = i := by simp; omega
          rw [this]
          simp [List.getD_eq_getElem?_getD, List.getElem?_zipWith, hi, show i < l.length by omega, show d + i < l.length by omega]
      | succ b =>
        have hshift (x : Nat) : 2 * d * (b + 1) + x - 2 * d = 2 * d * b + x := by rw [Nat.mul_succ]; omega
        have hge (x : Nat) : 2 * d ≤ 2 * d * (b + 1) + x := by rw [Nat.mul_succ]; omega
        obtain ⟨hs, hm⟩ := ih hrest (by omega) (b := b) (by omega)
        have hdrop (x : Nat) : (l.drop (2 * d)).getD (2 * d * b + x) 0 = l.getD (2 * d * (b + 1) + x) 0 := by
          simp only [List.getD_eq_getElem?_getD, List.getElem?_drop]
          congr 2
          rw [Nat.mul_succ]
          omega
        rw [Nat.add_assoc (2 * d * b), hdrop, hdrop] at hs hm
        rw [Nat.add_assoc (2 * d * (b + 1)), List.getD_append_right _ _ _ _ (hblock ▸ hge i), List.getD_append_right _ _ _ _ (hblock ▸ hge (d + i)), hblock, hshift, hshift]
        exact ⟨hs, hm⟩

theorem stages_length {k n : Nat} {l : List Nat} (hn : n ≤ k) (hl : l.length = 2 ^ k) : (stages k n l).length = 2 ^ k := by
  induction n generalizing l with
  | zero => exact hl
  | succ n ih =>
    have hblocks : l.length = 2 * 2 ^ (k - (n + 1)) * 2 ^ n := by
      rw [hl, ← pow_succ', ← pow_add]
      congr 1
      omega
    have hfuel : 2 ^ n ≤ l.length := by rw [hl]; exact Nat.pow_le_pow_right (by omega) (by omega)
    exact ih (by omega) ((butterfly_length (Nat.two_pow_pos _) hblocks hfuel).trans hl)

theorem rotateBlock_length {k seed b : Nat} {tr : Bool} {l : List Nat} (hl : l.length = 2 ^ k) : (rotateBlock k seed tr b l).length = 2 ^ k := by
  cases tr with
  | false => simp [rotateBlock, normalise, stages_length (Nat.le_refl k) (signs_length.trans hl)]
  | true => simp [rotateBlock, normalise, signs_length, stages_length (Nat.le_refl k) hl]

/-- A row is rotated block by block. -/
theorem getD_rotateBlocks {k seed : Nat} {tr : Bool} {fuel b n q i : Nat} {l : List Nat} (hl : l.length = 2 ^ k * n) (hf : n ≤ fuel) (hq : q < n) (hi : i < 2 ^ k) :
    (rotateBlocks k seed tr fuel b l).getD (2 ^ k * q + i) 0 = (rotateBlock k seed tr (b + 2 ^ k * q) ((l.drop (2 ^ k * q)).take (2 ^ k))).getD i 0 := by
  have hpos := Nat.two_pow_pos k
  induction fuel generalizing l n b q with
  | zero => omega
  | succ fuel ih =>
    cases n with
    | zero => omega
    | succ n =>
      have hall : 2 ^ k ≤ l.length := by rw [hl]; exact Nat.le_mul_of_pos_right _ (Nat.succ_pos n)
      have hrest : (l.drop (2 ^ k)).length = 2 ^ k * n := by rw [List.length_drop, hl, Nat.mul_succ]; omega
      have hfirst : (rotateBlock k seed tr b (l.take (2 ^ k))).length = 2 ^ k := rotateBlock_length (by rw [List.length_take]; omega)
      rw [rotateBlocks, if_neg (by simp [List.isEmpty_iff]; rintro rfl; simp at hall)]
      cases q with
      | zero =>
        rw [Nat.mul_zero, Nat.zero_add, Nat.add_zero, List.drop_zero, List.getD_append _ _ _ _ (by omega)]
      | succ q =>
        have hshift : 2 ^ k * (q + 1) + i - 2 ^ k = 2 ^ k * q + i := by rw [Nat.mul_succ]; omega
        have hplace : b + 2 ^ k + 2 ^ k * q = b + 2 ^ k * (q + 1) := by rw [Nat.mul_succ]; omega
        rw [List.getD_append_right _ _ _ _ (by rw [hfirst, Nat.mul_succ]; omega), hfirst, hshift, ih hrest (by omega) (by omega), hplace, List.drop_drop, Nat.mul_succ,
          Nat.add_comm (2 ^ k)]

theorem getD_rotateRow {k seed b n q i : Nat} {tr : Bool} {f : Fmt} {codes : List Nat} (hk : k ≠ 0) (hl : codes.length = 2 ^ k * n) (hq : q < n) (hi : i < 2 ^ k) :
    (rotateRow k seed tr b f codes).getD (2 ^ k * q + i) 0
      = (rotateBlock k seed tr (b + 2 ^ k * q) (((codes.drop (2 ^ k * q)).take (2 ^ k)).map (fun c => to32 (f.decode c)))).getD i 0 := by
  have hlen : (codes.map (fun c => to32 (f.decode c))).length = 2 ^ k * n := by rw [List.length_map, hl]
  have hfuel : n ≤ (codes.map (fun c => to32 (f.decode c))).length := by rw [hlen]; exact Nat.le_mul_of_pos_left _ (Nat.two_pow_pos k)
  rw [rotateRow, if_neg hk, getD_rotateBlocks hlen hfuel hq hi, List.map_take, List.map_drop]

section
variable {r : ProductRec} {v : View} {src dst sv copy coord i : Nat}

/-- Row `i` of a rotated tile, and the scales stored for it. -/
def rotatedRow (r : ProductRec) (v : View) (src coord i : Nat) : List Nat :=
  rotateRow r.rotK r.seed r.transpose coord ((srcFmt? r.srcFmt).getD bf16) (v.row (src + i * (r.k * ((srcFmt? r.srcFmt).getD bf16).width / 8)) ((srcFmt? r.srcFmt).getD bf16).width r.k)

def storedScales (r : ProductRec) (v : View) (sv i : Nat) : List Nat :=
  if r.stored then (v.bytes (sv + i * ceilDiv r.k 128) (ceilDiv r.k 128)).map (·.toNat) else []

theorem rotatedRows_eq : rotatedRows r v src sv coord
    = (List.range r.m).map (fun i => (rotatedRow r v src coord i, quantiseRow r (storedScales r v sv i) (rotatedRow r v src coord i))) := rfl

theorem ProductRec.rotTarget_wide (h : r.pair = 4) : ∃ f, r.rotTarget = .wide f := ⟨_, if_pos h⟩

theorem ProductRec.rotTarget_narrow (h : r.pair ≠ 4) : ∃ t, r.rotTarget = .narrow t := by
  unfold ProductRec.rotTarget
  rw [if_neg h]
  split
  · exact ⟨_, rfl⟩
  · exact ⟨_, rfl⟩

theorem rotateStore_row {bits : Nat} (hi : i < r.m) (hbits : bits = if r.pair = 4 then 8 else 4) :
    CoreWrite.spad (dst + i * (r.k * bits / 8)) (pack bits 0 ((quantiseRow r (storedScales r v sv i) (rotatedRow r v src coord i)).elems.map (·.code)))
      ∈ (rotateStore r v src dst sv copy coord).writes := by
  unfold rotateStore
  dsimp only
  rw [rotatedRows_eq, zip_map_range, List.map_map]
  refine List.mem_append_left _ (List.mem_append_left _ (List.mem_map.mpr ⟨i, List.mem_range.mpr hi, ?_⟩))
  rw [hbits]
  by_cases hp : r.pair = 4
  · obtain ⟨f, hf⟩ := ProductRec.rotTarget_wide hp
    simp only [Function.comp, hf, if_pos hp]
  · obtain ⟨t, ht⟩ := ProductRec.rotTarget_narrow hp
    simp only [Function.comp, ht, if_neg hp]

theorem rotateStore_scales (hi : i < r.m) (hp : r.pair ≠ 4) (hs : r.stored = false) :
    CoreWrite.spad (sv + i * ceilDiv r.k 128) ((quantiseRow r [] (rotatedRow r v src coord i)).scales.map (BitVec.ofNat 8)) ∈ (rotateStore r v src dst sv copy coord).writes := by
  obtain ⟨t, ht⟩ := ProductRec.rotTarget_narrow hp
  unfold rotateStore
  simp only [ht]
  rw [rotatedRows_eq, zip_map_range, List.map_map, List.map_map, if_pos ⟨trivial, by rw [hs]; rfl⟩]
  refine List.mem_append_left _ (List.mem_append_right _ (List.mem_map.mpr ⟨i, List.mem_range.mpr hi, ?_⟩))
  simp only [Function.comp, storedScales, hs, Bool.false_eq_true, if_false]

theorem rotateStore_copy (hi : i < r.m) (hc : r.corr = true) :
    CoreWrite.spad (copy + i * (r.k * r.copyFmt.width / 8)) (pack r.copyFmt.width 0 ((rotatedRow r v src coord i).map (fun c => (convertTo r.copyFmt .rne r.sat false (f32 c)).code)))
      ∈ (rotateStore r v src dst sv copy coord).writes := by
  unfold rotateStore
  dsimp only
  rw [rotatedRows_eq, if_pos hc]
  refine List.mem_append_right _ ?_
  rw [List.map_map, zip_map_range, List.map_map]
  refine List.mem_map.mpr ⟨i, List.mem_range.mpr hi, ?_⟩
  simp only [Function.comp_def, List.map_map]

end

end Sys2Proof.Machine
end

section
/-! PROOFS. Quantised rows, converted tiles and the vector unit's tiles (R43, R117 to R119, R134, R137, R138, R140 to R146, R149). -/
namespace Sys2Proof.Machine

section
variable {r : ProductRec} {t : NarrowFmt} {st row : List Nat} {j : Nat}

/-- The segments of 128 of a list. -/
theorem pieces_segments {α : Type} {n : Nat} {l : List α} (hl : l.length = n) :
    pieces 128 n l = (List.range (ceilDiv n 128)).map (fun q => (l.drop (128 * q)).take 128) := by
  subst hl
  exact pieces_eq_map (by omega) (Nat.le_refl _)

theorem quantiseRow_scales (h : r.rotTarget = .narrow t) : (quantiseRow r st row).scales
    = if r.stored then st else (List.range (ceilDiv row.length 128)).map (fun q => dynamicScale t (((row.map f32).drop (128 * q)).take 128)) := by
  unfold quantiseRow
  simp only [h]
  rw [pieces_segments rfl, List.map_map, List.length_map]
  rfl

theorem quantiseRow_elems (h : r.rotTarget = .narrow t) (hs : ceilDiv row.length 128 ≤ (quantiseRow r st row).scales.length) :
    (quantiseRow r st row).elems = (List.range row.length).map (fun j => quantise t .rne false ((quantiseRow r st row).scales.getD (j / 128) 0) (f32 (row.getD j 0))) := by
  have helems : (quantiseRow r st row).elems
      = ((pieces 128 (row.map f32).length (row.map f32)).zip (quantiseRow r st row).scales).flatMap (fun s => s.1.map (quantise t .rne false s.2)) := by
    unfold quantiseRow
    simp only [h]
  generalize (quantiseRow r st row).scales = sc at hs helems ⊢
  have hzip : (pieces 128 (row.map f32).length (row.map f32)).zip sc
      = (List.range (ceilDiv row.length 128)).map (fun q => (((row.map f32).drop (128 * q)).take 128, sc.getD q 0)) := by
    rw [pieces_segments rfl, List.length_map]
    refine List.ext_getElem (by simp; omega) fun i h1 h2 => ?_
    have hi : i < sc.length := by simp at h1; omega
    simp [hi]
  rw [helems, hzip, List.flatMap_map, ← flatMap_tiles (g := fun q j => quantise t .rne false (sc.getD q 0) (f32 (row.getD j 0))) (k := 128) (by omega)]
  refine List.flatMap_congr fun q _ => List.ext_getElem (by simp) fun i h1 h2 => ?_
  have hi : i < 128 ∧ 128 * q + i < row.length := by simp at h2; omega
  simp [List.getD_eq_getElem?_getD, hi.2]

/-- A row's elements and scales after quantisation (R49, R58). -/
theorem quantiseRow_narrow (h : r.rotTarget = .narrow t) (hj : j < row.length) (hs : r.stored = true → ceilDiv row.length 128 ≤ st.length) :
    ((quantiseRow r st row).elems.map (·.code)).getD j 0 = (quantise t .rne false ((quantiseRow r st row).scales.getD (j / 128) 0) (f32 (row.getD j 0))).code
    ∧ (quantiseRow r st row).scales.getD (j / 128) 0 = (if r.stored then st.getD (j / 128) 0 else dynamicScale t (((row.drop (j / 128 * 128)).take 128).map f32)) := by
  have hlen : ceilDiv row.length 128 ≤ (quantiseRow r st row).scales.length := by
    rw [quantiseRow_scales h]
    split
    · next hst => exact hs hst
    · simp
  refine ⟨?_, ?_⟩
  · rw [quantiseRow_elems h hlen, List.map_map, getD_map_range hj]
    rfl
  · rw [quantiseRow_scales h]
    split
    · rfl
    · have hq : j / 128 < ceilDiv row.length 128 := by unfold ceilDiv; omega
      rw [getD_map_range hq, Nat.mul_comm (j / 128), List.map_take, List.map_drop]

theorem quantiseRow_wide {f : Fmt} (h : r.rotTarget = .wide f) :
    (quantiseRow r st row).elems.map (·.code) = row.map (fun x => (convertTo f .rne r.sat false (f32 x)).code) := by
  unfold quantiseRow
  simp only [h, List.map_map, Function.comp_def]

end

section
variable {r : ConvRec} {v : View} {src dst sv row col i : Nat} {pad : Nat → BitVec 4}

/-- How element `j` of row `i` is rounded, and its value before it is. -/
def convMode (r : ConvRec) (row col i j : Nat) : Rounding := if r.sr then .sr (srRandom r.seed ((row + i) * r.w + col + j)) else .rne

def convValue (r : ConvRec) (v : View) (src i j : Nat) : FpVal := (f32 (v.entry (j % 128) (src + j / 128 * r.rows + i))).mul (f32 r.outScale)

def convScales (r : ConvRec) (t : NarrowFmt) (v : View) (src sv i : Nat) : List Nat :=
  if r.stored then (v.bytes (sv + i * ceilDiv r.cols 128) (ceilDiv r.cols 128)).map (·.toNat)
  else (List.range (ceilDiv r.cols 128)).map (fun q => dynamicScale t ((((List.range r.cols).map (convValue r v src i)).drop (128 * q)).take 128))

theorem convertTile_wide {f : Fmt} (hi : i < r.rows) :
    CoreWrite.spad (dst + i * r.pitch) (pack f.width (pad i).toNat ((List.range r.cols).map (fun j => (convertTo f (convMode r row col i j) r.sat r.flush (convValue r v src i j)).code)))
      ∈ (convertTile r (.wide f) v src dst sv row col pad).writes := by
  unfold convertTile
  dsimp only
  rw [List.append_nil, List.map_map]
  refine List.mem_map.mpr ⟨i, List.mem_range.mpr hi, ?_⟩
  simp only [Function.comp]
  rw [zip_map_range, List.map_map, List.map_map]
  rfl

theorem convertTile_narrow {t : NarrowFmt} (hi : i < r.rows) :
    CoreWrite.spad (dst + i * r.pitch) (pack 4 (pad i).toNat ((List.range r.cols).map (fun j =>
      (quantise t (convMode r row col i j) r.flush ((convScales r t v src sv i).getD (j / 128) 0) (((List.range r.cols).map (convValue r v src i)).getD j .nan)).code)))
      ∈ (convertTile r (.narrow t) v src dst sv row col pad).writes := by
  unfold convertTile
  dsimp only
  refine List.mem_append_left _ ?_
  rw [List.map_map]
  refine List.mem_map.mpr ⟨i, List.mem_range.mpr hi, ?_⟩
  simp only [Function.comp]
  rw [zip_map_range, List.map_map, List.map_map, pieces_segments (by simp), List.map_map]
  refine congrArg (fun l => CoreWrite.spad _ (pack _ _ l)) (List.map_congr_left fun j hj => ?_)
  rw [getD_map_range (List.mem_range.mp hj)]
  rfl

theorem convertTile_scales {t : NarrowFmt} (hi : i < r.rows) (hs : r.stored = false) :
    CoreWrite.spad (sv + i * ceilDiv r.cols 128) ((convScales r t v src sv i).map (BitVec.ofNat 8)) ∈ (convertTile r (.narrow t) v src dst sv row col pad).writes := by
  unfold convertTile convScales
  dsimp only
  rw [hs, if_neg Bool.false_ne_true, if_neg Bool.false_ne_true]
  refine List.mem_append_right _ ?_
  rw [List.map_map]
  refine List.mem_map.mpr ⟨i, List.mem_range.mpr hi, ?_⟩
  simp only [Function.comp, Bool.false_eq_true, if_false]
  refine congrArg (fun l : List Nat => CoreWrite.spad _ (l.map (BitVec.ofNat 8))) ?_
  rw [pieces_segments (by simp), List.map_map]
  rfl

end

section
variable {r : VecRec} {v : View} {at_ : VecAt} {i : Nat}

/-- A truth value is 1.0 or 0. -/
theorem truth_eq {b : Bool} : truth b = if b then fone else 0 := rfl

theorem View.getD_vec {a fmt n j : Nat} (h : j < n) : (v.vec a fmt n).getD j 0 = widen fmt ((v.row a (8 * vecBytes fmt) n).getD j 0) := by
  have hb : 8 ≤ 8 * vecBytes fmt := by
    unfold vecBytes
    split <;> omega
  have hlen : j < (v.row a (8 * vecBytes fmt) n).length := by rw [View.row_length (.inl hb)]; exact h
  simp [View.vec, List.getD_eq_getElem?_getD, hlen]

/-- What the second operand of element `j` of row `i` is (R134). -/
theorem getD_bRow {c n j : Nat} (hj : j < n) : (bRow r v at_ c i n).getD j 0 = (match r.bMode with
    | 0 => widen r.fmtB ((v.row (at_.b + i * r.pitchB) (8 * vecBytes r.fmtB) n).getD j 0)
    | 1 => widen r.fmtB ((v.row (at_.b + i * vecBytes r.fmtB) (8 * vecBytes r.fmtB) 1).getD 0 0)
    | 2 => widen r.fmtB ((v.row at_.b (8 * vecBytes r.fmtB) n).getD j 0)
    | _ => c) := by
  have hrep (x : Nat) : (List.replicate n x).getD j 0 = x := by simp [List.getD_eq_getElem?_getD, hj]
  have hone (l : List Nat) : l.headD 0 = l.getD 0 0 := by cases l <;> rfl
  unfold bRow
  rcases r.bMode with _ | _ | _ | m
  · exact View.getD_vec hj
  · exact (hrep _).trans ((hone _).trans (View.getD_vec (by omega)))
  · exact View.getD_vec hj
  · exact hrep c

theorem elemwiseTile_row {u : VecUse} {sel : Option (Nat → Nat → Bool)} (hi : i < r.rows) (hb : u.b = true) :
    CoreWrite.spad (at_.d + i * r.pitchD) (pack (8 * vecBytes r.fmtD) 0 ((List.range r.cols).map (fun j => narrowTo r.fmtD r.sat (elemOp r.subop
      ((v.vec (at_.a + i * r.pitchA) r.fmtA r.cols).getD j 0) ((bRow r v at_ r.imm i r.cols).getD j 0)
      ((match sel with
        | some f => (List.range r.cols).map (fun j => truth (f i j))
        | none => if u.x then v.vec (at_.x + i * r.pitchX) r.fmtX r.cols else []).getD j 0))))) ∈ (elemwiseTile r u v at_ sel).writes := by
  unfold elemwiseTile vecRow zip3
  rw [hb]
  refine List.mem_map.mpr ⟨i, List.mem_range.mpr hi, ?_⟩
  dsimp only
  rw [if_pos rfl, List.map_map]
  rfl

theorem elemOp_select {n a b x : Nat} (h : n = 11) : elemOp n a b x = if (f32 x).isNan = true ∨ (f32 x).isZero = true then b else a := by
  subst h
  simp only [elemOp, Bool.or_eq_true]

theorem formatTile_row (hi : i < r.rows) :
    CoreWrite.spad (at_.d + i * r.pitchD) (pack (8 * vecBytes r.fmtD) 0 ((v.row (at_.a + i * r.pitchA) (8 * vecBytes r.fmtA) r.cols).map (fun c => narrowTo r.fmtD r.sat (widen r.fmtA c))))
      ∈ (formatTile r v at_).writes := by
  unfold formatTile vecRow View.vec
  refine List.mem_map.mpr ⟨i, List.mem_range.mpr hi, ?_⟩
  rw [List.map_map]
  rfl

theorem vecRow_single {fmt x : Nat} {sat : Bool} : vecRow fmt sat [x] = natLe (vecBytes fmt) (narrowTo fmt sat x) := by
  have hb : ¬ 8 * vecBytes fmt < 8 := by
    unfold vecBytes
    split <;> omega
  rw [vecRow, pack, if_neg hb]
  simp

theorem reduceTile_row (hi : i < r.rows) :
    CoreWrite.spad (at_.d + i * vecBytes r.fmtD) (natLe (vecBytes r.fmtD) (narrowTo r.fmtD r.sat (reduceRow r.subop (v.vec (at_.a + i * r.pitchA) r.fmtA r.cols)))) ∈ (reduceTile r v at_).writes := by
  unfold reduceTile
  refine List.mem_map.mpr ⟨i, List.mem_range.mpr hi, ?_⟩
  rw [vecRow_single]

end

/-- The positions of a list that fall into a residue, summed in order. -/
def residueSum (l : List Nat) (k : Nat) : Nat := ((List.range l.length).filter (fun q => q % 256 == k)).foldl (fun acc q => fadd acc (l.getD q 0)) 0

theorem residueSum_append {l : List Nat} {x k : Nat} : residueSum (l ++ [x]) k = if l.length % 256 = k then fadd (residueSum l k) x else residueSum l k := by
  have hold : ((List.range l.length).filter (fun q => q % 256 == k)).foldl (fun acc q => fadd acc ((l ++ [x]).getD q 0)) 0 = residueSum l k := by
    refine List.foldl_ext _ _ _ fun acc q hq => ?_
    have hq : q < l.length := List.mem_range.mp (List.mem_filter.mp hq).1
    rw [List.getD_append _ _ _ _ hq]
  unfold residueSum
  rw [List.length_append, List.length_singleton, List.range_succ, List.filter_append, List.foldl_append, hold]
  by_cases h : l.length % 256 = k
  · simp [h, residueSum, List.getD_eq_getElem?_getD]
  · simp [h, residueSum]

/-- The 256 partial sums of the reduction tree's first level (R137). -/
def treeStart (l : List Nat) : List Nat × Nat :=
  l.foldl (fun (s : List Nat × Nat) x => (s.1.modify (s.2 % 256) (fun y => fadd y x), s.2 + 1)) (List.replicate 256 0, 0)

theorem treeStart_append {l : List Nat} {x : Nat} :
    treeStart (l ++ [x]) = ((treeStart l).1.modify ((treeStart l).2 % 256) (fun y => fadd y x), (treeStart l).2 + 1) := by
  rw [treeStart, List.foldl_append]
  rfl

theorem treeStart_spec {l : List Nat} : (treeStart l).2 = l.length ∧ (treeStart l).1.length = 256 ∧ ∀ k < 256, (treeStart l).1.getD k 0 = residueSum l k := by
  induction l using List.reverseRecOn with
  | nil =>
    have hlen : (treeStart []).1.length = 256 := List.length_replicate
    exact ⟨rfl, hlen, fun k hk => (List.getD_eq_getElem _ _ (by omega)).trans (List.getElem_replicate _)⟩
  | append_singleton l x ih =>
    obtain ⟨hcount, hlen, hget⟩ := ih
    rw [treeStart_append, hcount]
    refine ⟨by simp, by simp [hlen], fun k hk => ?_⟩
    rw [residueSum_append, ← hget k hk]
    simp only [List.getD_eq_getElem?_getD, List.getElem?_modify]
    split <;> simp [hlen, hk]

theorem treeSum_pairs {l : List Nat} : ∀ k, 2 * k + 1 < l.length → (treeSum.pairs l).getD k 0 = fadd (l.getD (2 * k) 0) (l.getD (2 * k + 1) 0) := by
  induction l using treeSum.pairs.induct with
  | case1 a b t ih =>
    intro k hk
    rw [treeSum.pairs]
    cases k with
    | zero => rfl
    | succ k => exact ih k (by simp at hk; omega)
  | case2 l h =>
    intro k hk
    match l, h with
    | [], _ => simp at hk
    | [_], _ => simp at hk
    | a :: b :: t, h => exact absurd rfl (h a b t)

theorem treeSum_pairs_length {l : List Nat} : (treeSum.pairs l).length = (l.length + 1) / 2 := by
  induction l using treeSum.pairs.induct with
  | case1 a b t ih =>
    rw [treeSum.pairs, List.length_cons, ih, List.length_cons, List.length_cons]
    omega
  | case2 l h =>
    match l, h with
    | [], _ => rfl
    | [_], _ => simp [treeSum.pairs]
    | a :: b :: t, h => exact absurd rfl (h a b t)

theorem treeSum_fold {n : Nat} {p : List Nat} : treeSum.fold n p = treeSum.pairs^[n] p := by
  induction n generalizing p with
  | zero => rfl
  | succ n ih => rw [treeSum.fold, ih, Function.iterate_succ_apply]

theorem treeSum_level_length {t : Nat} {p : List Nat} (ht : t ≤ 8) (hp : p.length = 256) : (treeSum.pairs^[t] p).length = 2 ^ (8 - t) := by
  induction t with
  | zero => exact hp
  | succ t ih =>
    have hpow : 2 ^ (8 - t) = 2 * 2 ^ (8 - (t + 1)) := by rw [← pow_succ']; congr 1; omega
    rw [Function.iterate_succ_apply', treeSum_pairs_length, ih (by omega), hpow]
    omega

/-- A row is summed by residues, then pairwise in eight levels (R137). -/
theorem treeSum_levels {l : List Nat} : ∃ p : Nat → Nat → Nat, (∀ k < 256, p 0 k = residueSum l k)
    ∧ (∀ t < 8, ∀ k < 2 ^ (7 - t), p (t + 1) k = fadd (p t (2 * k)) (p t (2 * k + 1))) ∧ treeSum l = p 8 0 := by
  obtain ⟨_, hlen, hget⟩ := treeStart_spec (l := l)
  refine ⟨fun t k => (treeSum.pairs^[t] (treeStart l).1).getD k 0, hget, fun t ht k hk => ?_, ?_⟩
  · have hpow : 2 ^ (8 - t) = 2 * 2 ^ (7 - t) := by rw [← pow_succ']; congr 1; omega
    dsimp only
    rw [Function.iterate_succ_apply', treeSum_pairs k (by rw [treeSum_level_length ht.le hlen]; omega)]
  · have hhead (q : List Nat) : q.headD 0 = q.getD 0 0 := by cases q <;> rfl
    show (treeSum.fold 8 (treeStart l).1).headD 0 = _
    rw [treeSum_fold, hhead]

end Sys2Proof.Machine
end

section
/-! PROOFS. Row statistics, windows and functions, and what one iteration computes (R138, R140 to R146, R149). -/
namespace Sys2Proof.Machine

section
variable {s b : RowState} {imm : Nat} {x g : List Nat} {j : Nat}

theorem RowState.merge_nonempty (hb : b.count ≠ 0) : s.merge b = { s with
    prevMax := s.max, max := fmax s.max b.max
    sumexp := if fmax s.max b.max = fninf then 0 else fadd (fmul s.sumexp (fexp2 (fsub s.max (fmax s.max b.max)))) (fmul b.sumexp (fexp2 (fsub b.max (fmax s.max b.max))))
    mean := fadd s.mean (fmul (fsub b.mean s.mean) (fdiv (fofNat b.count) (fofNat (s.count + b.count))))
    m2 := fadd (fadd s.m2 b.m2) (fmul (fmul (fmul (fsub b.mean s.mean) (fsub b.mean s.mean)) (fofNat s.count)) (fdiv (fofNat b.count) (fofNat (s.count + b.count))))
    count := min (s.count + b.count) 0xFFFFFFFF } := by
  unfold RowState.merge
  dsimp only
  rw [if_neg hb]
  rfl

theorem RowState.getD_softmax (hj : j < x.length) :
    (s.apply 7 imm x g).getD j 0 = if s.max = fninf then 0 else fmul (fexp2 (fsub (fmul (x.getD j 0) imm) s.max)) (frecip s.sumexp) := by
  unfold RowState.apply
  rw [if_pos rfl]
  split <;> simp [List.getD_eq_getElem?_getD, hj]

theorem RowState.getD_layerNorm (hj : j < x.length) (hg : j < g.length) : (s.apply 8 imm x g).getD j 0
    = if s.count = 0 then 0 else fmul (fmul (fsub (x.getD j 0) s.mean) (frsqrt (fadd (fdiv s.m2 (fofNat s.count)) imm))) (g.getD j 0) := by
  unfold RowState.apply
  rw [if_neg (by omega)]
  split
  · simp [List.getD_eq_getElem?_getD, hj]
  · dsimp only
    rw [if_pos rfl]
    simp [List.getD_eq_getElem?_getD, hj, hg]

theorem RowState.getD_rmsNorm (hj : j < x.length) (hg : j < g.length) : (s.apply 9 imm x g).getD j 0
    = if s.count = 0 then 0 else fmul (fmul (x.getD j 0) (frsqrt (fadd (fadd (fdiv s.m2 (fofNat s.count)) (fmul s.mean s.mean)) imm))) (g.getD j 0) := by
  unfold RowState.apply
  rw [if_neg (by omega)]
  split
  · simp [List.getD_eq_getElem?_getD, hj]
  · dsimp only
    rw [if_neg (by omega)]
    simp [List.getD_eq_getElem?_getD, hj, hg]

end

section
variable {r : VecRec} {v : View} {at_ : VecAt} {i : Nat}

/-- What row `i` of a row-statistics tile writes (Table 6.4). -/
def rowstatWrite (r : VecRec) (v : View) (at_ : VecAt) (i : Nat) : CoreWrite :=
  let s := parseRowState (v.bytes (at_.x + 32 * i) 32)
  let x := v.vec (at_.a + i * r.pitchA) r.fmtA r.cols
  match r.subop with
  | 0 => .spad (at_.x + 32 * i) (RowState.bytes {})
  | 1 => .spad (at_.x + 32 * i) (s.updExp (x.map (fun y => fmul y r.imm))).bytes
  | 2 => .spad (at_.x + 32 * i) (s.updMom x).bytes
  | 3 => .spad (at_.x + 32 * i) ((s.updExp (x.map (fun y => fmul y r.imm))).updMom x).bytes
  | 4 => .spad (at_.x + 32 * i) (s.merge (parseRowState (v.bytes (at_.b + 32 * i) 32))).bytes
  | 5 => .spad (at_.d + i * vecBytes r.fmtD) (vecRow r.fmtD r.sat [s.lse])
  | 6 => .spad (at_.d + i * vecBytes r.fmtD) (vecRow r.fmtD r.sat [s.factor])
  | n => .spad (at_.d + i * r.pitchD) (vecRow r.fmtD r.sat (s.apply n r.imm x (bRow r v at_ r.imm2 i r.cols)))

theorem rowstatTile_writes : (rowstatTile r v at_).writes = (List.range r.rows).map (rowstatWrite r v at_) := rfl

theorem vecFmt_cases {fmt : Nat} : vecFmt fmt = bf16 ∨ vecFmt fmt = fp16 ∨ vecFmt fmt = fp32 := by
  unfold vecFmt
  split
  · exact .inl rfl
  · exact .inr (.inl rfl)
  · exact .inr (.inr rfl)

/-- The code 0 is the value 0 in every vector format. -/
theorem widen_zero {fmt : Nat} : widen fmt 0 = 0 := by
  unfold widen
  rcases vecFmt_cases (fmt := fmt) with h | h | h
  · rw [h]
    decide
  · rw [h]
    decide
  · rw [h]
    decide

theorem View.getD_vec_total {a fmt n j : Nat} : (v.vec a fmt n).getD j 0 = widen fmt ((v.row a (8 * vecBytes fmt) n).getD j 0) := by
  unfold View.vec
  simp only [List.getD_eq_getElem?_getD, List.getElem?_map]
  cases (v.row a (8 * vecBytes fmt) n)[j]? with
  | none => exact widen_zero.symm
  | some c => rfl

/-- A tap of a window: the input element it falls on, or nothing in the padding (R145). -/
theorem winTap_eq {w : WinWord} {p q c : Nat} {t : Nat × Nat} :
    winTap r ((List.range r.inH).map (fun i => v.vec (at_.a + i * r.pitchA) r.fmtA (r.inW * r.channels)))
        ((p * w.strideH + t.1 : Nat) - w.padT : Int) ((q * w.strideW + t.2 : Nat) - w.padL : Int) c
      = if w.padT ≤ p * w.strideH + t.1 ∧ p * w.strideH + t.1 < r.inH + w.padT ∧ w.padL ≤ q * w.strideW + t.2 ∧ q * w.strideW + t.2 < r.inW + w.padL then
        some (widen r.fmtA ((v.row (at_.a + (p * w.strideH + t.1 - w.padT) * r.pitchA) (8 * vecBytes r.fmtA) (r.inW * r.channels)).getD
          ((q * w.strideW + t.2 - w.padL) * r.channels + c) 0))
      else none := by
  unfold winTap
  generalize p * w.strideH + t.1 = y
  generalize q * w.strideW + t.2 = z
  by_cases h : w.padT ≤ y ∧ y < r.inH + w.padT ∧ w.padL ≤ z ∧ z < r.inW + w.padL
  · obtain ⟨h1, h2, h3, h4⟩ := h
    have hy : ((y : Int) - (w.padT : Int)).toNat = y - w.padT := by omega
    have hz : ((z : Int) - (w.padL : Int)).toNat = z - w.padL := by omega
    rw [if_pos (by omega), if_pos ⟨h1, h2, h3, h4⟩, hy, hz, getD_map_range (by omega), View.getD_vec_total]
  · rw [if_neg (by omega), if_neg h]

end

theorem Caddy.lookup_nan {t : Caddy} {x : Nat} (h : (f32 x).isNan = true) : t.lookup x = fnan := by
  unfold Caddy.lookup
  dsimp only
  rw [if_pos h]

theorem Caddy.lookup_linear {t : Caddy} {x : Nat} (he : t.exponent = false) (h : (f32 x).isNan = false) :
    t.lookup x = (if (f32 x).lt (f32 t.xLo) then t.below else if t.rightEnd.le (f32 x) then t.above
      else to32 (t.cubic (floorDiv2 ((f32 x).sub (f32 t.xLo)) t.log2)
        ((((f32 x).sub (f32 t.xLo)).sub ((natVal (floorDiv2 ((f32 x).sub (f32 t.xLo)) t.log2)).mul (pow2 t.log2))).mul (pow2 (-t.log2))))) := by
  unfold Caddy.lookup
  dsimp only
  rw [h, he, if_neg Bool.false_ne_true, if_neg Bool.false_ne_true]

theorem Caddy.lookup_exponent {t : Caddy} {x : Nat} (he : t.exponent = true) (h : (f32 x).isNan = false) :
    t.lookup x = (if (f32 x).sign = false ∨ (f32 x).isZero = true then t.expValue (f32 x) else if t.sign = 0 then t.below
      else if t.sign = 1 then to32 (f32 (t.expValue (f32 x).abs)).neg else t.expValue (f32 x).abs) := by
  unfold Caddy.lookup
  dsimp only
  rw [h, he, if_neg Bool.false_ne_true, if_pos rfl]
  by_cases hs : (f32 x).sign = false ∨ (f32 x).isZero = true
  · rw [if_pos hs, if_neg]
    rcases hs with hs | hs
    · simp [hs]
    · simp [hs]
  · rw [if_neg hs, if_pos]
    · rcases t.sign with _ | _ | n
      · rfl
      · rfl
      · rfl
    · simpa [not_or] using hs

section
variable {u : UnitCtx} {v : View} {t : Nat}

/-- The places of a vector tile's operands. -/
def vecPlaces (u : UnitCtx) (t : Nat) : VecAt := { a := (u.spad 0 t).toNat, b := (u.spad 1 t).toNat, d := (u.spad 2 t).toNat, x := (u.spad 3 t).toNat }

theorem runTile_func (h : u.w.opcode = 0x20) :
    runTile u v t = funcTile (parseFunc u.param) (builtin (parseFunc u.param).func) v (u.spad 0 t).toNat (u.spad 1 t).toNat := by
  unfold runTile
  simp [h]

theorem runTile_lookup (h : u.w.opcode = 0x21) : runTile u v t = funcTile (parseFunc u.param) (parseCaddy u.bank).lookup v (u.spad 0 t).toNat (u.spad 1 t).toNat := by
  unfold runTile
  simp [h]

theorem runTile_format (h : u.w.opcode = 0x12) : runTile u v t = formatTile (parseVec u.param) v (vecPlaces u t) := by
  unfold runTile
  simp [h, vecPlaces]

theorem runTile_reduce (h : u.w.opcode = 0x13) : runTile u v t = reduceTile (parseVec u.param) v (vecPlaces u t) := by
  unfold runTile
  simp [h, vecPlaces]

theorem runTile_rowstat (h : u.w.opcode = 0x14) : runTile u v t = rowstatTile (parseVec u.param) v (vecPlaces u t) := by
  unfold runTile
  simp [h, vecPlaces]

theorem runTile_window (h : u.w.opcode = 0x15) : runTile u v t = windowTile (parseVec u.param) v (vecPlaces u t) := by
  unfold runTile
  simp [h, vecPlaces]

theorem runTile_elemwise (h : u.w.opcode = 0x11) :
    ∃ sel, runTile u v t = elemwiseTile (parseVec u.param) ((vecUse? 0x11 (parseVec u.param).subop).getD {}) v (vecPlaces u t) sel := by
  unfold runTile
  simp only [h]
  exact ⟨_, rfl⟩

theorem runTile_rotate (h : u.w.opcode = 0x08) :
    runTile u v t = rotateStore (parseProduct u.param) v (u.spad 0 t).toNat (u.spad 1 t).toNat (u.spad 2 t).toNat (u.spad 3 t).toNat (u.coord 4 t).toNat := by
  unfold runTile
  simp [h]

theorem runTile_product (h : u.w.opcode = 0x01) :
    ∃ a : ProductAt, runTile u v t = product ((Pair.of? (parseProduct u.param).pair).getD .fp4) (parseProduct u.param) v a
      ∧ a.x = (u.spad 0 t).toNat ∧ a.w = (u.spad 1 t).toNat ∧ a.sx = (u.spad 2 t).toNat ∧ a.sw = (u.spad 3 t).toNat ∧ a.d = (u.entry 4 t).toNat
      ∧ (u.loop = none → a.zero = true ∧ a.empty = false) := by
  unfold runTile
  simp only [h]
  refine ⟨_, rfl, rfl, rfl, rfl, rfl, rfl, fun hl => ?_⟩
  simp only [hl]
  exact ⟨trivial, trivial⟩

theorem runTile_convert (h : u.w.opcode = 0x10) :
    ∃ pad, runTile u v t = convertTile (parseConv u.param) ((target? (parseConv u.param).target).getD (.wide fp32)) v (u.entry 0 t).toNat (u.spad 1 t).toNat
      (u.spad 2 t).toNat (u.coord 3 t).toNat (u.coord 4 t).toNat pad := by
  unfold runTile
  simp only [h]
  exact ⟨_, rfl⟩

end

end Sys2Proof.Machine
end

section
/-! PROOFS. What one iteration of a unit operation computes (O16). -/
namespace Sys2Proof.Machine

section
variable {r : VecRec} {v : View} {at_ : VecAt}

/-- The value of a tap of output pixel (`p`, `q`), channel `c`. -/
def tapAt (r : VecRec) (v : View) (at_ : VecAt) (w : WinWord) (p q c : Nat) (t : Nat × Nat) : Option Nat :=
  winTap r ((List.range r.inH).map (fun i => v.vec (at_.a + i * r.pitchA) r.fmtA (r.inW * r.channels)))
    ((p * w.strideH + t.1 : Nat) - w.padT : Int) ((q * w.strideW + t.2 : Nat) - w.padL : Int) c

/-- What a window's output starts from: nothing, what its destination held, or a bias. -/
def winStart (r : VecRec) (v : View) (at_ : VecAt) (w : WinWord) (p q c : Nat) : Nat :=
  if w.acc = 0 then 0 else if w.acc = 1 then (v.vec (at_.d + p * r.pitchD) r.fmtD r.cols).getD (q * r.channels + c) 0 else (v.vec at_.x r.fmtX r.channels).getD c 0

/-- The taps in order, weighted and summed, or their maximum, or their mean (R145, R146). -/
def winOut (r : VecRec) (v : View) (at_ : VecAt) (w : WinWord) (p q c : Nat) : Nat :=
  let vals := (taps w).filterMap (tapAt r v at_ w p q c)
  if r.subop = 0 then
    (taps w).foldl (fun acc t => match tapAt r v at_ w p q (c / 2 ^ r.group * 2 ^ r.group + r.pass) t with
      | some x => ffma x ((v.vec at_.b r.fmtB (w.kh * w.kw * r.channels)).getD ((t.1 * w.kw + t.2) * r.channels + c) 0) acc
      | none => acc) (winStart r v at_ w p q c)
  else if r.subop = 1 then vals.tail.foldl fmax (vals.headD 0)
  else fdiv (vals.foldl fadd 0) (fofNat (if w.avgDiv then w.kh * w.kw else vals.length))

theorem windowTile_row {p : Nat} (hp : p < r.rows) (hacc : (parseWin r.window).acc ≤ 2) :
    CoreWrite.spad (at_.d + p * r.pitchD) (pack (8 * vecBytes r.fmtD) 0
      (((List.range (r.cols / r.channels)).flatMap (fun q => (List.range r.channels).map (fun c => narrowTo r.fmtD r.sat (winOut r v at_ (parseWin r.window) p q c))))))
      ∈ (windowTile r v at_).writes := by
  unfold windowTile vecRow
  refine List.mem_map.mpr ⟨p, List.mem_range.mpr hp, ?_⟩
  dsimp only
  rw [List.map_flatMap]
  refine congrArg (fun l => CoreWrite.spad _ (pack _ _ l)) (List.flatMap_congr fun q _ => ?_)
  rw [List.map_map]
  refine List.map_congr_left fun c _ => congrArg (narrowTo r.fmtD r.sat) ?_
  unfold winOut winStart tapAt
  rcases hs : r.subop with _ | _ | n
  · simp only [if_true, true_and]
    have hb : (if (parseWin r.window).acc = 0 then 0 else if (parseWin r.window).acc = 1 then
          (if (parseWin r.window).acc = 1 then v.vec (at_.d + p * r.pitchD) r.fmtD r.cols else []).getD (q * r.channels + c) 0
        else (if (parseWin r.window).acc = 2 then v.vec at_.x r.fmtX r.channels else []).getD c 0)
        = if (parseWin r.window).acc = 0 then 0 else if (parseWin r.window).acc = 1 then (v.vec (at_.d + p * r.pitchD) r.fmtD r.cols).getD (q * r.channels + c) 0
        else (v.vec at_.x r.fmtX r.channels).getD c 0 := by
      split
      · rfl
      · split
        · rfl
        · rw [if_pos (by omega)]
    rw [hb] <;> rfl
  · rfl
  · rfl

end

/-- Settles O16. -/
theorem unitOperationsCompute : Obligations.unit_operations_compute := by
  unfold Obligations.unit_operations_compute
  refine ⟨fun v a w n j hv hw hj => View.row_wide hv hw hj, fun v a n j hv hj => View.row_four hv hj, fun p r v a i j nsc start x w he hi him hjn hnsc hx hw hs => ?product,
    fun p g n x w h hp => chunkValue_scaled h hp, fun p g x w h => chunkValue_unscaled h, fun l => dot_ofInt, fun r v i j n hn hi hj => ?correction,
    fun t l h => if_pos h, fun t l h => ?scale, fun l s m e h => dyLe_amaxOf h, fun seed b i l h => getD_signs h,
    fun d n b i l hd hl hb hi => getD_butterfly hd hl ?fuel hb hi, fun k n l => ⟨rfl, rfl⟩, fun k seed b l => ⟨rfl, rfl⟩,
    fun k seed b n q i tr f codes hk hl hq hi => getD_rotateRow hk hl hq hi, fun seed b tr f codes => ?unrotated,
    fun r v src dst sv copy coord i bits f row hi hf hrow hbits => ?rotate, fun r t st row j ht hj hs => quantiseRow_narrow ht hj hs,
    fun r f st row hf => quantiseRow_wide hf, fun r f v src dst sv row col i pad hi => convertTile_wide hi,
    fun r t v src dst sv row col i nseg ps sc pad hi hn hp hs => ?convert, fun r u v at_ sel i a b x hi hub ha hb hx => ?elemwise,
    fun a b x => ⟨rfl, rfl, rfl, rfl, rfl, rfl, rfl, rfl, rfl, rfl, rfl, elemOp_select rfl⟩, fun r v at_ i hi => formatTile_row hi,
    fun r v at_ i l hi hl => ?reduced, fun l => treeSum_levels, fun s z m hm => ?updExp, fun s x n mb d w hn hmb hd hw => ?updMom,
    fun s b n m d w hn hm hd hw hb => ?merge, fun s => ⟨rfl, rfl⟩, fun s imm x g j hx hg => ⟨RowState.getD_softmax hx, RowState.getD_layerNorm hx hg, RowState.getD_rmsNorm hx hg⟩,
    fun r v at_ i s b x g hi hs hb hx hg => ?rowstat, fun r v at_ p w tap out hp hw hsub hacc htap hout => ?window, fun r f v src dst i hi => mem_map_range hi, ?builtin,
    fun t x h => Caddy.lookup_nan h, fun t x he h => Caddy.lookup_linear he h, fun t x he h => Caddy.lookup_exponent he h,
    fun u v t h => runTile_func h, fun u v t h => runTile_lookup h,
    fun u v t at_ ha => ?vec, fun u v t h => runTile_rotate h, fun u v t h => runTile_product h, fun u v t h => runTile_convert h⟩
  case product =>
    have hscales : nsc = scalesOf p r.k := hnsc
    have hstart : start = if a.zero && !r.keep then 0 else v.entry (j % 128) (a.d + j / 128 * r.m + i) := by
      rw [hs]
      exact if_congr (by simp) rfl rfl
    rw [hscales, ← activationRow_eq] at hx
    rw [hscales, ← weightColumnAt_eq] at hw
    have hwrite := product_writes (p := p) (v := v) he hi him hjn
    dsimp only at hwrite
    rw [← hstart, ← hx, ← hw] at hwrite
    have hlast : (if r.corr then accumulate p x w (List.range x.chunks.length) start
          ++ [fadd ((accumulate p x w (List.range x.chunks.length) start).getLastD start) (((correction r v).terms.getD i []).getD j 0)]
        else accumulate p x w (List.range x.chunks.length) start).getLastD start
        = if r.corr then fadd ((List.range x.chunks.length).foldl (fun acc g => to32 ((f32 acc).add (chunkValue p g x w))) start) (((correction r v).terms.getD i []).getD j 0)
          else (List.range x.chunks.length).foldl (fun acc g => to32 ((f32 acc).add (chunkValue p g x w))) start := by
      rw [accumulate_getLastD]
      split
      · rw [List.getLastD_concat]
      · exact accumulate_getLastD
    unfold accWrite at hwrite
    rw [hlast] at hwrite
    exact ⟨_, hwrite⟩
  case correction =>
    subst hn
    exact correction_term hi hj
  case scale =>
    unfold dynamicScale
    dsimp only
    rw [if_neg h]
    exact scaleFrom_spec rfl fun x hx => absurd hx (Nat.not_lt_zero x)
  case fuel =>
    rw [hl]
    exact Nat.le_mul_of_pos_left n (by omega)
  case unrotated =>
    unfold rotateRow
    exact if_pos rfl
  case rotate =>
    subst hf hrow
    exact ⟨rotateStore_row hi hbits, fun hp hs => rotateStore_scales hi hp hs, fun hc => rotateStore_copy hi hc⟩
  case convert =>
    subst hn hp hs
    exact ⟨convertTile_narrow hi, fun hst => convertTile_scales hi hst⟩
  case elemwise =>
    have hrow := elemwiseTile_row (v := v) (at_ := at_) (sel := sel) hi hub
    refine Eq.mp (congrArg (· ∈ _) (congrArg (fun l => CoreWrite.spad _ (pack _ _ l)) (List.map_congr_left fun j hj => congrArg (narrowTo r.fmtD r.sat) ?_))) hrow
    have hj := List.mem_range.mp hj
    have hbj : b j = (bRow r v at_ r.imm i r.cols).getD j 0 := (hb j hj).trans (getD_bRow hj).symm
    rw [ha j hj, hbj, hx j hj, View.getD_vec hj]
    congr 1
    cases sel with
    | some f => exact getD_map_range hj
    | none =>
      dsimp only
      split
      · exact View.getD_vec hj
      · rfl
  case reduced =>
    subst hl
    exact reduceTile_row hi
  case updExp =>
    subst hm
    rfl
  case updMom =>
    subst hw hd hmb hn
    rfl
  case merge =>
    subst hw hd hm hn
    exact RowState.merge_nonempty hb
  case rowstat =>
    have hgamma : g = bRow r v at_ r.imm2 i r.cols := hg
    subst hs hb hx hgamma
    have hmem := mem_map_range (f := rowstatWrite r v at_) hi
    rw [← rowstatTile_writes] at hmem
    unfold rowstatWrite at hmem
    simp only [vecRow_single] at hmem
    exact hmem
  case window =>
    subst hw
    have htaps : tap = fun q c => tapAt r v at_ (parseWin r.window) p q c := funext fun q => funext fun c => funext fun t => (htap q c t).trans winTap_eq.symm
    subst htaps
    refine Eq.mp (congrArg (· ∈ _) (congrArg (fun l => CoreWrite.spad _ (pack _ _ l)) (List.flatMap_congr fun q hq => List.map_congr_left fun c hc =>
      congrArg (narrowTo r.fmtD r.sat) ?_))) (windowTile_row hp hacc)
    exact (hout q c (List.mem_range.mp hq) (List.mem_range.mp hc)).symm
  case builtin => decide +kernel
  case vec =>
    subst ha
    exact ⟨runTile_format, runTile_reduce, runTile_rowstat, runTile_window, runTile_elemwise⟩

end Sys2Proof.Machine
end

section
/-! PROOFS. Mover operations issue, grains land and become visible (O17, O18). -/
namespace Sys2Proof.Machine

section
variable {s : State} {c : Nat} {store : Bool} {r : RunBlock} {w p : Nat} {e : Ending} {d : MDesc}

/-- The places a mover's operation names. -/
def CoreState.moverIters (k : CoreState) (r : RunBlock) (w p : Nat) (store : Bool) : List MoveIter :=
  moveIters ((k.moverOp r w p).ctx r.image) (parseMover (parseSlot w)) store (((parseMover (parseSlot w)).baseReg.map (fun b => (k.sreg b).toNat)).getD 0)

/-- A full queue holds the word back (R91). -/
theorem moverAct_full (h : (s.core c).mover.full store = true) : moverAct c store s r w p = s.holdWord c w p (.queue w) := by
  unfold moverAct
  exact if_pos h

theorem moverAct_fault (h : (s.core c).mover.full store = false)
    (hf : moverFault (s.ctxOf r.fn) s c r ((s.core c).moverOp r w p) (((s.core c).moverOp r w p).ctx r.image) (parseMover (parseSlot w)) p ((s.core c).moverIters r w p store) = some e) :
    moverAct c store s r w p = s.endBlock c (r.timeAt (s.core c).period p) e := by
  unfold moverAct
  extract_lets k t o u m base its
  have hits : its = k.moverIters r w p store := by
    have hbase : base = (m.baseReg.map (fun b => (k.sreg b).toNat)).getD 0 := by cases hb : m.baseReg <;> simp [base, hb]
    exact congrArg (moveIters u m store) hbase
  have hfault : moverFault (s.ctxOf r.fn) s c r o u m p its = some e := by
    rw [hits]
    exact hf
  rw [if_neg (by simp [k, h])]
  simp only [hfault]
  rfl

theorem moverAct_joins (h : (s.core c).mover.full store = false)
    (hf : moverFault (s.ctxOf r.fn) s c r ((s.core c).moverOp r w p) (((s.core c).moverOp r w p).ctx r.image) (parseMover (parseSlot w)) p ((s.core c).moverIters r w p store) = none)
    (hd : s.newDesc c r (((s.core c).moverOp r w p).ctx r.image) (parseMover (parseSlot w)) store p ((s.core c).moverIters r w p store) = (d, none)) :
    moverAct c store s r w p = State.finishDescs
      (((if d.phys then s else s.touchPages c d.fn d.grains).modRun c (fun x => RunBlock.recheck { x with ops := x.liveOps p ++ [(s.core c).moverOp r w p] } p)).modCore c
        (fun k => { k with mover := { k.mover with descs := k.mover.descs ++ [d], nextId := k.mover.nextId + 1 } })) c := by
  unfold moverAct
  extract_lets k t o u m base its new v
  have hits : its = k.moverIters r w p store := by
    have hbase : base = (m.baseReg.map (fun b => (k.sreg b).toNat)).getD 0 := by cases hb : m.baseReg <;> simp [base, hb]
    exact congrArg (moveIters u m store) hbase
  have hfault : moverFault (s.ctxOf r.fn) s c r o u m p its = none := by
    rw [hits]
    exact hf
  have hnew : new = (d, none) := by
    simp only [new, hits]
    exact hd
  rw [if_neg (by simp [k, h])]
  simp only [hfault, hnew, v]
  rfl

/-- What a new descriptor is (R91). -/
theorem State.newDesc_names {u : UnitCtx} {m : MoverCtl} {its : List MoveIter} {x : Option Ending} (h : s.newDesc c r u m store p its = (d, x)) :
    d.isStore = store ∧ d.block = r.ordinal ∧ d.fn = r.fn ∧ d.id = (s.core c).mover.nextId := by
  unfold State.newDesc at h
  dsimp only at h
  split at h
  · cases h
    exact ⟨rfl, rfl, rfl, rfl⟩
  · cases h
    exact ⟨rfl, rfl, rfl, rfl⟩

end

theorem exec_mover {store : Bool} {s s1 t : State} {c : CoreIx} {r : RunBlock} {w p : Nat} (h : Safety.Issues s c (if store then 0x29 else 0x28) s1 r w p)
    (ht : moverAct c store s1 r w p = t) : exec (if store then .store c else .fetch c) s = .next t := by
  cases store with
  | false => exact next_issues h ht
  | true => exact next_issues h ht

/-- Settles O17. -/
theorem moverOperationsIssue : Obligations.mover_operations_issue := by
  unfold Obligations.mover_operations_issue
  refine fun store s s1 c r w p h => ⟨fun hfull => exec_mover h (moverAct_full hfull), (s1.core c).moverOp r w p, _, _, rfl, rfl, rfl,
    fun e hfull hf => exec_mover h (moverAct_fault hfull hf), fun d hfull hf hd => ⟨exec_mover h (moverAct_joins hfull hf hd), State.newDesc_names hd⟩⟩

section
variable {s s1 s2 : State} {c d g : Nat} {o : GrainErrors} {desc : MDesc} {gr : MGrain} {data : List Byte}

theorem State.alsoEnds_waiting (hw : gr.st = .waiting) : s.alsoEnds c desc gr = false := by
  unfold State.alsoEnds
  rw [hw]
  rfl

theorem MGrain.moves_waiting (hw : gr.st = .waiting) (hv : gr.walking = false) (hs : gr.slot.isSome = true) : gr.moves = true := by
  unfold MGrain.moves
  rw [hw, hv, hs]
  rfl

/-- A plain grain that is delivered is written where its mask names (R86). -/
theorem State.land_data (hk : gr.kind = .plain) (hs1 : s1 = ((s.upTo (slotTime (gr.slot.getD 0))).settleDest c gr.mask).chargeAll)
    (hw : (s1.desc c desc.id).bind (fun e => (e.grains[g]?).map (fun x => x.st)) = some .waiting)
    (hd : s1.deliverGrain (s1.fetchLinks (dieOfCore c) gr.phys) gr.phys o = (s2, some data)) :
    s.land c desc g gr o = ((s2.writeDest c gr.mask gr.spad s2.now data).modDesc c desc.id (fun e => e.modGrain g (fun x => { x with st := .done })), none) := by
  have hiter : gr.iterOf = none := by simp only [MGrain.iterOf, hk]
  unfold State.land
  simp only [hiter, ← hs1, hw, hd, ne_eq, not_true_eq_false, if_false]

theorem State.land_none (hk : gr.kind = .plain) (hs1 : s1 = ((s.upTo (slotTime (gr.slot.getD 0))).settleDest c gr.mask).chargeAll)
    (hw : (s1.desc c desc.id).bind (fun e => (e.grains[g]?).map (fun x => x.st)) = some .waiting)
    (hd : s1.deliverGrain (s1.fetchLinks (dieOfCore c) gr.phys) gr.phys o = (s2, none)) :
    s.land c desc g gr o = (s2, some (memEnding stUncorrectable 0 gr.phys 1)) := by
  have hiter : gr.iterOf = none := by simp only [MGrain.iterOf, hk]
  unfold State.land
  simp only [hiter, ← hs1, hw, hd, ne_eq, not_true_eq_false, if_false]

/-- A waiting grain of a fetch is settled with what its landing gives. -/
theorem State.fetchLanded_lands (hd : s.desc c d = some desc) (hf : desc.isStore = false) (hg : desc.grains[g]? = some gr) (hw : gr.st = .waiting)
    (hv : gr.walking = false) (hs : gr.slot.isSome = true) (hl : s.land c desc g gr o = (s1, none)) : s.fetchLanded c d g o = s1.settleStores c := by
  unfold State.fetchLanded
  simp only [hd, hg, hf, hl, State.alsoEnds_waiting hw, MGrain.moves_waiting hw hv hs, hw, Bool.false_and, Bool.false_eq_true, if_false, beq_self_eq_true, Bool.and_self, Bool.not_true]

theorem State.lateGrain_fails {e : Ending} (hr : (s.core c).run = none) (hd : s.desc c d = some desc) (hf : desc.isStore = false) (hg : desc.grains[g]? = some gr)
    (hw : gr.st = .waiting) (hv : gr.walking = false) (hs : gr.slot.isSome = true) (hl : s.land c desc g gr o = (s1, some e)) :
    s.lateGrain c d g o = s1.grainEnding c desc g false e := by
  unfold State.lateGrain
  simp only [hr, hd, hg, hf, hl, hv, MGrain.moves_waiting hw hv hs, hw, Option.map_none, Option.getD_none, Bool.false_or, Bool.false_eq_true, if_false, beq_self_eq_true,
    Bool.and_self, Bool.not_true]

theorem State.crossLinks_clear {links : List Nat} {hub : Bool} {a : Nat} (ht : s.svc.transit = []) (hu : s.svc.ueHub = []) : s.crossLinks links hub a data = (s, some data) := by
  unfold State.crossLinks
  rw [ht, hu]
  rfl

/-- A stored grain becomes visible in memory at its place (R121). -/
theorem State.storeVisible_writes {gr1 : MGrain} (hd : s.desc c d = some desc) (hg : desc.grains[g]? = some gr) (hm : gr.moves = true)
    (hs1 : s1 = (s.upTo (slotTime (gr.slot.getD 0))).settle c (max s.now (slotTime (gr.slot.getD 0))))
    (hx : ∃ x : MDesc, s1.desc c d = some x ∧ x.isStore = true ∧ x.grains[g]? = some gr1) (hr : gr1.st = .read) (ht : s1.svc.transit = []) (hu : s1.svc.ueHub = []) :
    s.storeVisible c d g = State.settleStores
      (({ s1.chargeAll with mem := s1.mem.write gr1.phys gr1.data }).modDesc c d (fun e => e.modGrain g (fun y => { y with st := .done, data := [] }))) c := by
  obtain ⟨x, hx, hst, hgx⟩ := hx
  have hcross (links : List Nat) : s1.chargeAll.crossLinks links false gr1.phys gr1.data = (s1.chargeAll, some gr1.data) := State.crossLinks_clear ht hu
  unfold State.storeVisible
  simp only [hd, Option.bind_some, hg, hm, ← hs1, hx, hgx, Option.map_some, hst, hr, hcross, Bool.not_true, Bool.false_eq_true, if_false, bne_self_eq_false, Bool.or_self]
  rfl

/-- A walk gives its grain its place (R169). -/
theorem State.walkDone_at {phys : Nat} (hs1 : s1 = (s.settle c s.now).chargeAll) (hd : s1.desc c d = some desc) (hg : desc.grains[g]? = some gr) (hv : gr.walking = true)
    (hw : gr.st = .waiting) (hn : ∀ a, walk s1.mem (s1.pages.asker desc.fn true desc.isStore) gr.virt ≠ .bad a)
    (hl : locateXl s1.mem desc.fn desc.coded gr.virt (walk s1.mem (s1.pages.asker desc.fn true desc.isStore) gr.virt) = .at_ phys) : s.walkDone c d g
    = (s1.rememberPage c desc.fn gr.virt (walk s1.mem (s1.pages.asker desc.fn true desc.isStore) gr.virt)).modDesc c d
        (fun e => e.walked (gr.virt / 65536) phys s1.now (s1.core c).mover.afterExcess (s1.share.blockGroups c desc.fn desc.groups) (s1.core c).mover.held) := by
  unfold State.walkDone
  simp only [← hs1, hd, hg, hv, hw, beq_self_eq_true, Bool.true_or, Bool.and_self, Bool.not_true, Bool.false_eq_true, if_false, reduceCtorEq]
  generalize walk s1.mem (s1.pages.asker desc.fn true desc.isStore) gr.virt = x at hn hl ⊢
  cases x with
  | bad a => exact absurd rfl (hn a)
  | ok p w u l => simp only [hl]
  | fault r => simp only [hl]

/-- A walk that fails ends its grain (R172, R213). -/
theorem State.walkDone_bad {e : Ending} (hs1 : s1 = (s.settle c s.now).chargeAll) (hd : s1.desc c d = some desc) (hg : desc.grains[g]? = some gr) (hv : gr.walking = true)
    (hw : gr.st = .waiting) (hn : ∀ a, walk s1.mem (s1.pages.asker desc.fn true desc.isStore) gr.virt ≠ .bad a)
    (hl : locateXl s1.mem desc.fn desc.coded gr.virt (walk s1.mem (s1.pages.asker desc.fn true desc.isStore) gr.virt) = .bad e) :
    s.walkDone c d g = s1.grainEnding c desc g true e := by
  unfold State.walkDone
  simp only [← hs1, hd, hg, hv, hw, beq_self_eq_true, Bool.true_or, Bool.and_self, Bool.not_true, Bool.false_eq_true, if_false]
  generalize walk s1.mem (s1.pages.asker desc.fn true desc.isStore) gr.virt = x at hn hl ⊢
  cases x with
  | bad a => exact absurd rfl (hn a)
  | ok p w u l => simp only [hl]
  | fault r => simp only [hl]

end

/-- Settles O18. -/
theorem grainsLandAndBecomeVisible : Obligations.grains_land_and_become_visible := by
  unfold Obligations.grains_land_and_become_visible
  refine ⟨fun s s1 s2 c d g o desc gr data hc hd hf hg hk hw hv hs hs1 hst hdel => next_clocked hc (State.fetchLanded_lands hd hf hg hw hv hs (State.land_data hk hs1 hst hdel)),
    fun s links a hu => ?clean, fun s s1 c d g desc gr gr1 hc hd hg hm hs1 hx hr ht hu => next_clocked hc (State.storeVisible_writes hd hg hm hs1 hx hr ht hu),
    fun s s1 c d g phys desc gr hc hs1 hd hg hv hw hn hl => next_clocked hc (State.walkDone_at hs1 hd hg hv hw hn hl), fun s s1 c d g desc gr e hc hs1 hd hg hv hw hn hl => next_clocked hc (State.walkDone_bad hs1 hd hg hv hw hn hl),
    fun s s1 s2 c d g o desc gr hc hr hd hf hg hk hw hv hs hs1 hst hdel => next_clocked hc (State.lateGrain_fails hr hd hf hg hw hv hs (State.land_none hk hs1 hst hdel))⟩
  case clean =>
    rw [State.deliverGrain_clean hu]
    exact ⟨rfl, rfl⟩

end Sys2Proof.Machine
end

section
/-! PROOFS. The destruction of a context in use (O20). -/

namespace Sys2Proof.Machine

/-- A state in which PF0 has posted a command in its first mailbox. -/
def State.posting (s : State) (code : Nat) (params : List Byte) : State :=
  { s with ctl := { s.ctl with
      mailbox := setBytes 0 (setBytes 0 (setBytes 0 s.ctl.mailbox (mbKey 0 0 0) (natLe 4 code ++ natLe 4 7 ++ natLe 4 params.length)) (mbKey 0 0 0x10) params) (mbKey 0 0 0x1FC) (natLe 4 (2 ^ 31))
      posted := [(0, 0)] } }

/-- The part released, READY and with no reset in progress. -/
def servingState : State :=
  { rst := { ready := true, current := none, fastFilled := true, pannierFilled := pannierFrames, shadowValid := true, tandemRead := true, pins := { railsLow := [] } }
    host := { link := .l0, configReady := true, fns := [(0, { command := 6, msixEnable := true })], vfMemory := true, linkControl := 2 } }

/-- PF0 asks for the destruction of its own context, which is RUNNING and has an entry queued; the destruction of context 1, which has nothing allotted, has not ended. -/
def destroyingState : State :=
  State.posting { servingState with
    cores := { cores := [(0, { queues := [(0, [{ image := 0x20000 }])] })] }
    seqs := { ctx := [(0, { st := .running, coreMask := 1 })], destroying := [(1, some { cmd := { fn := 0, code := 0x102, tag := 9 }, since := 0 })] } } 0x102 (natLe 4 0)

/-- Whether a step leaves the destruction of context 1 under way. -/
def stillDestroying : Host.Outcome State Fault Refusal → Bool
  | .next t => (tget none t.seqs.destroying 1).isSome
  | _ => false

set_option maxRecDepth 4000 in
/-- Refutes O20: a CONTEXT_DESTROY of a context in use is answered BUSY, but it also ends every destruction under way of a context with nothing allotted (`destroyingState`), which the statement leaves out. -/
theorem not_contextsAreSetAndDestroyed : ¬ Obligations.contexts_are_set_and_destroyed := by
  intro ⟨⟨_, _, _, hbusy, _⟩, _⟩
  have h := congrArg stillDestroying (hbusy destroyingState 0 0 0 (by decide +kernel) (by decide +kernel) (by decide +kernel) (by decide +kernel))
  revert h
  decide +kernel

end Sys2Proof.Machine
end

section
/-! PROOFS. Pre-emption, save and restore of contexts (O21), the sub-queues of blocks (O22). -/

namespace Sys2Proof.Machine

open Sys2Proof.Safety

/-- An admitted command whose row leaves the state it was given is answered, whatever the status short of ACCEPTED. -/
theorem serve_same_of_admitted {s : State} {f : Fn} {m : Mb} {form : CmdForm} {row : Req → State → State × Answer} {a : Answer} (h : Admitted form s f m)
    (hrow : row (s.ctl.req f m) s = (s, a)) (ha : a.status ≠ stAccepted) : s.serve f m form row = s.answer f m (s.ctl.req f m) a := by
  obtain ⟨ht, hcode, hr⟩ := h
  simp [State.serve, ht, hcode, hr, hrow, ha]

section
variable {s : State} {q : Req}

/-- The row of PREEMPT on a RUNNING context (R244). -/
theorem preemptRow_running (hr : (s.ctxOf (q.u32 0)).st = .running) : preemptRow q s =
    (State.unrouse { s with
      cores := s.cores.mapCores (fun _ k => k.putBack (q.u32 0))
      seqs := { s.seqs with ctx := tset {} s.seqs.ctx (q.u32 0) { s.ctxOf (q.u32 0) with st := .preempting }
                            preempting := tset none s.seqs.preempting (q.u32 0) (some { cmd := q.cmd, since := s.now }) } } s,
      { status := stAccepted, names := q.u32 0 }) :=
  if_neg (not_not.mpr hr)

theorem preemptRow_refused (hr : (s.ctxOf (q.u32 0)).st ≠ .running) : preemptRow q s = (s, { status := stSequenceState }) := if_pos hr

/-- The row of RESTORE on a SAVED context (R247). -/
theorem restoreRow_saved (hr : (s.ctxOf (q.u32 0)).st = .saved) (hd : (s.ctxOf (q.u32 0)).damaged = false) : restoreRow q s =
    ({ s with seqs := { s.seqs with
        ctx := tset {} s.seqs.ctx (q.u32 0) { s.ctxOf (q.u32 0) with st := .restoring }
        restoring := tset none s.seqs.restoring (q.u32 0) (some { cmd := q.cmd, since := s.now }) } },
      { status := stAccepted, names := q.u32 0 }) := by
  unfold restoreRow
  rw [if_neg (not_not.mpr hr), hd]
  rfl

theorem restoreRow_damaged (hr : (s.ctxOf (q.u32 0)).st = .saved) (hd : (s.ctxOf (q.u32 0)).damaged = true) :
    restoreRow q s = (s, { status := stUncorrectable }) := by
  unfold restoreRow
  rw [if_neg (not_not.mpr hr), if_pos hd]

end

theorem CoreState.putBack_other {k : CoreState} {l : LoadBlock} {g : Nat} (hl : k.load = some l) (hg : l.fn ≠ g) : k.putBack g = k := by
  simp [CoreState.putBack, hl, hg]

theorem CoreState.putBack_own {k : CoreState} {l : LoadBlock} {g : Nat} (hl : k.load = some l) (hg : l.fn = g) :
    k.putBack g = { k with load := none, successors := tset none k.successors g (some l.chain) } := by
  simp [CoreState.putBack, hl, hg]

/-- The grace time ends a block that still runs, and counts it (R244). -/
theorem State.graceExpired_ends {s u : State} {f c : Nat} {j : CtxJob} {r r1 : RunBlock} (hj : tget none s.seqs.preempting f = some j) (hr : (s.core c).run = some r)
    (hst : (s.ctxOf f).st = .preempting) (hf : r.fn = f) (he : r.ending = none)
    (hu : u = s.endAt c (max s.now (j.since + (s.ctxOf f).grace.toNat * usTicks)) (blockFault faultPreempted))
    (hr1 : (u.core c).run = some r1) (he1 : r1.ending = some (blockFault faultPreempted)) :
    s.graceExpired f c = u.setCtx f { u.ctxOf f with preempted := satAdd (u.ctxOf f).preempted 1 } := by
  unfold State.graceExpired
  rw [hj, hr]
  dsimp only
  rw [if_pos ⟨hst, hf, by rw [he]; rfl⟩, ← hu, hr1]
  exact if_pos (by simp [he1])

/-- A cap that puts a core in no other gear than the one it sleeps in changes its clock's record alone. -/
theorem State.retarget_asleep_seqs {s : State} {c : Nat} (h : (s.clockOf c).gear = 0) : (s.retarget c).seqs = s.seqs := by
  have hm {f : CoreClock → CoreClock} : (s.modClock c f).seqs = s.seqs := by
    unfold State.modClock
    split <;> rfl
  simp only [State.retarget, if_pos h]
  split
  · rfl
  · exact hm

theorem State.rouse_seqs {s : State} : s.rouse.seqs = s.seqs := by
  refine each_induct (P := fun t : State => t.seqs = s.seqs) (fun c t ht => ?_) rfl
  split
  · next hg => exact (State.retarget_asleep_seqs hg).trans ht
  · exact ht

/-- What a completed save leaves, of a function other than PF0 and with no command in progress for it (R244). -/
theorem State.saveDone_saved {s : State} {f : Nat} (hst : (s.ctxOf f).st = .saving) (hb : s.cores.badPartition (s.ctxOf f) = none)
    (hp : tget none s.seqs.preempting f = none) (hf : f ≠ 0) :
    s.saveDone f = ((((s.writeSave f).setCtx f { (s.writeSave f).ctxOf f with st := .saved, damaged := false, saves := satAdd ((s.writeSave f).ctxOf f).saves 1 }).event f f
      10 4 { arg0 := f }).event 0 f 10 4 { arg0 := f }) := by
  unfold State.saveDone
  dsimp only
  rw [if_neg (not_not.mpr hst), if_neg hf, hb]
  simp only [State.event_seqs, Option.isSome_none]
  rw [show ∀ r, ((s.writeSave f).setCtx f r).seqs.preempting = s.seqs.preempting from fun _ => rfl, hp]
  rfl

/-- What a completed restore leaves, of a function other than PF0 and with no command in progress for it (R247). -/
theorem State.restoreDone_running {s u : State} {f : Nat} (hst : (s.ctxOf f).st = .restoring) (hf : f ≠ 0)
    (hu : u = each (s.ctxOf f).coreList.zipIdx
      (fun x t => t.restoreCore f x.1 (t.mem.read ((s.ctxOf f).saveBase.toNat + (s.ctxOf f).saveStride * x.2) (s.ctxOf f).saveStride)) s)
    (hp : tget none u.seqs.restoring f = none) :
    s.restoreDone f = ((((u.setCtx f { u.ctxOf f with st := .running, restores := satAdd (u.ctxOf f).restores 1 }).rouse).event f f 10 5 { arg0 := f }).event 0 f 10 5 { arg0 := f }) := by
  unfold State.restoreDone
  dsimp only
  rw [if_neg (not_not.mpr hst), if_neg hf, ← hu]
  simp only [State.event_seqs, State.rouse_seqs]
  rw [show ∀ r, (u.setCtx f r).seqs.restoring = u.seqs.restoring from fun _ => rfl, hp]
  rfl

/-- Settles O21. -/
theorem contextsArePreemptedSavedAndRestored : Obligations.contexts_are_preempted_saved_and_restored := by
  refine ⟨fun s f m g h hg hr => ?preempt, fun k l g hl => ⟨CoreState.putBack_other hl, CoreState.putBack_own hl⟩, fun s f m h hr => ?refused,
    fun s f c j r r1 u hc hj hr hst hf he hu hr1 he1 => next_clocked hc (State.graceExpired_ends hj hr hst hf he hu hr1 he1), fun s f hc hst hrun => ?start,
    fun s f hc hst hb hp hf => next_clocked hc (State.saveDone_saved hst hb hp hf), fun s f m g h hg hst hd => ?restore, fun s f m h hst hd => ?damaged,
    fun s u f r hc hr hst hn hf hu hp => next_clocked hc (State.restoreDone_running (hr ▸ hst) hf (hr ▸ hu) hp)⟩
  case preempt =>
    subst hg
    exact congrArg Host.Outcome.next (serve_accepted_of_admitted h rfl (preemptRow_running hr) rfl)
  case refused => exact congrArg Host.Outcome.next (serve_refused_of_admitted h (preemptRow_refused hr) (by decide))
  case start =>
    refine next_clocked hc (if_pos ⟨hst, List.all_eq_true.mpr fun e he => ?_⟩)
    cases hr : e.2.run with
    | none => rfl
    | some r => exact bne_iff_ne.mpr (hrun e he r hr)
  case restore =>
    subst hg
    exact congrArg Host.Outcome.next (serve_accepted_of_admitted h rfl (restoreRow_saved hst hd) rfl)
  case damaged => exact congrArg Host.Outcome.next (serve_same_of_admitted h (restoreRow_damaged hst hd) (by decide))

/-- Entries that hold no place in a brew list leave the lists. -/
theorem SeqState.each_of_not_doneList {g : QEntry → SeqState → SeqState} {es : List QEntry} {x : SeqState} (hg : ∀ e ∈ es, g e x = x) : each es g x = x := by
  induction es with
  | nil => rfl
  | cons e es ih => exact (congrArg (each es g) (hg e (by simp))).trans (ih fun e he => hg e (by simp [he]))

section
variable {s : State} {q : Req}

theorem blockPostRow_not_held (h : (s.ctxOf q.fn).hasCore (q.u32 0) = false) : blockPostRow q s = (s, { status := stNotPermitted }) := by
  unfold blockPostRow
  dsimp only
  rw [h]
  rfl

theorem blockPostRow_full (h : (s.ctxOf q.fn).hasCore (q.u32 0) = true) (hn : 32 < (s.core (q.u32 0)).queued q.fn + (q.entries 16 96 (q.u32 4 % 8)).length) :
    blockPostRow q s = (s, { status := stBusy }) := by
  unfold blockPostRow
  dsimp only
  rw [if_neg (by simp [h]), List.length_map, if_pos hn]
  rfl

/-- Entries that name no list join the sub-queue in their order (R242). -/
theorem blockPostRow_posted {es : List QEntry} (hes : es = (q.entries 16 96 (q.u32 4 % 8)).map parseEntry) (h : (s.ctxOf q.fn).hasCore (q.u32 0) = true)
    (hn : (s.core (q.u32 0)).queued q.fn + es.length ≤ 32) (he : ∀ e ∈ es, e.gateEn = false ∧ e.doneList = false) :
    blockPostRow q s = ((s.modCore (q.u32 0) (fun k => { k with queues := tset [] k.queues q.fn (tget [] k.queues q.fn ++ es) })).rouse, {}) := by
  have hany : ¬ es.any (fun e => e.gateEn && (s.seqs.listOf q.fn e.gateEpoch).all (fun l => e.doneList && l.closed)) = true := by
    rw [List.any_eq_true]
    rintro ⟨e, hm, hx⟩
    simp [(he e hm).1] at hx
  have hseqs : each es (fun e x => x.chainPosted q.fn e) s.seqs = s.seqs :=
    SeqState.each_of_not_doneList fun e hm => if_neg (by simp [(he e hm).2])
  unfold blockPostRow
  dsimp only
  rw [← hes, if_neg (by simp [h]), if_neg (Nat.not_lt.mpr hn), if_neg hany, hseqs]
  rfl

/-- Entries that hold no place in a list are cancelled and counted (R340). -/
theorem blockCancelRow_one {c : Nat} (hcs : bitsOf 256 (fieldAt q.params 0 32) = [c]) (he : ∀ e ∈ tget [] (s.core c).queues q.fn, e.doneList = false) :
    blockCancelRow q s = (State.unrouse (s.setCore c ((s.core c).cancel q.fn)) s, { reply := natLe 4 (tget [] (s.core c).queues q.fn).length }) := by
  have hseqs : each (tget [] (s.core c).queues q.fn) (fun e x => x.chainDone q.fn e) s.seqs = s.seqs :=
    SeqState.each_of_not_doneList fun e hm => if_neg (by simp [he e hm])
  unfold blockCancelRow
  dsimp only
  rw [hcs, List.flatMap_singleton, hseqs]
  rfl

end

section
variable {k : CoreState} {f : Nat}

/-- What is cancelled is the function's own sub-queue. -/
theorem CoreState.cancel_queues : (k.cancel f).queues = k.queues ∧ tget [] k.queues f = [] ∨ (k.cancel f).queues = tset [] k.queues f [] := by
  unfold CoreState.cancel
  dsimp only
  split
  · next h => exact .inl ⟨rfl, List.isEmpty_iff.mp h⟩
  · exact .inr rfl

theorem CoreState.cancel_frame : (k.cancel f).run = k.run ∧ (k.cancel f).load = k.load ∧ (k.cancel f).successors = k.successors := by
  unfold CoreState.cancel
  dsimp only
  split <;> exact ⟨rfl, rfl, rfl⟩

theorem CoreState.tget_cancel_same (hk : twf [] k.queues = true) : tget [] (k.cancel f).queues f = [] := by
  obtain ⟨hq, he⟩ | hq := CoreState.cancel_queues (k := k) (f := f)
  · rw [hq, he]
  · rw [hq, tget_tset_same hk]

theorem CoreState.tget_cancel_ne (hk : twf [] k.queues = true) {g : Nat} (hg : g ≠ f) : tget [] (k.cancel f).queues g = tget [] k.queues g := by
  obtain ⟨hq, -⟩ | hq := CoreState.cancel_queues (k := k) (f := f)
  · rw [hq]
  · rw [hq, tget_tset_ne hk hg]

end

/-- Settles O22. -/
theorem blocksArePostedAndCancelled : Obligations.blocks_are_posted_and_cancelled := by
  refine ⟨fun s f m es h hes hc hn he => congrArg Host.Outcome.next (serve_of_admitted h (blockPostRow_posted hes hc hn he) rfl),
    fun s f m h hc => congrArg Host.Outcome.next (serve_refused_of_admitted h (blockPostRow_not_held hc) (by decide)),
    fun s f m h hc hn => congrArg Host.Outcome.next (serve_refused_of_admitted h (blockPostRow_full hc hn) (by decide)),
    fun s f m c h hcs he => congrArg Host.Outcome.next (serve_of_admitted h (blockCancelRow_one hcs he) rfl), fun k f hk => ?cancel⟩
  case cancel =>
    obtain ⟨hrun, hload, hsucc⟩ := CoreState.cancel_frame (k := k) (f := f)
    exact ⟨CoreState.tget_cancel_same hk, hrun, hload, hsucc, fun g => CoreState.tget_cancel_ne hk⟩

end Sys2Proof.Machine
end

section
/-! PROOFS. Loads of caddy tables and code tables (O23). -/

namespace Sys2Proof.Machine

open Sys2Proof.Safety

section
variable {s : State}

/-- A completion writes an entry and takes the command out of progress. -/
theorem State.complete_cores {c : CmdRef} {a : Args} : (s.complete c a).cores = s.cores := by
  obtain ⟨k, h, hx⟩ := s.complete_frame c a
  rw [hx]

/-- A load's ADD leaves the loads that wait. -/
theorem State.loadAdd_caddyLoads {l : TableLoad} : (s.loadAdd l).cores.caddyLoads = s.cores.caddyLoads := by
  unfold State.loadAdd
  split
  · rfl
  · rfl

theorem State.loadAdd_none {l : TableLoad} (h : l.addEn = false) : s.loadAdd l = s := if_neg (by simp [h])

/-- A load's cores take its table, its code loads and code tables do not. -/
theorem CoresState.shadow_frame {x : CoresState} {l : TableLoad} {g : CaddySlot → CaddySlot} :
    (x.shadow l g).caddyLoads = x.caddyLoads ∧ (x.shadow l g).codeLoads = x.codeLoads ∧ (x.shadow l g).codeTables = x.codeTables :=
  each_induct (P := fun y : CoresState => y.caddyLoads = x.caddyLoads ∧ y.codeLoads = x.codeLoads ∧ y.codeTables = x.codeTables)
    (f := fun c y => y.setCore c { y.core c with caddy := tmod {} (y.core c).caddy l.slot g }) (fun _ _ h => h) ⟨rfl, rfl, rfl⟩

theorem CoresState.startLoad_frame {x : CoresState} {f slot : Nat} :
    (x.startLoad f slot).caddyLoads = x.caddyLoads ∧ (x.startLoad f slot).codeLoads = x.codeLoads ∧ (x.startLoad f slot).codeTables = x.codeTables := by
  unfold CoresState.startLoad
  split
  · exact ⟨rfl, rfl, rfl⟩
  · exact CoresState.shadow_frame

/-- With no load left none starts. -/
theorem CoresState.startLoad_nil {x : CoresState} {f slot : Nat} (h : x.caddyLoads = []) : x.startLoad f slot = x := by
  simp [CoresState.startLoad, h]

/-- Loads none of which is refused stay. -/
theorem State.rejectLoads_none (ha : ∀ l ∈ s.cores.caddyLoads, l.rejected = none) (hb : ∀ l ∈ s.cores.codeLoads, l.rejected = none) : s.rejectLoads = s := by
  have keep {t : List TableLoad} (h : ∀ l ∈ t, l.rejected = none) : t.filter (fun l => l.rejected.isNone) = t :=
    List.filter_eq_self.mpr fun l hl => by rw [h l hl]; rfl
  have bad : (s.cores.caddyLoads ++ s.cores.codeLoads).filter (fun l => l.rejected.isSome) = [] :=
    List.filter_eq_nil_iff.mpr fun l hl => by
      obtain h | h := List.mem_append.mp hl
      · simp [ha l h]
      · simp [hb l h]
  unfold State.rejectLoads
  dsimp only
  rw [bad, keep ha, keep hb]
  rfl

/-- The load a function has in progress when it is the only one. -/
theorem find_load {l : TableLoad} {f : Nat} (hf : l.fn = f) : [l].find? (fun l => l.fn == f) = some l := by simp [hf]

/-- What the end of the only caddy load leaves. -/
theorem State.shadowPending_only {l : TableLoad} {f : Nat} {x : CoresState} (hl : s.cores.caddyLoads = [l]) (hf : l.fn = f)
    (hx : x = s.cores.shadow l (fun b => { b with shadow := l.image, shadowState := .pending })) :
    s.shadowPending f = (State.loadAdd { s with cores := { x with caddyLoads := [] } } l).complete l.cmd {} := by
  have he : x.caddyLoads.erase l = [] := by rw [hx, CoresState.shadow_frame.1, hl]; simp
  have hs : (State.complete (State.loadAdd { s with cores := { x with caddyLoads := [] } } l) l.cmd {}).cores.caddyLoads = [] := by
    rw [State.complete_cores, State.loadAdd_caddyLoads]
  unfold State.shadowPending
  rw [hl, find_load hf]
  dsimp only
  rw [← hx, he, CoresState.startLoad_nil hs]

theorem State.codeInForce_only {l : TableLoad} {f : Nat} (hl : s.cores.codeLoads = [l]) (hf : l.fn = f) (hc : l.cores = []) (ha : l.addEn = false) :
    s.codeInForce f = { s with cores := { s.cores with codeLoads := [], codeTables := tset [] s.cores.codeTables (16 * f + l.slot) l.image } }.complete l.cmd {} := by
  unfold State.codeInForce
  rw [hl, find_load hf]
  dsimp only
  rw [if_pos (by rw [hc]; rfl), State.loadAdd_none ha]
  simp

theorem loadRow_ok {q : Req} {bytes : Nat} {enter : List Byte → State → State} {img : List Byte} (h : readVirt s.mem s.pages q.fn (q.u64 0) bytes = .ok img) :
    loadRow bytes q s enter = (enter img s, { status := stAccepted, names := q.fn }) := by
  unfold loadRow
  rw [h]

/-- An image that can be read and is a caddy table enters as a load (R148). -/
theorem caddyRow_ok {q : Req} {img : List Byte} {l : TableLoad} (hv : readVirt s.mem s.pages q.fn (q.u64 0) 4224 = .ok img) (hb : caddyFault img = none)
    (hl : l = { fn := q.fn, slot := q.u32 8, image := img, cores := bitsOf 256 (fieldAt q.params 16 32), addEn := (parseLoadAdd (q.u32 12)).en
                addCtr := (parseLoadAdd (q.u32 12)).ctr, addAmount := (parseLoadAdd (q.u32 12)).amount, rejected := none, cmd := q.cmd }) :
    caddyRow q s = ({ s with cores := ({ s.cores with caddyLoads := s.cores.caddyLoads ++ [l] } : CoresState).startLoad q.fn (q.u32 8) },
      { status := stAccepted, names := q.fn }) := by
  subst hl
  unfold caddyRow
  rw [loadRow_ok hv, hb]

/-- An image that can be read and is a code table enters as a load that waits for the cores with a block (R192). -/
theorem codeRow_ok {q : Req} {img : List Byte} {l : TableLoad} (hv : readVirt s.mem s.pages q.fn (q.u64 0) 256 = .ok img) (hb : codeTableFault img = none)
    (hl : l = { fn := q.fn, slot := q.u32 8, image := img, cores := (s.cores.cores.filter (fun e => e.2.run.isSome)).map (·.1), addEn := (parseLoadAdd (q.u32 12)).en
                addCtr := (parseLoadAdd (q.u32 12)).ctr, addAmount := (parseLoadAdd (q.u32 12)).amount, rejected := none, cmd := q.cmd }) :
    codeRow q s = ({ s with cores := { s.cores with codeLoads := s.cores.codeLoads ++ [l] } }, { status := stAccepted, names := q.fn }) := by
  subst hl
  unfold codeRow
  rw [loadRow_ok hv, hb]
  rfl

/-- When the loads that wait are one that is not refused, none is taken away. -/
theorem State.rejectLoads_one {l : TableLoad} {xs ys : List TableLoad} (ha : s.cores.caddyLoads = xs) (hb : s.cores.codeLoads = ys) (hxy : xs ++ ys = [l])
    (hr : l.rejected = none) : s.rejectLoads = s := by
  have one {k : TableLoad} (hk : k ∈ xs ++ ys) : k.rejected = none := by
    rw [hxy] at hk
    rwa [List.mem_singleton.mp hk]
  exact State.rejectLoads_none (fun k hk => one (List.mem_append_left _ (ha ▸ hk))) (fun k hk => one (List.mem_append_right _ (hb ▸ hk)))

end

/-- Settles O23. -/
theorem tablesAreLoaded : Obligations.tables_are_loaded := by
  refine ⟨fun s f m img l h hca hco _ _ _ hv hfault hl => ?caddy, fun s f l hc hl hf hcs ha => ?pending, fun s f l c hc hl hf hcs => ?shadow,
    fun s f m img h hca hco _ hv hfault => ?code, fun s f l hc hl hf hcs ha => next_clocked hc (State.codeInForce_only hl hf hcs ha)⟩
  case caddy =>
    have hrow := serve_accepted_of_admitted h rfl (caddyRow_ok hv hfault hl) rfl
    obtain ⟨hcaddy, hcode, htables⟩ := CoresState.startLoad_frame (x := { s.cores with caddyLoads := s.cores.caddyLoads ++ [l] }) (f := f) (slot := (s.ctl.req f m).u32 8)
    replace hcaddy := hcaddy.trans (by rw [hca]; rfl : s.cores.caddyLoads ++ [l] = [l])
    exact ⟨_, congrArg Host.Outcome.next ((congrArg State.rejectLoads hrow).trans (State.rejectLoads_one hcaddy (hcode.trans hco) rfl (by rw [hl]))),
      hcaddy, htables, rfl, rfl⟩
  case pending =>
    refine next_clocked hc ((State.shadowPending_only (x := s.cores) hl hf ?_).trans (by rw [State.loadAdd_none ha]))
    rw [CoresState.shadow, hcs]
    rfl
  case shadow =>
    refine ⟨_, next_clocked hc (State.shadowPending_only hl hf rfl), ?_, fun ha => ?_⟩
    · rw [State.complete_cores, State.loadAdd_caddyLoads]
    · rw [State.complete_cores, State.loadAdd_none ha, CoresState.shadow, hcs]
      rfl
  case code =>
    have hrow := serve_accepted_of_admitted h rfl (codeRow_ok hv hfault rfl) rfl
    refine ⟨_, _, congrArg Host.Outcome.next ((congrArg State.rejectLoads hrow).trans
      (State.rejectLoads_one hca (congrArg (· ++ _) hco) rfl rfl)), congrArg (· ++ _) hco, rfl, rfl, rfl, fun c hm => ?_, rfl, rfl⟩
    obtain ⟨e, he, rfl⟩ := List.mem_map.mp hm
    rw [List.mem_filter] at he
    exact ⟨e, he.1, rfl, he.2⟩

end Sys2Proof.Machine
end

section
/-! PROOFS. The maps of memory, its seals and its scrub (O24). -/

namespace Sys2Proof.Machine

open Sys2Proof.Safety

theorem mem_insertNat {i : Nat} {l : List Nat} : i ∈ insertNat i l := by
  induction l with
  | nil => simp [insertNat]
  | cons k t ih =>
    unfold insertNat
    split
    · simp
    · split
      · next h => simp [h]
      · simp [ih]

section
variable {s : State} {q : Req}

/-- A MAP_SET that keeps the domains whole waits with its maps, the extents it touches pending (R162). -/
theorem mapRow_ok (hr : ∀ x < 64, (s.mem.group x).retired = false) (hd : allDomains.all (domainOk (mapGroup q s.mem.group) (mapExtent q)) = true)
    (hm : s.mem.mapChange = none) (hx : s.mem.retires = []) (hft : s.pages.ftValid = false) : mapRow q s =
    ({ s with mem := { s.mem.setPending (touchedExtents s.mem (mapGroup q s.mem.group) (mapExtent q)) true with
        mapChange := some { groups := (List.range 64).map (mapGroup q s.mem.group), extents := (List.range 64).map (mapExtent q), cmd := q.cmd } } }, { status := stAccepted }) := by
  have hnone : (List.range 64).find? (fun x => (s.mem.group x).retired && mapGroup q s.mem.group x != s.mem.group x) = none :=
    List.find?_eq_none.mpr fun x hmem => by simp [hr x (List.mem_range.mp hmem)]
  unfold mapRow
  dsimp only
  rw [hnone]
  simp [hd, hm, MemState.retiringFast, hx, hft]

theorem mapRow_bad (hr : ∀ x < 64, (s.mem.group x).retired = false) (hd : allDomains.all (domainOk (mapGroup q s.mem.group) (mapExtent q)) = false) :
    mapRow q s = (s, { status := stBadField, detail := 0x10 }) := by
  have hnone : (List.range 64).find? (fun x => (s.mem.group x).retired && mapGroup q s.mem.group x != s.mem.group x) = none :=
    List.find?_eq_none.mpr fun x hmem => by simp [hr x (List.mem_range.mp hmem)]
  unfold mapRow
  dsimp only
  rw [hnone]
  simp [hd, badField]

/-- A change of the maps with no frame table puts the new maps in force (R163). -/
theorem State.mapDone_ok {ch : MapChange} (hch : s.mem.mapChange = some ch) (hp : s.inFlightPending = false) (hft : s.pages.ftValid = false) :
    s.mapDone = { s with mem := s.mem.remap ch }.complete ch.cmd {} := by
  have hre : (s.mem.remap ch).refunction s.pages.ft = s.mem.remap ch := if_neg (by simp [PageState.ft, hft])
  unfold State.mapDone
  rw [hch]
  dsimp only
  rw [if_neg (by simp [hp]), hre, State.tableUe, if_neg (by simp [hft])]

/-- With a grain in flight to a pending extent the change of the maps waits. -/
theorem State.mapDone_waits (hp : s.inFlightPending = true) : s.mapDone = s := by
  unfold State.mapDone
  split
  · rfl
  · exact if_pos hp

theorem MemState.remap_maps {m : MemState} {ch : MapChange} {x : Nat} (hx : x < 64) :
    (m.remap ch).extent x = ch.extents.getD x {} ∧ (m.remap ch).group x = ch.groups.getD x {} := by
  have hext : (m.remap ch).extents = each (List.range 64) (fun x t => tset {} t x (ch.extents.getD x {})) [] := by
    unfold MemState.remap
    dsimp only
  have hgrp : (m.remap ch).groups = each (List.range 64) (fun x t => tset {} t x (ch.groups.getD x {})) [] := by
    unfold MemState.remap
    dsimp only
  unfold MemState.extent MemState.group
  rw [hext, hgrp]
  exact ⟨tget_each_range_tset (t := []) (x := fun x => ch.extents.getD x {}) rfl hx, tget_each_range_tset (t := []) (x := fun x => ch.groups.getD x {}) rfl hx⟩

/-- A retirement of a stack's pseudo-channels enters as a job (R174). -/
theorem retireRow_fast {last : Nat} (hq : q.u32 0 = 0) (hv : (s.mem.group (q.u32 4)).valid = true) (hr : (s.mem.group (q.u32 4)).retired = false)
    (hm : s.mem.mapChange = none) (hx : s.mem.retires = []) (hft : s.pages.ftValid = false)
    (hlast : (domExtents s.mem.extent (groupDomain (q.u32 4) (s.mem.group (q.u32 4)))).getLast? = some last) : retireRow q s =
    ({ s with mem := { s.mem.setPending (domExtents s.mem.extent (groupDomain (q.u32 4) (s.mem.group (q.u32 4)))) true with
        retires := [{ tier := .fast, unit := q.u32 4, listAddr := q.u64 16 % 2 ^ 48, cmd := q.cmd }] } }, { status := stAccepted }) := by
  unfold retireRow
  rw [if_neg (by simp [hq])]
  unfold retireFastRow
  dsimp only
  rw [hlast]
  simp [hv, hr, hm, hx, hft]

/-- What a retirement does that finds no uncorrectable grain among what it moves (R175, R176). -/
theorem State.retireDone_ok {r : RetireJob} {rest : List RetireJob} (hr : s.mem.retires = r :: rest) (hp : s.inFlightPending = false) (hb : s.mem.retireBad r = []) :
    s.retireDone = State.complete (State.spareOut (State.recordItem { s with mem := { s.mem.retired r with retires := rest } } (fun t => match r.tier with
        | .fast => { t with fastRetired := insertNat r.unit t.fastRetired }
        | .pannier => { t with pannierRetired := insertNat r.unit t.pannierRetired })) 6
      (match r.tier with
        | .fast => r.unit
        | .pannier => 64 + r.unit) true) r.cmd { arg0 := 0 } := by
  unfold State.retireDone
  rw [hr]
  dsimp only
  rw [if_neg (by simp [hp]), hb]
  rfl

theorem MemState.retired_pannier {m : MemState} {r : RetireJob} (h : r.tier = .pannier) : r.unit ∈ (m.retired r).pannierRetired := by
  unfold MemState.retired
  rw [h]
  exact mem_insertNat

theorem pannierFreeRow_ok (hft : s.pages.ftValid = false) (hf : s.mem.fill.any (fun e => e.2.isFilling) = false) :
    pannierFreeRow q s = ({ s with mem := { s.mem with fill := tclear s.mem.fill (q.u32 0) (q.u32 0 + q.u32 4) } }, {}) := by
  have hbusy : ¬ s.mem.fill.any (fun e => decide (q.u32 0 ≤ e.1) && decide (e.1 < q.u32 0 + q.u32 4) && e.2.isFilling) = true := by
    rw [List.any_eq_false] at hf
    rw [List.any_eq_true]
    rintro ⟨e, he, hx⟩
    exact hf e he (Bool.and_eq_true_iff.mp hx).2
  unfold pannierFreeRow
  dsimp only
  rw [if_neg (by simp [State.mayFree, hft]), if_neg hbusy]

/-- The first seal takes entry 0 of the table (R182). -/
theorem sealRow_first (hlc : s.sec.lifecycle ≠ 3) (hs : s.mem.seals = []) (hok : ∀ k < q.u32 4 + 1 - q.u32 0, s.sealable q.fn (q.u32 0 + k) = true) :
    sealRow q s = ({ s.deriveKey q.fn with mem := { (s.deriveKey q.fn).mem with
        seals := tset {} (s.deriveKey q.fn).mem.seals 0 { base := BitVec.ofNat 25 (q.u32 0), limit := BitVec.ofNat 25 (q.u32 4), owner := BitVec.ofNat 4 q.fn, valid := true } } },
      { reply := natLe 4 0 }) := by
  have hall : (List.range (q.u32 4 + 1 - q.u32 0)).all (fun i => s.sealable q.fn (q.u32 0 + i)) = true :=
    List.all_eq_true.mpr fun k hk => hok k (List.mem_range.mp hk)
  have hfind : (List.range 64).find? (fun i => !(s.mem.seal i).valid) = some 0 := by
    simp [MemState.seal, hs, tget]
  unfold sealRow
  dsimp only
  rw [if_neg hlc, if_neg (by simp [hs]), if_neg (by simp [hall]), hfind]

theorem sealRow_lifecycle (hlc : s.sec.lifecycle = 3) : sealRow q s = (s, { status := stLifecycle }) := if_pos hlc

/-- A function's key pair is drawn once, and drawing it changes no map and no byte (R182, R407). -/
theorem State.deriveKey_mem {f : Nat} : (s.deriveKey f).mem.seals = s.mem.seals ∧ (s.deriveKey f).mem.cells = s.mem.cells
    ∧ (∀ k, tget none s.mem.sealKeys f = some k → (s.deriveKey f).mem.sealKeys = s.mem.sealKeys)
    ∧ (tget none s.mem.sealKeys f = none →
        (s.deriveKey f).mem.sealKeys = tset none s.mem.sealKeys f (some (keyPair (natLe 32 s.sec.ownerSeed.toNat) f 64 s.freeCtr).1)) := by
  unfold State.deriveKey
  cases hk : tget none s.mem.sealKeys f with
  | none => exact ⟨rfl, rfl, fun k h => by simp at h, fun _ => rfl⟩
  | some k => exact ⟨rfl, rfl, fun _ _ => rfl, fun h => by simp at h⟩

theorem unsealRow_ok (hv : (s.mem.seal (q.u32 0)).valid = true) (hr : s.mem.removals.any (fun r => r.entry == q.u32 0) = false) : unsealRow q s =
    ({ s with mem := { s.mem with removals := s.mem.removals ++ [{ entry := q.u32 0, cmd := some q.cmd }] } }, { status := stAccepted }) := by
  unfold unsealRow
  dsimp only
  rw [if_neg (by simp [hv]), if_neg (by simp [hr])]

theorem State.sealRemoved_only {r : SealRemoval} {i : Nat} {c : CmdRef} (hr : s.mem.removals = [r]) (hi : r.entry = i) (hc : r.cmd = some c) :
    s.sealRemoved i = { s with mem := s.mem.unseal i }.complete c {} := by
  unfold State.sealRemoved
  rw [hr, List.find?_cons_of_pos (by simp [hi])]
  dsimp only
  rw [hc]

end

/-- A read that cannot be corrected names no place. -/
theorem MemState.readGrain_places {m : MemState} {g : Nat} {es : List SymbolError} (h : (m.readGrain g es).outcome = .uncorrectable) : (m.readGrain g es).places = [] := by
  unfold MemState.readGrain at h ⊢
  split at h
  · next hu => rw [if_pos hu]
  · next hu =>
    rw [if_neg hu]
    unfold stackRead at h ⊢
    cases hes : es.isEmpty
    case true => rfl
    case false =>
      rw [if_neg (by simp [hes])] at h ⊢
      cases hd : stackDecode (flipSymbols es (grainSymbols ((m.raw g).map (·.toNat)))) with
      | none => rfl
      | some x =>
        rw [hd] at h
        dsimp only at h
        split at h <;> cases h

/-- A grain in which no place was corrected is noted in its stack's record alone. -/
theorem State.noteGrain_of_places {s : State} {a : Nat} {scrub : Bool} {r : GrainRead} (h : r.places = []) : ∃ (b : Tab Nat) (e : Tab Nat),
    s.noteGrain a scrub r = { s with mem := { s.mem.note a scrub r.outcome with laneBursts := b, laneErrors := e } } := by
  unfold State.noteGrain
  rw [h]
  exact ⟨_, _, rfl⟩

/-- Scrubbing a place of memory reads its grain, writes back what was corrected and notes the outcome (R171). -/
theorem State.scrub_place {s : State} {a : Nat} {es : List SymbolError} (hc : placeOf a ≠ .control) (hu : placeOf a ≠ .unmapped) : ∃ e : Tab Nat,
    s.scrub a es = State.noteGrain { s with mem := { (if (s.mem.readGrain (a / 256) es).outcome = .uncorrectable then s.mem
      else s.mem.scrubBack (a / 256) (stackRead (s.mem.raw (a / 256)) es).data) with rowErrors := e } } (256 * (a / 256)) true (s.mem.readGrain (a / 256) es) := by
  have go : ∃ e : Tab Nat, (let x := s.mem.stackPlace a
      let g := a / 256
      let r := s.mem.readGrain g es
      let m := if r.outcome = .uncorrectable then s.mem else s.mem.scrubBack g (stackRead (s.mem.raw g) es).data
      let m := if x.2 = (0, 0) then { m with rowErrors := tclear m.rowErrors (2 ^ 40 * x.1) (2 ^ 40 * (x.1 + 1)) } else m
      State.noteGrain { s with mem := m } (256 * g) true r) = State.noteGrain { s with mem := { (if (s.mem.readGrain (a / 256) es).outcome = .uncorrectable then s.mem
      else s.mem.scrubBack (a / 256) (stackRead (s.mem.raw (a / 256)) es).data) with rowErrors := e } } (256 * (a / 256)) true (s.mem.readGrain (a / 256) es) := by
    dsimp only
    split
    · exact ⟨_, rfl⟩
    · exact ⟨_, rfl⟩
  unfold State.scrub
  split
  · exact absurd ‹_› hc
  · exact absurd ‹_› hu
  · exact go

theorem MemState.readGrain_clean {m : MemState} {g : Nat} (h : m.ue.contains g = false) : (m.readGrain g []).outcome = .clean ∧ (m.readGrain g []).places = [] := by
  unfold MemState.readGrain
  rw [if_neg (by simp only [h]; simp)]
  exact ⟨rfl, rfl⟩

theorem MemState.scrubBack_same {m : MemState} {g : Nat} : m.scrubBack g (m.raw g) = m := if_pos rfl

/-- An uncorrectable grain is noted in its stack's record and among the uncorrectable ones (R171). -/
theorem MemState.note_uncorrectable {m : MemState} {g : Nat} {scrub : Bool} :
    (m.note (256 * g) scrub .uncorrectable).ue = insertNat g m.ue
    ∧ (m.note (256 * g) scrub .uncorrectable).stackRecs = tset {} m.stackRecs (m.stackOf (g * 256)) { m.stackRec (m.stackOf (g * 256)) with
        uncorrectableGrains := satAdd (m.stackRec (m.stackOf (g * 256))).uncorrectableGrains 1, lastUe := BitVec.ofNat 41 (g * 256) } := by
  rw [Nat.mul_comm 256 g]
  unfold MemState.note
  rw [if_pos rfl, Nat.mul_div_cancel g (by decide)]
  exact ⟨rfl, rfl⟩

/-- Settles O24. -/
theorem memoryMapsChange : Obligations.memory_maps_change := by
  refine ⟨⟨fun s f m h hr hd hm hx hft => ?set, fun s f m h hr hd => congrArg Host.Outcome.next (serve_refused_of_admitted h (mapRow_bad hr hd) (by decide)),
      fun s ch hc hch hp hft => ⟨_, next_clocked hc (State.mapDone_ok hch hp hft), rfl, rfl, rfl, fun x hx => MemState.remap_maps hx⟩,
      fun s hc hp => next_clocked hc (State.mapDone_waits hp),
      fun s f m last h hq hv hr hm hx hft hlast => congrArg Host.Outcome.next (serve_accepted_of_admitted h rfl (retireRow_fast hq hv hr hm hx hft hlast) rfl),
      fun s r rest hc hr hp hb => ?retire, fun s f m h _ hft hf => congrArg Host.Outcome.next (serve_of_admitted h (pannierFreeRow_ok hft hf) rfl)⟩,
    fun s f m i h hlc hs hi hok => ?sealed, fun s f m h hlc => congrArg Host.Outcome.next (serve_refused_of_admitted h (sealRow_lifecycle hlc) (by decide)),
    fun s f m h hv _ hr => congrArg Host.Outcome.next (serve_accepted_of_admitted h rfl (unsealRow_ok hv hr) rfl), fun s e r c hc hr hi hcmd hw => ?removed,
    fun s f m h => ⟨_, congrArg Host.Outcome.next (serve_of_admitted h rfl rfl), rfl⟩, fun s a es hc hp hu ho => ?uncorrectable, fun s a hc hp hu hue => ?clean⟩
  case set =>
    refine ⟨_, _, congrArg Host.Outcome.next (serve_accepted_of_admitted h rfl (mapRow_ok hr hd hm hx hft) rfl), rfl, by simp, by simp, fun x hx => ?_, fun x hx => ?_⟩
    · exact getD_map_range hx
    · exact getD_map_range hx
  case retire =>
    refine ⟨_, _, next_clocked hc (State.retireDone_ok hr hp hb), rfl, rfl, rfl, rfl, fun ht => ?_, fun ht => ⟨?_, MemState.retired_pannier ht⟩⟩
    · rw [ht]
      exact mem_insertNat
    · rw [ht]
      exact mem_insertNat
  case sealed =>
    subst hi
    obtain ⟨hseals, hcells, hold, hnew⟩ := s.deriveKey_mem (f := f)
    exact ⟨_, congrArg Host.Outcome.next (serve_of_admitted h (sealRow_first hlc hs hok) rfl), congrArg (tset {} · 0 _) hseals, hcells, hold, hnew⟩
  case removed =>
    refine ⟨_, next_clocked hc (State.sealRemoved_only hr hi hcmd), rfl, ?_, fun a hl hh => ?_, fun a ho => ?_⟩
    · simp [MemState.unseal, MemState.zero, hr, hi]
    · exact (MemState.tget_zero hw).trans (if_pos ⟨hl, hh⟩)
    · exact (MemState.tget_zero hw).trans (if_neg (by omega))
  case uncorrectable =>
    obtain ⟨e, he⟩ := State.scrub_place (s := s) (es := es) hp hu
    obtain ⟨b, l, hn⟩ := State.noteGrain_of_places (scrub := true) (MemState.readGrain_places ho)
      (s := { s with mem := { s.mem with rowErrors := e } }) (a := 256 * (a / 256))
    rw [if_pos ho] at he
    rw [ho] at hn
    obtain ⟨hue, hrec⟩ := MemState.note_uncorrectable (m := { s.mem with rowErrors := e }) (g := a / 256) (scrub := true)
    exact ⟨_, next_clocked hc (he.trans hn), rfl, hue, rfl, hrec⟩
  case clean =>
    obtain ⟨e, he⟩ := State.scrub_place (s := s) (es := []) hp hu
    obtain ⟨ho, hpl⟩ := MemState.readGrain_clean hue
    obtain ⟨b, l, hn⟩ := State.noteGrain_of_places (scrub := true) hpl (s := { s with mem := { s.mem with rowErrors := e } }) (a := 256 * (a / 256))
    rw [if_neg (by simp [ho]), show (stackRead (s.mem.raw (a / 256)) []).data = s.mem.raw (a / 256) from rfl, MemState.scrubBack_same] at he
    refine ⟨_, next_clocked hc (he.trans hn), rfl, ?_, rfl, rfl⟩
    simp [MemState.note, ho]

end Sys2Proof.Machine
end

section
/-! PROOFS. Descriptors of the relaxed channels (O25). -/

namespace Sys2Proof.Machine

open Sys2Proof.Safety

section
variable {s : State} {l : List (Except Args Transfer)}

/-- With nothing wrong on the way the first grain crosses as it was read. -/
theorem State.firstCrosses_clear (ht : s.svc.transit = []) (hu : s.svc.ueHub = []) : s.firstCrosses l = (s, l) := by
  unfold State.firstCrosses
  split
  · rw [State.crossLinks_clear ht hu]
  · rfl

/-- When no grain fails every one of them is written, in order. -/
theorem map_ok_written {c : Nat} (h : firstError l = none) {i : Nat} : (written c false i l).map Except.ok = l := by
  induction l generalizing i with
  | nil => rfl
  | cons x l ih =>
    cases x with
    | error e => cases h
    | ok t => exact congrArg (Except.ok t :: ·) (ih h)

/-- The grains written are no more than there are. -/
theorem length_written_le {c : Nat} {failed : Bool} {i : Nat} : (written c failed i l).length ≤ l.length := by
  induction l generalizing i with
  | nil => exact Nat.le_refl _
  | cons x l ih =>
    cases x with
    | error e => exact Nat.le_succ_of_le ih
    | ok t =>
      unfold written
      split
      · exact Nat.succ_le_succ ih
      · exact Nat.le_succ_of_le ih

/-- When a grain fails not all are written. -/
theorem length_written_lt {c : Nat} {failed : Bool} {e : Args} (h : firstError l = some e) {i : Nat} : (written c failed i l).length < l.length := by
  induction l generalizing i with
  | nil => cases h
  | cons x l ih =>
    cases x with
    | error e => exact Nat.lt_succ_of_le (length_written_le (l := l) (i := i + 1))
    | ok t =>
      unfold written
      split
      · exact Nat.succ_lt_succ (ih h)
      · exact Nat.lt_succ_of_lt (ih h)

theorem State.finish_done {ch : ChannelIx} {f : Nat} {q : QDesc} {put : List Transfer → State → State} (ht : s.svc.transit = []) (hu : s.svc.ueHub = [])
    (h : firstError l = none) :
    s.finish ch f q l put = (put (written s.freeCtr false 0 l) { s with freeCtr := s.freeCtr + 1 }).descDone ch f q (written s.freeCtr false 0 l).length := by
  unfold State.finish
  rw [State.firstCrosses_clear ht hu]
  dsimp only
  rw [h]
  rfl

theorem State.finish_fails {ch : ChannelIx} {f : Nat} {q : QDesc} {put : List Transfer → State → State} {e : Args} (ht : s.svc.transit = []) (hu : s.svc.ueHub = [])
    (h : firstError l = some e) :
    s.finish ch f q l put = (put (written s.freeCtr true 0 l) { s with freeCtr := s.freeCtr + 1 }).descFails ch f q (written s.freeCtr true 0 l).length e := by
  unfold State.finish
  rw [State.firstCrosses_clear ht hu]
  dsimp only
  rw [h]
  rfl

end

/-- What is written of a list of places that all pass. -/
theorem getD_written {α : Type} {xs : List α} {g : α → Except Args Transfer} {c : Nat} (h : firstError (xs.map g) = none) :
    (written c false 0 (xs.map g)).length = xs.length
    ∧ ∀ (d : α) (t : Transfer) (i : Nat), i < xs.length → g (xs.getD i d) = .ok ((written c false 0 (xs.map g)).getD i t) := by
  have hm := map_ok_written (c := c) h (i := 0)
  have hlen : (written c false 0 (xs.map g)).length = xs.length := by simpa using congrArg List.length hm
  refine ⟨hlen, fun d t i hi => ?_⟩
  have hg := congrArg (fun l => l[i]?) hm
  simp only [List.getElem?_map, List.getElem?_eq_getElem (hlen.symm ▸ hi : i < _), List.getElem?_eq_getElem hi, Option.map_some, Option.some.injEq] at hg
  rw [List.getD_eq_getElem _ _ hi, List.getD_eq_getElem _ _ (hlen.symm ▸ hi), hg]

section
variable {s : State} {f : Nat} {q : QDesc} {ch : ChannelIx}

/-- A running descriptor of the pannier mover whose addresses are in reach ends (R103). -/
theorem State.descEnds_pannier (hq : (s.queue .pannier f).running .pannier = some q) (hr : s.inReach .pannier f q = true) : s.descEnds .pannier f = s.moveDone f q := by
  unfold State.descEnds
  rw [hq]
  exact if_neg (by simp [hr])

theorem State.descEnds_hostCopy (hq : (s.queue .hostCopy f).running .hostCopy = some q) (hr : s.inReach .hostCopy f q = true) (hl : s.host.link = .l0) :
    s.descEnds .hostCopy f = s.hostCopyDone f q := by
  unfold State.descEnds
  rw [hq]
  exact (if_neg (by simp [hr])).trans (if_pos hl)

theorem State.moveDone_done (ht : s.svc.transit = []) (hu : s.svc.ueHub = [])
    (h : firstError ((List.range (parsePannier q.bytes).count).map (moveGrain s f (parsePannier q.bytes) q.early)) = none) {w : List Transfer}
    (hw : w = written s.freeCtr false 0 ((List.range (parsePannier q.bytes).count).map (moveGrain s f (parsePannier q.bytes) q.early))) :
    s.moveDone f q = State.descDone { s with freeCtr := s.freeCtr + 1, mem := w.foldl (fun m t => m.moverStore f s.rst.pannierFilled t) s.mem } .pannier f q w.length := by
  subst hw
  unfold State.moveDone
  exact State.finish_done ht hu h

theorem State.moveDone_fails {e : Args} (ht : s.svc.transit = []) (hu : s.svc.ueHub = [])
    (h : firstError ((List.range (parsePannier q.bytes).count).map (moveGrain s f (parsePannier q.bytes) q.early)) = some e) {w : List Transfer}
    (hw : w = written s.freeCtr true 0 ((List.range (parsePannier q.bytes).count).map (moveGrain s f (parsePannier q.bytes) q.early))) :
    s.moveDone f q = State.descFails { s with freeCtr := s.freeCtr + 1, mem := w.foldl (fun m t => m.moverStore f s.rst.pannierFilled t) s.mem } .pannier f q w.length e := by
  subst hw
  unfold State.moveDone
  exact State.finish_fails ht hu h

theorem State.hostCopyDone_done (ht : s.svc.transit = []) (hu : s.svc.ueHub = []) (hf : (parseHostCopy q.bytes).flag = true) {ps : List (Nat × Nat)}
    (hps : ps = grainPieces (parseHostCopy q.bytes).dst (parseHostCopy q.bytes).count)
    (h : firstError (ps.map (toHostPiece s f (parseHostCopy q.bytes) q.early)) = none) {w : List Transfer}
    (hw : w = written s.freeCtr false 0 (ps.map (toHostPiece s f (parseHostCopy q.bytes) q.early))) :
    s.hostCopyDone f q = State.descDone (State.toHost f w { s with freeCtr := s.freeCtr + 1 }) .hostCopy f q w.length := by
  subst hw hps
  exact (if_pos hf).trans (State.finish_done ht hu h)

/-- A fence ends once it is the oldest (R107). -/
theorem State.fenceDone_pannier {l : List QDesc} (hq : (s.queue .pannier f).descs = q :: l) (hh : (s.queue .pannier f).halted = false) (hst : q.started = true)
    (hf : (parsePannier q.bytes).fence = true) (hk : (parsePannier q.bytes).kind ≠ 2 ∨ s.host.link = .l0) :
    s.fenceDone .pannier f = State.descDone { s with mem := s.mem.filled f } .pannier f q 0 := by
  have hgo : ¬ ((s.queue .pannier f).halted || !q.started || !(parseDesc .pannier q.bytes).fence
      || ((parseDesc .pannier q.bytes).kind == 2 && s.host.link != .l0)) = true := by
    obtain hk | hl := hk
    · simp [parseDesc, hh, hst, hf, hk]
    · simp [parseDesc, hh, hst, hf, hl]
  unfold State.fenceDone
  dsimp only
  rw [hq]
  exact if_neg hgo

/-- A host request that fails ends the barrier that asked for it (R355). -/
theorem State.hostError_barrier {k at_ : Nat} {a : W64} {err : HostError} (hq : ((s.queue .hostCopy f).descs.filter (fun q => q.started))[k]? = some q)
    (hh : (s.queue .hostCopy f).halted = false) (hk : (parseHostCopy q.bytes).kind = 2) (ha : (s.queue .hostCopy f).lastHost = some a) :
    s.hostError f k at_ err = State.descFails s .hostCopy f q 0 { status := stTranslation, detail := hostErrorCode err, address := a.toNat % 2 ^ 62 } := by
  have hfail : (s.queue .hostCopy f).failsAt (parseHostCopy q.bytes) at_ = some a.toNat := by
    simp [ChanQueue.failsAt, hk, ha]
  have hbefore : s.beforeError f q = (s, 0) := by
    unfold State.beforeError
    exact if_pos (by omega)
  unfold State.hostError
  dsimp only
  rw [hq, hh]
  dsimp only
  rw [if_neg (by simp), hfail]
  dsimp only
  rw [hbefore]

/-- What a queue of the pannier mover holds once it was written. -/
theorem State.queue_setQueue_pannier {x : ChanQueue} (h : twf {} s.mem.movers = true) : (s.setQueue .pannier f x).queue .pannier f = x := tget_tset_same h

theorem State.queue_setQueue_pannier_ne {x : ChanQueue} {g : Nat} (h : twf {} s.mem.movers = true) (hg : g ≠ f) :
    (s.setQueue .pannier f x).queue .pannier g = s.queue .pannier g := tget_tset_ne h hg

/-- The end of a descriptor touches the mover's queues only in taking the descriptor from its own. -/
theorem State.descDone_queue {n g : Nat} : (s.descDone .pannier f q n).queue .pannier g = (s.setQueue .pannier f ((s.queue .pannier f).drop q)).queue .pannier g := by
  unfold State.descDone
  dsimp only
  split <;> split <;> rfl

theorem State.descFails_queue {n g : Nat} {e : Args} : (s.descFails .pannier f q n e).queue .pannier g
    = (s.setQueue .pannier f { (s.queue .pannier f).drop q with halted := true, haltedMem := e.status == stUncorrectable }).queue .pannier g := by
  unfold State.descFails State.noteBad
  split <;> rfl

/-- Posting keeps what the queue holds and its halt. -/
theorem ChanQueue.post_frame {x : ChanQueue} {l : List (List Byte)} :
    (x.post l).descs.map (fun d => d.bytes) = x.descs.map (fun d => d.bytes) ++ l ∧ (x.post l).halted = x.halted := by
  unfold ChanQueue.post
  induction l generalizing x with
  | nil => exact ⟨(List.append_nil _).symm, rfl⟩
  | cons b l ih =>
    obtain ⟨hd, hh⟩ := ih (x := { x with descs := x.descs ++ [{ bytes := b, ordinal := x.posted }], posted := x.posted + 1 })
    refine ⟨hd.trans ?_, hh⟩
    simp

theorem postRow_ok {r : Req} (h : (s.queue ch r.fn).descs.length + r.u32 0 % 16 ≤ 256) :
    postRow ch r s = (s.setQueue ch r.fn ((s.queue ch r.fn).post (r.entries 16 32 (r.u32 0 % 16))), {}) := if_neg (Nat.not_lt.mpr h)

theorem postRow_full {r : Req} (h : 256 < (s.queue ch r.fn).descs.length + r.u32 0 % 16) : postRow ch r s = (s, { status := stBusy }) := if_pos h

theorem resumeRow_ok {r : Req} (hh : (s.queue (chanOf (r.u32 0)) (r.u32 4)).halted = true)
    (hm : r.fn = 0 ∨ (s.queue (chanOf (r.u32 0)) (r.u32 4)).haltedMem = false) : resumeRow r s =
    (s.setQueue (chanOf (r.u32 0)) (r.u32 4) { s.queue (chanOf (r.u32 0)) (r.u32 4) with
      halted := false, haltedMem := false, descs := if bit (r.u32 8) 0 then [] else (s.queue (chanOf (r.u32 0)) (r.u32 4)).descs }, {}) := by
  unfold resumeRow
  dsimp only
  rw [if_neg (by simp [hh]), if_neg (by obtain hm | hm := hm <;> simp [hm])]

/-- What is read early is what a read of its place answers (R103). -/
theorem State.mem_earlyReads {d : RDesc} {x : Nat × List Byte} (h : x ∈ s.earlyReads ch f d) :
    ∃ n : Nat, readPiece s.mem s.pages f (ch == .pannier && d.flag) (x.1, n) = .ok x.2 := by
  obtain ⟨y, -, hy⟩ := List.mem_filterMap.mp h
  split at hy
  · split at hy
    · next bs hbs =>
      cases hy
      exact ⟨y.2, hbs⟩
    · cases hy
  · cases hy

/-- A descriptor starts when its counter allows (R177). -/
theorem State.descStart_begins (hq : (s.queue ch f).startable ch = some q) (hw : (s.ctxOf f).startsWork = true)
    (hr : startRefusal ch f (s.ctxOf f) (parseDesc ch q.bytes) = none)
    (hs : (parseDesc ch q.bytes).startEn = false ∨ s.share.ctrBad 0 (4096 + (parseDesc ch q.bytes).startCtr) = false
      ∧ (s.share.ctr 0 (4096 + (parseDesc ch q.bytes).startCtr) - BitVec.ofNat 32 (parseDesc ch q.bytes).startThr).toNat < 2 ^ 31) :
    s.descStart ch f = s.descBegins ch f q := by
  have hbad : ¬ ((parseDesc ch q.bytes).startEn && s.share.ctrBad 0 (4096 + (parseDesc ch q.bytes).startCtr)) = true := by
    obtain hs | ⟨hb, -⟩ := hs
    · simp [hs]
    · simp [hb]
  have hmeets : ¬ ((parseDesc ch q.bytes).startEn
      && !meets (s.share.ctr 0 (4096 + (parseDesc ch q.bytes).startCtr)) (BitVec.ofNat 32 (parseDesc ch q.bytes).startThr)) = true := by
    obtain hs | ⟨-, hm⟩ := hs
    · simp [hs]
    · simp only [meets, decide_eq_true hm]
      simp
  unfold State.descStart
  rw [hq]
  dsimp only
  rw [if_neg (by simp [hw]), hr]
  dsimp only
  rw [if_neg hbad, if_neg hmeets]

theorem State.descStart_refused {st : Nat} (hq : (s.queue ch f).startable ch = some q) (hw : (s.ctxOf f).startsWork = true)
    (hr : startRefusal ch f (s.ctxOf f) (parseDesc ch q.bytes) = some st) : s.descStart ch f = s.descFails ch f q 0 { status := st } := by
  unfold State.descStart
  rw [hq]
  dsimp only
  rw [if_neg (by simp [hw]), hr]

/-- The channels that start descriptors of their own accord. -/
theorem next_moverDescriptorStart {g : Fn} {t : State} (hc : Clocked s) (hch : ch ≠ .collective) (h : s.descStart ch g = t) : exec (.moverDescriptorStart ch g) s = .next t := by
  cases ch with
  | pannier => exact next_clocked hc h
  | hostCopy => exact next_clocked hc h
  | collective => exact absurd rfl hch

end

/-- Settles O25. -/
theorem channelDescriptorsEnd : Obligations.channel_descriptors_end := by
  refine ⟨⟨⟨fun s f q hc hq hr ht hu he => ?move, fun s f q e hc hq hr ht hu he => ?moveFails, fun s f q hc hl hq hfl hr ht hu he => ?copy,
      fun s f q l hc hq hh hst hf hk => next_clocked hc (State.fenceDone_pannier hq hh hst hf hk),
      fun s f k at_ q a err hc hq hh hk ha => next_clocked hc (State.hostError_barrier hq hh hk ha), rfl, rfl, rfl, rfl⟩,
      fun s f q n e hw => ?queue⟩, fun s f m h hn => ?post, fun s f m h hn => congrArg Host.Outcome.next (serve_refused_of_admitted h (postRow_full hn) (by decide)),
    fun s f m h hn => ?hostPost, fun s f m ch g h hch hg hf hh hm => ?resume, fun s f m h hf hg => ?foreign,
    fun s ch f q hc hch hq hw hr hs => ⟨_, next_moverDescriptorStart hc hch (State.descStart_begins hq hw hr hs), fun x hx => State.mem_earlyReads hx⟩,
    fun s ch f q st hc hch hq hw hr => next_moverDescriptorStart hc hch (State.descStart_refused hq hw hr)⟩
  case move =>
    obtain ⟨hlen, hget⟩ := getD_written (c := s.freeCtr) he
    rw [List.length_range] at hlen hget
    refine ⟨_, next_clocked hc ((State.descEnds_pannier hq hr).trans (State.moveDone_done ht hu he rfl)), hlen, fun i hi => ?_⟩
    have hi' : i < (parsePannier q.bytes).count := hlen ▸ hi
    have hok := hget 0 { data := [], dst := 0 } i hi'
    rwa [List.getD_eq_getElem _ _ (by simpa using hi'), List.getElem_range] at hok
  case moveFails =>
    refine ⟨_, _, next_clocked hc ((State.descEnds_pannier hq hr).trans (State.moveDone_fails ht hu he rfl)), ?_, rfl, rfl⟩
    simpa using length_written_lt (c := s.freeCtr) (failed := true) he (i := 0)
  case copy =>
    obtain ⟨hlen, hget⟩ := getD_written (c := s.freeCtr) he
    refine ⟨_, next_clocked hc ((State.descEnds_hostCopy hq hr hl).trans (State.hostCopyDone_done ht hu hfl rfl he rfl)), hlen, fun i hi => ?_⟩
    exact hget _ _ i (hlen ▸ hi)
  case queue =>
    have hdone : (s.descDone .pannier f q n).queue .pannier f = (s.queue .pannier f).drop q :=
      State.descDone_queue.trans (State.queue_setQueue_pannier hw)
    have hfails : (s.descFails .pannier f q n e).queue .pannier f = { (s.queue .pannier f).drop q with halted := true, haltedMem := e.status == stUncorrectable } :=
      State.descFails_queue.trans (State.queue_setQueue_pannier hw)
    refine ⟨by rw [hdone]; rfl, by rw [hdone]; rfl, by rw [hfails]; rfl, by rw [hfails], by rw [hfails]; rfl, fun g hg => ?_⟩
    exact State.descFails_queue.trans (State.queue_setQueue_pannier_ne hw (Fin.val_ne_of_ne hg))
  case post =>
    obtain ⟨hd, hh⟩ := ChanQueue.post_frame (x := s.queue .pannier f) (l := (s.ctl.req f m).entries 16 32 ((s.ctl.req f m).u32 0 % 16))
    exact ⟨_, congrArg Host.Outcome.next (serve_of_admitted h (postRow_ok hn) rfl), hd, hh⟩
  case hostPost =>
    obtain ⟨hd, hh⟩ := ChanQueue.post_frame (x := s.queue .hostCopy f) (l := (s.ctl.req f m).entries 16 32 ((s.ctl.req f m).u32 0 % 16))
    exact ⟨_, congrArg Host.Outcome.next (serve_of_admitted h (postRow_ok hn) rfl), hd, hh⟩
  case resume =>
    subst hch hg
    exact congrArg Host.Outcome.next (serve_of_admitted h (resumeRow_ok hh hm) rfl)
  case foreign =>
    obtain ⟨ht, hcode, hl⟩ := h
    refine congrArg Host.Outcome.next (serve_refused ht hcode (refusal_of_not_permitted hl ?_))
    have h0 : ((s.ctl.req f m).fn == 0) = false := beq_eq_false_iff_ne.mpr hf
    have hg' : ((s.ctl.req f m).u32 4 % 16 == (s.ctl.req f m).fn) = false := beq_eq_false_iff_ne.mpr hg
    simp [resumeForm, h0, hg']

end Sys2Proof.Machine
end

section
/-! PROOFS. Gears and their admission (O26). -/

namespace Sys2Proof.Machine

open Sys2Proof.Safety

theorem firstOf_none {l : List Nat} (h : firstOf l = none) : l = [] := by
  cases l with
  | nil => rfl
  | cons a l =>
    unfold firstOf at h
    split at h <;> cases h

/-- A command that passes its checks has every word in its range (Table 15.4). -/
theorem range_of_admitted {s : State} {f : Fn} {m : Mb} {form : CmdForm} (h : Admitted form s f m) : form.range (s.ctl.req f m) = [] := by
  obtain ⟨-, -, hr⟩ := h
  unfold CmdForm.refusal at hr
  split at hr
  · cases hr
  · split at hr
    · cases hr
    · split at hr
      · cases hr
      · next hf => exact (List.append_eq_nil_iff.mp (firstOf_none hf)).2

theorem lt_of_mem_bitsOf {w x c : Nat} (h : c ∈ bitsOf w x) : c < w := List.mem_range.mp (List.mem_filter.mp h).1

section
variable {s : State} {c : Nat}

theorem State.modClock_core {f : CoreClock → CoreClock} (h : c < 256) : s.modClock c f = s.modCore c (fun k => { k with clock := f k.clock }) := if_pos h

/-- What a clock's record is changed with leaves the dies' records and the time. -/
theorem State.modClock_dies {f : CoreClock → CoreClock} : (s.modClock c f).clocks.dies = s.clocks.dies ∧ (s.modClock c f).now = s.now := by
  unfold State.modClock
  split <;> exact ⟨rfl, rfl⟩

theorem gearRow_one {q : Req} (h : bitsOf 256 (leNat (q.params.take 32)) = [c]) :
    gearRow q s = ((s.modCore c (fun k => { k with clock := { k.clock with driverGear := BitVec.ofNat 4 (q.u32 0x20) } })).retarget c, {}) := by
  have hc : c < 256 := lt_of_mem_bitsOf (h ▸ List.mem_singleton_self c)
  unfold gearRow
  rw [h]
  exact congrArg (fun t => (State.retarget t c, ({} : Answer))) (State.modClock_core hc)

theorem State.changeDone_at {s1 : State} {g t : Nat} (h : (s.clockOf c).change = some (g, t)) (h1 : s1 = (s.upTo t).modClock c (fun k => { k with change := none })) :
    s.changeDone c = (State.retarget (if c < 256 then s1.modCore c (fun k => { k with boundaryAt := if k.run.isNone then max k.boundaryAt t else k.boundaryAt }) else s1)
      c).lowerVolts (clockDie c) := by
  unfold State.changeDone
  rw [h, h1]

theorem State.wakeDone_at {s1 : State} {g t : Nat} (h : (s.clockOf c).waking = some (g, t))
    (h1 : s1 = (s.upTo t).modClock c (fun k => { k with gear := BitVec.ofNat 4 g, waking := none, idleSince := max s.now t })) :
    s.wakeDone c = State.retarget (if c < 256 then s1.modCore c (fun k => { k with boundaryAt := max k.boundaryAt t }) else s1) c := by
  unfold State.wakeDone
  rw [h, h1]
  rfl

end

section
variable {s : State} {d i : Nat}

/-- A cluster without a waiter is passed over (R369). -/
theorem State.admitSteps_skip {l : List Nat} (h : s.waiters (4 * d + i) = []) : State.admitSteps d (i :: l) s = State.admitSteps d l s := by
  simp [State.admitSteps, h]

/-- A lone waiter whose steps fit is admitted (R369, R370). -/
theorem State.admitSteps_one {c g n : Nat} (h : s.waiters (4 * d + i) = [(c, g, n)]) (hn : (s.clocks.die d).admitted s.now + n ≤ 256) :
    State.admitSteps d [i] s = { s.admitCore c g with clocks := (s.admitCore c g).clocks.modDie d (fun k => { k with
      admits := k.recent (s.admitCore c g).now ++ [((s.admitCore c g).now, n)], lastCluster := i }) } := by
  unfold State.admitSteps
  dsimp only
  rw [h]
  exact if_pos (by simpa using hn)

/-- Where the list of admissions with one more is the list before, the one is there already and has gone: it cannot be. -/
theorem DieClock.recent_ne {k : DieClock} {t n : Nat} : k.recent t ++ [(t, n)] ≠ k.admits := by
  intro h
  have hkeep : k.recent t = k.admits := by
    refine List.filter_eq_self.mpr fun a ha => ?_
    rw [← h] at ha
    obtain ha | ha := List.mem_append.mp ha
    · exact (List.mem_filter.mp ha).2
    · obtain rfl := List.mem_singleton.mp ha
      exact decide_eq_true (Nat.lt_add_of_pos_right (by decide))
  have hlen := congrArg List.length h
  rw [hkeep] at hlen
  simp at hlen

/-- With nobody waiting a pass admits nobody. -/
theorem State.admitPass_idle (h : ∀ i < 4, s.waiters (4 * d + i) = []) : s.admitPass d = s := by
  have skip {x : Nat} {l : List Nat} : State.admitSteps d (x % 4 :: l) s = State.admitSteps d l s := State.admitSteps_skip (h _ (Nat.mod_lt _ (by decide)))
  unfold State.admitPass
  simp only [List.range_succ, List.range_zero, List.nil_append, List.map_append, List.map_cons, List.map_nil, List.cons_append, skip]
  rfl

theorem State.admissionWindow_idle (h : ∀ i < 4, s.waiters (4 * d + i) = []) : s.admissionWindow d = s := by
  have hall : (List.range 4).all (fun i => (s.waiters (4 * d + i)).isEmpty) = true :=
    List.all_eq_true.mpr fun i hi => by rw [h i (List.mem_range.mp hi)]; rfl
  unfold State.admissionWindow State.admission
  dsimp only
  rw [State.admitPass_idle h, hall, Bool.or_true]
  rfl

/-- The only waiter stands in the cluster served last, which a pass comes to last. -/
theorem State.admitPass_last {c g n : Nat} (hi : i = (s.clocks.die d).lastCluster) (hi4 : i < 4) (h : s.waiters (4 * d + i) = [(c, g, n)])
    (ho : ∀ j < 4, j ≠ i → s.waiters (4 * d + j) = []) (hn : (s.clocks.die d).admitted s.now + n ≤ 256) :
    s.admitPass d = { s.admitCore c g with clocks := (s.admitCore c g).clocks.modDie d (fun k => { k with
      admits := k.recent (s.admitCore c g).now ++ [((s.admitCore c g).now, n)], lastCluster := i }) } := by
  have hlast : (i + 1 + 3) % 4 = i := by omega
  unfold State.admitPass
  rw [← hi]
  simp only [List.range_succ, List.range_zero, List.nil_append, List.map_append, List.map_cons, List.map_nil, List.cons_append]
  rw [State.admitSteps_skip (ho _ (by omega) (by omega)), State.admitSteps_skip (ho _ (by omega) (by omega)), State.admitSteps_skip (ho _ (by omega) (by omega)), hlast]
  exact State.admitSteps_one h hn

theorem ClockState.die_modDie_of_ne {k : ClockState} {f : DieClock → DieClock} (h : f (k.die d) ≠ {}) : (k.modDie d f).die d = f (k.die d) := tget_tset_of_ne h

/-- A sleeping clock that waits alone is woken (R368, R369). -/
theorem State.admissionWindow_wakes {s1 : State} {c g n : Nat} (hi : i = (s.clocks.die d).lastCluster) (hi4 : i < 4) (h : s.waiters (4 * d + i) = [(c, g, n)])
    (ho : ∀ j < 4, j ≠ i → s.waiters (4 * d + j) = []) (hg : (s.clockOf c).gear = 0)
    (hn : (((s.clocks.die d).admits.filter (fun a => decide (s.now < a.1 + 100 * nsTicks))).map (fun a => a.2)).sum + n ≤ 256)
    (h1 : s1 = s.modClock c (fun k => { k with waiting := false, waking := some (g, s.now + 200 * nsTicks) })) :
    s.admissionWindow d = { s1 with clocks := s1.clocks.modDie d (fun k => { k with
      admits := k.admits.filter (fun a => decide (s.now < a.1 + 100 * nsTicks)) ++ [(s.now, n)], lastCluster := i }) } := by
  have hcore : s.admitCore c g = s1 := (if_pos hg).trans h1.symm
  obtain ⟨hdies, hnow⟩ := State.modClock_dies (s := s) (c := c) (f := fun k => { k with waiting := false, waking := some (g, s.now + 200 * nsTicks) })
  rw [← h1] at hdies hnow
  have hpass := State.admitPass_last hi hi4 h ho hn
  rw [hcore, hnow] at hpass
  have hchanged : ((s.admitPass d).clocks.die d).admits ≠ (s.clocks.die d).admits := by
    have hdie : s1.clocks.die d = s.clocks.die d := by rw [ClockState.die, hdies, ClockState.die]
    have hnew : ∀ k : DieClock, ({ k with admits := k.recent s.now ++ [(s.now, n)], lastCluster := i } : DieClock) ≠ {} := fun k h =>
      absurd (congrArg DieClock.admits h) (by simp)
    rw [hpass, ClockState.die_modDie_of_ne (hnew _), hdie]
    exact DieClock.recent_ne
  unfold State.admissionWindow State.admission
  dsimp only
  rw [if_pos (by simp [hchanged]), hpass]
  rfl

end

section
variable {s : State} {c : Nat}

/-- A core's gear is under the cap that stands for it (R366). -/
theorem State.targetGear_le_capOf : s.targetGear c ≤ s.capOf c := by
  unfold State.targetGear
  split
  · exact Nat.min_le_right _ _
  · exact Nat.le_refl _

theorem State.targetGear_le_plan {r : RunBlock} (hc : c < 256) (hr : (s.core c).run = some r) : s.targetGear c ≤ (parseHeader r.image).planGear := by
  unfold State.targetGear
  rw [if_pos hc, CoreState.plan, hr]
  exact Nat.min_le_left _ _

theorem State.targetGear_of_no_plan (h : (s.core c).plan = none) : s.targetGear c = s.capOf c := by
  unfold State.targetGear
  rw [h, ite_self]

end

/-- Settles O26. -/
theorem gearsAndAdmission : Obligations.gears_and_admission := by
  refine ⟨⟨fun s f m c h hc => congrArg Host.Outcome.next (serve_of_admitted h (gearRow_one hc) rfl), fun s f m h => ?envelope,
    fun s s1 c g t hc hch h1 => next_clocked hc (State.changeDone_at hch h1), fun s s1 c g t hc hw h1 => next_clocked hc (State.wakeDone_at hw h1),
    fun s d hc h => next_clocked hc (State.admissionWindow_idle h),
    fun s s1 d i c g n hc hi hi4 h ho hg hn h1 => next_clocked hc (State.admissionWindow_wakes hi hi4 h ho hg hn h1)⟩, fun s c => ?caps⟩
  case envelope =>
    have hr := range_of_admitted h
    have hin : ¬ ((s.ctl.req f m).u32 0 < 450 ∨ 700 < (s.ctl.req f m).u32 0) := fun hb => by simp [envelopeForm, hb] at hr
    exact ⟨by omega, by omega, congrArg Host.Outcome.next (serve_of_admitted h rfl rfl)⟩
  case caps =>
    have hcap := s.targetGear_le_capOf (c := c)
    have hpower : (s.clocks.die (clockDie c)).powerCap.toNat ≤ 15 := Nat.le_of_lt_succ (BitVec.isLt _)
    unfold State.capOf at hcap
    simp only [le_inf_iff] at hcap
    obtain ⟨⟨hdriver, htrim⟩, ⟨⟨hp, hvolt⟩, hmem⟩, hjunction⟩ := hcap
    refine ⟨hdriver, htrim, hp, hmem, hjunction, fun g hg => ?_, fun r hc hr => State.targetGear_le_plan hc hr, fun hplan hv => ?_⟩
    · rwa [hg] at hvolt
    · rw [State.targetGear_of_no_plan hplan, State.capOf, hv, Option.getD_none, Nat.min_eq_left hpower]

end Sys2Proof.Machine
end

section
/-! PROOFS. What running a block leaves of the device round it. -/

namespace Sys2Proof.Machine

/-- The parts of the device that no block's work reaches. -/
def State.outer (s : State) : Nat × ClockState × ResetState × SvcState × FabricState × Tab CodecEngine × Tab StemEngine × SecState :=
  (s.now, s.clocks, s.rst, s.svc, s.fabric, s.codecs, s.stems, s.sec)

/-- The parts that no block's work reaches are `o`. -/
def State.HasOuter (o : Nat × ClockState × ResetState × SvcState × FabricState × Tab CodecEngine × Tab StemEngine × SecState) (s : State) : Prop := s.outer = o

namespace State.HasOuter
variable {s t : State} {b : Nat} {o : Nat × ClockState × ResetState × SvcState × FabricState × Tab CodecEngine × Tab StemEngine × SecState}

theorem of_eq (h : s.HasOuter o) (he : t.outer = s.outer := by rfl) : t.HasOuter o := he.trans h

theorem each {α : Type} {l : List α} {f : α → State → State} (h : s.HasOuter o) (hf : ∀ a t, t.HasOuter o → (f a t).HasOuter o) :
    (Sys2Proof.Machine.each l f s).HasOuter o := each_induct hf h

theorem modCore {f : CoreState → CoreState} (h : s.HasOuter o) : (s.modCore b f).HasOuter o := h

theorem modRun {f : RunBlock → RunBlock} (h : s.HasOuter o) : (s.modRun b f).HasOuter o := h

theorem meetsWord {a : SramArray} (h : s.HasOuter o) : (s.meetsWord b a).HasOuter o := by
  unfold State.meetsWord
  split
  · exact h
  · exact h

theorem touchPages {fn : Nat} {gs : List MGrain} (h : s.HasOuter o) : (s.touchPages b fn gs).HasOuter o :=
  h.each fun a t ht => by
    split
    · exact ht.of_eq
    · exact ht

theorem catchEnding {d : MDesc} {e : Option Ending} (h : s.HasOuter o) : (s.catchEnding b d e).HasOuter o := by
  unfold State.catchEnding
  split
  · exact h
  · exact h

theorem readGrain {d : MDesc} {i : Nat} (h : s.HasOuter o) : (s.readGrain b d i).1.HasOuter o := by
  unfold State.readGrain
  dsimp only
  split
  · exact h
  · split
    · exact h.meetsWord
    · exact h

theorem codeBlock {d : MDesc} {i k : Nat} (h : s.HasOuter o) : (s.codeBlock b d i k).1.HasOuter o := by
  unfold State.codeBlock
  dsimp only
  split
  · exact h
  · split
    · exact meetsWord (of_eq h)
    · split
      · exact h
      · exact touchPages (of_eq h)

theorem capture {t : Nat} (h : s.HasOuter o) : (s.capture b t).HasOuter o := by
  suffices ∀ n s, HasOuter o s → (State.captureLoop b t n s).HasOuter o from this _ _ h
  intro n
  induction n with
  | zero => exact fun _ h => h
  | succ n ih =>
    intro s h
    unfold State.captureLoop
    split
    · exact ih _ h.readGrain.catchEnding
    · split
      · exact ih _ h.codeBlock.catchEnding
      · exact h

theorem writeDest {mask a t : Nat} {bs : List Byte} (h : s.HasOuter o) : (s.writeDest b mask a t bs).HasOuter o :=
  h.each fun _ _ h1 => h1.capture.of_eq

theorem discardFetch {t : Nat} {d : MDesc} (h : s.HasOuter o) : (s.discardFetch b t d).HasOuter o :=
  ((h.each fun _ _ h1 => h1.writeDest).each fun _ _ h1 => h1.writeDest)

theorem dropMover {t block : Nat} (h : s.HasOuter o) : (s.dropMover b t block).HasOuter o :=
  (((h.each fun _ _ h1 => h1.discardFetch).each fun _ _ h1 => h1))

theorem finishDescs (h : s.HasOuter o) : (s.finishDescs b).HasOuter o := by
  unfold State.finishDescs
  dsimp only
  split
  · exact h
  · refine each (of_eq h) fun a t ht => ?_
    split
    · exact ht
    · exact ht

theorem noteEnding {e : Ending} (h : s.HasOuter o) : (s.noteEnding e).HasOuter o := by
  unfold State.noteEnding
  split <;> exact h

theorem writePhys {f a : Nat} {bs : List Byte} (h : s.HasOuter o) : (s.writePhys f a bs).HasOuter o := by
  unfold State.writePhys
  split <;> exact h

theorem writeCode {d : MDesc} {i k size : Nat} {write : Bool} (h : s.HasOuter o) : (s.writeCode b d i k size write).HasOuter o := by
  unfold State.writeCode
  dsimp only
  split
  · exact h
  · split
    · exact writePhys (of_eq h)
    · exact catchEnding (noteEnding (of_eq h))
    · exact h

theorem writeCodes {id i n : Nat} (h : s.HasOuter o) : (State.writeCodes b id i n s).HasOuter o := by
  induction n generalizing s with
  | zero => exact h
  | succ n ih =>
    unfold State.writeCodes
    split
    · exact h
    · split
      · exact h
      · split
        · split
          · exact h
          · exact ih h.writeCode
        · exact h

theorem endBlock {t : Nat} {e : Ending} (h : s.HasOuter o) : (s.endBlock b t e).HasOuter o := by
  unfold State.endBlock
  dsimp only
  split
  · exact h
  · split
    · split
      · exact h
      · exact h
    · refine finishDescs (each ?_ fun _ _ h1 => h1.each fun _ _ h2 => h2.writeCodes)
      have hcharge : (s.chargeCore b t).HasOuter o := h
      exact ((dropMover (of_eq hcharge.capture)).modCore).modRun

theorem dropChain {f id : Nat} (h : s.HasOuter o) : (s.dropChain b f id).HasOuter o := by
  unfold State.dropChain
  split <;> exact h

theorem lateEnding {block : Nat} {e : Ending} (h : s.HasOuter o) : (s.lateEnding b block e).HasOuter o := by
  unfold State.lateEnding
  dsimp only
  split
  · exact h
  · split
    · exact h
    · exact dropChain (of_eq h)

theorem settleCaught {t : Nat} (h : s.HasOuter o) : (s.settleCaught b t).HasOuter o := by
  unfold State.settleCaught
  split
  · exact h
  · have h1 : (s.modCore b (fun k => { k with caught := none })).HasOuter o := h
    unfold State.moverEnding
    split
    · split
      · exact h1.endBlock
      · exact h1.lateEnding
    · exact h1.lateEnding

theorem commit {r : RunBlock} {op pend : Nat} (h : s.HasOuter o) : (s.commit b r op pend).HasOuter o := by
  unfold State.commit
  dsimp only
  split
  · exact h
  · exact of_eq h.capture

theorem runDue {p : Nat} {r : RunBlock} {a : Due} (h : s.HasOuter o) : (s.runDue b p r a).HasOuter o := by
  unfold State.runDue
  dsimp only
  split
  · exact h.commit
  · exact h
  · split <;> exact h
  · split
    · unfold State.issueIter
      dsimp only
      split
      · exact h
      · split
        · exact h
        · split
          · exact h.meetsWord.endBlock
          · exact h
    · exact h

theorem advance {p : Nat} (h : s.HasOuter o) : (s.advance b p).HasOuter o := by
  have loop : ∀ n s, HasOuter o s → (State.advanceLoop b p n s).HasOuter o := by
    intro n
    induction n with
    | zero => exact fun _ h => h
    | succ n ih =>
      intro s h
      unfold State.advanceLoop
      split
      · exact h
      · split
        · exact h
        · split
          · exact h
          · split
            · exact ih _ h.runDue
            · exact h
  unfold State.advance
  dsimp only
  split
  · exact loop _ _ h.settleCaught
  · exact h.settleCaught

theorem settle {t : Nat} (h : s.HasOuter o) : (s.settle b t).HasOuter o := by
  unfold State.settle
  dsimp only
  split
  · exact h.advance.capture.settleCaught
  · exact h.capture.settleCaught

theorem stopCore (h : s.HasOuter o) : (s.stopCore b).HasOuter o := by
  unfold State.stopCore
  split
  · exact of_eq (h.settle (b := b) (t := s.now))
  · exact h

end State.HasOuter

/-- What a core's block does up to a time leaves the rest of the device. -/
theorem State.settle_outer {s : State} {c t : Nat} : (s.settle c t).outer = s.outer := State.HasOuter.settle rfl

theorem State.stopCore_outer {s : State} {c : Nat} : (s.stopCore c).outer = s.outer := State.HasOuter.stopCore rfl

theorem State.clocks_of_outer {s t : State} (h : t.outer = s.outer) : t.clocks = s.clocks := congrArg (fun o => o.2.1) h

end Sys2Proof.Machine
end

section
/-! PROOFS. The kettle, the snapshot and the thermal trip (O28). -/

namespace Sys2Proof.Machine

open Sys2Proof.Safety

/-- The clocks' records once the kettle has taken a sample at the state's time: the caps, the temperatures, then each die's time under its cap and its voltage (R370 to R374). -/
def State.kettleClocks (s : State) (p : Nat) (a b st j : List Nat) : ClockState :=
  each (List.range 4) (fun d (k : ClockState) =>
    k.modDie d (fun x => ((x.capTime s.now (k.dieCap d)).askVolts (s.rst.gearMv d (k.dieCap d)) (s.clocks.dieCap d) (k.dieCap d) s.now)))
    (({ s.clocks with envelopeNow := s.envelope }.sampleCaps s.envelope p b).sampleTemps p a b st j)

section
variable {s t : State}

/-- Reports of the temperatures that crossed a threshold are written to PF0's ring, and nothing else. -/
theorem State.thermalCrossings_frame {old : ClockState} : ∃ (k : CtlState) (h : HostState), s.thermalCrossings old = { s with ctl := k, host := h } := by
  unfold State.thermalCrossings
  refine each_induct (P := fun t : State => ∃ (k : CtlState) (h : HostState), t = { s with ctl := k, host := h }) ?_
    (each_induct (P := fun t : State => ∃ (k : CtlState) (h : HostState), t = { s with ctl := k, host := h }) ?_ ⟨s.ctl, s.host, rfl⟩)
  · rintro i _ ⟨k, h, rfl⟩
    split
    · exact ⟨_, _, rfl⟩
    · exact ⟨_, _, rfl⟩
  · rintro i _ ⟨k, h, rfl⟩
    refine each_induct (P := fun t : State => ∃ (k : CtlState) (h : HostState), t = { s with ctl := k, host := h }) ?_ ⟨k, h, rfl⟩
    rintro th _ ⟨k, h, rfl⟩
    split
    · exact ⟨_, _, rfl⟩
    · exact ⟨_, _, rfl⟩

theorem State.thermalCrossings_now {old : ClockState} : (s.thermalCrossings old).now = s.now := by
  obtain ⟨k, h, hx⟩ := State.thermalCrossings_frame (s := s) (old := old)
  rw [hx]

theorem State.thermalCrossings_clocks {old : ClockState} : (s.thermalCrossings old).clocks = s.clocks := by
  obtain ⟨k, h, hx⟩ := State.thermalCrossings_frame (s := s) (old := old)
  rw [hx]

theorem State.thermalCrossings_mem {old : ClockState} : (s.thermalCrossings old).mem = s.mem := by
  obtain ⟨k, h, hx⟩ := State.thermalCrossings_frame (s := s) (old := old)
  rw [hx]

theorem State.thermalCrossings_cores {old : ClockState} : (s.thermalCrossings old).cores = s.cores := by
  obtain ⟨k, h, hx⟩ := State.thermalCrossings_frame (s := s) (old := old)
  rw [hx]

theorem State.thermalCrossings_sec {old : ClockState} : (s.thermalCrossings old).sec = s.sec := by
  obtain ⟨k, h, hx⟩ := State.thermalCrossings_frame (s := s) (old := old)
  rw [hx]

/-- A sample of the kettle: the records it takes, then every clock's aim and every die's voltage (R370, R371). -/
theorem State.kettle_eq {p : Nat} {a b st j : List Nat} : ∃ u : State, s.kettle p a b st j = each (List.range 4) (fun d s => s.lowerVolts d) u.retargetAll
    ∧ u.now = max s.now ((s.now / usTicks + 1) * usTicks) ∧ u.clocks = (s.upTo ((s.now / usTicks + 1) * usTicks)).kettleClocks p a b st j
    ∧ u.mem.cells = s.mem.cells ∧ u.cores = s.cores ∧ u.sec = s.sec := by
  unfold State.kettle State.kettleClocks
  refine ⟨_, rfl, ?_, ?_, ?_, ?_, ?_⟩
  · rw [State.thermalCrossings_now]
    rfl
  · rw [State.thermalCrossings_clocks]
  · rw [State.thermalCrossings_mem]
    rfl
  · rw [State.thermalCrossings_cores]
    rfl
  · rw [State.thermalCrossings_sec]
    rfl

section
variable {k : ClockState} {p e : Nat} {a b st j : List Nat}

/-- The records of a sample change in the dies' alone while the voltages are asked for. -/
theorem State.kettleClocks_frame {a : List Nat} : ∃ x : Tab DieClock, s.kettleClocks p a b st j
    = { ({ s.clocks with envelopeNow := s.envelope }.sampleCaps s.envelope p b).sampleTemps p a b st j with dies := x } := by
  unfold State.kettleClocks
  generalize ({ s.clocks with envelopeNow := s.envelope }.sampleCaps s.envelope p b).sampleTemps p a b st j = k0
  exact each_induct (P := fun k : ClockState => ∃ x : Tab DieClock, k = { k0 with dies := x }) (by rintro d _ ⟨x, rfl⟩; exact ⟨_, rfl⟩) ⟨k0.dies, rfl⟩

/-- What a sample takes over (R370, R371). -/
theorem ClockState.sampled {x : Tab DieClock} {c : ClockState} (hc : c = { ({ k with envelopeNow := e }.sampleCaps e p b).sampleTemps p a b st j with dies := x }) :
    c.packageMw = p ∧ c.envelopeNow = e ∧ c.means.samples = k.means.samples + 1 ∧ c.thermtrip = k.thermtrip
    ∧ c.stackNow = each (List.range 20) (fun i t => tset 0 t i (st.getD i 0)) k.stackNow
    ∧ c.junctionNow = each (List.range 16) (fun i t => tset 0 t i (j.getD i 0)) k.junctionNow
    ∧ c.stackHeld = each (List.range 20) (fun i t => tmod 0 t i (fun h => holdTemp h (st.getD i 0))) k.stackHeld
    ∧ c.junctionHeld = each (List.range 16) (fun i t => tmod 0 t i (fun h => holdTemp h (j.getD i 0))) k.junctionHeld := by
  subst hc
  unfold ClockState.sampleTemps ClockState.sampleCaps
  dsimp only
  trivial

/-- The samples below the envelope in a row (R370). -/
theorem ClockState.sampled_underCount {x : Tab DieClock} {c : ClockState} {n : Nat} (hc : c = { ({ k with envelopeNow := e }.sampleCaps e p b).sampleTemps p a b st j with dies := x })
    (hn : (if (decide (100 * p < 95 * 1000 * e) && !(List.range 12).any (railOver b)) = true then k.underCount + 1 else 0) = n) : c.underCount = if 64 ≤ n then 0 else n := by
  subst hc
  unfold ClockState.sampleTemps ClockState.sampleCaps
  dsimp only
  rw [hn]
  simp only [decide_eq_true_eq]

/-- Asking for a voltage leaves the cap. -/
theorem DieClock.powerCap_askVolts {x : DieClock} {mv old new now : Nat} : (x.askVolts mv old new now).powerCap = x.powerCap := by
  unfold DieClock.askVolts DieClock.ask
  split <;> rfl

theorem ClockState.powerCap_each_modDie {l : List Nat} {g : Nat → ClockState → DieClock → DieClock} (hk : twf {} k.dies = true)
    (hg : ∀ d k x, (g d k x).powerCap = x.powerCap) : twf {} (each l (fun d k => k.modDie d (g d k)) k).dies = true
      ∧ ∀ d, ((each l (fun d k => k.modDie d (g d k)) k).die d).powerCap = (k.die d).powerCap := by
  refine each_induct (P := fun t : ClockState => twf {} t.dies = true ∧ ∀ d, (t.die d).powerCap = (k.die d).powerCap) (fun i t ⟨hw, ht⟩ => ⟨twf_tmod hw, fun d => ?_⟩) ⟨hk, fun _ => rfl⟩
  refine .trans ?_ (ht d)
  by_cases hd : d = i
  · subst hd
    exact (congrArg DieClock.powerCap (tget_tmod_same hw)).trans (hg _ _ _)
  · exact congrArg DieClock.powerCap (tget_tmod_ne hw hd)

/-- The caps a sample leaves (R370). -/
theorem State.kettleClocks_powerCap (hw : twf {} s.clocks.dies = true) {d : Nat} (hd : d < 4) : ((s.kettleClocks p a b st j).die d).powerCap
    = BitVec.ofNat 4 (powerCapNext (s.clocks.die d).powerCap.toNat (decide (1000 * s.envelope < p)) (railOver b d)
      (decide (64 ≤ if (decide (100 * p < 95 * 1000 * s.envelope) && !(List.range 12).any (railOver b)) = true then s.clocks.underCount + 1 else 0))) := by
  unfold State.kettleClocks
  refine ((ClockState.powerCap_each_modDie ?_ fun d k x => ?_).2 d).trans ?_
  · exact each_induct (P := fun t : Tab DieClock => twf {} t = true) (fun _ _ h => twf_tmod h) hw
  · exact DieClock.powerCap_askVolts
  · unfold ClockState.die ClockState.sampleTemps ClockState.sampleCaps
    dsimp only
    rw [tget_each_range_tmod hw hd]

end

end

section
variable {s : State} {c d : Nat}

theorem State.modClock_clocks {f : CoreClock → CoreClock} : ∃ x : Tab CoreClock, (s.modClock c f).clocks = { s.clocks with spareClocks := x } := by
  unfold State.modClock
  split
  · exact ⟨s.clocks.spareClocks, rfl⟩
  · exact ⟨_, rfl⟩

/-- A clock's new aim touches the clocks' records in that of a spare alone (R367). -/
theorem State.retarget_clocks : ∃ x : Tab CoreClock, (s.retarget c).clocks = { s.clocks with spareClocks := x } := by
  unfold State.retarget
  dsimp only
  split
  · exact ⟨s.clocks.spareClocks, rfl⟩
  · split
    · exact State.modClock_clocks
    · split
      · obtain ⟨x, hx⟩ := State.modClock_clocks (s := s.stopCore c) (c := c)
          (f := fun k => { k with gear := BitVec.ofNat 4 (s.targetGear c), change := some (s.targetGear c, s.now + 64 * nsTicks), waiting := false })
        exact ⟨x, hx.trans (by rw [State.clocks_of_outer State.stopCore_outer])⟩
      · exact State.modClock_clocks

theorem State.retargetAll_clocks : ∃ x : Tab CoreClock, s.retargetAll.clocks = { s.clocks with spareClocks := x } := by
  refine each_induct (P := fun t : State => ∃ x : Tab CoreClock, t.clocks = { s.clocks with spareClocks := x }) ?_ ⟨s.clocks.spareClocks, rfl⟩
  rintro c t ⟨x, hx⟩
  obtain ⟨y, hy⟩ := State.retarget_clocks (s := t) (c := c)
  exact ⟨y, by rw [hy, hx]⟩

/-- A die asks for a lower voltage in its own record, where its cap stays. -/
theorem State.lowerVolts_clocks : ∃ f : DieClock → DieClock, (∀ k, (f k).powerCap = k.powerCap) ∧ (s.lowerVolts d).clocks = s.clocks.modDie d f
    ∨ (s.lowerVolts d).clocks = s.clocks := by
  unfold State.lowerVolts
  dsimp only
  split
  · refine ⟨_, .inl ⟨fun k => ?_, rfl⟩⟩
    unfold DieClock.ask
    split <;> rfl
  · exact ⟨id, .inr rfl⟩

/-- Every die's voltage is asked for while the caps and the temperatures stay (R426). -/
theorem State.each_lowerVolts_clocks (hw : twf {} s.clocks.dies = true) {l : List Nat} : ∃ x : Tab DieClock, (each l (fun d s => s.lowerVolts d) s).clocks = { s.clocks with dies := x }
    ∧ twf {} x = true ∧ ∀ d, (tget {} x d).powerCap = (s.clocks.die d).powerCap := by
  refine each_induct (P := fun t : State => ∃ x : Tab DieClock, t.clocks = { s.clocks with dies := x } ∧ twf {} x = true ∧ ∀ d, (tget {} x d).powerCap = (s.clocks.die d).powerCap)
    ?_ ⟨s.clocks.dies, rfl, hw, fun _ => rfl⟩
  rintro i t ⟨x, hx, hwx, hcap⟩
  obtain ⟨f, ⟨hf, hi⟩ | hi⟩ := State.lowerVolts_clocks (s := t) (d := i)
  · refine ⟨tmod {} x i f, by rw [hi, hx]; rfl, twf_tmod hwx, fun d => .trans ?_ (hcap d)⟩
    by_cases hd : d = i
    · subst hd
      rw [tget_tmod_same hwx, hf]
    · rw [tget_tmod_ne hwx hd]
  · exact ⟨x, hi.trans hx, hwx, hcap⟩

theorem State.envelope_eq : s.envelope = if s.clocks.brake = true ∧ s.rst.pins.gpioDriven = true then min s.clocks.envelopeW.toNat 450 else s.clocks.envelopeW.toNat := by
  simp [State.envelope]

/-- The first die whose cap is below G15 is reported (R374). -/
theorem State.capReminder_first (hlow : ∀ i < d, (s.clocks.die i).powerCap = 15) (hd : d < 4) (hcap : (s.clocks.die d).powerCap.toNat < 15) : s.capReminder =
    State.thermal { s with now := max s.now s.clocks.reminderAt, clocks := { s.clocks with reminderAt := max s.now s.clocks.reminderAt + 1000 * msTicks } }
      (if (s.clocks.die d).overRail then 3 else 2) d (s.clocks.packageMw / 1000) (s.clocks.die d).powerCap.toNat true := by
  have hfind : (List.range 4).find? (fun d => decide ((s.clocks.die d).powerCap.toNat < 15)) = some d := by
    refine List.find?_range_eq_some.mpr ⟨decide_eq_true hcap, List.mem_range.mpr hd, fun i hi => ?_⟩
    simp [hlow i hi]
  unfold State.capReminder
  rw [hfind]
  rfl

end

/-- The highest of the gears up to `n` whose voltage is no more than `mv`, or G1 (R426). -/
theorem highestGear {f : Nat → Nat} {mv : Nat} (n : Nat) :
    let g := ((List.range n).map (· + 1)).foldl (fun g x => if f x ≤ mv then x else g) 1
    1 ≤ g ∧ g ≤ max 1 n ∧ (g ≠ 1 → f g ≤ mv) ∧ ∀ x, g < x → x ≤ n → mv < f x := by
  induction n with
  | zero => exact ⟨Nat.le_refl _, Nat.le_refl _, fun h => absurd rfl h, fun x h1 h2 => by simp at h1; omega⟩
  | succ n ih =>
    dsimp only at ih ⊢
    obtain ⟨h1, hn, hg, hx⟩ := ih
    rw [List.range_succ, List.map_append, List.foldl_append, List.map_singleton, List.foldl_cons, List.foldl_nil]
    split
    · next hf => exact ⟨by omega, by omega, fun _ => hf, fun x h h' => by omega⟩
    · next hf =>
      refine ⟨h1, by omega, hg, fun x h h' => ?_⟩
      obtain rfl | hlt := Nat.eq_or_lt_of_le h'
      · exact Nat.lt_of_not_le hf
      · exact hx x h (Nat.le_of_lt_succ hlt)

/-- After a thermal trip no mailbox is taken (R373). -/
theorem State.takes_of_thermtrip {s : State} (h : s.clocks.thermtrip = true) {f m : Nat} : s.takes f m = false := by
  simp [State.takes, h]

/-- Settles O28. -/
theorem kettleAndSnapshot : Obligations.kettle_and_snapshot := by
  refine ⟨⟨fun s p a b st j hc hw => ?sample, fun s d hc hlow hcap => ⟨_, next_clocked hc (State.capReminder_first hlow d.isLt hcap), rfl, rfl⟩, fun s low => rfl,
      fun s d hc => ?setpoint, fun s d mv hc h => next_clocked hc (if_pos h), fun s u d mv hc h hu => ?retry, fun s hc => ?snapshot,
      fun s p E n a b st j hc hwd hws hwj hwn hE hn => ?caps, fun u t hw ht => ?volts⟩,
    fun s st j h => ?trip, fun s st j hs hj => ?none, fun s h => ?stopped⟩
  case sample =>
    obtain ⟨u, hk, hnow, hclocks, hcells, hcores, hsec⟩ := State.kettle_eq (s := s) (p := p) (a := a) (b := b) (st := st) (j := j)
    obtain ⟨x, hx⟩ := State.kettleClocks_frame (s := s.upTo ((s.now / usTicks + 1) * usTicks)) (p := p) (a := a) (b := b) (st := st) (j := j)
    obtain ⟨hmw, -, hmeans, htrip, hstack, -, -, -⟩ := ClockState.sampled (hclocks.trans hx)
    refine ⟨u, next_clocked hc hk, hnow, hmw, fun i hi => ?_, hmeans, htrip.trans hc, hcells, hcores, hsec⟩
    rw [hstack]
    exact tget_each_range_tset (x := fun i => st.getD i 0) hw hi
  case setpoint =>
    refine next_clocked hc ?_
    unfold State.setpointReached
    rfl
  case snapshot =>
    refine ⟨_, next_clocked hc rfl, ?_⟩
    unfold State.snapshot snapNext
    exact ⟨rfl, rfl, rfl, rfl, rfl, rfl⟩
  case retry =>
    subst hu
    obtain ⟨h1, h15, hg, hx⟩ := highestGear (f := s.rst.gearMv d) (mv := mv) 15
    exact ⟨_, next_clocked hc (if_neg h), h1, h15, hg, hx⟩
  case caps =>
    obtain ⟨u, hk, hnow, hclocks, hcells, hcores, hsec⟩ := State.kettle_eq (s := s) (p := p) (a := a) (b := b) (st := st) (j := j)
    obtain ⟨x, hx⟩ := State.kettleClocks_frame (s := s.upTo ((s.now / usTicks + 1) * usTicks)) (p := p) (a := a) (b := b) (st := st) (j := j)
    have hE' : (s.upTo ((s.now / usTicks + 1) * usTicks)).envelope = E := State.envelope_eq.trans hE.symm
    have hn' : (if (decide (100 * p < 95 * 1000 * E) && !(List.range 12).any (railOver b)) = true then s.clocks.underCount + 1 else 0) = n := by
      rw [hn]
      refine if_congr ?_ rfl rfl
      simp [railOver]
    rw [hE'] at hx
    obtain ⟨-, henv, -, -, -, hjunction, hstackHeld, hjunctionHeld⟩ := ClockState.sampled (hclocks.trans hx)
    refine ⟨u, next_clocked hc hk, henv, ClockState.sampled_underCount (hclocks.trans hx) hn', fun d c1 c2 hd h1 h2 => ?_, fun i hi => ⟨?_, ?_⟩, fun i hi => ?_⟩
    · have hcap := State.kettleClocks_powerCap (s := s.upTo ((s.now / usTicks + 1) * usTicks)) (p := p) (a := a) (b := b) (st := st) (j := j) hwd hd
      rw [hE'] at hcap
      have hrail : railTenths.getD d 0 = 2200 := by
        interval_cases d <;> rfl
      rw [hclocks, hcap, show (s.upTo ((s.now / usTicks + 1) * usTicks)).clocks = s.clocks from rfl, hn', powerCapNext, railOver, hrail, Nat.mul_comm 16 2200, h2, h1]
      simp only [decide_eq_true_eq, lower]
    · rw [hjunction]
      exact tget_each_range_tset (x := fun i => j.getD i 0) hwn hi
    · rw [hjunctionHeld]
      exact tget_each_range_tmod (f := fun i h => holdTemp h (j.getD i 0)) hwj hi
    · rw [hstackHeld]
      exact tget_each_range_tmod (f := fun i h => holdTemp h (st.getD i 0)) hws hi
  case volts =>
    obtain ⟨y, hy⟩ := State.retargetAll_clocks (s := u)
    obtain ⟨x, hx, -, hcap⟩ := State.each_lowerVolts_clocks (s := u.retargetAll) (l := List.range 4) (by rw [hy]; exact hw)
    rw [← ht, hy] at hx
    rw [hx]
    refine ⟨fun d hd => (hcap d).trans ?_, rfl, rfl, rfl, rfl, rfl⟩
    rw [hy]
    rfl
  case trip =>
    refine congrArg Host.Outcome.next (if_pos ?_)
    simpa using h
  case none =>
    refine congrArg Host.Outcome.next (if_neg ?_)
    simpa using ⟨hs, hj⟩
  case stopped =>
    have stops {g : State → State} : (.next (s.clocked g) : Host.Outcome State Fault Refusal) = .next s := congrArg Host.Outcome.next (clocked_stops h g)
    have passes {f : Fn} {m : Mb} {form : CmdForm} {row : Req → State → State × Answer} :
        (.next (s.serve f m form row) : Host.Outcome State Fault Refusal) = .next s :=
      congrArg Host.Outcome.next (serve_passes (by rw [State.takes_of_thermtrip h]; rfl))
    exact ⟨fun c => ⟨stops, stops, stops, stops, stops, stops, stops⟩, fun c => ⟨stops, stops⟩, fun f m => ⟨passes, passes, passes, passes⟩, stops, stops, fun f => stops⟩

end Sys2Proof.Machine
end

section
/-! PROOFS. Spares (O29) and the errors of the die (O30). -/

namespace Sys2Proof.Machine

open Sys2Proof.Safety

/-- An admitted self-test request is put off and answered so (R332). -/
theorem serve_deferred_of_admitted {s u : State} {f : Fn} {m : Mb} {form : CmdForm} {row : Req → State → State × Answer} {a : Answer} (h : Admitted form s f m)
    (hrow : row (s.ctl.req f m) s = (u, a)) (ha : a.status = stSelftestDeferred) : s.serve f m form row = u.answer f m (s.ctl.req f m) a := by
  obtain ⟨ht, hcode, hr⟩ := h
  simp [State.serve, ht, hcode, hr, hrow, ha, stSelftestDeferred, stAccepted]

section
variable {s : State}

theorem spareSwapRow_ok {q : Req} {c slot : Nat} (hc : c = q.u32 0 % 256) (h : (s.svc.sparesOf (clusterOf c)).spare = some slot) :
    spareSwapRow q s = ((s.modCore c (fun k => k.dueSwap .command)).retarget c, {}) := by
  subst hc
  unfold spareSwapRow
  dsimp only
  rw [h]
  rfl

theorem spareSwapRow_none {q : Req} {c : Nat} (hc : c = q.u32 0 % 256) (h : (s.svc.sparesOf (clusterOf c)).spare = none) :
    spareSwapRow q s = (s, { status := stSpareExhausted }) := by
  subst hc
  unfold spareSwapRow
  dsimp only
  rw [h]
  rfl

/-- A swap asked for by command is made at a boundary with the spare there is (R412). -/
theorem State.applySwap_command {c sp : Nat} (hr : (s.core c).run = none) (hs : (s.core c).swap = some .command) (hsp : (s.svc.sparesOf (clusterOf c)).spare = some sp) :
    s.applySwap c = State.moveCore { s.modCore c (fun k => { k with swap := none }) with
      svc := s.svc.modSpares (clusterOf c) (fun p => { p with map := modAt p.map (c % 16) (fun _ => sp), spare := some (s.svc.slotOf c), spareReady := false }) } c := by
  unfold State.applySwap
  dsimp only
  rw [hr, if_neg (by simp), hs]
  dsimp only
  rw [hsp]
  rfl

/-- A request to scan a stack, or to test a port's spare, waits (R416, R417). -/
theorem steepRow_scan {q : Req} (hk : q.u32 0 % 4 = 3) (hr : s.svc.requests.any (fun r => r.kind == 3 && r.target == q.u32 4) = false) : steepRow q s =
    ({ s with svc := { s.svc with requests := s.svc.requests ++ [{ kind := 3, target := q.u32 4, cmd := q.cmd }] } }, { status := stSelftestDeferred }) := by
  unfold steepRow
  dsimp only
  rw [hk, if_neg (by simp [hr]), if_neg (by simp), if_neg (by simp)]

/-- A new aim of a spare's clock changes the clocks' records alone. -/
theorem State.retarget_spare {cl : Nat} : ∃ x : ClockState, s.retarget (256 + cl) = { s with clocks := x } := by
  have hm {t : State} {f : CoreClock → CoreClock} : ∃ x : ClockState, t.modClock (256 + cl) f = { t with clocks := x } := ⟨_, if_neg (by omega)⟩
  have hstop : s.stopCore (256 + cl) = s := if_neg (by omega)
  unfold State.retarget
  dsimp only
  split
  · exact ⟨s.clocks, rfl⟩
  · split
    · exact hm
    · split
      · unfold State.startChange
        rw [hstop]
        exact hm
      · exact hm

theorem State.spareIdle_frame {cl : Nat} : ∃ x : ClockState, s.spareIdle cl = { s with clocks := x } := by
  obtain ⟨x, hx⟩ := State.retarget_spare (s := s.modClock (256 + cl) (fun k => { k with idleSince := s.now })) (cl := cl)
  refine ⟨x, hx.trans ?_⟩
  rw [State.modClock, if_neg (by omega)]

theorem State.endSlotRequests_nil {cl slot : Nat} (h : s.svc.requests = []) : s.endSlotRequests cl slot = { s with svc := { s.svc with requests := [] } } := by
  unfold State.endSlotRequests
  dsimp only
  rw [h]
  rfl

/-- A spare that goes idle with no request to end changes the clocks alone. -/
theorem State.endSlotRequests_spareIdle {cl slot : Nat} (h : s.svc.requests = []) :
    ((s.spareIdle cl).endSlotRequests cl slot).cores = s.cores ∧ ((s.spareIdle cl).endSlotRequests cl slot).svc = s.svc := by
  obtain ⟨x, hx⟩ := State.spareIdle_frame (s := s) (cl := cl)
  rw [hx, State.endSlotRequests_nil (s := { s with clocks := x }) h]
  exact ⟨rfl, by rw [← h]⟩

/-- The checks a clock of a cluster's spare meets before a pass of steeping counts (R413). -/
theorem State.steepingDone_goes {cl slot margin : Nat} {pass : Bool} (hsp : (s.svc.sparesOf cl).spare = some slot) (hst : s.steeps cl = true) (hp : s.steepPaused cl = false)
    (hg : (tget {} s.clocks.spareClocks cl).gear ≠ 0) : s.steepingDone cl pass margin =
      if pass && decide (5 ≤ margin) then
        ((State.endSlotRequests (State.spareIdle { s with svc := (s.svc.modErr cl (fun e => { e with steepPasses := satAdd e.steepPasses 1 })).modSpares cl (fun p => { p with spareReady := true }) } cl)
          cl slot).modCore (16 * cl + (s.svc.sparesOf cl).nextCore) (fun k => k.dueSwap .rolling)).retarget (16 * cl + (s.svc.sparesOf cl).nextCore)
      else State.retireSlot { s with svc := s.svc.modErr cl (fun e => { e with steepFails := satAdd e.steepFails 1 }) } cl slot (if pass then 3 else 1) := by
  have hclock : s.clockOf (256 + cl) = tget {} s.clocks.spareClocks cl := by
    rw [State.clockOf, if_neg (by omega), Nat.add_sub_cancel_left]
  unfold State.steepingDone
  dsimp only
  rw [hsp]
  dsimp only
  rw [hclock, hst, hp, beq_eq_false_iff_ne.mpr hg]
  rfl

/-- A spare that passes takes the next core in turn (R413). -/
theorem State.steepingDone_passes {cl slot margin : Nat} (hsp : (s.svc.sparesOf cl).spare = some slot) (hst : s.steeps cl = true) (hp : s.steepPaused cl = false)
    (hg : (tget {} s.clocks.spareClocks cl).gear ≠ 0) (hm : 5 ≤ margin) (hr : s.svc.requests = []) :
    ∃ u : State, s.steepingDone cl true margin = (u.modCore (16 * cl + (s.svc.sparesOf cl).nextCore) (fun k => k.dueSwap .rolling)).retarget (16 * cl + (s.svc.sparesOf cl).nextCore)
      ∧ u.cores = s.cores ∧ u.svc = (s.svc.modErr cl (fun e => { e with steepPasses := satAdd e.steepPasses 1 })).modSpares cl (fun p => { p with spareReady := true }) := by
  refine ⟨_, (State.steepingDone_goes hsp hst hp hg).trans (if_pos (by simp [hm])), ?_⟩
  exact State.endSlotRequests_spareIdle hr

theorem State.requestDone_one {kind target result : Nat} {scan : List (Nat × List SymbolError)} {r : SteepReq} (hr : s.svc.requests = [r]) (hk : r.kind = kind) (ht : r.target = target) :
    s.svc.requests.find? (fun r => r.kind == kind && r.target == target) = some r ∧ s.svc.requests.erase r = [] := by
  rw [hr]
  exact ⟨by simp [hk, ht], by simp⟩

theorem State.requestDone_scan {target result : Nat} {scan : List (Nat × List SymbolError)} {r : SteepReq} (hr : s.svc.requests = [r]) (hk : r.kind = 3) (ht : r.target = target) :
    s.requestDone 3 target result scan = State.commandEntry { s with svc := { s.svc with requests := [] } } r.cmd
      { arg0 := (s.mem.scanBad target scan).length, address := (s.mem.scanBad target scan).headD 0, kind := 1 } := by
  obtain ⟨hf, he⟩ := State.requestDone_one (s := s) (result := result) (scan := scan) hr hk ht
  unfold State.requestDone
  rw [hf]
  dsimp only
  rw [he]
  rfl

theorem State.requestDone_port {target : Nat} {scan : List (Nat × List SymbolError)} {r : SteepReq} (hr : s.svc.requests = [r]) (hk : r.kind = 2) (ht : r.target = target) :
    s.requestDone 2 target 0 scan = State.commandEntry { s with svc := { s.svc with requests := [] } } r.cmd { arg1 := (s.port target).spare.toNat } := by
  obtain ⟨hf, he⟩ := State.requestDone_one (s := s) (result := 0) (scan := scan) hr hk ht
  unfold State.requestDone
  rw [hf]
  dsimp only
  rw [he]
  rfl

end

/-- Settles O29. -/
theorem sparesAreSteepedAndSwapped : Obligations.spares_are_steeped_and_swapped := by
  refine ⟨fun s f m c slot h hc hs => congrArg Host.Outcome.next (serve_of_admitted h (spareSwapRow_ok hc hs) rfl),
    fun s f m c h hc hs => congrArg Host.Outcome.next (serve_refused_of_admitted h (spareSwapRow_none hc hs) (by decide)), fun s c sp hc hr hs hsp => ?swap,
    fun s f m h hk hr => congrArg Host.Outcome.next (serve_deferred_of_admitted h (steepRow_scan hk hr) rfl), fun s cl slot margin hc hsp hst hp hg hm hr => ?passes,
    fun s cl slot margin pass hc hsp hst hp hg hm => ?fails, fun s target result scan r hc hr hk ht => next_clocked hc (State.requestDone_scan hr hk ht),
    fun s target result scan r hc hr hk ht => next_clocked hc (State.requestDone_port hr hk ht)⟩
  case swap => exact next_clocked hc ((if_neg (by simp [hs])).trans (State.applySwap_command hr hs hsp))
  case passes =>
    obtain ⟨u, hu, hcores, hsvc⟩ := State.steepingDone_passes hsp hst hp hg hm hr
    exact ⟨u, next_clocked hc hu, hcores, hsvc⟩
  case fails =>
    refine next_clocked hc ((State.steepingDone_goes hsp hst hp hg).trans (if_neg ?_))
    obtain rfl | hm := hm
    · simp
    · simp [hm]

section
variable {s : State}

/-- A core check ends the block that runs once the core is settled, and its slot is due to go (R408, R414). -/
theorem State.coreCheck_runs {c : Nat} {r : RunBlock} (h : ((s.settle c s.now).core c).run = some r) : s.coreCheck c =
    (State.endBlock { s.settle c s.now with svc := (s.settle c s.now).svc.modErr (clusterOf c) (fun e => { e with coreChecks := satAdd e.coreChecks 1 }) } c (s.settle c s.now).now
      (blockFault faultCoreCheck)).modCore c (fun k => k.dueSwap (.wear 2)) := by
  unfold State.coreCheck
  dsimp only
  rw [h]

/-- The first corrected word of a row is counted and the row remembered for a day (R410). -/
theorem State.correctedWord_first {unit slot row : Nat} {a : SramArray} (hw : s.svc.worn = []) (ha : wears a = true) : s.correctedWord unit a slot row =
    { s with svc := { s.svc.modErr unit (fun e => { e with correctedWords := satAdd e.correctedWords 1 }) with
      worn := [{ unit := unit, arr := a, slot := slot, row := row, at_ := s.now }] } } := by
  have hw' : (s.svc.modErr unit (fun e => { e with correctedWords := satAdd e.correctedWords 1 })).worn = [] := hw
  unfold State.correctedWord
  dsimp only
  rw [ha, hw']
  rfl

theorem State.onDieWord_corrected {unit slot row addr from_ n : Nat} {a : SramArray} {flips : BitVec 80} (hw : s.svc.worn = [])
    (hr : wordRead addr from_ (s.wordAt unit a slot addr) flips = some (s.wordAt unit a slot addr, n)) (hn : n ≠ 0) (ha : wears a = true) :
    s.onDieWord unit a slot row addr from_ flips = { s with svc := { s.svc.modErr unit (fun e => { e with correctedWords := satAdd e.correctedWords 1 }) with
      worn := [{ unit := unit, arr := a, slot := slot, row := row, at_ := s.now }] } } := by
  have hl : a ≠ .dieLink := by
    rintro rfl
    cases ha
  unfold State.onDieWord
  rw [if_neg hl]
  dsimp only
  rw [hr]
  dsimp only
  rw [if_pos rfl, if_neg hn]
  exact State.correctedWord_first hw ha

/-- A scratchpad's word that cannot be corrected is noted at its core's address (R170). -/
theorem State.onDieWord_bad {unit slot row addr from_ i : Nat} {flips : BitVec 80} (hu : unit < 16) (hi : (s.svc.sparesOf unit).map.findIdx? (fun x => x == slot) = some i)
    (hr : wordRead addr from_ (s.wordAt unit .scratchpad slot addr) flips = none) : s.onDieWord unit .scratchpad slot row addr from_ flips =
    { s with
      svc := s.svc.modErr unit (fun e => { e with
        uncorrectableWords := satAdd e.uncorrectableWords 1, lastUe := BitVec.ofNat 41 addr, lastUeUnit := BitVec.ofNat 4 (arrUnit .scratchpad), lastUeSlot := BitVec.ofNat 5 slot })
      cores := { s.cores with ueSpad := insertNat (spadKeyOf (16 * unit + i) + addr % 2 ^ 22 / 8 * 8) s.cores.ueSpad } } := by
  have hat {g : ErrRec → ErrRec} : State.coreAt { s with svc := s.svc.modErr unit g } unit slot = some (16 * unit + i) :=
    (if_pos hu).trans (congrArg (Option.map (16 * unit + ·)) hi)
  unfold State.onDieWord
  rw [if_neg (by simp)]
  dsimp only
  rw [hr]
  unfold State.badOnDieWord
  dsimp only
  rw [hat]

/-- A failed lane with spares left in its group takes one (R23). -/
theorem State.laneFail_spare {link group lane j : Nat} (hj : linkGroup link group = some j) (hg : s.svc.groupsRetired.contains j = false) (ht : s.rst.trimDefaulted = false)
    (hn : tget 0 s.svc.lanesFailed j + 1 < 8) : s.laneFail link group lane = { s with
      svc := { s.svc with lanesFailed := tset 0 s.svc.lanesFailed j (tget 0 s.svc.lanesFailed j + 1) }
      rst := { s.rst with config := { s.rst.config with linkLanes := s.rst.config.linkLanes ++ [(link, false, 264 * group + lane)] }, gathered := true } } := by
  have h8 : (if s.rst.trimDefaulted = true then 0 else 8) = 8 := if_neg (by simp [ht])
  unfold State.laneFail
  rw [hj]
  dsimp only
  rw [if_neg (by simp only [hg]; simp), h8, if_neg (by omega), if_neg (by omega)]
  rfl

/-- A failed lane with no spare left retires its group (R23). -/
theorem State.laneFail_retires {link group lane j : Nat} (hj : linkGroup link group = some j) (hg : s.svc.groupsRetired.contains j = false) (ht : s.rst.trimDefaulted = false)
    (hn : 8 ≤ tget 0 s.svc.lanesFailed j) : ∃ u : State, s.laneFail link group lane = u.retireGroup link group j ∧ u.mem = s.mem := by
  unfold State.laneFail
  rw [hj]
  dsimp only
  rw [if_neg (by simp only [hg]; simp), if_pos (by simp [ht]; omega)]
  exact ⟨_, rfl, rfl⟩

theorem State.retireGroup_frame {link group j : Nat} : j ∈ (s.retireGroup link group j).svc.groupsRetired ∧ (s.retireGroup link group j).mem = s.mem ∧ (s.retireGroup link group j).rst.gathered = true := by
  unfold State.retireGroup
  dsimp only
  split
  · exact each_induct (P := fun t : State => j ∈ t.svc.groupsRetired ∧ t.mem = s.mem ∧ t.rst.gathered = true) (f := fun c s => s.loseCore c) (fun _ _ h => h) ⟨mem_insertNat, rfl, rfl⟩
  · exact ⟨mem_insertNat, rfl, rfl⟩

/-- What a retirement of a slot decides: the clusters' spares, what the tandem store is due, what it is to hold. -/
def State.spareView (s : State) : Tab Spares × Bool × TandemConfig := (s.svc.spares, s.rst.gathered, s.rst.config)

theorem State.modClock_spareView {c : Nat} {f : CoreClock → CoreClock} : (s.modClock c f).spareView = s.spareView := by
  unfold State.modClock
  split <;> rfl

theorem State.stopCore_spareView {c : Nat} : (s.stopCore c).spareView = s.spareView :=
  congrArg (fun o => (o.2.2.2.1.spares, o.2.2.1.gathered, o.2.2.1.config)) (State.stopCore_outer (s := s) (c := c))

theorem State.retarget_spareView {c : Nat} : (s.retarget c).spareView = s.spareView := by
  unfold State.retarget
  dsimp only
  split
  · rfl
  · split
    · exact State.modClock_spareView
    · split
      · exact State.modClock_spareView.trans State.stopCore_spareView
      · exact State.modClock_spareView

theorem State.spareOut_spareView {kind ix : Nat} {lost : Bool} : (s.spareOut kind ix lost).spareView = s.spareView := rfl

theorem State.spareIdle_spareView {cl : Nat} : (s.spareIdle cl).spareView = s.spareView := State.retarget_spareView.trans State.modClock_spareView

theorem State.moveCore_spareView {c : Nat} : (s.moveCore c).spareView = s.spareView :=
  State.retarget_spareView.trans (State.retarget_spareView.trans (State.modClock_spareView.trans State.modClock_spareView))

theorem State.endRequests_spareView {cl : Nat} : (s.endRequests cl).spareView = s.spareView := by
  refine each_induct (P := fun t : State => t.spareView = s.spareView) (fun _ _ h => ?_) rfl
  exact h

/-- Retiring a slot while its cluster has a spare takes the spare (R22, R412). -/
theorem State.retireSlot_spare {cl slot reason sp : Nat} (hr : (s.svc.sparesOf cl).retired.contains slot = false) (hs : (s.svc.sparesOf cl).spare = some sp) :
    ∃ m : List Nat, (s.retireSlot cl slot reason).spareView = (tmod {} (tmod {} s.svc.spares cl (fun p => { p with retired := insertNat slot p.retired })) cl
        (fun p => { p with map := m, spare := none, spareReady := false }), true, { s.rst.config with retiredSlots := insertNat (17 * cl + slot) s.rst.config.retiredSlots }) := by
  unfold State.retireSlot
  dsimp only
  rw [if_neg (by simp only [hr]; simp), hs]
  dsimp only
  by_cases h : sp = slot
  · rw [if_pos h, if_pos h]
    exact ⟨_, State.endRequests_spareView.trans (State.spareOut_spareView.trans State.spareIdle_spareView)⟩
  · rw [if_neg h, if_neg h]
    exact ⟨_, State.endRequests_spareView.trans (State.spareOut_spareView.trans State.moveCore_spareView)⟩

/-- Retiring a slot that serves a core, with no spare, loses the core (R413). -/
theorem State.retireSlot_none {cl slot reason : Nat} (hr : (s.svc.sparesOf cl).retired.contains slot = false) (hs : (s.svc.sparesOf cl).spare = none) :
    (s.retireSlot cl slot reason).spareView = (tmod {} s.svc.spares cl (fun p => { p with retired := insertNat slot p.retired }), true,
        { s.rst.config with retiredSlots := insertNat (17 * cl + slot) s.rst.config.retiredSlots })
    ∧ ((s.svc.sparesOf cl).map.contains slot = true → 16 * cl + (s.svc.sparesOf cl).map.idxOf slot ∈ (s.retireSlot cl slot reason).cores.unavailable) := by
  unfold State.retireSlot
  dsimp only
  rw [if_neg (by simp only [hr]; simp), hs]
  dsimp only
  split
  · exact ⟨rfl, fun _ => mem_insertNat⟩
  · next h => exact ⟨rfl, fun hc => absurd hc h⟩

end

theorem SvcState.err_modErr_same {v : SvcState} {u : Nat} {g : ErrRec → ErrRec} (h : twf {} v.errs = true) : (v.modErr u g).err u = g (v.err u) := tget_tmod_same h

/-- Settles O30. -/
theorem onDieErrorsAreRecorded : Obligations.on_die_errors_are_recorded := by
  refine ⟨⟨fun s c r hc hr => next_clocked hc (State.coreCheck_runs hr),
      fun s u a slot row addr from_ n flips hc hw hr hn ha => next_clocked hc (State.onDieWord_corrected hw hr hn ha),
      fun s u slot row addr from_ i flips hc hu hi hw hr => ⟨_, next_clocked hc (State.onDieWord_bad hu hi hr), rfl, rfl, rfl, fun _ => rfl, ?word⟩,
      fun s link group lane j hc hj hg ht hn => next_clocked hc (State.laneFail_spare hj hg ht hn), fun s link group lane j hc hj hg ht hn => ?group⟩,
    fun s cl slot reason hw hr _ => ?slot⟩
  case word => exact congrArg ErrRec.uncorrectableWords (SvcState.err_modErr_same hw)
  case group =>
    obtain ⟨u, hu, hmem⟩ := State.laneFail_retires (lane := lane) hj hg ht hn
    obtain ⟨hin, hm, hgat⟩ := State.retireGroup_frame (s := u) (link := link) (group := group) (j := j)
    exact ⟨_, next_clocked hc hu, hin, hm.trans hmem, hgat⟩
  case slot =>
    cases hs : (s.svc.sparesOf cl).spare with
    | some sp =>
      obtain ⟨m, hv⟩ := State.retireSlot_spare (reason := reason) hr hs
      obtain ⟨hsp, hgat, hcfg⟩ := Prod.mk.inj hv |>.imp id Prod.mk.inj
      have hself := (congrArg (tget {} · cl) hsp).trans ((tget_tmod_same (twf_tmod hw)).trans (by rw [tget_tmod_same hw]))
      refine ⟨?_, ?_, hgat, ?_, fun h => by simp at h, fun k hk => ?_⟩
      · exact (congrArg Spares.retired hself) ▸ mem_insertNat
      · exact congrArg Spares.spare hself
      · rw [hcfg]
        exact mem_insertNat
      · exact (congrArg (tget {} · k) hsp).trans ((tget_tmod_ne (twf_tmod hw) hk).trans (tget_tmod_ne hw hk))
    | none =>
      obtain ⟨hv, hcore⟩ := State.retireSlot_none (reason := reason) hr hs
      obtain ⟨hsp, hgat, hcfg⟩ := Prod.mk.inj hv |>.imp id Prod.mk.inj
      have hself := (congrArg (tget {} · cl) hsp).trans (tget_tmod_same hw)
      refine ⟨?_, ?_, hgat, ?_, fun _ => hcore, fun k hk => ?_⟩
      · exact (congrArg Spares.retired hself) ▸ mem_insertNat
      · exact (congrArg Spares.spare hself).trans hs
      · rw [hcfg]
        exact mem_insertNat
      · exact (congrArg (tget {} · k) hsp).trans (tget_tmod_ne hw hk)

end Sys2Proof.Machine
end

section
/-! PROOFS. The page engine's set-up (O31) and the retirement of a listed sequence (O33). -/

namespace Sys2Proof.Machine

/-- PF0 asks for its page record after the page engine has stopped serving it. -/
def stoppedSetupState : State :=
  State.posting { servingState with pages := { ftValid := true, stopped := [0] } } 0x0402 (List.replicate 56 0)

/-- Whether a step leaves function 0's page record enabled. -/
def recordEnabled : Host.Outcome State Fault Refusal → Bool
  | .next t => (t.pageRec 0).enabled
  | _ => false

set_option maxRecDepth 4000 in
/-- Refutes O31: a PAGE_SETUP for a function that the page engine has stopped serving is NOT_PERMITTED (`stoppedSetupState`), which the statement does not except. -/
theorem not_thePageEngineIsSetUp : ¬ Obligations.the_page_engine_is_set_up := by
  intro ⟨⟨_, _, _, hsetup, _⟩, _⟩
  have h := congrArg recordEnabled (hsetup stoppedSetupState 0 0 0 (by decide +kernel) (by decide +kernel) (by decide +kernel) (by decide +kernel) (by decide +kernel)
    (by decide +kernel) (by decide +kernel) (by decide +kernel) (by decide +kernel))
  revert h
  decide +kernel

/-- Function 0 retires its ACTIVE sequence 0, which an open list of it has still to consider. -/
def listedRetireState : State :=
  State.posting { servingState with
    pages := { ftValid := true, recs := [(0, { enabled := true })] }
    seqs := { seqs := [(0, { st := .active })], lists := [(0, [{ epoch := 1, todo := [0], cmd := { fn := 0, code := 0x405, tag := 9 } }])] } } 0x040C (natLe 4 0)

/-- Whether a step leaves a list of function 0 with a sequence still to consider. -/
def considersSequence : Host.Outcome State Fault Refusal → Bool
  | .next t => (tget [] t.seqs.lists 0).any (fun l => !l.todo.isEmpty)
  | _ => false

set_option maxRecDepth 4000 in
/-- Refutes O33: a SEQ_RETIRE also takes its sequence out of what the lists of the function have still to consider (`listedRetireState`), which the statement leaves out. -/
theorem not_sequencesLiveAndEnd : ¬ Obligations.sequences_live_and_end := by
  intro ⟨⟨_, _, _, _, _, _, hretire⟩, _⟩
  have h := congrArg considersSequence (hretire listedRetireState listedRetireState 0 0 0 [] (by decide +kernel) (by decide +kernel) (by decide +kernel)
    (by decide +kernel) (by decide +kernel) rfl)
  revert h
  decide +kernel

end Sys2Proof.Machine
end

section
/-! PROOFS. Brew lists live and retire (O34): the sequences of a function, the opening of a list, its retirement. -/

namespace Sys2Proof.Machine

open Sys2Proof.Safety

section
variable {α : Type} [DecidableEq α] {d : α}

/-- The keys whose entries meet a condition that the default does not meet. -/
theorem mem_filter_keys {p : α → Bool} (hp : p d = false) {lo : Nat} {t : Tab α} (h : twfFrom d lo t = true) {i : Nat} :
    i ∈ (t.filter (fun e => p e.2)).map (·.1) ↔ p (tget d t i) = true := by
  induction t generalizing lo with
  | nil => simp [tget, hp]
  | cons e t ih =>
    simp only [twfFrom, Bool.and_eq_true] at h
    have hkeys := (twfFrom_keys h.2).1
    have hnot : i ≤ e.1 → i ∉ (t.filter (fun e => p e.2)).map (·.1) := fun hi hm =>
      absurd (hkeys i ((List.filter_sublist.map _).subset hm)) (by omega)
    have ht := ih h.2
    rw [List.filter_cons, tget]
    grind

end

section
variable {q : SeqState} {s : State} {f g i : Nat}

theorem SeqState.mem_ofFn (h : twf {} q.seqs = true) : i ∈ q.ofFn f ↔ (q.seq i).st ≠ .free ∧ (q.seq i).fn.toNat = f := by
  refine (mem_filter_keys (p := fun e : SeqEntry => e.st != .free && e.fn.toNat == f) rfl h).trans ?_
  simp [SeqState.seq]

theorem SeqState.nodup_ofFn (h : twf {} q.seqs = true) : (q.ofFn f).Nodup :=
  (twfFrom_keys h).2.sublist (List.filter_sublist.map _)

/-- The sequences of a list changed, each in the same way. -/
def SeqState.modAll (q : SeqState) (l : List Nat) (a : SeqEntry → SeqEntry) : SeqState := { q with seqs := each l (fun i t => tmod {} t i a) q.seqs }

theorem State.each_modSeq {a : SeqEntry → SeqEntry} {l : List Nat} : each l (fun i s => s.modSeq i a) s = { s with seqs := s.seqs.modAll l a } := by
  induction l generalizing s with
  | nil => rfl
  | cons i l ih => exact ih

theorem SeqState.modAll_twf {a : SeqEntry → SeqEntry} {l : List Nat} (h : twf {} q.seqs = true) : twf {} (q.modAll l a).seqs = true :=
  each_induct (P := fun t : Tab SeqEntry => twf {} t = true) (f := fun i t => tmod {} t i a) (fun _ _ h => twf_tmod h) h

theorem SeqState.modAll_seq {a : SeqEntry → SeqEntry} {l : List Nat} (hl : l.Nodup) (h : twf {} q.seqs = true) :
    (q.modAll l a).seq i = if i ∈ l then a (q.seq i) else q.seq i := tget_each_tmod hl h

/-- What opening a list with epoch `e` makes of a sequence of the function, which has `free` fast frames (R233, R235). -/
def SeqEntry.reopened (x : SeqEntry) (e : BitVec 16) (free : W32) : SeqEntry :=
  if x.st = .parkedNoPage ∧ x.need ≤ free then { x with lastUse := freshEpoch e x.lastUse, st := .active, need := 0 }
  else { x with lastUse := freshEpoch e x.lastUse }

theorem SeqEntry.reopened_st {x : SeqEntry} {e : BitVec 16} {free : W32} :
    (x.reopened e free).st = if x.st = .parkedNoPage ∧ x.need ≤ free then .active else x.st := by
  unfold SeqEntry.reopened
  split <;> rfl

theorem SeqEntry.reopened_frame {x : SeqEntry} {e : BitVec 16} {free : W32} :
    (x.reopened e free).fn = x.fn ∧ (x.reopened e free).length = x.length ∧ (x.reopened e free).stepTokens = x.stepTokens
      ∧ (x.reopened e free).append = x.append ∧ (x.reopened e free).user = x.user ∧ (x.reopened e free).lastUse = freshEpoch e x.lastUse := by
  unfold SeqEntry.reopened
  split <;> exact ⟨rfl, rfl, rfl, rfl, rfl, rfl⟩

/-- Every sequence of function `f` with its last use kept within reach of epoch `e`. -/
def SeqState.freshen (q : SeqState) (f : Nat) (e : BitVec 16) : SeqState := q.modAll (q.ofFn f) (fun x => { x with lastUse := freshEpoch e x.lastUse })

/-- Every sequence of function `f` that waits for no more than `free` frames taken up again. -/
def SeqState.takeUp (q : SeqState) (f : Nat) (free : W32) : SeqState :=
  q.modAll ((q.ofFn f).filter (fun i => (q.seq i).st == .parkedNoPage && decide ((q.seq i).need ≤ free))) (fun x => { x with st := .active, need := 0 })

theorem SeqState.freshen_seq {e : BitVec 16} (h : twf {} q.seqs = true) :
    (q.freshen f e).seq i = if (q.seq i).st ≠ .free ∧ (q.seq i).fn.toNat = f then { q.seq i with lastUse := freshEpoch e (q.seq i).lastUse } else q.seq i := by
  simp only [← SeqState.mem_ofFn h]
  exact SeqState.modAll_seq (SeqState.nodup_ofFn h) h

theorem SeqState.takeUp_seq {free : W32} (h : twf {} q.seqs = true) :
    (q.takeUp f free).seq i = if (q.seq i).fn.toNat = f ∧ (q.seq i).st = .parkedNoPage ∧ (q.seq i).need ≤ free then { q.seq i with st := .active, need := 0 } else q.seq i := by
  refine (SeqState.modAll_seq ((SeqState.nodup_ofFn h).filter _) h).trans (if_congr ?_ rfl rfl)
  simp only [List.mem_filter, SeqState.mem_ofFn h, Bool.and_eq_true, beq_iff_eq, decide_eq_true_eq]
  grind

theorem SeqState.reopened_seq {e : BitVec 16} {free : W32} (h : twf {} q.seqs = true) :
    ((q.freshen f e).takeUp f free).seq i = if (q.seq i).st ≠ .free ∧ (q.seq i).fn.toNat = f then (q.seq i).reopened e free else q.seq i := by
  rw [SeqState.takeUp_seq (q := q.freshen f e) (SeqState.modAll_twf h), SeqState.freshen_seq h]
  unfold SeqEntry.reopened
  grind

theorem State.modRec_same {a : PageRec → PageRec} (h : twf {} s.pages.recs = true) : (s.modRec f a).pageRec f = a (s.pageRec f) := tget_tset_same h

theorem State.modRec_other {a : PageRec → PageRec} (h : twf {} s.pages.recs = true) (hg : g ≠ f) : (s.modRec f a).pageRec g = s.pageRec g := tget_tset_ne h hg

/-- The record of a function that opens a list, `idle` with no list yet (R233). -/
def PageRec.listOpened (r : PageRec) (idle : Bool) : PageRec := { r with retiredEpoch := if idle then r.stepEpoch else r.retiredEpoch, stepEpoch := r.stepEpoch + 1 }

/-- The sequence table once function `f` has opened a list. -/
def State.openedSeqs (s : State) (f : Nat) : SeqState := (s.seqs.freshen f ((s.pageRec f).stepEpoch + 1)).takeUp f (s.pageRec f).freeFast

/-- What a list keeps of the function's sequences as it is opened. -/
def SeqState.asOpened (q : SeqState) (f : Nat) : List (Nat × BitVec 17 × BitVec 17 × W32) :=
  (q.ofFn f).map (fun i => (i, (q.seq i).stepTokens, (q.seq i).append, (q.seq i).user))

theorem State.openList_of {u : State} {e : BitVec 16} {free : W32} {x : SeqState} {cmd : CmdRef} (hu : u = s.modRec f (fun r => r.listOpened (tget [] s.seqs.lists f).isEmpty))
    (he : e = (u.pageRec f).stepEpoch) (hf : free = (u.pageRec f).freeFast) (hx : x = (s.seqs.freshen f e).takeUp f free) :
    s.openList f cmd = { u with seqs := { x with lists := tmod [] s.seqs.lists f (fun l => l ++ [{ epoch := e, asOpened := x.asOpened f, cmd := cmd }]) } } := by
  subst hx hf he hu
  unfold State.openList
  simp only [State.each_modSeq]
  rfl

/-- Opening a list, as a change of the function's record, its sequences and its lists. -/
theorem State.openList_eq {cmd : CmdRef} (h : twf {} s.pages.recs = true) :
    s.openList f cmd = { s.modRec f (fun r => r.listOpened (tget [] s.seqs.lists f).isEmpty) with
      seqs := { s.openedSeqs f with lists := tmod [] s.seqs.lists f (fun l => l ++ [{ epoch := (s.pageRec f).stepEpoch + 1, asOpened := (s.openedSeqs f).asOpened f, cmd := cmd }]) } } :=
  have hrec : (s.modRec f (fun r => r.listOpened (tget [] s.seqs.lists f).isEmpty)).pageRec f = (s.pageRec f).listOpened (tget [] s.seqs.lists f).isEmpty := State.modRec_same h
  State.openList_of rfl (congrArg PageRec.stepEpoch hrec.symm) (congrArg PageRec.freeFast hrec.symm) rfl

theorem State.openedSeqs_twf (h : twf {} s.seqs.seqs = true) : twf {} (s.openedSeqs f).seqs = true :=
  SeqState.modAll_twf (q := s.seqs.freshen f ((s.pageRec f).stepEpoch + 1)) (SeqState.modAll_twf h)

theorem State.openedSeqs_own (h : twf {} s.seqs.seqs = true) (hi : (s.seq i).st ≠ .free) (hf : (s.seq i).fn.toNat = f) :
    (s.openedSeqs f).seq i = (s.seq i).reopened ((s.pageRec f).stepEpoch + 1) (s.pageRec f).freeFast :=
  (SeqState.reopened_seq h).trans (if_pos ⟨hi, hf⟩)

theorem State.openedSeqs_other (h : twf {} s.seqs.seqs = true) (hi : (s.seq i).st = .free ∨ (s.seq i).fn.toNat ≠ f) : (s.openedSeqs f).seq i = s.seq i := by
  refine (SeqState.reopened_seq h).trans (if_neg ?_)
  rintro ⟨h1, h2⟩
  exact hi.elim h1 (fun h => h h2)

theorem State.mem_asOpened (h : twf {} s.seqs.seqs = true) (hi : (s.seq i).st ≠ .free) (hf : (s.seq i).fn.toNat = f) :
    (i, (s.seq i).stepTokens, (s.seq i).append, (s.seq i).user) ∈ (s.openedSeqs f).asOpened f := by
  have hown := s.openedSeqs_own h hi hf
  obtain ⟨hfn, -, htok, happ, huser, -⟩ := SeqEntry.reopened_frame (x := s.seq i) (e := (s.pageRec f).stepEpoch + 1) (free := (s.pageRec f).freeFast)
  have hst : ((s.openedSeqs f).seq i).st ≠ .free := by
    rw [hown, SeqEntry.reopened_st]
    split
    · decide
    · exact hi
  refine List.mem_map.mpr ⟨i, (SeqState.mem_ofFn (State.openedSeqs_twf h)).mpr ⟨hst, by rw [hown, hfn, hf]⟩, ?_⟩
  rw [hown, htok, happ, huser]

/-- A share of a function not served only ends its command. -/
theorem State.shareLate_serves {w : ShareWait} (h : s.serves w.cmd.fn = false) : (s.shareLate w).serves w.cmd.fn = false := by
  unfold State.shareLate
  simp only [h, Bool.not_false, if_true]
  obtain ⟨k, x, hk⟩ := State.complete_frame (s := { s with pages := { s.pages with shareWaits := s.pages.shareWaits.erase w } }) w.cmd { status := stNotPermitted }
  rw [hk]
  exact h

theorem State.sharesDue_serves (h : s.serves f = false) : (s.sharesDue f).serves f = false := by
  unfold State.sharesDue
  refine List.foldlRecOn (motive := fun u : State => u.serves f = false) _ _ h fun u hu w hw => ?_
  have hwf : w.cmd.fn = f := by
    have := (List.mem_filter.mp hw).2
    simp only [Bool.and_eq_true, beq_iff_eq] at this
    exact this.1
  subst hwf
  exact State.shareLate_serves hu

@[simp] theorem State.freeSeq_pages : (s.freeSeq i).pages = s.pages := by
  unfold State.freeSeq
  split <;> rfl

@[simp] theorem State.unlist_pages {e : BitVec 16} : (s.unlist f e).pages = s.pages := by
  unfold State.unlist
  refine each_induct (P := fun u : State => u.pages = s.pages) (fun _ _ h => ?_) rfl
  exact State.freeSeq_pages.trans h

/-- The retirement of a released and closed list of a function not served. -/
theorem State.listRetired_not_served {u : State} {l : BrewList} {rest : List BrewList} (hl : tget [] s.seqs.lists f = l :: rest)
    (hp : l.phase = .released) (hc : l.closed = true) (hn : l.chains = 0)
    (hu : u = { s with seqs := { s.seqs with lists := tmod [] s.seqs.lists f (fun x => x.drop 1) } }.modRec f (fun r => { r with retiredEpoch := l.epoch }))
    (hs : u.serves f = false) :
    s.listRetired f = State.listEvent { ((u.unlist f l.epoch).sharesDue f) with pages := { ((u.unlist f l.epoch).sharesDue f).pages with
      spillStopped := ((u.unlist f l.epoch).sharesDue f).pages.spillStopped.erase f } } f 2 l.epoch 0 {} := by
  have hd : ((u.unlist f l.epoch).sharesDue f).serves f = false :=
    State.sharesDue_serves (by unfold State.serves State.pageRec at hs ⊢; rw [State.unlist_pages]; exact hs)
  unfold State.listRetired
  simp only [hl, List.head?_cons, hp, hc, hn, ← hu, hs]
  exact congrArg (fun x : State => x.listEvent f 2 l.epoch 0 {}) (if_neg (fun h => Bool.false_ne_true (hd.symm.trans h)))

theorem State.listRetired_waits {l : BrewList} {rest : List BrewList} (hl : tget [] s.seqs.lists f = l :: rest)
    (h : l.phase ≠ .released ∨ l.closed = false ∨ l.chains ≠ 0) : s.listRetired f = s := by
  simp [State.listRetired, hl, h]

theorem State.listReleased_built {l : BrewList} {rest : List BrewList} (hl : tget [] s.seqs.lists f = l :: rest) (hp : l.phase = .built) (hst : (s.ctxOf f).st ≠ .saved)
    {w : State × Option Args} (hw : w = State.listCopy f (s.ctxOf f).listStage.toNat (s.ctxOf f).listLive.toNat (grainPieces (s.ctxOf f).listStage.toNat (s.ctxOf f).listLen) s) :
    s.listReleased f = ((w.1.modList f l.epoch (fun l => { l with phase := .released })).rouse.addHub (s.ctxOf f).listReady.toNat 1).listEvent f 1 l.epoch 0 (w.2.getD {}) := by
  subst hw
  simp [State.listReleased, hl, hp, hst]

/-- The last copy of an append done, the append ends and the list goes on. -/
theorem State.copyDone_ends {a : Append} (ha : s.pages.appends.find? (fun a => a.fn == f) = some a) (hst : (s.ctxOf f).st ≠ .saved) (hc : ∀ c ∈ a.copies, c.copied = true) :
    s.copyDone f = (s.appendEnds a).brew f := by
  have hnone : a.copies.find? (fun c => !c.copied) = none := List.find?_eq_none.mpr (by simpa using hc)
  simp [State.copyDone, ha, hnone, hst]

/-- The first of two copies of the only append. -/
theorem State.copyDone_first {a : Append} {c d : CowCopy} (ha : s.pages.appends = [a]) (hf : a.fn = f) (hcs : a.copies = [c, d]) (hc : c.copied = false) (hd : d.copied = false)
    (hne : c ≠ d) (hue : s.mem.frameUe c.source = none) :
    s.copyDone f = { s with
      mem := s.mem.copyFrame c.source c.target
      pages := { s.pages with appends := [{ a with copies := [{ c with copied := true }, d] }] } } := by
  simp [State.copyDone, ha, hf, hcs, hc, hd, hne.symm, hue, mapIf]

/-- A list with nothing left to consider and no append left is written and told. -/
theorem State.listBuilt_tells {u v : State} {l : BrewList} {look : List Nat} (hu : u = s.brew f) (hl : u.seqs.building f = some l) (ht : l.todo = [])
    (ha : u.pages.appends = []) (hi : u.pages.invalidations = []) (hst : (u.ctxOf f).st ≠ .saved) (hv : u.lookahead f l.epoch = (v, look)) :
    ∃ (w : State) (b : BrewList) (a : Args), w = (State.listWrite f (grainPieces (u.ctxOf f).listStage.toNat (u.ctxOf f).listLen) (b.bytes look.length (u.ctxOf f).clusterEntries.toNat) v).1
      ∧ b = (v.seqs.building f).getD l ∧ a.result = (b.header look.length).take 16
      ∧ (∀ x : State, x = State.complete { w with seqs := { w.seqs.modList f b.epoch (fun y => { y with phase := .built }) with lookahead := tset [] w.seqs.lookahead f look } } b.cmd a →
          x.serves f = false → s.listBuilt f = x) := by
  subst hu
  refine ⟨_, _, match ((v.seqs.building f).getD l).failed,
      (State.listWrite f (grainPieces ((s.brew f).ctxOf f).listStage.toNat ((s.brew f).ctxOf f).listLen)
        (((v.seqs.building f).getD l).bytes look.length ((s.brew f).ctxOf f).clusterEntries.toNat) v).2 with
    | some g, _ => { status := stUncorrectable, address := g, kind := 1, result := (((v.seqs.building f).getD l).header look.length).take 16 }
    | none, some e => { e with result := (((v.seqs.building f).getD l).header look.length).take 16 }
    | none, none => { result := (((v.seqs.building f).getD l).header look.length).take 16 }, rfl, rfl, ?result, fun x hx hs => ?built⟩
  case result => split <;> rfl
  case built =>
    have key : s.listBuilt f = if x.serves f then x.paged f (State.prefetchFor f look) else x := by
      subst hx
      unfold State.listBuilt
      simp only [hl, ht, ha, hi, hv, List.isEmpty_nil, List.any_nil, Bool.not_true, Bool.false_or, beq_iff_eq, hst, if_false] <;> rfl
    exact key.trans (if_neg (by simp [hs]))

end

/-- Settles O34. -/
theorem brewListsLiveAndRetire : Obligations.brew_lists_live_and_retire := by
  refine ⟨fun s f m h hs hl h1 h2 => ⟨_, rfl, ?opened⟩, fun s f m h hs hl => ?full, fun s f a hc ha hst hcs => next_clocked hc (State.copyDone_ends ha hst hcs),
    fun s f a c d hck ha hf hcs hc hd hne hue => next_clocked hck (State.copyDone_first ha hf hcs hc hd hne hue),
    fun s u v f l look hc hu hl ht ha hi hst hv hs => ?built, fun s f l rest hc hl hp hst => ⟨_, rfl, next_clocked hc (State.listReleased_built hl hp hst rfl)⟩,
    fun s f m l h hs hl hp => ?closed, fun s u f l rest hc hl hp hcl hn hu hs => next_clocked hc (State.listRetired_not_served hl hp hcl hn hu hs),
    fun s f l rest hc hl h => next_clocked hc (State.listRetired_waits hl h), fun s q f cmd hq hls hr he => ?asks, fun e x => ?fresh⟩
  case opened =>
    refine congrArg Host.Outcome.next (serve_accepted_of_admitted h rfl ?_ rfl)
    have hl' : ¬ 2 ≤ (tget [] s.seqs.lists f.val).length := by omega
    change listOpenRow _ s = _
    simp [listOpenRow, show (s.ctl.req f m).fn = f from rfl, hs, hl', h1, h2]
  case full =>
    refine congrArg Host.Outcome.next (serve_refused_of_admitted (u := s) h ?_ (by decide))
    change listOpenRow _ s = _
    simp [listOpenRow, show (s.ctl.req f m).fn = f from rfl, hs, hl, busy]
  case built =>
    obtain ⟨w, b, a, hw, hb, ha', hx⟩ := State.listBuilt_tells hu hl ht ha hi hst hv
    exact ⟨w, b, a, hw, hb, ha', fun x hxe hxs => next_clocked hc (hx x hxe hxs)⟩
  case closed =>
    refine congrArg Host.Outcome.next (serve_of_admitted h ?_ rfl)
    simp [listCloseRow, show (s.ctl.req f m).fn = f from rfl, hs, hl, hp]
  case asks =>
    have hrec : ∀ g, (s.openList f cmd).pageRec g = (s.modRec f (fun r => r.listOpened (tget [] s.seqs.lists f).isEmpty)).pageRec g := fun g =>
      (congrArg (fun x : State => x.pageRec g) (State.openList_eq hr)).trans rfl
    have hown : (s.openList f cmd).pageRec f = (s.pageRec f).listOpened (tget [] s.seqs.lists f).isEmpty := (hrec f).trans (State.modRec_same hr)
    have hseq : ∀ i, (s.openList f cmd).seq i = (s.openedSeqs f).seq i := fun i => (congrArg (fun x : State => x.seq i) (State.openList_eq hr)).trans rfl
    have hlists : ∀ g, tget [] (s.openList f cmd).seqs.lists g = tget [] (tmod [] s.seqs.lists f (fun l => l ++
      [{ epoch := (s.pageRec f).stepEpoch + 1, asOpened := (s.openedSeqs f).asOpened f, cmd := cmd }])) g := fun g =>
      (congrArg (fun x : State => tget [] x.seqs.lists g) (State.openList_eq hr)).trans rfl
    subst he
    refine ⟨congrArg PageRec.stepEpoch hown, ?retired, ⟨_, (hlists f).trans (tget_tmod_same hls), fun i h1 h2 => State.mem_asOpened hq h1 h2⟩,
      fun g hg => ⟨(hlists g).trans (tget_tmod_ne hls hg), (hrec g).trans (State.modRec_other hr hg)⟩, fun i hi => (hseq i).trans (State.openedSeqs_other hq hi), fun i h1 h2 => ?sequence, (congrArg (·.mem) (State.openList_eq hr)).trans rfl, (congrArg (·.cores) (State.openList_eq hr)).trans rfl, (congrArg (·.pages.appends) (State.openList_eq hr)).trans rfl⟩
    case retired => exact (congrArg PageRec.retiredEpoch hown).trans (by simp [PageRec.listOpened])
    case sequence =>
      obtain ⟨-, hlen, -, -, -, huse⟩ := SeqEntry.reopened_frame (x := s.seq i) (e := (s.pageRec f).stepEpoch + 1) (free := (s.pageRec f).freeFast)
      rw [hseq i, State.openedSeqs_own hq h1 h2]
      exact ⟨huse, hlen, fun h => by simp [SeqEntry.reopened, h], fun h => by simp [SeqEntry.reopened_st, h]⟩
  case fresh =>
    unfold freshEpoch
    grind

end Sys2Proof.Machine
end

section
/-! PROOFS. A share that is refused (O32). -/

namespace Sys2Proof.Machine

/-- Function 0 asks for a share between free sequences while an invalidation of its pages is not yet acknowledged. -/
def refusedShareState : State :=
  State.posting { servingState with pages := { ftValid := true, recs := [(0, { enabled := true })], invalidations := [{ fn := 0, release := [] }] } } 0x040D (List.replicate 16 0)

/-- The share that `refusedShareState` asks for. -/
def refusedShare : ShareWait := { source := 0, target := 0, first := 0, last := 0, cmd := (refusedShareState.ctl.req 0 0).cmd }

/-- Whether a step leaves an invalidation to be acknowledged. -/
def awaitsAcknowledgement : Host.Outcome State Fault Refusal → Bool
  | .next t => !t.pages.invalidations.isEmpty
  | _ => false

/-- The state the share is decided in: the acknowledgement has come. -/
def settledShareState : State := refusedShareState.settleShare 0 refusedShare

theorem refusedShare_status : State.doShare 0 refusedShare settledShareState = .ok (settledShareState, stSequenceState) := by
  unfold State.doShare
  rw [if_pos (by decide +kernel)]

set_option maxRecDepth 4000 in
/-- Refutes O32: a PAGE_SHARE that is refused answers from the state as it was, without the acknowledgements its settling waits for (`refusedShareState`), where the statement answers from the settled state. -/
theorem not_pagesAreSpilledAndFetched : ¬ Obligations.pages_are_spilled_and_fetched := by
  intro ⟨_, hshare, _⟩
  have h := congrArg awaitsAcknowledgement (hshare refusedShareState settledShareState 0 0 refusedShare stSequenceState (by decide +kernel) (by decide +kernel) (by decide +kernel)
    (by decide +kernel) rfl (by decide +kernel) (by decide +kernel) refusedShare_status (.inl (by decide)))
  revert h
  decide +kernel

end Sys2Proof.Machine
end

section
/-! PROOFS. The time a sequenced frame is stamped with (O37). -/

namespace Sys2Proof.Machine

/-- Port 0 UP, one nanosecond after the start of time. -/
def upState : State := { servingState with now := nsTicks, fabric := { ports := [(0, { st := .up, spokesGood := 31 })] } }

/-- The arrival times of the frames that wait in port 0's window after a step. -/
def waitingSince : Host.Outcome State Fault Refusal → List Nat
  | .next t => (t.link 0).window.map (·.arrivedNs)
  | _ => []

set_option maxRecDepth 4000 in
/-- Refutes O37: a sequenced frame is taken with the time of its arrival (`upState`), where the statement takes it with arrival time 0. -/
theorem not_sequencedFramesAreTakenInOrder : ¬ Obligations.sequenced_frames_are_taken_in_order := by
  intro ⟨htake, _⟩
  obtain ⟨_, _, _, _, htoken⟩ := htake upState 0 0 { FrameHdr.none with frameSeq := 1 } [] .ok { grid := false, sizeX := 0, sizeY := 0, ringY := false, toPrev := false, posX := 0, posY := 0, id := 0 }
    { reason := 0, id := 0, x := 0, y := 0 } 0 (by decide +kernel)
  have h := congrArg waitingSince htoken
  revert h
  decide +kernel

end Sys2Proof.Machine
end

section
/-! PROOFS. Link frames and frame slots (O36): the rules of a port and of its link level, frame by frame. -/

namespace Sys2Proof.Machine

open Sys2Proof.Safety

section
variable {s : State} {p q k : Nat} {h : FrameHdr}

@[simp] theorem State.modLink_port {f : PortLink → PortLink} : (s.modLink p f).port q = s.port q := rfl

@[simp] theorem State.modPort_link {f : Port → Port} : (s.modPort p f).link q = s.link q := rfl

theorem State.modLink_link {f : PortLink → PortLink} (hl : twf {} s.fabric.links = true) : (s.modLink p f).link p = f (s.link p) := tget_tmod_same hl

theorem State.modLink_link_other {f : PortLink → PortLink} (hl : twf {} s.fabric.links = true) (hq : q ≠ p) : (s.modLink p f).link q = s.link q := tget_tmod_ne hl hq

theorem State.modLink_twf {f : PortLink → PortLink} (hl : twf {} s.fabric.links = true) : twf {} (s.modLink p f).fabric.links = true := twf_tmod hl

theorem State.modLink_modLink_link {f g : PortLink → PortLink} (hl : twf {} s.fabric.links = true) : ((s.modLink p f).modLink p g).link p = g (f (s.link p)) :=
  (State.modLink_link (State.modLink_twf hl)).trans (congrArg g (State.modLink_link hl))

theorem State.modPort_port {f : Port → Port} (hp : twf {} s.fabric.ports = true) : (s.modPort p f).port p = f (s.port p) := tget_tmod_same hp

theorem Port.linked_of_up {x : Port} (hx : x.st = .up) : x.linked = true := by simp [Port.linked, hx]

theorem Port.hears_of_linked {x : Port} (hx : x.linked = true) (hk : x.spokesGood.getLsbD k = true) : x.hears k = true := by simp [Port.hears, hx, hk]

theorem Port.linked_of_align {x : Port} (hx : x.st = .align) : x.linked = false := by simp [Port.linked, hx]

theorem Port.hears_of_align {x : Port} (hx : x.st = .align) (hk : x.spokesGood.getLsbD k = true) : x.hears k = true := by simp [Port.hears, hx, hk]

theorem Port.linked_of_negotiate {x : Port} (hx : x.st = .negotiate) : x.linked = false := by simp [Port.linked, hx]

theorem Port.hears_of_negotiate {x : Port} (hx : x.st = .negotiate) (hk : x.spokesGood.getLsbD k = true) : x.hears k = true := by simp [Port.hears, hx, hk]

/-- A frame heard by a port that has not seen a HOLD. -/
theorem State.heard_of_ne {hold : Bool} (hst : (s.port p).st ≠ .holdSeen) : s.heard p k h hold = s.modLink p (fun l => l.refresh k s.now h) := by
  simp [State.heard, hst]

/-- No operation runs over the port. -/
theorem State.portEnds_none {r : Nat} (ho : ∀ o ∈ s.fabric.ops, (s.slot o.slot).ports.contains p = false) : s.portEnds p r = s.drainAll := by
  have hf : s.fabric.ops.filter (fun o => (s.slot o.slot).ports.contains p) = [] := List.filter_eq_nil_iff.mpr fun o h => by rw [ho o h]; decide
  unfold State.portEnds
  rw [hf]
  rfl

theorem State.holdFrame_up (hst : (s.port p).st = .up) (hk : (s.port p).spokesGood.getLsbD k = true) (ho : ∀ o ∈ s.fabric.ops, (s.slot o.slot).ports.contains p = false) :
    s.holdFrame p k h = ((s.modLink p (fun l => l.refresh k s.now h)).modPort p (fun x => { x with st := .holdSeen, peerHolds := satAdd x.peerHolds 1 })).drainAll := by
  have hl := Port.linked_of_up hst
  unfold State.holdFrame
  rw [State.heard_of_ne (by simp [hst])]
  simp only [hl, Port.hears_of_linked hl hk, Bool.and_self, Bool.not_true, Bool.false_eq_true, if_false, State.modLink_port, hst, reduceCtorEq]
  exact State.portEnds_none ho

section
variable {n : NegInfo} {l : PortLink} {now : Nat}

theorem PortLink.negIn_first (hn : tget none l.negSentAt k = none) : l.negIn k now n = { l with peer := some n, linkFrames := l.linkFrames ++ [(some k, .neg true 3)] } := by
  simp [PortLink.negIn, hn, PortLink.ask]

theorem PortLink.negIn_answer {t : Nat} (hn : tget none l.negSentAt k = some t) (ht : 512 * nsTicks ≤ now - t) :
    l.negIn k now n = { l with
      peer := some n, negAcked := l.negAcked ||| BitVec.ofNat 5 (2 ^ k), negSentAt := tset none l.negSentAt k none, delayNs := ((now - t) / nsTicks - 512) / 2 } := by
  simp [PortLink.negIn, hn, ht]

/-- A NEG whose mask drops no spoke in use narrows nothing. -/
theorem State.narrow_of_and_eq {mask : BitVec 5} (hm : (s.port p).spokesGood &&& mask = (s.port p).spokesGood) : s.narrow p mask = s := by
  simp [State.narrow, hm]

theorem State.negFrame_align (hst : (s.port p).st = .align) (hk : (s.port p).spokesGood.getLsbD k = true) (hm : (s.port p).spokesGood &&& n.mask = (s.port p).spokesGood) :
    s.negFrame p k h n = (s.modLink p (fun l => { l with lastValid := tset 0 l.lastValid k s.now })).modLink p (fun l => l.negIn k s.now n) := by
  unfold State.negFrame
  simp only [Port.hears_of_align hst hk, Port.linked_of_align hst, State.modLink_port, hst, Bool.not_true, Bool.false_eq_true, if_false, if_true]
  exact State.narrow_of_and_eq hm

theorem State.negFrame_negotiate (hst : (s.port p).st = .negotiate) (hk : (s.port p).spokesGood.getLsbD k = true) (hm : (s.port p).spokesGood &&& n.mask = (s.port p).spokesGood)
    (hp : twf {} s.fabric.ports = true) : (s.negFrame p k h n).port p = (s.port p).peered n := by
  unfold State.negFrame
  simp only [Port.hears_of_negotiate hst hk, Port.linked_of_negotiate hst, State.modLink_port, hst, Bool.not_true, Bool.false_eq_true, if_false, reduceCtorEq]
  have hport : ((s.modLink p (fun l => { l with lastValid := tset 0 l.lastValid k s.now })).modPort p (fun x => x.peered n)).port p = (s.port p).peered n := State.modPort_port hp
  rw [State.narrow_of_and_eq]
  · exact hport
  · rw [State.modLink_port, hport]
    exact hm

end

theorem State.retryFrame_found {e : RetryEntry} {x : BitVec 16} {l : PortLink} {i : Nat} (hst : (s.port p).st = .up) (hk : (s.port p).spokesGood.getLsbD k = true)
    (hw : twf {} s.fabric.links = true) (hl : l = (s.link p).refresh k s.now h) (hi : l.retry.findIdx? (fun e => e.frame.hdr.frameSeq == x) = some i)
    (he : l.retry[i]? = some e) (hr : e.resends < 16) :
    s.retryFrame p k h x = (s.modLink p (fun l => l.refresh k s.now h)).modLink p (fun l => { l with resendAt := some i }) := by
  have hln := Port.linked_of_up hst
  have h1 : (s.modLink p (fun l => l.refresh k s.now h)).link p = l := (State.modLink_link hw).trans hl.symm
  have h2 : ((s.modLink p (fun l => l.refresh k s.now h)).modLink p (fun l => { l with resendAt := some i })).link p = { l with resendAt := some i } :=
    (State.modLink_link (State.modLink_twf hw)).trans (by rw [h1])
  unfold State.retryFrame
  rw [State.heard_of_ne (by simp [hst])]
  simp only [hln, Port.hears_of_linked hln hk, Bool.and_self, Bool.not_true, Bool.false_eq_true, if_false, h1, hi, h2, he]
  exact if_neg (by omega)

@[simp] theorem State.spareOut_fabric {kind ix : Nat} {lost : Bool} : (s.spareOut kind ix lost).fabric = s.fabric := rfl

@[simp] theorem State.spareOut_port {kind ix : Nat} {lost : Bool} : (s.spareOut kind ix lost).port p = s.port p := rfl

@[simp] theorem State.spareOut_link {kind ix : Nat} {lost : Bool} : (s.spareOut kind ix lost).link p = s.link p := rfl

/-- The failure of a spoke other than the spare, which takes its place (R256). -/
theorem State.failSpoke_spare {sp : Nat} {tell : Bool} (hl : (s.port p).linked = true) (hk : (s.port p).spokesGood.getLsbD k = true) (hs : (s.port p).spare = BitVec.ofNat 3 sp)
    (hsp : sp < 5) (hne : sp ≠ k) :
    s.failSpoke p k tell = ((s.modPort p (fun x => { x with spokesGood := (s.port p).spokesGood &&& ~~~(BitVec.ofNat 5 (2 ^ k)), spare := 7, spokeSwaps := satAdd x.spokeSwaps 1 })).modLink p
      (fun l => { (if tell then l.ask [some sp] (.swap k sp) else l) with
        active := (s.link p).active.map (fun j => if j = k then sp else j), failed := l.failed ||| BitVec.ofNat 5 (2 ^ k) })).spareOut 3 p false := by
  have hnat : (BitVec.ofNat 3 sp).toNat = sp := by simp; omega
  have h7 : BitVec.ofNat 3 sp ≠ 7 := fun h => by
    have := congrArg BitVec.toNat h
    rw [hnat] at this
    exact absurd this (by simp; omega)
  unfold State.failSpoke
  simp only [hl, hk, hs, hnat, hne, h7, Bool.and_self, Bool.not_true, Bool.false_eq_true, if_false]

theorem State.failSpoke_spare_port {sp : Nat} {tell : Bool} (hl : (s.port p).linked = true) (hk : (s.port p).spokesGood.getLsbD k = true) (hs : (s.port p).spare = BitVec.ofNat 3 sp)
    (hsp : sp < 5) (hne : sp ≠ k) (hp : twf {} s.fabric.ports = true) :
    (s.failSpoke p k tell).port p = { s.port p with spokesGood := (s.port p).spokesGood &&& ~~~(BitVec.ofNat 5 (2 ^ k)), spare := 7, spokeSwaps := satAdd (s.port p).spokeSwaps 1 } := by
  rw [State.failSpoke_spare hl hk hs hsp hne, State.spareOut_port, State.modLink_port, State.modPort_port hp]

theorem State.failSpoke_spare_link {sp : Nat} (hl : (s.port p).linked = true) (hk : (s.port p).spokesGood.getLsbD k = true) (hs : (s.port p).spare = BitVec.ofNat 3 sp)
    (hsp : sp < 5) (hne : sp ≠ k) (hw : twf {} s.fabric.links = true) :
    ((s.failSpoke p k false).link p).active = (s.link p).active.map (fun j => if j = k then sp else j) ∧ ((s.failSpoke p k false).link p).linkFrames = (s.link p).linkFrames := by
  have h : (s.failSpoke p k false).link p = { s.link p with
      active := (s.link p).active.map (fun j => if j = k then sp else j), failed := (s.link p).failed ||| BitVec.ofNat 5 (2 ^ k) } := by
    rw [State.failSpoke_spare hl hk hs hsp hne, State.spareOut_link, State.modLink_link, State.modPort_link]
    · rfl
    · exact hw
  exact ⟨congrArg PortLink.active h, (congrArg PortLink.linkFrames h).trans rfl⟩

theorem State.discardFrame_kept {n : Nat} {frame : List Byte} (hl : (s.port p).linked = true) (hk : (s.port p).spokesGood.getLsbD k = true) (hn : n ≠ 0 ∨ lineBad frame = true)
    (hp : twf {} s.fabric.ports = true) :
    s.discardFrame p k n frame = (s.modPort p (fun x => if n = 0 then { x with crcErrors := satAdd x.crcErrors 1 } else { x with fecUncorrectable := satAdd x.fecUncorrectable (min n 4) })).modLink p
      (fun l => l.askRetry s.now) := by
  have hbad : ¬ (n = 0 ∧ lineBad frame = false) := fun ⟨h0, hb⟩ => hn.elim (fun h => h h0) (fun h => by simp [h] at hb)
  unfold State.discardFrame
  rw [Port.hears_of_linked hl hk, if_neg (by decide), if_neg hbad]
  refine if_pos ?_
  rw [State.modPort_port hp]
  split <;> exact hl

theorem State.discardFrame_good {frame : List Byte} (hl : (s.port p).linked = true) (hk : (s.port p).spokesGood.getLsbD k = true) (hb : lineBad frame = false) :
    s.discardFrame p k 0 frame = s := by
  simp [State.discardFrame, Port.hears_of_linked hl hk, hb]

end

/-- What a frame slot leaves of a link: what it receives and grants. -/
def PortLink.sameIn (l l' : PortLink) : Prop := l'.rxSeq = l.rxSeq ∧ l'.freedData = l.freedData ∧ l'.freedCtrl = l.freedCtrl ∧ l'.lastSent = l.lastSent

section
variable {l : PortLink} {k now : Nat} {time : W64} {me : NegInfo} {sequenced : Bool} {f : SentFrame}

theorem PortLink.slot_sameIn : l.sameIn (l.slot k sequenced now time me).1 := by
  unfold PortLink.slot
  split
  · split
    · split <;> exact ⟨rfl, rfl, rfl, rfl⟩
    · exact ⟨rfl, rfl, rfl, rfl⟩
    · exact ⟨rfl, rfl, rfl, rfl⟩
  · dsimp only
    split
    · exact ⟨rfl, rfl, rfl, rfl⟩
    · split
      · split
        · exact ⟨rfl, rfl, rfl, rfl⟩
        · split <;> exact ⟨rfl, rfl, rfl, rfl⟩
      · split
        · split <;> exact ⟨rfl, rfl, rfl, rfl⟩
        · exact ⟨rfl, rfl, rfl, rfl⟩

/-- A slot with nothing to carry. -/
theorem PortLink.slot_idle (hf : l.linkFrames = []) (hr : l.resendAt = none) (hq : l.sendQueue = []) : (l.slot k sequenced now time me).2.1 = .idle := by
  simp [PortLink.slot, hf, PortLink.slotPasses, hr, PortLink.nextSeq, hq]

/-- A slot whose first link frame to send is a NEG. -/
theorem PortLink.slot_neg {g : Option Nat × LinkFrame} {a : Bool} {w : Nat} (hf : l.linkFrames.find? (fun x => l.sendable k x) = some g) (hg : g.2 = .neg a w) :
    (l.slot k sequenced now time me).2.1 = .neg me := by
  simp [PortLink.slot, hf, hg]

theorem PortLink.header_acks : (l.header f).ackSeq = l.rxSeq - 1 ∧ (l.header f).creditData = l.freedData ∧ (l.header f).creditCtrl = l.freedCtrl := by
  cases f <;> exact ⟨rfl, rfl, rfl⟩

end

section
variable {s : State} {p k : Nat}

/-- The state at the moment of spoke `k`'s next frame slot (R250). -/
def State.atSlot (s : State) (p k : Nat) : State :=
  if tget 0 (s.link p).lastSent k = 0 then s else s.upTo (tget 0 (s.link p).lastSent k + 128 * nsTicks)

/-- What the slot does to the link, the frame it carries and the retries it counts. -/
def State.slotOutcome (s : State) (p k : Nat) : PortLink × SentFrame × Nat :=
  if s.rst.inCore && (s.port p).linked then (s.link p, .hold, 0) else (s.link p).slot k ((s.port p).st == .up) s.now s.fabricTime (s.negOf p)

theorem State.atSlot_frame : (s.atSlot p k).fabric = s.fabric ∧ (s.atSlot p k).rst = s.rst ∧ (s.atSlot p k).mem = s.mem := by
  unfold State.atSlot
  split <;> exact ⟨rfl, rfl, rfl⟩

/-- The state after a frame slot at `u` with outcome `r`. -/
def State.slotSent (u : State) (p k : Nat) (r : PortLink × SentFrame × Nat) : State :=
  let v := (u.modPort p (fun x => { x with retries := satAdd x.retries r.2.2 })).modLink p (fun _ => { r.1 with lastSent := tset 0 r.1.lastSent k u.now })
  { v with fabric := { v.fabric with sent := tset none v.fabric.sent (5 * p + k) (some (r.1.header r.2.1, r.2.1)) } }

theorem State.frameSlot_eq (hk : (s.port p).hears k = true) : s.frameSlot p k = (s.atSlot p k).slotSent p k ((s.atSlot p k).slotOutcome p k) := by
  unfold State.frameSlot
  rw [hk]
  rfl

theorem State.slotSent_link {u : State} {r : PortLink × SentFrame × Nat} (hl : twf {} u.fabric.links = true) :
    (u.slotSent p k r).link p = { r.1 with lastSent := tset 0 r.1.lastSent k u.now } := by
  have h : (u.slotSent p k r).link p = ((u.modPort p (fun x => { x with retries := satAdd x.retries r.2.2 })).modLink p (fun _ => { r.1 with lastSent := tset 0 r.1.lastSent k u.now })).link p := rfl
  rw [h, State.modLink_link]
  exact hl

theorem State.slotSent_mem {u : State} {r : PortLink × SentFrame × Nat} : (u.slotSent p k r).mem = u.mem := rfl

theorem State.slotSent_now {u : State} {r : PortLink × SentFrame × Nat} : (u.slotSent p k r).now = u.now := rfl

theorem State.slotSent_lastSent {u : State} {r : PortLink × SentFrame × Nat} (hl : twf {} u.fabric.links = true) (hw : twf 0 r.1.lastSent = true) :
    tget 0 ((u.slotSent p k r).link p).lastSent k = (u.slotSent p k r).now := by
  rw [State.slotSent_link hl, State.slotSent_now]
  exact tget_tset_same hw

theorem State.slotSent_sent {u : State} {r : PortLink × SentFrame × Nat} (hs : twf none u.fabric.sent = true) :
    tget none (u.slotSent p k r).fabric.sent (5 * p + k) = some (r.1.header r.2.1, r.2.1) := tget_tset_same hs

theorem State.slotOutcome_sameIn : (s.link p).sameIn (s.slotOutcome p k).1 := by
  unfold State.slotOutcome
  split
  · exact ⟨rfl, rfl, rfl, rfl⟩
  · exact PortLink.slot_sameIn

theorem State.slotOutcome_hold (hc : s.rst.inCore = true) (hl : (s.port p).linked = true) : (s.slotOutcome p k).2.1 = .hold := by
  simp [State.slotOutcome, hc, hl]

theorem State.slotOutcome_link (h : s.rst.inCore = false ∨ (s.port p).linked = false) :
    s.slotOutcome p k = (s.link p).slot k ((s.port p).st == .up) s.now s.fabricTime (s.negOf p) := by
  rcases h with h | h <;> simp [State.slotOutcome, h]

theorem State.atSlot_now (h : tget 0 (s.link p).lastSent k ≠ 0) : (s.atSlot p k).now = max s.now (tget 0 (s.link p).lastSent k + 128 * nsTicks) :=
  congrArg State.now (if_neg h)

theorem State.atSlot_link : (s.atSlot p k).link p = s.link p := congrArg (fun x : FabricState => x.link p) State.atSlot_frame.1

theorem State.atSlot_port : (s.atSlot p k).port p = s.port p := congrArg (fun x : FabricState => x.port p) State.atSlot_frame.1

theorem State.atSlot_negOf : (s.atSlot p k).negOf p = s.negOf p := by
  simp only [State.negOf, State.atSlot_frame.1, State.atSlot_port]

theorem State.atSlot_sameIn : (s.link p).sameIn ((s.atSlot p k).slotOutcome p k).1 := by
  have h := State.slotOutcome_sameIn (s := s.atSlot p k) (p := p) (k := k)
  rwa [State.atSlot_link] at h

/-- Outside a core reset, or on a port that is not linked, the slot carries what the link has for it. -/
theorem State.atSlot_outcome (h : s.rst.inCore = false ∨ (s.port p).linked = false) :
    (s.atSlot p k).slotOutcome p k = (s.link p).slot k ((s.port p).st == .up) (s.atSlot p k).now (s.atSlot p k).fabricTime (s.negOf p) := by
  have hlink := State.slotOutcome_link (s := s.atSlot p k) (p := p) (k := k) (by rw [State.atSlot_frame.2.1, State.atSlot_port]; exact h)
  rwa [State.atSlot_link, State.atSlot_port, State.atSlot_negOf] at hlink

theorem State.atSlot_hold (hc : s.rst.inCore = true) (hl : (s.port p).linked = true) : ((s.atSlot p k).slotOutcome p k).2.1 = .hold :=
  State.slotOutcome_hold (by rw [State.atSlot_frame.2.1]; exact hc) (by rw [State.atSlot_port]; exact hl)

theorem State.atSlot_idle (h : s.rst.inCore = false ∨ (s.port p).linked = false) (hf : (s.link p).linkFrames = []) (hr : (s.link p).resendAt = none)
    (hq : (s.link p).sendQueue = []) : ((s.atSlot p k).slotOutcome p k).2.1 = .idle := by
  rw [State.atSlot_outcome h]
  exact PortLink.slot_idle hf hr hq

theorem State.atSlot_neg {g : Option Nat × LinkFrame} {a : Bool} {w : Nat} (h : s.rst.inCore = false ∨ (s.port p).linked = false)
    (hf : (s.link p).linkFrames.find? (fun x => (s.link p).sendable k x) = some g) (hg : g.2 = .neg a w) :
    ((s.atSlot p k).slotOutcome p k).2.1 = .neg (s.negOf p) := by
  rw [State.atSlot_outcome h]
  exact PortLink.slot_neg hf hg


/-- What a frame slot of spoke `k` carries, and what it leaves of its link (R250, R255). -/
theorem State.frameSlot_carries (hs : twf none s.fabric.sent = true) (hl : twf {} s.fabric.links = true) (hw : twf 0 (s.link p).lastSent = true) :
    tget none ((s.atSlot p k).slotSent p k ((s.atSlot p k).slotOutcome p k)).fabric.sent (5 * p + k)
      = some (((s.atSlot p k).slotOutcome p k).1.header ((s.atSlot p k).slotOutcome p k).2.1, ((s.atSlot p k).slotOutcome p k).2.1)
    ∧ (((s.atSlot p k).slotOutcome p k).1.header ((s.atSlot p k).slotOutcome p k).2.1).ackSeq = (s.link p).rxSeq - 1
    ∧ (((s.atSlot p k).slotOutcome p k).1.header ((s.atSlot p k).slotOutcome p k).2.1).creditData = (s.link p).freedData
    ∧ (((s.atSlot p k).slotOutcome p k).1.header ((s.atSlot p k).slotOutcome p k).2.1).creditCtrl = (s.link p).freedCtrl
    ∧ (s.rst.inCore = true → (s.port p).linked = true → ((s.atSlot p k).slotOutcome p k).2.1 = .hold)
    ∧ ((s.rst.inCore = false ∨ (s.port p).linked = false) → (s.link p).linkFrames = [] → (s.link p).resendAt = none → (s.link p).sendQueue = [] →
      ((s.atSlot p k).slotOutcome p k).2.1 = .idle)
    ∧ (∀ (g : Option Nat × LinkFrame) (a : Bool) (w : Nat), (s.rst.inCore = false ∨ (s.port p).linked = false) →
      (s.link p).linkFrames.find? (fun x => (s.link p).sendable k x) = some g → g.2 = .neg a w → ((s.atSlot p k).slotOutcome p k).2.1 = .neg (s.negOf p))
    ∧ (tget 0 (s.link p).lastSent k ≠ 0 → ((s.atSlot p k).slotSent p k ((s.atSlot p k).slotOutcome p k)).now = max s.now (tget 0 (s.link p).lastSent k + 128 * nsTicks))
    ∧ tget 0 (((s.atSlot p k).slotSent p k ((s.atSlot p k).slotOutcome p k)).link p).lastSent k = ((s.atSlot p k).slotSent p k ((s.atSlot p k).slotOutcome p k)).now
    ∧ ((s.atSlot p k).slotSent p k ((s.atSlot p k).slotOutcome p k)).mem = s.mem := by
  obtain ⟨hf, _, hm⟩ := State.atSlot_frame (s := s) (p := p) (k := k)
  obtain ⟨hrx, hfd, hfc, hls⟩ := State.atSlot_sameIn (s := s) (p := p) (k := k)
  obtain ⟨hack, hcd, hcc⟩ := PortLink.header_acks (l := ((s.atSlot p k).slotOutcome p k).1) (f := ((s.atSlot p k).slotOutcome p k).2.1)
  refine ⟨State.slotSent_sent (by rw [hf]; exact hs), hack.trans (by rw [hrx]), hcd.trans hfd, hcc.trans hfc,
    State.atSlot_hold, State.atSlot_idle, fun _ _ _ => State.atSlot_neg, fun hlast => State.slotSent_now.trans (State.atSlot_now hlast), ?_, State.slotSent_mem.trans hm⟩
  exact State.slotSent_lastSent (by rw [hf]; exact hl) (by rw [hls]; exact hw)

end

/-- Settles O36. -/
theorem linkFramesActOnTheirPort : Obligations.link_frames_act_on_their_port := by
  refine ⟨⟨fun s p k h t hc hk ht => ?idle, fun s p k h hc hst hk ho => next_clocked hc (State.holdFrame_up hst hk ho), fun s p k h id v port mask hc hk hm hp hl => ⟨fun hst hn => ?negFirst,
      fun t0 hst hn ht => ?negAnswer, fun hst => ?negPeer⟩, fun s p k h x l i e hc hst hk hw hl hi he hr => ?retry, fun s p k failed sp h hc hst hk hkf hs hne hp hl => ?swap,
      fun s p k n frame hc hl hk hp hw => ⟨fun hn => ?discarded, fun hn hb => ?good⟩, fun s p g hc hg => ?gap⟩, fun s p k hc hk hs hl hw => ?slot⟩
  case idle =>
    subst ht
    exact next_clocked hc ((if_pos hk).trans (by simp [State.heard]))
  case negFirst =>
    have e := State.modLink_modLink_link (f := fun l => { l with lastValid := tset 0 l.lastValid k s.now }) (g := fun l => l.negIn k s.now { id := id, idValid := v, port := port, mask := mask }) (p := p) hl
    have e2 := e.trans (PortLink.negIn_first hn)
    refine ⟨_, next_clocked hc (State.negFrame_align hst hk hm), rfl, rfl, congrArg PortLink.peer e2, congrArg PortLink.linkFrames e2, fun q hq => ⟨rfl, ?_⟩⟩
    have hne : q.val ≠ p.val := fun h => hq (Fin.ext h)
    exact (State.modLink_link_other (State.modLink_twf hl) hne).trans (State.modLink_link_other hl hne)
  case negAnswer =>
    have e := State.modLink_modLink_link (f := fun l => { l with lastValid := tset 0 l.lastValid k s.now }) (g := fun l => l.negIn k s.now { id := id, idValid := v, port := port, mask := mask }) (p := p) hl
    have e2 := e.trans (PortLink.negIn_answer hn ht)
    exact ⟨_, next_clocked hc (State.negFrame_align hst hk hm), rfl, (congrArg PortLink.negAcked e2).trans rfl, (congrArg PortLink.delayNs e2).trans rfl, (congrArg PortLink.linkFrames e2).trans rfl⟩
  case negPeer => exact ⟨_, next_clocked hc rfl, State.negFrame_negotiate hst hk hm hp⟩
  case retry =>
    refine ⟨_, next_clocked hc (State.retryFrame_found hst hk hw hl hi he hr), ?_, rfl, rfl⟩
    rw [State.modLink_link (State.modLink_twf hw), State.modLink_link hw, ← hl]
  case swap =>
    have hln := Port.linked_of_up hst
    have heq : s.swapFrame p k failed h = (s.modLink p (fun l => l.refresh k s.now h)).failSpoke p failed false := by
      unfold State.swapFrame
      rw [State.heard_of_ne (by simp [hst]), hln, Port.hears_of_linked hln hk]
      rfl
    obtain ⟨hact, hfr⟩ := State.failSpoke_spare_link (s := s.modLink p (fun l => l.refresh k s.now h)) hln hkf hs sp.isLt (fun h => hne (Fin.ext h)) (State.modLink_twf hl)
    rw [State.modLink_link hl] at hact hfr
    exact ⟨_, next_clocked hc heq, State.failSpoke_spare_port (s := s.modLink p (fun l => l.refresh k s.now h)) hln hkf hs sp.isLt (fun h => hne (Fin.ext h)) hp, hact, hfr⟩
  case discarded =>
    refine ⟨_, next_clocked hc (State.discardFrame_kept hl hk hn hp), State.modLink_link hw, ?_⟩
    rw [State.modLink_port, State.modPort_port hp]
  case good =>
    subst hn
    exact next_clocked hc (State.discardFrame_good hl hk hb)
  case gap =>
    refine next_clocked hc ?_
    simp [State.gapTimeout, hg, State.upTo]
  case slot => exact ⟨_, _, _, next_clocked hc (State.frameSlot_eq hk), State.frameSlot_carries hs hl hw⟩

end Sys2Proof.Machine
end

section
/-! PROOFS. Spokes that fail and ports that come up and go down (O38). -/

namespace Sys2Proof.Machine

open Sys2Proof.Safety

section
variable {s : State} {p k : Nat} {mask : BitVec 5} {q : Req}

/-- The failure of a spoke of a port without a spare (R256). -/
theorem State.failSpoke_degraded (hl : (s.port p).linked = true) (hk : (s.port p).spokesGood.getLsbD k = true) (hs : (s.port p).spare = 7) (hk5 : k < 5) :
    ∃ u : State, s.failSpoke p k true = u.spareOut 3 p true
      ∧ u.fabric.ports = tmod {} s.fabric.ports p (fun x => { x with
          spokesGood := x.spokesGood &&& ~~~(BitVec.ofNat 5 (2 ^ k)), degraded := true, activeLessOne := BitVec.ofNat 2 (((s.link p).active.filter (fun j => j != k)).length - 1) }) := by
  have h7 : (7 : BitVec 3).toNat ≠ k := by simp; omega
  unfold State.failSpoke
  simp only [hl, hk, hs, h7, Bool.and_self, Bool.not_true, Bool.false_eq_true, if_false, if_true]
  exact ⟨_, rfl, rfl⟩

theorem State.othersDeliver_none (h : ∀ j < 5, j ≠ k → tget 0 (s.link p).lastValid j ≤ tget 0 (s.link p).lastValid k) : s.othersDeliver p k = false := by
  refine List.any_eq_false.mpr fun j hj => ?_
  have hj5 : j < 5 := lt_of_mem_bitsOf hj
  simp only [Bool.and_eq_true, bne_iff_ne, decide_eq_true_eq, not_and]
  exact fun hne => by have := h j hj5 hne; omega

theorem State.errorWindow_hears {symbols errors : Nat} (hk : (s.port p).hears k = true) :
    s.errorWindow p k symbols errors = if symbols < 100000 * errors then (s.modPort p (fun x => { x with fecCorrected := satAdd x.fecCorrected errors })).failSpoke p k true
      else s.modPort p (fun x => { x with fecCorrected := satAdd x.fecCorrected errors }) := by
  simp [State.errorWindow, hk]

/-- A port that no operation runs over is lost. -/
theorem State.portLost_none {st : PortSt} (ho : ∀ o ∈ s.fabric.ops, (s.slot o.slot).ports.contains p = false) {u : State}
    (hu : u = (s.modPort p (fun x => x.dropTo st)).modLink p (fun _ => {})) : s.portLost p st = if (s.port p).linked then u.drainAll else u := by
  subst hu
  unfold State.portLost
  dsimp only
  rw [State.portEnds_none (s := (s.modPort p (fun x => x.dropTo st)).modLink p (fun _ => {})) ho]

section
variable {n : NegInfo}

theorem State.bringUp_light (hm : fourOf mask = true) (hst : (s.port p).st = .dark) :
    s.bringUp p .lightReceived mask = s.modPort p (fun x => { x with st := .light, laserFeedLost := false }) := by
  simp [State.bringUp, hst, hm]

theorem State.bringUp_locked (hm : fourOf mask = true) (hst : (s.port p).st = .light) : s.bringUp p .ringsLocked mask = s.modPort p (fun x => { x with st := .tune }) := by
  simp [State.bringUp, hst, hm]

theorem State.bringUp_tuned (hm : fourOf mask = true) (hst : (s.port p).st = .tune) : s.bringUp p .fecLocked mask = s.tuned p mask := by
  simp [State.bringUp, hst, hm]

theorem State.bringUp_negotiate (hst : (s.port p).st = .align) (hn : (s.link p).peer = some n) (hg : (s.port p).spokesGood ≠ 0#5)
    (ha : (s.port p).spokesGood &&& ~~~(s.link p).negAcked = 0) : s.bringUp p .negAcknowledged mask = s.modPort p (fun x => { x.peered n with st := .negotiate }) := by
  simp [State.bringUp, hst, State.negotiate, hn, hg, ha]

/-- A port comes up with all five spokes: the fifth is its spare (R255). -/
theorem State.bringUp_up (hst : (s.port p).st = .negotiate) (hn : (s.link p).peer = some n) (hm : n.mask = (s.port p).spokesGood)
    (hb : bitsOf 5 (s.port p).spokesGood.toNat = [0, 1, 2, 3, 4]) :
    s.bringUp p .masksAgree mask = (s.modPort p (fun x => { x with st := .up, spokesGood := (s.port p).spokesGood, spare := 4, degraded := false, activeLessOne := 3 })).modLink p (fun l =>
      { ({} : PortLink) with
        active := [0, 1, 2, 3], delayNs := l.delayNs, peer := l.peer, negAcked := l.negAcked, negSentAt := l.negSentAt, linkFrames := l.linkFrames, lastValid := l.lastValid, lastSent := l.lastSent }) := by
  have hg : (s.port p).spokesGood ≠ 0#5 := fun h => by rw [h] at hb; exact absurd hb (by decide)
  have hagree : s.masksAgree p = true := by simp [State.masksAgree, hg, hn, hm]
  simp only [State.bringUp, hst]
  unfold State.portUp
  simp only [hagree, hb]
  rfl

end

theorem portControlRow_enable (h : bit (q.u32 4) 0 = true) (hst : (s.port (q.u32 0)).st = .disabled) :
    portControlRow q s = (s.modPort (q.u32 0) (fun x => { x with st := .dark }), {}) := by
  simp [portControlRow, h, hst]

theorem portControlRow_enabled (h : bit (q.u32 4) 0 = true) (hst : (s.port (q.u32 0)).st ≠ .disabled) : portControlRow q s = (s, {}) := by
  simp [portControlRow, h, hst]

theorem portControlRow_disable (h : bit (q.u32 4) 0 = false) : portControlRow q s = (s.portLost (q.u32 0) .disabled, {}) := by
  simp [portControlRow, h]

/-- The identity is set, and every port that is UP tells it. -/
theorem deviceIdRow_set {ps : List Nat} (h : s.fabric.idValid = false) (hps : (List.range 4).filter (fun p => (s.port p).st == .up) = ps) :
    deviceIdRow q s = ({ s with fabric := each ps (fun p x => x.modLink p (fun l => l.askNeg (s.port p).spokesGood)) { s.fabric with deviceId := BitVec.ofNat 20 (q.u32 0), idValid := true } }, {}) := by
  simp [deviceIdRow, h, hps]

theorem deviceIdRow_again (h : s.fabric.idValid = true) : deviceIdRow q s = (s, notPermitted) := by simp [deviceIdRow, h]

/-- The one number below 4 that meets a condition. -/
theorem range_filter_eq_singleton {P : Nat → Bool} {p : Fin 4} (h : ∀ i : Fin 4, P i = true ↔ i = p) : (List.range 4).filter P = [p.val] := by
  have hP : ∀ i : Fin 4, P i = decide (i = p) := fun i => Bool.eq_iff_iff.mpr ((h i).trans decide_eq_true_iff.symm)
  have h0 := hP 0
  have h1 := hP 1
  have h2 := hP 2
  have h3 := hP 3
  clear h hP
  revert h0 h1 h2 h3
  fin_cases p <;> simp +contextual [List.range_succ, Fin.ext_iff]

end

/-- Settles O38. -/
theorem spokesFailAndPortsComeUp : Obligations.spokes_fail_and_ports_come_up := by
  refine ⟨⟨fun s p k sp hc hst hk hs hne => next_clocked hc ?spare, fun s p k hc hst hk hs => ?degraded, fun s p k hc hl hk ho => next_clocked hc ?silent,
      fun s p k symbols errors hc hl hk he => next_clocked hc ?window, fun s p k symbols errors hc hl hk he => next_clocked hc ?tooMany, fun s p k hc ho => next_clocked hc ?heard,
      fun s u p hc hl ho hu => next_clocked hc ?down,
      fun s p mask hc ho hm => ⟨fun hst => next_clocked hc ((if_pos ho).trans (State.bringUp_light hm hst)), fun hst => next_clocked hc ((if_pos ho).trans (State.bringUp_locked hm hst)),
        fun hst => next_clocked hc ((if_pos ho).trans (State.bringUp_tuned hm hst)), fun n hst hn hg ha => next_clocked hc ((if_pos ho).trans (State.bringUp_negotiate hst hn hg ha))⟩,
      fun s p mask n hc ho hst hn hm hb hp hw => ?up⟩,
    fun s f m h hb hst => congrArg Host.Outcome.next (serve_of_admitted h (portControlRow_enable hb hst) rfl),
    fun s f m h hb hst => congrArg Host.Outcome.next (serve_of_admitted h (portControlRow_enabled hb hst) rfl), fun s u f m p h hb hpe ho hu => ?disable,
    fun s f m h hv hst => ?noneUp, fun s f m p h hv hst => ?oneUp, fun s f m h hv => congrArg Host.Outcome.next (serve_refused_of_admitted h (deviceIdRow_again hv) (by decide))⟩
  case spare => exact State.failSpoke_spare (Port.linked_of_up hst) hk hs sp.isLt (fun h => hne (Fin.ext h))
  case degraded =>
    obtain ⟨u, hu, hports⟩ := State.failSpoke_degraded (Port.linked_of_up hst) hk hs k.isLt
    exact ⟨u, next_clocked hc hu, hports⟩
  case silent => simp [State.silentSpoke, hl, Port.hears_of_linked hl hk, ho]
  case window => exact (State.errorWindow_hears (Port.hears_of_linked hl hk)).trans (if_neg (by omega))
  case tooMany => exact (State.errorWindow_hears (Port.hears_of_linked hl hk)).trans (if_pos he)
  case heard =>
    have := State.othersDeliver_none (s := s) (p := p) (k := k) fun j hj hne => ho ⟨j, hj⟩ (fun h => hne (congrArg Fin.val h))
    simp [State.silentSpoke, this]
  case down =>
    have hu' : (u.port p).linked = true := by rw [hu]; exact hl
    have hlost := State.portLost_none (s := u) (p := p) (st := .dark) (by rw [hu]; exact ho) rfl
    unfold State.portDown
    simp only [hl, if_true, ← hu]
    rw [hlost, if_pos hu']
  case up =>
    refine ⟨_, next_clocked hc ((if_pos ho).trans (State.bringUp_up hst hn hm hb)), ?_⟩
    rw [State.modLink_port, State.modPort_port hp, State.modLink_link (s := s.modPort p _) hw]
    exact ⟨rfl, rfl, rfl, rfl, rfl, rfl, rfl⟩
  case disable =>
    subst hpe
    exact congrArg Host.Outcome.next (serve_of_admitted h ((portControlRow_disable hb).trans (congrArg (fun x : State => (x, ({} : Answer))) (State.portLost_none ho hu))) rfl)
  case noneUp =>
    refine congrArg Host.Outcome.next (serve_of_admitted h (deviceIdRow_set (ps := []) hv (List.filter_eq_nil_iff.mpr fun i hi => ?_)) rfl)
    have := hst ⟨i, List.mem_range.mp hi⟩
    simpa using this
  case oneUp =>
    refine congrArg Host.Outcome.next (serve_of_admitted h (deviceIdRow_set (ps := [p.val]) hv (range_filter_eq_singleton fun i => ?_)) rfl)
    simpa using hst i

end Sys2Proof.Machine
end

section
/-! PROOFS. Pelotons join and dissolve (O39). -/

namespace Sys2Proof.Machine

open Sys2Proof.Safety

section
variable {s : State} {q : Req} {i : Nat}

/-- The lowest number below 64 of a slot not in use. -/
theorem find_free_slot (hi : i < 64) (hv : (s.slot i).valid = false) (hlt : ∀ j < i, (s.slot j).valid = true) :
    (List.range 64).find? (fun i => !(s.slot i).valid) = some i := by
  rw [List.find?_range_eq_some]
  exact ⟨by simp [hv], List.mem_range.mpr hi, fun j hj => by simp [hlt j hj]⟩

theorem formRow_join (hf : (List.range 64).find? (fun i => !(s.slot i).valid) = some i) (hb : s.formBad (q.slot 0) 0 none = none) :
    formRow q s = (s.startJoin i (q.slot 0) q.cmd, { status := stAccepted, reply := natLe 4 i, names := q.fn }) := by
  simp [formRow, hf, hb]

theorem formRow_full (hv : ∀ i < 64, (s.slot i).valid = true) : formRow q s = (s, { status := stNoMemory }) := by
  have hnone : (List.range 64).find? (fun i => !(s.slot i).valid) = none := List.find?_eq_none.mpr fun i hi => by simp [hv i (List.mem_range.mp hi)]
  simp [formRow, hnone]

/-- Sending JOINs queues frames on links and changes nothing else. -/
theorem State.each_sendJoin {ds : List Nat} : ∃ l, each ds (fun d s => s.sendJoin i d) s = { s with fabric := { s.fabric with links := l } } := by
  induction ds generalizing s with
  | nil => exact ⟨_, rfl⟩
  | cons d ds ih => exact ih (s := s.sendJoin i d)

theorem reformRow_join {x : Slot} (hj : s.fabric.joining.any (fun j => j.slot == q.u32 0) = false) (he : (s.slot (q.u32 0)).epoch ≠ 0xFFFFFFFF)
    (hx : x = { q.slot 4 with pelotonId := (s.slot (q.u32 0)).pelotonId }) (hxe : x.epoch = (s.slot (q.u32 0)).epoch + 1) (hb : s.formBad x 4 (some (q.u32 0)) = none) :
    reformRow q s = ((s.groupChanged (q.u32 0)).startJoin (q.u32 0) x q.cmd, { status := stAccepted, names := q.fn }) := by
  subst hx
  unfold reformRow
  simp only [hj, Bool.false_eq_true, if_false, if_neg he, hb]
  exact if_neg (not_not.mpr hxe)

theorem dissolveRow_idle (hj : s.fabric.joining.any (fun j => j.slot == q.u32 0) = false) (ho : s.opOn (q.u32 0) = none) (hh : s.heldOn (q.u32 0) = []) :
    dissolveRow q s = ({ s with fabric := s.fabric.freeSlot (q.u32 0) }, {}) := by
  simp [dissolveRow, hj, State.dissolve, State.groupChanged, ho, hh, each]

theorem State.joinRepeat_sends {u : State} {j : Joining} (hj : s.fabric.joining.find? (fun j => j.slot == i) = some j)
    (hu : u = (s.upTo j.repeatAt).modJoining i (fun j => { j with repeatAt := j.repeatAt + 10 * usTicks })) :
    s.joinRepeat i = each ((u.slot i).dirs.filter (fun d => !j.acked.contains d && (u.port ((u.slot i).dirPort d)).linked)) (fun d v => v.sendJoin i d) u := by
  subst hu
  simp [State.joinRepeat, hj]

theorem State.joinRepeat_none (hj : s.fabric.joining.find? (fun j => j.slot == i) = none) : s.joinRepeat i = s := by simp [State.joinRepeat, hj]

/-- A join whose members have all acknowledged sends no JOIN again. -/
theorem State.joinRepeat_acked {j : Joining} (hj : s.fabric.joining = [j]) (hs : j.slot = i) (ha : ∀ d ∈ (s.slot i).dirs, j.acked.contains d = true) :
    s.joinRepeat i = { s.upTo j.repeatAt with fabric := { s.fabric with joining := [{ j with repeatAt := j.repeatAt + 10 * usTicks }] } } := by
  have hu : (s.upTo j.repeatAt).modJoining i (fun j => { j with repeatAt := j.repeatAt + 10 * usTicks })
      = { s.upTo j.repeatAt with fabric := { s.fabric with joining := [{ j with repeatAt := j.repeatAt + 10 * usTicks }] } } := by
    simp [State.modJoining, State.upTo, hj, hs, mapIf]
  have hnone : ∀ P : Nat → Bool, (s.slot i).dirs.filter (fun d => !j.acked.contains d && P d) = [] := fun P =>
    List.filter_eq_nil_iff.mpr fun d hd => by rw [ha d hd]; simp
  rw [State.joinRepeat_sends (by simp [hj, hs]) hu.symm]
  exact congrArg (fun l => each l _ _) (hnone _)

/-- The time limit of a join, which a member has not acknowledged. -/
theorem State.joinLimit_lost {j : Joining} {d : Nat} (hj : s.fabric.joining = [j]) (hs : j.slot = i) (hd : (s.slot i).dirs.find? (fun d => !j.acked.contains d) = some d) :
    s.joinLimit i = State.complete { s.upTo (j.since + (s.slot i).joinLimit.toNat * msTicks) with fabric := { s.fabric with joining := [] } } j.cmd
      { status := stPeerLost, arg0 := ((s.slot i).dirId d).toNat } := by
  have hf : s.fabric.joining.find? (fun j => j.slot == i) = some j := by simp [hj, hs]
  unfold State.joinLimit
  simp only [hf, hd, Option.getD_some]
  simp [State.joinEnds, State.upTo, hj, hs]

end

/-- Settles O39. -/
theorem pelotonsJoinAndDissolve : Obligations.pelotons_join_and_dissolve := by
  refine ⟨fun s f m i h hi hv hlt hb => ?form, fun s f m h hv => ?full, fun s i x c => ?started, fun s f m i x h hi hj he hx hxe hb => ?reform, fun s f m h ho => ?alien,
    fun s f m i h hi hj ho hh => ?dissolve, fun s slot j hc hj hs ha => next_clocked hc (State.joinRepeat_acked hj hs ha), fun s u slot j hc hj hu => next_clocked hc (State.joinRepeat_sends hj hu),
    fun s slot hc hj => next_clocked hc (State.joinRepeat_none hj), fun s slot j d hc hj hs hd => next_clocked hc (State.joinLimit_lost hj hs hd)⟩
  case form => exact congrArg (fun t : State => Host.Outcome.next t.drainAll) (serve_accepted_of_admitted h rfl (formRow_join (find_free_slot hi hv hlt) hb) rfl)
  case full => exact congrArg (fun t : State => Host.Outcome.next t.drainAll) (serve_refused_of_admitted h (formRow_full hv) (by decide))
  case started =>
    unfold State.startJoin
    obtain ⟨l, hl⟩ := State.each_sendJoin (i := i) (ds := x.dirs) (s := { s.modSlot i (fun _ => { x with valid := true, joined := false, broken := false, nextOp := 0, opsWrapped := false }) with
      fabric := { (s.modSlot i (fun _ => { x with valid := true, joined := false, broken := false, nextOp := 0, opsWrapped := false })).fabric with
        gone := s.fabric.gone.filter (fun g => g.id != x.pelotonId)
        joining := s.fabric.joining ++ [{ slot := i, cmd := c, since := s.now, repeatAt := s.now + 10 * usTicks }] } })
    refine hl ▸ ?_
    exact ⟨rfl, rfl, rfl, rfl, rfl, rfl⟩
  case reform =>
    subst hi
    exact congrArg (fun t : State => Host.Outcome.next t.drainAll) (serve_accepted_of_admitted h rfl (reformRow_join hj he hx hxe hb) rfl)
  case alien =>
    obtain ⟨ht, hcode, hl⟩ := h
    exact congrArg (fun t : State => Host.Outcome.next t.drainAll) (serve_refused ht hcode (refusal_of_not_permitted hl (by simp [reformForm, show (s.ctl.req f m).fn = f from rfl, ho])))
  case dissolve =>
    subst hi
    exact congrArg (fun t : State => Host.Outcome.next t.drainAll) (serve_of_admitted h (dissolveRow_idle hj ho hh) rfl)

end Sys2Proof.Machine
end

section
/-! PROOFS. Collectives start, sum and complete (O40). -/

namespace Sys2Proof.Machine

open Sys2Proof.Safety

section
variable {s : State} {q : Req} {f : Nat} {x : QDesc} {d : CollDesc}

theorem collPostRow_posted (h : (s.queue .collective q.fn).descs.length + q.u32 0 % 8 ≤ 128) :
    collPostRow q s = (s.setQueue .collective q.fn ((s.queue .collective q.fn).post (q.entries 16 64 (q.u32 0 % 8))), {}) := if_neg (by omega)

theorem collPostRow_full (h : 128 < (s.queue .collective q.fn).descs.length + q.u32 0 % 8) : collPostRow q s = (s, busy) := if_pos h

theorem State.collStart_waits (hh : (s.queue .collective f).halted = false) (hr : s.collResumes f = none) (hq : (s.queue .collective f).descs.find? (fun q => !q.started) = some x)
    (hm : s.mayStart f x = false) : s.collStart f = s := by
  have hn : s.collNext f = none := by simp [State.collNext, hq, hm, Option.filter]
  unfold State.collStart
  simp only [hh, hr, hn, Bool.false_eq_true, if_false]

theorem State.collStart_refused {st : Nat} (hh : (s.queue .collective f).halted = false) (hr : s.collResumes f = none)
    (hq : (s.queue .collective f).descs.find? (fun q => !q.started) = some x) (hm : s.mayStart f x = true) (hc : s.collCheck f (parseColl x.bytes) = some st) :
    s.collStart f = s.collRefused f x st 0 nobody := by
  have hn : s.collNext f = some x := by simp [State.collNext, hq, hm, Option.filter]
  unfold State.collStart
  simp only [hh, hr, hn, hc, Bool.false_eq_true, if_false]

/-- The queue's next descriptor starts, when nothing held resumes. -/
theorem State.collStart_starts (hh : (s.queue .collective f).halted = false) (hr : s.collResumes f = none)
    (hq : (s.queue .collective f).descs.find? (fun q => !q.started) = some x) (hm : s.mayStart f x = true) (hc : s.collCheck f (parseColl x.bytes) = none) :
    s.collStart f = s.collStarts f x := by
  have hn : s.collNext f = some x := by simp [State.collNext, hq, hm, Option.filter]
  unfold State.collStart
  simp only [hh, hr, hn, hc, Bool.false_eq_true, if_false]

section
variable (hd : d = parseColl x.bytes) (hk : d.kind < 3)
include hd hk

theorem State.collStarts_late (he : d.epoch < (s.slot d.slot).epoch.toNat) : s.collStarts f x = s.collRefused f x stGroupChanged rsnReformed nobody := by
  unfold State.collStarts
  simp only [← hd]
  rw [if_neg (by omega), if_pos he]

/-- A descriptor of an epoch to come is held. -/
theorem State.collStarts_held (he : (s.slot d.slot).epoch.toNat < d.epoch) :
    s.collStarts f x = s.setQueue .collective f ((s.queue .collective f).begin x s.ns) := by
  have hh : (s.slot d.slot).holds d = true := by simp [Slot.holds, he]
  unfold State.collStarts
  simp only [← hd]
  rw [if_neg (by omega), if_neg (by omega), if_pos hh]

theorem State.collStarts_joined (he : d.epoch = (s.slot d.slot).epoch.toNat) (hb : (s.slot d.slot).broken = false) (hj : (s.slot d.slot).joined = true) :
    s.collStarts f x = s.beginOp f x := by
  have hh : (s.slot d.slot).holds d = false := by simp [Slot.holds, he, hj]
  unfold State.collStarts
  simp only [← hd]
  rw [if_neg (by omega), if_neg (by omega), if_neg (by simp [hh]), if_neg (by simp [hb])]

end

/-- The token operation of a member other than the first of its row sends nothing at its start. -/
theorem State.openOp_token {o : CollOp} (hk : o.d.kind = 2) (hx : (s.slot o.slot).posX ≠ 0) : s.openOp o = s := by
  unfold State.openOp
  simp only [hk]
  exact if_neg hx

/-- The start of a token operation (R263, R272). -/
theorem State.beginOp_token (hd : d = parseColl x.bytes) (hk : d.kind = 2) (hx : (s.slot d.slot).posX ≠ 0) (hw : twf {} s.fabric.slots = true) :
    ∃ (u : State) (o : CollOp), s.beginOp f x = u.drainAll ∧ u.fabric.ops = s.fabric.ops ++ [o] ∧ o.slot = d.slot ∧ o.fn = f ∧ o.opSeq = (s.slot d.slot).nextOp
      ∧ o.digest = d.digest (s.slot d.slot).nextOp ∧ o.desc.started = true ∧ u.fabric.slots = tset {} s.fabric.slots d.slot (s.slot d.slot).takeOp ∧ u.mem = s.mem := by
  unfold State.beginOp
  simp only [← hd, hk, if_true]
  rw [State.openOp_token]
  · exact ⟨_, _, rfl, rfl, rfl, rfl, rfl, rfl, rfl, rfl, rfl⟩
  · exact (congrArg CollDesc.kind hd.symm).trans hk
  · have hs : State.slot ((s.setQueue .collective f ((s.queue .collective f).begin x (if x.started then x.startNs else s.ns))).modSlot d.slot Slot.takeOp) d.slot = (s.slot d.slot).takeOp :=
      tget_tmod_same hw
    exact fun h => hx ((congrArg Slot.posX hs).symm.trans h)

section
variable {i : Nat} {o : CollOp}

theorem State.collComplete_waits (ho : s.opOn i = some o) (hd : s.opDone o = false) : s.collComplete i = s := by simp [State.collComplete, ho, hd]

theorem State.collComplete_done {u : State} (ho : s.opOn i = some o) (hd : s.opDone o = true) (h2 : o.d.kind = 2 → u = s)
    (hw : o.d.kind ≠ 2 → s.writeVirt o.fn o.d.dst o.result = .ok u) (he : o.d.event = false) :
    s.collComplete i = State.drainAll
      (if o.d.doneEn then ((u.dropOp i).collLeaves o.fn o.desc false).addHub o.d.doneCtr o.d.doneAmount else (u.dropOp i).collLeaves o.fn o.desc false) := by
  have hres : (if o.d.kind = 2 then .ok s else s.writeVirt o.fn o.d.dst o.result) = .ok u := by
    split
    · next hk => rw [h2 hk]
    · next hk => exact hw hk
  unfold State.collComplete
  simp only [ho, hd, hres, he, Bool.not_true, Bool.false_eq_true, if_false]

theorem State.collTimeout_running (ho : s.opOn i = some o) (ht : o.d.timeout ≠ 0) :
    s.collTimeout i = ((s.upTo ((o.desc.startNs + 1000 * o.d.timeout) * nsTicks)).endOp o stPeerLost rsnTimeout (o.awaited (s.slot i)) {} true none false).drainAll := by
  simp [State.collTimeout, ho, ht]

theorem State.collTimeout_held (ho : s.opOn i = none) (hq : (s.heldOn i).head? = some (f, x)) (ht : (parseColl x.bytes).timeout ≠ 0) :
    s.collTimeout i = State.sendAborts
      ((s.upTo ((x.startNs + 1000 * (parseColl x.bytes).timeout) * nsTicks)).collRefused f x stPeerLost rsnTimeout { s.heldAwaits f x with reason := BitVec.ofNat 8 rsnTimeout })
      { s.slot i with epoch := BitVec.ofNat 32 (parseColl x.bytes).epoch } (s.slot i).nextOp ((parseColl x.bytes).digest (s.slot i).nextOp)
      { s.heldAwaits f x with reason := BitVec.ofNat 8 rsnTimeout } none := by
  simp [State.collTimeout, ho, hq, ht]

/-- A sum frame on a member that does not own it goes on along the ring (R266). -/
theorem State.reduce_passes {n : Nat} {bs : List Byte} {acc : List W32} (ho : (o.placeX (s.slot o.slot) n).owner ≠ (s.slot o.slot).posX.toNat)
    (ha : acc = ((elementsOf 4 256 bs).zip (o.own n)).map (fun e => collAdd o.d.type (BitVec.ofNat 32 e.1) e.2)) :
    s.reduce o false n bs = (s.modOp o.slot (fun x => { x with sums := tset [] x.sums n acc })).sendData o 0 false (o.placeX (s.slot o.slot) n).back n (o.placeX (s.slot o.slot) n).back (codeBytes 4 acc) := by
  subst ha
  exact if_pos ho

end

end

/-- Settles O40. -/
theorem collectivesStartAndComplete : Obligations.collectives_start_and_complete := by
  refine ⟨⟨fun s f m h hn => congrArg Host.Outcome.next (serve_of_admitted h (collPostRow_posted hn) rfl),
    fun s f m h hn => congrArg Host.Outcome.next (serve_refused_of_admitted h (collPostRow_full hn) (by decide)), fun s f q d hc hh hr hq hm hd hck hk he hb hj hx hw => ?token,
    fun s f q hc hh hr hq => ⟨fun hm => next_clocked hc (State.collStart_waits hh hr hq hm), fun st hm hck => next_clocked hc (State.collStart_refused hh hr hq hm hck), fun d hd hm hck hk => ?epochs⟩,
    fun s u slot o hc ho hd h2 hw he => next_clocked hc (State.collComplete_done ho hd h2 hw he), fun s slot o hc ho hd => next_clocked hc (State.collComplete_waits ho hd),
    fun s slot o hc ho ht => next_clocked hc (State.collTimeout_running ho ht), fun s slot f q hc ho hq ht => next_clocked hc (State.collTimeout_held ho hq ht)⟩,
    fun s o f bs acc ho ha => ⟨_, State.reduce_passes ho ha, rfl, rfl, rfl, rfl⟩⟩
  case token =>
    obtain ⟨u, o, hu, hops⟩ := State.beginOp_token (s := s) (f := f) (x := q) hd hk hx hw
    have hst := (State.collStart_starts hh hr hq hm (by rw [← hd]; exact hck)).trans (State.collStarts_joined hd (by omega) he hb hj)
    exact ⟨u, o, next_clocked hc (hst.trans hu), hops⟩
  case epochs =>
    have hst := State.collStart_starts hh hr hq hm (by rw [← hd]; exact hck)
    exact ⟨fun he => next_clocked hc (hst.trans (State.collStarts_late hd hk he)), fun he => next_clocked hc (hst.trans (State.collStarts_held hd hk he))⟩

end Sys2Proof.Machine
end

section
/-! PROOFS. Codec contexts open and close (O41), and what a frame that halts leaves in a core reset (O42). -/

namespace Sys2Proof.Machine

open Sys2Proof.Safety

section
variable {s : State} {q : Req} {e c : Nat}

theorem codecQuotaRow_set {n : Nat} (hn : n = q.u32 8) (hs : ((tset 0 (s.codec (q.u32 0)).quota (q.u32 4) n).map (fun x => x.2)).sum ≤ 64) (hh : (s.codec (q.u32 0)).held (q.u32 4) ≤ n) :
    codecQuotaRow q s = (s.modCodec (q.u32 0) (fun x => { x with quota := tset 0 (s.codec (q.u32 0)).quota (q.u32 4) n }), { names := q.u32 4 }) := by
  subst hn
  unfold codecQuotaRow
  dsimp only
  rw [if_neg (by omega), if_neg (by omega)]

theorem codecQuotaRow_over (hs : 64 < ((tset 0 (s.codec (q.u32 0)).quota (q.u32 4) (q.u32 8)).map (fun x => x.2)).sum) :
    codecQuotaRow q s = (s, { status := stBadField, detail := 0x18 }) := if_pos hs

theorem codecOpenRow_full (h : tget 0 (s.codec (q.u32 0)).quota q.fn ≤ (s.codec (q.u32 0)).held q.fn) : codecOpenRow q s = (s, { status := stNoMemory }) := if_pos (.inl h)

/-- The context an open takes among those that are FREE: which one is the part's choice (log 1). -/
theorem getD_anyOf_mem {l : List Nat} {ctr : Nat} (hl : l ≠ []) : l.getD (anyOf ctr l.length) 0 ∈ l := by
  have hpos : 0 < l.length := List.length_pos_iff.mpr hl
  have hlt : anyOf ctr l.length < l.length := by
    have := Nat.mod_lt (Config.freeWord ctr 0).toNat (show 0 < max 1 l.length by omega)
    unfold anyOf
    omega
  rw [List.getD_eq_getElem _ _ hlt]
  exact List.getElem_mem hlt

theorem codecOpenRow_opened {b : List Byte} {x : CodecSet} (hb : b = sliceAt q.params 4 72) (hx : x = parseCodec b) (he : 4 ≤ q.u32 0)
    (hq : (s.codec (q.u32 0)).held q.fn < tget 0 (s.codec (q.u32 0)).quota q.fn) (hf : ∃ c < 64, (s.codecCtx (q.u32 0) c).st = .free) (hn : x.need true ≤ fieldAt b 0x18 4)
    (hr : rangeFails s q.fn x.workBase (x.need true) = none) :
    ∃ c < 64, (s.codecCtx (q.u32 0) c).st = .free ∧ codecOpenRow q s
      = (State.modCtx { s with freeCtr := s.freeCtr + 1 } (q.u32 0) c (fun _ => openedCtx q.fn b (x.need true)), { reply := natLe 4 c ++ natLe 4 (x.need true) }) := by
  subst hx hb
  obtain ⟨c0, hc0, hst0⟩ := hf
  have hne : (List.range 64).filter (fun c => (s.codecCtx (q.u32 0) c).st == .free) ≠ [] :=
    List.ne_nil_of_mem (List.mem_filter.mpr ⟨List.mem_range.mpr hc0, by simp [hst0]⟩)
  have hmem := getD_anyOf_mem (ctr := s.freeCtr) hne
  obtain ⟨hlt, hst⟩ := List.mem_filter.mp hmem
  refine ⟨_, List.mem_range.mp hlt, by simpa using hst, ?_⟩
  have hge : ¬ q.u32 0 < 4 := by omega
  have hfree : ¬ (tget 0 (s.codec (q.u32 0)).quota q.fn ≤ (s.codec (q.u32 0)).held q.fn ∨ (List.range 64).filter (fun c => (s.codecCtx (q.u32 0) c).st == .free) = []) := by
    rintro (h | h)
    · omega
    · exact hne h
  unfold codecOpenRow
  simp only [he, decide_true, if_neg hfree, if_neg (Nat.not_lt.mpr hn), if_neg hge, List.findSome?_cons, hr, List.findSome?_nil]

theorem codecCloseRow_free (h : (s.codecCtx (q.u32 0) (q.u32 4)).st = .free) : codecCloseRow q s = (s, { status := stSequenceState }) := if_pos h

theorem codecCloseRow_closing (h : (s.codecCtx (q.u32 0) (q.u32 4)).st = .closing) : codecCloseRow q s = (s, busy) := by simp [codecCloseRow, h]

theorem codecCloseRow_closes (h : (s.codecCtx (q.u32 0) (q.u32 4)).st = .open ∨ (s.codecCtx (q.u32 0) (q.u32 4)).st = .halted) (hq : (s.codecCtx (q.u32 0) (q.u32 4)).queue = []) :
    codecCloseRow q s = (s.modCtx (q.u32 0) (q.u32 4) (fun x => { x with st := .closing, queue := [], closeCmd := some q.cmd }), { status := stAccepted }) := by
  rcases h with h | h <;> simp [codecCloseRow, h, hq, State.endQueued]

theorem surfaceRow_closing (h : (s.codecCtx (q.u32 0) (q.u32 4)).st = .closing) : surfaceRow q s = (s, busy) := if_pos h

theorem surfaceRow_releases (h : (s.codecCtx (q.u32 0) (q.u32 4)).st = .open) (ho : (tget {} (s.codecCtx (q.u32 0) (q.u32 4)).pool (q.u32 8)).out = true) :
    surfaceRow q s = (s.modCtx (q.u32 0) (q.u32 4) (fun x => { x with pool := tmod {} x.pool (q.u32 8) (fun u => { u with out := false }) }), {}) := by
  unfold surfaceRow
  dsimp only
  rw [if_neg (by rw [h]; decide), if_neg (by rw [h]; decide), if_neg (by rw [ho]; decide)]

theorem codecPostRow_posted {n : Nat} (hn : n = q.u32 8 % 8) (h : (s.codecCtx (q.u32 0) (q.u32 4)).st = .open) (hl : (s.codecCtx (q.u32 0) (q.u32 4)).queue.length + n ≤ 32) :
    codecPostRow q s = (s.modCtx (q.u32 0) (q.u32 4) (fun x => { x with queue := x.queue ++ q.entries 16 64 n }), {}) := by
  subst hn
  unfold codecPostRow
  dsimp only
  rw [if_neg (not_not.mpr h), if_neg (by omega)]

theorem State.codecFreed_frees (hst : (s.codecCtx e c).st = .closing) (hr : (s.codec e).runs c = false) {t : State}
    (ht : t = (s.modCtx e c CodecCtx.freed).modCodec e (fun y => { y with loaded := y.loaded.filter (fun l => decide (l.1 ≠ c)) })) :
    (∀ cmd, (s.codecCtx e c).closeCmd = some cmd → s.codecFreed e c = t.complete cmd {}) ∧ ((s.codecCtx e c).closeCmd = none → s.codecFreed e c = t) := by
  subst ht
  constructor
  · intro cmd h
    simp [State.codecFreed, hst, hr, h]
  · intro h
    simp [State.codecFreed, hst, hr, h]

end

/-- Settles O41. -/
theorem codecContextsOpenAndClose : Obligations.codec_contexts_open_and_close := by
  refine ⟨fun s f m e g n h he hg hn hs hh => ?quota, fun s f m h hs => congrArg Host.Outcome.next (serve_refused_of_admitted h (codecQuotaRow_over hs) (by decide)),
    fun s f m e x b h he hb hx h4 hq hf hn hr => ?opened, fun s f m e h he hq => ?full, fun s f m e c h he hc hfn hst hq => ?closes,
    fun s f m h hst => congrArg Host.Outcome.next (serve_refused_of_admitted h (codecCloseRow_free hst) (by decide)), fun s f m e c he hc hst => ⟨fun h => ?closing, fun h => ?kept⟩,
    fun s e c hc hst hr t ht => ?freed, fun s f m e c n h he hc hn hst hfn hl => ?posted, fun s f m e c h he hc hst hfn => ?alien, fun s f m e c i h he hc hi hst ho => ?surface⟩
  case quota =>
    subst he hg
    exact congrArg Host.Outcome.next (serve_of_admitted h (codecQuotaRow_set hn hs hh) rfl)
  case opened =>
    subst he
    obtain ⟨c, hc, hst, hrow⟩ := codecOpenRow_opened hb hx h4 hq hf hn hr
    exact ⟨c, hc, hst, congrArg Host.Outcome.next (serve_of_admitted h hrow rfl)⟩
  case full =>
    subst he
    exact congrArg Host.Outcome.next (serve_refused_of_admitted h (codecOpenRow_full hq) (by decide))
  case closes =>
    subst he hc
    exact congrArg Host.Outcome.next (serve_accepted_of_admitted h rfl (codecCloseRow_closes hst hq) rfl)
  case closing =>
    subst he hc
    exact congrArg Host.Outcome.next (serve_refused_of_admitted h (codecCloseRow_closing hst) (by decide))
  case kept =>
    subst he hc
    exact congrArg Host.Outcome.next (serve_refused_of_admitted h (surfaceRow_closing hst) (by decide))
  case freed =>
    obtain ⟨hsome, hnone⟩ := State.codecFreed_frees hst hr ht
    split
    · next cmd h => exact next_clocked hc (hsome cmd h)
    · next h => exact next_clocked hc (hnone h)
  case posted =>
    subst he hc
    exact congrArg Host.Outcome.next (serve_of_admitted h (codecPostRow_posted hn hst hl) rfl)
  case alien =>
    subst he hc
    obtain ⟨ht, hcode, hl⟩ := h
    refine congrArg Host.Outcome.next (serve_refused ht hcode (refusal_of_not_permitted hl ?_))
    simp [codecPostForm, State.ownsCtx, hst, show (s.ctl.req f m).fn = f from rfl, hfn]
  case surface =>
    subst he hc hi
    exact congrArg Host.Outcome.next (serve_of_admitted h (surfaceRow_releases hst ho) rfl)

/-- A core reset in progress. -/
def coreResetState : State := { rst := { current := some { level := .core, step := 1, lastAt := 0 } } }

/-- Refutes O42: while a core reset is in progress a frame that halts its context leaves the reason recorded last alone (`coreResetState`). -/
theorem not_codecFramesStartAndEnd : ¬ Obligations.codec_frames_start_and_end := by
  intro ⟨_, _, _, _, _, _, _, hhalts, _⟩
  obtain ⟨_, _, _, hreason, _⟩ := hhalts coreResetState _ 0 0 (parseFrame false []) { status := 1, reason := 5 } rfl rfl rfl
  revert hreason
  decide +kernel

end Sys2Proof.Machine
end

section
/-! PROOFS. Stem descriptors row by row (O43). -/

namespace Sys2Proof.Machine

open Sys2Proof.Safety

section
variable {s : State} {e f : Nat} {r : StemRun} {q : Req}

/-- A write to memory that a host may be told of changes memory, the controller and the host's view, and nothing else. -/
theorem State.writePhys_frame {a : Nat} {bs : List Byte} : ∃ (m : MemState) (c : CtlState) (h : HostState), s.writePhys f a bs = { s with mem := m, ctl := c, host := h } := by
  unfold State.writePhys
  split
  · exact ⟨_, _, _, rfl⟩
  · exact ⟨_, s.ctl, s.host, rfl⟩

theorem State.foldl_writePhys_frame {l : List Transfer} :
    ∃ (m : MemState) (c : CtlState) (h : HostState), l.foldl (fun s t => s.writePhys f t.dst t.data) s = { s with mem := m, ctl := c, host := h } := by
  refine List.foldlRecOn (motive := fun t => ∃ (m : MemState) (c : CtlState) (h : HostState), t = { s with mem := m, ctl := c, host := h }) _ _ ⟨s.mem, s.ctl, s.host, rfl⟩ ?_
  rintro _ ⟨m, c, h, rfl⟩ t _
  obtain ⟨m', c', h', heq⟩ := State.writePhys_frame (s := { s with mem := m, ctl := c, host := h }) (f := f) (a := t.dst) (bs := t.data)
  exact ⟨m', c', h', heq⟩

theorem State.someWritten_frame {l : List (Nat × List Byte)} :
    ∃ (m : MemState) (c : CtlState) (h : HostState), s.someWritten f l = { s with freeCtr := s.freeCtr + 1, mem := m, ctl := c, host := h } :=
  State.foldl_writePhys_frame

theorem State.someWritten_nil : s.someWritten f [] = { s with freeCtr := s.freeCtr + 1 } := rfl

theorem State.modStem_stem {g : StemEngine → StemEngine} (h : twf {} s.stems = true) : (s.modStem e g).stem e = g (s.stem e) := tget_tmod_same h

theorem State.modStem_stem_other {g : StemEngine → StemEngine} {e' : Nat} (h : twf {} s.stems = true) (he : e' ≠ e) : (s.modStem e g).stem e' = s.stem e' := tget_tmod_ne h he

theorem State.modStem_twf {g : StemEngine → StemEngine} (h : twf {} s.stems = true) : twf {} (s.modStem e g).stems = true := twf_tmod h

theorem State.modStemRun_running {g : StemRun → StemRun} (h : twf {} s.stems = true) (hr : (s.stem e).running = some r) : ((s.modStemRun e g).stem e).running = some (g r) := by
  unfold State.modStemRun
  rw [State.modStem_stem h]
  simp [hr]

theorem State.stemStart_next {b : List Byte} (hr : (s.stem e).running = none) (hp : s.rst.past 11 true = true) (hn : (s.stem e).next = some (f, b)) :
    (∀ st, stemRefusal (s.ctxOf f) e f b = some st → s.stemStart e = (s.modStem e (fun x => { x with last := f, queues := tset [] x.queues f ((x.queue f).drop 1) })).stemEntry e f
      { status := st, kind := stemKind b, user := stemUser b })
    ∧ (stemRefusal (s.ctxOf f) e f b = none → s.stemStart e = (s.modStem e (fun x => { x with last := f, queues := tset [] x.queues f ((x.queue f).drop 1) })).stemBegin e
      { fn := f, desc := b, startAt := s.now }) := by
  have hctx : State.ctxOf (s.modStem e (fun x => { x with last := f, queues := tset [] x.queues f ((x.queue f).drop 1) })) f = s.ctxOf f := rfl
  constructor
  · intro st h
    simp only [State.stemStart, hr, hp, hn, hctx, h]
    rfl
  · intro h
    simp only [State.stemStart, hr, hp, hn, hctx, h]
    rfl

section
variable (hr : (s.stem e).running = some r)
include hr

/-- The last row awaited is read once its counters are met (R316). -/
theorem State.rowWaitMet_reads {x : Nat} {bs : List Byte} (hk : stemKind r.desc ≠ 3) (ha : r.awaited = [x]) (hg : s.gatesMet (parseStem r.desc) x = true)
    (hl : stemLine s.mem s.pages r.fn (parseStem r.desc) x = .ok bs) :
    s.rowWaitMet e = (s.modStemRun e (fun r => r.take s.now x bs)).modStemRun e (fun r => { r with waitSince := none }) := by
  unfold State.rowWaitMet
  simp only [hr, if_neg hk, ha, State.readRows, hg, hl]
  rfl

theorem State.rowWaitMet_waits {x : Nat} {l : List Nat} (hk : stemKind r.desc ≠ 3) (ha : r.awaited = x :: l) (hg : s.gatesMet (parseStem r.desc) x = false) :
    s.rowWaitMet e = s.modStemRun e (fun r => { r with waitSince := some (r.waitSince.getD s.now) }) := by
  unfold State.rowWaitMet
  simp only [hr, if_neg hk, ha, State.readRows, hg]
  rfl

section
variable (hk : stemKind r.desc ≠ 3) (hd : r.rowsDone < (parseStem r.desc).rows) (ha : r.awaited = [])
include hk hd ha

theorem State.stemRowDone_written {row : List (Nat × List Byte) × Nat} {u : State} (hp : stemRowPieces s r ((parseStem r.desc).y0 + r.rowsDone) = .ok row)
    (hb : firstBad (engineWrites s.mem s.pages r.fn row.1) = none)
    (hu : u = (if (parseStem r.desc).rowEn then (s.engineWrite r.fn row.1).1.addCtr (fieldCluster (parseStem r.desc).rowCtr) (parseStem r.desc).rowCtr 1 else (s.engineWrite r.fn row.1).1)) :
    s.stemRowDone e = (u.modStemRun e (fun r => r.announce row.2)).rowWaitMet e := by
  subst hu
  have hnot : (stemKind r.desc = 3 || decide ((parseStem r.desc).rows ≤ r.rowsDone) || r.awaited != []) = false := by simp [hk, ha]; omega
  unfold State.stemRowDone
  simp only [hr, hnot, hp, hb]
  rfl

theorem State.stemRowDone_bad {b : Nat × Args} (hp : stemRowPieces s r ((parseStem r.desc).y0 + r.rowsDone) = .error b) : s.stemRowDone e = s.stemBad e r b := by
  have hnot : (stemKind r.desc = 3 || decide ((parseStem r.desc).rows ≤ r.rowsDone) || r.awaited != []) = false := by simp [hk, ha]; omega
  unfold State.stemRowDone
  simp only [hr, hnot, hp]
  rfl

end

theorem State.stemDone_rows (hk : stemKind r.desc ≠ 3) (hd : (parseStem r.desc).rows ≤ r.rowsDone) :
    s.stemDone e = if (parseStem r.desc).event then (s.modStem e (fun x => { x with running := none })).stemEntry e r.fn (r.ending s.now) else s.modStem e (fun x => { x with running := none }) := by
  simp only [State.stemDone, hr, if_neg hk, if_pos hd, State.stemEnds, stemEvent]

theorem State.stemTimedOut_fails (ht : stemTimeoutUs r.desc ≠ 0) : s.stemTimedOut e = (s.upTo (r.startAt + stemTimeoutUs r.desc * usTicks)).stemFails e r stSlipLimit 1 0 := by
  simp only [State.stemTimedOut, hr, if_neg ht]

end

theorem State.detGo_waits (hw : (parseDet r.desc).waitEn = true)
    (hm : meets (s.share.ctr (fieldCluster (parseDet r.desc).waitCtr) (parseDet r.desc).waitCtr) (BitVec.ofNat 32 (parseDet r.desc).waitThr) = false) :
    s.detGo e r = s.modStemRun e (fun r => { r with waitSince := some (r.waitSince.getD s.now) }) := by
  have hn : s.share.reached (fieldCluster (parseDet r.desc).waitCtr) (parseDet r.desc).waitCtr (parseDet r.desc).waitThr = false :=
    Bool.and_eq_false_iff.mpr (.inr hm)
  simp [State.detGo, hw, hn]

theorem State.detGo_counts (hc : (parseDet r.desc).countAddr = 0)
    (hw : (parseDet r.desc).waitEn = false ∨ s.share.ctrBad (fieldCluster (parseDet r.desc).waitCtr) (parseDet r.desc).waitCtr = false
      ∧ meets (s.share.ctr (fieldCluster (parseDet r.desc).waitCtr) (parseDet r.desc).waitCtr) (BitVec.ofNat 32 (parseDet r.desc).waitThr) = true) :
    s.detGo e r = s.modStemRun e (fun x => { x with count := some (parseDet r.desc).count, waited := x.waits s.now, waitSince := none }) := by
  have hgo : ((parseDet r.desc).waitEn && !s.share.reached (fieldCluster (parseDet r.desc).waitCtr) (parseDet r.desc).waitCtr (parseDet r.desc).waitThr) = false := by
    rcases hw with h | ⟨hb, hm⟩
    · rw [h]; rfl
    · have : s.share.reached (fieldCluster (parseDet r.desc).waitCtr) (parseDet r.desc).waitCtr (parseDet r.desc).waitThr = true :=
        Bool.and_eq_true_iff.mpr ⟨by rw [hb]; rfl, hm⟩
      rw [this]; simp
  unfold State.detGo
  simp only [hgo, State.readCount, hc]
  rfl

/-- Nothing is left to write once every row is done. -/
theorem State.stemRest_zero (hk : stemKind r.desc ≠ 3) : s.stemRest r 0 = [] := by
  unfold State.stemRest
  rw [if_neg hk]
  split <;> rfl

/-- A descriptor that fails leaves its engine idle and its queue halted. -/
theorem State.stemFails_eq {st rs a : Nat} {v : State}
    (hv : v = (s.someWritten r.fn (s.stemRest r (if stemKind r.desc = 3 then 0 else (parseStem r.desc).rows - r.rowsDone))).modStem e (fun x => { x with running := none, halted := insertNat r.fn x.halted })) :
    s.stemFails e r st rs a = v.stemEntry e r.fn { r.ending s.now with status := st, reason := rs, address := a } := by
  subst hv
  obtain ⟨m, c, h, hw⟩ := State.someWritten_frame (s := s) (f := r.fn) (l := s.stemRest r (if stemKind r.desc = 3 then 0 else (parseStem r.desc).rows - r.rowsDone))
  unfold State.stemFails
  dsimp only
  rw [hw]

/-- The state in which a failed descriptor's end is reported. -/
theorem State.stemFails_frame {st rs a : Nat} : ∃ (n : Nat) (m : MemState) (c : CtlState) (h : HostState) (v : State),
    v = ({ s with freeCtr := n, mem := m, ctl := c, host := h } : State).modStem e (fun x => { x with running := none, halted := insertNat r.fn x.halted })
      ∧ s.stemFails e r st rs a = v.stemEntry e r.fn { r.ending s.now with status := st, reason := rs, address := a }
      ∧ (stemKind r.desc ≠ 3 → (parseStem r.desc).rows ≤ r.rowsDone → m = s.mem) := by
  by_cases hdone : stemKind r.desc ≠ 3 ∧ (parseStem r.desc).rows ≤ r.rowsDone
  · refine ⟨s.freeCtr + 1, s.mem, s.ctl, s.host, _, rfl, State.stemFails_eq ?_, fun _ _ => rfl⟩
    rw [if_neg hdone.1, Nat.sub_eq_zero_of_le hdone.2, State.stemRest_zero hdone.1, State.someWritten_nil]
  · obtain ⟨m, c, h, hs⟩ := State.someWritten_frame (s := s) (f := r.fn) (l := s.stemRest r (if stemKind r.desc = 3 then 0 else (parseStem r.desc).rows - r.rowsDone))
    exact ⟨s.freeCtr + 1, m, c, h, _, rfl, State.stemFails_eq (by rw [hs]), fun hk hd => absurd ⟨hk, hd⟩ hdone⟩

theorem mem_insertNat_of_ne {i g : Nat} {l : List Nat} (hg : g ≠ i) : g ∈ insertNat i l ↔ g ∈ l := by
  induction l with
  | nil => simp [insertNat, hg]
  | cons k l ih => grind [insertNat]

theorem State.stemBad_other {a : Nat} {x : Args} (h : x.status ≠ stUncorrectable) : s.stemBad e r (a, x) = s.stemFails e r x.status 0 a := by
  simp [State.stemBad, State.noteBad, h]

theorem State.stemBad_uncorrectable {a : Nat} {x : Args} (h : x.status = stUncorrectable) :
    s.stemBad e r (a, x) = State.stemFails { s with mem := s.mem.note x.address false .uncorrectable } e r stUncorrectable 0 a := by
  simp [State.stemBad, State.noteBad, h]

theorem stemPostRow_posted {n : Nat} (hn : n = q.u32 4 % 4) (hm : (s.ctxOf q.fn).coreMask.toNat / 2 ^ (64 * q.u32 0) % 2 ^ 64 ≠ 0) (hl : ((s.stem (q.u32 0)).queue q.fn).length + n ≤ 64) :
    stemPostRow q s = (s.modStem (q.u32 0) (fun x => { x with queues := tset [] x.queues q.fn (x.queue q.fn ++ q.entries 16 128 n) }), {}) := by
  subst hn
  unfold stemPostRow
  dsimp only
  rw [if_neg hm, if_neg (by omega)]

theorem stemPostRow_not_held (hm : (s.ctxOf q.fn).coreMask.toNat / 2 ^ (64 * q.u32 0) % 2 ^ 64 = 0) : stemPostRow q s = (s, notPermitted) := if_pos hm

theorem stemResumeRow_resumes (hh : (s.stem (q.u32 0)).halted.contains q.fn = true) :
    stemResumeRow q s = (s.modStem (q.u32 0) (fun x => { x with
      halted := x.halted.filter (fun g => g != q.fn), queues := if bit (q.u32 4) 0 then tset [] x.queues q.fn [] else x.queues }), {}) := if_neg (by rw [hh]; decide)

theorem stemResumeRow_running (hh : (s.stem (q.u32 0)).halted.contains q.fn = false) : stemResumeRow q s = (s, { status := stSequenceState }) := if_pos (by rw [hh]; rfl)

end

/-- Settles O43. -/
theorem stemDescriptorsRunRowByRow : Obligations.stem_descriptors_run_row_by_row := by
  refine ⟨⟨fun s e f b hc hr hp hn href => next_clocked hc ((State.stemStart_next hr hp hn).2 href), fun s e f st b hc hr hp hn href => next_clocked hc ((State.stemStart_next hr hp hn).1 st href),
      fun s e r x bs hc hr hk ha hg hw hl => ?reads, fun s e r x l hc hr hk ha hg => next_clocked hc (State.rowWaitMet_waits hr hk ha hg),
      fun s u e r row hc hr hk hd ha hp hb hu => next_clocked hc (State.stemRowDone_written hr hk hd ha hp hb hu), fun s e r b hc hr hk hd ha hp => next_clocked hc (State.stemRowDone_bad hr hk hd ha hp),
      fun s e r hc hr hk hd => next_clocked hc (State.stemDone_rows hr hk hd), fun s e r hc hr ht => next_clocked hc (State.stemTimedOut_fails hr ht),
      fun s e r hc hr hk hn hca hw => next_clocked hc ?counts, fun s e r hc hr hk hn hw hm => next_clocked hc ?waits, fun s u e r st rs a hw hu => ?fails,
      fun s e r a x => ⟨State.stemBad_other, State.stemBad_uncorrectable⟩⟩,
    fun s f m e n h he hn hm hl => ?posted, fun s f m h hm => congrArg Host.Outcome.next (serve_refused_of_admitted h (stemPostRow_not_held hm) (by decide)),
    fun s f m e h he hh => ?resumes, fun s f m h hh => congrArg Host.Outcome.next (serve_refused_of_admitted h (stemResumeRow_running hh) (by decide))⟩
  case reads =>
    refine ⟨_, next_clocked hc (State.rowWaitMet_reads hr hk ha hg hl), ?_, rfl, rfl, rfl⟩
    exact State.modStemRun_running (State.modStem_twf hw) (State.modStemRun_running hw hr)
  case counts => simpa [hr, hk, hn] using State.detGo_counts (s := s) (e := e) hca hw
  case waits => simpa [hr, hk, hn] using State.detGo_waits (s := s) (e := e) hw hm
  case fails =>
    obtain ⟨n, m, c, h, v, hv, heq, hm⟩ := State.stemFails_frame (s := s) (e := e) (r := r) (st := st) (rs := rs) (a := a)
    have hstem : v.stem e = { s.stem e with running := none, halted := insertNat r.fn (s.stem e).halted } := by
      rw [hv]
      exact State.modStem_stem hw
    have hu' : ∀ e', u.stem e' = v.stem e' := fun e' => (congrArg (fun x : State => x.stem e') (hu.trans heq)).trans rfl
    have hframe : u.mem = v.mem ∧ u.cores = v.cores ∧ u.share = v.share := by
      rw [hu, heq]
      exact ⟨rfl, rfl, rfl⟩
    obtain ⟨hmem, hcores, hshare⟩ := hframe
    have hnow : v.now = s.now := by rw [hv]; rfl
    have hother : ∀ e', e' ≠ e → v.stem e' = s.stem e' := fun e' he => by
      rw [hv]
      exact State.modStem_stem_other hw he
    have hmem' : stemKind r.desc ≠ 3 → (parseStem r.desc).rows ≤ r.rowsDone → v.mem = s.mem := fun hk hd => by
      rw [hv]
      exact hm hk hd
    refine ⟨by rw [hu', hstem], by rw [hu', hstem]; exact mem_insertNat, fun g hg => ?_, by rw [hu', hstem], by rw [hu', hstem], fun e' he => (hu' e').trans (hother e' he),
      fun hk hd => hmem.trans (hmem' hk hd), hcores.trans (by rw [hv]; rfl), hshare.trans (by rw [hv]; rfl), v, hnow, by rw [hstem], hu.trans heq⟩
    rw [hu', hstem]
    exact mem_insertNat_of_ne hg
  case posted =>
    subst he
    exact congrArg Host.Outcome.next (serve_of_admitted h (stemPostRow_posted hn hm hl) rfl)
  case resumes =>
    subst he
    exact congrArg Host.Outcome.next (serve_of_admitted h (stemResumeRow_resumes hh) rfl)

end Sys2Proof.Machine
end

section
/-! PROOFS. What a function-level reset begins, limits, ends and leaves (O44). -/

namespace Sys2Proof.Machine

open Sys2Proof.Safety

section
variable {s : State} {f : Nat}

theorem State.flrStart_vf (hf : f ≠ 0) (hr : s.host.resetting f = false) : s.flrStart f = State.flrBegin f s := by simp [State.flrStart, hr, hf]

theorem State.flrStart_resetting (hr : s.host.resetting f = true) : s.flrStart f = s := by simp [State.flrStart, hr]

/-- With no VF enabled, clearing VF Enable resets none. -/
theorem State.vfsClear_none (hv : s.host.vfsEnabled = 0) : s.vfsClear = { s with host := { s.host with vfsEnabled := 0 } } := by
  have hnone : s.host.vfs = [] := by simp [HostState.vfs, hv]
  unfold State.vfsClear
  rw [hnone]
  rfl

theorem State.configure_away {act : State → State} (hc : s.host.configures f = false) (h0 : s.host.link ≠ .l0) (h1 : s.host.link ≠ .l1) : s.configure f act = s := by
  simp [State.configure, hc, h0, h1]

/-- A configuration request before the configuration space answers is told to retry. -/
theorem State.configure_retry {act : State → State} (hl : s.host.link = .l0 ∨ s.host.link = .l1) (hr : s.host.configReady = false) :
    s.configure f act = { s.wake with host := { s.wake.host with reply := .retryStatus } } := by
  have hc : s.host.configures f = false := by simp [HostState.configures, hr]
  simp [State.configure, hc, hl, hr]

theorem State.flrLimit_ends {c : Nat} {j : FlrJob} {r : RunBlock} (hj : (s.host.fn f).flr = some j) (hr : (s.core c).run = some r) (hf : r.fn = f) (he : r.ending = none) :
    s.flrLimit f c = (s.endAt c (max s.now (j.since + msTicks)) (blockFault faultPreempted)).modRun c (fun r => { r with silent := r.silent || r.ending == some (blockFault faultPreempted) }) := by
  simp [State.flrLimit, hj, hr, hf, he]

/-- A reset named by the only command in progress. -/
theorem State.flrNamed_one {p : InProgress} (hp : s.ctl.inProgress = [p]) :
    s.flrNamed f = if f ≠ 0 ∧ p.cmd.fn = 0 ∧ p.names = f then State.commandEntry { s with ctl := { s.ctl with inProgress := [] } } p.cmd { status := stSequenceState, detail := 3 } else s := by
  unfold State.flrNamed
  by_cases hf : f = 0
  · simp [hf]
  · by_cases hn : p.cmd.fn = 0 ∧ p.names = f
    · simp [hf, hp, hn, each, State.complete]
    · have hfilter : [p].filter (fun p => p.cmd.fn == 0 && p.names == f) = [] := by simpa using hn
      rw [hp, hfilter, if_neg hf, if_neg (fun h => hn h.2)]
      rfl

theorem CtlState.flr_ring {c : CtlState} (h : twf {} c.rings = true) : (c.flr f).ring f = (c.ring f).cleared := tget_tset_same h

theorem CtlState.flr_ring_other {c : CtlState} {g : Nat} (h : twf {} c.rings = true) (hg : g ≠ f) : (c.flr f).ring g = c.ring g := tget_tset_ne h hg

theorem SeqEntry.flr_eq {e : SeqEntry} : e.flr = if e.st = .retiring then { e with st := .free, listed := false } else { e with st := .parkedHost, parkReason := 3, listed := false, need := 0 } := rfl

theorem SeqState.flr_seq {q : SeqState} {i : Nat} (h : twf {} q.seqs = true) : (q.flr f).seq i = if (q.seq i).st ≠ .free ∧ (q.seq i).fn.toNat = f then (q.seq i).flr else q.seq i := by
  simp only [← SeqState.mem_ofFn h]
  exact SeqState.modAll_seq (SeqState.nodup_ofFn h) h

/-- An entry of a table in canonical form after one entry is set. -/
theorem tget_tset_eq {α : Type} [DecidableEq α] {d x : α} {t : Tab α} {i j : Nat} (h : twf d t = true) : tget d (tset d t i x) j = if j = i then x else tget d t j := by
  split
  · next hj => exact hj ▸ tget_tset_same h
  · next hj => exact tget_tset_ne h hj

theorem PageState.flr_rec {p : PageState} {g : Nat} (h : twf {} p.recs = true) : (p.flr f).pageRec g = if g = f then { p.pageRec f with enabled := false } else p.pageRec g := tget_tset_eq h

theorem CoresState.each_setCore_cores {x : CoresState} {g : Nat → CoreState → CoreState} {l : List Nat} :
    (each l (fun c x => x.setCore c (g c (x.core c))) x).cores = each l (fun c t => tmod {} t c (g c)) x.cores := by
  induction l generalizing x with
  | nil => rfl
  | cons c l ih => exact ih

theorem CoresState.mapCores_cores {x : CoresState} {g : Nat → CoreState → CoreState} : (x.mapCores g).cores = each (x.cores.map (·.1)) (fun c t => tmod {} t c (g c)) x.cores :=
  CoresState.each_setCore_cores

theorem CoresState.flr_core {x : CoresState} {c : Nat} (h : twf {} x.cores = true) : (x.flr f).core c = (x.core c).flr f := by
  have hcores : (x.flr f).cores = each (x.cores.map (·.1)) (fun c t => tmod {} t c (fun k => k.flr f)) x.cores := CoresState.mapCores_cores (g := fun _ k => k.flr f)
  have key : (x.flr f).core c = if c ∈ x.cores.map (·.1) then (x.core c).flr f else {} :=
    (congrArg (fun t : Tab CoreState => tget ({} : CoreState) t c) hcores).trans (tget_each_keys_tmod h)
  rw [key]
  split
  · rfl
  · next hc =>
    have h0 : x.core c = {} := tget_of_not_mem_keys hc
    rw [h0]
    rfl

theorem CoresState.mapCores_frame {x : CoresState} {g : Nat → CoreState → CoreState} :
    (x.mapCores g).spad = x.spad ∧ (x.mapCores g).acc = x.acc ∧ (x.mapCores g).codeTables = x.codeTables :=
  each_induct (P := fun y : CoresState => y.spad = x.spad ∧ y.acc = x.acc ∧ y.codeTables = x.codeTables) (f := fun c y => y.setCore c (g c (y.core c))) (fun _ _ h => h) ⟨rfl, rfl, rfl⟩

/-- A descriptor that has not started, or that is a fence, is cut with nothing moved. -/
theorem State.descCut_idle {ch : ChannelIx} {q : QDesc} (h : q.started = false ∨ (parseDesc ch q.bytes).fence = true) : s.descCut ch f q = s := by
  unfold State.descCut
  rcases h with h | h <;> simp [h]

theorem State.queueCut_idle {ch : ChannelIx} (h : ∀ q ∈ (s.queue ch f).descs, q.started = false ∨ (parseDesc ch q.bytes).fence = true) : s.queueCut ch f = s.setQueue ch f {} := by
  have heach : each (s.queue ch f).descs (fun q s => s.descCut ch f q) s = s :=
    List.foldlRecOn (motive := fun t : State => t = s) _ _ rfl fun t ht q hq => ht.symm ▸ State.descCut_idle (h q hq)
  exact congrArg (fun t : State => t.setQueue ch f {}) heach

theorem tget_map_val {α : Type} {d : α} {g : α → α} (hd : g d = d) {t : Tab α} {i : Nat} : tget d (t.map (fun e => (e.1, g e.2))) i = g (tget d t i) := by
  induction t with
  | nil => exact hd.symm
  | cons e t ih => grind [tget]

theorem MemState.filled_fill {m : MemState} {x : Nat} : tget .empty (m.filled f).fill x = if tget .empty m.fill x = .filling f then .filled else tget .empty m.fill x := by
  have hmap : (m.filled f).fill = m.fill.map (fun e => (e.1, if e.2 = .filling f then .filled else e.2)) :=
    List.map_congr_left fun e _ => by split <;> rfl
  rw [hmap, tget_map_val (g := fun v => if v = Fill.filling f then .filled else v)]
  rfl

theorem CodecEngine.flr_ctx {x : CodecEngine} {c : Nat} : tget {} (x.flr f).ctx c = if (tget {} x.ctx c).fn.toNat = f then (tget {} x.ctx c).freed else tget {} x.ctx c := by
  have hmap : (x.flr f).ctx = x.ctx.map (fun e => (e.1, if e.2.fn.toNat = f then e.2.freed else e.2)) :=
    List.map_congr_left fun e _ => by split <;> rfl
  rw [hmap, tget_map_val (g := fun v : CodecCtx => if v.fn.toNat = f then v.freed else v)]
  split <;> rfl

theorem State.stemFlr_idle {e : Nat} (h : ∀ r, (s.stem e).running = some r → r.fn ≠ f) :
    State.stemFlr f s e = s.modStem e (fun x => { x with queues := tset [] x.queues f [], halted := x.halted.filter (· != f) }) := by
  unfold State.stemFlr
  dsimp only
  split
  · rfl
  · next r hr => exact if_neg (h r hr)

theorem State.stemFlr_runs {e : Nat} {r : StemRun} {u : State} (hr : (s.stem e).running = some r) (hf : r.fn = f)
    (hu : u = s.modStem e (fun x => { x with queues := tset [] x.queues f [], halted := x.halted.filter (· != f) })) :
    State.stemFlr f s e = (u.someWritten f (u.stemRest r 1)).modStem e (fun x => { x with running := none }) := by
  subst hu
  simp only [State.stemFlr, hr, if_pos hf]

theorem State.writePiecesAt_fabric {l : List (Nat × Nat)} {bs : List Byte} : (State.writePiecesAt f l bs s).fabric = s.fabric := by
  induction l generalizing s bs with
  | nil => rfl
  | cons x l ih =>
    obtain ⟨m, c, h, hw⟩ := State.writePhys_frame (s := s) (f := f) (a := x.1) (bs := bs.take x.2)
    exact ih.trans (congrArg (·.fabric) hw)

theorem State.writeVirt_fabric {u : State} {va : Nat} {bs : List Byte} (h : s.writeVirt f va bs = .ok u) : u.fabric = s.fabric := by
  unfold State.writeVirt at h
  split at h
  · cases h
  · cases h
    exact State.writePiecesAt_fabric

theorem State.leaveFrame_fabric {o : CollOp} {n i : Nat} : (State.leaveFrame o n i s).fabric = s.fabric := by
  unfold State.leaveFrame
  refine each_induct (P := fun t : State => t.fabric = s.fabric) (fun g t ht => ?_) rfl
  extract_lets w bs
  split
  · exact ht
  · split
    · next u hu => exact (State.writeVirt_fabric hu).trans ht
    · exact ht

theorem State.noteBad_fabric {e : Args} : (s.noteBad e).fabric = s.fabric := by
  unfold State.noteBad
  split <;> rfl

theorem State.sendAborts_ops {x : Slot} {n d : W32} {a : AbortInfo} {skip : Option Nat} : (s.sendAborts x n d a skip).fabric.ops = s.fabric.ops := by
  unfold State.sendAborts
  exact each_induct (P := fun t : State => t.fabric.ops = s.fabric.ops) (f := fun p s => s.send p _) (fun _ _ ht => ht) rfl

/-- The end of an operation takes it from those running. -/
theorem State.endOp_ops {o : CollOp} {st reason : Nat} {a : AbortInfo} {e : Args} {abort : Bool} {skip : Option Nat} :
    (s.endOp o st reason a e abort skip true).fabric.ops = s.fabric.ops.filter (fun x => x.slot != o.slot) := by
  have hleft : (each (List.range o.d.frames) (fun f s => State.leaveFrame o s.freeCtr f s) (s.dropOp o.slot)).fabric = (s.dropOp o.slot).fabric :=
    each_induct (P := fun t : State => t.fabric = (s.dropOp o.slot).fabric) (f := fun f s => State.leaveFrame o s.freeCtr f s) (fun _ _ ht => State.leaveFrame_fabric.trans ht) rfl
  unfold State.endOp
  extract_lets x s1 s2 s3 s4 mine s5 s6
  have h3 : s3.fabric.ops = s.fabric.ops.filter (fun x => x.slot != o.slot) := congrArg FabricState.ops hleft
  have h4 : s4.fabric.ops = s3.fabric.ops := (congrArg FabricState.ops (State.noteBad_fabric (s := s3) (e := e))).trans rfl
  have h5 : s5.fabric.ops = s4.fabric.ops := each_induct (P := fun t : State => t.fabric.ops = s4.fabric.ops) (f := fun p s => s.modLink p _) (fun _ _ ht => ht) rfl
  have h6 : s6.fabric.ops = s5.fabric.ops := by
    unfold s6
    split
    · exact State.sendAborts_ops
    · rfl
  rw [if_pos rfl, h6, h5, h4, h3]

end

/-- Settles O44. -/
theorem aFunctionIsReset : Obligations.a_function_is_reset := by
  refine ⟨⟨fun s f hc hf h0 hr => next_configure hc hf (State.flrStart_vf h0 hr), fun s f hc hf h0 h1 => next_clocked hc (State.configure_away hf h0 h1),
      fun s f hc hl hr => next_clocked hc (State.configure_retry hl hr), fun s f hc hf hr => next_configure hc hf (State.flrStart_resetting hr),
      fun s f c j r hc hj hr hf he => next_clocked hc (State.flrLimit_ends hj hr hf he), fun s f hc hj hr => next_clocked hc (if_pos (by rw [hj, hr]; rfl)),
      fun s f hc hr => next_clocked hc (if_neg (by rw [hr]; simp)), fun s num hc hf h0 hv => next_configure hc hf ?enabled, fun s hc hf hv => next_configure hc hf ?cleared⟩,
    fun s a b c d f hf ha hb hcut hd => ?begins, fun s f hf => if_pos hf, fun s f p hp => State.flrNamed_one hp, fun c f h => ?ctl, fun q f i h => ?seq, fun q f g hl hk hd hp hr => ?seqs,
    fun p f g h => ?pages, fun x f c h => CoresState.flr_core h, fun x f => ?cores, fun k f g hq hs => ?core, fun s f h => State.queueCut_idle h, fun s f h => State.queueCut_idle h,
    fun s f q d hq hf hd => ?cut, fun m f x => MemState.filled_fill, fun s f mine ho hm => ?fabric, fun s o st reason a e abort skip x hx => ?ended, fun x i j h => tget_tset_eq h,
    fun x f c => CodecEngine.flr_ctx, fun x f c b => ?running, fun x => ⟨rfl, rfl, rfl, rfl, rfl, rfl⟩, fun s f e h => State.stemFlr_idle h, fun s u f e r hr hf hu => State.stemFlr_runs hr hf hu⟩
  case enabled => exact (if_neg h0).trans (if_pos hv)
  case cleared => exact (if_pos rfl).trans (State.vfsClear_none hv)
  case begins =>
    subst hd hcut hb ha
    exact if_neg (by simp [hf])
  case ctl =>
    refine ⟨fun e => by simp [CtlState.flr], fun q => by simp [CtlState.flr], fun q => by simp [CtlState.flr], fun q => by simp [CtlState.flr], ?_, ?_, ?_, fun g hg => CtlState.flr_ring_other h hg⟩ <;>
      rw [CtlState.flr_ring h] <;> rfl
  case seq =>
    refine (SeqState.flr_seq h).trans ?_
    simp only [SeqState.seq, SeqEntry.flr_eq]
    grind
  case seqs => exact ⟨rfl, tget_tset_eq hl, tget_tset_eq hk, tget_tset_eq hd, tget_tset_eq hp, tget_tset_eq hr⟩
  case pages =>
    exact ⟨PageState.flr_rec h, fun m => by simp [PageState.flr], fun w => by simp [PageState.flr], fun r => by simp [PageState.flr], rfl, rfl, rfl⟩
  case cores =>
    obtain ⟨hs, ha, hc⟩ := CoresState.mapCores_frame (x := x) (g := fun _ k => k.flr f)
    exact ⟨fun l => by simp [CoresState.flr], fun l => by simp [CoresState.flr], hs, ha, hc⟩
  case core =>
    refine ⟨tget_tset_eq hq, tget_tset_eq hs, fun l => ?_, fun l => by simp [CoreState.flr], rfl, rfl, rfl, rfl⟩
    simp [CoreState.flr]
  case cut =>
    subst hd
    simp [State.descCut, hq, hf]
  case fabric =>
    subst hm
    have hnone : s.fabric.ops.filter (fun o => o.fn == f) = [] := List.filter_eq_nil_iff.mpr fun o h => by simpa using ho o h
    unfold State.flrFabric
    rw [hnone]
    rfl
  case ended =>
    rw [State.endOp_ops] at hx
    simpa using hx
  case running =>
    unfold CodecEngine.flr
    dsimp only
    split
    · next r hr => grind
    · next hr => simp [hr]

end Sys2Proof.Machine
end

section
/-! PROOFS. The sources of a reset and the levels they take (O46). -/

namespace Sys2Proof.Machine

open Sys2Proof.Safety

section
variable {s t : State} {level : ResetLevel} {fault lockup : Bool} {cause : Nat}

/-- What a step of a life cycle transition may change: the security block (its SVN_FUSES apart), the serial store, the free counter and the seals' keys. -/
def State.BurntFrom (s t : State) : Prop :=
  t = { s with freeCtr := t.freeCtr, sec := t.sec, rst := { s.rst with nor := t.rst.nor }, mem := { s.mem with sealKeys := t.mem.sealKeys } } ∧ t.sec.svn = s.sec.svn

theorem State.BurntFrom.refl : State.BurntFrom s s := ⟨rfl, rfl⟩

theorem State.BurntFrom.trans {u : State} (h : State.BurntFrom s t) (k : State.BurntFrom t u) : State.BurntFrom s u := by
  obtain ⟨h, hsvn⟩ := h
  obtain ⟨k, ksvn⟩ := k
  refine ⟨?_, ksvn.trans hsvn⟩
  rw [h] at k
  exact k

theorem burntFrom_sec {c : SecState} (h : c.svn = s.sec.svn) : State.BurntFrom s { s with sec := c } := ⟨rfl, h⟩

theorem burntFrom_drawIdentity : State.BurntFrom s s.drawIdentity := by
  unfold State.drawIdentity
  split
  · exact ⟨rfl, rfl⟩
  · exact .refl

theorem burntFrom_transitionStep {n : Nat} {a : State → State} (ha : a ∈ transitionSteps n) : State.BurntFrom s (a s) := by
  unfold transitionSteps at ha
  split at ha
  · simp only [List.mem_cons, List.not_mem_nil, or_false] at ha
    obtain rfl | rfl | rfl | rfl := ha
    · exact burntFrom_drawIdentity
    all_goals exact ⟨rfl, rfl⟩
  · simp only [List.mem_cons, List.not_mem_nil, or_false] at ha
    obtain rfl | rfl := ha <;> exact ⟨rfl, rfl⟩
  · simp only [List.mem_cons, List.not_mem_nil, or_false] at ha
    obtain rfl | rfl | rfl := ha <;> exact ⟨rfl, rfl⟩
  · simp only [List.mem_cons, List.not_mem_nil, or_false] at ha
    obtain rfl | rfl | rfl | rfl | rfl | rfl := ha
    · exact ⟨rfl, rfl⟩
    · exact burntFrom_sec rfl
    all_goals exact ⟨rfl, rfl⟩

theorem burntFrom_transitionSteps {l : List (State → State)} {n : Nat} (hl : ∀ a ∈ l, a ∈ transitionSteps n) : State.BurntFrom s (l.foldl (fun s a => a s) s) :=
  List.foldlRecOn l (fun s a => a s) .refl fun _ h a ha => h.trans (burntFrom_transitionStep (hl a ha))

theorem burntFrom_transitionActions {n : Nat} : State.BurntFrom s (s.transitionActions n) := burntFrom_transitionSteps fun _ ha => ha

theorem burntFrom_cutTransition : State.BurntFrom s s.cutTransition := by
  unfold State.cutTransition
  split
  · exact .refl
  · exact State.BurntFrom.trans (t := { s with freeCtr := s.freeCtr + 1, sec := { s.sec with transition := none } }) ⟨rfl, rfl⟩
      (burntFrom_transitionSteps fun _ ha => List.mem_of_mem_take ha)

theorem State.cutTransition_none (h : s.sec.transition = none) : s.cutTransition = s := by simp [State.cutTransition, h]

/-- What a cut transition leaves, field by field. -/
theorem State.cutTransition_kept : s.cutTransition.now = s.now ∧ s.cutTransition.clocks = s.clocks ∧ s.cutTransition.mem.cells = s.mem.cells
    ∧ s.cutTransition.mem.ue = s.mem.ue ∧ s.cutTransition.rst.pins = s.rst.pins ∧ s.cutTransition.rst.cause = s.rst.cause := by
  rw [burntFrom_cutTransition.1]
  exact ⟨rfl, rfl, rfl, rfl, rfl, rfl⟩

theorem State.systemReset_mem :
    s.systemReset.mem = if s.clocks.thermtrip then { selfRefresh := true, cells := s.mem.cells, ue := s.mem.ue } else {} := by
  obtain ⟨_, hclocks, hcells, hue, _⟩ := s.cutTransition_kept
  have hmem : s.systemReset.mem
      = if s.cutTransition.clocks.thermtrip then { selfRefresh := true, cells := s.cutTransition.mem.cells, ue := s.cutTransition.mem.ue } else {} := rfl
  rw [hmem, hclocks, hcells, hue]

@[simp] theorem State.systemReset_cores : s.systemReset.cores = {} := rfl

theorem State.systemReset_pins : s.systemReset.rst.pins = s.rst.pins := s.cutTransition_kept.2.2.2.2.1

theorem State.systemReset_cause : s.systemReset.rst.cause = s.rst.cause := s.cutTransition_kept.2.2.2.2.2

theorem State.systemReset_current : s.systemReset.rst.current = some { level := .system, step := 2, lastAt := s.now } :=
  congrArg (fun n => some ({ level := .system, step := 2, lastAt := n } : ResetNow)) s.cutTransition_kept.1

theorem State.systemReset_lcFuses : s.sec.lcFuses &&& s.systemReset.sec.lcFuses = s.sec.lcFuses := (Keeps.refl (s := s)).cutTransition.sec.lcFuses

theorem State.systemReset_svn : s.systemReset.sec.svn = s.sec.svn := burntFrom_cutTransition.2

/-- With no transition under way a reset leaves the serial store and LC_FUSES. -/
theorem State.systemReset_store (h : s.sec.transition = none) : s.systemReset.rst.nor = s.rst.nor ∧ s.systemReset.sec.lcFuses = s.sec.lcFuses := by
  have hnor : s.systemReset.rst.nor = s.cutTransition.rst.nor := rfl
  have hlc : s.systemReset.sec.lcFuses = s.cutTransition.sec.lcFuses := rfl
  rw [hnor, hlc, s.cutTransition_none h]
  exact ⟨rfl, rfl⟩

/-- A reset of the level, or of a higher one, in progress takes no other. -/
theorem State.take_covered {c : ResetNow} (hc : s.rst.current = some c) (hl : levelRank level ≤ levelRank c.level) : s.take level fault lockup = s := by
  simp [State.take, hc, hl]

/-- A reset is taken where none of its level or a higher one is in progress. -/
def State.takesReset (s : State) (level : ResetLevel) : Prop := ∀ c, s.rst.current = some c → levelRank c.level < levelRank level

theorem State.takesReset_of_none (h : s.rst.current = none) : s.takesReset level := fun _ hc => absurd (h.symm.trans hc) (by simp)

theorem State.takesReset_system {c : ResetNow} (hc : s.rst.current = some c) (hl : c.level = .core) : s.takesReset .system := by
  intro d hd
  obtain rfl : c = d := Option.some.inj (hc.symm.trans hd)
  rw [hl]
  decide

theorem State.not_covered (h : s.takesReset level) : ¬ (s.rst.current.map (fun c => decide (levelRank level ≤ levelRank c.level))).getD false = true := by
  cases hc : s.rst.current with
  | none => simp
  | some c => simpa using h c hc

theorem State.take_system (h : s.takesReset .system) : s.take .system false lockup = s.systemReset := if_neg (s.not_covered h)

theorem State.take_system_fault (h : s.takesReset .system) :
    s.take .system true lockup = { s.systemReset with rst := { s.systemReset.rst with pins := { s.systemReset.rst.pins with faultN := false } } } :=
  if_neg (s.not_covered h)

theorem State.take_core (h : s.rst.current = none) : s.take .core false lockup = s.coreResetNow lockup := if_neg (s.not_covered (s.takesReset_of_none h))

theorem State.take_core_fault (h : s.rst.current = none) :
    s.take .core true lockup
      = { s.coreResetNow lockup with rst := { (s.coreResetNow lockup).rst with pins := { (s.coreResetNow lockup).rst.pins with faultN := false } } } :=
  if_neg (s.not_covered (s.takesReset_of_none h))

/-- RESET_CAUSE with a source's bit set (R377). -/
def State.causedBy (s : State) (cause : Nat) : State := { s with rst := { s.rst with cause := s.rst.cause ||| BitVec.ofNat 8 (2 ^ cause) } }

theorem State.source_up (hv : s.rst.pins.vaoUp = true) : s.source level cause fault lockup = (s.causedBy cause).take level fault lockup := if_pos hv

theorem State.source_system (hv : s.rst.pins.vaoUp = true) (h : s.takesReset .system) : s.source .system cause false lockup = (s.causedBy cause).systemReset :=
  (State.source_up hv).trans ((s.causedBy cause).take_system h)

theorem State.source_core (hv : s.rst.pins.vaoUp = true) (h : s.rst.current = none) : s.source .core cause false lockup = (s.causedBy cause).coreResetNow lockup :=
  (State.source_up hv).trans ((s.causedBy cause).take_core h)

/-- A source of a reset while one of its level or above is in progress sets its bit and nothing more. -/
theorem State.source_covered {c : ResetNow} (hv : s.rst.pins.vaoUp = true) (hc : s.rst.current = some c) (hl : levelRank level ≤ levelRank c.level) :
    s.source level cause fault lockup = s.causedBy cause :=
  (s.source_up hv).trans ((s.causedBy cause).take_covered hc hl)

/-- What a source of a system reset leaves: the pins are the source's own. -/
theorem State.systemReset_causedBy :
    (s.causedBy cause).systemReset.rst.cause = s.rst.cause ||| BitVec.ofNat 8 (2 ^ cause)
    ∧ (s.causedBy cause).systemReset.rst.pins = s.rst.pins
    ∧ (s.causedBy cause).systemReset.rst.current = some { level := .system, step := 2, lastAt := s.now }
    ∧ (s.causedBy cause).systemReset.mem = (if s.clocks.thermtrip then { selfRefresh := true, cells := s.mem.cells, ue := s.mem.ue } else {})
    ∧ (s.sec.transition = none → (s.causedBy cause).systemReset.rst.nor = s.rst.nor) :=
  ⟨(s.causedBy cause).systemReset_cause, (s.causedBy cause).systemReset_pins, (s.causedBy cause).systemReset_current, (s.causedBy cause).systemReset_mem,
    fun ht => ((s.causedBy cause).systemReset_store ht).1⟩

/-- What a source that asserts FAULT_N with its system reset leaves. -/
theorem State.source_system_fault (hv : s.rst.pins.vaoUp = true) (h : s.takesReset .system) :
    (s.source .system cause true lockup).rst.cause = s.rst.cause ||| BitVec.ofNat 8 (2 ^ cause)
    ∧ (s.source .system cause true lockup).rst.pins = { s.rst.pins with faultN := false }
    ∧ (s.source .system cause true lockup).rst.current = some { level := .system, step := 2, lastAt := s.now }
    ∧ (s.source .system cause true lockup).mem = (if s.clocks.thermtrip then { selfRefresh := true, cells := s.mem.cells, ue := s.mem.ue } else {})
    ∧ (s.source .system cause true lockup).cores = {}
    ∧ (s.sec.transition = none → (s.source .system cause true lockup).rst.nor = s.rst.nor) := by
  obtain ⟨hcause, hpins, hcurrent, hmem, hnor⟩ := s.systemReset_causedBy (cause := cause)
  rw [State.source_up hv, (s.causedBy cause).take_system_fault h]
  exact ⟨hcause, congrArg (fun p : Pins => { p with faultN := false }) hpins, hcurrent, hmem, rfl, hnor⟩

theorem levelRank_le {c : ResetNow} (hl : c.level ≠ .core) : levelRank .system ≤ levelRank c.level := by
  cases h : c.level with
  | core => exact absurd h hl
  | system => decide
  | powerOn => decide

theorem levelRank_core_le {l : ResetLevel} : levelRank .core ≤ levelRank l := Nat.zero_le _

theorem next_softwareReset {l : ResetLevel} {at_ : Nat} {rest : List (ResetLevel × Nat)} (hc : Clocked s) (h : s.rst.software = (l, at_) :: rest) :
    exec .softwareResetStart s = .next (State.source { s with rst := { s.rst with software := rest }, now := max s.now at_ } l 4 false false) :=
  next_clocked hc (by simp [State.softwareReset, h, State.upTo])

theorem next_perst (h : s.rst.pins.perstAsserted = false) :
    exec .perstNAssert s = .next (State.source { s with rst := { s.rst with pins := { s.rst.pins with perstAsserted := true } } } .system 2 false false) :=
  congrArg Host.Outcome.next (if_neg (by simp [h]))

theorem next_brownOut {rail : Fin 12} (h : rail.val ≠ 10) :
    exec (.brownOut rail) s
      = .next (State.source { s with mem := s.mem.railLost rail, rst := { s.rst with pins := { s.rst.pins with railsLow := insertNat rail s.rst.pins.railsLow } } } .system 1 true false) :=
  congrArg Host.Outcome.next (if_neg h)

theorem next_debugReset {b : Bool} (h : s.sec.lifecycle = 0 ∨ s.sec.lifecycle = 1 ∨ (s.sec.lifecycle = 3 ∧ s.sec.debugOpen = true)) :
    exec (.debugResetRequest b) s = .next (s.source (if b then .system else .core) 5 false false) :=
  congrArg Host.Outcome.next (if_pos h)

theorem MemState.railLost_cells {m : MemState} {r : Nat} : (m.railLost r).cells = if memRail r then [] else m.cells := by
  unfold MemState.railLost
  split <;> rfl

theorem MemState.railLost_ue {m : MemState} {r : Nat} : (m.railLost r).ue = if memRail r then [] else m.ue := by
  unfold MemState.railLost
  split <;> rfl

end

/-- Settles O46. -/
theorem resetSourcesTakeTheirLevels : Obligations.reset_sources_take_their_levels := by
  refine ⟨⟨fun s hc ht => ?systemReset, fun s t hc ht => ?transitionReset, fun s hc => ?coreReset, fun s c hc => ?coreCovered, fun s t rest hk hs hc hv => ?software,
    fun s hp hv hc => ?perst, fun s => rfl, fun s hd hv hc => ?debugReset, fun s b hd => ?debugClosed, fun s rail hr hv hc => ?brownOut, fun s hv hc => ?clockFailure,
    fun s hv => congrArg Host.Outcome.next (if_pos hv), fun s hk hp hn hv hc => ?watchdogEarly, fun s hk hp hn hv hc => ?watchdog,
    fun s t rest hk hs hc hv => ?softwareCore, fun s c hc hl hv => ?covered, fun s c b hc hl hv hd => ?debugCovered,
    fun s c l t rest hk hc hs hv hl => ?softwareCovered, fun s c hc hl hv => ?overCore⟩,
    fun s => rfl, fun s => rfl, fun s => ⟨rfl, rfl, rfl, rfl⟩, fun s => ?powerOn, fun s => ?system⟩
  case systemReset =>
    show Host.Outcome.next (((s.sec.transitionResetAt.map s.upTo).getD s).take .system false false) = _
    rw [ht]
    exact congrArg Host.Outcome.next (State.take_system (s.takesReset_of_none hc))
  case transitionReset =>
    show Host.Outcome.next (((s.sec.transitionResetAt.map s.upTo).getD s).take .system false false) = _
    rw [ht]
    exact congrArg Host.Outcome.next (State.take_system ((s.upTo t).takesReset_of_none hc))
  case coreReset => exact congrArg Host.Outcome.next (State.take_core hc)
  case coreCovered => exact congrArg Host.Outcome.next (State.take_covered hc levelRank_core_le)
  case software =>
    exact ⟨State.causedBy { s with rst := { s.rst with software := rest }, now := max s.now t } 4,
      (next_softwareReset hk hs).trans (congrArg Host.Outcome.next (State.source_system hv (State.takesReset_of_none hc))), rfl, rfl⟩
  case perst =>
    obtain ⟨hcause, hpins, hcurrent, hmem, _⟩ :=
      State.systemReset_causedBy (cause := 2) (s := { s with rst := { s.rst with pins := { s.rst.pins with perstAsserted := true } } })
    exact ⟨_, (next_perst hp).trans (congrArg Host.Outcome.next (State.source_system hv (State.takesReset_of_none hc))), hcause, by rw [hpins], by rw [hcurrent]; rfl, hmem, rfl⟩
  case debugReset =>
    exact ⟨(next_debugReset hd).trans (congrArg Host.Outcome.next (State.source_system hv (s.takesReset_of_none hc))),
      (next_debugReset hd).trans (congrArg Host.Outcome.next (State.source_core hv hc))⟩
  case debugClosed =>
    refine congrArg Host.Outcome.next (if_neg ?_)
    obtain h | h | ⟨h, ho⟩ := hd
    · simp [h]
    · simp [h]
    · simp [h, ho]
  case brownOut =>
    have h := State.source_system_fault (cause := 1) (lockup := false)
      (s := { s with mem := s.mem.railLost rail, rst := { s.rst with pins := { s.rst.pins with railsLow := insertNat rail s.rst.pins.railsLow } } }) hv (State.takesReset_of_none hc)
    obtain ⟨hcause, hpins, _, hmem, hcores, hnor⟩ := h
    refine ⟨_, next_brownOut hr, hcause, by rw [hpins], by rw [hpins], hmem.trans ?_, hcores, hnor⟩
    simp only [MemState.railLost_cells, MemState.railLost_ue]
  case clockFailure =>
    have h := State.source_system_fault (cause := 6) (lockup := false)
      (s := { s with rst := { s.rst with pins := { s.rst.pins with referencePresent := false } } }) hv (State.takesReset_of_none hc)
    obtain ⟨hcause, hpins, _, hmem, hcores, _⟩ := h
    exact ⟨_, rfl, hcause, by rw [hpins], by rw [hpins], hmem, hcores⟩
  case watchdogEarly =>
    obtain ⟨hcause, hpins, _, hmem, hcores, _⟩ := State.source_system_fault (cause := 3) (lockup := false) hv (s.takesReset_of_none hc)
    refine ⟨_, next_clocked hk (by unfold State.lockup; rw [if_neg (by simp [hp]), if_pos hn]), hcause, by rw [hpins], ?_, hcores⟩
    rw [hmem, show s.clocks.thermtrip = false from hk]
    rfl
  case watchdog =>
    have h7 : State.causedBy s 7 = { s with rst := { s.rst with cause := s.rst.cause ||| 0x80 } } :=
      congrArg (fun b : BitVec 8 => ({ s with rst := { s.rst with cause := s.rst.cause ||| b } } : State)) (by decide)
    refine ⟨_, (s.causedBy 7).coreResetNow true, next_clocked hk ?_, congrArg (fun u => State.coreResetNow u true) h7, rfl⟩
    unfold State.lockup
    rw [if_neg (by simp [hp]), if_neg (Nat.not_lt.2 hn)]
    exact (State.source_up hv).trans ((s.causedBy 7).take_core_fault hc)
  case softwareCore => exact ⟨_, (next_softwareReset hk hs).trans (congrArg Host.Outcome.next (State.source_core hv hc)), rfl⟩
  case covered =>
    have hrank := levelRank_le hl
    refine ⟨fun ht => ?_, fun hp => (next_perst hp).trans ?_, ?_, fun rail hr => ?_⟩
    · show Host.Outcome.next (((s.sec.transitionResetAt.map s.upTo).getD s).take .system false false) = _
      rw [ht]
      exact congrArg Host.Outcome.next (State.take_covered hc hrank)
    · exact congrArg Host.Outcome.next (State.source_covered hv hc hrank)
    · exact congrArg Host.Outcome.next (State.source_covered hv hc hrank)
    · exact ⟨_, (next_brownOut hr).trans (congrArg Host.Outcome.next (State.source_covered hv hc hrank)), rfl, rfl, rfl, rfl, rfl⟩
  case debugCovered =>
    have hrank : levelRank (if b then .system else .core) ≤ levelRank c.level := by
      cases b with
      | true => exact levelRank_le hl
      | false => exact levelRank_core_le
    exact (next_debugReset hd).trans (congrArg Host.Outcome.next (State.source_covered hv hc hrank))
  case softwareCovered => exact (next_softwareReset hk hs).trans (congrArg Host.Outcome.next (State.source_covered hv hc hl))
  case overCore =>
    refine ⟨fun ht => ?_, fun hp => (next_perst hp).trans ?_, fun t rest hk hs => (next_softwareReset hk hs).trans ?_, fun rail hr => ?_⟩
    · show Host.Outcome.next (((s.sec.transitionResetAt.map s.upTo).getD s).take .system false false) = _
      rw [ht]
      exact congrArg Host.Outcome.next (State.take_system (State.takesReset_system hc hl))
    · exact congrArg Host.Outcome.next (State.source_system hv (State.takesReset_system hc hl))
    · exact congrArg Host.Outcome.next (State.source_system hv (State.takesReset_system hc hl))
    · have h := State.source_system_fault (cause := 1) (lockup := false)
        (s := { s with mem := s.mem.railLost rail, rst := { s.rst with pins := { s.rst.pins with railsLow := insertNat rail s.rst.pins.railsLow } } }) hv (State.takesReset_system hc hl)
      obtain ⟨hcause, _, hcurrent, _, hcores, _⟩ := h
      exact ⟨_, next_brownOut hr, hcause, hcurrent, hcores⟩
  case powerOn =>
    exact ⟨rfl, rfl, rfl, rfl, rfl, rfl, rfl, rfl, State.systemReset_store, State.systemReset_lcFuses, State.systemReset_svn, rfl, rfl⟩
  case system =>
    exact ⟨State.systemReset_mem, rfl, rfl, rfl, rfl, rfl, rfl, State.systemReset_cause, State.systemReset_store, State.systemReset_lcFuses, State.systemReset_svn,
      rfl, rfl, rfl, rfl⟩

end Sys2Proof.Machine
end

section
/-! PROOFS. The release of a reset, step by step, and the start of the controller (O48). -/

namespace Sys2Proof.Machine

open Sys2Proof.Safety

section
variable {s t : State} {c : ResetNow} {p : Pins} {k : Nat}

/-- The state at the moment a release step is made: its gap has passed and the next step stands. -/
def State.stepping (s : State) (c : ResetNow) : State :=
  { s.upTo (c.lastAt + stepGap c.step * 10 * nsTicks) with
    rst := { s.rst with current := c.after (c.level == .core) (max s.now (c.lastAt + stepGap c.step * 10 * nsTicks)) } }

/-- The time of the step becomes the one the next gap runs from. -/
def State.stamped (s : State) : State := { s with rst := { s.rst with current := s.rst.current.map (fun x => { x with lastAt := s.now }) } }

/-- What a release step does once its condition holds, before a core reset is left. -/
def State.stepped (s : State) (c : ResetNow) : State := (((s.stepping c).stepAct (c.level == .core) c.step).stepCores (c.level == .core) c).stamped

theorem State.releaseStep_low (hc : s.rst.current = some c) (h1 : c.step ≠ 1) (hr : s.rst.pins.railsLow ≠ []) :
    s.releaseStep = { s with rst := { s.rst with pins := s.rst.pins.raise } } := by
  unfold State.releaseStep
  rw [hc]
  exact if_pos ⟨h1, hr⟩

theorem State.releaseStep_waits (hc : s.rst.current = some c) (hr : s.rst.pins.railsLow = [] ∨ c.step = 1) (ho : s.rst.stepOk c.step = false) : s.releaseStep = s := by
  unfold State.releaseStep
  rw [hc]
  dsimp only
  rw [if_neg (by rintro ⟨h1, h2⟩; exact hr.elim h2 h1), if_pos (by simp [ho])]

theorem State.releaseStep_made (hc : s.rst.current = some c) (hr : s.rst.pins.railsLow = []) (ho : s.rst.stepOk c.step = true) :
    s.releaseStep = if c.level == .core && (s.stepped c).rst.current.isNone then (s.stepped c).coreReleased else s.stepped c := by
  unfold State.releaseStep
  rw [hc]
  dsimp only
  rw [if_neg (fun h => h.2 hr), if_neg (by simp [ho])]
  rfl

theorem State.releaseStep_device (hc : s.rst.current = some c) (hr : s.rst.pins.railsLow = []) (hl : c.level ≠ .core) (ho : s.rst.stepOk c.step = true) :
    s.releaseStep = s.stepped c :=
  (s.releaseStep_made hc hr ho).trans (if_neg (by simp [hl]))

theorem State.releaseStep_goes (hc : s.rst.current = some c) (hr : s.rst.pins.railsLow = []) (ho : s.rst.stepOk c.step = true) (hn : (s.stepped c).rst.current.isSome = true) :
    s.releaseStep = s.stepped c :=
  (s.releaseStep_made hc hr ho).trans (if_neg (by simp [Option.isSome_iff_ne_none.1 hn]))

theorem State.stepCores_other {core : Bool} (h9 : c.step ≠ 9) (h10 : c.step ≠ 10) : s.stepCores core c = s := by simp [State.stepCores, h9, h10]

/-- A step that releases no cores makes its own action and the next step stands. -/
theorem State.stepped_acts (h9 : c.step ≠ 9) (h10 : c.step ≠ 10) : s.stepped c = ((s.stepping c).stepAct (c.level == .core) c.step).stamped := by
  rw [State.stepped, State.stepCores_other h9 h10]

/-- Releasing a cluster's cores leaves all but their clocks, spares and unavailability. -/
theorem State.stepCores_frame {core : Bool} : (s.stepCores core c).rst = s.rst ∧ (s.stepCores core c).now = s.now ∧ (core = true → (s.stepCores core c).svc = s.svc) := by
  have hrel : ∀ cl, (s.releaseCores core cl).rst = s.rst ∧ (s.releaseCores core cl).now = s.now ∧ (core = true → (s.releaseCores core cl).svc = s.svc) := by
    intro cl
    cases core with
    | true =>
      obtain ⟨x, hx⟩ := s.retarget_spare (cl := cl)
      rw [show s.releaseCores true cl = s.retarget (256 + cl) from rfl, hx]
      exact ⟨rfl, rfl, fun _ => rfl⟩
    | false =>
      unfold State.releaseCores
      rw [if_neg Bool.false_ne_true]
      extract_lets d t
      obtain ⟨x, hx⟩ := State.retarget_spare (cl := cl) (s := { s with
        svc := s.svc.modSpares cl (fun _ => t.sparesAt cl d)
        cores := { s.cores with unavailable := each (((List.range 16).map (16 * cl + ·)).filter (coreLost t s.svc d)) insertNat s.cores.unavailable } })
      rw [hx]
      exact ⟨rfl, rfl, nofun⟩
  unfold State.stepCores
  split
  · exact hrel _
  · split
    · exact hrel _
    · exact ⟨rfl, rfl, fun _ => rfl⟩

theorem Pins.raise_railsLow : p.raise.railsLow = p.railsLow.filter (fun r => !((railSteps.find? (fun l => l.any p.railsLow.contains)).getD []).contains r) := rfl

/-- Every rail but the always-on one has its step of the order. -/
theorem rail_in_steps {x : Nat} (h : x < 12) (h10 : x ≠ 10) : ∃ l ∈ railSteps, x ∈ l := by
  have hall : ∀ y < 12, y ≠ 10 → ∃ l ∈ railSteps, y ∈ l := by decide
  exact hall x h h10

theorem Pins.raise_fewer (hne : p.railsLow ≠ []) (hx : ∀ x ∈ p.railsLow, x < 12 ∧ x ≠ 10) :
    p.raise.railsLow.length < p.railsLow.length ∧ ∀ x ∈ p.raise.railsLow, x ∈ p.railsLow := by
  refine ⟨?_, fun x hm => (List.mem_filter.1 hm).1⟩
  rw [Pins.raise_railsLow]
  cases hfind : railSteps.find? (fun l => l.any p.railsLow.contains) with
  | none =>
    obtain ⟨x, hxm⟩ := List.exists_mem_of_ne_nil _ hne
    obtain ⟨hlt, h10⟩ := hx x hxm
    obtain ⟨l, hl, hxl⟩ := rail_in_steps hlt h10
    exact absurd (List.any_eq_true.2 ⟨x, hxl, List.contains_iff_mem.2 hxm⟩) (List.find?_eq_none.1 hfind l hl)
  | some l =>
    have hany : l.any p.railsLow.contains = true := by simpa using List.find?_some hfind
    obtain ⟨x, hxl, hxm⟩ := List.any_eq_true.1 hany
    exact List.length_filter_lt_length_iff_exists.2 ⟨x, List.contains_iff_mem.1 hxm, by simpa using hxl⟩

/-- Rails of different steps of the order are different. -/
theorem railSteps_disjoint {i j b : Nat} (hi : b ∈ railSteps.getD i []) (hj : b ∈ railSteps.getD j []) : i = j := by
  have hlt : ∀ {n}, b ∈ railSteps.getD n [] → n < 5 := by
    intro n hn
    by_contra hge
    rw [List.getD_eq_default _ _ (show railSteps.length ≤ n from by simpa [railSteps] using hge)] at hn
    exact List.not_mem_nil hn
  have hall : ∀ i < 5, ∀ j < 5, ∀ b ∈ railSteps.getD i [], b ∈ railSteps.getD j [] → i = j := by decide
  exact hall i (hlt hi) j (hlt hj) b hi hj

/-- The rails raised first are those of the first step with a rail low: a later step's stay low. -/
theorem Pins.raise_later {a b i j : Nat} (ha : a ∈ railSteps.getD i []) (hb : b ∈ railSteps.getD j []) (hij : i < j) (hal : a ∈ p.railsLow) (hbl : b ∈ p.railsLow) :
    b ∈ p.raise.railsLow := by
  rw [Pins.raise_railsLow]
  refine List.mem_filter.2 ⟨hbl, ?_⟩
  have hi : i < railSteps.length := by
    by_contra hge
    rw [List.getD_eq_default _ _ (Nat.not_lt.1 hge)] at ha
    exact List.not_mem_nil ha
  rw [List.getD_eq_getElem _ _ hi] at ha
  cases hfind : railSteps.find? (fun l => l.any p.railsLow.contains) with
  | none => exact absurd (List.any_eq_true.2 ⟨a, ha, List.contains_iff_mem.2 hal⟩) (List.find?_eq_none.1 hfind _ (List.getElem_mem hi))
  | some l =>
    obtain ⟨hl, n, hn, hln, hbefore⟩ := List.find?_eq_some_iff_getElem.1 hfind
    have hni : n ≤ i := by
      by_contra hlt
      have hno := hbefore i (Nat.not_le.1 hlt)
      simp only [Bool.not_eq_true', List.any_eq_false] at hno
      exact hno a ha (List.contains_iff_mem.2 hal)
    have hnot : b ∉ l := by
      intro hbl'
      have hbn : b ∈ railSteps.getD n [] := by rw [List.getD_eq_getElem _ _ hn, hln]; exact hbl'
      have := railSteps_disjoint hbn hb
      omega
    simpa using hnot

theorem State.measureBoot_rst : s.measureBoot.rst = s.rst := by
  unfold State.measureBoot
  split <;> rfl

theorem State.answerStale_rst : s.answerStale.rst = s.rst := by
  have hstep : ∀ (p : Nat × Nat) (u : State), u.rst = s.rst → (u.answer p.1 p.2 (u.ctl.req p.1 p.2) { status := stBusy, detail := 1 }).rst = s.rst :=
    fun p u hu => (State.answer_rst ..).trans hu
  unfold State.answerStale
  exact each_induct (P := fun u : State => u.rst = s.rst) hstep rfl

theorem State.runFirmware_ready : (s.runFirmware k).rst.ready = true := congrArg ResetState.ready (State.answerStale_rst ..)

theorem State.recover_kept : s.recover.rst.ready = s.rst.ready ∧ s.recover.sec.recovery = true :=
  ⟨congrArg ResetState.ready s.measureBoot_rst, rfl⟩

theorem State.bootVerified_none (hr : s.rst.ready = false) (hv : s.sec.recovery = false) (hl : s.sec.lifecycle ≠ 4) (hp : s.rst.past 5 true = true) (ht : s.rst.tandemRead = true)
    (hb : s.bootSlot = none) : s.bootVerified = s.recover := by
  unfold State.bootVerified
  rw [if_neg (by simpa [hr, hv, hp, ht] using hl), hb]

theorem State.bootVerified_some (hr : s.rst.ready = false) (hv : s.sec.recovery = false) (hl : s.sec.lifecycle ≠ 4) (hc : s.rst.current = none) (ht : s.rst.tandemRead = true)
    (hf : s.rst.fastFilled = true) (hk : s.sec.attKey.isSome = true) (hb : s.bootSlot = some k) :
    s.bootVerified = if s.rst.doneDue then (s.runFirmware k).resetDone else s.runFirmware k := by
  have hp : s.rst.past 5 true = true := by simp [ResetState.past, hc]
  unfold State.bootVerified
  rw [if_neg (by simpa [hr, hv, hp, ht] using hl), hb]
  exact if_pos (by simp [hc, hf, hk])

theorem State.bootVerified_retired (hl : s.sec.lifecycle = 4) : s.bootVerified = s := if_pos (by simp [hl])

theorem State.filledTier_fast (hp : s.rst.past 7 false = true) : s.filledTier .fast = { s with rst := { s.rst with fastFilled := true } } := if_neg (by simp [hp])

theorem State.filledTier_pannier (hp : s.rst.past 7 false = true) (hf : s.rst.fastFilled = true) :
    s.filledTier (.pannier k) = { s with rst := { s.rst with pannierFilled := max s.rst.pannierFilled (min k pannierFrames) } } :=
  (if_neg (by simp [hp])).trans (if_pos hf)

theorem State.filledTier_early (hp : s.rst.past 7 false = true) (hf : s.rst.fastFilled = false) : s.filledTier (.pannier k) = s :=
  (if_neg (by simp [hp])).trans (if_neg (by simp [hf]))

end

/-- Settles O48. -/
theorem aResetIsReleasedInOrder : Obligations.a_reset_is_released_in_order := by
  refine ⟨fun s c hk hc hr ho => next_clocked hk (s.releaseStep_waits hc hr ho), fun s c hk hc hr hl hstep => ?plain, fun s c hk hc hr hl h2 hp => ?fuses,
    fun s c hk hc hr hl h14 hp => ?link, fun s c hk hc hr hl h11 => ?coreEnds, fun s c hk hc hr hl h6 => ?coreSkips, fun s c hk hc hr h9 hcl => ?cluster,
    fun s n hk hp => ?fills, fun s hk hr hv hl ht hc hf ha => ?verified, fun s k => ⟨State.runFirmware_ready, State.recover_kept⟩,
    fun s hk hr hv hl hp ht hb => next_clocked hk (State.bootVerified_none hr hv hl hp ht hb), fun s hk hl => next_clocked hk (State.bootVerified_retired hl),
    fun s c hk hc h1 hr => next_clocked hk (s.releaseStep_low hc h1 hr), fun p => Pins.raise_fewer, fun p a b i j => Pins.raise_later⟩
  case plain =>
    have hstep' : s.releaseStep = s.stepped c := by
      obtain h | h | h := hstep <;> exact s.releaseStep_device hc hr hl (by rw [h]; rfl)
    refine next_clocked hk (hstep'.trans ?_)
    rw [State.stepped_acts (by omega) (by omega)]
    obtain ⟨level, step, cluster, lastAt⟩ := c
    have hcore : (level == ResetLevel.core) = false := by simpa using hl
    obtain rfl | rfl | rfl := hstep
    all_goals
      simp only [State.stamped, State.stepping, ResetNow.after, hcore]
      rfl
  case fuses =>
    obtain ⟨level, step, cluster, lastAt⟩ := c
    obtain rfl : step = 2 := h2
    have hcore : (level == ResetLevel.core) = false := by simpa using hl
    refine ⟨_, next_clocked hk ((s.releaseStep_device hc hr hl (by simp [ResetState.stepOk, hp, hr])).trans (State.stepped_acts (by simp) (by simp))), rfl, rfl, ?_⟩
    simp only [State.stamped, State.stepping, ResetNow.after, hcore]
    rfl
  case link =>
    obtain ⟨level, step, cluster, lastAt⟩ := c
    obtain rfl : step = 14 := h14
    have hcore : (level == ResetLevel.core) = false := by simpa using hl
    refine ⟨_, next_clocked hk ((s.releaseStep_device hc hr hl (by simp [ResetState.stepOk, hp])).trans (State.stepped_acts (by simp) (by simp))), ?_, rfl, rfl, rfl⟩
    simp only [State.stamped, State.stepping, ResetNow.after, hcore]
    rfl
  case coreEnds =>
    obtain ⟨level, step, cluster, lastAt⟩ := c
    obtain rfl : level = .core := hl
    obtain rfl : step = 11 := h11
    have hs := State.stepped_acts (s := s) (c := ⟨.core, 11, cluster, lastAt⟩) (by simp) (by simp)
    refine ⟨State.coreReleased (State.stamped (State.stepping s ⟨.core, 11, cluster, lastAt⟩)), next_clocked hk ((s.releaseStep_made hc hr rfl).trans ?_), rfl, rfl, rfl⟩
    rw [hs]
    exact if_pos rfl
  case coreSkips =>
    obtain ⟨level, step, cluster, lastAt⟩ := c
    obtain rfl : level = .core := hl
    obtain rfl : step = 6 := h6
    have hs := State.stepped_acts (s := s) (c := ⟨.core, 6, cluster, lastAt⟩) (by simp) (by simp)
    exact ⟨_, next_clocked hk ((s.releaseStep_goes hc hr rfl (by rw [hs]; rfl)).trans hs), rfl⟩
  case cluster =>
    obtain ⟨level, step, cluster, lastAt⟩ := c
    obtain rfl : step = 9 := h9
    let c : ResetNow := ⟨level, 9, cluster, lastAt⟩
    obtain ⟨hrst, hnow, hsvc⟩ := State.stepCores_frame (s := s.stepping c) (c := c) (core := level == .core)
    have hcur : (s.stepped c).rst.current = some { level := level, step := 9, cluster := cluster + 1, lastAt := max s.now (lastAt + 640 * nsTicks) } := by
      have hdef : (s.stepped c).rst.current
          = ((s.stepping c).stepCores (level == ResetLevel.core) c).rst.current.map (fun x => { x with lastAt := ((s.stepping c).stepCores (level == ResetLevel.core) c).now }) := rfl
      rw [hdef, hrst, hnow]
      simp only [State.stepping, ResetNow.after]
      rw [if_pos ⟨rfl, hcl⟩]
      rfl
    exact ⟨s.stepped c, next_clocked hk (s.releaseStep_goes hc hr rfl (by rw [hcur]; rfl)), hcur, fun hl => congrArg SvcState.spares (hsvc (by rw [show level = .core from hl]; rfl))⟩
  case fills =>
    exact ⟨next_clocked hk (State.filledTier_fast hp), fun hf => next_clocked hk (State.filledTier_pannier hp hf), fun hf => next_clocked hk (State.filledTier_early hp hf)⟩
  case verified =>
    refine next_clocked hk ?_
    cases hb : s.bootSlot with
    | none => exact State.bootVerified_none hr hv hl (by simp [ResetState.past, hc]) ht hb
    | some k => exact State.bootVerified_some hr hv hl hc ht hf ha hb

end Sys2Proof.Machine
end

section
/-! PROOFS. Attestation by commands and over the management bus (O49). -/

namespace Sys2Proof.Machine

open Sys2Proof.Safety

section
variable {s : State} {q : Req} {k : AttKey} {x : List Byte} {c : CmdRef} {f : Nat} {p : MgmtPath}

/-- Leaving L1 drains the rings and sends what is held: the controller's and the host's part alone change. -/
theorem State.wake_frame : ∃ (c : CtlState) (h : HostState), s.wake = { s with ctl := c, host := h } := by
  unfold State.wake
  split
  · exact List.foldlRecOn (List.range 16) _ (motive := fun t : State => ∃ (c : CtlState) (h : HostState), t = { s with ctl := c, host := h }) ⟨_, _, rfl⟩
      fun t ⟨c, h, ht⟩ f _ => by subst ht; exact ⟨_, _, rfl⟩
  · exact ⟨_, _, rfl⟩

theorem State.arrives_frame : ∃ (c : CtlState) (h : HostState), s.arrives p = { s with ctl := c, host := h } := by
  cases p with
  | i3c => exact ⟨_, _, rfl⟩
  | vdm v => exact s.wake_frame

theorem State.arrives_sec : (s.arrives p).sec = s.sec := by
  obtain ⟨c, h, ht⟩ := s.arrives_frame (p := p)
  rw [ht]

theorem State.arrives_rst : (s.arrives p).rst = s.rst := by
  obtain ⟨c, h, ht⟩ := s.arrives_frame (p := p)
  rw [ht]

theorem measurementRow_some (h : s.sec.log[q.u32 0]? = some x) : measurementRow q s = (s, { reply := x }) := by simp [measurementRow, h]

theorem measurementRow_none (h : s.sec.log.length ≤ q.u32 0) : measurementRow q s = (s, { status := stBadField, detail := 0x10 }) := by
  simp [measurementRow, List.getElem?_eq_none h, badField]

/-- The first quote of an idle service takes the key's next index and its signing starts. -/
theorem State.nextQuote_first {nonce : List Byte} {buffer : Nat} (hs : s.ctl.services = []) (hk : s.sec.attKey = some k) (hi : k.nextIndex < 1024) :
    (s.addService q (.quote nonce buffer none)).nextQuote = { s with
      sec := { s.sec with attKey := some { k with nextIndex := k.nextIndex + 1 } }
      ctl := { s.ctl with services := [(q.cmd, .quote nonce buffer (some k.nextIndex))] } } := by
  have hadd : s.addService q (.quote nonce buffer none) = { s with ctl := { s.ctl with services := [(q.cmd, .quote nonce buffer none)] } } := by
    simp [State.addService, hs]
  rw [hadd]
  simp [State.nextQuote, CtlState.signing, CtlState.unsigned, hk, hi, mapIf, ServiceJob.signed, SecState.takeIndex]

theorem quoteRow_signs (hl : s.sec.lifecycle ≠ 0) (hb : 2628 ≤ q.u64 0x28) (hk : s.sec.attKey = some k) (hu : k.usable = true) (hs : s.ctl.services = []) :
    quoteRow q s = ({ s with
      sec := { s.sec with attKey := some { k with nextIndex := k.nextIndex + 1 } }
      ctl := { s.ctl with services := [(q.cmd, .quote (sliceAt q.params 0 32) (q.u64 0x20) (some k.nextIndex))] } }, { status := stAccepted }) := by
  have hi : k.nextIndex < 1024 := by
    simp only [AttKey.usable, Bool.and_eq_true, decide_eq_true_eq] at hu
    exact hu.2
  unfold quoteRow
  rw [if_neg hl, if_neg (Nat.not_lt.2 hb), if_neg (by simp [hk, hu]), State.nextQuote_first hs hk hi]

theorem quoteRow_noKey (hl : s.sec.lifecycle ≠ 0) (hb : 2628 ≤ q.u64 0x28) (hk : s.sec.attKey = none) : quoteRow q s = (s, { status := stKeyExhausted }) := by
  unfold quoteRow
  rw [if_neg hl, if_neg (Nat.not_lt.2 hb), if_pos (by simp [hk])]

/-- The only signing under way ends with its quote delivered, and the next quote starts. -/
theorem State.quoteSigned_only {nonce : List Byte} {buffer ix : Nat} (hs : s.ctl.services = [(c, .quote nonce buffer (some ix))]) (hf : c.fn = f) (hk : s.sec.attKey = some k) :
    s.quoteSigned f = (State.deliver { s with ctl := { s.ctl with services := [] } } c buffer (s.quoteBytes k f ix nonce)).nextQuote := by
  simp [State.quoteSigned, CtlState.signing, hs, hk, hf]

theorem certificateRow_some (hl : s.sec.lifecycle ≠ 0) (hx : s.sec.certificate = some x) :
    certificateRow q s = if q.u64 8 < (certificates x).length then (s, { status := stNoMemory }) else (s.addService q (.certificate (q.u64 0)), { status := stAccepted }) := by
  unfold certificateRow
  rw [if_neg hl, hx]

theorem certificateRow_blank (hl : s.sec.lifecycle = 0) : certificateRow q s = (s, { status := stLifecycle }) := if_pos hl

theorem State.certificateWritten_only {buffer : Nat} (hs : s.ctl.services = [(c, .certificate buffer)]) (hf : c.fn = f) (hx : s.sec.certificate = some x) :
    s.certificateWritten f = State.deliver { s with ctl := { s.ctl with services := [] } } c buffer (certificates x) := by
  simp [State.certificateWritten, hs, hf, hx]

theorem logRow_accepted (h : q.u64 16 ≠ 0) : logRow q s = (s.addService q (.logRead (q.u64 0) (q.u64 8) (q.u64 16)), { status := stAccepted }) := if_neg h

theorem State.logDone_only {offset buffer size : Nat} (hs : s.ctl.services = [(c, .logRead offset buffer size)]) (hf : c.fn = f) :
    s.logDone f = State.deliver { s with ctl := { s.ctl with services := [] } } c buffer (s.rst.norRead (norLog + offset) size) := by
  simp [State.logDone, hs, hf]

theorem State.deliver_ok {buffer : Nat} {u : State} (hw : s.writeVirt c.fn buffer x = .ok u) : s.deliver c buffer x = u.complete c { arg0 := x.length } := by
  simp [State.deliver, hw]

theorem State.deliver_error {buffer : Nat} {e : Args} (hw : s.writeVirt c.fn buffer x = .error e) : s.deliver c buffer x = (s.noteBad e).complete c e := by
  simp [State.deliver, hw]

theorem State.attest_certified (hl : s.sec.lifecycle = 1 ∨ s.sec.lifecycle = 2 ∨ s.sec.lifecycle = 3) (hh : s.highWater < 2 ^ 20) :
    s.attest.sec.attKey = some { draw := s.freeCtr, certificate := some (State.certify { s with freeCtr := s.freeCtr + 3 } s.freeCtr s.highWater) }
    ∧ s.attest.sec.pool = some (s.highWater + 1, s.highWater + 64) ∧ s.attest.sec.ringMark = s.highWater + 64 := by
  have hno : ¬ (s.sec.lifecycle = 0 ∨ s.sec.lifecycle = 4 ∨ 2 ^ 20 ≤ s.highWater) := by
    rintro (h | h | h)
    · rw [h] at hl
      exact absurd hl (by decide)
    · rw [h] at hl
      exact absurd hl (by decide)
    · exact absurd h (Nat.not_le.2 hh)
  unfold State.attest
  dsimp only
  rw [if_neg hno]
  exact ⟨rfl, rfl, rfl⟩

/-- A request heard over the management bus acts on the device it has woken. -/
theorem next_vendor {act : State → State} (hk : Clocked s) (hh : s.hears p false = true) :
    (.next (s.clocked (fun s => s.vendor p act)) : Host.Outcome State Fault Refusal) = .next (act (s.arrives p)) :=
  next_clocked hk (if_pos hh)

theorem State.getMeasurement_some {i : Nat} (h : s.sec.log[i]? = some x) : s.getMeasurement p i = s.replies (.mctp (pathPackets p x)) := by
  simp [State.getMeasurement, h]

theorem State.getMeasurement_none {i : Nat} (h : s.sec.log.length ≤ i) : s.getMeasurement p i = s.replies (.refused (BitVec.ofNat 16 stBadField)) := by
  simp [State.getMeasurement, List.getElem?_eq_none h]

theorem State.getQuote_signs {nonce : List Byte} (hl : s.sec.lifecycle ≠ 0) (hk : s.sec.attKey = some k) (hu : k.usable = true) :
    s.getQuote p nonce = State.replies { s with sec := { s.sec with attKey := some { k with nextIndex := k.nextIndex + 1 } } }
      (.mctp (pathPackets p (s.quoteBytes k (pathSource p) k.nextIndex nonce))) := by
  unfold State.getQuote
  rw [if_neg hl, hk]
  dsimp only
  rw [if_pos hu]
  simp [SecState.takeIndex, hk]

theorem State.getQuote_noKey {nonce : List Byte} (hl : s.sec.lifecycle ≠ 0) (hk : s.sec.attKey = none) :
    s.getQuote p nonce = s.replies (.refused (BitVec.ofNat 16 stKeyExhausted)) := by
  unfold State.getQuote
  rw [if_neg hl, hk]

theorem State.getCertificate_some (hl : s.sec.lifecycle ≠ 0) (hx : s.sec.certificate = some x) :
    s.getCertificate p = s.replies (.mctp (pathPackets p (certificates x))) := by
  unfold State.getCertificate
  rw [if_neg hl, hx]

end

/-- Settles O49. -/
theorem attestationCommands : Obligations.attestation_commands := by
  refine ⟨⟨fun s f m r h hr => congrArg Host.Outcome.next (serve_of_admitted h (measurementRow_some hr) rfl),
    fun s f m h hr => congrArg Host.Outcome.next (serve_refused_of_admitted h (measurementRow_none hr) (by decide)),
    fun s f m k p h hl hb hk hu hs hp => ?quote, fun s f m h hl hb hk => congrArg Host.Outcome.next (serve_refused_of_admitted h (quoteRow_noKey hl hb hk) (by decide)),
    fun s f c k nonce buffer ix hc hs hf hk => ?signed, fun s f m x h hl hx => ?certificate,
    fun s f m h hl => congrArg Host.Outcome.next (serve_refused_of_admitted h (certificateRow_blank hl) (by decide)),
    fun s f c x buffer hc hs hf hx => ?written, fun s f m h hz => congrArg Host.Outcome.next (serve_accepted_of_admitted h rfl (logRow_accepted hz) rfl),
    fun s u f c offset buffer size hc hs hf hw => ?log, fun s hc hp ht hk hl hh => ?attested⟩,
    fun s p i hc hh => ⟨fun r hr => ?measured, fun hr => ?unmeasured⟩, fun s p nonce hc hh hl => ⟨fun k hk hu => ?busQuote, fun hk => ?busNoKey⟩,
    fun s p hc hh hl x hx => ?busCertificate, fun s p nonce hc hh hl => ?busBlank, fun s p i nonce hc hh => ?unheard⟩
  case quote =>
    subst hp
    exact congrArg Host.Outcome.next (serve_accepted_of_admitted h rfl (quoteRow_signs hl hb hk hu hs) rfl)
  case signed =>
    refine next_clocked hc ((State.quoteSigned_only hs hf hk).trans (congrArg State.nextQuote ?_))
    split
    next u hw => exact State.deliver_ok (by rw [hf]; exact hw)
    next e hw => exact State.deliver_error (by rw [hf]; exact hw)
  case certificate =>
    by_cases hb : (s.ctl.req f m).u64 8 < (certificates x).length
    · rw [if_pos hb]
      exact congrArg Host.Outcome.next (serve_refused_of_admitted h ((certificateRow_some hl hx).trans (if_pos hb)) (by decide))
    · rw [if_neg hb]
      exact congrArg Host.Outcome.next (serve_accepted_of_admitted h rfl ((certificateRow_some hl hx).trans (if_neg hb)) rfl)
  case written =>
    refine next_clocked hc ((State.certificateWritten_only hs hf hx).trans ?_)
    split
    next u hw => exact State.deliver_ok (by rw [hf]; exact hw)
    next e hw => exact State.deliver_error (by rw [hf]; exact hw)
  case log =>
    exact next_clocked hc ((State.logDone_only hs hf).trans (State.deliver_ok hw))
  case attested =>
    obtain ⟨hkey, hpool, hmark⟩ := State.attest_certified hl hh
    exact ⟨s.attest, _, next_clocked hc (if_pos (by simp [hp, ht, hk])), hkey, rfl, rfl, hpool, hmark⟩
  case measured => exact (next_vendor hc hh).trans (congrArg Host.Outcome.next (State.getMeasurement_some (by rw [State.arrives_sec]; exact hr)))
  case unmeasured => exact (next_vendor hc hh).trans (congrArg Host.Outcome.next (State.getMeasurement_none (by rw [State.arrives_sec]; exact hr)))
  case busQuote =>
    refine (next_vendor hc hh).trans (congrArg Host.Outcome.next ((State.getQuote_signs (by rw [State.arrives_sec]; exact hl) (by rw [State.arrives_sec]; exact hk) hu).trans ?_))
    rw [State.arrives_sec]
  case busNoKey =>
    exact (next_vendor hc hh).trans (congrArg Host.Outcome.next (State.getQuote_noKey (by rw [State.arrives_sec]; exact hl) (by rw [State.arrives_sec]; exact hk)))
  case busCertificate =>
    exact (next_vendor hc hh).trans (congrArg Host.Outcome.next (State.getCertificate_some (by rw [State.arrives_sec]; exact hl) (by rw [State.arrives_sec]; exact hx)))
  case busBlank =>
    have hblank : (s.arrives p).sec.lifecycle = 0 := by rw [State.arrives_sec]; exact hl
    exact ⟨(next_vendor hc hh).trans (congrArg Host.Outcome.next (if_pos hblank)), (next_vendor hc hh).trans (congrArg Host.Outcome.next (if_pos hblank))⟩
  case unheard =>
    have hno : ∀ act : State → State, s.vendor p act = s := fun act => if_neg (by simp [hh])
    exact ⟨next_clocked hc (hno _), next_clocked hc (hno _), next_clocked hc (hno _)⟩

end Sys2Proof.Machine
end

section
/-! PROOFS. The life cycle advances (O50). -/

namespace Sys2Proof.Machine

open Sys2Proof.Safety

section
variable {s : State} {q : Req} {a : List Byte} {n : Nat}

/-- RETIRED may be entered from every other state, with no authorisation (Table 19.3). -/
theorem transition_retired (h : n < 4) : transition n 4 = some false := if_pos ⟨rfl, h⟩

theorem advanceRow_none (h : transition s.sec.lifecycle.toNat (q.u32 0) = none) : advanceRow q s = (s, { status := stLifecycle }) := by
  unfold advanceRow
  dsimp only
  rw [h]

/-- An unauthorised transition is accepted with a SIZE of 0. -/
theorem advanceRow_free (h : transition s.sec.lifecycle.toNat (q.u32 0) = some false) (ht : s.sec.transition = none) (hr : s.sec.transitionResetAt = none) (hz : q.u64 16 = 0) :
    advanceRow q s = ({ s with sec := { s.sec with transition := some (BitVec.ofNat 3 (q.u32 0), q.cmd) } }, { status := stAccepted }) := by
  unfold advanceRow
  dsimp only
  rw [h]
  dsimp only
  rw [if_neg (by simp [ht, hr]), if_neg (by simp [hz])]
  rfl

theorem advanceRow_signed (h : transition s.sec.lifecycle.toNat (q.u32 0) = some true) (ht : s.sec.transition = none) (hr : s.sec.transitionResetAt = none) (hz : q.u64 16 = 2948)
    (ha : readVirt s.mem s.pages q.fn (q.u64 8) 2948 = .ok a) :
    advanceRow q s = if authorises a s.sec.lifecycle.toNat (q.u32 0) (List.replicate 32 0)
      then ({ s with sec := { s.sec with transition := some (BitVec.ofNat 3 (q.u32 0), q.cmd) } }, { status := stAccepted }) else (s, { status := stSignature }) := by
  unfold advanceRow
  dsimp only
  rw [h]
  dsimp only
  rw [if_neg (by simp [ht, hr]), if_neg (by simp [hz]), if_neg (by simp), ha]

/-- Entering MAKER: the identity seeds are drawn once, the root burned, the traversal stored, the first group burned. -/
theorem State.transitionActions_one : (s.transitionActions 1).sec.lcFuses = s.sec.lcFuses ||| 0x000F
    ∧ (s.sec.identitySeed ≠ 0 → (s.transitionActions 1).sec.identitySeed = s.sec.identitySeed)
    ∧ Burns s.sec.identitySeed (s.transitionActions 1).sec.identitySeed ∧ Burns s.sec.identityRoot (s.transitionActions 1).sec.identityRoot := by
  obtain ⟨hseed, hroot⟩ : Burns s.sec.identitySeed (s.transitionActions 1).sec.identitySeed ∧ Burns s.sec.identityRoot (s.transitionActions 1).sec.identityRoot :=
    ⟨(Keeps.refl (s := s)).transitionActions.sec.identitySeed, (Keeps.refl (s := s)).transitionActions.sec.identityRoot⟩
  have hlc : s.drawIdentity.sec.lcFuses = s.sec.lcFuses := by
    unfold State.drawIdentity
    split <;> rfl
  refine ⟨?_, fun hne => ?_, hseed, hroot⟩
  · show s.drawIdentity.sec.lcFuses ||| BitVec.ofNat 16 (15 * 2 ^ (4 * 0)) = _
    rw [hlc]
    rfl
  · show s.drawIdentity.sec.identitySeed = _
    rw [State.drawIdentity, if_neg hne]

theorem State.transitionActions_two : (s.transitionActions 2).sec.lcFuses = s.sec.lcFuses ||| 0x00F0 ∧ Burns s.sec.ownerSeed (s.transitionActions 2).sec.ownerSeed
    ∧ (s.transitionActions 2).sec.identitySeed = s.sec.identitySeed :=
  ⟨rfl, (Keeps.refl (s := s)).transitionActions.sec.ownerSeed, rfl⟩

theorem State.transitionActions_three : (s.transitionActions 3).sec.lcFuses = s.sec.lcFuses ||| 0x0F00 ∧ (s.transitionActions 3).sec.ownerSeed = BitVec.allOnes 256
    ∧ (s.transitionActions 3).mem.sealKeys = [] := ⟨rfl, rfl, rfl⟩

theorem burned_eq {w : Nat} : burned w = BitVec.allOnes w := rfl

theorem State.transitionActions_four : (s.transitionActions 4).sec.lcFuses = 0xFFFF ∧ (s.transitionActions 4).sec.identitySeed = BitVec.allOnes 768
    ∧ (s.transitionActions 4).sec.ownerSeed = BitVec.allOnes 256 ∧ (s.transitionActions 4).mem.sealKeys = [] := by
  rw [← burned_eq (w := 768)]
  exact ⟨rfl, rfl, rfl, rfl⟩

/-- The transition's actions done, it is no longer under way and its system reset is due 10 us later. -/
def State.transitioned (s : State) (n : Nat) : State :=
  { s.transitionActions n with sec := { (s.transitionActions n).sec with transition := none, transitionResetAt := some ((s.transitionActions n).now + 10 * usTicks) } }

theorem State.transitioned_kept : (s.transitioned n).sec.lcFuses = (s.transitionActions n).sec.lcFuses
    ∧ (s.transitioned n).sec.identitySeed = (s.transitionActions n).sec.identitySeed ∧ (s.transitioned n).sec.ownerSeed = (s.transitionActions n).sec.ownerSeed
    ∧ (s.transitioned n).mem = (s.transitionActions n).mem := ⟨rfl, rfl, rfl, rfl⟩

theorem State.transitionDone_some {to_ : BitVec 3} {c : CmdRef} (h : s.sec.transition = some (to_, c)) : s.transitionDone = (s.transitioned to_.toNat).complete c {} := by
  unfold State.transitionDone
  rw [h]
  rfl

theorem State.transitionActions_now : (s.transitionActions n).now = s.now := by
  rw [burntFrom_transitionActions.1]

theorem State.transitioned_resetAt : (s.transitioned n).sec.transitionResetAt = some (s.now + 10 * usTicks) :=
  congrArg (fun t => some (t + 10 * usTicks)) s.transitionActions_now

theorem State.debugUnlock_refused (h : s.sec.lifecycle ≠ 3 ∨ authorises a 3 3 s.sec.challenge = false) : s.debugUnlock a = s := by
  refine if_neg ?_
  rintro ⟨hl, _, _, _, ha⟩
  exact h.elim (fun hn => hn hl) (fun hn => absurd (ha.symm.trans hn) (by simp))

theorem State.debugUnlock_open (hl : s.sec.lifecycle = 3) (ho : s.sec.ownerSeed = BitVec.allOnes 256) (hf : s.rst.fastFilled = true) (hp : s.rst.pannierFilled = pannierFrames)
    (ha : authorises a 3 3 s.sec.challenge = true) : s.debugUnlock a = { s with sec := { s.sec with debugOpen := true } } :=
  if_pos ⟨hl, ho, hf, hp, ha⟩

end

/-- Settles O50. -/
theorem theLifeCycleAdvances : Obligations.the_life_cycle_advances := by
  refine ⟨fun s f m h ht => congrArg Host.Outcome.next (serve_refused_of_admitted h (advanceRow_none ht) (by decide)),
    fun s f m h h4 hl ht hr hz => ?retire, fun s f m a h ht hn hr hz ha => ?signed, fun s to_ c hc ht => ?done, fun s a hc hl ho hf hp => ?unlock, fun s a h => ?refused⟩
  case retire =>
    have htr : transition s.sec.lifecycle.toNat ((s.ctl.req f m).u32 0) = some false := by rw [h4]; exact transition_retired hl
    refine (congrArg Host.Outcome.next (serve_accepted_of_admitted h rfl (advanceRow_free htr ht hr hz) rfl)).trans ?_
    rw [h4]
    rfl
  case signed =>
    have hrow := advanceRow_signed ht hn hr hz ha
    by_cases hauth : authorises a s.sec.lifecycle.toNat ((s.ctl.req f m).u32 0) (List.replicate 32 0) = true
    · rw [if_pos hauth]
      exact congrArg Host.Outcome.next (serve_accepted_of_admitted h rfl (hrow.trans (if_pos hauth)) rfl)
    · rw [if_neg hauth]
      exact congrArg Host.Outcome.next (serve_refused_of_admitted h (hrow.trans (if_neg hauth)) (by decide))
  case done =>
    refine ⟨s.transitioned to_.toNat, next_clocked hc (State.transitionDone_some ht), rfl, State.transitioned_resetAt, ?_, ?_, ?_, ?_⟩
    · rintro rfl
      obtain ⟨hlc, hkeep, hseed, hroot⟩ := s.transitionActions_one
      refine ⟨hlc, hkeep, (BitVec.and_comm ..).trans hseed, (BitVec.and_comm ..).trans hroot⟩
    · rintro rfl
      obtain ⟨hlc, howner, hseed⟩ := s.transitionActions_two
      exact ⟨hlc, (BitVec.and_comm ..).trans howner, hseed⟩
    · rintro rfl
      exact s.transitionActions_three
    · rintro rfl
      obtain ⟨hlc, hseed, howner, hmem⟩ := s.transitioned_kept (n := 4)
      obtain ⟨hlc4, hseed4, howner4, hkeys4⟩ := s.transitionActions_four
      exact ⟨hlc.trans hlc4, hseed.trans hseed4, howner.trans howner4, (congrArg MemState.sealKeys hmem).trans hkeys4⟩
  case unlock =>
    refine next_clocked hc ?_
    cases ha : authorises a 3 3 s.sec.challenge with
    | true => exact State.debugUnlock_open hl ho hf hp ha
    | false => exact State.debugUnlock_refused (.inr ha)
  case refused =>
    refine congrArg Host.Outcome.next ?_
    unfold State.clocked
    split
    · rfl
    · exact State.debugUnlock_refused h

end Sys2Proof.Machine
end

section
/-! PROOFS. A function-level reset of PF0 resets the virtual functions first (O53). -/

namespace Sys2Proof.Machine

open Sys2Proof.Safety

section
variable {s t : State} {h : HostState} {c : CtlState} {f v now : Nat} {r : RingState} {e : Entry}

theorem HostState.signal_flrWaiting : (h.signal f v).flrWaiting = h.flrWaiting := by
  unfold HostState.signal
  dsimp only
  split <;> rfl

theorem moderate_flrWaiting : (moderate now f r h).2.flrWaiting = h.flrWaiting := by
  unfold moderate
  split
  · exact HostState.signal_flrWaiting
  · rfl

theorem writeEntry_flrWaiting : (writeEntry now f e r h).2.flrWaiting = h.flrWaiting := moderate_flrWaiting

theorem postEntry_flrWaiting : (postEntry now f e c h).2.flrWaiting = h.flrWaiting := by
  unfold postEntry
  dsimp only
  split
  · exact writeEntry_flrWaiting
  · split <;> rfl

theorem State.post_flrWaiting : (s.post f e).host.flrWaiting = s.host.flrWaiting := postEntry_flrWaiting

theorem State.complete_flrWaiting {cmd : CmdRef} {a : Args} : (s.complete cmd a).host.flrWaiting = s.host.flrWaiting := by
  unfold State.complete
  split
  · exact State.post_flrWaiting
  · rfl

theorem State.tableMet_flrWaiting {g : Option Nat} : (s.tableMet g).host.flrWaiting = s.host.flrWaiting := by
  cases g with
  | none => rfl
  | some g =>
    have hbad : (s.noteBad (accErr stUncorrectable 0 g 1)).host = s.host := by
      unfold State.noteBad
      split <;> rfl
    exact State.post_flrWaiting.trans (congrArg HostState.flrWaiting hbad)

theorem State.orphan_flrWaiting : (s.orphan f).host.flrWaiting = s.host.flrWaiting := by
  unfold State.orphan
  split
  · rfl
  · refine State.tableMet_flrWaiting.trans ?_
    dsimp only
    split <;> rfl

theorem State.sealRemoved_flrWaiting : (s.sealRemoved f).host.flrWaiting = s.host.flrWaiting := by
  unfold State.sealRemoved
  split
  · rfl
  · dsimp only
    split
    · exact State.complete_flrWaiting
    · rfl

theorem State.unsealAll_flrWaiting : (s.unsealAll f).host.flrWaiting = s.host.flrWaiting :=
  each_induct (P := fun t : State => t.host.flrWaiting = s.host.flrWaiting)
    (f := fun i s => if s.mem.removals.any (fun r => r.entry == i) then s.sealRemoved i else { s with mem := s.mem.unseal i })
    (fun i t ht => by
      split
      · exact State.sealRemoved_flrWaiting.trans ht
      · exact ht) rfl

/-- The end of a function's reset leaves the resets that wait, and the function no longer in its own. -/
theorem State.flrCleared_host : (s.flrCleared f).host.flrWaiting = s.host.flrWaiting ∧ (twf {} s.host.fns = true → ((s.flrCleared f).host.fn f).flr = none) := by
  unfold State.flrCleared
  extract_lets r t cores u v w
  refine ⟨?_, fun hw => ?_⟩
  · show v.host.flrWaiting = _
    exact State.unsealAll_flrWaiting.trans State.orphan_flrWaiting
  · have ht : Keeps s t := (Keeps.refl (s := s)).setCtx.scrubAllot
    have hu : Keeps s u := .withCores ht ht.cores.emptySlots
    have hv : Keeps s v := ((hu.withPages hu.pages.empty).orphan).unsealAll
    show (tget {} (tset {} v.host.fns f (w.host.fn f).afterFlr) f).flr = none
    rw [tget_tset_same (hv.host.fns hw)]
    rfl

theorem State.flrStart_pf0 (hr : s.host.resetting 0 = false) :
    s.flrStart 0 = State.flrNext { s with host := { s.host with vfsEnabled := 0, flrWaiting := s.host.vfs.filter (fun g => (s.host.fn g).flr.isNone) ++ [0] } } := by
  unfold State.flrStart
  rw [if_neg (by simp [hr]), if_pos rfl]

/-- With no VF in its own reset the first that waits begins. -/
theorem State.flrNext_begins {rest : List Nat} (hw : s.host.flrWaiting = f :: rest) (hn : ∀ i < 15, (s.host.fn (i + 1)).flr = none) :
    s.flrNext = State.flrBegin f { s with host := { s.host with flrWaiting := rest } } := by
  have hany : ¬ (List.range 15).any (fun i => (s.host.fn (i + 1)).flr.isSome) = true := by
    simp only [List.any_eq_true, List.mem_range, not_exists, not_and]
    intro i hi
    simp [hn i hi]
  unfold State.flrNext
  rw [hw]
  exact if_neg hany

/-- While a VF is in its own reset none of those that wait begins. -/
theorem State.flrNext_waits {i : Nat} (hi : i < 15) (hr : (s.host.fn (i + 1)).flr.isSome = true) : s.flrNext = s := by
  unfold State.flrNext
  split
  · rfl
  · exact if_pos (List.any_eq_true.2 ⟨i, List.mem_range.2 hi, hr⟩)

theorem State.flrBegin_again (hr : (s.host.fn f).flr.isSome = true) : State.flrBegin f s = s := if_pos hr

end

/-- Settles O53. -/
theorem anFlrOfPf0ResetsTheVfsFirst : Obligations.an_flr_of_pf0_resets_the_vfs_first := by
  refine ⟨fun s u hc hf hr hu => ?begins, fun s f rest hw hn => State.flrNext_begins hw hn, fun s i hi hr => State.flrNext_waits hi hr, fun s f hc hr hd => ?ends,
    fun s f hc hf hr => next_configure hc hf (State.flrStart_resetting hr), fun s f hr => State.flrBegin_again hr⟩
  case begins =>
    subst hu
    exact next_configure hc hf (State.flrStart_pf0 hr)
  case ends =>
    exact ⟨s.flrCleared f, next_clocked hc ((if_pos (by simp [hr, hd])).trans State.flrEnd_eq), State.flrCleared_host⟩

end Sys2Proof.Machine
end

section
/-! PROOFS. Trim, the tandem store and firmware updates (O51): refuted where the count of records is full. -/

namespace Sys2Proof.Machine

/-- The count of measurement records saturates: a record more leaves it at its greatest value. -/
theorem measure_records_full {c : SecState} {ns kind slot major minor sv : Nat} {d : List Byte} (h : c.records = 0xFFFFFFFF) :
    (c.measure ns kind slot major minor sv d).records = 0xFFFFFFFF := by
  show satAdd c.records 1 = _
  rw [h]
  decide

/-- Refutes O51: `SecState.measure` adds to the count of records with `satAdd`, so on a count of 2^32 - 1 it stays there, where the last clause has `records + 1`, which is 0. -/
theorem not_trimAndTandemStore : ¬ Obligations.trim_and_tandem_store := by
  intro h
  obtain ⟨_, _, _, _, _, _, _, hmeasure⟩ := h
  obtain ⟨_, hrecords, _⟩ := hmeasure { records := 0xFFFFFFFF } 0 0 0 0 0 0 [] (by decide)
  rw [measure_records_full rfl] at hrecords
  exact absurd hrecords (by decide)

end Sys2Proof.Machine
end
